-- ==== Sys2Proof/Word.lean ====
section
/-! DEFINITION. The word types of the block: registers are 64 bits wide, memory is byte addressed (00_scope.md, R3, R5). -/

namespace Sys2Proof

/-- A byte of memory, of a descriptor or of a frame. -/
abbrev Byte := BitVec 8

/-- A 32-bit lane or accumulator value (04_matrix_engine.md, R95). -/
abbrev Word32 := BitVec 32

/-- A register of the block or of an aide (00_scope.md "Registers"; 06, R157). -/
abbrev Word64 := BitVec 64

/-- A byte string, first byte first. -/
abbrev Bytes := List Byte

end Sys2Proof
end

