-- ==== Sys2Proof/Syntax.lean ====
section
/-! DEFINITION. The commands of the block: one constructor of `Instr` per row of spec/opcode_table.json, with the
operands the spec gives the row's step. -/

namespace Sys2Proof

/-- The operands of an aide instruction on tile `t` (R77). -/
structure AidOp where
  t : Nat
  rd : BitVec 5
  rs1 : BitVec 5
  rs2 : BitVec 5
  pred : BitVec 3
  pneg : Bool
  imm : BitVec 32
deriving DecidableEq, Repr

/-- The operands of a matrix-engine operation on tile `t` (R74). -/
structure MeOp where
  t : Nat
  fmt : BitVec 4
  wbuf : Bool
  adesc : BitVec 6
  aoff : BitVec 10
  acc : BitVec 8
  acnt : BitVec 4
  accmode : BitVec 2
  sparse : Bool
  amask : Bool
  exam : Bool
  aus : Bool
  wus : Bool
  pshift : BitVec 2
deriving DecidableEq, Repr

/-- What a host access through the BAR4 window does (R427): a read of `n` bytes, or a write of bytes under byte
enables (`none` where the enable is 0). -/
inductive Bar4Op where
  | read (n : Nat)
  | write (bytes : List (Option Byte))
deriving DecidableEq, Repr

/-- The ways a PCIe function's MSI-X control can be written (R432). -/
inductive MsixCfg where
  | enable (b : Bool)
  | fnMask (b : Bool)
  | vecMask (b : Bool)
deriving DecidableEq, Repr

/-- How a PTP frame is used: received as one of the kinds that R281 treats apart, or sent by the module: a Delay_Req or a
Pdelay_Req (R281). -/
inductive PtpKind where
  | sync | followUp | delayResp | pdelayReq | pdelayResp | other
  | sendDelayReq | sendPdelayReq
deriving DecidableEq, Repr

/-- The sensors of one `TEMP_SAMPLE` (R384): the PWR_TEMP index and the hottest reading there in degrees C, signed. -/
structure TempReading where
  idx : Nat
  tempC : Int
deriving DecidableEq, Repr

/-- The tile term of one tile in one interval, in 0.01 W (R378). -/
structure TileTerm where
  t : Nat
  cw : Nat
deriving DecidableEq, Repr

/-- What one site measured in a `WEAR_SAMPLE` (R363). -/
structure SiteWear where
  t : Nat
  ageing : Nat
  ceRate : Nat
deriving DecidableEq, Repr

/-- The result the power-up die test reports (R16). -/
structure DieTest where
  computeOk : BitVec 12
  hubOk : BitVec 4
  netOk : BitVec 2
  controlOk : Bool
  lpdOk : BitVec 22
  rate : BitVec 2
deriving DecidableEq, Repr

/-- The fields of a doubles HELLO (R366). -/
structure Hello where
  partCode : Nat
  stepping : Nat
  snlVersion : Nat
  snlCap : Nat
  tilesUsable : Nat
  partMask : Nat
  dblId : Bool
  failed : Bool
deriving DecidableEq, Repr

/-- The digests of RUN_DIGEST (R370): program, weights, seed, inputs, layers and outputs digests, 48 bytes each. -/
structure RunDigests where
  program : Bytes
  weights : Bytes
  seed : Bytes
  inputs : Bytes
  layers : Bytes
  outputs : Bytes
  exam : Bool
deriving DecidableEq, Repr

/-- How a run is named between doubles partners (R367): its job and its period number or run count. -/
structure RunName where
  job : Nat
  num : Nat
deriving DecidableEq, Repr

/-- One seat of a SEATING message (R368). -/
structure SeatRef where
  ip : BitVec 128
  udp : BitVec 16
  seq : BitVec 32
  ts : Nat
  port : Nat
  sub : Nat
deriving DecidableEq, Repr

/-- A command of the block: an access of host software, an operation of a tile, or an event. -/
inductive Instr where
  -- host accesses (00, 17)
  | registerWrite (fn off : Nat) (v : Word64)
  | causeClear (fn off : Nat) (v coincident : Word64)
  | readClear (fn off : Nat) (hits amounts : Word64)
  | bar0BadAccess (fn off size : Nat) (write : Bool)
  | bar2BadAccess (fn off size : Nat) (write : Bool)
  | bar4Access (fn off : Nat) (op : Bar4Op)
  | bar4BaseWrite (fn off : Nat) (v : Word64)
  -- time unit (02)
  | timWindowRead (fn : Nat)
  | timTodSet (fn : Nat) (v : Word64)
  | timAdjPhase (fn : Nat) (phase : BitVec 32) (mark : Bool)
  | timAdjRate (fn : Nat) (rate : BitVec 24) (mark : Bool)
  | timeSourceConfig (fn : Nat) (v : Word64)
  | refLost
  | refRestored
  | ppsEdge (falling : Bool) (widthNs : Nat)
  | ppsHoldover
  | ptpLost
  | ppsOutAssert
  | ppsOutRelease
  | startBell (q : Nat)
  | markBell (q m : Nat)
  | bellAct (q m : Nat)
  | deadlineBell (req : Nat)
  | kickoff (run : Nat)
  | taskStart (run task : Nat)
  | windowEnd
  | droopStretch (t : Nat)
  | timingMarginFault (t : Nat)
  | xovr (t link : Nat) (overrun : Bool)
  | rollCallFail (t link : Nat)
  | rollCallDone (offsets : List (Nat × Nat × Nat))
  | freqTargetWrite (fn : Nat) (target : BitVec 2)
  | pllRelock
  | relockDone
  -- sequencer slot (03)
  | nop (t slot : Nat)
  | setlim (t : Nat) (c : BitVec 3) (limit : BitVec 20)
  | loop (t : Nat) (c : BitVec 3) (endPc : BitVec 14)
  | jump (t : Nat) (target : BitVec 14)
  | brc (t : Nat) (k : BitVec 2) (sense : Bool) (target : BitVec 14)
  | setcmp (t : Nat) (k : BitVec 2) (c : BitVec 3) (cond : BitVec 2) (imm : BitVec 16)
  | waitbell (t : Nat) (mark : BitVec 4)
  | waittick (t : Nat) (tick : BitVec 26)
  | waittickRelease (t : Nat)
  | hint (t : Nat) (level : BitVec 4) (lead : BitVec 6) (length : BitVec 10)
  | refr (t : Nat) (rowGroup : BitVec 12)
  | fence (t : Nat) (slots : BitVec 5) (lp : Bool)
  | fenceRelease (t tick : Nat)
  | digest (t : Nat) (layer : BitVec 16)
  | trap (t : Nat) (code : BitVec 8)
  | halt (t : Nat) (code : BitVec 8)
  | tileComplete (t : Nat)
  -- matrix-engine slot (04)
  | mma (o : MeOp)
  | wload (o : MeOp)
  | emit (o : MeOp)
  | azero (o : MeOp)
  | anchor (o : MeOp)
  -- vector-engine slot (06)
  | vchain (t : Nat) (chain : BitVec 8) (src : BitVec 2) (sdesc : BitVec 6) (soff : BitVec 10)
      (ddesc : BitVec 6) (doff : BitVec 10)
  | vpop (t : Nat)
  | vldk (t : Nat) (k : BitVec 4) (sdesc : BitVec 6) (soff : BitVec 10)
  -- aide slot (06)
  | add (a : AidOp) | sub (a : AidOp) | and (a : AidOp) | or (a : AidOp) | xor (a : AidOp)
  | addi (a : AidOp) | andi (a : AidOp) | ori (a : AidOp) | xori (a : AidOp) | lih (a : AidOp)
  | min (a : AidOp) | max (a : AidOp) | minu (a : AidOp) | maxu (a : AidOp) | aidx (a : AidOp)
  | mul (a : AidOp) | mulhu (a : AidOp) | mulhs (a : AidOp) | clmul (a : AidOp) | muli (a : AidOp)
  | sll (a : AidOp) | srl (a : AidOp) | sra (a : AidOp) | rotr (a : AidOp) | sel (a : AidOp)
  | slt (a : AidOp) | sltu (a : AidOp) | ext (a : AidOp)
  | ld8 (a : AidOp) | ld16 (a : AidOp) | ld32 (a : AidOp) | ld64 (a : AidOp)
  | ld8s (a : AidOp) | ld16s (a : AidOp) | ld32s (a : AidOp)
  | st8 (a : AidOp) | st16 (a : AidOp) | st32 (a : AidOp) | st64 (a : AidOp)
  | gld32 (a : AidOp) | gld64 (a : AidOp) | gst32 (a : AidOp) | gst64 (a : AidOp)
  | lkfetch (a : AidOp) | lkstore (a : AidOp) | lkappend (a : AidOp)
  | lockerOpDone (hub : Nat)
  | decf (a : AidOp) | deca (a : AidOp) | hash (a : AidOp)
  | peq (a : AidOp) | pne (a : AidOp) | plt (a : AidOp) | pltu (a : AidOp) | pge (a : AidOp) | pgeu (a : AidOp)
  | peqi (a : AidOp) | plti (a : AidOp) | pand (a : AidOp) | por (a : AidOp) | pxor (a : AidOp)
  | pany (a : AidOp) | pall (a : AidOp) | route (a : AidOp)
  -- transfer slot (03, 07)
  | lpass (t : Nat) (eng : Bool) (tmpl : BitVec 10) (ctr : BitVec 16)
  | lpassReport (t : Nat) (eng : Bool)
  | xferRange (t : Nat) (eng : Bool)
  | spass (t : Nat) (sdesc : BitVec 6) (soff : BitVec 8) (ddesc : BitVec 6) (doff : BitVec 8) (len : BitVec 3)
  | fill (t : Nat) (ddesc : BitVec 6) (doff : BitVec 12) (lines : BitVec 8) (byte : Byte)
  | copy (t : Nat) (sdesc : BitVec 6) (soff : BitVec 8) (ddesc : BitVec 6) (doff : BitVec 8) (lines : BitVec 7)
  | dload (t : Nat) (mdesc : BitVec 6) (moff : BitVec 12) (sdesc : BitVec 6) (soff : BitVec 8) (lines : BitVec 3)
  | dstore (t : Nat) (mdesc : BitVec 6) (moff : BitVec 12) (sdesc : BitVec 6) (soff : BitVec 8) (lines : BitVec 3)
  -- channel and sync slot (08)
  | sinc (t : Nat) (ctr : BitVec 16) (amt : BitVec 3)
  | swait (t : Nat) (ctr : BitVec 16) (consume : Bool)
  | counterIncrement (src ctr : Nat)
  | swaitRelease (t u : Nat)
  | csend (t : Nat) (ep : BitVec 4) (sdesc : BitVec 6) (soff : BitVec 9)
  | crecv (t : Nat) (q : BitVec 4) (ddesc : BitVec 6) (doff : BitVec 9)
  | qopen (t : Nat) (q : BitVec 4)
  | qclose (t : Nat) (q : BitVec 4)
  | lineArrival (t ep : Nat)
  | creditReturn (t ep : Nat)
  | queueToken (t ep : Nat)
  | fabricDiscard (item : Nat)
  | watchdog (tiles : List Nat)
  -- jobs, errors and faults (09, 10, 14)
  | jobStop (job : Nat)
  | runAbortComplete (run : Nat)
  | hardwareFault (code tile idx : Nat)
  | retakePrepare (run : Nat)
  | retake (run : RunName) (attempt fault : Nat)
  | refreshLate (t rowGroup : Nat)
  | controllerRefresh (t rowGroup : Nat)
  | patrolScrub (addr : Nat) (uncorrectable : Bool) (deviceLost : Bool) (passEnd : Bool)
  | lksRegisterWrite (fn off : Nat) (v : Word64)
  | routeEntry (t : Nat)
  | fillBell (plan : Nat)
  | spuFillDone
  -- host queues and descriptors (10, 12, 13, 14, 16)
  | descriptorFetch (sq : Nat) (bytes : Bytes)
  | loadImage (sq : Nat) (image : Bytes) (tileMap : List Nat)
  | unseal (sq : Nat) (blob : Bytes) (header : Bytes)
  | unsealComplete (stream : Bytes)
  | runGraph (sq : Nat)
  | bindPeriod (sq : Nat)
  | unbindPeriod (sq : Nat)
  | setStep (sq : Nat)
  | setFallback (sq : Nat)
  | substitute (sq : Nat) (imageDigest : Bytes)
  | scrub (sq : Nat)
  | signNow (sq : Nat)
  | unload (sq : Nat)
  | hqSqDb (fn q : Nat) (v : Word64)
  | hqCqDb (fn q : Nat) (v : Word64)
  | queueEnable (fn off : Nat) (v : Word64)
  | queueDisable (fn off : Nat) (v : Word64)
  | mapCommit (fn : Nat)
  -- network (11)
  | frameReceive (port sub : Nat) (frame : Bytes) (fecCorrected fecUncorrected : Nat)
  | ptpMessage (port sub : Nat) (k : PtpKind)
  | req (assoc : Nat) (msg : Bytes)
  | coll (assoc : Nat) (msg : Bytes)
  | miobelHello (assoc : Nat) (msg : Bytes)
  | ack (assoc : Nat) (msg : Bytes)
  | ackTimer (assoc : Nat)
  | collRetransmit (assoc seq : Nat)
  | linkDown (port sub : Nat)
  | linkUp (port sub : Nat)
  | assocWrite (fn a : Nat) (v : Word64)
  | seatPeriod (q n : Nat)
  | replyScan (q : Nat)
  | pairFrame (link : Nat) (header sealed : Bytes)
  | pairResend (link seq : Nat)
  | pairHeartbeat (link : Nat)
  | pairDown (link : Nat)
  | pairUp (link : Nat)
  -- grading engine (12)
  | grdArm (fn : Nat) (v : Word64)
  | grdDisarm (fn : Nat) (v : Word64)
  | postRead
  | segmentApply (layer seg : Nat)
  | trustPhaseTwo (layer : Nat)
  | layerClose (layer : Nat)
  -- audit (13)
  | runRecord (run : Nat)
  | logHeadAdvance (fn q : Nat) (v : Word64)
  | signTimer (q : Nat)
  | sigWritten (q : Nat)
  | auditEnable (fn q : Nat) (v : Word64)
  -- reliability (14)
  | undoLogEnable (fn q : Nat) (v : Word64)
  | autoSubstitute (t kind idx : Nat)
  | unitReplaceDone (t : Nat)
  | siteCopyStart (t : Nat)
  | siteCopyDone (t : Nat)
  | stackCopyDone (poisoned : Nat)
  | siteTestDone (sq : Nat) (fault : Option (Nat × Nat))
  | memoryScrubDone (sq uncorrectable : Nat)
  | wearSample (sites : List SiteWear) (stackRates linkMargins : List (Nat × Nat))
  -- doubles (14)
  | doublesHello (h : Hello)
  | doublesHelloTimer
  | pairEstablish
  | seating (q n : Nat) (seats : List SeatRef)
  | reqFill (seat : Nat) (body : Bytes)
  | seatLost (q : Nat)
  | candidateDrop (req : Nat)
  | result (run : RunName) (kind idx : Nat) (item : Bytes)
  | sent (run : RunName) (kind idx status : Nat) (payload : Bytes)
  | runDigest (run : RunName) (attempt : Nat) (d : RunDigests)
  | leave (reason : Nat)
  | singles
  | dblResume (fn : Nat)
  | dblKeep (fn : Nat)
  | dblLeave (fn : Nat)
  -- power and thermal (15)
  | powerInterval (base : Nat) (tiles : List TileTerm) (traffic : List (Nat × Nat)) (grading : Nat) (service : List (Nat × Nat))
  | inputSample (watts : Nat)
  | calibration (measuredUj estimatedUj : Nat)
  | tempSample (readings : List TempReading)
  | thermStep (die : Nat)
  -- security (16)
  | sessionKeysReady (sessionId : Bytes)
  | getVersion (session : Nat)
  | getCapabilities (session : Nat)
  | negotiateAlgorithms (session : Nat)
  | getDigests (session : Nat)
  | getCertificate (session slot offset len : Nat)
  | challenge (session slot : Nat) (nonce : Bytes)
  | getMeasurements (session idx : Nat) (sign : Bool) (nonce : Bytes)
  | keyExchange (session : Nat) (mcTp : Bool) (exchange : Bytes)
  | finish (session : Nat) (leafKeyHash : Bytes) (authOk : Bool)
  | chunkSend (session : Nat) (chunk : Bytes) (last : Bool)
  | chunkGet (session idx : Nat)
  | pldmRequest (session sensor : Nat)
  | partitionCommit (fn : Nat)
  | partDone
  | keySlotClear (fn : Nat) (v : Word64)
  | msaInstall (fn : Nat) (v : Word64)
  | msaDelete (fn : Nat) (v : Word64)
  | pairKeySet (fn : Nat)
  | svnRaise (fn : Nat) (raiseTo : BitVec 8)
  -- host interface (17)
  | irqRearm (fn : Nat) (v : Word64)
  | vfRearm (fn : Nat)
  | msixSend (fn : Nat)
  | msixConfigWrite (fn : Nat) (c : MsixCfg)
  | hostReadTimeout (sq off : Nat)
  | linkChange (gen width : Nat) (flit reversed : Bool)
  | ideFault
  | powerStateChange (fn : Nat) (d3 : Bool)
  | vfFlr (q : Nat)
  -- reset and bring-up (18, 19)
  | pfFlr
  | perstAssert
  | perstRelease
  | hotReset
  | pcieLinkDown
  | moduleReset (fn : Nat)
  | partitionReset (fn part : Nat)
  | jobReset (fn job : Nat)
  | powerUp
  | railsGood (dblId : Bool) (boardId : BitVec 4)
  | powerDown
  | vinLeaveWindow
  | vinReturn
  | dieTestDone (r : DieTest)
  | memoryPrepDone (ms : Nat)
  | busMasterEnable
  | fwLoad (fn : Nat)
  | fwVerified (image : Bytes)
  | bootReady
  | i3cEntry
  | smbusTimeout
  | mctpTimeout
  | resetPulseEnd
  | deferredPerstRelease
  | pwrEnHoldEnd
  | slewComplete
  | ppsMissing
  | startTodBell (run : Nat)
  | guardedLinePresent (t addr : Nat)
  | doublesEnable (fn : Nat) (v : Word64)
deriving DecidableEq, Repr

end Sys2Proof
end

