-- ==== Sys2Proof/Config.lean ====
section
/-! DEFINITION. The free values: what the spec leaves undefined, and the functions of the standards it cites without
giving. None has a body, so nothing can be proved of a value. -/

namespace Sys2Proof.Config

/-- A fresh undefined value, by the free-value counter (00_scope.md, "Undefined value"). DESIGN CHOICE (log 5). -/
opaque freeValue : Nat → Nat

/-- SHA-384 of FIPS 180-4 (cited by R81, R334 and others): 48 bytes. -/
opaque sha384 : List (BitVec 8) → List (BitVec 8)

/-- GHASH of NIST SP 800-38D (cited by R333): 16 bytes, of a key and a padded string with its length block. -/
opaque ghash : List (BitVec 8) → List (BitVec 8) → List (BitVec 8)

/-- The RSASSA-PSS signature of a message (cited by R343 and R398), its salt drawn with a counter: 384 bytes are used. -/
opaque rsaSign : List (BitVec 8) → Nat → List (BitVec 8)

/-- The SLH-DSA-SHA2-192f signature of a message (FIPS 205, cited by R343): 35 664 bytes are used. -/
opaque slhSign : List (BitVec 8) → List (BitVec 8)

/-- RSA-OAEP-3072 decryption under the session key that a session id names, none when decoding fails (cited by R403). -/
opaque oaepDecrypt : List (BitVec 8) → List (BitVec 8) → Option (List (BitVec 8))

/-- ML-KEM-1024 decapsulation under the session key that a session id names (FIPS 203, cited by R403): 32 bytes are used. -/
opaque kemDecaps : List (BitVec 8) → List (BitVec 8) → List (BitVec 8)

/-- AES-256-GCM opening of NIST SP 800-38D (cited by R405): key, IV, associated data, ciphertext with its tag.
DESIGN CHOICE (log 5). -/
opaque gcmOpen : List (BitVec 8) → List (BitVec 8) → List (BitVec 8) → List (BitVec 8) → Option (List (BitVec 8))

/-- AES-256-GCM sealing of NIST SP 800-38D (cited by R280 and R303): key, IV, associated data, plaintext; the ciphertext with its
tag. DESIGN CHOICE (log 5). -/
opaque gcmSeal : List (BitVec 8) → List (BitVec 8) → List (BitVec 8) → List (BitVec 8) → List (BitVec 8)

/-- Whether an RSASSA-PSS signature verifies (R396): modulus, message, signature. -/
opaque rsaVerify : List (BitVec 8) → List (BitVec 8) → List (BitVec 8) → Bool

/-- Whether an SLH-DSA-SHA2-192s signature verifies (R396): public key, message, signature. -/
opaque slhVerify : List (BitVec 8) → List (BitVec 8) → List (BitVec 8) → Bool

/-- The fused firmware key hash of a slot, none where the slot is invalid or revoked (R394, R396). -/
opaque fwKeyHash : Nat → Option (List (BitVec 8))

/-- The certificate chain of an SPDM slot, fused at manufacture (R394, R398). -/
opaque certChain : Nat → List (BitVec 8)

/-- The digest of the boot ROM (R399, block 0x01). -/
opaque bootRomDigest : List (BitVec 8)

/-- The module's half of a key exchange, with a counter for its random part (R398, R413). -/
opaque keyExchange : List (BitVec 8) → Nat → List (BitVec 8)

end Sys2Proof.Config
end

