-- ==== Sys2Proof/Machine/Bits.lean ====
section
/-! DEFINITION. Bit fields, byte order and small list helpers used by every family (00_scope.md, R3). -/

namespace Sys2Proof.Machine

/-- Bits `lo + w - 1` down to `lo` of a number. -/
def bitsOf (v lo w : Nat) : Nat := v / 2 ^ lo % 2 ^ w

/-- One bit of a number. -/
def bitOf (v i : Nat) : Bool := v / 2 ^ i % 2 == 1

/-- A number with bits `lo + w - 1` down to `lo` replaced. -/
def setBits (v lo w x : Nat) : Nat := v - bitsOf v lo w * 2 ^ lo + x % 2 ^ w * 2 ^ lo

/-- A truth value as a one-bit number. -/
def b2n (b : Bool) : Nat := if b then 1 else 0

/-- The two's-complement reading of a `w`-bit number. -/
def signed (w v : Nat) : Int := if v % 2 ^ w < 2 ^ (w - 1) then (v % 2 ^ w : Nat) else (v % 2 ^ w : Nat) - (2 : Int) ^ w

/-- The `w`-bit two's-complement pattern of an integer. -/
def unsigned (w : Nat) (x : Int) : Nat := (x % (2 : Int) ^ w).toNat

/-- The value of a little-endian byte string (R3). -/
def leNat : Bytes → Nat
  | [] => 0
  | b :: bs => b.toNat + 256 * leNat bs

/-- The value of a big-endian byte string (R3, wire fields). -/
def beNat (bs : Bytes) : Nat := bs.foldl (fun a b => 256 * a + b.toNat) 0

/-- The `n` low bytes of a number, little-endian. -/
def toLE : Nat → Nat → Bytes
  | 0, _ => []
  | n + 1, v => BitVec.ofNat 8 v :: toLE n (v / 256)

/-- The `n` low bytes of a number, big-endian. -/
def toBE (n v : Nat) : Bytes := (toLE n v).reverse

/-- `n` bytes of a string from `off` on, zero where the string has ended. -/
def sliceB (bs : Bytes) (off n : Nat) : Bytes :=
  let c := (bs.drop off).take n
  c ++ List.replicate (n - c.length) 0

/-- The first `n` bytes of a string. -/
def firstBytes (n : Nat) (bs : Bytes) : Bytes := (List.range n).map fun i => bs.getD i 0

/-- SHA-384: 48 bytes. DESIGN CHOICE (log 5). -/
def sha384 (bs : Bytes) : Bytes := firstBytes 48 (Config.sha384 bs)

/-- GHASH: 16 bytes, of a key and a padded string with its length block. DESIGN CHOICE (log 5). -/
def ghash (key bs : Bytes) : Bytes := firstBytes 16 (Config.ghash key bs)

/-- The little-endian field of `n` bytes at `off` of a string. -/
def fieldLE (bs : Bytes) (off n : Nat) : Nat := leNat (sliceB bs off n)

/-- The big-endian field of `n` bytes at `off` of a string. -/
def fieldBE (bs : Bytes) (off n : Nat) : Nat := beNat (sliceB bs off n)

/-- The `n` bytes at `off` of a string replaced by `v`. -/
def patchB (bs : Bytes) (off : Nat) (v : Bytes) : Bytes := bs.take off ++ v ++ bs.drop (off + v.length)

/-- Whether every byte of a string is zero. -/
def allZero (bs : Bytes) : Bool := bs.all (· == 0)

/-- The numbers `a, a + 1, …, a + n - 1`. -/
def rangeFrom (a n : Nat) : List Nat := (List.range n).map (· + a)

/-- The number of bits of a number: 0 for 0, else one more than its binary logarithm. -/
def bitLen (n : Nat) : Nat := if n = 0 then 0 else Nat.log2 n + 1

/-- The least number of a list, or a default for the empty list. -/
def minOr (d : Nat) (l : List Nat) : Nat :=
  match l with
  | [] => d
  | x :: xs => xs.foldl Nat.min x

/-- The greatest number of a list, 0 for the empty list. -/
def maxL (l : List Nat) : Nat := l.foldl Nat.max 0

/-- The sum of a list. -/
def sumL (l : List Nat) : Nat := l.foldl (· + ·) 0

/-- Replace element `i` of a list. -/
def setAt {α : Type} (l : List α) (i : Nat) (x : α) : List α := l.set i x

/-- Insert keeping a list in order of a key; equal keys keep their order of insertion. -/
def insertBy {α : Type} (key : α → Nat) (x : α) : List α → List α
  | [] => [x]
  | y :: ys => if key x < key y then x :: y :: ys else y :: insertBy key x ys

/-- A stable sort by a key. -/
def sortBy {α : Type} (key : α → Nat) (l : List α) : List α := l.foldl (fun acc x => insertBy key x acc) []

/-- Whether a list has no repeated element. -/
def noDup {α : Type} [BEq α] : List α → Bool
  | [] => true
  | x :: xs => !xs.contains x && noDup xs

/-- A finite map as a list of key and value pairs, keys strictly rising. -/
abbrev Store (α : Type) := List (Nat × α)

/-- The value at a key. -/
def Store.get? {α : Type} : Store α → Nat → Option α
  | [], _ => none
  | (k, v) :: r, a => if a = k then some v else Store.get? r a

/-- The value at a key, or a default. -/
def Store.getD {α : Type} (m : Store α) (k : Nat) (d : α) : α := (Store.get? m k).getD d

/-- The map with a key set. -/
def Store.set {α : Type} : Store α → Nat → α → Store α
  | [], a, x => [(a, x)]
  | (k, v) :: r, a, x =>
    if a < k then (a, x) :: (k, v) :: r
    else if a = k then (a, x) :: r
    else (k, v) :: Store.set r a x

/-- The map without a key. -/
def Store.erase {α : Type} (m : Store α) (a : Nat) : Store α := m.filter fun p => p.1 != a

/-- The map with a key set, a default being held by no entry. -/
def Store.put {α : Type} [DecidableEq α] (m : Store α) (k : Nat) (d x : α) : Store α :=
  if x = d then Store.erase m k else Store.set m k x

/-- Keys strictly rising. -/
def Store.sorted {α : Type} : Store α → Bool
  | [] => true
  | [_] => true
  | (k, _) :: (k', v') :: r => decide (k < k') && Store.sorted ((k', v') :: r)

/-- The map without the keys a test names. -/
def Store.dropIf {α : Type} (m : Store α) (f : Nat → Bool) : Store α := m.filter (fun p => !f p.1)

end Sys2Proof.Machine
end

