-- ==== Sys2Proof/Machine/RegMap.lean ====
section
/-! DEFINITION. The registers of the block: every register and field the spec's register tables give, with its place,
width, access code and reset value (00_scope.md "Registers", R2, R5 to R9; the table of each register is named beside
it). Offsets are BAR0 offsets; the BAR2 doorbell pages (R425) stand at 0x1000_0000 plus their BAR2 offset. -/

namespace Sys2Proof.Machine

/-- The part of the family (00_scope.md, R1). DESIGN CHOICE (log 4). -/
inductive Part where
  | ox2048 | ox1536 | ox1024
deriving DecidableEq, Repr

/-- A figure of the family table, by part (R1). -/
def Part.pick {α : Type} (p : Part) (a b c : α) : α :=
  match p with
  | .ox2048 => a
  | .ox1536 => b
  | .ox1024 => c

def Part.tiles (p : Part) : Nat := p.pick 96 72 48
def Part.dies (p : Part) : Nat := p.pick 12 9 6
def Part.seats (p : Part) : Nat := p.pick 2048 1536 1024
def Part.stacks (p : Part) : Nat := p.pick 20 15 10
def Part.stacksFitted (p : Part) : Nat := p.pick 22 17 12
def Part.ports (p : Part) : Nat := p.pick 12 9 6
def Part.code (p : Part) : Nat := p.pick 1 2 3

/-- The access codes of register fields (R8). -/
inductive Acc where
  | ro | rw | wo | w1c | rc
deriving DecidableEq, Repr

/-- The reset value of a field: a number, a figure of the part, or a value by index that the field's description gives. -/
inductive Rst where
  | val (n : Nat)
  | part (a b c : Nat)
  | tileSite | tileDie | tileOn
  | stackPhys | stackInService
  | partTiles0 | partTiles1 | partGib | partSyn | partPorts | partEn
deriving DecidableEq, Repr

/-- A register field: the offset of its register, its lowest bit, its width, its access code, its reset value.
DESIGN CHOICE (log 2). -/
structure Fld where
  off : Nat
  lo : Nat
  w : Nat
  acc : Acc
  rst : Rst
deriving DecidableEq, Repr

/-- The key of a field in the register store. -/
def Fld.key (f : Fld) : Nat := 64 * f.off + f.lo

/-- One row of the register map: a register, or a family of registers under one or two indices; its fields are those
of index 0. -/
structure RegRow where
  name : String
  base : Nat
  tile : Bool
  n1 : Nat
  s1 : Nat
  n2 : Nat
  s2 : Nat
  flds : List Fld
deriving DecidableEq, Repr

/-- HST_PART_INFO (00_scope.md, R2). -/
def HST_PART_INFO : Nat := 0x8
def HST_PART_INFO_tiles_in_service : Fld := ⟨HST_PART_INFO, 0, 12, .ro, .part 96 72 48⟩
def HST_PART_INFO_compute_dies : Fld := ⟨HST_PART_INFO, 12, 4, .ro, .part 12 9 6⟩
def HST_PART_INFO_seats : Fld := ⟨HST_PART_INFO, 16, 16, .ro, .part 2048 1536 1024⟩
def HST_PART_INFO_lpd_stacks : Fld := ⟨HST_PART_INFO, 32, 8, .ro, .part 20 15 10⟩
def HST_PART_INFO_eth_ports : Fld := ⟨HST_PART_INFO, 40, 8, .ro, .part 12 9 6⟩
def HST_PART_INFO_part_code : Fld := ⟨HST_PART_INFO, 48, 8, .ro, .part 1 2 3⟩
def HST_PART_INFO_stepping_letter : Fld := ⟨HST_PART_INFO, 56, 4, .ro, .val 0x1⟩
def HST_PART_INFO_stepping_number : Fld := ⟨HST_PART_INFO, 60, 4, .ro, .val 0x0⟩
/-- HST_DIE_STATUS (01_system_organisation.md, R15). -/
def HST_DIE_STATUS : Nat := 0x10
def HST_DIE_STATUS_compute_ok : Fld := ⟨HST_DIE_STATUS, 0, 12, .ro, .val 0x0⟩
def HST_DIE_STATUS_hub_ok : Fld := ⟨HST_DIE_STATUS, 12, 4, .ro, .val 0x0⟩
def HST_DIE_STATUS_net_ok : Fld := ⟨HST_DIE_STATUS, 16, 2, .ro, .val 0x0⟩
def HST_DIE_STATUS_control_ok : Fld := ⟨HST_DIE_STATUS, 18, 1, .ro, .val 0x0⟩
def HST_DIE_STATUS_host_ok : Fld := ⟨HST_DIE_STATUS, 19, 1, .ro, .val 0x1⟩
def HST_DIE_STATUS_lpd_stack_ok : Fld := ⟨HST_DIE_STATUS, 32, 22, .ro, .val 0x0⟩
def HST_DIE_STATUS_test_done : Fld := ⟨HST_DIE_STATUS, 63, 1, .ro, .val 0x0⟩
/-- TIM_STATUS (02_time_and_clocking.md, R53). -/
def TIM_STATUS : Nat := 0x20000
def TIM_STATUS_state : Fld := ⟨TIM_STATUS, 0, 3, .ro, .val 0x0⟩
def TIM_STATUS_source : Fld := ⟨TIM_STATUS, 3, 2, .ro, .val 0x0⟩
def TIM_STATUS_tod_valid : Fld := ⟨TIM_STATUS, 5, 1, .ro, .val 0x0⟩
def TIM_STATUS_ref_ok : Fld := ⟨TIM_STATUS, 6, 1, .ro, .val 0x0⟩
def TIM_STATUS_ref_in_use : Fld := ⟨TIM_STATUS, 7, 1, .ro, .val 0x0⟩
def TIM_STATUS_pps_ok : Fld := ⟨TIM_STATUS, 8, 1, .ro, .val 0x0⟩
def TIM_STATUS_ptp_ok : Fld := ⟨TIM_STATUS, 9, 1, .ro, .val 0x0⟩
def TIM_STATUS_slewing : Fld := ⟨TIM_STATUS, 10, 1, .ro, .val 0x0⟩
def TIM_STATUS_step_pending : Fld := ⟨TIM_STATUS, 11, 1, .ro, .val 0x0⟩
def TIM_STATUS_holdover_s : Fld := ⟨TIM_STATUS, 16, 16, .ro, .val 0x0⟩
/-- TIM_SRC_CFG (02_time_and_clocking.md, R53). -/
def TIM_SRC_CFG : Nat := 0x20008
def TIM_SRC_CFG_primary : Fld := ⟨TIM_SRC_CFG, 0, 2, .rw, .val 0x0⟩
def TIM_SRC_CFG_secondary : Fld := ⟨TIM_SRC_CFG, 2, 2, .rw, .val 0x0⟩
def TIM_SRC_CFG_ptp_port : Fld := ⟨TIM_SRC_CFG, 4, 4, .rw, .val 0x0⟩
def TIM_SRC_CFG_ref_sel : Fld := ⟨TIM_SRC_CFG, 8, 1, .rw, .val 0x0⟩
def TIM_SRC_CFG_pps_edge : Fld := ⟨TIM_SRC_CFG, 9, 1, .rw, .val 0x0⟩
def TIM_SRC_CFG_step_allowed : Fld := ⟨TIM_SRC_CFG, 10, 1, .rw, .val 0x0⟩
def TIM_SRC_CFG_step_while_bound : Fld := ⟨TIM_SRC_CFG, 11, 1, .rw, .val 0x0⟩
def TIM_SRC_CFG_pps_out_en : Fld := ⟨TIM_SRC_CFG, 12, 1, .rw, .val 0x0⟩
def TIM_SRC_CFG_pps_out_width : Fld := ⟨TIM_SRC_CFG, 16, 8, .rw, .val 0x64⟩
def TIM_SRC_CFG_step_thresh : Fld := ⟨TIM_SRC_CFG, 24, 16, .rw, .val 0x3E8⟩
/-- TIM_TOD (02_time_and_clocking.md, R53). -/
def TIM_TOD : Nat := 0x20010
def TIM_TOD_tod : Fld := ⟨TIM_TOD, 0, 64, .ro, .val 0x0⟩
/-- TIM_TOD_SET (02_time_and_clocking.md, R53). -/
def TIM_TOD_SET : Nat := 0x20018
def TIM_TOD_SET_tod_set : Fld := ⟨TIM_TOD_SET, 0, 64, .wo, .val 0⟩
/-- TIM_ADJ (02_time_and_clocking.md, R53). -/
def TIM_ADJ : Nat := 0x20020
def TIM_ADJ_phase_ns : Fld := ⟨TIM_ADJ, 0, 32, .wo, .val 0⟩
def TIM_ADJ_rate : Fld := ⟨TIM_ADJ, 32, 24, .wo, .val 0⟩
def TIM_ADJ_ptp_mark : Fld := ⟨TIM_ADJ, 61, 1, .wo, .val 0⟩
def TIM_ADJ_rate_valid : Fld := ⟨TIM_ADJ, 62, 1, .wo, .val 0⟩
def TIM_ADJ_phase_valid : Fld := ⟨TIM_ADJ, 63, 1, .wo, .val 0⟩
/-- TIM_PHASE_ERR (02_time_and_clocking.md, R53). -/
def TIM_PHASE_ERR : Nat := 0x20028
def TIM_PHASE_ERR_phase_err : Fld := ⟨TIM_PHASE_ERR, 0, 32, .ro, .val 0x0⟩
def TIM_PHASE_ERR_edges : Fld := ⟨TIM_PHASE_ERR, 32, 16, .ro, .val 0x0⟩
/-- TIM_REF_STATS (02_time_and_clocking.md, R53). -/
def TIM_REF_STATS : Nat := 0x20030
def TIM_REF_STATS_ref_err_ppb : Fld := ⟨TIM_REF_STATS, 0, 32, .ro, .val 0x0⟩
def TIM_REF_STATS_lost_events : Fld := ⟨TIM_REF_STATS, 32, 16, .rc, .val 0x0⟩
/-- TIM_PPS_STATS (02_time_and_clocking.md, R53). -/
def TIM_PPS_STATS : Nat := 0x20038
def TIM_PPS_STATS_accepted : Fld := ⟨TIM_PPS_STATS, 0, 16, .rc, .val 0x0⟩
def TIM_PPS_STATS_width_rejects : Fld := ⟨TIM_PPS_STATS, 16, 16, .rc, .val 0x0⟩
def TIM_PPS_STATS_window_rejects : Fld := ⟨TIM_PPS_STATS, 32, 16, .rc, .val 0x0⟩
def TIM_PPS_STATS_missing : Fld := ⟨TIM_PPS_STATS, 48, 16, .rc, .val 0x0⟩
/-- TIM_FREQ_CTL (02_time_and_clocking.md, R53). -/
def TIM_FREQ_CTL : Nat := 0x20040
def TIM_FREQ_CTL_target : Fld := ⟨TIM_FREQ_CTL, 0, 2, .rw, .val 0x0⟩
def TIM_FREQ_CTL_current : Fld := ⟨TIM_FREQ_CTL, 4, 2, .ro, .val 0x0⟩
def TIM_FREQ_CTL_busy : Fld := ⟨TIM_FREQ_CTL, 8, 1, .ro, .val 0x0⟩
/-- TIM_WINDOW (02_time_and_clocking.md, R53). -/
def TIM_WINDOW : Nat := 0x20048
def TIM_WINDOW_window : Fld := ⟨TIM_WINDOW, 0, 48, .ro, .val 0x0⟩
/-- TIM_WIN_TOD (02_time_and_clocking.md, R53). -/
def TIM_WIN_TOD : Nat := 0x20050
def TIM_WIN_TOD_win_tod : Fld := ⟨TIM_WIN_TOD, 0, 64, .ro, .val 0x0⟩
/-- TIM_MISSED (02_time_and_clocking.md, R53). -/
def TIM_MISSED : Nat := 0x20058
def TIM_MISSED_missed_bells : Fld := ⟨TIM_MISSED, 0, 32, .rc, .val 0x0⟩
/-- TIM_XOVR_INFO (02_time_and_clocking.md, R53). -/
def TIM_XOVR_INFO : Nat := 0x20060
def TIM_XOVR_INFO_tile : Fld := ⟨TIM_XOVR_INFO, 0, 12, .ro, .val 0x0⟩
def TIM_XOVR_INFO_link : Fld := ⟨TIM_XOVR_INFO, 12, 2, .ro, .val 0x0⟩
def TIM_XOVR_INFO_underrun : Fld := ⟨TIM_XOVR_INFO, 14, 1, .ro, .val 0x0⟩
def TIM_XOVR_INFO_overrun : Fld := ⟨TIM_XOVR_INFO, 15, 1, .ro, .val 0x0⟩
def TIM_XOVR_INFO_window : Fld := ⟨TIM_XOVR_INFO, 16, 48, .ro, .val 0x0⟩
/-- TIM_XOFS (02_time_and_clocking.md, R54). -/
def TIM_XOFS (t : Nat) : Nat := 0x1000200 + 0x10000 * t
def TIM_XOFS_offset (t l : Nat) : Fld := ⟨TIM_XOFS t, 0 + 16 * l, 3, .ro, .val 0x0⟩
def TIM_XOFS_present (t l : Nat) : Fld := ⟨TIM_XOFS t, 3 + 16 * l, 1, .ro, .val 0⟩
def TIM_XOFS_enabled (t l : Nat) : Fld := ⟨TIM_XOFS t, 4 + 16 * l, 1, .ro, .val 0x0⟩
/-- TIM_XFILL (02_time_and_clocking.md, R54). -/
def TIM_XFILL (t : Nat) : Nat := 0x1000208 + 0x10000 * t
def TIM_XFILL_min_fill (t l : Nat) : Fld := ⟨TIM_XFILL t, 0 + 16 * l, 4, .rc, .val 0x4⟩
def TIM_XFILL_max_fill (t l : Nat) : Fld := ⟨TIM_XFILL t, 4 + 16 * l, 4, .rc, .val 0x4⟩
/-- TIM_STRETCH (02_time_and_clocking.md, R54). -/
def TIM_STRETCH (t : Nat) : Nat := 0x1000210 + 0x10000 * t
def TIM_STRETCH_own (t : Nat) : Fld := ⟨TIM_STRETCH t, 0, 16, .rc, .val 0x0⟩
def TIM_STRETCH_equalising (t : Nat) : Fld := ⟨TIM_STRETCH t, 16, 16, .rc, .val 0x0⟩
def TIM_STRETCH_bubble_req (t : Nat) : Fld := ⟨TIM_STRETCH t, 32, 16, .rc, .val 0x0⟩
def TIM_STRETCH_full_windows (t : Nat) : Fld := ⟨TIM_STRETCH t, 48, 16, .rc, .val 0x0⟩
/-- TIM_KICK_TOD (02_time_and_clocking.md, R54). -/
def TIM_KICK_TOD (t : Nat) : Nat := 0x1000218 + 0x10000 * t
def TIM_KICK_TOD_kick_tod (t : Nat) : Fld := ⟨TIM_KICK_TOD t, 0, 64, .ro, .val 0x0⟩
/-- SNL_VERSION (03_snielo_instruction_set.md, R89). -/
def SNL_VERSION : Nat := 0x20
def SNL_VERSION_isa_major : Fld := ⟨SNL_VERSION, 0, 8, .ro, .val 0x1⟩
def SNL_VERSION_isa_minor : Fld := ⟨SNL_VERSION, 8, 8, .ro, .val 0x0⟩
def SNL_VERSION_timing_model : Fld := ⟨SNL_VERSION, 16, 8, .ro, .val 0x1⟩
def SNL_VERSION_tile_bits : Fld := ⟨SNL_VERSION, 24, 4, .ro, .part 7 7 6⟩
def SNL_VERSION_counter_bits : Fld := ⟨SNL_VERSION, 32, 5, .ro, .val 0xC⟩
def SNL_VERSION_seat_bits : Fld := ⟨SNL_VERSION, 37, 5, .ro, .part 11 11 10⟩
def SNL_VERSION_addr_bits : Fld := ⟨SNL_VERSION, 42, 6, .ro, .val 0x30⟩
/-- SNL_CAP (03_snielo_instruction_set.md, R90). -/
def SNL_CAP : Nat := 0x28
def SNL_CAP_fp8 : Fld := ⟨SNL_CAP, 0, 1, .ro, .val 0x1⟩
def SNL_CAP_int8 : Fld := ⟨SNL_CAP, 1, 1, .ro, .val 0x1⟩
def SNL_CAP_int4 : Fld := ⟨SNL_CAP, 2, 1, .ro, .val 0x1⟩
def SNL_CAP_mx : Fld := ⟨SNL_CAP, 3, 1, .ro, .val 0x1⟩
def SNL_CAP_bf16 : Fld := ⟨SNL_CAP, 4, 1, .ro, .val 0x1⟩
def SNL_CAP_fp16 : Fld := ⟨SNL_CAP, 5, 1, .ro, .val 0x1⟩
def SNL_CAP_sparse24 : Fld := ⟨SNL_CAP, 6, 1, .ro, .val 0x1⟩
def SNL_CAP_amask : Fld := ⟨SNL_CAP, 7, 1, .ro, .val 0x1⟩
def SNL_CAP_exam_acc : Fld := ⟨SNL_CAP, 8, 1, .ro, .val 0x1⟩
def SNL_CAP_ve_lanes : Fld := ⟨SNL_CAP, 9, 1, .ro, .val 0x1⟩
def SNL_CAP_locker : Fld := ⟨SNL_CAP, 10, 1, .ro, .val 0x1⟩
def SNL_CAP_seating : Fld := ⟨SNL_CAP, 11, 1, .ro, .val 0x1⟩
def SNL_CAP_short_pass : Fld := ⟨SNL_CAP, 12, 1, .ro, .val 0x1⟩
def SNL_CAP_hints : Fld := ⟨SNL_CAP, 13, 1, .ro, .val 0x1⟩
def SNL_CAP_layer_digest : Fld := ⟨SNL_CAP, 14, 1, .ro, .val 0x1⟩
def SNL_CAP_philox : Fld := ⟨SNL_CAP, 15, 1, .ro, .val 0x1⟩
def SNL_CAP_stoch_round : Fld := ⟨SNL_CAP, 16, 1, .ro, .val 0x1⟩
def SNL_CAP_partitions : Fld := ⟨SNL_CAP, 17, 1, .ro, .val 0x1⟩
def SNL_CAP_doubles : Fld := ⟨SNL_CAP, 18, 1, .ro, .val 0x1⟩
def SNL_CAP_grading : Fld := ⟨SNL_CAP, 19, 1, .ro, .val 0x1⟩
/-- TIL_SEQ_STATUS (03_snielo_instruction_set.md, R94). -/
def TIL_SEQ_STATUS (t : Nat) : Nat := 0x1000000 + 0x10000 * t
def TIL_SEQ_STATUS_pc (t : Nat) : Fld := ⟨TIL_SEQ_STATUS t, 0, 14, .ro, .val 0x0⟩
def TIL_SEQ_STATUS_state (t : Nat) : Fld := ⟨TIL_SEQ_STATUS t, 16, 3, .ro, .val 0x0⟩
def TIL_SEQ_STATUS_halt_code (t : Nat) : Fld := ⟨TIL_SEQ_STATUS t, 19, 8, .ro, .val 0x0⟩
def TIL_SEQ_STATUS_loops_active (t : Nat) : Fld := ⟨TIL_SEQ_STATUS t, 32, 8, .ro, .val 0x0⟩
/-- TIL_TICK (03_snielo_instruction_set.md, R94). -/
def TIL_TICK (t : Nat) : Nat := 0x1000008 + 0x10000 * t
def TIL_TICK_tick (t : Nat) : Fld := ⟨TIL_TICK t, 0, 48, .ro, .val 0x0⟩
/-- ME_CAP (04_matrix_engine.md, R124). -/
def ME_CAP (t : Nat) : Nat := 0x1000400 + 0x10000 * t
def ME_CAP_dpus (t : Nat) : Fld := ⟨ME_CAP t, 0, 9, .ro, .val 0x100⟩
def ME_CAP_bench_dpus (t : Nat) : Fld := ⟨ME_CAP t, 9, 4, .ro, .val 0x8⟩
def ME_CAP_lanes (t : Nat) : Fld := ⟨ME_CAP t, 13, 8, .ro, .val 0x80⟩
def ME_CAP_acc_open (t : Nat) : Fld := ⟨ME_CAP t, 21, 9, .ro, .val 0x100⟩
def ME_CAP_acc_exam (t : Nat) : Fld := ⟨ME_CAP t, 30, 8, .ro, .val 0x30⟩
def ME_CAP_wbuf_lines (t : Nat) : Fld := ⟨ME_CAP t, 38, 8, .ro, .val 0x68⟩
def ME_CAP_long_bits (t : Nat) : Fld := ⟨ME_CAP t, 46, 8, .ro, .val 0xA0⟩
/-- ME_STATUS (04_matrix_engine.md, R124). -/
def ME_STATUS (t : Nat) : Nat := 0x1000408 + 0x10000 * t
def ME_STATUS_wbuf0_fmt (t : Nat) : Fld := ⟨ME_STATUS t, 0, 4, .ro, .val 0x0⟩
def ME_STATUS_wbuf0_sparse (t : Nat) : Fld := ⟨ME_STATUS t, 4, 1, .ro, .val 0x0⟩
def ME_STATUS_wbuf0_valid (t : Nat) : Fld := ⟨ME_STATUS t, 5, 1, .ro, .val 0x0⟩
def ME_STATUS_wbuf1_fmt (t : Nat) : Fld := ⟨ME_STATUS t, 8, 4, .ro, .val 0x0⟩
def ME_STATUS_wbuf1_sparse (t : Nat) : Fld := ⟨ME_STATUS t, 12, 1, .ro, .val 0x0⟩
def ME_STATUS_wbuf1_valid (t : Nat) : Fld := ⟨ME_STATUS t, 13, 1, .ro, .val 0x0⟩
def ME_STATUS_shadow_next (t : Nat) : Fld := ⟨ME_STATUS t, 16, 8, .ro, .val 0x0⟩
def ME_STATUS_shadow_width (t : Nat) : Fld := ⟨ME_STATUS t, 24, 4, .ro, .val 0x8⟩
/-- ME_MMA_COUNT (04_matrix_engine.md, R124). -/
def ME_MMA_COUNT (t : Nat) : Nat := 0x1000410 + 0x10000 * t
def ME_MMA_COUNT_mma (t : Nat) : Fld := ⟨ME_MMA_COUNT t, 0, 48, .ro, .val 0x0⟩
/-- ME_GATE (04_matrix_engine.md, R124). -/
def ME_GATE (t : Nat) : Nat := 0x1000418 + 0x10000 * t
def ME_GATE_gated_groups (t : Nat) : Fld := ⟨ME_GATE t, 0, 32, .rc, .val 0x0⟩
def ME_GATE_gated_mma (t : Nat) : Fld := ⟨ME_GATE t, 32, 32, .rc, .val 0x0⟩
/-- ME_SHADOW (04_matrix_engine.md, R124). -/
def ME_SHADOW (t : Nat) : Nat := 0x1000420 + 0x10000 * t
def ME_SHADOW_compares (t : Nat) : Fld := ⟨ME_SHADOW t, 0, 32, .rc, .val 0x0⟩
def ME_SHADOW_mismatches (t : Nat) : Fld := ⟨ME_SHADOW t, 32, 16, .rc, .val 0x0⟩
def ME_SHADOW_last_pos (t : Nat) : Fld := ⟨ME_SHADOW t, 48, 8, .ro, .val 0x0⟩
/-- ME_SHADOW_INFO (04_matrix_engine.md, R124). -/
def ME_SHADOW_INFO (t : Nat) : Nat := 0x1000428 + 0x10000 * t
def ME_SHADOW_INFO_last_mma (t : Nat) : Fld := ⟨ME_SHADOW_INFO t, 0, 48, .ro, .val 0x0⟩
/-- ME_ERR_INFO (04_matrix_engine.md, R124). -/
def ME_ERR_INFO (t : Nat) : Nat := 0x1000430 + 0x10000 * t
def ME_ERR_INFO_cause (t : Nat) : Fld := ⟨ME_ERR_INFO t, 0, 4, .ro, .val 0x0⟩
def ME_ERR_INFO_pc (t : Nat) : Fld := ⟨ME_ERR_INFO t, 4, 14, .ro, .val 0x0⟩
def ME_ERR_INFO_acc (t : Nat) : Fld := ⟨ME_ERR_INFO t, 18, 8, .ro, .val 0x0⟩
def ME_ERR_INFO_pos (t : Nat) : Fld := ⟨ME_ERR_INFO t, 26, 8, .ro, .val 0x0⟩
def ME_ERR_INFO_overflow (t : Nat) : Fld := ⟨ME_ERR_INFO t, 34, 1, .ro, .val 0x0⟩
def ME_ERR_INFO_nonfinite (t : Nat) : Fld := ⟨ME_ERR_INFO t, 35, 1, .ro, .val 0x0⟩
/-- NET_SPU_STATUS (05_sparsity_and_routing.md, R142). -/
def NET_SPU_STATUS : Nat := 0x58000
def NET_SPU_STATUS_busy : Fld := ⟨NET_SPU_STATUS, 0, 1, .ro, .val 0x0⟩
def NET_SPU_STATUS_filling : Fld := ⟨NET_SPU_STATUS, 1, 2, .ro, .val 0x0⟩
def NET_SPU_STATUS_bound : Fld := ⟨NET_SPU_STATUS, 3, 4, .ro, .val 0x0⟩
def NET_SPU_STATUS_last_period : Fld := ⟨NET_SPU_STATUS, 8, 32, .ro, .val 0x0⟩
def NET_SPU_STATUS_last_plan : Fld := ⟨NET_SPU_STATUS, 40, 2, .ro, .val 0x0⟩
def NET_SPU_STATUS_last_forced : Fld := ⟨NET_SPU_STATUS, 42, 1, .ro, .val 0x0⟩
/-- NET_SPU_ERR_INFO (05_sparsity_and_routing.md, R142). -/
def NET_SPU_ERR_INFO : Nat := 0x58018
def NET_SPU_ERR_INFO_seat : Fld := ⟨NET_SPU_ERR_INFO, 0, 16, .ro, .val 0x0⟩
def NET_SPU_ERR_INFO_bin : Fld := ⟨NET_SPU_ERR_INFO, 16, 8, .ro, .val 0x0⟩
def NET_SPU_ERR_INFO_plan : Fld := ⟨NET_SPU_ERR_INFO, 24, 2, .ro, .val 0x0⟩
def NET_SPU_ERR_INFO_reason : Fld := ⟨NET_SPU_ERR_INFO, 26, 2, .ro, .val 0x0⟩
def NET_SPU_ERR_INFO_sender : Fld := ⟨NET_SPU_ERR_INFO, 28, 12, .ro, .val 0x0⟩
def NET_SPU_ERR_INFO_valid : Fld := ⟨NET_SPU_ERR_INFO, 40, 1, .ro, .val 0x0⟩
/-- NET_SPU_FILL (05_sparsity_and_routing.md, R142). -/
def NET_SPU_FILL (i : Nat) : Nat := 0x58040 + 0x20 * i
def NET_SPU_FILL_placed (i : Nat) : Fld := ⟨NET_SPU_FILL i, 0, 16, .ro, .val 0x0⟩
def NET_SPU_FILL_carried_in (i : Nat) : Fld := ⟨NET_SPU_FILL i, 16, 16, .ro, .val 0x0⟩
def NET_SPU_FILL_carried_out (i : Nat) : Fld := ⟨NET_SPU_FILL i, 32, 16, .ro, .val 0x0⟩
def NET_SPU_FILL_dropped (i : Nat) : Fld := ⟨NET_SPU_FILL i, 48, 16, .ro, .val 0x0⟩
/-- NET_SPU_TOTAL (05_sparsity_and_routing.md, R142). -/
def NET_SPU_TOTAL (i : Nat) : Nat := 0x58048 + 0x20 * i
def NET_SPU_TOTAL_fills (i : Nat) : Fld := ⟨NET_SPU_TOTAL i, 0, 32, .rc, .val 0x0⟩
def NET_SPU_TOTAL_dropped_total (i : Nat) : Fld := ⟨NET_SPU_TOTAL i, 32, 32, .rc, .val 0x0⟩
/-- NET_SPU_REJECT (05_sparsity_and_routing.md, R142). -/
def NET_SPU_REJECT (i : Nat) : Nat := 0x58050 + 0x20 * i
def NET_SPU_REJECT_late (i : Nat) : Fld := ⟨NET_SPU_REJECT i, 0, 16, .rc, .val 0x0⟩
def NET_SPU_REJECT_bad_seat (i : Nat) : Fld := ⟨NET_SPU_REJECT i, 16, 16, .rc, .val 0x0⟩
def NET_SPU_REJECT_bad_bin (i : Nat) : Fld := ⟨NET_SPU_REJECT i, 32, 16, .rc, .val 0x0⟩
def NET_SPU_REJECT_over_limit (i : Nat) : Fld := ⟨NET_SPU_REJECT i, 48, 16, .rc, .val 0x0⟩
/-- NET_SPU_MISC (05_sparsity_and_routing.md, R142). -/
def NET_SPU_MISC (i : Nat) : Nat := 0x58058 + 0x20 * i
def NET_SPU_MISC_duplicates (i : Nat) : Fld := ⟨NET_SPU_MISC i, 0, 16, .rc, .val 0x0⟩
def NET_SPU_MISC_carry_discarded (i : Nat) : Fld := ⟨NET_SPU_MISC i, 16, 16, .rc, .val 0x0⟩
def NET_SPU_MISC_forced (i : Nat) : Fld := ⟨NET_SPU_MISC i, 32, 16, .rc, .val 0x0⟩
/-- VE_CAP (06_vector_engine_and_aides.md, R164). -/
def VE_CAP (t : Nat) : Nat := 0x1000500 + 0x10000 * t
def VE_CAP_lanes (t : Nat) : Fld := ⟨VE_CAP t, 0, 10, .ro, .val 0x100⟩
def VE_CAP_stages (t : Nat) : Fld := ⟨VE_CAP t, 10, 4, .ro, .val 0x8⟩
def VE_CAP_banks (t : Nat) : Fld := ⟨VE_CAP t, 14, 5, .ro, .val 0x10⟩
def VE_CAP_streams (t : Nat) : Fld := ⟨VE_CAP t, 19, 9, .ro, .val 0x100⟩
def VE_CAP_masks (t : Nat) : Fld := ⟨VE_CAP t, 28, 4, .ro, .val 0x4⟩
def VE_CAP_chains (t : Nat) : Fld := ⟨VE_CAP t, 32, 9, .ro, .val 0x100⟩
def VE_CAP_tray_lines (t : Nat) : Fld := ⟨VE_CAP t, 41, 10, .ro, .val 0x200⟩
/-- VE_TRAY (06_vector_engine_and_aides.md, R164). -/
def VE_TRAY (t : Nat) : Nat := 0x1000508 + 0x10000 * t
def VE_TRAY_entries (t : Nat) : Fld := ⟨VE_TRAY t, 0, 10, .ro, .val 0x0⟩
def VE_TRAY_free_lines (t : Nat) : Fld := ⟨VE_TRAY t, 10, 10, .ro, .val 0x200⟩
def VE_TRAY_head_long (t : Nat) : Fld := ⟨VE_TRAY t, 20, 1, .ro, .val 0x0⟩
def VE_TRAY_head_visible (t : Nat) : Fld := ⟨VE_TRAY t, 21, 1, .ro, .val 0x0⟩
def VE_TRAY_peak_lines (t : Nat) : Fld := ⟨VE_TRAY t, 22, 10, .rc, .val 0x0⟩
/-- VE_COUNT (06_vector_engine_and_aides.md, R164). -/
def VE_COUNT (t : Nat) : Nat := 0x1000510 + 0x10000 * t
def VE_COUNT_chains (t : Nat) : Fld := ⟨VE_COUNT t, 0, 32, .rc, .val 0x0⟩
def VE_COUNT_pops (t : Nat) : Fld := ⟨VE_COUNT t, 32, 32, .rc, .val 0x0⟩
/-- VE_ERR_INFO (06_vector_engine_and_aides.md, R164). -/
def VE_ERR_INFO (t : Nat) : Nat := 0x1000518 + 0x10000 * t
def VE_ERR_INFO_cause (t : Nat) : Fld := ⟨VE_ERR_INFO t, 0, 4, .ro, .val 0x0⟩
def VE_ERR_INFO_pc (t : Nat) : Fld := ⟨VE_ERR_INFO t, 4, 14, .ro, .val 0x0⟩
def VE_ERR_INFO_chain (t : Nat) : Fld := ⟨VE_ERR_INFO t, 18, 8, .ro, .val 0x0⟩
/-- AID_CAP (06_vector_engine_and_aides.md, R164). -/
def AID_CAP (t : Nat) : Nat := 0x1000600 + 0x10000 * t
def AID_CAP_aides (t : Nat) : Fld := ⟨AID_CAP t, 0, 5, .ro, .val 0x10⟩
def AID_CAP_bench (t : Nat) : Fld := ⟨AID_CAP t, 5, 2, .ro, .val 0x1⟩
def AID_CAP_regs (t : Nat) : Fld := ⟨AID_CAP t, 7, 6, .ro, .val 0x20⟩
def AID_CAP_preds (t : Nat) : Fld := ⟨AID_CAP t, 13, 4, .ro, .val 0x8⟩
def AID_CAP_spad_kib (t : Nat) : Fld := ⟨AID_CAP t, 17, 10, .ro, .val 0x100⟩
/-- AID_LOCKER (06_vector_engine_and_aides.md, R164). -/
def AID_LOCKER (t : Nat) : Nat := 0x1000608 + 0x10000 * t
def AID_LOCKER_fetches (t : Nat) : Fld := ⟨AID_LOCKER t, 0, 32, .rc, .val 0x0⟩
def AID_LOCKER_writes (t : Nat) : Fld := ⟨AID_LOCKER t, 32, 32, .rc, .val 0x0⟩
/-- AID_ERR_INFO (06_vector_engine_and_aides.md, R164). -/
def AID_ERR_INFO (t : Nat) : Nat := 0x1000610 + 0x10000 * t
def AID_ERR_INFO_cause (t : Nat) : Fld := ⟨AID_ERR_INFO t, 0, 4, .ro, .val 0x0⟩
def AID_ERR_INFO_pc (t : Nat) : Fld := ⟨AID_ERR_INFO t, 4, 14, .ro, .val 0x0⟩
def AID_ERR_INFO_aide (t : Nat) : Fld := ⟨AID_ERR_INFO t, 18, 4, .ro, .val 0x0⟩
def AID_ERR_INFO_op (t : Nat) : Fld := ⟨AID_ERR_INFO t, 22, 7, .ro, .val 0x0⟩
/-- SPD_CLASS (07_memory_tiers_and_transfers.md, R200). -/
def SPD_CLASS (t : Nat) : Nat := 0x1000700 + 0x10000 * t
def SPD_CLASS_me_weight_pages (t : Nat) : Fld := ⟨SPD_CLASS t, 0, 24, .ro, .val 0x0⟩
/-- SPD_ECC (07_memory_tiers_and_transfers.md, R200). -/
def SPD_ECC (t : Nat) : Nat := 0x1000708 + 0x10000 * t
def SPD_ECC_me_corrected (t : Nat) : Fld := ⟨SPD_ECC t, 0, 16, .rc, .val 0x0⟩
def SPD_ECC_ve_corrected (t : Nat) : Fld := ⟨SPD_ECC t, 16, 16, .rc, .val 0x0⟩
def SPD_ECC_aide_corrected (t : Nat) : Fld := ⟨SPD_ECC t, 32, 16, .rc, .val 0x0⟩
def SPD_ECC_array_corrected (t : Nat) : Fld := ⟨SPD_ECC t, 48, 16, .rc, .val 0x0⟩
/-- BDR_REFRESH (07_memory_tiers_and_transfers.md, R200). -/
def BDR_REFRESH (t : Nat) : Nat := 0x1000780 + 0x10000 * t
def BDR_REFRESH_oldest_age_us (t : Nat) : Fld := ⟨BDR_REFRESH t, 0, 24, .ro, .val 0x0⟩
def BDR_REFRESH_refr (t : Nat) : Fld := ⟨BDR_REFRESH t, 24, 16, .rc, .val 0x0⟩
def BDR_REFRESH_controller (t : Nat) : Fld := ⟨BDR_REFRESH t, 40, 16, .rc, .val 0x0⟩
def BDR_REFRESH_late (t : Nat) : Fld := ⟨BDR_REFRESH t, 56, 8, .rc, .val 0x0⟩
/-- BDR_STATIC (07_memory_tiers_and_transfers.md, R200). -/
def BDR_STATIC (t : Nat) : Nat := 0x1000788 + 0x10000 * t
def BDR_STATIC_held_ticks (t : Nat) : Fld := ⟨BDR_STATIC t, 0, 32, .rc, .val 0x0⟩
def BDR_STATIC_conflicts (t : Nat) : Fld := ⟨BDR_STATIC t, 32, 16, .rc, .val 0x0⟩
def BDR_STATIC_crc_resends (t : Nat) : Fld := ⟨BDR_STATIC t, 48, 8, .rc, .val 0x0⟩
def BDR_STATIC_corrected (t : Nat) : Fld := ⟨BDR_STATIC t, 56, 8, .rc, .val 0x0⟩
/-- TIL_LPASS (07_memory_tiers_and_transfers.md, R200). -/
def TIL_LPASS (t : Nat) : Nat := 0x1000800 + 0x10000 * t
def TIL_LPASS_outstanding0 (t : Nat) : Fld := ⟨TIL_LPASS t, 0, 3, .ro, .val 0x0⟩
def TIL_LPASS_outstanding1 (t : Nat) : Fld := ⟨TIL_LPASS t, 4, 3, .ro, .val 0x0⟩
def TIL_LPASS_excess_ticks (t : Nat) : Fld := ⟨TIL_LPASS t, 16, 16, .rc, .val 0x0⟩
def TIL_LPASS_issued (t : Nat) : Fld := ⟨TIL_LPASS t, 32, 32, .rc, .val 0x0⟩
/-- TIL_LPASS_BYTES (07_memory_tiers_and_transfers.md, R200). -/
def TIL_LPASS_BYTES (t : Nat) : Nat := 0x1000808 + 0x10000 * t
def TIL_LPASS_BYTES_bytes (t : Nat) : Fld := ⟨TIL_LPASS_BYTES t, 0, 64, .rc, .val 0x0⟩
/-- TIL_XFER_ERR (07_memory_tiers_and_transfers.md, R200). -/
def TIL_XFER_ERR (t : Nat) : Nat := 0x1000810 + 0x10000 * t
def TIL_XFER_ERR_cause (t : Nat) : Fld := ⟨TIL_XFER_ERR t, 0, 4, .ro, .val 0x0⟩
def TIL_XFER_ERR_pc (t : Nat) : Fld := ⟨TIL_XFER_ERR t, 4, 14, .ro, .val 0x0⟩
def TIL_XFER_ERR_tmpl (t : Nat) : Fld := ⟨TIL_XFER_ERR t, 18, 10, .ro, .val 0x0⟩
def TIL_XFER_ERR_eng (t : Nat) : Fld := ⟨TIL_XFER_ERR t, 28, 1, .ro, .val 0x0⟩
def TIL_XFER_ERR_piece (t : Nat) : Fld := ⟨TIL_XFER_ERR t, 29, 24, .ro, .val 0x0⟩
/-- LPD_STATUS (07_memory_tiers_and_transfers.md, R201). -/
def LPD_STATUS : Nat := 0x60000
def LPD_STATUS_stack_up : Fld := ⟨LPD_STATUS, 0, 22, .ro, .val 0x0⟩
def LPD_STATUS_rate : Fld := ⟨LPD_STATUS, 32, 2, .ro, .val 0x0⟩
/-- LPD_ECC (07_memory_tiers_and_transfers.md, R201). -/
def LPD_ECC : Nat := 0x60008
def LPD_ECC_corrected : Fld := ⟨LPD_ECC, 0, 32, .rc, .val 0x0⟩
def LPD_ECC_device_corrected : Fld := ⟨LPD_ECC, 32, 16, .rc, .val 0x0⟩
def LPD_ECC_uncorrectable : Fld := ⟨LPD_ECC, 48, 16, .rc, .val 0x0⟩
/-- LPD_SCRUB (07_memory_tiers_and_transfers.md, R201). -/
def LPD_SCRUB : Nat := 0x60010
def LPD_SCRUB_en : Fld := ⟨LPD_SCRUB, 0, 1, .rw, .val 0x1⟩
def LPD_SCRUB_scrub_hours : Fld := ⟨LPD_SCRUB, 8, 8, .rw, .val 0x18⟩
def LPD_SCRUB_passes : Fld := ⟨LPD_SCRUB, 16, 16, .ro, .val 0x0⟩
/-- LPD_LKS_BASE (07_memory_tiers_and_transfers.md, R201). -/
def LPD_LKS_BASE (i : Nat) : Nat := 0x60100 + 0x20 * i
def LPD_LKS_BASE_base (i : Nat) : Fld := ⟨LPD_LKS_BASE i, 0, 64, .rw, .val 0x0⟩
/-- LPD_LKS_HEAD (07_memory_tiers_and_transfers.md, R201). -/
def LPD_LKS_HEAD (i : Nat) : Nat := 0x60108 + 0x20 * i
def LPD_LKS_HEAD_head_base (i : Nat) : Fld := ⟨LPD_LKS_HEAD i, 0, 64, .rw, .val 0x0⟩
/-- LPD_LKS_SHAPE (07_memory_tiers_and_transfers.md, R201). -/
def LPD_LKS_SHAPE (i : Nat) : Nat := 0x60110 + 0x20 * i
def LPD_LKS_SHAPE_locker_units (i : Nat) : Fld := ⟨LPD_LKS_SHAPE i, 0, 16, .rw, .val 0x0⟩
def LPD_LKS_SHAPE_event_units (i : Nat) : Fld := ⟨LPD_LKS_SHAPE i, 16, 12, .rw, .val 0x0⟩
def LPD_LKS_SHAPE_valid (i : Nat) : Fld := ⟨LPD_LKS_SHAPE i, 63, 1, .ro, .val 0x0⟩
/-- LPD_LKS_COUNT (07_memory_tiers_and_transfers.md, R201). -/
def LPD_LKS_COUNT (i : Nat) : Nat := 0x60118 + 0x20 * i
def LPD_LKS_COUNT_count (i : Nat) : Fld := ⟨LPD_LKS_COUNT i, 0, 40, .rw, .val 0x0⟩
/-- HST_BAR4_LOG (07_memory_tiers_and_transfers.md, R202). -/
def HST_BAR4_LOG : Nat := 0x40
def HST_BAR4_LOG_addr : Fld := ⟨HST_BAR4_LOG, 0, 48, .ro, .val 0x0⟩
def HST_BAR4_LOG_write : Fld := ⟨HST_BAR4_LOG, 48, 1, .ro, .val 0x0⟩
def HST_BAR4_LOG_sealed : Fld := ⟨HST_BAR4_LOG, 49, 1, .ro, .val 0x0⟩
def HST_BAR4_LOG_partition : Fld := ⟨HST_BAR4_LOG, 50, 3, .ro, .val 0x0⟩
def HST_BAR4_LOG_valid : Fld := ⟨HST_BAR4_LOG, 63, 1, .ro, .val 0x0⟩
/-- CH_ROUTE (08_channels_and_sync.md, R203). -/
def CH_ROUTE (t i : Nat) : Nat := 0x1000900 + 0x10000 * t + 0x8 * i
def CH_ROUTE_dst_tile (t i : Nat) : Fld := ⟨CH_ROUTE t i, 0, 12, .ro, .val 0x0⟩
def CH_ROUTE_dst_q (t i : Nat) : Fld := ⟨CH_ROUTE t i, 12, 4, .ro, .val 0x0⟩
def CH_ROUTE_path (t i : Nat) : Fld := ⟨CH_ROUTE t i, 16, 2, .ro, .val 0x0⟩
def CH_ROUTE_depth (t i : Nat) : Fld := ⟨CH_ROUTE t i, 18, 8, .ro, .val 0x0⟩
def CH_ROUTE_open_at_kickoff (t i : Nat) : Fld := ⟨CH_ROUTE t i, 26, 1, .ro, .val 0x0⟩
def CH_ROUTE_arr_en (t i : Nat) : Fld := ⟨CH_ROUTE t i, 27, 1, .ro, .val 0x0⟩
def CH_ROUTE_cred_en (t i : Nat) : Fld := ⟨CH_ROUTE t i, 28, 1, .ro, .val 0x0⟩
def CH_ROUTE_arr_ctr (t i : Nat) : Fld := ⟨CH_ROUTE t i, 32, 16, .ro, .val 0x0⟩
def CH_ROUTE_cred_ctr (t i : Nat) : Fld := ⟨CH_ROUTE t i, 48, 16, .ro, .val 0x0⟩
/-- CH_QSTAT (08_channels_and_sync.md, R228). -/
def CH_QSTAT (t i : Nat) : Nat := 0x1000980 + 0x10000 * t + 0x8 * i
def CH_QSTAT_depth (t i : Nat) : Fld := ⟨CH_QSTAT t i, 0, 8, .ro, .val 0x0⟩
def CH_QSTAT_fill (t i : Nat) : Fld := ⟨CH_QSTAT t i, 8, 8, .ro, .val 0x0⟩
def CH_QSTAT_open (t i : Nat) : Fld := ⟨CH_QSTAT t i, 16, 1, .ro, .val 0x0⟩
def CH_QSTAT_incarnation (t i : Nat) : Fld := ⟨CH_QSTAT t i, 17, 8, .ro, .val 0x0⟩
def CH_QSTAT_writer_tile (t i : Nat) : Fld := ⟨CH_QSTAT t i, 32, 12, .ro, .val 0x0⟩
def CH_QSTAT_writer_ep (t i : Nat) : Fld := ⟨CH_QSTAT t i, 44, 4, .ro, .val 0x0⟩
def CH_QSTAT_unread (t i : Nat) : Fld := ⟨CH_QSTAT t i, 48, 8, .rc, .val 0x0⟩
def CH_QSTAT_orphans (t i : Nat) : Fld := ⟨CH_QSTAT t i, 56, 8, .rc, .val 0x0⟩
/-- CH_EPSTAT (08_channels_and_sync.md, R228). -/
def CH_EPSTAT (t i : Nat) : Nat := 0x1000A00 + 0x10000 * t + 0x8 * i
def CH_EPSTAT_credits (t i : Nat) : Fld := ⟨CH_EPSTAT t i, 0, 8, .ro, .val 0x0⟩
def CH_EPSTAT_open (t i : Nat) : Fld := ⟨CH_EPSTAT t i, 8, 1, .ro, .val 0x0⟩
def CH_EPSTAT_link (t i : Nat) : Fld := ⟨CH_EPSTAT t i, 9, 2, .ro, .val 0x0⟩
def CH_EPSTAT_orphan_sends (t i : Nat) : Fld := ⟨CH_EPSTAT t i, 32, 16, .rc, .val 0x0⟩
def CH_EPSTAT_held_ticks (t i : Nat) : Fld := ⟨CH_EPSTAT t i, 48, 16, .rc, .val 0x0⟩
/-- CH_STALE (08_channels_and_sync.md, R228). -/
def CH_STALE (t : Nat) : Nat := 0x1000A80 + 0x10000 * t
def CH_STALE_lines (t : Nat) : Fld := ⟨CH_STALE t, 0, 32, .rc, .val 0x0⟩
/-- CH_ORPHAN (08_channels_and_sync.md, R228). -/
def CH_ORPHAN (t : Nat) : Nat := 0x1000A88 + 0x10000 * t
def CH_ORPHAN_tile (t : Nat) : Fld := ⟨CH_ORPHAN t, 0, 12, .ro, .val 0x0⟩
def CH_ORPHAN_queue (t : Nat) : Fld := ⟨CH_ORPHAN t, 12, 4, .ro, .val 0x0⟩
def CH_ORPHAN_endpoint (t : Nat) : Fld := ⟨CH_ORPHAN t, 16, 4, .ro, .val 0x0⟩
def CH_ORPHAN_at_reader (t : Nat) : Fld := ⟨CH_ORPHAN t, 20, 1, .ro, .val 0x0⟩
def CH_ORPHAN_pc (t : Nat) : Fld := ⟨CH_ORPHAN t, 21, 14, .ro, .val 0x0⟩
def CH_ORPHAN_valid (t : Nat) : Fld := ⟨CH_ORPHAN t, 63, 1, .ro, .val 0x0⟩
/-- CH_WDOG (08_channels_and_sync.md, R228). -/
def CH_WDOG (t : Nat) : Nat := 0x1000A90 + 0x10000 * t
def CH_WDOG_limit_log2 (t : Nat) : Fld := ⟨CH_WDOG t, 0, 5, .ro, .val 0x14⟩
def CH_WDOG_stalled (t : Nat) : Fld := ⟨CH_WDOG t, 8, 36, .ro, .val 0x0⟩
/-- SYN_CTR (08_channels_and_sync.md, R229). -/
def SYN_CTR (i : Nat) : Nat := 0x30000 + 0x8 * i
def SYN_CTR_value (i : Nat) : Fld := ⟨SYN_CTR i, 0, 24, .ro, .val 0x0⟩
def SYN_CTR_threshold (i : Nat) : Fld := ⟨SYN_CTR i, 24, 16, .ro, .val 0x0⟩
def SYN_CTR_epoch (i : Nat) : Fld := ⟨SYN_CTR i, 40, 8, .ro, .val 0x0⟩
def SYN_CTR_job_id (i : Nat) : Fld := ⟨SYN_CTR i, 48, 16, .ro, .val 0x0⟩
/-- SYN_STATS (08_channels_and_sync.md, R229). -/
def SYN_STATS : Nat := 0x38000
def SYN_STATS_stale : Fld := ⟨SYN_STATS, 0, 32, .rc, .val 0x0⟩
def SYN_STATS_overflow_ctr : Fld := ⟨SYN_STATS, 32, 16, .ro, .val 0x0⟩
def SYN_STATS_overflow_valid : Fld := ⟨SYN_STATS, 48, 1, .ro, .val 0x0⟩
/-- SYN_STALE_INFO (08_channels_and_sync.md, R229). -/
def SYN_STALE_INFO : Nat := 0x38008
def SYN_STALE_INFO_counter : Fld := ⟨SYN_STALE_INFO, 0, 16, .ro, .val 0x0⟩
def SYN_STALE_INFO_job_id : Fld := ⟨SYN_STALE_INFO, 16, 16, .ro, .val 0x0⟩
def SYN_STALE_INFO_epoch : Fld := ⟨SYN_STALE_INFO, 32, 8, .ro, .val 0x0⟩
def SYN_STALE_INFO_source : Fld := ⟨SYN_STALE_INFO, 40, 12, .ro, .val 0x0⟩
def SYN_STALE_INFO_valid : Fld := ⟨SYN_STALE_INFO, 63, 1, .ro, .val 0x0⟩
/-- CH_STALL_A (08_channels_and_sync.md, R229). -/
def CH_STALL_A : Nat := 0x38010
def CH_STALL_A_tile : Fld := ⟨CH_STALL_A, 0, 12, .ro, .val 0x0⟩
def CH_STALL_A_kind : Fld := ⟨CH_STALL_A, 12, 2, .ro, .val 0x0⟩
def CH_STALL_A_object : Fld := ⟨CH_STALL_A, 14, 16, .ro, .val 0x0⟩
def CH_STALL_A_job_id : Fld := ⟨CH_STALL_A, 30, 16, .ro, .val 0x0⟩
def CH_STALL_A_cause : Fld := ⟨CH_STALL_A, 46, 1, .ro, .val 0x0⟩
def CH_STALL_A_valid : Fld := ⟨CH_STALL_A, 63, 1, .ro, .val 0x0⟩
/-- CH_STALL_B (08_channels_and_sync.md, R229). -/
def CH_STALL_B : Nat := 0x38018
def CH_STALL_B_tile : Fld := ⟨CH_STALL_B, 0, 12, .ro, .val 0x0⟩
def CH_STALL_B_kind : Fld := ⟨CH_STALL_B, 12, 2, .ro, .val 0x0⟩
def CH_STALL_B_object : Fld := ⟨CH_STALL_B, 14, 16, .ro, .val 0x0⟩
def CH_STALL_B_job_id : Fld := ⟨CH_STALL_B, 30, 16, .ro, .val 0x0⟩
def CH_STALL_B_valid : Fld := ⟨CH_STALL_B, 63, 1, .ro, .val 0x0⟩
/-- TIL_MODE (09_compiler_contract.md, R248). -/
def TIL_MODE (t : Nat) : Nat := 0x1000010 + 0x10000 * t
def TIL_MODE_strict (t : Nat) : Fld := ⟨TIL_MODE t, 0, 1, .ro, .val 0x0⟩
def TIL_MODE_slip_fatal (t : Nat) : Fld := ⟨TIL_MODE t, 1, 1, .ro, .val 0x0⟩
def TIL_MODE_timing_model (t : Nat) : Fld := ⟨TIL_MODE t, 8, 8, .ro, .val 0x0⟩
def TIL_MODE_size_class (t : Nat) : Fld := ⟨TIL_MODE t, 16, 12, .ro, .val 0x0⟩
def TIL_MODE_task_tile (t : Nat) : Fld := ⟨TIL_MODE t, 28, 12, .ro, .val 0x0⟩
def TIL_MODE_bound (t : Nat) : Fld := ⟨TIL_MODE t, 40, 1, .ro, .val 0x0⟩
def TIL_MODE_job_id (t : Nat) : Fld := ⟨TIL_MODE t, 48, 16, .ro, .val 0x0⟩
/-- TIL_ERR (09_compiler_contract.md, R248). -/
def TIL_ERR (t : Nat) : Nat := 0x1000028 + 0x10000 * t
def TIL_ERR_code (t : Nat) : Fld := ⟨TIL_ERR t, 0, 6, .ro, .val 0x0⟩
def TIL_ERR_slot (t : Nat) : Fld := ⟨TIL_ERR t, 6, 3, .ro, .val 0x0⟩
def TIL_ERR_pc (t : Nat) : Fld := ⟨TIL_ERR t, 9, 14, .ro, .val 0x0⟩
def TIL_ERR_valid (t : Nat) : Fld := ⟨TIL_ERR t, 23, 1, .ro, .val 0x0⟩
/-- TIL_ERR_TICK (09_compiler_contract.md, R248). -/
def TIL_ERR_TICK (t : Nat) : Nat := 0x1000030 + 0x10000 * t
def TIL_ERR_TICK_tick (t : Nat) : Fld := ⟨TIL_ERR_TICK t, 0, 48, .ro, .val 0x0⟩
/-- TIL_SLIP (09_compiler_contract.md, R248). -/
def TIL_SLIP (t : Nat) : Nat := 0x1000038 + 0x10000 * t
def TIL_SLIP_slips (t : Nat) : Fld := ⟨TIL_SLIP t, 0, 32, .rc, .val 0x0⟩
def TIL_SLIP_records (t : Nat) : Fld := ⟨TIL_SLIP t, 32, 24, .rc, .val 0x0⟩
/-- TIL_GUARD (09_compiler_contract.md, R248). -/
def TIL_GUARD (t : Nat) : Nat := 0x1000040 + 0x10000 * t
def TIL_GUARD_held (t : Nat) : Fld := ⟨TIL_GUARD t, 0, 32, .rc, .val 0x0⟩
/-- TIL_SLIP_FIRST (09_compiler_contract.md, R248). -/
def TIL_SLIP_FIRST (t : Nat) : Nat := 0x1000048 + 0x10000 * t
def TIL_SLIP_FIRST_pc (t : Nat) : Fld := ⟨TIL_SLIP_FIRST t, 0, 14, .ro, .val 0x0⟩
def TIL_SLIP_FIRST_kind (t : Nat) : Fld := ⟨TIL_SLIP_FIRST t, 14, 4, .ro, .val 0x0⟩
def TIL_SLIP_FIRST_slot (t : Nat) : Fld := ⟨TIL_SLIP_FIRST t, 18, 3, .ro, .val 0x0⟩
def TIL_SLIP_FIRST_valid (t : Nat) : Fld := ⟨TIL_SLIP_FIRST t, 21, 1, .ro, .val 0x0⟩
/-- TIL_SLIP_FIRST_AT (09_compiler_contract.md, R248). -/
def TIL_SLIP_FIRST_AT (t : Nat) : Nat := 0x1000050 + 0x10000 * t
def TIL_SLIP_FIRST_AT_tick (t : Nat) : Fld := ⟨TIL_SLIP_FIRST_AT t, 0, 48, .ro, .val 0x0⟩
def TIL_SLIP_FIRST_AT_length (t : Nat) : Fld := ⟨TIL_SLIP_FIRST_AT t, 48, 16, .ro, .val 0x0⟩
/-- TIL_SLIP_LONG (09_compiler_contract.md, R248). -/
def TIL_SLIP_LONG (t : Nat) : Nat := 0x1000058 + 0x10000 * t
def TIL_SLIP_LONG_pc (t : Nat) : Fld := ⟨TIL_SLIP_LONG t, 0, 14, .ro, .val 0x0⟩
def TIL_SLIP_LONG_kind (t : Nat) : Fld := ⟨TIL_SLIP_LONG t, 14, 4, .ro, .val 0x0⟩
def TIL_SLIP_LONG_slot (t : Nat) : Fld := ⟨TIL_SLIP_LONG t, 18, 3, .ro, .val 0x0⟩
def TIL_SLIP_LONG_valid (t : Nat) : Fld := ⟨TIL_SLIP_LONG t, 21, 1, .ro, .val 0x0⟩
/-- TIL_SLIP_LONG_AT (09_compiler_contract.md, R248). -/
def TIL_SLIP_LONG_AT (t : Nat) : Nat := 0x1000060 + 0x10000 * t
def TIL_SLIP_LONG_AT_tick (t : Nat) : Fld := ⟨TIL_SLIP_LONG_AT t, 0, 48, .ro, .val 0x0⟩
def TIL_SLIP_LONG_AT_length (t : Nat) : Fld := ⟨TIL_SLIP_LONG_AT t, 48, 16, .ro, .val 0x0⟩
/-- HQ_SQ_BASE (10_jobs_graphs_and_timetable.md, R274). -/
def HQ_SQ_BASE (i : Nat) : Nat := 0x40000 + 0x40 * i
def HQ_SQ_BASE_base (i : Nat) : Fld := ⟨HQ_SQ_BASE i, 12, 52, .rw, .val 0x0⟩
/-- HQ_SQ_CFG (10_jobs_graphs_and_timetable.md, R274). -/
def HQ_SQ_CFG (i : Nat) : Nat := 0x40008 + 0x40 * i
def HQ_SQ_CFG_log2_entries (i : Nat) : Fld := ⟨HQ_SQ_CFG i, 0, 5, .rw, .val 0x4⟩
def HQ_SQ_CFG_en (i : Nat) : Fld := ⟨HQ_SQ_CFG i, 5, 1, .rw, .val 0x0⟩
def HQ_SQ_CFG_cq (i : Nat) : Fld := ⟨HQ_SQ_CFG i, 6, 4, .rw, .val 0x0⟩
def HQ_SQ_CFG_partition (i : Nat) : Fld := ⟨HQ_SQ_CFG i, 10, 3, .rw, .val 0x0⟩
/-- HQ_DEPTH (10_jobs_graphs_and_timetable.md, R274). -/
def HQ_DEPTH (i : Nat) : Nat := 0x40010 + 0x40 * i
def HQ_DEPTH_head (i : Nat) : Fld := ⟨HQ_DEPTH i, 0, 17, .ro, .val 0x0⟩
def HQ_DEPTH_free (i : Nat) : Fld := ⟨HQ_DEPTH i, 17, 17, .ro, .val 0x0⟩
def HQ_DEPTH_pending (i : Nat) : Fld := ⟨HQ_DEPTH i, 34, 17, .ro, .val 0x0⟩
/-- HQ_CQ_BASE (10_jobs_graphs_and_timetable.md, R274). -/
def HQ_CQ_BASE (i : Nat) : Nat := 0x40018 + 0x40 * i
def HQ_CQ_BASE_base (i : Nat) : Fld := ⟨HQ_CQ_BASE i, 12, 52, .rw, .val 0x0⟩
/-- HQ_CQ_CFG (10_jobs_graphs_and_timetable.md, R274). -/
def HQ_CQ_CFG (i : Nat) : Nat := 0x40020 + 0x40 * i
def HQ_CQ_CFG_log2_entries (i : Nat) : Fld := ⟨HQ_CQ_CFG i, 0, 5, .rw, .val 0x4⟩
def HQ_CQ_CFG_en (i : Nat) : Fld := ⟨HQ_CQ_CFG i, 5, 1, .rw, .val 0x0⟩
/-- HQ_CQ_STATUS (10_jobs_graphs_and_timetable.md, R274). -/
def HQ_CQ_STATUS (i : Nat) : Nat := 0x40028 + 0x40 * i
def HQ_CQ_STATUS_tail (i : Nat) : Fld := ⟨HQ_CQ_STATUS i, 0, 17, .ro, .val 0x0⟩
def HQ_CQ_STATUS_held (i : Nat) : Fld := ⟨HQ_CQ_STATUS i, 17, 9, .ro, .val 0x0⟩
def HQ_CQ_STATUS_reserved_space (i : Nat) : Fld := ⟨HQ_CQ_STATUS i, 26, 9, .ro, .val 0x0⟩
/-- CTL_DISP_STATUS (10_jobs_graphs_and_timetable.md, R276). -/
def CTL_DISP_STATUS : Nat := 0x12000
def CTL_DISP_STATUS_running : Fld := ⟨CTL_DISP_STATUS, 0, 8, .ro, .val 0x0⟩
def CTL_DISP_STATUS_pending : Fld := ⟨CTL_DISP_STATUS, 8, 16, .ro, .val 0x0⟩
def CTL_DISP_STATUS_jobs : Fld := ⟨CTL_DISP_STATUS, 24, 16, .ro, .val 0x0⟩
/-- CTL_PERIOD_NUM (10_jobs_graphs_and_timetable.md, R276). -/
def CTL_PERIOD_NUM (i : Nat) : Nat := 0x12100 + 0x20 * i
def CTL_PERIOD_NUM_period (i : Nat) : Fld := ⟨CTL_PERIOD_NUM i, 0, 32, .ro, .val 0x0⟩
def CTL_PERIOD_NUM_job_id (i : Nat) : Fld := ⟨CTL_PERIOD_NUM i, 32, 16, .ro, .val 0x0⟩
def CTL_PERIOD_NUM_bound (i : Nat) : Fld := ⟨CTL_PERIOD_NUM i, 48, 1, .ro, .val 0x0⟩
/-- CTL_PERIOD_MARGIN (10_jobs_graphs_and_timetable.md, R276). -/
def CTL_PERIOD_MARGIN (i : Nat) : Nat := 0x12108 + 0x20 * i
def CTL_PERIOD_MARGIN_min_margin_inv (i : Nat) : Fld := ⟨CTL_PERIOD_MARGIN i, 0, 32, .rc, .val 0x0⟩
def CTL_PERIOD_MARGIN_last_margin_ns (i : Nat) : Fld := ⟨CTL_PERIOD_MARGIN i, 32, 32, .ro, .val 0x0⟩
/-- CTL_PERIOD_COUNT (10_jobs_graphs_and_timetable.md, R276). -/
def CTL_PERIOD_COUNT (i : Nat) : Nat := 0x12110 + 0x20 * i
def CTL_PERIOD_COUNT_overruns (i : Nat) : Fld := ⟨CTL_PERIOD_COUNT i, 0, 16, .rc, .val 0x0⟩
def CTL_PERIOD_COUNT_skipped (i : Nat) : Fld := ⟨CTL_PERIOD_COUNT i, 16, 16, .rc, .val 0x0⟩
def CTL_PERIOD_COUNT_late_periods (i : Nat) : Fld := ⟨CTL_PERIOD_COUNT i, 32, 16, .rc, .val 0x0⟩
def CTL_PERIOD_COUNT_retakes (i : Nat) : Fld := ⟨CTL_PERIOD_COUNT i, 48, 16, .rc, .val 0x0⟩
/-- CTL_PERIOD_LATE (10_jobs_graphs_and_timetable.md, R276). -/
def CTL_PERIOD_LATE (i : Nat) : Nat := 0x12118 + 0x20 * i
def CTL_PERIOD_LATE_late_replies (i : Nat) : Fld := ⟨CTL_PERIOD_LATE i, 0, 32, .rc, .val 0x0⟩
def CTL_PERIOD_LATE_late_scores (i : Nat) : Fld := ⟨CTL_PERIOD_LATE i, 32, 16, .rc, .val 0x0⟩
def CTL_PERIOD_LATE_miss_records (i : Nat) : Fld := ⟨CTL_PERIOD_LATE i, 48, 16, .ro, .val 0x0⟩
/-- NET_PORT_CFG (11_network_and_ingest.md, R304). -/
def NET_PORT_CFG (i : Nat) : Nat := 0x50000 + 0x80 * i
def NET_PORT_CFG_mode (i : Nat) : Fld := ⟨NET_PORT_CFG i, 0, 2, .rw, .val 0x0⟩
def NET_PORT_CFG_en (i : Nat) : Fld := ⟨NET_PORT_CFG i, 2, 1, .rw, .val 0x0⟩
def NET_PORT_CFG_macsec_req (i : Nat) : Fld := ⟨NET_PORT_CFG i, 3, 1, .rw, .val 0x0⟩
def NET_PORT_CFG_ptp_clear (i : Nat) : Fld := ⟨NET_PORT_CFG i, 4, 1, .rw, .val 0x0⟩
def NET_PORT_CFG_vlan_en (i : Nat) : Fld := ⟨NET_PORT_CFG i, 5, 1, .rw, .val 0x0⟩
def NET_PORT_CFG_vid (i : Nat) : Fld := ⟨NET_PORT_CFG i, 8, 12, .rw, .val 0x0⟩
/-- NET_PORT_STATUS (11_network_and_ingest.md, R304). -/
def NET_PORT_STATUS (i : Nat) : Nat := 0x50008 + 0x80 * i
def NET_PORT_STATUS_link_up (i : Nat) : Fld := ⟨NET_PORT_STATUS i, 0, 4, .ro, .val 0x0⟩
def NET_PORT_STATUS_fec_corrected (i : Nat) : Fld := ⟨NET_PORT_STATUS i, 16, 32, .rc, .val 0x0⟩
def NET_PORT_STATUS_fec_uncorrected (i : Nat) : Fld := ⟨NET_PORT_STATUS i, 48, 16, .rc, .val 0x0⟩
/-- NET_PORT_RX (11_network_and_ingest.md, R304). -/
def NET_PORT_RX (i : Nat) : Nat := 0x50010 + 0x80 * i
def NET_PORT_RX_miobel (i : Nat) : Fld := ⟨NET_PORT_RX i, 0, 32, .rc, .val 0x0⟩
def NET_PORT_RX_ptp (i : Nat) : Fld := ⟨NET_PORT_RX i, 32, 16, .rc, .val 0x0⟩
def NET_PORT_RX_firmware (i : Nat) : Fld := ⟨NET_PORT_RX i, 48, 16, .rc, .val 0x0⟩
/-- NET_PORT_DROP (11_network_and_ingest.md, R304). -/
def NET_PORT_DROP (i : Nat) : Nat := 0x50018 + 0x80 * i
def NET_PORT_DROP_fcs (i : Nat) : Fld := ⟨NET_PORT_DROP i, 0, 16, .rc, .val 0x0⟩
def NET_PORT_DROP_macsec (i : Nat) : Fld := ⟨NET_PORT_DROP i, 16, 16, .rc, .val 0x0⟩
def NET_PORT_DROP_header (i : Nat) : Fld := ⟨NET_PORT_DROP i, 32, 16, .rc, .val 0x0⟩
def NET_PORT_DROP_other (i : Nat) : Fld := ⟨NET_PORT_DROP i, 48, 16, .rc, .val 0x0⟩
/-- NET_PTP_ASYM (11_network_and_ingest.md, R304). -/
def NET_PTP_ASYM (i : Nat) : Nat := 0x50020 + 0x80 * i
def NET_PTP_ASYM_asym_ns (i : Nat) : Fld := ⟨NET_PTP_ASYM i, 0, 16, .rw, .val 0x0⟩
/-- NET_SUB_ADDR_HI (11_network_and_ingest.md, R304). -/
def NET_SUB_ADDR_HI (i j : Nat) : Nat := 0x50040 + 0x80 * i + 0x10 * j
def NET_SUB_ADDR_HI_addr_hi (i j : Nat) : Fld := ⟨NET_SUB_ADDR_HI i j, 0, 64, .rw, .val 0x0⟩
/-- NET_SUB_ADDR_LO (11_network_and_ingest.md, R304). -/
def NET_SUB_ADDR_LO (i j : Nat) : Nat := 0x50048 + 0x80 * i + 0x10 * j
def NET_SUB_ADDR_LO_addr_lo (i j : Nat) : Fld := ⟨NET_SUB_ADDR_LO i j, 0, 64, .rw, .val 0x0⟩
/-- NET_ASSOC_IP_HI (11_network_and_ingest.md, R305). -/
def NET_ASSOC_IP_HI (i : Nat) : Nat := 0x51000 + 0x20 * i
def NET_ASSOC_IP_HI_ip_hi (i : Nat) : Fld := ⟨NET_ASSOC_IP_HI i, 0, 64, .rw, .val 0x0⟩
/-- NET_ASSOC_IP_LO (11_network_and_ingest.md, R305). -/
def NET_ASSOC_IP_LO (i : Nat) : Nat := 0x51008 + 0x20 * i
def NET_ASSOC_IP_LO_ip_lo (i : Nat) : Fld := ⟨NET_ASSOC_IP_LO i, 0, 64, .rw, .val 0x0⟩
/-- NET_ASSOC_CFG (11_network_and_ingest.md, R305). -/
def NET_ASSOC_CFG (i : Nat) : Nat := 0x51010 + 0x20 * i
def NET_ASSOC_CFG_peer_udp (i : Nat) : Fld := ⟨NET_ASSOC_CFG i, 0, 16, .rw, .val 0x0⟩
def NET_ASSOC_CFG_port (i : Nat) : Fld := ⟨NET_ASSOC_CFG i, 16, 4, .rw, .val 0x0⟩
def NET_ASSOC_CFG_subport (i : Nat) : Fld := ⟨NET_ASSOC_CFG i, 20, 2, .rw, .val 0x0⟩
def NET_ASSOC_CFG_valid (i : Nat) : Fld := ⟨NET_ASSOC_CFG i, 22, 1, .rw, .val 0x0⟩
def NET_ASSOC_CFG_kind (i : Nat) : Fld := ⟨NET_ASSOC_CFG i, 23, 1, .rw, .val 0x0⟩
def NET_ASSOC_CFG_coll_module (i : Nat) : Fld := ⟨NET_ASSOC_CFG i, 24, 4, .rw, .val 0x0⟩
def NET_ASSOC_CFG_epoch (i : Nat) : Fld := ⟨NET_ASSOC_CFG i, 32, 8, .ro, .val 0x0⟩
/-- NET_ASSOC_STAT (11_network_and_ingest.md, R305). -/
def NET_ASSOC_STAT (i : Nat) : Nat := 0x51018 + 0x20 * i
def NET_ASSOC_STAT_rx (i : Nat) : Fld := ⟨NET_ASSOC_STAT i, 0, 32, .rc, .val 0x0⟩
def NET_ASSOC_STAT_dup (i : Nat) : Fld := ⟨NET_ASSOC_STAT i, 32, 16, .rc, .val 0x0⟩
def NET_ASSOC_STAT_stale (i : Nat) : Fld := ⟨NET_ASSOC_STAT i, 48, 16, .rc, .val 0x0⟩
/-- NET_MIOBEL_CFG (11_network_and_ingest.md, R306). -/
def NET_MIOBEL_CFG : Nat := 0x50800
def NET_MIOBEL_CFG_udp_port : Fld := ⟨NET_MIOBEL_CFG, 0, 16, .rw, .val 0x4B6E⟩
def NET_MIOBEL_CFG_reply_hold_ms : Fld := ⟨NET_MIOBEL_CFG, 16, 8, .rw, .val 0xA⟩
/-- NET_INGEST_STATUS (11_network_and_ingest.md, R306). -/
def NET_INGEST_STATUS : Nat := 0x50808
def NET_INGEST_STATUS_candidates : Fld := ⟨NET_INGEST_STATUS, 0, 14, .ro, .val 0x0⟩
def NET_INGEST_STATUS_seated_last : Fld := ⟨NET_INGEST_STATUS, 14, 16, .ro, .val 0x0⟩
def NET_INGEST_STATUS_deferred_last : Fld := ⟨NET_INGEST_STATUS, 30, 16, .ro, .val 0x0⟩
/-- NET_INGEST_REJECT (11_network_and_ingest.md, R306). -/
def NET_INGEST_REJECT : Nat := 0x50810
def NET_INGEST_REJECT_not_bound : Fld := ⟨NET_INGEST_REJECT, 0, 16, .rc, .val 0x0⟩
def NET_INGEST_REJECT_bad_form : Fld := ⟨NET_INGEST_REJECT, 16, 16, .rc, .val 0x0⟩
def NET_INGEST_REJECT_bad_length : Fld := ⟨NET_INGEST_REJECT, 32, 16, .rc, .val 0x0⟩
def NET_INGEST_REJECT_bad_field : Fld := ⟨NET_INGEST_REJECT, 48, 16, .rc, .val 0x0⟩
/-- NET_INGEST_MISC (11_network_and_ingest.md, R306). -/
def NET_INGEST_MISC : Nat := 0x50818
def NET_INGEST_MISC_busy : Fld := ⟨NET_INGEST_MISC, 0, 16, .rc, .val 0x0⟩
def NET_INGEST_MISC_dup : Fld := ⟨NET_INGEST_MISC, 16, 16, .rc, .val 0x0⟩
def NET_INGEST_MISC_stale : Fld := ⟨NET_INGEST_MISC, 32, 16, .rc, .val 0x0⟩
def NET_INGEST_MISC_deferred : Fld := ⟨NET_INGEST_MISC, 48, 16, .rc, .val 0x0⟩
/-- NET_REPLY_STATS (11_network_and_ingest.md, R306). -/
def NET_REPLY_STATS : Nat := 0x50820
def NET_REPLY_STATS_sent : Fld := ⟨NET_REPLY_STATS, 0, 32, .rc, .val 0x0⟩
def NET_REPLY_STATS_bad : Fld := ⟨NET_REPLY_STATS, 32, 12, .rc, .val 0x0⟩
def NET_REPLY_STATS_resent : Fld := ⟨NET_REPLY_STATS, 44, 12, .rc, .val 0x0⟩
def NET_REPLY_STATS_lost : Fld := ⟨NET_REPLY_STATS, 56, 8, .rc, .val 0x0⟩
/-- NET_COLL_CFG (11_network_and_ingest.md, R306). -/
def NET_COLL_CFG : Nat := 0x50900
def NET_COLL_CFG_modules : Fld := ⟨NET_COLL_CFG, 0, 5, .rw, .val 0x1⟩
def NET_COLL_CFG_index : Fld := ⟨NET_COLL_CFG, 5, 4, .rw, .val 0x0⟩
def NET_COLL_CFG_log2_local : Fld := ⟨NET_COLL_CFG, 9, 3, .rw, .val 0x0⟩
def NET_COLL_CFG_en : Fld := ⟨NET_COLL_CFG, 12, 1, .rw, .val 0x0⟩
def NET_COLL_CFG_rto_us : Fld := ⟨NET_COLL_CFG, 16, 8, .rw, .val 0x14⟩
/-- NET_COLL_STATS (11_network_and_ingest.md, R306). -/
def NET_COLL_STATS : Nat := 0x50908
def NET_COLL_STATS_segments : Fld := ⟨NET_COLL_STATS, 0, 32, .rc, .val 0x0⟩
def NET_COLL_STATS_retransmits : Fld := ⟨NET_COLL_STATS, 32, 16, .rc, .val 0x0⟩
def NET_COLL_STATS_dup : Fld := ⟨NET_COLL_STATS, 48, 16, .rc, .val 0x0⟩
/-- NET_COLL_ERR (11_network_and_ingest.md, R306). -/
def NET_COLL_ERR : Nat := 0x50910
def NET_COLL_ERR_cause : Fld := ⟨NET_COLL_ERR, 0, 2, .ro, .val 0x0⟩
def NET_COLL_ERR_layer : Fld := ⟨NET_COLL_ERR, 2, 16, .ro, .val 0x0⟩
def NET_COLL_ERR_segment : Fld := ⟨NET_COLL_ERR, 18, 32, .ro, .val 0x0⟩
def NET_COLL_ERR_rank : Fld := ⟨NET_COLL_ERR, 50, 10, .ro, .val 0x0⟩
def NET_COLL_ERR_valid : Fld := ⟨NET_COLL_ERR, 63, 1, .ro, .val 0x0⟩
/-- NET_PAIR_STATUS (11_network_and_ingest.md, R306). -/
def NET_PAIR_STATUS (i : Nat) : Nat := 0x50A00 + 0x10 * i
def NET_PAIR_STATUS_up (i : Nat) : Fld := ⟨NET_PAIR_STATUS i, 0, 1, .ro, .val 0x0⟩
def NET_PAIR_STATUS_lanes_ok (i : Nat) : Fld := ⟨NET_PAIR_STATUS i, 8, 8, .ro, .val 0x0⟩
def NET_PAIR_STATUS_resends (i : Nat) : Fld := ⟨NET_PAIR_STATUS i, 16, 32, .rc, .val 0x0⟩
def NET_PAIR_STATUS_down_events (i : Nat) : Fld := ⟨NET_PAIR_STATUS i, 48, 16, .rc, .val 0x0⟩
/-- NET_PAIR_CFG (11_network_and_ingest.md, R306). -/
def NET_PAIR_CFG (i : Nat) : Nat := 0x50A08 + 0x10 * i
def NET_PAIR_CFG_en (i : Nat) : Fld := ⟨NET_PAIR_CFG i, 0, 1, .rw, .val 0x0⟩
def NET_PAIR_CFG_hb_us (i : Nat) : Fld := ⟨NET_PAIR_CFG i, 8, 8, .rw, .val 0xA⟩
/-- GRD_JOB (12_grading_engine.md, R328). -/
def GRD_JOB : Nat := 0x70000
def GRD_JOB_job_id : Fld := ⟨GRD_JOB, 0, 16, .rw, .val 0x0⟩
def GRD_JOB_en : Fld := ⟨GRD_JOB, 16, 1, .rw, .val 0x0⟩
/-- GRD_TABLE (12_grading_engine.md, R328). -/
def GRD_TABLE : Nat := 0x70008
def GRD_TABLE_table_region : Fld := ⟨GRD_TABLE, 0, 16, .rw, .val 0x0⟩
def GRD_TABLE_journal_region : Fld := ⟨GRD_TABLE, 16, 16, .rw, .val 0x0⟩
def GRD_TABLE_layer_count : Fld := ⟨GRD_TABLE, 32, 13, .rw, .val 0x0⟩
/-- GRD_RING (12_grading_engine.md, R328). -/
def GRD_RING : Nat := 0x70010
def GRD_RING_ring_region : Fld := ⟨GRD_RING, 0, 16, .rw, .val 0x0⟩
def GRD_RING_log2_entries : Fld := ⟨GRD_RING, 16, 5, .rw, .val 0x4⟩
def GRD_RING_post_ctr : Fld := ⟨GRD_RING, 21, 16, .rw, .val 0x0⟩
/-- GRD_RING_OFF (12_grading_engine.md, R328). -/
def GRD_RING_OFF : Nat := 0x70018
def GRD_RING_OFF_ring_off : Fld := ⟨GRD_RING_OFF, 0, 64, .rw, .val 0x0⟩
/-- GRD_STATUS (12_grading_engine.md, R328). -/
def GRD_STATUS : Nat := 0x70020
def GRD_STATUS_open : Fld := ⟨GRD_STATUS, 0, 13, .ro, .val 0x0⟩
def GRD_STATUS_last_closed : Fld := ⟨GRD_STATUS, 13, 13, .ro, .val 0x0⟩
def GRD_STATUS_last_valid : Fld := ⟨GRD_STATUS, 26, 1, .ro, .val 0x0⟩
/-- GRD_COUNT (12_grading_engine.md, R328). -/
def GRD_COUNT : Nat := 0x70028
def GRD_COUNT_closes : Fld := ⟨GRD_COUNT, 0, 32, .rc, .val 0x0⟩
def GRD_COUNT_segments : Fld := ⟨GRD_COUNT, 32, 32, .rc, .val 0x0⟩
/-- GRD_FROZEN_HITS (12_grading_engine.md, R328). -/
def GRD_FROZEN_HITS : Nat := 0x70030
def GRD_FROZEN_HITS_hits : Fld := ⟨GRD_FROZEN_HITS, 0, 32, .rc, .val 0x0⟩
def GRD_FROZEN_HITS_last_layer : Fld := ⟨GRD_FROZEN_HITS, 32, 13, .ro, .val 0x0⟩
/-- GRD_ERR (12_grading_engine.md, R328). -/
def GRD_ERR : Nat := 0x70038
def GRD_ERR_cause : Fld := ⟨GRD_ERR, 0, 4, .ro, .val 0x0⟩
def GRD_ERR_layer : Fld := ⟨GRD_ERR, 4, 13, .ro, .val 0x0⟩
def GRD_ERR_tile : Fld := ⟨GRD_ERR, 17, 12, .ro, .val 0x0⟩
def GRD_ERR_valid : Fld := ⟨GRD_ERR, 63, 1, .ro, .val 0x0⟩
/-- GRD_NONFINITE (12_grading_engine.md, R328). -/
def GRD_NONFINITE : Nat := 0x70050
def GRD_NONFINITE_elements : Fld := ⟨GRD_NONFINITE, 0, 32, .rc, .val 0x0⟩
/-- GRD_STEP (12_grading_engine.md, R328). -/
def GRD_STEP (i : Nat) : Nat := 0x70100 + 0x8 * i
def GRD_STEP_step (i : Nat) : Fld := ⟨GRD_STEP i, 0, 32, .ro, .val 0x0⟩
/-- AUD_CFG (13_determinism_and_audit.md, R349). -/
def AUD_CFG (i : Nat) : Nat := 0x80000 + 0x80 * i
def AUD_CFG_en (i : Nat) : Fld := ⟨AUD_CFG i, 0, 1, .rw, .val 0x0⟩
def AUD_CFG_lines (i : Nat) : Fld := ⟨AUD_CFG i, 1, 1, .rw, .val 0x0⟩
def AUD_CFG_records (i : Nat) : Fld := ⟨AUD_CFG i, 2, 1, .rw, .val 0x0⟩
def AUD_CFG_tile_entries (i : Nat) : Fld := ⟨AUD_CFG i, 3, 1, .rw, .val 0x0⟩
def AUD_CFG_sign_ms (i : Nat) : Fld := ⟨AUD_CFG i, 8, 16, .rw, .val 0x64⟩
/-- AUD_LOG_BASE (13_determinism_and_audit.md, R349). -/
def AUD_LOG_BASE (i : Nat) : Nat := 0x80008 + 0x80 * i
def AUD_LOG_BASE_base (i : Nat) : Fld := ⟨AUD_LOG_BASE i, 12, 52, .rw, .val 0x0⟩
/-- AUD_LOG_CFG (13_determinism_and_audit.md, R349). -/
def AUD_LOG_CFG (i : Nat) : Nat := 0x80010 + 0x80 * i
def AUD_LOG_CFG_log2_bytes (i : Nat) : Fld := ⟨AUD_LOG_CFG i, 0, 6, .rw, .val 0x14⟩
/-- AUD_LOG_TAIL (13_determinism_and_audit.md, R349). -/
def AUD_LOG_TAIL (i : Nat) : Nat := 0x80018 + 0x80 * i
def AUD_LOG_TAIL_tail (i : Nat) : Fld := ⟨AUD_LOG_TAIL i, 0, 40, .ro, .val 0x0⟩
/-- AUD_LOG_HEAD (13_determinism_and_audit.md, R349). -/
def AUD_LOG_HEAD (i : Nat) : Nat := 0x80020 + 0x80 * i
def AUD_LOG_HEAD_head (i : Nat) : Fld := ⟨AUD_LOG_HEAD i, 0, 40, .rw, .val 0x0⟩
/-- AUD_NEXT_NUM (13_determinism_and_audit.md, R349). -/
def AUD_NEXT_NUM (i : Nat) : Nat := 0x80028 + 0x80 * i
def AUD_NEXT_NUM_next_num (i : Nat) : Fld := ⟨AUD_NEXT_NUM i, 0, 48, .rw, .val 0x0⟩
/-- AUD_HEAD_NUM (13_determinism_and_audit.md, R349). -/
def AUD_HEAD_NUM (i : Nat) : Nat := 0x80030 + 0x80 * i
def AUD_HEAD_NUM_head_num (i : Nat) : Fld := ⟨AUD_HEAD_NUM i, 0, 48, .rw, .val 0x0⟩
/-- AUD_RUN_SERIAL (13_determinism_and_audit.md, R349). -/
def AUD_RUN_SERIAL (i : Nat) : Nat := 0x80038 + 0x80 * i
def AUD_RUN_SERIAL_serial (i : Nat) : Fld := ⟨AUD_RUN_SERIAL i, 0, 48, .rw, .val 0x0⟩
/-- AUD_HEAD_HASH (13_determinism_and_audit.md, R349). -/
def AUD_HEAD_HASH (i j : Nat) : Nat := 0x80040 + 0x80 * i + 0x8 * j
def AUD_HEAD_HASH_hash (i j : Nat) : Fld := ⟨AUD_HEAD_HASH i j, 0, 64, .rw, .val 0x0⟩
/-- AUD_STATS (13_determinism_and_audit.md, R349). -/
def AUD_STATS (i : Nat) : Nat := 0x80070 + 0x80 * i
def AUD_STATS_overruns (i : Nat) : Fld := ⟨AUD_STATS i, 0, 16, .rc, .val 0x0⟩
def AUD_STATS_digest_overflow (i : Nat) : Fld := ⟨AUD_STATS i, 16, 16, .rc, .val 0x0⟩
def AUD_STATS_unseated (i : Nat) : Fld := ⟨AUD_STATS i, 32, 16, .rc, .val 0x0⟩
def AUD_STATS_signs (i : Nat) : Fld := ⟨AUD_STATS i, 48, 16, .rc, .val 0x0⟩
/-- AUD_SIGNED (13_determinism_and_audit.md, R349). -/
def AUD_SIGNED (i : Nat) : Nat := 0x80078 + 0x80 * i
def AUD_SIGNED_signed_num (i : Nat) : Fld := ⟨AUD_SIGNED i, 0, 48, .ro, .val 0x0⟩
/-- REL_STATUS (14_reliability_substitution_doubles.md, R374). -/
def REL_STATUS : Nat := 0x90000
def REL_STATUS_tiles_usable : Fld := ⟨REL_STATUS, 0, 12, .ro, .part 96 72 48⟩
def REL_STATUS_dies_on : Fld := ⟨REL_STATUS, 12, 12, .ro, .part 4095 511 63⟩
def REL_STATUS_stacks : Fld := ⟨REL_STATUS, 24, 5, .ro, .part 20 15 10⟩
def REL_STATUS_bench_stacks : Fld := ⟨REL_STATUS, 29, 2, .ro, .val 0x2⟩
def REL_STATUS_failed : Fld := ⟨REL_STATUS, 31, 1, .ro, .val 0x0⟩
def REL_STATUS_committed : Fld := ⟨REL_STATUS, 32, 1, .ro, .val 0x0⟩
def REL_STATUS_copy_active : Fld := ⟨REL_STATUS, 33, 1, .ro, .val 0x0⟩
/-- REL_CFG (14_reliability_substitution_doubles.md, R374). -/
def REL_CFG : Nat := 0x90008
def REL_CFG_auto_en : Fld := ⟨REL_CFG, 0, 1, .rw, .val 0x1⟩
def REL_CFG_fault_limit : Fld := ⟨REL_CFG, 4, 4, .rw, .val 0x3⟩
def REL_CFG_age_limit : Fld := ⟨REL_CFG, 8, 16, .rw, .val 0x12C⟩
def REL_CFG_ce_limit : Fld := ⟨REL_CFG, 24, 16, .rw, .val 0x3E8⟩
def REL_CFG_margin_limit : Fld := ⟨REL_CFG, 40, 8, .rw, .val 0x14⟩
/-- REL_MAP_CTL (14_reliability_substitution_doubles.md, R374). -/
def REL_MAP_CTL : Nat := 0x90010
def REL_MAP_CTL_commit : Fld := ⟨REL_MAP_CTL, 0, 1, .wo, .val 0⟩
def REL_MAP_CTL_rejected : Fld := ⟨REL_MAP_CTL, 1, 1, .ro, .val 0x0⟩
def REL_MAP_CTL_reason : Fld := ⟨REL_MAP_CTL, 8, 8, .ro, .val 0x0⟩
/-- REL_FAULT (14_reliability_substitution_doubles.md, R374). -/
def REL_FAULT : Nat := 0x90018
def REL_FAULT_fault : Fld := ⟨REL_FAULT, 0, 64, .ro, .val 0x0⟩
/-- REL_FAULT_AT (14_reliability_substitution_doubles.md, R374). -/
def REL_FAULT_AT : Nat := 0x90020
def REL_FAULT_AT_tod : Fld := ⟨REL_FAULT_AT, 0, 64, .ro, .val 0x0⟩
/-- REL_STACK_COPY (14_reliability_substitution_doubles.md, R374). -/
def REL_STACK_COPY : Nat := 0x90028
def REL_STACK_COPY_logical : Fld := ⟨REL_STACK_COPY, 0, 5, .ro, .val 0x0⟩
def REL_STACK_COPY_dest : Fld := ⟨REL_STACK_COPY, 5, 5, .ro, .val 0x0⟩
def REL_STACK_COPY_copied_mib : Fld := ⟨REL_STACK_COPY, 16, 32, .ro, .val 0x0⟩
def REL_STACK_COPY_poisoned : Fld := ⟨REL_STACK_COPY, 48, 16, .ro, .val 0x0⟩
/-- REL_TILE_MAP (14_reliability_substitution_doubles.md, R374). -/
def REL_TILE_MAP (i : Nat) : Nat := 0x90100 + 0x8 * i
def REL_TILE_MAP_site (i : Nat) : Fld := ⟨REL_TILE_MAP i, 0, 4, .rw, .tileSite⟩
def REL_TILE_MAP_die (i : Nat) : Fld := ⟨REL_TILE_MAP i, 4, 4, .rw, .tileDie⟩
def REL_TILE_MAP_on (i : Nat) : Fld := ⟨REL_TILE_MAP i, 8, 1, .rw, .tileOn⟩
def REL_TILE_MAP_condemned (i : Nat) : Fld := ⟨REL_TILE_MAP i, 9, 1, .rw, .val 0x0⟩
def REL_TILE_MAP_region_condemned (i : Nat) : Fld := ⟨REL_TILE_MAP i, 10, 1, .rw, .val 0x0⟩
/-- REL_STACK_MAP (14_reliability_substitution_doubles.md, R374). -/
def REL_STACK_MAP (i : Nat) : Nat := 0x90400 + 0x8 * i
def REL_STACK_MAP_phys (i : Nat) : Fld := ⟨REL_STACK_MAP i, 0, 5, .rw, .stackPhys⟩
/-- REL_STACK_WEAR (14_reliability_substitution_doubles.md, R374). -/
def REL_STACK_WEAR (i : Nat) : Nat := 0x90500 + 0x8 * i
def REL_STACK_WEAR_ce_rate (i : Nat) : Fld := ⟨REL_STACK_WEAR i, 0, 16, .ro, .val 0x0⟩
def REL_STACK_WEAR_faults (i : Nat) : Fld := ⟨REL_STACK_WEAR i, 16, 4, .rw, .val 0x0⟩
def REL_STACK_WEAR_condemned (i : Nat) : Fld := ⟨REL_STACK_WEAR i, 20, 1, .rw, .val 0x0⟩
def REL_STACK_WEAR_in_service (i : Nat) : Fld := ⟨REL_STACK_WEAR i, 21, 1, .ro, .stackInService⟩
/-- REL_UNDO_BASE (14_reliability_substitution_doubles.md, R374). -/
def REL_UNDO_BASE (i : Nat) : Nat := 0x90600 + 0x10 * i
def REL_UNDO_BASE_base (i : Nat) : Fld := ⟨REL_UNDO_BASE i, 12, 52, .rw, .val 0x0⟩
/-- REL_UNDO_CFG (14_reliability_substitution_doubles.md, R374). -/
def REL_UNDO_CFG (i : Nat) : Nat := 0x90608 + 0x10 * i
def REL_UNDO_CFG_log2_bytes (i : Nat) : Fld := ⟨REL_UNDO_CFG i, 0, 5, .rw, .val 0xC⟩
def REL_UNDO_CFG_en (i : Nat) : Fld := ⟨REL_UNDO_CFG i, 5, 1, .rw, .val 0x0⟩
def REL_UNDO_CFG_valid (i : Nat) : Fld := ⟨REL_UNDO_CFG i, 6, 1, .ro, .val 0x0⟩
def REL_UNDO_CFG_used (i : Nat) : Fld := ⟨REL_UNDO_CFG i, 8, 32, .ro, .val 0x0⟩
/-- REL_MARGIN (14_reliability_substitution_doubles.md, R374). -/
def REL_MARGIN (i : Nat) : Nat := 0x90700 + 0x8 * i
def REL_MARGIN_margin (i : Nat) : Fld := ⟨REL_MARGIN i, 0, 8, .ro, .val 0x0⟩
def REL_MARGIN_alert (i : Nat) : Fld := ⟨REL_MARGIN i, 8, 1, .ro, .val 0x0⟩
/-- REL_WEAR (14_reliability_substitution_doubles.md, R375). -/
def REL_WEAR (t : Nat) : Nat := 0x1000B00 + 0x10000 * t
def REL_WEAR_ageing (t : Nat) : Fld := ⟨REL_WEAR t, 0, 16, .ro, .val 0x0⟩
def REL_WEAR_ce_rate (t : Nat) : Fld := ⟨REL_WEAR t, 16, 16, .ro, .val 0x0⟩
def REL_WEAR_faults (t : Nat) : Fld := ⟨REL_WEAR t, 32, 4, .rw, .val 0x0⟩
def REL_WEAR_alert (t : Nat) : Fld := ⟨REL_WEAR t, 36, 1, .ro, .val 0x0⟩
/-- REL_DPU (14_reliability_substitution_doubles.md, R375). -/
def REL_DPU (t : Nat) : Nat := 0x1000B08 + 0x10000 * t
def REL_DPU_used (t : Nat) : Fld := ⟨REL_DPU t, 0, 8, .rw, .val 0x0⟩
def REL_DPU_retired (t : Nat) : Fld := ⟨REL_DPU t, 8, 8, .rw, .val 0x0⟩
def REL_DPU_last_pos (t : Nat) : Fld := ⟨REL_DPU t, 16, 8, .ro, .val 0x0⟩
def REL_DPU_last_bench (t : Nat) : Fld := ⟨REL_DPU t, 24, 3, .ro, .val 0x0⟩
def REL_DPU_last_valid (t : Nat) : Fld := ⟨REL_DPU t, 27, 1, .ro, .val 0x0⟩
/-- REL_DPU_POS (14_reliability_substitution_doubles.md, R375). -/
def REL_DPU_POS (t : Nat) : Nat := 0x1000B10 + 0x10000 * t
def REL_DPU_POS_pos (t l : Nat) : Fld := ⟨REL_DPU_POS t, 0 + 8 * l, 8, .rw, .val 0x0⟩
/-- REL_AIDE (14_reliability_substitution_doubles.md, R375). -/
def REL_AIDE (t : Nat) : Nat := 0x1000B18 + 0x10000 * t
def REL_AIDE_serves (t : Nat) : Fld := ⟨REL_AIDE t, 0, 4, .rw, .val 0x0⟩
def REL_AIDE_used (t : Nat) : Fld := ⟨REL_AIDE t, 4, 1, .rw, .val 0x0⟩
def REL_AIDE_retired (t : Nat) : Fld := ⟨REL_AIDE t, 5, 1, .rw, .val 0x0⟩
/-- REL_ROW (14_reliability_substitution_doubles.md, R375). -/
def REL_ROW (t i : Nat) : Nat := 0x1000B40 + 0x10000 * t + 0x8 * i
def REL_ROW_row_group (t i : Nat) : Fld := ⟨REL_ROW t i, 0, 12, .rw, .val 0x0⟩
def REL_ROW_used (t i : Nat) : Fld := ⟨REL_ROW t i, 12, 1, .rw, .val 0x0⟩
def REL_ROW_retired (t i : Nat) : Fld := ⟨REL_ROW t i, 13, 1, .rw, .val 0x0⟩
/-- DBL_CFG (14_reliability_substitution_doubles.md, R377). -/
def DBL_CFG : Nat := 0xA0000
def DBL_CFG_en : Fld := ⟨DBL_CFG, 0, 1, .rw, .val 0x0⟩
def DBL_CFG_part_mask : Fld := ⟨DBL_CFG, 8, 8, .rw, .val 0x0⟩
def DBL_CFG_singles_wait : Fld := ⟨DBL_CFG, 16, 8, .rw, .val 0x14⟩
/-- DBL_STATUS (14_reliability_substitution_doubles.md, R377). -/
def DBL_STATUS : Nat := 0xA0008
def DBL_STATUS_state : Fld := ⟨DBL_STATUS, 0, 3, .ro, .val 0x0⟩
def DBL_STATUS_id : Fld := ⟨DBL_STATUS, 3, 1, .ro, .val 0⟩
def DBL_STATUS_leader : Fld := ⟨DBL_STATUS, 4, 1, .ro, .val 0⟩
def DBL_STATUS_links_up : Fld := ⟨DBL_STATUS, 5, 2, .ro, .val 0x0⟩
/-- DBL_CTL (14_reliability_substitution_doubles.md, R377). -/
def DBL_CTL : Nat := 0xA0010
def DBL_CTL_decide : Fld := ⟨DBL_CTL, 0, 2, .wo, .val 0⟩
/-- DBL_STATS (14_reliability_substitution_doubles.md, R377). -/
def DBL_STATS : Nat := 0xA0018
def DBL_STATS_agreed : Fld := ⟨DBL_STATS, 0, 16, .rc, .val 0x0⟩
def DBL_STATS_retakes : Fld := ⟨DBL_STATS, 16, 16, .rc, .val 0x0⟩
def DBL_STATS_splits : Fld := ⟨DBL_STATS, 32, 16, .rc, .val 0x0⟩
def DBL_STATS_withheld : Fld := ⟨DBL_STATS, 48, 16, .rc, .val 0x0⟩
/-- DBL_SPLIT_INFO (14_reliability_substitution_doubles.md, R377). -/
def DBL_SPLIT_INFO : Nat := 0xA0020
def DBL_SPLIT_INFO_run : Fld := ⟨DBL_SPLIT_INFO, 0, 32, .ro, .val 0x0⟩
def DBL_SPLIT_INFO_job_id : Fld := ⟨DBL_SPLIT_INFO, 32, 16, .ro, .val 0x0⟩
def DBL_SPLIT_INFO_first : Fld := ⟨DBL_SPLIT_INFO, 48, 4, .ro, .val 0x0⟩
def DBL_SPLIT_INFO_valid : Fld := ⟨DBL_SPLIT_INFO, 63, 1, .ro, .val 0x0⟩
/-- PWR_STATUS (15_power_and_thermal.md, R391). -/
def PWR_STATUS : Nat := 0xB0000
def PWR_STATUS_est_w : Fld := ⟨PWR_STATUS, 0, 12, .ro, .val 0x0⟩
def PWR_STATUS_meas_w : Fld := ⟨PWR_STATUS, 12, 12, .ro, .val 0x0⟩
def PWR_STATUS_hottest_c : Fld := ⟨PWR_STATUS, 24, 8, .ro, .val 0x0⟩
def PWR_STATUS_hottest_at : Fld := ⟨PWR_STATUS, 32, 6, .ro, .val 0x0⟩
def PWR_STATUS_capping : Fld := ⟨PWR_STATUS, 38, 1, .ro, .val 0x0⟩
def PWR_STATUS_thermal : Fld := ⟨PWR_STATUS, 39, 1, .ro, .val 0x0⟩
def PWR_STATUS_overpower : Fld := ⟨PWR_STATUS, 40, 1, .ro, .val 0x0⟩
def PWR_STATUS_tripped : Fld := ⟨PWR_STATUS, 41, 1, .ro, .val 0x0⟩
/-- PWR_CAP_CFG (15_power_and_thermal.md, R391). -/
def PWR_CAP_CFG : Nat := 0xB0008
def PWR_CAP_CFG_cap_w : Fld := ⟨PWR_CAP_CFG, 0, 12, .rw, .val 0xA28⟩
def PWR_CAP_CFG_max_ratio : Fld := ⟨PWR_CAP_CFG, 12, 9, .rw, .val 0x100⟩
def PWR_CAP_CFG_hints_en : Fld := ⟨PWR_CAP_CFG, 21, 1, .rw, .val 0x1⟩
/-- PWR_CAL (15_power_and_thermal.md, R391). -/
def PWR_CAL : Nat := 0xB0010
def PWR_CAL_gain : Fld := ⟨PWR_CAL, 0, 16, .ro, .val 0x4000⟩
def PWR_CAL_clamped : Fld := ⟨PWR_CAL, 16, 1, .ro, .val 0x0⟩
def PWR_CAL_tile_max_dw : Fld := ⟨PWR_CAL, 32, 16, .ro, .val 0xB4⟩
/-- PWR_THERM_CFG (15_power_and_thermal.md, R391). -/
def PWR_THERM_CFG : Nat := 0xB0018
def PWR_THERM_CFG_throttle_c : Fld := ⟨PWR_THERM_CFG, 0, 8, .rw, .val 0x5F⟩
def PWR_THERM_CFG_step_c : Fld := ⟨PWR_THERM_CFG, 8, 8, .rw, .val 0x64⟩
def PWR_THERM_CFG_auto_step : Fld := ⟨PWR_THERM_CFG, 16, 1, .rw, .val 0x1⟩
/-- PWR_ENERGY_MOD (15_power_and_thermal.md, R391). -/
def PWR_ENERGY_MOD : Nat := 0xB0020
def PWR_ENERGY_MOD_energy_uj : Fld := ⟨PWR_ENERGY_MOD, 0, 64, .ro, .val 0x0⟩
/-- PWR_TEMP (15_power_and_thermal.md, R391). -/
def PWR_TEMP (i : Nat) : Nat := 0xB0040 + 0x8 * i
def PWR_TEMP_temp_c (i : Nat) : Fld := ⟨PWR_TEMP i, 0, 8, .ro, .val 0x0⟩
def PWR_TEMP_max_c (i : Nat) : Fld := ⟨PWR_TEMP i, 8, 8, .rc, .val 0x0⟩
/-- PWR_PART_CAP (15_power_and_thermal.md, R391). -/
def PWR_PART_CAP (i : Nat) : Nat := 0xB0200 + 0x8 * i
def PWR_PART_CAP_part_cap_w (i : Nat) : Fld := ⟨PWR_PART_CAP i, 0, 12, .rw, .val 0x0⟩
/-- PWR_BUBBLES (15_power_and_thermal.md, R391). -/
def PWR_BUBBLES (i : Nat) : Nat := 0xB0240 + 0x8 * i
def PWR_BUBBLES_cap (i : Nat) : Fld := ⟨PWR_BUBBLES i, 0, 32, .rc, .val 0x0⟩
def PWR_BUBBLES_thermal (i : Nat) : Fld := ⟨PWR_BUBBLES i, 32, 16, .rc, .val 0x0⟩
def PWR_BUBBLES_droop (i : Nat) : Fld := ⟨PWR_BUBBLES i, 48, 16, .rc, .val 0x0⟩
/-- PWR_ENERGY_PART (15_power_and_thermal.md, R391). -/
def PWR_ENERGY_PART (i : Nat) : Nat := 0xB0300 + 0x8 * i
def PWR_ENERGY_PART_energy_uj (i : Nat) : Fld := ⟨PWR_ENERGY_PART i, 0, 64, .ro, .val 0x0⟩
/-- PWR_ENERGY_SQ (15_power_and_thermal.md, R391). -/
def PWR_ENERGY_SQ (i : Nat) : Nat := 0xB0400 + 0x8 * i
def PWR_ENERGY_SQ_energy_uj (i : Nat) : Fld := ⟨PWR_ENERGY_SQ i, 0, 64, .ro, .val 0x0⟩
/-- PWR_TILE (15_power_and_thermal.md, R392). -/
def PWR_TILE (t : Nat) : Nat := 0x1000D00 + 0x10000 * t
def PWR_TILE_power_cw (t : Nat) : Fld := ⟨PWR_TILE t, 0, 16, .ro, .val 0x0⟩
def PWR_TILE_hint_level (t : Nat) : Fld := ⟨PWR_TILE t, 16, 4, .ro, .val 0x0⟩
def PWR_TILE_hint_active (t : Nat) : Fld := ⟨PWR_TILE t, 20, 1, .ro, .val 0x0⟩
/-- SEC_STATUS (16_security_and_attestation.md, R416). -/
def SEC_STATUS : Nat := 0xC0000
def SEC_STATUS_boot : Fld := ⟨SEC_STATUS, 0, 4, .ro, .val 0x0⟩
def SEC_STATUS_session_ready : Fld := ⟨SEC_STATUS, 4, 1, .ro, .val 0x0⟩
def SEC_STATUS_fuse_svn : Fld := ⟨SEC_STATUS, 16, 8, .ro, .val 0⟩
def SEC_STATUS_fw_svn : Fld := ⟨SEC_STATUS, 32, 32, .ro, .val 0x0⟩
/-- SEC_SVN_CTL (16_security_and_attestation.md, R416). -/
def SEC_SVN_CTL : Nat := 0xC0008
def SEC_SVN_CTL_raise_to : Fld := ⟨SEC_SVN_CTL, 0, 8, .wo, .val 0⟩
/-- SEC_PART_CTL (16_security_and_attestation.md, R416). -/
def SEC_PART_CTL : Nat := 0xC0010
def SEC_PART_CTL_commit : Fld := ⟨SEC_PART_CTL, 0, 1, .wo, .val 0⟩
def SEC_PART_CTL_busy : Fld := ⟨SEC_PART_CTL, 1, 1, .ro, .val 0x0⟩
def SEC_PART_CTL_rejected : Fld := ⟨SEC_PART_CTL, 2, 1, .ro, .val 0x0⟩
def SEC_PART_CTL_reason : Fld := ⟨SEC_PART_CTL, 8, 8, .ro, .val 0x0⟩
def SEC_PART_CTL_enabled : Fld := ⟨SEC_PART_CTL, 16, 8, .ro, .val 0x1⟩
/-- SEC_KEY_CTL (16_security_and_attestation.md, R416). -/
def SEC_KEY_CTL : Nat := 0xC0018
def SEC_KEY_CTL_clear : Fld := ⟨SEC_KEY_CTL, 0, 64, .wo, .val 0⟩
/-- SEC_PART_TILES0 (16_security_and_attestation.md, R416). -/
def SEC_PART_TILES0 (i : Nat) : Nat := 0xC0100 + 0x40 * i
def SEC_PART_TILES0_tiles (i : Nat) : Fld := ⟨SEC_PART_TILES0 i, 0, 64, .rw, .partTiles0⟩
/-- SEC_PART_TILES1 (16_security_and_attestation.md, R416). -/
def SEC_PART_TILES1 (i : Nat) : Nat := 0xC0108 + 0x40 * i
def SEC_PART_TILES1_tiles (i : Nat) : Fld := ⟨SEC_PART_TILES1 i, 0, 32, .rw, .partTiles1⟩
/-- SEC_PART_LPD (16_security_and_attestation.md, R416). -/
def SEC_PART_LPD (i : Nat) : Nat := 0xC0110 + 0x40 * i
def SEC_PART_LPD_base_gib (i : Nat) : Fld := ⟨SEC_PART_LPD i, 0, 16, .rw, .val 0x0⟩
def SEC_PART_LPD_size_gib (i : Nat) : Fld := ⟨SEC_PART_LPD i, 16, 16, .rw, .partGib⟩
/-- SEC_PART_SYN (16_security_and_attestation.md, R416). -/
def SEC_PART_SYN (i : Nat) : Nat := 0xC0118 + 0x40 * i
def SEC_PART_SYN_base (i : Nat) : Fld := ⟨SEC_PART_SYN i, 0, 16, .rw, .val 0x0⟩
def SEC_PART_SYN_count (i : Nat) : Fld := ⟨SEC_PART_SYN i, 16, 16, .rw, .partSyn⟩
/-- SEC_PART_CFG (16_security_and_attestation.md, R416). -/
def SEC_PART_CFG (i : Nat) : Nat := 0xC0120 + 0x40 * i
def SEC_PART_CFG_ports (i : Nat) : Fld := ⟨SEC_PART_CFG i, 0, 12, .rw, .partPorts⟩
def SEC_PART_CFG_en (i : Nat) : Fld := ⟨SEC_PART_CFG i, 12, 1, .rw, .partEn⟩
def SEC_PART_CFG_hub_iso (i : Nat) : Fld := ⟨SEC_PART_CFG i, 13, 1, .rw, .val 0x0⟩
def SEC_PART_CFG_pwr_iso (i : Nat) : Fld := ⟨SEC_PART_CFG i, 14, 1, .rw, .val 0x0⟩
/-- SEC_PART_KEYS (16_security_and_attestation.md, R416). -/
def SEC_PART_KEYS (i : Nat) : Nat := 0xC0128 + 0x40 * i
def SEC_PART_KEYS_full (i : Nat) : Fld := ⟨SEC_PART_KEYS i, 0, 8, .ro, .val 0x0⟩
def SEC_PART_KEYS_image_bound (i : Nat) : Fld := ⟨SEC_PART_KEYS i, 8, 8, .ro, .val 0x0⟩
/-- SEC_MSA_SEL (16_security_and_attestation.md, R416). -/
def SEC_MSA_SEL : Nat := 0xC0800
def SEC_MSA_SEL_port : Fld := ⟨SEC_MSA_SEL, 0, 4, .rw, .val 0x0⟩
def SEC_MSA_SEL_subport : Fld := ⟨SEC_MSA_SEL, 4, 2, .rw, .val 0x0⟩
def SEC_MSA_SEL_dir : Fld := ⟨SEC_MSA_SEL, 6, 1, .rw, .val 0x0⟩
def SEC_MSA_SEL_channel : Fld := ⟨SEC_MSA_SEL, 7, 2, .rw, .val 0x0⟩
def SEC_MSA_SEL_an : Fld := ⟨SEC_MSA_SEL, 9, 2, .rw, .val 0x0⟩
/-- SEC_MSA_KEY (16_security_and_attestation.md, R416). -/
def SEC_MSA_KEY (i : Nat) : Nat := 0xC0808 + 0x8 * i
def SEC_MSA_KEY_key (i : Nat) : Fld := ⟨SEC_MSA_KEY i, 0, 64, .wo, .val 0⟩
/-- SEC_MSA_SALT0 (16_security_and_attestation.md, R416). -/
def SEC_MSA_SALT0 : Nat := 0xC0828
def SEC_MSA_SALT0_salt : Fld := ⟨SEC_MSA_SALT0, 0, 64, .wo, .val 0⟩
/-- SEC_MSA_SALT1 (16_security_and_attestation.md, R416). -/
def SEC_MSA_SALT1 : Nat := 0xC0830
def SEC_MSA_SALT1_salt : Fld := ⟨SEC_MSA_SALT1, 0, 32, .wo, .val 0⟩
def SEC_MSA_SALT1_ssci : Fld := ⟨SEC_MSA_SALT1, 32, 32, .wo, .val 0⟩
/-- SEC_MSA_SCI (16_security_and_attestation.md, R416). -/
def SEC_MSA_SCI : Nat := 0xC0838
def SEC_MSA_SCI_sci : Fld := ⟨SEC_MSA_SCI, 0, 64, .wo, .val 0⟩
/-- SEC_MSA_CTL (16_security_and_attestation.md, R416). -/
def SEC_MSA_CTL : Nat := 0xC0840
def SEC_MSA_CTL_install : Fld := ⟨SEC_MSA_CTL, 0, 1, .wo, .val 0⟩
def SEC_MSA_CTL_delete : Fld := ⟨SEC_MSA_CTL, 1, 1, .wo, .val 0⟩
def SEC_MSA_CTL_in_use : Fld := ⟨SEC_MSA_CTL, 2, 1, .ro, .val 0x0⟩
def SEC_MSA_CTL_replay_window : Fld := ⟨SEC_MSA_CTL, 4, 31, .rw, .val 0x0⟩
/-- SEC_MSA_PN (16_security_and_attestation.md, R416). -/
def SEC_MSA_PN : Nat := 0xC0848
def SEC_MSA_PN_pn : Fld := ⟨SEC_MSA_PN, 0, 64, .rw, .val 0x1⟩
/-- SEC_PAIR_KEY (16_security_and_attestation.md, R416). -/
def SEC_PAIR_KEY (i : Nat) : Nat := 0xC0900 + 0x8 * i
def SEC_PAIR_KEY_key (i : Nat) : Fld := ⟨SEC_PAIR_KEY i, 0, 64, .wo, .val 0⟩
/-- SEC_PAIR_CTL (16_security_and_attestation.md, R416). -/
def SEC_PAIR_CTL : Nat := 0xC0920
def SEC_PAIR_CTL_set : Fld := ⟨SEC_PAIR_CTL, 0, 1, .wo, .val 0⟩
def SEC_PAIR_CTL_key_set : Fld := ⟨SEC_PAIR_CTL, 1, 1, .ro, .val 0x0⟩
/-- SEC_SB_AUTH (16_security_and_attestation.md, R416). -/
def SEC_SB_AUTH (i j : Nat) : Nat := 0xC0A00 + 0x30 * i + 0x8 * j
def SEC_SB_AUTH_hash (i j : Nat) : Fld := ⟨SEC_SB_AUTH i j, 0, 64, .rw, .val 0x0⟩
/-- HQ_SQ_DB (17_host_interface_and_interrupts.md, R425). -/
def HQ_SQ_DB (i : Nat) : Nat := 0x10000000 + 0x1000 * i
def HQ_SQ_DB_tail (i : Nat) : Fld := ⟨HQ_SQ_DB i, 0, 17, .rw, .val 0x0⟩
/-- HQ_CQ_DB (17_host_interface_and_interrupts.md, R425). -/
def HQ_CQ_DB (i : Nat) : Nat := 0x10010000 + 0x1000 * i
def HQ_CQ_DB_head (i : Nat) : Fld := ⟨HQ_CQ_DB i, 0, 17, .rw, .val 0x0⟩
/-- HST_IRQ_DB (17_host_interface_and_interrupts.md, R425). -/
def HST_IRQ_DB : Nat := 0x10020000
def HST_IRQ_DB_rearm : Fld := ⟨HST_IRQ_DB, 0, 1, .wo, .val 0⟩
/-- HST_LINK (17_host_interface_and_interrupts.md, R429). -/
def HST_LINK : Nat := 0x18
def HST_LINK_gen : Fld := ⟨HST_LINK, 0, 3, .ro, .val 0⟩
def HST_LINK_width : Fld := ⟨HST_LINK, 3, 5, .ro, .val 0⟩
def HST_LINK_flit : Fld := ⟨HST_LINK, 8, 1, .ro, .val 0⟩
def HST_LINK_reversed : Fld := ⟨HST_LINK, 9, 1, .ro, .val 0⟩
def HST_LINK_ide_streams : Fld := ⟨HST_LINK, 10, 2, .ro, .val 0x0⟩
def HST_LINK_retrains : Fld := ⟨HST_LINK, 32, 16, .rc, .val 0x0⟩
/-- HST_MAC_BASE (17_host_interface_and_interrupts.md, R429). -/
def HST_MAC_BASE : Nat := 0x30
def HST_MAC_BASE_mac : Fld := ⟨HST_MAC_BASE, 0, 48, .ro, .val 0⟩
/-- HST_BAR0_LOG (17_host_interface_and_interrupts.md, R429). -/
def HST_BAR0_LOG : Nat := 0x48
def HST_BAR0_LOG_offset : Fld := ⟨HST_BAR0_LOG, 0, 26, .ro, .val 0x0⟩
def HST_BAR0_LOG_bar2 : Fld := ⟨HST_BAR0_LOG, 26, 1, .ro, .val 0x0⟩
def HST_BAR0_LOG_write : Fld := ⟨HST_BAR0_LOG, 27, 1, .ro, .val 0x0⟩
def HST_BAR0_LOG_bytes_log2 : Fld := ⟨HST_BAR0_LOG, 28, 4, .ro, .val 0x0⟩
def HST_BAR0_LOG_function : Fld := ⟨HST_BAR0_LOG, 32, 3, .ro, .val 0x0⟩
def HST_BAR0_LOG_valid : Fld := ⟨HST_BAR0_LOG, 63, 1, .ro, .val 0x0⟩
/-- HST_SERIAL0 (17_host_interface_and_interrupts.md, R429). -/
def HST_SERIAL0 : Nat := 0x50
def HST_SERIAL0_serial : Fld := ⟨HST_SERIAL0, 0, 64, .ro, .val 0⟩
/-- HST_SERIAL1 (17_host_interface_and_interrupts.md, R429). -/
def HST_SERIAL1 : Nat := 0x58
def HST_SERIAL1_serial : Fld := ⟨HST_SERIAL1, 0, 64, .ro, .val 0⟩
/-- HST_BAR4_BASE (17_host_interface_and_interrupts.md, R429). -/
def HST_BAR4_BASE : Nat := 0x70
def HST_BAR4_BASE_base : Fld := ⟨HST_BAR4_BASE, 30, 18, .rw, .val 0x0⟩
/-- HST_DMA_CFG (17_host_interface_and_interrupts.md, R429). -/
def HST_DMA_CFG : Nat := 0x78
def HST_DMA_CFG_cpl_timeout_ms : Fld := ⟨HST_DMA_CFG, 0, 8, .rw, .val 0x32⟩
/-- HST_VF_BAR4_BASE (17_host_interface_and_interrupts.md, R429). -/
def HST_VF_BAR4_BASE (i : Nat) : Nat := 0x100 + 0x8 * i
def HST_VF_BAR4_BASE_base (i : Nat) : Fld := ⟨HST_VF_BAR4_BASE i, 30, 18, .rw, .val 0x0⟩
/-- CTL_IRQ_SUMMARY (17_host_interface_and_interrupts.md, R432). -/
def CTL_IRQ_SUMMARY : Nat := 0x10000
def CTL_IRQ_SUMMARY_groups : Fld := ⟨CTL_IRQ_SUMMARY, 0, 13, .ro, .val 0x0⟩
/-- CTL_IRQ_MASK (17_host_interface_and_interrupts.md, R432). -/
def CTL_IRQ_MASK : Nat := 0x10008
def CTL_IRQ_MASK_mask : Fld := ⟨CTL_IRQ_MASK, 0, 13, .rw, .val 0x1FFF⟩
/-- CTL_IRQ_CTL (17_host_interface_and_interrupts.md, R432). -/
def CTL_IRQ_CTL : Nat := 0x10010
def CTL_IRQ_CTL_pin_en : Fld := ⟨CTL_IRQ_CTL, 0, 1, .rw, .val 0x0⟩
def CTL_IRQ_CTL_rearm : Fld := ⟨CTL_IRQ_CTL, 1, 1, .wo, .val 0⟩
def CTL_IRQ_CTL_armed : Fld := ⟨CTL_IRQ_CTL, 2, 1, .ro, .val 0x1⟩
def CTL_IRQ_CTL_pending : Fld := ⟨CTL_IRQ_CTL, 3, 1, .ro, .val 0x0⟩
def CTL_IRQ_CTL_holdoff_us : Fld := ⟨CTL_IRQ_CTL, 8, 8, .rw, .val 0x0⟩
/-- CTL_IRQ_STATS (17_host_interface_and_interrupts.md, R432). -/
def CTL_IRQ_STATS : Nat := 0x10018
def CTL_IRQ_STATS_messages : Fld := ⟨CTL_IRQ_STATS, 0, 32, .rc, .val 0x0⟩
def CTL_IRQ_STATS_rearm_sends : Fld := ⟨CTL_IRQ_STATS, 32, 16, .rc, .val 0x0⟩
/-- CTL_IRQ_GRP (17_host_interface_and_interrupts.md, R432). -/
def CTL_IRQ_GRP (i : Nat) : Nat := 0x10100 + 0x8 * i
def CTL_IRQ_GRP_leaves (i : Nat) : Fld := ⟨CTL_IRQ_GRP i, 0, 2, .ro, .val 0x0⟩
/-- CTL_IRQ_GRP_MASK (17_host_interface_and_interrupts.md, R432). -/
def CTL_IRQ_GRP_MASK (i : Nat) : Nat := 0x10180 + 0x8 * i
def CTL_IRQ_GRP_MASK_mask (i : Nat) : Fld := ⟨CTL_IRQ_GRP_MASK i, 0, 2, .rw, .val 0x3⟩
/-- CTL_IRQ_TILES0 (17_host_interface_and_interrupts.md, R432). -/
def CTL_IRQ_TILES0 : Nat := 0x10200
def CTL_IRQ_TILES0_tiles : Fld := ⟨CTL_IRQ_TILES0, 0, 64, .ro, .val 0x0⟩
/-- CTL_IRQ_TILES1 (17_host_interface_and_interrupts.md, R432). -/
def CTL_IRQ_TILES1 : Nat := 0x10208
def CTL_IRQ_TILES1_tiles : Fld := ⟨CTL_IRQ_TILES1, 0, 32, .ro, .val 0x0⟩
/-- CTL_IRQ_TILES_MASK0 (17_host_interface_and_interrupts.md, R432). -/
def CTL_IRQ_TILES_MASK0 : Nat := 0x10210
def CTL_IRQ_TILES_MASK0_mask : Fld := ⟨CTL_IRQ_TILES_MASK0, 0, 64, .rw, .val 0xFFFFFFFFFFFFFFFF⟩
/-- CTL_IRQ_TILES_MASK1 (17_host_interface_and_interrupts.md, R432). -/
def CTL_IRQ_TILES_MASK1 : Nat := 0x10218
def CTL_IRQ_TILES_MASK1_mask : Fld := ⟨CTL_IRQ_TILES_MASK1, 0, 32, .rw, .val 0xFFFFFFFF⟩
/-- HST_RESET_STATUS (18_reset_and_bringup.md, R453). -/
def HST_RESET_STATUS : Nat := 0x200
def HST_RESET_STATUS_cause : Fld := ⟨HST_RESET_STATUS, 0, 4, .ro, .val 0x1⟩
def HST_RESET_STATUS_board_id : Fld := ⟨HST_RESET_STATUS, 4, 4, .ro, .val 0⟩
def HST_RESET_STATUS_mem_kept : Fld := ⟨HST_RESET_STATUS, 8, 1, .ro, .val 0x0⟩
def HST_RESET_STATUS_unseal_lost : Fld := ⟨HST_RESET_STATUS, 9, 1, .ro, .val 0x0⟩
def HST_RESET_STATUS_copy_lost : Fld := ⟨HST_RESET_STATUS, 10, 1, .ro, .val 0x0⟩
def HST_RESET_STATUS_grading_armed : Fld := ⟨HST_RESET_STATUS, 11, 1, .ro, .val 0x0⟩
def HST_RESET_STATUS_audit_on : Fld := ⟨HST_RESET_STATUS, 12, 1, .ro, .val 0x0⟩
def HST_RESET_STATUS_module_resets : Fld := ⟨HST_RESET_STATUS, 16, 16, .ro, .val 0x0⟩
def HST_RESET_STATUS_partition_resets : Fld := ⟨HST_RESET_STATUS, 32, 16, .rc, .val 0x0⟩
/-- HST_RESET_CTL (18_reset_and_bringup.md, R453). -/
def HST_RESET_CTL : Nat := 0x208
def HST_RESET_CTL_module : Fld := ⟨HST_RESET_CTL, 0, 1, .wo, .val 0⟩
def HST_RESET_CTL_partition : Fld := ⟨HST_RESET_CTL, 1, 1, .wo, .val 0⟩
def HST_RESET_CTL_job : Fld := ⟨HST_RESET_CTL, 2, 1, .wo, .val 0⟩
def HST_RESET_CTL_part : Fld := ⟨HST_RESET_CTL, 8, 3, .wo, .val 0⟩
def HST_RESET_CTL_job_id : Fld := ⟨HST_RESET_CTL, 16, 16, .wo, .val 0⟩
/-- HST_FW_ADDR (18_reset_and_bringup.md, R453). -/
def HST_FW_ADDR : Nat := 0x210
def HST_FW_ADDR_addr : Fld := ⟨HST_FW_ADDR, 12, 52, .rw, .val 0x0⟩
/-- HST_FW_LEN (18_reset_and_bringup.md, R453). -/
def HST_FW_LEN : Nat := 0x218
def HST_FW_LEN_len : Fld := ⟨HST_FW_LEN, 0, 27, .rw, .val 0x0⟩
/-- HST_FW_CTL (18_reset_and_bringup.md, R453). -/
def HST_FW_CTL : Nat := 0x220
def HST_FW_CTL_load : Fld := ⟨HST_FW_CTL, 0, 1, .wo, .val 0⟩
/-- HST_BOOT (18_reset_and_bringup.md, R453). -/
def HST_BOOT : Nat := 0x228
def HST_BOOT_state : Fld := ⟨HST_BOOT, 0, 4, .ro, .val 0x1⟩
def HST_BOOT_prep_done : Fld := ⟨HST_BOOT, 4, 1, .ro, .val 0x0⟩
def HST_BOOT_loads : Fld := ⟨HST_BOOT, 8, 8, .ro, .val 0x0⟩
def HST_BOOT_prep_ms : Fld := ⟨HST_BOOT, 16, 16, .ro, .val 0x0⟩
/-- TIM_CAUSE (02_time_and_clocking.md, R53). -/
def TIM_CAUSE : Nat := 0x20068
def TIM_CAUSE_cause : Fld := ⟨TIM_CAUSE, 0, 13, .w1c, .val 0x0⟩
/-- TIM_CAUSE_MASK (02_time_and_clocking.md, R53). -/
def TIM_CAUSE_MASK : Nat := 0x20070
def TIM_CAUSE_MASK_mask : Fld := ⟨TIM_CAUSE_MASK, 0, 13, .rw, .val 0x79D⟩
/-- NET_SPU_CAUSE (05_sparsity_and_routing.md, R142). -/
def NET_SPU_CAUSE : Nat := 0x58008
def NET_SPU_CAUSE_cause : Fld := ⟨NET_SPU_CAUSE, 0, 8, .w1c, .val 0x0⟩
/-- NET_SPU_CAUSE_MASK (05_sparsity_and_routing.md, R142). -/
def NET_SPU_CAUSE_MASK : Nat := 0x58010
def NET_SPU_CAUSE_MASK_mask : Fld := ⟨NET_SPU_CAUSE_MASK, 0, 8, .rw, .val 0x8F⟩
/-- LPD_CAUSE (07_memory_tiers_and_transfers.md, R201). -/
def LPD_CAUSE : Nat := 0x60018
def LPD_CAUSE_cause : Fld := ⟨LPD_CAUSE, 0, 5, .w1c, .val 0x0⟩
/-- LPD_CAUSE_MASK (07_memory_tiers_and_transfers.md, R201). -/
def LPD_CAUSE_MASK : Nat := 0x60020
def LPD_CAUSE_MASK_mask : Fld := ⟨LPD_CAUSE_MASK, 0, 5, .rw, .val 0xF⟩
/-- TIL_CAUSE (09_compiler_contract.md, R249). -/
def TIL_CAUSE (t : Nat) : Nat := 0x1000018 + 0x10000 * t
def TIL_CAUSE_cause (t : Nat) : Fld := ⟨TIL_CAUSE t, 0, 7, .w1c, .val 0x0⟩
/-- TIL_CAUSE_MASK (09_compiler_contract.md, R249). -/
def TIL_CAUSE_MASK (t : Nat) : Nat := 0x1000020 + 0x10000 * t
def TIL_CAUSE_MASK_mask (t : Nat) : Fld := ⟨TIL_CAUSE_MASK t, 0, 7, .rw, .val 0x79⟩
/-- HQ_CAUSE (10_jobs_graphs_and_timetable.md, R275). -/
def HQ_CAUSE : Nat := 0x40800
def HQ_CAUSE_cause : Fld := ⟨HQ_CAUSE, 0, 33, .w1c, .val 0x0⟩
/-- HQ_CAUSE_MASK (10_jobs_graphs_and_timetable.md, R275). -/
def HQ_CAUSE_MASK : Nat := 0x40808
def HQ_CAUSE_MASK_mask : Fld := ⟨HQ_CAUSE_MASK, 0, 33, .rw, .val 0x1FFFFFFFF⟩
/-- CTL_DISP_CAUSE (10_jobs_graphs_and_timetable.md, R276). -/
def CTL_DISP_CAUSE : Nat := 0x12008
def CTL_DISP_CAUSE_cause : Fld := ⟨CTL_DISP_CAUSE, 0, 6, .w1c, .val 0x0⟩
/-- CTL_DISP_CAUSE_MASK (10_jobs_graphs_and_timetable.md, R276). -/
def CTL_DISP_CAUSE_MASK : Nat := 0x12010
def CTL_DISP_CAUSE_MASK_mask : Fld := ⟨CTL_DISP_CAUSE_MASK, 0, 6, .rw, .val 0xF⟩
/-- NET_CAUSE (11_network_and_ingest.md, R307). -/
def NET_CAUSE : Nat := 0x50B00
def NET_CAUSE_cause : Fld := ⟨NET_CAUSE, 0, 12, .w1c, .val 0x0⟩
/-- NET_CAUSE_MASK (11_network_and_ingest.md, R307). -/
def NET_CAUSE_MASK : Nat := 0x50B08
def NET_CAUSE_MASK_mask : Fld := ⟨NET_CAUSE_MASK, 0, 12, .rw, .val 0x3E5⟩
/-- GRD_CAUSE (12_grading_engine.md, R328). -/
def GRD_CAUSE : Nat := 0x70040
def GRD_CAUSE_cause : Fld := ⟨GRD_CAUSE, 0, 5, .w1c, .val 0x0⟩
/-- GRD_CAUSE_MASK (12_grading_engine.md, R328). -/
def GRD_CAUSE_MASK : Nat := 0x70048
def GRD_CAUSE_MASK_mask : Fld := ⟨GRD_CAUSE_MASK, 0, 5, .rw, .val 0x17⟩
/-- AUD_CAUSE (13_determinism_and_audit.md, R350). -/
def AUD_CAUSE : Nat := 0x80800
def AUD_CAUSE_cause : Fld := ⟨AUD_CAUSE, 0, 6, .w1c, .val 0x0⟩
/-- AUD_CAUSE_MASK (13_determinism_and_audit.md, R350). -/
def AUD_CAUSE_MASK : Nat := 0x80808
def AUD_CAUSE_MASK_mask : Fld := ⟨AUD_CAUSE_MASK, 0, 6, .rw, .val 0x1E⟩
/-- REL_CAUSE (14_reliability_substitution_doubles.md, R376). -/
def REL_CAUSE : Nat := 0x90030
def REL_CAUSE_cause : Fld := ⟨REL_CAUSE, 0, 9, .w1c, .val 0x0⟩
/-- REL_CAUSE_MASK (14_reliability_substitution_doubles.md, R376). -/
def REL_CAUSE_MASK : Nat := 0x90038
def REL_CAUSE_MASK_mask : Fld := ⟨REL_CAUSE_MASK, 0, 9, .rw, .val 0x1FE⟩
/-- DBL_CAUSE (14_reliability_substitution_doubles.md, R377). -/
def DBL_CAUSE : Nat := 0xA0028
def DBL_CAUSE_cause : Fld := ⟨DBL_CAUSE, 0, 8, .w1c, .val 0x0⟩
/-- DBL_CAUSE_MASK (14_reliability_substitution_doubles.md, R377). -/
def DBL_CAUSE_MASK : Nat := 0xA0030
def DBL_CAUSE_MASK_mask : Fld := ⟨DBL_CAUSE_MASK, 0, 8, .rw, .val 0xFE⟩
/-- PWR_CAUSE (15_power_and_thermal.md, R393). -/
def PWR_CAUSE : Nat := 0xB0030
def PWR_CAUSE_cause : Fld := ⟨PWR_CAUSE, 0, 6, .w1c, .val 0x0⟩
/-- PWR_CAUSE_MASK (15_power_and_thermal.md, R393). -/
def PWR_CAUSE_MASK : Nat := 0xB0038
def PWR_CAUSE_MASK_mask : Fld := ⟨PWR_CAUSE_MASK, 0, 6, .rw, .val 0x3E⟩
/-- SEC_CAUSE (16_security_and_attestation.md, R417). -/
def SEC_CAUSE : Nat := 0xC0F00
def SEC_CAUSE_cause : Fld := ⟨SEC_CAUSE, 0, 7, .w1c, .val 0x0⟩
/-- SEC_CAUSE_MASK (16_security_and_attestation.md, R417). -/
def SEC_CAUSE_MASK : Nat := 0xC0F08
def SEC_CAUSE_MASK_mask : Fld := ⟨SEC_CAUSE_MASK, 0, 7, .rw, .val 0x35⟩
/-- HST_CAUSE (17_host_interface_and_interrupts.md, R429). -/
def HST_CAUSE : Nat := 0x60
def HST_CAUSE_cause : Fld := ⟨HST_CAUSE, 0, 8, .w1c, .val 0x0⟩
/-- HST_CAUSE_MASK (17_host_interface_and_interrupts.md, R429). -/
def HST_CAUSE_MASK : Nat := 0x68
def HST_CAUSE_MASK_mask : Fld := ⟨HST_CAUSE_MASK, 0, 8, .rw, .val 0x7F⟩

def rowsHST : List RegRow := [
  ⟨"HST_PART_INFO", 0x8, false, 1, 0x0, 1, 0x0, [HST_PART_INFO_tiles_in_service, HST_PART_INFO_compute_dies, HST_PART_INFO_seats, HST_PART_INFO_lpd_stacks, HST_PART_INFO_eth_ports, HST_PART_INFO_part_code, HST_PART_INFO_stepping_letter, HST_PART_INFO_stepping_number]⟩,
  ⟨"HST_DIE_STATUS", 0x10, false, 1, 0x0, 1, 0x0, [HST_DIE_STATUS_compute_ok, HST_DIE_STATUS_hub_ok, HST_DIE_STATUS_net_ok, HST_DIE_STATUS_control_ok, HST_DIE_STATUS_host_ok, HST_DIE_STATUS_lpd_stack_ok, HST_DIE_STATUS_test_done]⟩,
  ⟨"HST_BAR4_LOG", 0x40, false, 1, 0x0, 1, 0x0, [HST_BAR4_LOG_addr, HST_BAR4_LOG_write, HST_BAR4_LOG_sealed, HST_BAR4_LOG_partition, HST_BAR4_LOG_valid]⟩,
  ⟨"HST_IRQ_DB", 0x10020000, false, 1, 0x0, 1, 0x0, [HST_IRQ_DB_rearm]⟩,
  ⟨"HST_LINK", 0x18, false, 1, 0x0, 1, 0x0, [HST_LINK_gen, HST_LINK_width, HST_LINK_flit, HST_LINK_reversed, HST_LINK_ide_streams, HST_LINK_retrains]⟩,
  ⟨"HST_MAC_BASE", 0x30, false, 1, 0x0, 1, 0x0, [HST_MAC_BASE_mac]⟩,
  ⟨"HST_BAR0_LOG", 0x48, false, 1, 0x0, 1, 0x0, [HST_BAR0_LOG_offset, HST_BAR0_LOG_bar2, HST_BAR0_LOG_write, HST_BAR0_LOG_bytes_log2, HST_BAR0_LOG_function, HST_BAR0_LOG_valid]⟩,
  ⟨"HST_SERIAL0", 0x50, false, 1, 0x0, 1, 0x0, [HST_SERIAL0_serial]⟩,
  ⟨"HST_SERIAL1", 0x58, false, 1, 0x0, 1, 0x0, [HST_SERIAL1_serial]⟩,
  ⟨"HST_BAR4_BASE", 0x70, false, 1, 0x0, 1, 0x0, [HST_BAR4_BASE_base]⟩,
  ⟨"HST_DMA_CFG", 0x78, false, 1, 0x0, 1, 0x0, [HST_DMA_CFG_cpl_timeout_ms]⟩,
  ⟨"HST_VF_BAR4_BASE", 0x100, false, 8, 0x8, 1, 0x0, [HST_VF_BAR4_BASE_base 0]⟩,
  ⟨"HST_RESET_STATUS", 0x200, false, 1, 0x0, 1, 0x0, [HST_RESET_STATUS_cause, HST_RESET_STATUS_board_id, HST_RESET_STATUS_mem_kept, HST_RESET_STATUS_unseal_lost, HST_RESET_STATUS_copy_lost, HST_RESET_STATUS_grading_armed, HST_RESET_STATUS_audit_on, HST_RESET_STATUS_module_resets, HST_RESET_STATUS_partition_resets]⟩,
  ⟨"HST_RESET_CTL", 0x208, false, 1, 0x0, 1, 0x0, [HST_RESET_CTL_module, HST_RESET_CTL_partition, HST_RESET_CTL_job, HST_RESET_CTL_part, HST_RESET_CTL_job_id]⟩,
  ⟨"HST_FW_ADDR", 0x210, false, 1, 0x0, 1, 0x0, [HST_FW_ADDR_addr]⟩,
  ⟨"HST_FW_LEN", 0x218, false, 1, 0x0, 1, 0x0, [HST_FW_LEN_len]⟩,
  ⟨"HST_FW_CTL", 0x220, false, 1, 0x0, 1, 0x0, [HST_FW_CTL_load]⟩,
  ⟨"HST_BOOT", 0x228, false, 1, 0x0, 1, 0x0, [HST_BOOT_state, HST_BOOT_prep_done, HST_BOOT_loads, HST_BOOT_prep_ms]⟩,
  ⟨"HST_CAUSE", 0x60, false, 1, 0x0, 1, 0x0, [HST_CAUSE_cause]⟩,
  ⟨"HST_CAUSE_MASK", 0x68, false, 1, 0x0, 1, 0x0, [HST_CAUSE_MASK_mask]⟩]

def rowsTIM : List RegRow := [
  ⟨"TIM_STATUS", 0x20000, false, 1, 0x0, 1, 0x0, [TIM_STATUS_state, TIM_STATUS_source, TIM_STATUS_tod_valid, TIM_STATUS_ref_ok, TIM_STATUS_ref_in_use, TIM_STATUS_pps_ok, TIM_STATUS_ptp_ok, TIM_STATUS_slewing, TIM_STATUS_step_pending, TIM_STATUS_holdover_s]⟩,
  ⟨"TIM_SRC_CFG", 0x20008, false, 1, 0x0, 1, 0x0, [TIM_SRC_CFG_primary, TIM_SRC_CFG_secondary, TIM_SRC_CFG_ptp_port, TIM_SRC_CFG_ref_sel, TIM_SRC_CFG_pps_edge, TIM_SRC_CFG_step_allowed, TIM_SRC_CFG_step_while_bound, TIM_SRC_CFG_pps_out_en, TIM_SRC_CFG_pps_out_width, TIM_SRC_CFG_step_thresh]⟩,
  ⟨"TIM_TOD", 0x20010, false, 1, 0x0, 1, 0x0, [TIM_TOD_tod]⟩,
  ⟨"TIM_TOD_SET", 0x20018, false, 1, 0x0, 1, 0x0, [TIM_TOD_SET_tod_set]⟩,
  ⟨"TIM_ADJ", 0x20020, false, 1, 0x0, 1, 0x0, [TIM_ADJ_phase_ns, TIM_ADJ_rate, TIM_ADJ_ptp_mark, TIM_ADJ_rate_valid, TIM_ADJ_phase_valid]⟩,
  ⟨"TIM_PHASE_ERR", 0x20028, false, 1, 0x0, 1, 0x0, [TIM_PHASE_ERR_phase_err, TIM_PHASE_ERR_edges]⟩,
  ⟨"TIM_REF_STATS", 0x20030, false, 1, 0x0, 1, 0x0, [TIM_REF_STATS_ref_err_ppb, TIM_REF_STATS_lost_events]⟩,
  ⟨"TIM_PPS_STATS", 0x20038, false, 1, 0x0, 1, 0x0, [TIM_PPS_STATS_accepted, TIM_PPS_STATS_width_rejects, TIM_PPS_STATS_window_rejects, TIM_PPS_STATS_missing]⟩,
  ⟨"TIM_FREQ_CTL", 0x20040, false, 1, 0x0, 1, 0x0, [TIM_FREQ_CTL_target, TIM_FREQ_CTL_current, TIM_FREQ_CTL_busy]⟩,
  ⟨"TIM_WINDOW", 0x20048, false, 1, 0x0, 1, 0x0, [TIM_WINDOW_window]⟩,
  ⟨"TIM_WIN_TOD", 0x20050, false, 1, 0x0, 1, 0x0, [TIM_WIN_TOD_win_tod]⟩,
  ⟨"TIM_MISSED", 0x20058, false, 1, 0x0, 1, 0x0, [TIM_MISSED_missed_bells]⟩,
  ⟨"TIM_XOVR_INFO", 0x20060, false, 1, 0x0, 1, 0x0, [TIM_XOVR_INFO_tile, TIM_XOVR_INFO_link, TIM_XOVR_INFO_underrun, TIM_XOVR_INFO_overrun, TIM_XOVR_INFO_window]⟩,
  ⟨"TIM_CAUSE", 0x20068, false, 1, 0x0, 1, 0x0, [TIM_CAUSE_cause]⟩,
  ⟨"TIM_CAUSE_MASK", 0x20070, false, 1, 0x0, 1, 0x0, [TIM_CAUSE_MASK_mask]⟩]

def rowsTILE : List RegRow := [
  ⟨"TIM_XOFS", 0x200, true, 1, 0x0, 1, 0x0, [TIM_XOFS_offset 0 0, TIM_XOFS_offset 0 1, TIM_XOFS_offset 0 2, TIM_XOFS_offset 0 3, TIM_XOFS_present 0 0, TIM_XOFS_present 0 1, TIM_XOFS_present 0 2, TIM_XOFS_present 0 3, TIM_XOFS_enabled 0 0, TIM_XOFS_enabled 0 1, TIM_XOFS_enabled 0 2, TIM_XOFS_enabled 0 3]⟩,
  ⟨"TIM_XFILL", 0x208, true, 1, 0x0, 1, 0x0, [TIM_XFILL_min_fill 0 0, TIM_XFILL_min_fill 0 1, TIM_XFILL_min_fill 0 2, TIM_XFILL_min_fill 0 3, TIM_XFILL_max_fill 0 0, TIM_XFILL_max_fill 0 1, TIM_XFILL_max_fill 0 2, TIM_XFILL_max_fill 0 3]⟩,
  ⟨"TIM_STRETCH", 0x210, true, 1, 0x0, 1, 0x0, [TIM_STRETCH_own 0, TIM_STRETCH_equalising 0, TIM_STRETCH_bubble_req 0, TIM_STRETCH_full_windows 0]⟩,
  ⟨"TIM_KICK_TOD", 0x218, true, 1, 0x0, 1, 0x0, [TIM_KICK_TOD_kick_tod 0]⟩,
  ⟨"TIL_SEQ_STATUS", 0x0, true, 1, 0x0, 1, 0x0, [TIL_SEQ_STATUS_pc 0, TIL_SEQ_STATUS_state 0, TIL_SEQ_STATUS_halt_code 0, TIL_SEQ_STATUS_loops_active 0]⟩,
  ⟨"TIL_TICK", 0x8, true, 1, 0x0, 1, 0x0, [TIL_TICK_tick 0]⟩,
  ⟨"ME_CAP", 0x400, true, 1, 0x0, 1, 0x0, [ME_CAP_dpus 0, ME_CAP_bench_dpus 0, ME_CAP_lanes 0, ME_CAP_acc_open 0, ME_CAP_acc_exam 0, ME_CAP_wbuf_lines 0, ME_CAP_long_bits 0]⟩,
  ⟨"ME_STATUS", 0x408, true, 1, 0x0, 1, 0x0, [ME_STATUS_wbuf0_fmt 0, ME_STATUS_wbuf0_sparse 0, ME_STATUS_wbuf0_valid 0, ME_STATUS_wbuf1_fmt 0, ME_STATUS_wbuf1_sparse 0, ME_STATUS_wbuf1_valid 0, ME_STATUS_shadow_next 0, ME_STATUS_shadow_width 0]⟩,
  ⟨"ME_MMA_COUNT", 0x410, true, 1, 0x0, 1, 0x0, [ME_MMA_COUNT_mma 0]⟩,
  ⟨"ME_GATE", 0x418, true, 1, 0x0, 1, 0x0, [ME_GATE_gated_groups 0, ME_GATE_gated_mma 0]⟩,
  ⟨"ME_SHADOW", 0x420, true, 1, 0x0, 1, 0x0, [ME_SHADOW_compares 0, ME_SHADOW_mismatches 0, ME_SHADOW_last_pos 0]⟩,
  ⟨"ME_SHADOW_INFO", 0x428, true, 1, 0x0, 1, 0x0, [ME_SHADOW_INFO_last_mma 0]⟩,
  ⟨"ME_ERR_INFO", 0x430, true, 1, 0x0, 1, 0x0, [ME_ERR_INFO_cause 0, ME_ERR_INFO_pc 0, ME_ERR_INFO_acc 0, ME_ERR_INFO_pos 0, ME_ERR_INFO_overflow 0, ME_ERR_INFO_nonfinite 0]⟩,
  ⟨"VE_CAP", 0x500, true, 1, 0x0, 1, 0x0, [VE_CAP_lanes 0, VE_CAP_stages 0, VE_CAP_banks 0, VE_CAP_streams 0, VE_CAP_masks 0, VE_CAP_chains 0, VE_CAP_tray_lines 0]⟩,
  ⟨"VE_TRAY", 0x508, true, 1, 0x0, 1, 0x0, [VE_TRAY_entries 0, VE_TRAY_free_lines 0, VE_TRAY_head_long 0, VE_TRAY_head_visible 0, VE_TRAY_peak_lines 0]⟩,
  ⟨"VE_COUNT", 0x510, true, 1, 0x0, 1, 0x0, [VE_COUNT_chains 0, VE_COUNT_pops 0]⟩,
  ⟨"VE_ERR_INFO", 0x518, true, 1, 0x0, 1, 0x0, [VE_ERR_INFO_cause 0, VE_ERR_INFO_pc 0, VE_ERR_INFO_chain 0]⟩,
  ⟨"AID_CAP", 0x600, true, 1, 0x0, 1, 0x0, [AID_CAP_aides 0, AID_CAP_bench 0, AID_CAP_regs 0, AID_CAP_preds 0, AID_CAP_spad_kib 0]⟩,
  ⟨"AID_LOCKER", 0x608, true, 1, 0x0, 1, 0x0, [AID_LOCKER_fetches 0, AID_LOCKER_writes 0]⟩,
  ⟨"AID_ERR_INFO", 0x610, true, 1, 0x0, 1, 0x0, [AID_ERR_INFO_cause 0, AID_ERR_INFO_pc 0, AID_ERR_INFO_aide 0, AID_ERR_INFO_op 0]⟩,
  ⟨"SPD_CLASS", 0x700, true, 1, 0x0, 1, 0x0, [SPD_CLASS_me_weight_pages 0]⟩,
  ⟨"SPD_ECC", 0x708, true, 1, 0x0, 1, 0x0, [SPD_ECC_me_corrected 0, SPD_ECC_ve_corrected 0, SPD_ECC_aide_corrected 0, SPD_ECC_array_corrected 0]⟩,
  ⟨"BDR_REFRESH", 0x780, true, 1, 0x0, 1, 0x0, [BDR_REFRESH_oldest_age_us 0, BDR_REFRESH_refr 0, BDR_REFRESH_controller 0, BDR_REFRESH_late 0]⟩,
  ⟨"BDR_STATIC", 0x788, true, 1, 0x0, 1, 0x0, [BDR_STATIC_held_ticks 0, BDR_STATIC_conflicts 0, BDR_STATIC_crc_resends 0, BDR_STATIC_corrected 0]⟩,
  ⟨"TIL_LPASS", 0x800, true, 1, 0x0, 1, 0x0, [TIL_LPASS_outstanding0 0, TIL_LPASS_outstanding1 0, TIL_LPASS_excess_ticks 0, TIL_LPASS_issued 0]⟩,
  ⟨"TIL_LPASS_BYTES", 0x808, true, 1, 0x0, 1, 0x0, [TIL_LPASS_BYTES_bytes 0]⟩,
  ⟨"TIL_XFER_ERR", 0x810, true, 1, 0x0, 1, 0x0, [TIL_XFER_ERR_cause 0, TIL_XFER_ERR_pc 0, TIL_XFER_ERR_tmpl 0, TIL_XFER_ERR_eng 0, TIL_XFER_ERR_piece 0]⟩,
  ⟨"CH_ROUTE", 0x900, true, 16, 0x8, 1, 0x0, [CH_ROUTE_dst_tile 0 0, CH_ROUTE_dst_q 0 0, CH_ROUTE_path 0 0, CH_ROUTE_depth 0 0, CH_ROUTE_open_at_kickoff 0 0, CH_ROUTE_arr_en 0 0, CH_ROUTE_cred_en 0 0, CH_ROUTE_arr_ctr 0 0, CH_ROUTE_cred_ctr 0 0]⟩,
  ⟨"CH_QSTAT", 0x980, true, 16, 0x8, 1, 0x0, [CH_QSTAT_depth 0 0, CH_QSTAT_fill 0 0, CH_QSTAT_open 0 0, CH_QSTAT_incarnation 0 0, CH_QSTAT_writer_tile 0 0, CH_QSTAT_writer_ep 0 0, CH_QSTAT_unread 0 0, CH_QSTAT_orphans 0 0]⟩,
  ⟨"CH_EPSTAT", 0xA00, true, 16, 0x8, 1, 0x0, [CH_EPSTAT_credits 0 0, CH_EPSTAT_open 0 0, CH_EPSTAT_link 0 0, CH_EPSTAT_orphan_sends 0 0, CH_EPSTAT_held_ticks 0 0]⟩,
  ⟨"CH_STALE", 0xA80, true, 1, 0x0, 1, 0x0, [CH_STALE_lines 0]⟩,
  ⟨"CH_ORPHAN", 0xA88, true, 1, 0x0, 1, 0x0, [CH_ORPHAN_tile 0, CH_ORPHAN_queue 0, CH_ORPHAN_endpoint 0, CH_ORPHAN_at_reader 0, CH_ORPHAN_pc 0, CH_ORPHAN_valid 0]⟩,
  ⟨"CH_WDOG", 0xA90, true, 1, 0x0, 1, 0x0, [CH_WDOG_limit_log2 0, CH_WDOG_stalled 0]⟩,
  ⟨"TIL_MODE", 0x10, true, 1, 0x0, 1, 0x0, [TIL_MODE_strict 0, TIL_MODE_slip_fatal 0, TIL_MODE_timing_model 0, TIL_MODE_size_class 0, TIL_MODE_task_tile 0, TIL_MODE_bound 0, TIL_MODE_job_id 0]⟩,
  ⟨"TIL_ERR", 0x28, true, 1, 0x0, 1, 0x0, [TIL_ERR_code 0, TIL_ERR_slot 0, TIL_ERR_pc 0, TIL_ERR_valid 0]⟩,
  ⟨"TIL_ERR_TICK", 0x30, true, 1, 0x0, 1, 0x0, [TIL_ERR_TICK_tick 0]⟩,
  ⟨"TIL_SLIP", 0x38, true, 1, 0x0, 1, 0x0, [TIL_SLIP_slips 0, TIL_SLIP_records 0]⟩,
  ⟨"TIL_GUARD", 0x40, true, 1, 0x0, 1, 0x0, [TIL_GUARD_held 0]⟩,
  ⟨"TIL_SLIP_FIRST", 0x48, true, 1, 0x0, 1, 0x0, [TIL_SLIP_FIRST_pc 0, TIL_SLIP_FIRST_kind 0, TIL_SLIP_FIRST_slot 0, TIL_SLIP_FIRST_valid 0]⟩,
  ⟨"TIL_SLIP_FIRST_AT", 0x50, true, 1, 0x0, 1, 0x0, [TIL_SLIP_FIRST_AT_tick 0, TIL_SLIP_FIRST_AT_length 0]⟩,
  ⟨"TIL_SLIP_LONG", 0x58, true, 1, 0x0, 1, 0x0, [TIL_SLIP_LONG_pc 0, TIL_SLIP_LONG_kind 0, TIL_SLIP_LONG_slot 0, TIL_SLIP_LONG_valid 0]⟩,
  ⟨"TIL_SLIP_LONG_AT", 0x60, true, 1, 0x0, 1, 0x0, [TIL_SLIP_LONG_AT_tick 0, TIL_SLIP_LONG_AT_length 0]⟩,
  ⟨"REL_WEAR", 0xB00, true, 1, 0x0, 1, 0x0, [REL_WEAR_ageing 0, REL_WEAR_ce_rate 0, REL_WEAR_faults 0, REL_WEAR_alert 0]⟩,
  ⟨"REL_DPU", 0xB08, true, 1, 0x0, 1, 0x0, [REL_DPU_used 0, REL_DPU_retired 0, REL_DPU_last_pos 0, REL_DPU_last_bench 0, REL_DPU_last_valid 0]⟩,
  ⟨"REL_DPU_POS", 0xB10, true, 1, 0x0, 1, 0x0, [REL_DPU_POS_pos 0 0, REL_DPU_POS_pos 0 1, REL_DPU_POS_pos 0 2, REL_DPU_POS_pos 0 3, REL_DPU_POS_pos 0 4, REL_DPU_POS_pos 0 5, REL_DPU_POS_pos 0 6, REL_DPU_POS_pos 0 7]⟩,
  ⟨"REL_AIDE", 0xB18, true, 1, 0x0, 1, 0x0, [REL_AIDE_serves 0, REL_AIDE_used 0, REL_AIDE_retired 0]⟩,
  ⟨"REL_ROW", 0xB40, true, 32, 0x8, 1, 0x0, [REL_ROW_row_group 0 0, REL_ROW_used 0 0, REL_ROW_retired 0 0]⟩,
  ⟨"PWR_TILE", 0xD00, true, 1, 0x0, 1, 0x0, [PWR_TILE_power_cw 0, PWR_TILE_hint_level 0, PWR_TILE_hint_active 0]⟩,
  ⟨"TIL_CAUSE", 0x18, true, 1, 0x0, 1, 0x0, [TIL_CAUSE_cause 0]⟩,
  ⟨"TIL_CAUSE_MASK", 0x20, true, 1, 0x0, 1, 0x0, [TIL_CAUSE_MASK_mask 0]⟩]

def rowsSNL : List RegRow := [
  ⟨"SNL_VERSION", 0x20, false, 1, 0x0, 1, 0x0, [SNL_VERSION_isa_major, SNL_VERSION_isa_minor, SNL_VERSION_timing_model, SNL_VERSION_tile_bits, SNL_VERSION_counter_bits, SNL_VERSION_seat_bits, SNL_VERSION_addr_bits]⟩,
  ⟨"SNL_CAP", 0x28, false, 1, 0x0, 1, 0x0, [SNL_CAP_fp8, SNL_CAP_int8, SNL_CAP_int4, SNL_CAP_mx, SNL_CAP_bf16, SNL_CAP_fp16, SNL_CAP_sparse24, SNL_CAP_amask, SNL_CAP_exam_acc, SNL_CAP_ve_lanes, SNL_CAP_locker, SNL_CAP_seating, SNL_CAP_short_pass, SNL_CAP_hints, SNL_CAP_layer_digest, SNL_CAP_philox, SNL_CAP_stoch_round, SNL_CAP_partitions, SNL_CAP_doubles, SNL_CAP_grading]⟩]

def rowsNET : List RegRow := [
  ⟨"NET_SPU_STATUS", 0x58000, false, 1, 0x0, 1, 0x0, [NET_SPU_STATUS_busy, NET_SPU_STATUS_filling, NET_SPU_STATUS_bound, NET_SPU_STATUS_last_period, NET_SPU_STATUS_last_plan, NET_SPU_STATUS_last_forced]⟩,
  ⟨"NET_SPU_ERR_INFO", 0x58018, false, 1, 0x0, 1, 0x0, [NET_SPU_ERR_INFO_seat, NET_SPU_ERR_INFO_bin, NET_SPU_ERR_INFO_plan, NET_SPU_ERR_INFO_reason, NET_SPU_ERR_INFO_sender, NET_SPU_ERR_INFO_valid]⟩,
  ⟨"NET_SPU_FILL", 0x58040, false, 4, 0x20, 1, 0x0, [NET_SPU_FILL_placed 0, NET_SPU_FILL_carried_in 0, NET_SPU_FILL_carried_out 0, NET_SPU_FILL_dropped 0]⟩,
  ⟨"NET_SPU_TOTAL", 0x58048, false, 4, 0x20, 1, 0x0, [NET_SPU_TOTAL_fills 0, NET_SPU_TOTAL_dropped_total 0]⟩,
  ⟨"NET_SPU_REJECT", 0x58050, false, 4, 0x20, 1, 0x0, [NET_SPU_REJECT_late 0, NET_SPU_REJECT_bad_seat 0, NET_SPU_REJECT_bad_bin 0, NET_SPU_REJECT_over_limit 0]⟩,
  ⟨"NET_SPU_MISC", 0x58058, false, 4, 0x20, 1, 0x0, [NET_SPU_MISC_duplicates 0, NET_SPU_MISC_carry_discarded 0, NET_SPU_MISC_forced 0]⟩,
  ⟨"NET_PORT_CFG", 0x50000, false, 12, 0x80, 1, 0x0, [NET_PORT_CFG_mode 0, NET_PORT_CFG_en 0, NET_PORT_CFG_macsec_req 0, NET_PORT_CFG_ptp_clear 0, NET_PORT_CFG_vlan_en 0, NET_PORT_CFG_vid 0]⟩,
  ⟨"NET_PORT_STATUS", 0x50008, false, 12, 0x80, 1, 0x0, [NET_PORT_STATUS_link_up 0, NET_PORT_STATUS_fec_corrected 0, NET_PORT_STATUS_fec_uncorrected 0]⟩,
  ⟨"NET_PORT_RX", 0x50010, false, 12, 0x80, 1, 0x0, [NET_PORT_RX_miobel 0, NET_PORT_RX_ptp 0, NET_PORT_RX_firmware 0]⟩,
  ⟨"NET_PORT_DROP", 0x50018, false, 12, 0x80, 1, 0x0, [NET_PORT_DROP_fcs 0, NET_PORT_DROP_macsec 0, NET_PORT_DROP_header 0, NET_PORT_DROP_other 0]⟩,
  ⟨"NET_PTP_ASYM", 0x50020, false, 12, 0x80, 1, 0x0, [NET_PTP_ASYM_asym_ns 0]⟩,
  ⟨"NET_SUB_ADDR_HI", 0x50040, false, 12, 0x80, 4, 0x10, [NET_SUB_ADDR_HI_addr_hi 0 0]⟩,
  ⟨"NET_SUB_ADDR_LO", 0x50048, false, 12, 0x80, 4, 0x10, [NET_SUB_ADDR_LO_addr_lo 0 0]⟩,
  ⟨"NET_ASSOC_IP_HI", 0x51000, false, 512, 0x20, 1, 0x0, [NET_ASSOC_IP_HI_ip_hi 0]⟩,
  ⟨"NET_ASSOC_IP_LO", 0x51008, false, 512, 0x20, 1, 0x0, [NET_ASSOC_IP_LO_ip_lo 0]⟩,
  ⟨"NET_ASSOC_CFG", 0x51010, false, 512, 0x20, 1, 0x0, [NET_ASSOC_CFG_peer_udp 0, NET_ASSOC_CFG_port 0, NET_ASSOC_CFG_subport 0, NET_ASSOC_CFG_valid 0, NET_ASSOC_CFG_kind 0, NET_ASSOC_CFG_coll_module 0, NET_ASSOC_CFG_epoch 0]⟩,
  ⟨"NET_ASSOC_STAT", 0x51018, false, 512, 0x20, 1, 0x0, [NET_ASSOC_STAT_rx 0, NET_ASSOC_STAT_dup 0, NET_ASSOC_STAT_stale 0]⟩,
  ⟨"NET_MIOBEL_CFG", 0x50800, false, 1, 0x0, 1, 0x0, [NET_MIOBEL_CFG_udp_port, NET_MIOBEL_CFG_reply_hold_ms]⟩,
  ⟨"NET_INGEST_STATUS", 0x50808, false, 1, 0x0, 1, 0x0, [NET_INGEST_STATUS_candidates, NET_INGEST_STATUS_seated_last, NET_INGEST_STATUS_deferred_last]⟩,
  ⟨"NET_INGEST_REJECT", 0x50810, false, 1, 0x0, 1, 0x0, [NET_INGEST_REJECT_not_bound, NET_INGEST_REJECT_bad_form, NET_INGEST_REJECT_bad_length, NET_INGEST_REJECT_bad_field]⟩,
  ⟨"NET_INGEST_MISC", 0x50818, false, 1, 0x0, 1, 0x0, [NET_INGEST_MISC_busy, NET_INGEST_MISC_dup, NET_INGEST_MISC_stale, NET_INGEST_MISC_deferred]⟩,
  ⟨"NET_REPLY_STATS", 0x50820, false, 1, 0x0, 1, 0x0, [NET_REPLY_STATS_sent, NET_REPLY_STATS_bad, NET_REPLY_STATS_resent, NET_REPLY_STATS_lost]⟩,
  ⟨"NET_COLL_CFG", 0x50900, false, 1, 0x0, 1, 0x0, [NET_COLL_CFG_modules, NET_COLL_CFG_index, NET_COLL_CFG_log2_local, NET_COLL_CFG_en, NET_COLL_CFG_rto_us]⟩,
  ⟨"NET_COLL_STATS", 0x50908, false, 1, 0x0, 1, 0x0, [NET_COLL_STATS_segments, NET_COLL_STATS_retransmits, NET_COLL_STATS_dup]⟩,
  ⟨"NET_COLL_ERR", 0x50910, false, 1, 0x0, 1, 0x0, [NET_COLL_ERR_cause, NET_COLL_ERR_layer, NET_COLL_ERR_segment, NET_COLL_ERR_rank, NET_COLL_ERR_valid]⟩,
  ⟨"NET_PAIR_STATUS", 0x50A00, false, 2, 0x10, 1, 0x0, [NET_PAIR_STATUS_up 0, NET_PAIR_STATUS_lanes_ok 0, NET_PAIR_STATUS_resends 0, NET_PAIR_STATUS_down_events 0]⟩,
  ⟨"NET_PAIR_CFG", 0x50A08, false, 2, 0x10, 1, 0x0, [NET_PAIR_CFG_en 0, NET_PAIR_CFG_hb_us 0]⟩,
  ⟨"NET_SPU_CAUSE", 0x58008, false, 1, 0x0, 1, 0x0, [NET_SPU_CAUSE_cause]⟩,
  ⟨"NET_SPU_CAUSE_MASK", 0x58010, false, 1, 0x0, 1, 0x0, [NET_SPU_CAUSE_MASK_mask]⟩,
  ⟨"NET_CAUSE", 0x50B00, false, 1, 0x0, 1, 0x0, [NET_CAUSE_cause]⟩,
  ⟨"NET_CAUSE_MASK", 0x50B08, false, 1, 0x0, 1, 0x0, [NET_CAUSE_MASK_mask]⟩]

def rowsLPD : List RegRow := [
  ⟨"LPD_STATUS", 0x60000, false, 1, 0x0, 1, 0x0, [LPD_STATUS_stack_up, LPD_STATUS_rate]⟩,
  ⟨"LPD_ECC", 0x60008, false, 1, 0x0, 1, 0x0, [LPD_ECC_corrected, LPD_ECC_device_corrected, LPD_ECC_uncorrectable]⟩,
  ⟨"LPD_SCRUB", 0x60010, false, 1, 0x0, 1, 0x0, [LPD_SCRUB_en, LPD_SCRUB_scrub_hours, LPD_SCRUB_passes]⟩,
  ⟨"LPD_LKS_BASE", 0x60100, false, 8, 0x20, 1, 0x0, [LPD_LKS_BASE_base 0]⟩,
  ⟨"LPD_LKS_HEAD", 0x60108, false, 8, 0x20, 1, 0x0, [LPD_LKS_HEAD_head_base 0]⟩,
  ⟨"LPD_LKS_SHAPE", 0x60110, false, 8, 0x20, 1, 0x0, [LPD_LKS_SHAPE_locker_units 0, LPD_LKS_SHAPE_event_units 0, LPD_LKS_SHAPE_valid 0]⟩,
  ⟨"LPD_LKS_COUNT", 0x60118, false, 8, 0x20, 1, 0x0, [LPD_LKS_COUNT_count 0]⟩,
  ⟨"LPD_CAUSE", 0x60018, false, 1, 0x0, 1, 0x0, [LPD_CAUSE_cause]⟩,
  ⟨"LPD_CAUSE_MASK", 0x60020, false, 1, 0x0, 1, 0x0, [LPD_CAUSE_MASK_mask]⟩]

def rowsSYN : List RegRow := [
  ⟨"SYN_CTR", 0x30000, false, 4096, 0x8, 1, 0x0, [SYN_CTR_value 0, SYN_CTR_threshold 0, SYN_CTR_epoch 0, SYN_CTR_job_id 0]⟩,
  ⟨"SYN_STATS", 0x38000, false, 1, 0x0, 1, 0x0, [SYN_STATS_stale, SYN_STATS_overflow_ctr, SYN_STATS_overflow_valid]⟩,
  ⟨"SYN_STALE_INFO", 0x38008, false, 1, 0x0, 1, 0x0, [SYN_STALE_INFO_counter, SYN_STALE_INFO_job_id, SYN_STALE_INFO_epoch, SYN_STALE_INFO_source, SYN_STALE_INFO_valid]⟩]

def rowsCH : List RegRow := [
  ⟨"CH_STALL_A", 0x38010, false, 1, 0x0, 1, 0x0, [CH_STALL_A_tile, CH_STALL_A_kind, CH_STALL_A_object, CH_STALL_A_job_id, CH_STALL_A_cause, CH_STALL_A_valid]⟩,
  ⟨"CH_STALL_B", 0x38018, false, 1, 0x0, 1, 0x0, [CH_STALL_B_tile, CH_STALL_B_kind, CH_STALL_B_object, CH_STALL_B_job_id, CH_STALL_B_valid]⟩]

def rowsHQ : List RegRow := [
  ⟨"HQ_SQ_BASE", 0x40000, false, 16, 0x40, 1, 0x0, [HQ_SQ_BASE_base 0]⟩,
  ⟨"HQ_SQ_CFG", 0x40008, false, 16, 0x40, 1, 0x0, [HQ_SQ_CFG_log2_entries 0, HQ_SQ_CFG_en 0, HQ_SQ_CFG_cq 0, HQ_SQ_CFG_partition 0]⟩,
  ⟨"HQ_DEPTH", 0x40010, false, 16, 0x40, 1, 0x0, [HQ_DEPTH_head 0, HQ_DEPTH_free 0, HQ_DEPTH_pending 0]⟩,
  ⟨"HQ_CQ_BASE", 0x40018, false, 16, 0x40, 1, 0x0, [HQ_CQ_BASE_base 0]⟩,
  ⟨"HQ_CQ_CFG", 0x40020, false, 16, 0x40, 1, 0x0, [HQ_CQ_CFG_log2_entries 0, HQ_CQ_CFG_en 0]⟩,
  ⟨"HQ_CQ_STATUS", 0x40028, false, 16, 0x40, 1, 0x0, [HQ_CQ_STATUS_tail 0, HQ_CQ_STATUS_held 0, HQ_CQ_STATUS_reserved_space 0]⟩,
  ⟨"HQ_SQ_DB", 0x10000000, false, 16, 0x1000, 1, 0x0, [HQ_SQ_DB_tail 0]⟩,
  ⟨"HQ_CQ_DB", 0x10010000, false, 16, 0x1000, 1, 0x0, [HQ_CQ_DB_head 0]⟩,
  ⟨"HQ_CAUSE", 0x40800, false, 1, 0x0, 1, 0x0, [HQ_CAUSE_cause]⟩,
  ⟨"HQ_CAUSE_MASK", 0x40808, false, 1, 0x0, 1, 0x0, [HQ_CAUSE_MASK_mask]⟩]

def rowsCTL : List RegRow := [
  ⟨"CTL_DISP_STATUS", 0x12000, false, 1, 0x0, 1, 0x0, [CTL_DISP_STATUS_running, CTL_DISP_STATUS_pending, CTL_DISP_STATUS_jobs]⟩,
  ⟨"CTL_PERIOD_NUM", 0x12100, false, 8, 0x20, 1, 0x0, [CTL_PERIOD_NUM_period 0, CTL_PERIOD_NUM_job_id 0, CTL_PERIOD_NUM_bound 0]⟩,
  ⟨"CTL_PERIOD_MARGIN", 0x12108, false, 8, 0x20, 1, 0x0, [CTL_PERIOD_MARGIN_min_margin_inv 0, CTL_PERIOD_MARGIN_last_margin_ns 0]⟩,
  ⟨"CTL_PERIOD_COUNT", 0x12110, false, 8, 0x20, 1, 0x0, [CTL_PERIOD_COUNT_overruns 0, CTL_PERIOD_COUNT_skipped 0, CTL_PERIOD_COUNT_late_periods 0, CTL_PERIOD_COUNT_retakes 0]⟩,
  ⟨"CTL_PERIOD_LATE", 0x12118, false, 8, 0x20, 1, 0x0, [CTL_PERIOD_LATE_late_replies 0, CTL_PERIOD_LATE_late_scores 0, CTL_PERIOD_LATE_miss_records 0]⟩,
  ⟨"CTL_IRQ_SUMMARY", 0x10000, false, 1, 0x0, 1, 0x0, [CTL_IRQ_SUMMARY_groups]⟩,
  ⟨"CTL_IRQ_MASK", 0x10008, false, 1, 0x0, 1, 0x0, [CTL_IRQ_MASK_mask]⟩,
  ⟨"CTL_IRQ_CTL", 0x10010, false, 1, 0x0, 1, 0x0, [CTL_IRQ_CTL_pin_en, CTL_IRQ_CTL_rearm, CTL_IRQ_CTL_armed, CTL_IRQ_CTL_pending, CTL_IRQ_CTL_holdoff_us]⟩,
  ⟨"CTL_IRQ_STATS", 0x10018, false, 1, 0x0, 1, 0x0, [CTL_IRQ_STATS_messages, CTL_IRQ_STATS_rearm_sends]⟩,
  ⟨"CTL_IRQ_GRP", 0x10100, false, 13, 0x8, 1, 0x0, [CTL_IRQ_GRP_leaves 0]⟩,
  ⟨"CTL_IRQ_GRP_MASK", 0x10180, false, 13, 0x8, 1, 0x0, [CTL_IRQ_GRP_MASK_mask 0]⟩,
  ⟨"CTL_IRQ_TILES0", 0x10200, false, 1, 0x0, 1, 0x0, [CTL_IRQ_TILES0_tiles]⟩,
  ⟨"CTL_IRQ_TILES1", 0x10208, false, 1, 0x0, 1, 0x0, [CTL_IRQ_TILES1_tiles]⟩,
  ⟨"CTL_IRQ_TILES_MASK0", 0x10210, false, 1, 0x0, 1, 0x0, [CTL_IRQ_TILES_MASK0_mask]⟩,
  ⟨"CTL_IRQ_TILES_MASK1", 0x10218, false, 1, 0x0, 1, 0x0, [CTL_IRQ_TILES_MASK1_mask]⟩,
  ⟨"CTL_DISP_CAUSE", 0x12008, false, 1, 0x0, 1, 0x0, [CTL_DISP_CAUSE_cause]⟩,
  ⟨"CTL_DISP_CAUSE_MASK", 0x12010, false, 1, 0x0, 1, 0x0, [CTL_DISP_CAUSE_MASK_mask]⟩]

def rowsGRD : List RegRow := [
  ⟨"GRD_JOB", 0x70000, false, 1, 0x0, 1, 0x0, [GRD_JOB_job_id, GRD_JOB_en]⟩,
  ⟨"GRD_TABLE", 0x70008, false, 1, 0x0, 1, 0x0, [GRD_TABLE_table_region, GRD_TABLE_journal_region, GRD_TABLE_layer_count]⟩,
  ⟨"GRD_RING", 0x70010, false, 1, 0x0, 1, 0x0, [GRD_RING_ring_region, GRD_RING_log2_entries, GRD_RING_post_ctr]⟩,
  ⟨"GRD_RING_OFF", 0x70018, false, 1, 0x0, 1, 0x0, [GRD_RING_OFF_ring_off]⟩,
  ⟨"GRD_STATUS", 0x70020, false, 1, 0x0, 1, 0x0, [GRD_STATUS_open, GRD_STATUS_last_closed, GRD_STATUS_last_valid]⟩,
  ⟨"GRD_COUNT", 0x70028, false, 1, 0x0, 1, 0x0, [GRD_COUNT_closes, GRD_COUNT_segments]⟩,
  ⟨"GRD_FROZEN_HITS", 0x70030, false, 1, 0x0, 1, 0x0, [GRD_FROZEN_HITS_hits, GRD_FROZEN_HITS_last_layer]⟩,
  ⟨"GRD_ERR", 0x70038, false, 1, 0x0, 1, 0x0, [GRD_ERR_cause, GRD_ERR_layer, GRD_ERR_tile, GRD_ERR_valid]⟩,
  ⟨"GRD_NONFINITE", 0x70050, false, 1, 0x0, 1, 0x0, [GRD_NONFINITE_elements]⟩,
  ⟨"GRD_STEP", 0x70100, false, 64, 0x8, 1, 0x0, [GRD_STEP_step 0]⟩,
  ⟨"GRD_CAUSE", 0x70040, false, 1, 0x0, 1, 0x0, [GRD_CAUSE_cause]⟩,
  ⟨"GRD_CAUSE_MASK", 0x70048, false, 1, 0x0, 1, 0x0, [GRD_CAUSE_MASK_mask]⟩]

def rowsAUD : List RegRow := [
  ⟨"AUD_CFG", 0x80000, false, 8, 0x80, 1, 0x0, [AUD_CFG_en 0, AUD_CFG_lines 0, AUD_CFG_records 0, AUD_CFG_tile_entries 0, AUD_CFG_sign_ms 0]⟩,
  ⟨"AUD_LOG_BASE", 0x80008, false, 8, 0x80, 1, 0x0, [AUD_LOG_BASE_base 0]⟩,
  ⟨"AUD_LOG_CFG", 0x80010, false, 8, 0x80, 1, 0x0, [AUD_LOG_CFG_log2_bytes 0]⟩,
  ⟨"AUD_LOG_TAIL", 0x80018, false, 8, 0x80, 1, 0x0, [AUD_LOG_TAIL_tail 0]⟩,
  ⟨"AUD_LOG_HEAD", 0x80020, false, 8, 0x80, 1, 0x0, [AUD_LOG_HEAD_head 0]⟩,
  ⟨"AUD_NEXT_NUM", 0x80028, false, 8, 0x80, 1, 0x0, [AUD_NEXT_NUM_next_num 0]⟩,
  ⟨"AUD_HEAD_NUM", 0x80030, false, 8, 0x80, 1, 0x0, [AUD_HEAD_NUM_head_num 0]⟩,
  ⟨"AUD_RUN_SERIAL", 0x80038, false, 8, 0x80, 1, 0x0, [AUD_RUN_SERIAL_serial 0]⟩,
  ⟨"AUD_HEAD_HASH", 0x80040, false, 8, 0x80, 6, 0x8, [AUD_HEAD_HASH_hash 0 0]⟩,
  ⟨"AUD_STATS", 0x80070, false, 8, 0x80, 1, 0x0, [AUD_STATS_overruns 0, AUD_STATS_digest_overflow 0, AUD_STATS_unseated 0, AUD_STATS_signs 0]⟩,
  ⟨"AUD_SIGNED", 0x80078, false, 8, 0x80, 1, 0x0, [AUD_SIGNED_signed_num 0]⟩,
  ⟨"AUD_CAUSE", 0x80800, false, 1, 0x0, 1, 0x0, [AUD_CAUSE_cause]⟩,
  ⟨"AUD_CAUSE_MASK", 0x80808, false, 1, 0x0, 1, 0x0, [AUD_CAUSE_MASK_mask]⟩]

def rowsREL : List RegRow := [
  ⟨"REL_STATUS", 0x90000, false, 1, 0x0, 1, 0x0, [REL_STATUS_tiles_usable, REL_STATUS_dies_on, REL_STATUS_stacks, REL_STATUS_bench_stacks, REL_STATUS_failed, REL_STATUS_committed, REL_STATUS_copy_active]⟩,
  ⟨"REL_CFG", 0x90008, false, 1, 0x0, 1, 0x0, [REL_CFG_auto_en, REL_CFG_fault_limit, REL_CFG_age_limit, REL_CFG_ce_limit, REL_CFG_margin_limit]⟩,
  ⟨"REL_MAP_CTL", 0x90010, false, 1, 0x0, 1, 0x0, [REL_MAP_CTL_commit, REL_MAP_CTL_rejected, REL_MAP_CTL_reason]⟩,
  ⟨"REL_FAULT", 0x90018, false, 1, 0x0, 1, 0x0, [REL_FAULT_fault]⟩,
  ⟨"REL_FAULT_AT", 0x90020, false, 1, 0x0, 1, 0x0, [REL_FAULT_AT_tod]⟩,
  ⟨"REL_STACK_COPY", 0x90028, false, 1, 0x0, 1, 0x0, [REL_STACK_COPY_logical, REL_STACK_COPY_dest, REL_STACK_COPY_copied_mib, REL_STACK_COPY_poisoned]⟩,
  ⟨"REL_TILE_MAP", 0x90100, false, 96, 0x8, 1, 0x0, [REL_TILE_MAP_site 0, REL_TILE_MAP_die 0, REL_TILE_MAP_on 0, REL_TILE_MAP_condemned 0, REL_TILE_MAP_region_condemned 0]⟩,
  ⟨"REL_STACK_MAP", 0x90400, false, 20, 0x8, 1, 0x0, [REL_STACK_MAP_phys 0]⟩,
  ⟨"REL_STACK_WEAR", 0x90500, false, 22, 0x8, 1, 0x0, [REL_STACK_WEAR_ce_rate 0, REL_STACK_WEAR_faults 0, REL_STACK_WEAR_condemned 0, REL_STACK_WEAR_in_service 0]⟩,
  ⟨"REL_UNDO_BASE", 0x90600, false, 8, 0x10, 1, 0x0, [REL_UNDO_BASE_base 0]⟩,
  ⟨"REL_UNDO_CFG", 0x90608, false, 8, 0x10, 1, 0x0, [REL_UNDO_CFG_log2_bytes 0, REL_UNDO_CFG_en 0, REL_UNDO_CFG_valid 0, REL_UNDO_CFG_used 0]⟩,
  ⟨"REL_MARGIN", 0x90700, false, 60, 0x8, 1, 0x0, [REL_MARGIN_margin 0, REL_MARGIN_alert 0]⟩,
  ⟨"REL_CAUSE", 0x90030, false, 1, 0x0, 1, 0x0, [REL_CAUSE_cause]⟩,
  ⟨"REL_CAUSE_MASK", 0x90038, false, 1, 0x0, 1, 0x0, [REL_CAUSE_MASK_mask]⟩]

def rowsDBL : List RegRow := [
  ⟨"DBL_CFG", 0xA0000, false, 1, 0x0, 1, 0x0, [DBL_CFG_en, DBL_CFG_part_mask, DBL_CFG_singles_wait]⟩,
  ⟨"DBL_STATUS", 0xA0008, false, 1, 0x0, 1, 0x0, [DBL_STATUS_state, DBL_STATUS_id, DBL_STATUS_leader, DBL_STATUS_links_up]⟩,
  ⟨"DBL_CTL", 0xA0010, false, 1, 0x0, 1, 0x0, [DBL_CTL_decide]⟩,
  ⟨"DBL_STATS", 0xA0018, false, 1, 0x0, 1, 0x0, [DBL_STATS_agreed, DBL_STATS_retakes, DBL_STATS_splits, DBL_STATS_withheld]⟩,
  ⟨"DBL_SPLIT_INFO", 0xA0020, false, 1, 0x0, 1, 0x0, [DBL_SPLIT_INFO_run, DBL_SPLIT_INFO_job_id, DBL_SPLIT_INFO_first, DBL_SPLIT_INFO_valid]⟩,
  ⟨"DBL_CAUSE", 0xA0028, false, 1, 0x0, 1, 0x0, [DBL_CAUSE_cause]⟩,
  ⟨"DBL_CAUSE_MASK", 0xA0030, false, 1, 0x0, 1, 0x0, [DBL_CAUSE_MASK_mask]⟩]

def rowsPWR : List RegRow := [
  ⟨"PWR_STATUS", 0xB0000, false, 1, 0x0, 1, 0x0, [PWR_STATUS_est_w, PWR_STATUS_meas_w, PWR_STATUS_hottest_c, PWR_STATUS_hottest_at, PWR_STATUS_capping, PWR_STATUS_thermal, PWR_STATUS_overpower, PWR_STATUS_tripped]⟩,
  ⟨"PWR_CAP_CFG", 0xB0008, false, 1, 0x0, 1, 0x0, [PWR_CAP_CFG_cap_w, PWR_CAP_CFG_max_ratio, PWR_CAP_CFG_hints_en]⟩,
  ⟨"PWR_CAL", 0xB0010, false, 1, 0x0, 1, 0x0, [PWR_CAL_gain, PWR_CAL_clamped, PWR_CAL_tile_max_dw]⟩,
  ⟨"PWR_THERM_CFG", 0xB0018, false, 1, 0x0, 1, 0x0, [PWR_THERM_CFG_throttle_c, PWR_THERM_CFG_step_c, PWR_THERM_CFG_auto_step]⟩,
  ⟨"PWR_ENERGY_MOD", 0xB0020, false, 1, 0x0, 1, 0x0, [PWR_ENERGY_MOD_energy_uj]⟩,
  ⟨"PWR_TEMP", 0xB0040, false, 44, 0x8, 1, 0x0, [PWR_TEMP_temp_c 0, PWR_TEMP_max_c 0]⟩,
  ⟨"PWR_PART_CAP", 0xB0200, false, 8, 0x8, 1, 0x0, [PWR_PART_CAP_part_cap_w 0]⟩,
  ⟨"PWR_BUBBLES", 0xB0240, false, 8, 0x8, 1, 0x0, [PWR_BUBBLES_cap 0, PWR_BUBBLES_thermal 0, PWR_BUBBLES_droop 0]⟩,
  ⟨"PWR_ENERGY_PART", 0xB0300, false, 8, 0x8, 1, 0x0, [PWR_ENERGY_PART_energy_uj 0]⟩,
  ⟨"PWR_ENERGY_SQ", 0xB0400, false, 16, 0x8, 1, 0x0, [PWR_ENERGY_SQ_energy_uj 0]⟩,
  ⟨"PWR_CAUSE", 0xB0030, false, 1, 0x0, 1, 0x0, [PWR_CAUSE_cause]⟩,
  ⟨"PWR_CAUSE_MASK", 0xB0038, false, 1, 0x0, 1, 0x0, [PWR_CAUSE_MASK_mask]⟩]

def rowsSEC : List RegRow := [
  ⟨"SEC_STATUS", 0xC0000, false, 1, 0x0, 1, 0x0, [SEC_STATUS_boot, SEC_STATUS_session_ready, SEC_STATUS_fuse_svn, SEC_STATUS_fw_svn]⟩,
  ⟨"SEC_SVN_CTL", 0xC0008, false, 1, 0x0, 1, 0x0, [SEC_SVN_CTL_raise_to]⟩,
  ⟨"SEC_PART_CTL", 0xC0010, false, 1, 0x0, 1, 0x0, [SEC_PART_CTL_commit, SEC_PART_CTL_busy, SEC_PART_CTL_rejected, SEC_PART_CTL_reason, SEC_PART_CTL_enabled]⟩,
  ⟨"SEC_KEY_CTL", 0xC0018, false, 1, 0x0, 1, 0x0, [SEC_KEY_CTL_clear]⟩,
  ⟨"SEC_PART_TILES0", 0xC0100, false, 8, 0x40, 1, 0x0, [SEC_PART_TILES0_tiles 0]⟩,
  ⟨"SEC_PART_TILES1", 0xC0108, false, 8, 0x40, 1, 0x0, [SEC_PART_TILES1_tiles 0]⟩,
  ⟨"SEC_PART_LPD", 0xC0110, false, 8, 0x40, 1, 0x0, [SEC_PART_LPD_base_gib 0, SEC_PART_LPD_size_gib 0]⟩,
  ⟨"SEC_PART_SYN", 0xC0118, false, 8, 0x40, 1, 0x0, [SEC_PART_SYN_base 0, SEC_PART_SYN_count 0]⟩,
  ⟨"SEC_PART_CFG", 0xC0120, false, 8, 0x40, 1, 0x0, [SEC_PART_CFG_ports 0, SEC_PART_CFG_en 0, SEC_PART_CFG_hub_iso 0, SEC_PART_CFG_pwr_iso 0]⟩,
  ⟨"SEC_PART_KEYS", 0xC0128, false, 8, 0x40, 1, 0x0, [SEC_PART_KEYS_full 0, SEC_PART_KEYS_image_bound 0]⟩,
  ⟨"SEC_MSA_SEL", 0xC0800, false, 1, 0x0, 1, 0x0, [SEC_MSA_SEL_port, SEC_MSA_SEL_subport, SEC_MSA_SEL_dir, SEC_MSA_SEL_channel, SEC_MSA_SEL_an]⟩,
  ⟨"SEC_MSA_KEY", 0xC0808, false, 4, 0x8, 1, 0x0, [SEC_MSA_KEY_key 0]⟩,
  ⟨"SEC_MSA_SALT0", 0xC0828, false, 1, 0x0, 1, 0x0, [SEC_MSA_SALT0_salt]⟩,
  ⟨"SEC_MSA_SALT1", 0xC0830, false, 1, 0x0, 1, 0x0, [SEC_MSA_SALT1_salt, SEC_MSA_SALT1_ssci]⟩,
  ⟨"SEC_MSA_SCI", 0xC0838, false, 1, 0x0, 1, 0x0, [SEC_MSA_SCI_sci]⟩,
  ⟨"SEC_MSA_CTL", 0xC0840, false, 1, 0x0, 1, 0x0, [SEC_MSA_CTL_install, SEC_MSA_CTL_delete, SEC_MSA_CTL_in_use, SEC_MSA_CTL_replay_window]⟩,
  ⟨"SEC_MSA_PN", 0xC0848, false, 1, 0x0, 1, 0x0, [SEC_MSA_PN_pn]⟩,
  ⟨"SEC_PAIR_KEY", 0xC0900, false, 4, 0x8, 1, 0x0, [SEC_PAIR_KEY_key 0]⟩,
  ⟨"SEC_PAIR_CTL", 0xC0920, false, 1, 0x0, 1, 0x0, [SEC_PAIR_CTL_set, SEC_PAIR_CTL_key_set]⟩,
  ⟨"SEC_SB_AUTH", 0xC0A00, false, 4, 0x30, 6, 0x8, [SEC_SB_AUTH_hash 0 0]⟩,
  ⟨"SEC_CAUSE", 0xC0F00, false, 1, 0x0, 1, 0x0, [SEC_CAUSE_cause]⟩,
  ⟨"SEC_CAUSE_MASK", 0xC0F08, false, 1, 0x0, 1, 0x0, [SEC_CAUSE_MASK_mask]⟩]

def regMap : List RegRow :=
  rowsHST ++ rowsTIM ++ rowsTILE ++ rowsSNL ++ rowsNET ++ rowsLPD ++ rowsSYN ++ rowsCH ++ rowsHQ ++ rowsCTL ++ rowsGRD ++ rowsAUD ++ rowsREL ++ rowsDBL ++ rowsPWR ++ rowsSEC

end Sys2Proof.Machine
end

