-- ==== Sys2Proof/Machine/Units.lean ====
section
/-! DEFINITION. The hidden state of the units beside the tiles, as plain data: host queues, ingest, seating plan unit,
audit, reliability, doubles, time unit. -/

namespace Sys2Proof.Machine

/-! ### Host queues (10) -/

/-- A descriptor accepted and not yet completed (R252): its submission number, SQ and CQ, the partition its SQ served, the
TIM_TOD of acceptance, its bytes, whether it has started, whether it counts as completed for R252. -/
structure Desc where
  subm : Nat
  sq : Nat
  cq : Nat
  part : Nat
  tod : Nat
  bytes : Bytes
  started : Bool
  settled : Bool
  /-- The status and detail a check at its fetch gave it; it completes with them in its turn. -/
  bad : Option (Nat × Nat)
deriving DecidableEq, Repr

/-- What a completion queue holds beside its registers: the phase bit of the present pass, entries waiting in held space with
their irq flags, oldest first (R253). -/
structure Cq where
  phase : Bool
  held : List (Bytes × Bool)
deriving DecidableEq, Repr

/-! ### Ingest, seats and replies (11) -/

/-- A request that ingest accepted (R289 to R292). -/
structure Request where
  assoc : Nat
  port : Nat
  sub : Nat
  ip : Nat
  udp : Nat
  seqn : Nat
  tag : Nat
  ts : Nat
  locker : Nat
  job : Nat
  part : Nat
  /-- The binding it belongs to: the submission number of its BIND_PERIOD. -/
  bind : Nat
  /-- Its deadline bell (R270). -/
  deadline : Nat
  deferred : Bool
  record : Bytes
  body : Bytes
deriving DecidableEq, Repr

/-- A seat of a period's copy: its request, the status it was answered with, whether a fill carried it out, whether the
request has gone back to the candidates (R293), and whether its results differed between doubles partners. -/
structure Seat where
  req : Request
  status : Option Nat
  payload : Bytes
  carried : Bool
  gone : Bool
  differs : Bool
  /-- A valid entry has been found after its LATE reply, or a bad one has been counted (R270, R297). -/
  lateScored : Bool
  badSeen : Bool
deriving DecidableEq, Repr

/-- A period's seat copy (R293, R294). -/
structure Copy where
  bind : Nat
  part : Nat
  period : Nat
  close : Nat
  seats : List Seat
  skipped : Bool
  recorded : Bool
deriving DecidableEq, Repr

/-- A carry record (R295). -/
structure Carry where
  plan : Nat
  slot : Nat
  bin : Nat
  job : Nat
  bind : Nat
  seat : Nat
  period : Nat
  /-- The period of the fill that carried it out, and its locker. -/
  outPeriod : Nat
  locker : Nat
  req : Option Request
  /-- The decoded record of its seat, that of a replay run included (R340, R347, R348). -/
  record : Bytes
  /-- The period whose fill carried it in. -/
  into : Option Nat
  /-- The entry has been discarded (R139); its request waits for its deadline bell. -/
  dead : Bool
  status : Option Nat
  payload : Bytes
  differs : Bool
  lateScored : Bool
  badSeen : Bool
deriving DecidableEq, Repr

/-- A REP held for resending (R287). -/
structure HeldRep where
  assoc : Nat
  epoch : Nat
  seqn : Nat
  port : Nat
  sub : Nat
  ip : Nat
  udp : Nat
  msg : Bytes
  sentAt : Nat
deriving DecidableEq, Repr

/-- A COLL sent and not yet acknowledged (R286). -/
structure CollSent where
  seqn : Nat
  msg : Bytes
  layer : Nat
  seg : Nat
  resends : Nat
  sentAt : Nat
deriving DecidableEq, Repr

/-- What an association keeps beside its registers (R284 to R287). -/
structure AssocSt where
  lastWrite : Option Nat
  top : Option Nat
  seen : List Nat
  txSeq : Nat
  unacked : List CollSent
  waiting : List CollSent
  /-- COLL sequences received: all below `rxNext`, and those of `rxAhead`. -/
  rxNext : Nat
  rxAhead : List Nat
  /-- COLL messages received and not acknowledged, and the instant of the first. -/
  rxPend : Nat
  rxSince : Nat
  /-- Partial ends and final ends received, by sequence, that wait for an earlier COLL of the association (R316, R319). -/
  heldEnds : List (Nat × Bytes)
deriving DecidableEq, Repr

/-! ### Seating plan unit (05) -/

/-- A bound routing plan (R133 to R140). -/
structure PlanSt where
  job : Nat
  bins : Nat
  capacity : Nat
  carryCap : Nat
  senders : List Nat
  maxRoutes : Nat
  fillBell : Nat
  regionAddr : Nat
  doneCtr : Nat
  /-- Bound by a RUN_GRAPH run: fills begin by end markers only (R347). -/
  replay : Bool
  fills : Nat
  period : Nat
  /-- Entries held: seat, bin, sender. -/
  held : List (Nat × Nat × Nat)
  ended : List Nat
  begun : Bool
  rejected : Nat
  rejSeats : List Nat
  carryLost : Bool
deriving DecidableEq, Repr

/-- A fill that waits or runs (R136, R141): its plan, whether it is forced, the period, and what the SPU held of the
plan when the fill began. -/
structure Fill where
  plan : Nat
  forced : Bool
  period : Nat
  held : List (Nat × Nat × Nat)
  rejected : Nat
  rejSeats : List Nat
deriving DecidableEq, Repr

/-! ### Audit (13) -/

/-- A line of a run's record: seat (false) or carry slot (true), plan and index, its 128 bytes (R337). -/
structure Line where
  isCarry : Bool
  plan : Nat
  index : Nat
  bytes : Bytes
deriving DecidableEq, Repr

/-- What audit keeps for a partition beside its registers (R341 to R345). -/
structure AudSt where
  heldRecs : List Bytes
  /-- Numbers discarded and not yet named by a GAP. -/
  lost : Option (Nat × Nat)
  /-- The SIGN whose SIG is pending: its number and its bytes. -/
  signing : Option (Nat × Bytes)
  lastSign : Option Nat
  /-- The time-clock instant the sign interval counts from. -/
  signFrom : Nat
  /-- A SIGN has fallen due while a SIG was pending. -/
  signLate : Bool
  /-- SIGN_NOW descriptors, with the number of their SIGN once formed. -/
  signNow : List (Nat × Option Nat)
deriving DecidableEq, Repr

/-! ### Reliability (14) -/

/-- A unit waiting for replacement at its tile's job boundary, or being replaced: tile, kind (3 DPU, 4 aide, 5 row group,
6 retired bench DPU), index, whether it has begun, the submission number of the SUBSTITUTE behind it. -/
structure UnitSub where
  tile : Nat
  kind : Nat
  idx : Nat
  begun : Bool
  subm : Option Nat
deriving DecidableEq, Repr

/-- A site substitution (R359): tile, reload image digest given, begun, the submission number. -/
structure SiteSub where
  tile : Nat
  reload : Bool
  begun : Bool
  subm : Nat
deriving DecidableEq, Repr

/-- A stack copy (R360). -/
structure StackCopy where
  logical : Nat
  dest : Nat
  subm : Nat
  /-- When it began. -/
  since : Nat
deriving DecidableEq, Repr

/-! ### Doubles (14) -/

/-- A result item of one module (R369): the run, kind, index and item. -/
structure DblItem where
  run : RunName
  kind : Nat
  idx : Nat
  item : Bytes
  /-- The payload behind an own item; an own result is held until it is released. -/
  payload : Bytes
deriving DecidableEq, Repr

/-- What doubles keeps beside its registers (R366 to R372). -/
structure DblSt where
  /-- The last HELLO of the partner since the link came up. -/
  partner : Option Hello
  /-- Runs of each job since pairing (R367). -/
  count : Store Nat
  mine : List DblItem
  theirs : List DblItem
  /-- Digests formed here, and received, not compared yet. -/
  myDig : List (RunName × Nat × RunDigests)
  theirDig : List (RunName × Nat × RunDigests)
  /-- Runs that cannot agree: set-up differed, or a seat table was lost. -/
  broken : List RunName
  /-- Disagreements of each run. -/
  disagreed : List RunName
  /-- SENT items received before their line. -/
  sents : List (RunName × Nat × Nat × Nat × Bytes)
  /-- SEATING received and waiting for REQ_FILL bodies: partition, period, seats. -/
  seatWait : Option (Nat × Nat × List SeatRef)
  fills : List (Nat × Bytes)
  /-- The instant both pair links went down. -/
  downAt : Option Nat
  /-- Runs released without agreement (R370). -/
  solo : List RunName
  /-- The instant of the last HELLO sent, or of the enable (R373). -/
  helloAt : Nat
deriving DecidableEq, Repr

def DblSt.init : DblSt := ⟨none, [], [], [], [], [], [], [], [], none, [], none, [], 0⟩

/-! ### Time unit (02) -/

/-- The hidden state of the time unit (R28 to R39). Rates are in units of 2 ^ -32; corrections in units of 2 ^ -32 ns. -/
structure TimeSt where
  servo : Int
  /-- What is left of the slew in progress (R35). -/
  slew : Int
  /-- A TIM_TOD_SET value waiting for an edge (R35). -/
  setPend : Option Nat
  /-- A correction held (R35). -/
  heldCorr : Option Int
  /-- The 1PPS window is centred on the edges of a jump whose correction is not worked off (R33). -/
  jump : Bool
  /-- 1PPS: 0 not in use, 2 acquiring, 3 locked, 4 holdover. -/
  pps : Nat
  ppsGood : Nat
  /-- The time-clock instant of the last accepted edge, or of the naming of 1PPS as a source (R32). -/
  lastEdge : Option Nat
  /-- TIM_TOD of the next predicted edge while acquiring. -/
  predicted : Option Nat
  /-- Time-clock instants of consecutive edges outside the window, newest first (R33). -/
  outside : List Nat
  lastPtp : Option Nat
  /-- When holdover began. -/
  holdFrom : Option Nat
  /-- TIME_1PPS_OUT is asserted, and since when (R38). -/
  pulse : Bool
  pulseFrom : Nat
  /-- Windows: TIM_TOD at the start of the current window. -/
  winTod : Nat
  /-- The last whole second of TIM_TOD with an accepted edge or counted as missing. -/
  lastMissing : Nat
  /-- A roll call runs, and why: 0 none, 1 before a kickoff, 2 step of a frequency step; the run it precedes. -/
  rollCall : Nat
  rollRun : Option Nat
  /-- The die PLLs relock, and the step they relock to (R52). -/
  relock : Bool
  relockTo : Nat
  /-- Roll call is due before the next kickoff (R46). -/
  rollDue : Bool
  /-- A roll call has been made since the last power-up or module reset (R41). -/
  rolled : Bool
deriving DecidableEq, Repr

def TimeSt.init : TimeSt where
  servo := 0
  slew := 0
  setPend := none
  heldCorr := none
  jump := false
  pps := 0
  ppsGood := 0
  lastEdge := none
  predicted := none
  outside := []
  lastPtp := none
  holdFrom := none
  pulse := false
  pulseFrom := 0
  winTod := 0
  lastMissing := 0
  rollCall := 0
  rollRun := none
  relock := false
  relockTo := 0
  rollDue := true
  rolled := false

/-! ### Power manager (15) -/

/-- What the power manager keeps beside its registers (R378 to R390). Powers are in 0.01 W, ratios in 1/256. -/
structure PwrSt where
  /-- The calibrated terms of the last interval: base, all traffic, each tile, each partition's share but for the base. -/
  base : Nat
  traffic : Nat
  terms : Store Nat
  shares : Store Nat
  /-- Cap and thermal ratios by domain (R380, R384). -/
  capF : Store Nat
  thF : Store Nat
  /-- Bubble accumulators by domain (R381). -/
  acc : Store Nat
  /-- Domains whose ratio has been above 0 in this interval (R381). -/
  live : List Nat
  /-- Intervals a domain's ratio has stayed at max_ratio (R382). -/
  sat : Store Nat
  /-- Samples in a row below 2,600 W (R382). -/
  cool : Nat
  /-- Calibrations in a row outside the clamp (R379). -/
  calOut : Nat
  /-- Since when a compute die has stayed at or above step_c (R385). -/
  hot : Store Nat
  /-- Sensors at their trip point at their last reading (R386). -/
  trip : List Nat
  /-- Hundredths of a µJ not yet counted: partitions 0 to 7, SQ i at 8 + i (R388, R389). -/
  frac : Store Nat
  /-- The present millisecond: intervals and their estimates summed, samples and their watts summed (R390). -/
  msN : Nat
  msEst : Nat
  msSamples : Nat
  msMeas : Nat
  /-- The coarse readings: average estimate and input of the last whole millisecond in W, hottest die, energy counters. -/
  cEst : Nat
  cMeas : Nat
  cTemp : Nat
  cMod : Nat
  cParts : Store Nat
  cSqs : Store Nat
deriving DecidableEq, Repr

def PwrSt.init : PwrSt := ⟨0, 0, [], [], [], [], [], [], [], 0, 0, [], [], [], 0, 0, 0, 0, 0, 0, 0, 0, [], []⟩

/-! ### Security (16) -/

/-- A key slot that holds a key: the key, the image digest it is bound to, the stream_ids unsealed since (R404, R405). -/
structure KeySlot where
  key : Bytes
  bound : Option Bytes
  used : List Nat
deriving DecidableEq, Repr

/-- A MACsec association installed (R414). -/
structure Msa where
  key : Bytes
  salt : Nat
  ssci : Nat
  sci : Nat
  window : Nat
  pn : Nat
deriving DecidableEq, Repr

/-- An UNSEAL that has passed its checks and streams or waits to: its submission number, the header of its stream, the slot
(8 * partition + slot) and its key. -/
structure Unsealing where
  subm : Nat
  header : Bytes
  slot : Nat
  key : Bytes
deriving DecidableEq, Repr

/-- An SPDM connection: how far its negotiation has come (0 to 3), a KEY_EXCHANGE open, authorised, the parts of a large
request, a large response waiting (R398, R413). -/
structure SpdmSt where
  phase : Nat
  exchange : Bool
  authorised : Bool
  chunks : Bytes
  large : Option (Nat × Bytes)
deriving DecidableEq, Repr

/-- What security keeps beside its registers (R394 to R415). -/
structure SecSt where
  /-- Filled key slots, slot `k` of partition `q` at 8 * q + k. -/
  slots : Store KeySlot
  /-- Measurement block 0x05, once the session keys are there. -/
  sessionId : Bytes
  /-- Installed associations by the low 11 bits of SEC_MSA_SEL. -/
  msas : Store Msa
  /-- The selectors of the installs made, the last first (R414). -/
  msaOrder : List Nat
  pairKey : Option Bytes
  /-- UNSEALs in the order of their start; the first streams. -/
  unseals : List Unsealing
  spdm : Store SpdmSt
  /-- SEC_PART registers as last committed, by offset; their reset values where unlisted. -/
  committed : Store Nat
deriving DecidableEq, Repr

def SecSt.init : SecSt := ⟨[], [], [], [], none, [], [], []⟩

/-! ### Neighbours (11) -/

/-- An entry of the neighbour table: the sub-port as 4 * port + sub, the IP address in IPv6 form, the MAC address (R279). -/
structure Neighbour where
  sub : Nat
  ip : Nat
  mac : Nat
deriving DecidableEq, Repr

/-! ### Pair links (11) -/

/-- A pair link (R303). Frames are counted from the link's last rise; the module's sequence numbers are the counts modulo
2 ^ 24. -/
structure PairSt where
  /-- The next sequence to receive. -/
  rxNext : Nat
  /-- The instant of the last valid frame. -/
  heard : Nat
  /-- The frames that the module's outputs held as the link came up, and those since that the partner has acknowledged. -/
  txBase : Nat
  txAck : Nat
  /-- Payloads taken from this link whose second copy the other link has still to bring. -/
  early : List Bytes
deriving DecidableEq, Repr

/-! ### Reset and bring-up (18, 19) -/

/-- The power and boot sequence (R433 to R443, R456 to R458). -/
structure BootSt where
  /-- PWR_EN as it is acted on, Vin inside its window, and how far the rails are: 0 down, 1 ramping, 2 good. -/
  pwrEn : Bool
  vinOk : Bool
  rails : Nat
  /-- The instant of the last release of PWR_EN, and whether an assertion is held (R440, R456). -/
  enOff : Option Nat
  enHeld : Bool
  /-- The instant PWR_GOOD rose (R439). -/
  goodAt : Nat
  /-- PERST_N is asserted. -/
  perst : Bool
  /-- A release of PERST_N waits for PWR_GOOD + 100 ms (R439, R457). -/
  deferred : Bool
  /-- The dies are held in reset, and when the pulse of 100 µs began (R435). -/
  held : Bool
  pulseFrom : Nat
  /-- The restart under way follows a power-up, and memory is not prepared yet (R441). -/
  cold : Bool
  /-- Seal-tagged pages to zero-fill: first address and length (R441). -/
  tags : List (Nat × Nat)
  /-- Bus Master Enable, and a firmware load that waits for it (R442). -/
  bme : Bool
  fwWait : Bool
  /-- The fused minimum svn to burn at the next power-up (R397). -/
  svnNext : Option Nat
  /-- The SHA-384 of the running firmware image (R399). -/
  fwDigest : Bytes
  /-- The sideband bus is in I3C mode (R461). -/
  i3c : Bool
deriving DecidableEq, Repr

/-- Right after a power-up: powered, PERST_N released, the boot ROM waiting for firmware. DEDUCED (log 35). -/
def BootSt.init : BootSt :=
  ⟨true, true, 2, none, false, 0, false, false, false, 0, true, [], false, false, none, [], false⟩

/-! ### Grading engines (12) -/

/-- What a layer of the armed job holds while its step is gathered: the descriptor read at its open, the step scalars, and
the reduction of its segments (R300, R301, R310, R316 to R320). Values of a segment are FP32 codes, or integers L for a long
reduction. -/
structure GrdLayer where
  layer : Nat
  /-- A post of this module has opened it. -/
  isOpen : Bool
  desc : Bytes
  /-- The run that opened it is an exam run. -/
  exam : Bool
  t : Nat
  p1 : Nat
  p2 : Nat
  e : Nat
  /-- Local ranks whose end marker has arrived, and segments posted, with their rank. -/
  ended : List Nat
  posted : List (Nat × Nat)
  /-- The local partial of each segment. -/
  acc : Store (List Int)
  /-- The contributions of a rank-order segment: segment, rank, values. -/
  leaves : List (Nat × Nat × List Nat)
  /-- Segments whose partial is complete. -/
  sent : List Nat
  partEnd : Bool
  /-- Partials that the owner holds: segment, module, values, in order of arrival. -/
  parts : List (Nat × Nat × List Int)
  /-- Modules whose partial end has arrived. -/
  modEnds : List Nat
  /-- Segments owned here whose final value has been formed. -/
  formed : List Nat
  /-- Final values delivered and not applied, and segments applied. -/
  finals : Store (List Nat)
  applied : List Nat
  /-- Segments whose final value has arrived. -/
  arrived : List Nat
  /-- Owners whose final end has arrived, and whether this module has sent its own. -/
  finEnds : List Nat
  finEndSent : Bool
  /-- S_w and S_u in units of 2 ^ -298, and whether a NaN or an infinity entered them (R322). -/
  sw : Nat
  su : Nat
  normBad : Bool
  phase2 : Bool
deriving DecidableEq, Repr

/-- The hidden state of the grading engines: layers being reduced, and the posts read of each rank in the run (R314). -/
structure GrdSt where
  layers : List GrdLayer
  readIdx : Store Nat
deriving DecidableEq, Repr

/-! ### PCIe functions (17) -/

/-- What a function keeps for MSI-X, and its power state (R421, R432). -/
structure HostFn where
  enabled : Bool
  fnMask : Bool
  vecMask : Bool
  pba : Bool
  /-- The arm bit of a virtual function; the physical function's is CTL_IRQ_CTL.armed. -/
  armed : Bool
  /-- The time-clock instant of the last message. -/
  lastMsg : Option Nat
  d3 : Bool
deriving DecidableEq, Repr

/-- A function after reset. -/
def HostFn.init : HostFn := ⟨false, false, false, false, true, none, false⟩

end Sys2Proof.Machine
end

