-- ==== Sys2Proof/Machine/State.lean ====
section
/-! DEFINITION. The state of the module as plain data, and the state right after reset. Registers the spec's tables
give stand in `regs`, one cell per field; everything else the spec gives the machine has a field of its own. -/

namespace Sys2Proof.Machine

/-- The faults of the block. The spec gives every command of its table an effect, so no meaning raises one: the type
has no constructor. -/
inductive Fault where
deriving DecidableEq, Repr

/-- The refusals of the block. -/
inductive Refusal where
  /-- Raised by the dispatcher for a command that has no meaning in this model yet; safe: the machine stops where the
  hardware goes on. -/
  | notModelled (mnemonic : String)
deriving DecidableEq, Repr

/-! ### Tile (03 to 09) -/

/-- An active loop of a sequencer: its counter, the first and the last pc of its body (R64). -/
structure LoopRec where
  c : Nat
  start : Nat
  stop : Nat
deriving DecidableEq, Repr

/-- A comparator: the loop counter it reads, its condition code and its immediate (R66). -/
structure Cmp where
  c : Nat
  cond : Nat
  imm : Nat
deriving DecidableEq, Repr

/-- What the guard tracks as having a result in flight (R235): storage of an open accumulator tile, a weight buffer, a
constant bank, an aide register, an aide predicate, the bytes of a scratchpad or of DRAM
from a module address on. DEDUCED (log 13). -/
inductive Res where
  | acc (i : Nat)
  | wbuf (i : Nat)
  | bank (i : Nat)
  | reg (i : Nat)
  | pred (i : Nat)
  | bytes (a n : Nat)
deriving DecidableEq, Repr

/-- A result in flight: what, the slot of its operation, the tick of its issue, the tick R80 gives for it, the tick from
which it is present, whether it also waits for GUARDED_LINE_PRESENT (R233), and the slip kind of a hold on it from the
tick R80 gives on (R236). -/
structure Mark where
  res : Res
  slot : Nat
  issued : Nat
  due : Nat
  present : Nat
  waits : Bool
  kind : Nat
deriving DecidableEq, Repr

/-- A port or slot that an operation occupies (R60, R114, R156, R166). A scratchpad is numbered 0 ME, 1 VE, 2 + a aide a. -/
inductive Port where
  | slot (i : Nat)
  | weight
  | tray
  | veWrite
  | xferRead (unit : Nat)
  | xferWrite (unit : Nat)
  | shortWrite (unit : Nat)
deriving DecidableEq, Repr

/-- One line slot of a port taken on a tick: the port, the tick, and for a read the line served, since reads of one line through
one port on one tick share a slot (R167); for a short-pass write port the source tile (R198). -/
structure PortUse where
  port : Port
  tick : Nat
  line : Nat
deriving DecidableEq, Repr

/-- What a scheduled access does on its tick (R168): a weight line read into a buffer, a scratchpad line stored to
DRAM, a line or part of one copied to be written on a later tick, bytes written under bit masks, a source line of a
CSEND read, the increment of a SINC sent, an aide load read. -/
inductive Act where
  | weightLine (buf idx src : Nat)
  | storeLine (src dst : Nat)
  | moveLine (src n dst dstTick : Nat)
  | write (addr : Nat) (data : List (Byte × Byte))
  | sendLine (ep inc pc src : Nat)
  | sendIncr (ctr amt pc : Nat)
  | aideRead (aide rd addr n : Nat) (sext : Bool)
deriving DecidableEq, Repr

/-- A scheduled access: its tick, whether it writes (reads of a tick come before its writes, R59), its slot, the access, the
tick of issue of its operation. -/
structure Micro where
  tick : Nat
  wr : Bool
  slot : Nat
  act : Act
  issued : Nat
deriving DecidableEq, Repr

/-- An entry of the tray, reserved or entered: long or open, the 256 outputs (FP32 codes or L), the anchor tag, and the
tick on which its first line is written (R108, R114, R143). -/
structure TrayEntry where
  long : Bool
  data : List Int
  anchor : Int
  first : Nat
  /-- The tick of issue of the operation behind it. -/
  issued : Nat
deriving DecidableEq, Repr

/-- What a held sequencer waits for (R67, R68, R72, R221). A FENCE waits for what was issued before its tick; it keeps the
numbers of messages and of locker and routing operations that its own bundle issued, which it does not wait for. -/
inductive Wait where
  | bell (mark issued : Nat)
  | tick (target : Nat)
  | fence (slots : Nat) (lp : Bool) (issued newMsg newAid : Nat)
  | swait (issued : Nat) (granted : Bool)
deriving DecidableEq, Repr

/-- A hold in progress: the pc, its first held tick, its length so far, its kind and slot (R236). -/
structure Hold where
  pc : Nat
  tick : Nat
  len : Nat
  kind : Nat
  slot : Nat
deriving DecidableEq, Repr

/-- A line held by an inbound queue: its bytes and the tick from which a CRECV finds it (R208). -/
structure QLine where
  data : Bytes
  present : Nat
deriving DecidableEq, Repr

/-- A stage of a chain (R150). -/
structure Stage where
  op : Nat
  bsrc : Nat
  bank : Nat
  msel : Nat
  mneg : Bool
  mdst : Nat
  stream : Nat
  imm : Nat
deriving DecidableEq, Repr

/-- A chain descriptor (R147). -/
structure Chain where
  inFmt : Nat
  outFmt : Nat
  layout : Nat
  pop : Bool
  aux : Bool
  outSr : Bool
  vecSparse : Bool
  wmask : Nat
  wneg : Bool
  outStream : Nat
  auxFmt : Nat
  auxDesc : Nat
  auxOff : Nat
  stages : List Stage
deriving DecidableEq, Repr

/-- One outstanding long-pass transfer (R190 to R196): its engine, template and pc, the template's fields, the addresses
evaluated at issue, the counter, the pieces reported so far, and what its undefined bytes are drawn with. -/
structure Transfer where
  eng : Nat
  tmpl : Nat
  pc : Nat
  tdata : Nat
  src : Nat
  dst : Nat
  idx : Nat
  ctr : Nat
  issued : Nat
  /-- Module memory at the issue: a source byte that no longer holds what it held is undefined (R195). -/
  snap : List Host.Cell
  donePieces : Nat
  /-- The first of the free values its undefined source and index bytes are, by piece and byte (R24, R195): the model's own. -/
  free : Nat
  /-- Spans written since the issue by what is neither a program nor an engine: of those a granule reads whole, old or new
  (R24). -/
  foreign : List (Nat × Nat)
deriving DecidableEq, Repr

/-- A segment or layer digest kept by a tile (R334). -/
structure LayerDig where
  layer : Nat
  closes : Nat
  digest : Bytes
deriving DecidableEq, Repr

/-- The hidden state of a tile: what its register block does not show. -/
structure Tile where
  /-- Loop limits by counter, 1 where unlisted (R64). -/
  lims : Store Nat
  /-- Loop counters, 0 where unlisted (R64). -/
  cnts : Store Nat
  /-- Active loops, most recently armed first (R64). -/
  loops : List LoopRec
  /-- Comparators by number; unlisted: counter 0 equal to 0 (R66). -/
  cmps : Store Cmp
  /-- What the sequencer is held by (state 0x2). -/
  waits : List Wait
  /-- The hold in progress (R236). -/
  hold : Option Hold
  /-- The longest record being kept is the hold in progress (R237). -/
  longIsCur : Bool
  /-- The first record being kept is the hold in progress (R237). -/
  firstIsCur : Bool
  marks : List Mark
  uses : List PortUse
  micros : List Micro
  /-- The free-value base of the accumulator file at kickoff, where every value is undefined (R95). -/
  accKick : Nat
  /-- The free-value base of each open accumulator tile invalidated since (R95). -/
  accFree : Store Nat
  /-- Open accumulator tiles, 256 FP32 codes each. -/
  acc : Store (List Nat)
  /-- The free-value base of each exam tile with no value listed. -/
  examFree : Store Nat
  /-- Exam accumulator tiles, 256 integers L each (R106). -/
  exam : Store (List Int)
  /-- Anchor exponents, 0 where unlisted (R95, R106). -/
  anchors : Store Int
  /-- The lines of the two weight buffers, by 128 * buffer + line (R96). -/
  wbuf : Store Bytes
  /-- Constant banks, zero where unlisted (R156). -/
  banks : Store (List Nat)
  tray : List TrayEntry
  /-- Tray lines removed and not yet free: the tick from which they are free, and how many (R145). -/
  freeing : List (Nat × Nat)
  /-- Positions of the VE random streams, 0 where unlisted (R153). -/
  streams : Store Nat
  /-- Aide registers by 32 * aide + register, 0 where unlisted (R157). -/
  aregs : Store Nat
  /-- Aide predicates p1 to p7 that are true, by 8 * aide + predicate (R157). -/
  apreds : Store Bool
  /-- Inbound queues' lines, oldest first (R210). -/
  queues : Store (List QLine)
  /-- The incarnation each endpoint knows (R214). -/
  epInc : Store Nat
  /-- What the tile is stalled on: 1 an endpoint, 2 a queue, 3 a counter, its number, and the pc of the operation (R224,
  R226). -/
  stall : Option (Nat × Nat × Nat)
  /-- The time-clock instant of each queue's last QOPEN or kickoff (R213). -/
  qOpened : Store Nat
  /-- Operations of this tile whose result at its destination is not settled yet: lines, tokens and increments (R215). -/
  unsettled : Nat
  /-- Locker operations and routing entries of this tile not complete yet (R80, R161). -/
  aidOut : Nat
  /-- Those of `unsettled` and `aidOut` issued on the present tick (R72). -/
  newMsg : Nat
  newAid : Nat
  /-- Locker operations issued since kickoff (R340). -/
  lkIssued : Nat
  xfers : List Transfer
  descs : Store Nat
  tmpls : List Nat
  chains : List Chain
  /-- Bundles of the INSTR section (R73). -/
  bundles : Nat
  /-- The next pc lies past the top of instruction memory: the 14 bits of TIL_SEQ_STATUS do not hold it (R73). -/
  pcOver : Bool
  /-- The entry pc of the task last started (R264). -/
  entryPc : Nat
  /-- The run and task the tile serves. -/
  task : Option (Nat × Nat)
  /-- The window of the tile's last kickoff and the bubbles its domain had taken then (R43, R69). -/
  kickWin : Nat
  kickBubbles : Nat
  /-- The tag chain of the open segment: what a DIGEST folds (R333, R334). -/
  segTags : List Bytes
  layers : List LayerDig
  digestOver : Bool
  /-- Halted: the tick from which completion may be reported (R73). -/
  haltTick : Option Nat
  /-- Load phases announced by HINT: first window, windows, level (R70). -/
  hints : List (Nat × Nat × Nat)
  /-- The time-clock instant of the last refresh of each row group of the near region, 0 where unlisted (R176). -/
  refreshed : Store Nat
  /-- The tick from which the near region is no longer busy with a REFR (R71). -/
  refrBusy : Nat
  /-- Program error of the tile in the window it was raised (R241): window. -/
  errWin : Nat
  /-- Held ticks and slip records since the kickoff (R261). -/
  heldAll : Nat
  recsAll : Nat
  /-- Stretches, equalising cycles and bubble requests of the window now open (R48). -/
  stretch : Nat
  bubbleReq : Bool
deriving DecidableEq, Repr

/-- A tile as a reset leaves it. -/
def Tile.init : Tile where
  lims := []
  cnts := []
  loops := []
  cmps := []
  waits := []
  hold := none
  longIsCur := false
  firstIsCur := false
  marks := []
  uses := []
  micros := []
  accKick := 0
  accFree := []
  acc := []
  examFree := []
  exam := []
  anchors := []
  wbuf := []
  banks := []
  tray := []
  freeing := []
  streams := []
  aregs := []
  apreds := []
  queues := []
  epInc := []
  stall := none
  qOpened := []
  unsettled := 0
  aidOut := 0
  newMsg := 0
  newAid := 0
  lkIssued := 0
  xfers := []
  descs := []
  tmpls := []
  chains := []
  bundles := 0
  pcOver := false
  entryPc := 0
  task := none
  kickWin := 0
  kickBubbles := 0
  segTags := []
  layers := []
  digestOver := false
  haltTick := none
  hints := []
  refreshed := []
  refrBusy := 0
  errWin := 0
  heldAll := 0
  recsAll := 0
  stretch := 0
  bubbleReq := false

/-! ### Fabric and counters (08) -/

/-- What crosses the fabric or a crossing link: a line, a credit, a queue token, a counter increment, a routing entry
(R208, R209, R214, R218, R134). -/
inductive Cargo where
  | line (ep q inc pc : Nat) (data : Bytes) (present : Option Nat)
  | credit (ep pc : Nat) (present : Option Nat)
  | token (ep : Nat) (opens : Bool) (inc : Nat) (present : Option Nat)
  | incr (ctr amt slot pc : Nat) (settles : Bool)
  | route (word : Nat)
deriving DecidableEq, Repr

/-- One item in flight: its cargo, the tile it goes out from (0xFFF for a unit), the tile it goes to, the job and run
epoch it carries, and the time-clock instant of its issue (R214, R218, R223). DESIGN CHOICE (log 8). -/
structure Item where
  cargo : Cargo
  src : Nat
  dst : Nat
  job : Nat
  epoch : Nat
  issued : Nat
deriving DecidableEq, Repr

/-- The locker operations of the aides (R161, R186). -/
inductive LkKind where
  | fetch | store | append
deriving DecidableEq, Repr

/-- A locker operation at its home hub, oldest first (R161, R187): what, for which tile, aide and pc, on which locker of
which partition, with which address and counter, and the job and run epoch it carries. -/
structure LockerOp where
  kind : LkKind
  tile : Nat
  aide : Nat
  pc : Nat
  part : Nat
  locker : Nat
  addr : Nat
  ctr : Nat
  job : Nat
  epoch : Nat
  /-- Its place in the tile's issue order. -/
  ord : Nat
deriving DecidableEq, Repr

/-- A SWAIT waiting at the control die, oldest first (R221). -/
structure Waiter where
  since : Nat
  tile : Nat
  ctr : Nat
  consume : Bool
deriving DecidableEq, Repr

/-- A static slot of a bonded-DRAM region claimed: region (logical tile), slot tick on the module's tick grid, and the
access it serves: tile, its issue tick there, the line it delivers (R173, R174). -/
structure Claim where
  region : Nat
  tick : Nat
  tile : Nat
  issued : Nat
  line : Nat
  /-- Whether it writes the line, and the ticks by which it has been delayed. -/
  store : Bool
  moved : Nat
deriving DecidableEq, Repr

/-! ### Jobs, runs, periods (09, 10) -/

/-- A region placed for a job (R83, R246): its tier, whether it is weight class, sealed, near (the task tile), its
module address and size, and whether a sealed region has been filled. -/
structure Region where
  tier : Nat
  weight : Bool
  isSealed : Bool
  near : Option Nat
  addr : Nat
  size : Nat
  filled : Bool
deriving DecidableEq, Repr

/-- A task of the graph (R262). -/
structure TaskRec where
  level : Nat
  first : Nat
  tiles : Nat
  entryPc : Nat
deriving DecidableEq, Repr

/-- A routing plan (R133); `doneCtr` is the module counter. -/
structure PlanRec where
  plan : Nat
  bins : Nat
  capacity : Nat
  carryCap : Nat
  firstSender : Nat
  senders : Nat
  maxRoutes : Nat
  fillBell : Nat
  region : Nat
  doneCtr : Nat
deriving DecidableEq, Repr

/-- A field of a request form (R288). -/
structure FormField where
  width : Nat
  kind : Nat
  required : Bool
  minV : Nat
  maxV : Nat
  dflt : Nat
deriving DecidableEq, Repr

/-- A request form (R288); `replyCtr` is the module counter. -/
structure Form where
  version : Nat
  lockerField : Nat
  recordBytes : Nat
  seatRegion : Nat
  replyCtr : Nat
  fields : List FormField
deriving DecidableEq, Repr

/-- A loaded image under its job ID (R250): partition, program digest, header fields, binding (logical tile of each task
tile), regions with their digests (R340), counter range with thresholds and initial values, task graph, marks, plans,
request form, fallback. -/
structure Job where
  part : Nat
  digest : Bytes
  strict : Bool
  timing : Nat
  isaMinor : Nat
  sizeClass : Nat
  tiles : List Nat
  regions : List Region
  regionDigs : Store Bytes
  /-- The grading engine has written weights since the load (R339 flag bit 2). -/
  weightsWritten : Bool
  ctrFirst : Nat
  ctrs : List (Nat × Nat)
  tasks : List TaskRec
  edges : List (Nat × Nat)
  needTicks : Nat
  marks : List Nat
  plans : List PlanRec
  form : Option Form
  fallback : Bytes
  /-- The SQ of its LOAD_IMAGE (R389). -/
  sq : Nat
deriving DecidableEq, Repr

/-- How a run was started: by a RUN_GRAPH (its SQ and tag) or as a period of a binding. -/
inductive RunKind where
  | graph
  | period (n : Nat)
deriving DecidableEq, Repr

/-- Where a run stands: pending, running, its other tiles about to stop after an error, aborted with locker operations
or transfer writes still to end, waiting for a retake's preparation, ended. -/
inductive RunPhase where
  | pending
  | running
  | stopping
  | aborting
  | retakeWait
  | ended
deriving DecidableEq, Repr

/-- Why a run stops: a program error (tile, code, slot, pc), a period overrun, an UNLOAD, a hardware fault. -/
inductive StopCause where
  | program (tile code slot pc win : Nat)
  | overrun
  | unload
  | fault (detail win : Nat)
  | reset
deriving DecidableEq, Repr

/-- One run of a job (R250, R265, R273), with what its record will hold (R336 to R340). -/
structure Run where
  job : Nat
  kind : RunKind
  phase : RunPhase
  strict : Bool
  slipFatal : Bool
  wdog : Nat
  prio : Nat
  exam : Bool
  seed : Nat
  bell : Nat
  /-- The submission number of the RUN_GRAPH or of the BIND_PERIOD behind it. -/
  subm : Nat
  /-- The window whose start is the kickoff's boundary, once the bell has acted (R43). -/
  kickWin : Option Nat
  /-- Tasks started, and those whose conditions have been met with the window their start waits for (R264). -/
  started : List Nat
  ready : List (Nat × Nat)
  done : List Nat
  tilesDone : List Nat
  stop : Option StopCause
  epoch : Nat
  kickTod : Nat
  endTod : Nat
  retakes : Nat
  /-- Retakes that followed a doubles disagreement (R354). -/
  disagreed : Nat
  /-- Units named by faults in attempts of this run (R356): attempt and unit. -/
  units : List (Nat × Nat)
  fault : Nat
  /-- A doubles partner cannot retake it (R354, R370). -/
  barred : Bool
  /-- A locker write of the attempt is not covered by the undo log (R355). -/
  undoBroken : Bool
  /-- The attempt has written a locker. -/
  wrote : Bool
  /-- A grading layer was opened in it (R327). -/
  opened : Bool
  serial : Option Nat
  lines : List Line
  /-- Fetch items by task tile, each with its place in issue order (R340). -/
  fetches : Store (List (Nat × Bytes))
  /-- Layer digests of the tiles that have completed, by task tile (R335). -/
  layersAt : List (Nat × LayerDig)
  /-- Held ticks and slip records of the tiles that have completed (R261). -/
  heldTicks : Nat
  slipRecs : Nat
  digestOver : Bool
  forcedFill : Bool
  carryLost : Bool
  outcome : Nat
  recorded : Bool
  /-- Seats of a RUN_GRAPH run of an image with a FORM section, with their records (R347). -/
  replay : List (Nat × Bytes)
  /-- What such a run's fills have carried in: plan, carry slot and record (R137, R340, R348). -/
  carryIn : List (Nat × Nat × Bytes)
  /-- The name under which doubles partners know it, when it is a doubles run (R367). -/
  name : Option RunName
  /-- The image it ran, kept when that was unloaded before the record was formed. -/
  snap : Option Job
deriving DecidableEq, Repr

/-- A binding of a job to a period (R258, R266). -/
structure Period where
  part : Nat
  job : Nat
  /-- The submission number of the BIND_PERIOD that made it. -/
  subm : Nat
  periodNs : Nat
  firstStart : Nat
  seed : Nat
  strict : Bool
  slipFatal : Bool
  wdog : Nat
  exam : Bool
  missLog : Nat
  missEntries : Nat
  missCount : Nat
  deadlineUs : Nat
  slackUs : Nat
  /-- The number of the next start bell to come. -/
  nextStart : Nat
  /-- The number of the period that has started last, none before the first start bell. -/
  current : Option Nat
  /-- Marks of the current period already reached, with the window at whose start they act (R43, R67). -/
  acting : List (Nat × Nat)
  /-- Marks that have acted in the current period, with the grid tick of the boundary. -/
  acted : List (Nat × Nat)
  /-- The last period seated. -/
  lastSeat : Option Nat
  /-- The first period whose close no forward step has passed (R293). -/
  seatFrom : Nat
  /-- The submission number of the unbinding descriptor waiting for the next start bell. -/
  unbind : Option Nat
  /-- The binding has ended but requests of it wait for their replies: the status, detail, retakes and run epoch of its end
  entry. -/
  closing : Option (Nat × Nat × Nat × Nat)
  /-- The job has been unloaded since, and the fallback it had. -/
  gone : Bool
  fallback : Bytes
deriving DecidableEq, Repr

/-! ### Resources in force -/

/-- The site a logical tile is bound to by the map in force: die, site, on (R18, R364). -/
structure SiteMap where
  die : Nat
  site : Nat
  on : Bool
deriving DecidableEq, Repr

/-- The default map of R18. -/
def SiteMap.dflt (t : Nat) : SiteMap := ⟨t / 8, t % 8, true⟩

/-- What an enabled partition owns: tiles as a bit set, an LPDDR6 range in GiB, a run of sync counters, ports as a bit
set (R407). -/
structure PartRes where
  tiles : Nat
  lpdBase : Nat
  lpdSize : Nat
  synBase : Nat
  synCount : Nat
  ports : Nat
deriving DecidableEq, Repr

/-- The unpartitioned module: partition 0 owns everything (R407). -/
def PartRes.whole (p : Part) : PartRes :=
  ⟨2 ^ p.tiles - 1, 0, p.stacks * 96, 0, 4096, 2 ^ p.ports - 1⟩

/-! ### Outputs -/

/-- What the module gives out at its boundary, newest first in `State.out`: read data of a host access or its refusal as UR, a write of host
memory, an Ethernet frame on a port, a frame or a PTP timestamp for the firmware, a PTP message sent, a message on the pair links,
a pair frame sent again, the payload of a pair frame passed on, an MSI-X message, an SPDM or PLDM response, a pin driven. DESIGN CHOICE (log 9). -/
inductive Out where
  | readData (v : Nat)
  | readBytes (b : Bytes)
  | ur
  | hostWrite (fn addr : Nat) (data : Bytes)
  | hostRead (fn addr len : Nat)
  | frame (port sub : Nat) (wire : Bytes)
  | toFirmware (port sub : Nat)
  | ptp (port : Nat) (stamp : Option Nat) (answered : Bool)
  | ptpSent (port : Nat) (msgType stamp : Nat)
  | pairMsg (kind : Nat) (body : Bytes)
  | pairAgain (link : Nat) (frame : Bytes)
  | pairTaken (kind : Nat) (payload : Bytes)
  | msix (fn vec : Nat)
  | response (session code : Nat) (body : Bytes)
  | pin (name : String) (level : Bool)
deriving DecidableEq, Repr



/-- An error in the memory arrays that no read has found yet: a correctable one in the storage at a module address, one in the
tray, weight buffers, accumulators or instruction memory of a tile, or a CRC failure that the next static crossing of a
bonded-DRAM line will meet (R171, R179, R182). DESIGN CHOICE (log 56). -/
inductive Upset where
  | storage (addr : Nat)
  | array (tile : Nat)
  | crc (line : Nat)
deriving DecidableEq, Repr

/-- The module. -/
structure State where
  /-- The part of the family (R1); no command changes it. DESIGN CHOICE (log 4). -/
  part : Part
  /-- Register fields by key, at their reset value where unlisted (R5 to R9). DESIGN CHOICE (log 2). -/
  regs : Store Nat
  /-- Module memory: bonded DRAM, LPDDR6 and tile-local windows (R20), a byte 0 where unlisted. DESIGN CHOICE (log 3). -/
  mem : List Host.Cell
  /-- What the module has given out, newest first. DESIGN CHOICE (log 9). -/
  out : List Out
  /-- The counter the free values are drawn with: the model's own. DESIGN CHOICE (log 5). -/
  freeCtr : Nat
  /-- Time-clock cycles since power-up (R28). -/
  now : Nat
  /-- The hidden fraction of TIM_TOD in units of 2 ^ -32 ns (R30). -/
  todFrac : Nat
  tiles : Store Tile
  /-- Items in flight, oldest first. DESIGN CHOICE (log 8). -/
  fabric : List Item
  /-- SWAITs waiting, oldest first. -/
  waiters : List Waiter
  /-- Locker operations waiting at each hub, oldest first (R187). -/
  lockerQ : Store (List LockerOp)
  claims : List Claim
  jobs : Store Job
  /-- The run epoch last used with a job ID, 0 where unlisted (R222). -/
  epochs : Store Nat
  /-- The time-clock instant of its last advance (R222). -/
  epochAt : Store Nat
  runs : Store Run
  /-- The next run number. -/
  runNext : Nat
  /-- The next submission number (R252). -/
  submNext : Nat
  periods : Store Period
  /-- The tile map in force, the default of R18 where unlisted. -/
  siteMap : Store SiteMap
  /-- The stack map in force, the identity where unlisted (R22). -/
  stackMap : Store Nat
  /-- The enabled partitions (R407). -/
  parts : Store PartRes
  /-- Bubbles each timing domain has taken since the last roll call, by partition (R42). -/
  bubbles : Store Nat
  /-- Descriptors accepted and not yet completed, in the order of acceptance (R252). -/
  descs : List Desc
  cqs : Store Cq
  /-- Candidates held, in the order of R292. -/
  cands : List Request
  copies : List Copy
  carries : List Carry
  heldReps : List HeldRep
  assocs : Store AssocSt
  plans : Store PlanSt
  /-- Fills begun, the running one first. -/
  spuFills : List Fill
  aud : Store AudSt
  /-- The run whose locker writes the undo log of a partition belongs to (R355). -/
  undoRun : Store Nat
  unitSubs : List UnitSub
  siteSubs : List SiteSub
  stackCopy : Option StackCopy
  dbl : DblSt
  time : TimeSt
  /-- PCIe functions by number: 0 physical, q + 1 virtual (R421, R432). -/
  fns : Store HostFn
  /-- Partitions whose changed resources are being zero-filled (R409). -/
  zeroing : List Nat
  /-- Bindings that have ended while requests of theirs wait for their replies (R272). -/
  closings : List Period
  /-- Increments of reply and post counters made known to the net dies and not served yet, by counter (R297, R314). -/
  netNotes : List Nat
  /-- Frames handed to the firmware per sub-port: the second and the frames in it (R279). DESIGN CHOICE (log 48). -/
  fwRate : Store (Nat × Nat)
  /-- Windows ended since power-up, bubbles included: what the model counts tile kickoffs with (R41). -/
  windows : Nat
  /-- The timing domains, by partition, that take the window now open as a bubble (R42). -/
  bubbleNow : List Nat
  /-- The grading engines (R308 to R327). -/
  grd : GrdSt
  /-- Sites condemned and no longer bound to a logical tile, as 16 * die + site (R359). -/
  badSites : List Nat
  /-- The largest stretch count of each compute die in the last two windows, newest first (R50). -/
  winMax : List (List Nat)
  /-- The power manager (R378 to R393). -/
  pwr : PwrSt
  /-- Power, reset and boot (R433 to R443). -/
  boot : BootSt
  /-- The time-clock instant of READY since the last restart (R443, R449). -/
  readyAt : Option Nat
  /-- Keys, unseals, SPDM (R394 to R415). -/
  sec : SecSt
  /-- The pair links (R303). -/
  pairs : Store PairSt
  /-- The neighbour table that the supervisor firmware keeps (R279). DESIGN CHOICE (log 59). -/
  neighbours : List Neighbour
  /-- Plan numbers whose carried state has been discarded since their last fill (R139). -/
  lostCarry : List Nat
  /-- The bundle that a tile is issuing as a whole: its pc and tick, once every slot of it has been found able to issue (R56).
  DESIGN CHOICE (log 6). -/
  cleared : Store (Nat × Nat)
  /-- Errors that have struck the memory arrays and that no read has found: nothing of the module puts one here.
  DESIGN CHOICE (log 56). -/
  upsets : List Upset
  /-- The commands waiting, first in first out. DESIGN CHOICE (log 1). -/
  pending : List Instr
deriving DecidableEq, Repr

/-- The module right after reset: every register at its reset value, memory with nothing listed, nothing loaded.
DESIGN CHOICE (log 2, 3, 4, 35). -/
def State.reset : State where
  part := .ox2048
  regs := []
  mem := []
  out := []
  freeCtr := 0
  now := 0
  todFrac := 0
  tiles := []
  fabric := []
  waiters := []
  lockerQ := []
  claims := []
  jobs := []
  epochs := []
  epochAt := []
  runs := []
  runNext := 0
  submNext := 0
  periods := []
  siteMap := []
  stackMap := []
  parts := [(0, PartRes.whole .ox2048)]
  bubbles := []
  descs := []
  cqs := []
  cands := []
  copies := []
  carries := []
  heldReps := []
  assocs := []
  plans := []
  spuFills := []
  aud := []
  undoRun := []
  unitSubs := []
  siteSubs := []
  stackCopy := none
  dbl := DblSt.init
  time := TimeSt.init
  fns := []
  zeroing := []
  closings := []
  netNotes := []
  fwRate := []
  windows := 0
  bubbleNow := []
  grd := ⟨[], []⟩
  badSites := []
  winMax := []
  pwr := PwrSt.init
  boot := BootSt.init
  readyAt := none
  sec := SecSt.init
  pairs := []
  neighbours := []
  lostCarry := []
  cleared := []
  upsets := []
  pending := []

end Sys2Proof.Machine
end

