-- ==== Sys2Proof/Machine/Regs.lean ====
section
/-! DEFINITION. Reading and writing register fields, counters and causes (00_scope.md, R5 to R12), and the accessors of
the tiles, jobs, runs and periods. -/

namespace Sys2Proof.Machine

/-- The reset value of a field on a part (the Reset column of its table). -/
def Fld.reset (p : Part) (f : Fld) : Nat :=
  match f.rst with
  | .val n => n
  | .part a b c => p.pick a b c
  | .tileSite => (f.off - 0x90100) / 8 % 8
  | .tileDie => if (f.off - 0x90100) / 8 < p.tiles then (f.off - 0x90100) / 64 else 0
  | .tileOn => b2n (decide ((f.off - 0x90100) / 8 < p.tiles))
  | .stackPhys => if (f.off - 0x90400) / 8 < p.stacks then (f.off - 0x90400) / 8 else 0
  | .stackInService => b2n (decide ((f.off - 0x90500) / 8 < p.stacks))
  | .partTiles0 => if f.off = 0xC0100 then (2 ^ p.tiles - 1) % 2 ^ 64 else 0
  | .partTiles1 => if f.off = 0xC0108 then (2 ^ p.tiles - 1) / 2 ^ 64 else 0
  | .partGib => if f.off = 0xC0110 then p.stacks * 96 else 0
  | .partSyn => if f.off = 0xC0118 then 4096 else 0
  | .partPorts => if f.off = 0xC0120 then 2 ^ p.ports - 1 else 0
  | .partEn => if f.off = 0xC0120 then 1 else 0

/-- The value of a field. DESIGN CHOICE (log 2). -/
def rd (s : State) (f : Fld) : Nat := (Store.get? s.regs f.key).getD (f.reset s.part)

/-- The state with a field set to the low bits of a value. A number that the spec advances by 1 and calls no counter
(CTL_PERIOD_NUM.period, AUD_NEXT_NUM, AUD_RUN_SERIAL) is set in this way too, and so goes on from all-ones to 0. DESIGN CHOICE (log 2,
58): R12 rules the fields that count. -/
def wr (s : State) (f : Fld) (v : Nat) : State :=
  { s with regs := Store.put s.regs f.key (f.reset s.part) (v % 2 ^ f.w) }

/-- Several fields set, first to last. -/
def wrs (s : State) (l : List (Fld × Nat)) : State := l.foldl (fun s p => wr s p.1 p.2) s

/-- A counter advanced by `n`, saturating at all-ones (R12). -/
def bump (s : State) (f : Fld) (n : Nat) : State := wr s f (min (rd s f + n) (2 ^ f.w - 1))

/-- A cause bit set in a leaf register. -/
def raise (s : State) (f : Fld) (bit : Nat) : State := wr s f (rd s f ||| 2 ^ bit)

/-- Whether a bit of a field is set. -/
def flag (s : State) (f : Fld) (bit : Nat) : Bool := bitOf (rd s f) bit

/-- Whether a one-bit field is 1. -/
def on (s : State) (f : Fld) : Bool := rd s f != 0

/-- The state with something given out. DESIGN CHOICE (log 9). -/
def emitOut (s : State) (o : Out) : State := { s with out := o :: s.out }

/-- A fresh free value and the state with the counter advanced by `n`. DESIGN CHOICE (log 5). -/
def takeFree (s : State) (n : Nat) : State := { s with freeCtr := s.freeCtr + n }

/-- The hidden state of a tile. -/
def tileOf (s : State) (t : Nat) : Tile := (Store.get? s.tiles t).getD Tile.init

/-- The state with a tile's hidden state replaced. -/
def setTile (s : State) (t : Nat) (x : Tile) : State := { s with tiles := Store.set s.tiles t x }

/-- The state with a tile's hidden state changed. -/
def modTile (s : State) (t : Nat) (f : Tile → Tile) : State := setTile s t (f (tileOf s t))

/-- The state with a run replaced. -/
def setRun (s : State) (r : Nat) (x : Run) : State := { s with runs := Store.set s.runs r x }

/-- The state with a run changed, when it exists. -/
def modRun (s : State) (r : Nat) (f : Run → Run) : State :=
  match Store.get? s.runs r with
  | some x => setRun s r (f x)
  | none => s

/-- The state with a job replaced. -/
def setJob (s : State) (j : Nat) (x : Job) : State := { s with jobs := Store.set s.jobs j x }

/-- The state with a period binding replaced. -/
def setPeriod (s : State) (q : Nat) (x : Period) : State := { s with periods := Store.set s.periods q x }

/-- Whether a logical tile exists and is on in the map in force (R21, R364). DESIGN CHOICE (log 50). -/
def tileOn (s : State) (t : Nat) : Bool :=
  decide (t < s.part.tiles) && ((Store.get? s.siteMap t).getD (SiteMap.dflt t)).on

/-- The tiles usable now (R364). -/
def tilesUsable (s : State) : Nat := ((List.range s.part.tiles).filter (tileOn s)).length

/-- The site a logical tile is bound to. -/
def siteOf (s : State) (t : Nat) : SiteMap := (Store.get? s.siteMap t).getD (SiteMap.dflt t)

/-- The enabled partition that owns a tile (R407). -/
def partOfTile (s : State) (t : Nat) : Option Nat :=
  (s.parts.find? fun p => bitOf p.2.tiles t).map (·.1)

/-- The job bound to a tile (TIL_MODE, R248). -/
def jobOfTile (s : State) (t : Nat) : Nat := rd s (TIL_MODE_job_id t)

/-- The loaded image of a tile's job. -/
def jobRec (s : State) (t : Nat) : Option Job :=
  if on s (TIL_MODE_bound t) then Store.get? s.jobs (jobOfTile s t) else none

/-- The run a tile serves now. -/
def runOfTile (s : State) (t : Nat) : Option Nat := (tileOf s t).task.map (·.1)

/-- TIM_TOD (R30). -/
def tod (s : State) : Nat := rd s TIM_TOD_tod

/-- A PCIe function. -/
def fnOf (s : State) (fn : Nat) : HostFn := Store.getD s.fns fn HostFn.init

/-- The state with a PCIe function changed. -/
def modFn (s : State) (fn : Nat) (f : HostFn → HostFn) : State := { s with fns := Store.set s.fns fn (f (fnOf s fn)) }

/-- Whether a function takes BAR accesses: not in D3hot, the host die out of reset, the module not tripped (R386, R421,
R435). -/
def fnUp (s : State) (fn : Nat) : Bool := !(fnOf s fn).d3 && !s.boot.held && !on s PWR_STATUS_tripped

/-- Whether a write through a function reaches what belongs to partition `q`: the physical function, or its virtual
function, not in D3hot (R407, R411, R421). -/
def fnOwns (s : State) (fn q : Nat) : Bool := fnUp s fn && (fn == 0 || fn == q + 1)

/-- Whether a write reaches what only the physical function writes (R411, R421). -/
def fnPhys (s : State) (fn : Nat) : Bool := fnUp s fn && fn == 0

/-- The STAT[2:0] code of a boot state (R452). -/
def statCode (n : Nat) : Nat := [7, 6, 5, 5, 4, 3, 2, 1, 0].getD n 7

/-- HST_BOOT.state set and the pins that follow it driven (R450, R452). -/
def setBoot (s : State) (n : Nat) : State :=
  { wr s HST_BOOT_state n with out :=
      [.pin "STAT[0]" (bitOf (statCode n) 0), .pin "STAT[1]" (bitOf (statCode n) 1), .pin "STAT[2]" (bitOf (statCode n) 2),
        .pin "FAULT_N" (decide (n < 6)), .pin "READY" (n == 5)] ++ s.out }

/-- Whether the module is in state READY (R443). -/
def isReady (s : State) : Bool := rd s HST_BOOT_state == 5

end Sys2Proof.Machine
end

