-- ==== Sys2Proof/Machine/Clock.lean ====
section
/-! DEFINITION. One cycle of the time clock, which is what the block does while no command waits (02, R28, R30). -/

namespace Sys2Proof.Machine

/-- 100 ppm in units of 2 ^ -32 (R30). -/
def ppm100 : Int := 429496

/-- A rate limited to ±100 ppm (R30). -/
def clampRate (r : Int) : Int := if r < -ppm100 then -ppm100 else if ppm100 < r then ppm100 else r

/-- The rate of this cycle: the servo rate and what the slew in progress adds (R30, R35). -/
def todRate (x : TimeSt) : Int := clampRate (x.servo + clampRate x.slew)

/-- TIM_TOD with its fraction, in units of 2 ^ -32 ns. -/
def todFine (s : State) : Nat := rd s TIM_TOD_tod * 2 ^ 32 + s.todFrac

/-- The state with TIM_TOD and its fraction set; the 64-bit counter wraps. -/
def setTodFine (s : State) (v : Nat) : State :=
  { wr s TIM_TOD_tod (v / 2 ^ 32) with todFrac := v % 2 ^ 32 }

/-- One time-clock cycle: TIM_TOD gains 1 ns times (1 + rate), a slew in progress is worked off, and the counts of the
time unit that run with the clock advance (R30, R35; TIM_STATUS pps_ok and holdover_s). DESIGN CHOICE (log 1). -/
def idle (s : State) : State :=
  let r := todRate s.time
  let s := setTodFine s (((todFine s : Int) + 2 ^ 32 + r).toNat)
  let s := { s with now := s.now + 1, time := { s.time with slew := s.time.slew - (r - s.time.servo) } }
  let s := match s.time.lastEdge with
    | some e => if on s TIM_STATUS_pps_ok && decide (e + 1500000000 < s.now) then wr s TIM_STATUS_pps_ok 0 else s
    | none => s
  match s.time.holdFrom with
  | some h => if rd s TIM_STATUS_state = 4 then wr s TIM_STATUS_holdover_s (min ((s.now - h) / 1000000000) 0xFFFF) else s
  | none => s

end Sys2Proof.Machine
end

