-- ==== Sys2Proof/Machine/Ops.lean ====
section
/-! DEFINITION. Module memory: reading and writing bytes in canonical form, and which addresses hold memory
(01_system_organisation.md, R20, R21; 16_security_and_attestation.md, R407; 07_memory_tiers_and_transfers.md, R188). -/

namespace Sys2Proof.Machine

/-- What an unlisted address reads as. DESIGN CHOICE (log 3): the spec gives memory no contents after power-up but for
the zero-fill of R441. -/
def Memory.dflt : Byte := 0

/-- The byte at an address of a cell list. DESIGN CHOICE (log 3). -/
def Memory.read : List Host.Cell → Nat → Byte
  | [], _ => Memory.dflt
  | (k, v) :: r, a => if a = k then v else Memory.read r a

/-- The cell list with an address unlisted. -/
def Memory.drop (m : List Host.Cell) (a : Nat) : List Host.Cell := m.filter fun c => c.1 != a

/-- The cell list with a byte listed. -/
def Memory.put : List Host.Cell → Nat → Byte → List Host.Cell
  | [], a, b => [(a, b)]
  | (k, v) :: r, a, b =>
    if a < k then (a, b) :: (k, v) :: r
    else if a = k then (a, b) :: r
    else (k, v) :: Memory.put r a b

/-- The cell list with a byte written, the canonical form kept. -/
def Memory.write (m : List Host.Cell) (a : Nat) (b : Byte) : List Host.Cell :=
  if b = Memory.dflt then Memory.drop m a else Memory.put m a b

/-- The canonical form: addresses strictly rising from above a bound, no entry equal to the default. -/
def Memory.wfFrom : Nat → List Host.Cell → Bool
  | _, [] => true
  | lo, (k, v) :: r => decide (lo ≤ k) && (v != Memory.dflt) && Memory.wfFrom (k + 1) r

/-- The canonical form of memory: strictly rising addresses, no entry holding the default byte. -/
def Memory.wf (m : List Host.Cell) : Bool := Memory.wfFrom 0 m

/-- The byte at a module address. -/
def readByte (s : State) (a : Nat) : Byte := Memory.read s.mem a

/-- The state with a byte written. -/
def writeByte (s : State) (a : Nat) (b : Byte) : State := { s with mem := Memory.write s.mem a b }

/-- `n` bytes from an address. -/
def readBytes (s : State) (a : Nat) : Nat → Bytes
  | 0 => []
  | n + 1 => readByte s a :: readBytes s (a + 1) n

/-- The state with bytes written from an address on. -/
def writeBytes (s : State) (a : Nat) : Bytes → State
  | [] => s
  | b :: bs => writeBytes (writeByte s a b) (a + 1) bs

/-- The state with the bytes a mask names written. -/
def writeMasked (s : State) (a : Nat) : List (Option Byte) → State
  | [] => s
  | none :: bs => writeMasked s (a + 1) bs
  | some b :: bs => writeMasked (writeByte s a b) (a + 1) bs

/-- The state with the bits a mask names of each byte written: pairs of a value and its mask. -/
def writeBits (s : State) (a : Nat) : List (Byte × Byte) → State
  | [] => s
  | (b, m) :: bs =>
    writeBits (if m = 0 then s else writeByte s a ((readByte s a &&& ~~~m) ||| (b &&& m))) (a + 1) bs

/-- A span written by what is neither a program nor an engine of a tile noted at every outstanding transfer, which reads each of
its granules whole, old or new (R24, R195). -/
def noteOther (s : State) (a n : Nat) : State :=
  { s with tiles := s.tiles.map fun p => if p.2.xfers.isEmpty then p else
      (p.1, { p.2 with xfers := p.2.xfers.map fun f => { f with foreign := (a, n) :: f.foreign } }) }

/-- Bytes written by the host, a net die, a hub or the grading engine. -/
def writeOther (s : State) (a : Nat) (bs : Bytes) : State := noteOther (writeBytes s a bs) a bs.length

/-- Bytes to be written whole. -/
def plain (bs : Bytes) : List (Byte × Byte) := bs.map fun b => (b, 0xFF)

/-- The memory with every listed byte of a span at the default. -/
def zeroSpan (s : State) (a n : Nat) : State :=
  { s with mem := s.mem.filter fun c => !(decide (a ≤ c.1) && decide (c.1 < a + n)) }

/-- The start of the LPDDR6 range (R20). -/
def lpdBase : Nat := 0x010000000000

/-- The start of the tile-local windows (R20). -/
def windowBase : Nat := 0x040000000000

/-- The size of a logical LPDDR6 stack (R20). -/
def stackBytes : Nat := 0x001800000000

/-- The size of a near region (R20). -/
def nearBytes : Nat := 0x80000000

/-- The first address of a tile's near region. -/
def nearBase (t : Nat) : Nat := t * nearBytes

/-- The first address of a tile's window. -/
def windowOf (t : Nat) : Nat := windowBase + t * 0x01000000

/-- What an address names (R20, R21). -/
inductive Place where
  | bonded (t : Nat)
  | lpd
  | window (t off : Nat)
  | nothing
deriving DecidableEq, Repr

/-- The contiguous memory of a tile window that an offset lies in: its first offset and its length (R20 window table). -/
def windowSeg (off : Nat) : Option (Nat × Nat) :=
  if off < 0x80000 then some (0, 0x80000)
  else if 0x100000 ≤ off ∧ off < 0x160000 then some (0x100000, 0x60000)
  else if 0x200000 ≤ off ∧ off < 0x240000 then some (0x200000, 0x40000)
  else if 0x400000 ≤ off ∧ off < 0x800000 then some (off / 0x40000 * 0x40000, 0x40000)
  else none

/-- What an address of the part names, tiles that are off holding no memory (R20, R21). -/
def placeOf (s : State) (a : Nat) : Place :=
  if a < s.part.tiles * nearBytes then (if tileOn s (a / nearBytes) then .bonded (a / nearBytes) else .nothing)
  else if lpdBase ≤ a ∧ a < lpdBase + s.part.stacks * stackBytes then .lpd
  else if windowBase ≤ a ∧ a < windowBase + s.part.tiles * 0x01000000 then
    let t := (a - windowBase) / 0x01000000
    let off := (a - windowBase) % 0x01000000
    if tileOn s t ∧ (windowSeg off).isSome then .window t off else .nothing
  else .nothing

/-- The bytes of contiguous memory from an address on, up to the end of what it lies in: the bonded range, the LPDDR6
range, or one memory of a tile window. -/
def roomAt (s : State) (a : Nat) : Nat :=
  match placeOf s a with
  | .bonded _ => tilesUsable s * nearBytes - a
  | .lpd => lpdBase + s.part.stacks * stackBytes - a
  | .window _ off => match windowSeg off with
    | some (b, n) => b + n - off
    | none => 0
  | .nothing => 0

/-- Whether a partition owns the span `[a, a + n)` (R407): its tiles' near regions and windows, its LPDDR6 range. -/
def partOwns (s : State) (q a n : Nat) : Bool :=
  match Store.get? s.parts q with
  | none => false
  | some r =>
    match placeOf s a with
    | .bonded t => (rangeFrom t ((a + n - 1) / nearBytes - t + 1)).all fun u => bitOf r.tiles u
    | .lpd => decide (lpdBase + r.lpdBase * 2 ^ 30 ≤ a) && decide (a + n ≤ lpdBase + (r.lpdBase + r.lpdSize) * 2 ^ 30)
    | .window t _ => bitOf r.tiles t
    | .nothing => false

/-- The jobs with a sealed region that meets the span (R188). -/
def sealedOver (s : State) (a n : Nat) : List Nat :=
  (s.jobs.filter fun p => p.2.regions.any fun r =>
    r.isSealed && decide (a < r.addr + r.size) && decide (r.addr < a + n)).map (·.1)

/-- Whether an access of job `j` of partition `q` to the span passes R20, R21, the partition's ranges and R188. -/
def spanOk (s : State) (q j a n : Nat) : Bool :=
  decide (a < 2 ^ 48) && decide (0 < n) && decide (n ≤ roomAt s a) && partOwns s q a n
    && (sealedOver s a n).all (· == j)

/-- The scratchpad of a tile window that an offset lies in: 0 ME, 1 VE, 2 + a aide a. -/
def scratchOf (off : Nat) : Option Nat :=
  if 0x100000 ≤ off ∧ off < 0x160000 then some 0
  else if 0x200000 ≤ off ∧ off < 0x240000 then some 1
  else if 0x400000 ≤ off ∧ off < 0x800000 then some (2 + (off - 0x400000) / 0x40000)
  else none

/-- The tile and scratchpad a module address lies in. -/
def scratchAt (s : State) (a : Nat) : Option (Nat × Nat) :=
  match placeOf s a with
  | .window t off => (scratchOf off).map (t, ·)
  | _ => none

/-- Whether a span lies in one scratchpad, and which. -/
def scratchSpan (s : State) (a n : Nat) : Option (Nat × Nat) :=
  if n ≤ roomAt s a then scratchAt s a else none

/-- The 512-byte lines a span touches, by line number (module address over 512) (R165, R167). -/
def linesOf (a n : Nat) : List Nat := if n = 0 then [] else rangeFrom (a / 512) ((a + n - 1) / 512 - a / 512 + 1)

end Sys2Proof.Machine
end

