-- ==== Sys2Proof/Machine/Operands.lean ====
section
/-! DEFINITION. Operand forms of tile operations: address descriptors and the effective address
(03_snielo_instruction_set.md, R61, R62), counted fields (R63), aide immediates (06, R158). -/

namespace Sys2Proof.Machine

/-- The value of a loop counter (R64). -/
def cntOf (x : Tile) (c : Nat) : Nat := Store.getD x.cnts c 0

/-- One stride term of a descriptor: its counter field at `lo`, its enable, its stride (R61). -/
def descTerm (x : Tile) (d lo : Nat) : Int :=
  if bitOf d (lo + 3) then 32 * signed 16 (bitsOf d (lo + 4) 16) * (cntOf x (bitsOf d lo 3) : Int) else 0

/-- The effective address of descriptor `d` with offset field `off` in 32-byte units; 64-bit, wraps (R61). -/
def effAddr (x : Tile) (d off : Nat) : Nat :=
  let w := Store.getD x.descs d 0
  unsigned 64 ((bitsOf w 0 64 : Int) + 32 * off + descTerm x w 64 + descTerm x w 84 + descTerm x w 104)

/-- The partition of a tile's job, 8 where it has none. -/
def tilePart (s : State) (t : Nat) : Nat :=
  match jobRec s t with
  | some j => j.part
  | none => (partOfTile s t).getD 8

/-- Whether an access of the tile's job to the span passes R62, apart from what its operation may reach. -/
def tileSpanOk (s : State) (t a n : Nat) : Bool := spanOk s (tilePart s t) (jobOfTile s t) a n

/-- Whether a span lies in scratchpad `u` of tile `t`'s own window and passes R62. -/
def ownScratch (s : State) (t u a n : Nat) : Bool :=
  tileSpanOk s t a n && (scratchSpan s a n == some (t, u))

/-- Whether a module sync counter lies in the range of the tile's job (R79, R217). -/
def ctrOk (s : State) (t c : Nat) : Bool :=
  match jobRec s t with
  | some j => decide (j.ctrFirst ≤ c) && decide (c < j.ctrFirst + j.ctrs.length)
  | none => false

/-- Whether two tiles lie in one group of eight (R172). -/
def sameGroup (t u : Nat) : Bool := t / 8 == u / 8

/-- The far latency of a static access from position `p` to region position `r`; 40 when near (R19, R172). -/
def dramLatency (p r : Nat) : Nat :=
  if p = r then 40
  else 56 + 8 * (max (p % 4) (r % 4) - min (p % 4) (r % 4)) + 16 * (max (p / 4) (r / 4) - min (p / 4) (r / 4))

/-- The neighbour position on a link: 0 north, 1 east, 2 south, 3 west (R205, TIM_XOVR_INFO). -/
def neighbour (p link : Nat) : Option Nat :=
  match link with
  | 0 => if 4 ≤ p then some (p - 4) else none
  | 1 => if p % 4 < 3 then some (p + 1) else none
  | 2 => if p < 4 then some (p + 4) else none
  | 3 => if 0 < p % 4 then some (p - 1) else none
  | _ => none

/-- The link from one position to another, when they are neighbours. -/
def linkTo (p r : Nat) : Option Nat := (List.range 4).find? fun l => neighbour p l == some r

/-- The tile on the other end of a link of tile `t`. DEDUCED (log 25). -/
def neighbourTile (t link : Nat) : Option Nat := (neighbour (t % 8) link).map (t / 8 * 8 + ·)

/-- The value of a count field: `n` stands for `n + 1` (R63). -/
def count {w : Nat} (x : BitVec w) : Nat := x.toNat + 1

/-- A 32-bit immediate sign-extended to 64 bits (R158). -/
def immS (x : Word32) : Nat := unsigned 64 (signed 32 x.toNat)

/-- A 64-bit sum (R159). -/
def add64 (a b : Nat) : Nat := (a + b) % 2 ^ 64

end Sys2Proof.Machine
end

