-- ==== Sys2Proof/Machine/Tiles.lean ====
section
/-! DEFINITION. The machinery every tile operation shares: ticks and scheduled accesses, the guard's holds and slips,
program errors, the issue of a slot operation and of the bundle's SEQ operation (03, R56 to R73; 09, R235 to R241). -/

namespace Sys2Proof.Machine

/-! ### Codes of TIL_ERR (R248) -/

def errRange : Nat := 0x01
def errReserved : Nat := 0x02
def errBellUnbound : Nat := 0x03
def errTrap : Nat := 0x04
def errBufEmpty : Nat := 0x05
def errBufFormat : Nat := 0x06
def errExamRange : Nat := 0x07
def errTrayEmpty : Nat := 0x08
def errTrayOverflow : Nat := 0x09
def errSrcFormat : Nat := 0x0A
def errLockerRange : Nat := 0x0B
def errFormField : Nat := 0x0C
def errXferRange : Nat := 0x0D
def errQueueClosed : Nat := 0x0E
def errQueueState : Nat := 0x0F
def errSyncOverflow : Nat := 0x10
def errDeadlock : Nat := 0x11
def errWaitCycle : Nat := 0x12
def errSlipFatal : Nat := 0x13
def errPcRange : Nat := 0x14
def errJobStopped : Nat := 0x15

/-- The tick of a tile (R69). DESIGN CHOICE (log 54). -/
def tickOf (s : State) (t : Nat) : Nat := rd s (TIL_TICK_tick t)

/-- The pc of the next bundle to issue (R94). -/
def pcOf (s : State) (t : Nat) : Nat := rd s (TIL_SEQ_STATUS_pc t)

/-- The sequencer's state (R94): 0 idle, 1 running, 2 held by a wait, 3 held by the guard, 4 halted, 5 stopped. -/
def seqState (s : State) (t : Nat) : Nat := rd s (TIL_SEQ_STATUS_state t)

/-- Whether a tile's sequencer is at a bundle that can issue. -/
def issuing (s : State) (t : Nat) : Bool := seqState s t == 1 || seqState s t == 3

/-- A tick of the tile on the module's tick grid: windows other than bubbles since the last roll call hold 256 ticks
each (R41, R43). -/
def gridTick (x : Tile) (tick : Nat) : Nat := 256 * (x.kickWin - x.kickBubbles) + tick

/-- A tick of the grid as a tick of a tile. -/
def localTick (x : Tile) (grid : Nat) : Nat := grid - 256 * (x.kickWin - x.kickBubbles)

/-- Whether the window now open is a bubble of a domain (R44). -/
def inBubble (s : State) (q : Nat) : Bool := s.bubbleNow.contains q

/-- Whether the window now open is a bubble of the tile's domain: no tick of it issues (R40 to R42). -/
def bubbled (s : State) (t : Nat) : Bool :=
  match partOfTile s t with
  | some q => inBubble s q
  | none => false

/-- The latest tick of the grid that the domain of tile `t` is known to have reached: the start of the window now open, or
the tick of a tile of the domain that issues. DESIGN CHOICE (log 7). -/
def gridNow (s : State) (t : Nat) : Nat :=
  let q := partOfTile s t
  s.tiles.foldl (fun g p => if issuing s p.1 && partOfTile s p.1 == q then max g (gridTick p.2 (tickOf s p.1)) else g)
    (256 * (s.windows - Store.getD s.bubbles (q.getD 8) 0))

/-- The tick at which tile `t` stands: its own while it issues, and while it waits or has halted the latest its domain is
known to have reached (R69). DESIGN CHOICE (log 7). -/
def nowTick (s : State) (t : Nat) : Nat :=
  if seqState s t == 2 || seqState s t == 4 then max (tickOf s t) (localTick (tileOf s t) (gridNow s t)) else tickOf s t

/-- Whether audit is enabled for a partition (R346). -/
def auditOn (s : State) (q : Nat) : Bool := on s (AUD_CFG_en q)

/-! ### Scheduled accesses -/

/-- The order of the accesses of a tile: by tick, reads before writes, writes by slot (R59). -/
def Micro.order (m : Micro) : Nat := 16 * m.tick + (if m.wr then 8 + m.slot else 0)

/-- What an access writes in a scratchpad: the tick on which it lands, the address, the length. -/
def Micro.target (m : Micro) : Option (Nat × Nat × Nat) :=
  match m.act with
  | .write a d => if windowBase ≤ a then some (m.tick, a, d.length) else none
  | .moveLine _ n a k => if windowBase ≤ a then some (k, a, n) else none
  | _ => none

/-- The lines in which the write of `m` gives way to that of `e`: a higher-numbered slot of the same bundle, or one that
writes the line on the same tick (R59). DEDUCED (log 12). -/
def Micro.beaten (m e : Micro) : List Nat :=
  if m.slot < e.slot then
    match m.target, e.target with
    | some (k, a, n), some (j, b, l) =>
      if m.issued = e.issued ∨ k = j then (linesOf a n).filter (linesOf b l).contains else []
    | _, _ => []
  else []

/-- A write without what it would write in the lines given. -/
def Micro.without (m : Micro) (lines : List Nat) : Micro :=
  if lines.isEmpty then m
  else match m.act with
    | .write a d => { m with act := .write a (d.zipIdx.map fun p => if lines.contains ((a + p.2) / 512) then (p.1.1, 0) else p.1) }
    | .moveLine src _ a k => { m with act := .moveLine src 0 a k }
    | _ => m

/-- A tile with an access scheduled; of two writes of a line that meet, the one from the higher-numbered slot stays (R59). -/
def Tile.sched (x : Tile) (m : Micro) : Tile :=
  let m' := x.micros.foldl (fun m e => m.without (m.beaten e)) m
  { x with micros := insertBy Micro.order m' (x.micros.map fun e => e.without (e.beaten m)) }

/-- A tile with accesses scheduled. -/
def Tile.schedAll (x : Tile) (l : List Micro) : Tile := l.foldl Tile.sched x

/-- A tile with results marked in flight. -/
def Tile.mark (x : Tile) (l : List Mark) : Tile := { x with marks := l ++ x.marks }

/-- A tile with port ticks taken. -/
def Tile.use (x : Tile) (l : List PortUse) : Tile := { x with uses := l ++ x.uses }

/-- The value an aide load returns (R159). -/
def loadValue (bs : Bytes) (sext : Bool) : Nat :=
  if sext then unsigned 64 (signed (8 * bs.length) (leNat bs)) else leNat bs

/-- An aide register written; x0 stays zero (R157). -/
def Tile.setReg (x : Tile) (aide r v : Nat) : Tile :=
  if r = 0 then x else { x with aregs := Store.put x.aregs (32 * aide + r) 0 v }

/-- An aide register read; x0 is zero (R157). -/
def Tile.reg (x : Tile) (aide r : Nat) : Nat := if r = 0 then 0 else Store.getD x.aregs (32 * aide + r) 0

/-- An aide predicate read; p0 is true (R157). -/
def Tile.pred (x : Tile) (aide p : Nat) : Bool := p == 0 || Store.getD x.apreds (8 * aide + p) false

/-- An aide predicate written; p0 stays true (R157). -/
def Tile.setPred (x : Tile) (aide p : Nat) (b : Bool) : Tile :=
  if p = 0 then x else { x with apreds := Store.put x.apreds (8 * aide + p) false b }

/-- The state with an item put on the fabric. -/
def sendItem (s : State) (i : Item) : State := { s with fabric := s.fabric ++ [i] }

/-- The run epoch of a tile's job (R222). -/
def epochOfTile (s : State) (t : Nat) : Nat := Store.getD s.epochs (jobOfTile s t) 0

/-- What one scheduled access does (R168). A line of a crossing route is present for a CRECV 8 ticks after the issue of
its CSEND, on the reader's own ticks (R208); the access here is on tick +1. -/
def runAct (s : State) (t tick : Nat) (slot : Nat) : Act → State
  | .weightLine buf idx src =>
    let d := readBytes s src 512
    modTile s t fun x => { x with wbuf := Store.set x.wbuf (128 * buf + idx) d }
  | .storeLine src dst => writeBytes s dst (readBytes s src 512)
  | .moveLine src n dst dstTick =>
    let d := readBytes s src n
    modTile s t fun x => { x with micros := insertBy Micro.order ⟨dstTick, true, slot, .write dst (plain d), tick⟩ x.micros }
  | .write addr data => writeBits s addr data
  | .sendLine ep inc pc src =>
    let d := readBytes s src 512
    let dst := rd s (CH_ROUTE_dst_tile t ep)
    let present := if rd s (CH_ROUTE_path t ep) == 1 then some (gridTick (tileOf s t) tick + 7) else none
    sendItem s ⟨.line ep (rd s (CH_ROUTE_dst_q t ep)) inc pc d present, t, dst, jobOfTile s t, epochOfTile s t, s.now⟩
  | .sendIncr ctr amt pc => sendItem s ⟨.incr ctr amt 5 pc true, t, 0xFFF, jobOfTile s t, epochOfTile s t, s.now⟩
  | .aideRead a r addr n sext =>
    let v := loadValue (readBytes s addr n) sext
    modTile s t fun x => x.setReg a r v

/-- Run the scheduled accesses of a tile whose tick is below a bound, and those of the bound that come with its reads, in
order. -/
def runMicros : Nat → State → Nat → Nat → State
  | 0, s, _, _ => s
  | n + 1, s, t, bound =>
    match (tileOf s t).micros with
    | [] => s
    | m :: r =>
      if m.order ≤ 16 * bound then
        let s1 := modTile s t fun x => { x with micros := r }
        runMicros n (runAct s1 t m.tick m.slot m.act) t bound
      else s

/-- Run every scheduled access of a tile below a bound, and the reads of the bound; a line moved by a COPY or an SPASS schedules one more.
DEDUCED (log 12). -/
def runDue (s : State) (t bound : Nat) : State := runMicros (2 * (tileOf s t).micros.length) s t bound

/-- The last tick on which a scheduled access does anything: a line moved is written on a later one. -/
def Micro.last (m : Micro) : Nat :=
  match m.act with
  | .moveLine _ _ _ k => max m.tick k
  | _ => m.tick

/-- Every scheduled access of a tile, to the last. DEDUCED (log 12). -/
def flushMicros (s : State) (t : Nat) : State :=
  runDue s t (1 + (tileOf s t).micros.foldl (fun b m => max b m.last) 0)

/-- The lines of the tray held, reserved, or not yet free (R115, R145). -/
def trayLines (x : Tile) (tick : Nat) : Nat :=
  sumL (x.tray.map fun e => if e.long then 10 else 2) + sumL ((x.freeing.filter fun p => tick < p.1).map (·.2))

/-- VE_TRAY brought up to date (R164). -/
def syncTray (s : State) (t : Nat) : State :=
  let x := tileOf s t
  let tick := tickOf s t
  let held := trayLines x tick
  let s := wr s (VE_TRAY_entries t) (x.tray.filter fun e => decide (e.first < tick)).length
  let s := wr s (VE_TRAY_free_lines t) (512 - held)
  let s := wr s (VE_TRAY_head_long t) (b2n ((x.tray.head?.map (·.long)).getD false))
  let s := wr s (VE_TRAY_head_visible t) (b2n ((x.tray.head?.map fun e => decide (e.first + 3 ≤ tick)).getD false))
  if rd s (VE_TRAY_peak_lines t) < held then wr s (VE_TRAY_peak_lines t) held else s

/-- The tick of a tile moved on to `tick`: accesses due before it and its reads run, ports and results that lie behind are
dropped; the counter of ticks saturates (R12, R69). DESIGN CHOICE (log 54). -/
def setTick (s : State) (t tick : Nat) : State :=
  let s := runDue s t tick
  let s := modTile s t fun x => { x with
    marks := x.marks.filter (fun m => m.waits || decide (tick < m.present))
    uses := x.uses.filter (fun u => decide (tick ≤ u.tick))
    freeing := x.freeing.filter (fun p => decide (tick < p.1))
    newMsg := 0
    newAid := 0 }
  syncTray (wr s (TIL_TICK_tick t) (min tick (2 ^ 48 - 1))) t

/-- The ticks of a tile that waits or has halted counted up to where it stands (R69). -/
def catchUp (s : State) (t : Nat) : State :=
  if seqState s t == 2 || seqState s t == 4 then setTick s t (nowTick s t) else s

/-! ### Errors and stops -/

/-- The window in which a tile is now (R41). -/
def windowNow (s : State) : Nat := rd s TIM_WINDOW_window

/-- The earlier of two program errors of a job: by window, then by logical tile (R241); a hardware fault, an overrun and
an unload stand. -/
def earlierStop (old new : StopCause) : StopCause :=
  match old, new with
  | .program t _ _ _ w, .program t' _ _ _ w' => if w' < w ∨ (w' = w ∧ t' < t) then new else old
  | .program _ _ _ _ _, .fault _ _ => new
  | _, _ => old

/-- A run with a reason to stop noted. -/
def Run.noteStop (r : Run) (c : StopCause) : Run :=
  { r with
    stop := some (match r.stop with | some o => earlierStop o c | none => c)
    phase := if r.phase = .running then .stopping else r.phase }

/-- A tile stopped: earlier operations deliver, waits and holds end, the counter of ticks stands (R69, R239).
DESIGN CHOICE (log 19). -/
def haltTile (s : State) (t st : Nat) : State :=
  let s := flushMicros s t
  let s := modTile s t fun x => { x with waits := [], hold := none, marks := [], uses := [], haltTick := none, stall := none }
  let s := { s with waiters := s.waiters.filter fun w => w.tile != t, cleared := Store.erase s.cleared t }
  wr (wr s (CH_WDOG_stalled t) 0) (TIL_SEQ_STATUS_state t) st

/-- An error recorded in TIL_ERR, the first kept (R239). -/
def noteErr (s : State) (t code slot pc : Nat) : State :=
  if on s (TIL_ERR_valid t) then s else
    wrs s [(TIL_ERR_code t, code), (TIL_ERR_slot t, slot), (TIL_ERR_pc t, pc), (TIL_ERR_valid t, 1),
      (TIL_ERR_TICK_tick t, tickOf s t)]

/-- A program error recorded, its cause raised (R239). -/
def recordErr (s : State) (t code slot pc : Nat) : State := raise (noteErr s t code slot pc) (TIL_CAUSE_cause t) 0

/-- Whether a tile runs a task: running, held by a wait or held by the guard (R94). -/
def tileActive (s : State) (t : Nat) : Bool := decide (1 ≤ seqState s t) && decide (seqState s t ≤ 3)

/-- A tile of a job stopped because the job is: JOB_STOPPED with the pc of its next bundle (R240). DESIGN CHOICE (log 19). -/
def stopTile (s : State) (t : Nat) : State :=
  if tileActive s t then
    let s := catchUp s t
    let s := noteErr s t errJobStopped 0 (pcOf s t)
    raise (haltTile s t 5) (TIL_CAUSE_cause t) 1
  else s

/-- The run of a job that is in progress, by number (R250). -/
def runningRun (s : State) (j : Nat) : Option (Nat × Run) :=
  s.runs.find? fun p => p.2.job == j && (p.2.phase == .running || p.2.phase == .stopping)

/-- The run that a tile serves, or, once it has completed its task, the one of its job in progress. -/
def runBehind (s : State) (t : Nat) : Option Nat :=
  match runOfTile s t with
  | some r => some r
  | none => (runningRun s (jobOfTile s t)).map (·.1)

/-- A program error of a bundle: nothing of it issues, the tile stops, TIL_ERR records it and its run will stop
(R239 to R241). -/
def progErrAt (s : State) (t code slot pc : Nat) : State :=
  let s := recordErr (catchUp s t) t code slot pc
  let s := haltTile s t 5
  match runBehind s t with
  | some r => modRun s r fun x => x.noteStop (.program t code slot pc (windowNow s))
  | none => s

/-- A program error of the bundle at the tile's pc. DEDUCED (log 13). -/
def progErr (s : State) (t code slot : Nat) : State := progErrAt s t code slot (pcOf s t)

/-! ### Holds and slips -/

/-- Whether two of what the guard tracks are the same, or have a byte in common: the guard judges scratchpad accesses by their
bytes, as R198 says of a short pass. DEDUCED (log 13). -/
def Res.meets : Res → Res → Bool
  | .bytes a n, .bytes b m => decide (a < b + m ∧ b < a + n)
  | x, y => x == y

/-- The bytes of an access, as the guard tracks them. -/
def spanOf (a n : Nat) : List Res := if n = 0 then [] else [.bytes a n]

/-- The slip kinds of the results in flight that an operation on tick `tick` meets (R235, R236). DEDUCED (log 13). -/
def flightKinds (x : Tile) (tick : Nat) (rs : List Res) : List Nat :=
  (x.marks.filter fun m => decide (m.issued < tick) && (m.waits || decide (tick < m.present)) && rs.any m.res.meets).map
    fun m => if tick < m.due then 1 else m.kind

/-- How often a port is taken on a tick. -/
def usesOf (x : Tile) (p : Port) (tick : Nat) : Nat := (x.uses.filter fun u => u.port == p && u.tick == tick).length

/-- Whether one of the port ticks wanted is beyond a port's capacity. -/
def portBusy (x : Tile) (cap : Nat) (p : Port) (ticks : List Nat) : Bool :=
  ticks.any fun k => decide (cap ≤ usesOf x p k)

/-- The line slots of a port taken for reads: one line a tick from `tick` on; reads of one line on one tick share a slot
(R167). -/
def readUses (p : Port) (tick : Nat) (lines : List Nat) : List PortUse :=
  lines.zipIdx.map fun l => ⟨p, tick + l.2, l.1⟩

/-- Whether a read of one line a tick finds the port's slot taken by a read of another line (R167, R168). -/
def readBusy (x : Tile) (p : Port) (tick : Nat) (lines : List Nat) : Bool :=
  lines.zipIdx.any fun l => x.uses.any fun u => u.port == p && u.tick == tick + l.2 && u.line != l.1

/-- The bookkeeping of `n` held ticks of one hold in strict mode: slips, records, the first and the longest record (R236,
R237). -/
def recordSlips (s : State) (t kind slot n : Nat) : State :=
  let x := tileOf s t
  let pc := pcOf s t
  let tick := tickOf s t
  let fresh := x.hold.isNone
  let h : Hold := match x.hold with
    | some h => { h with len := h.len + n }
    | none => ⟨pc, tick, n, kind, slot⟩
  let s := bump s (TIL_SLIP_slips t) n
  let s := if fresh then bump s (TIL_SLIP_records t) 1 else s
  let s := modTile s t fun y => { y with heldAll := y.heldAll + n, recsAll := y.recsAll + b2n fresh }
  let first := fresh && !on s (TIL_SLIP_FIRST_valid t)
  let s := if first then raise s (TIL_CAUSE_cause t) 2 else s
  let isFirst := first || (!fresh && x.firstIsCur)
  let s := if isFirst then
      wrs s [(TIL_SLIP_FIRST_pc t, h.pc), (TIL_SLIP_FIRST_kind t, h.kind), (TIL_SLIP_FIRST_slot t, h.slot),
        (TIL_SLIP_FIRST_valid t, 1), (TIL_SLIP_FIRST_AT_tick t, h.tick), (TIL_SLIP_FIRST_AT_length t, min h.len 0xFFFF)]
    else s
  let isLong := (!fresh && x.longIsCur) || !on s (TIL_SLIP_LONG_valid t) || decide (rd s (TIL_SLIP_LONG_AT_length t) < min h.len 0xFFFF)
  let s := if isLong then
      wrs s [(TIL_SLIP_LONG_pc t, h.pc), (TIL_SLIP_LONG_kind t, h.kind), (TIL_SLIP_LONG_slot t, h.slot),
        (TIL_SLIP_LONG_valid t, 1), (TIL_SLIP_LONG_AT_tick t, h.tick), (TIL_SLIP_LONG_AT_length t, min h.len 0xFFFF)]
    else s
  modTile s t fun y => { y with hold := some h, firstIsCur := isFirst, longIsCur := isLong }

/-- `n` held ticks counted: slips in strict mode, ticks of TIL_GUARD in guarded mode (R236, R237). -/
def countHeld (s : State) (t kind slot n : Nat) : State :=
  let x := tileOf s t
  if on s (TIL_MODE_strict t) then recordSlips s t kind slot n
  else bump (modTile s t fun y => { y with hold := some ((x.hold.map fun h => { h with len := h.len + n }).getD
    ⟨pcOf s t, tickOf s t, n, kind, slot⟩), heldAll := y.heldAll + n }) (TIL_GUARD_held t) n

/-- One held tick: nothing issues, the tick counter advances (R69, R235, R236); with slip_fatal the first held tick of a
hold of any kind but 0xA and 0xB is SLIP_FATAL instead (R238). `stall` counts towards the watchdog (R224). -/
def holdTick (s : State) (t kind slot : Nat) (stall : Bool) : State :=
  let x := tileOf s t
  if on s (TIL_MODE_slip_fatal t) && x.hold.isNone && kind != 0xA && kind != 0xB then progErr s t errSlipFatal slot
  else
    let s := countHeld s t kind slot 1
    let s := wr s (CH_WDOG_stalled t) (if stall then rd s (CH_WDOG_stalled t) + 1 else 0)
    setTick (wr s (TIL_SEQ_STATUS_state t) 3) t (tickOf s t + 1)

/-- Whether the bundle at the tile's pc has been found able to issue as a whole on this tick (R56). -/
def isCleared (s : State) (t : Nat) : Bool := Store.get? s.cleared t == some (pcOf s t, tickOf s t)

/-- The pc of the next bundle lies past the INSTR section (R73). -/
def pcOut (s : State) (t : Nat) : Bool := decide ((tileOf s t).bundles ≤ pcOf s t) || (tileOf s t).pcOver

/-- The issue of a slot operation of the bundle at the tile's pc. A tile that runs no bundle now, or whose domain takes a
bubble, issues nothing (R41). A pc past the INSTR section is PC_RANGE (R73); a reserved encoding is an error (R57); while a
kind of `holds` applies the bundle is held for a tick (R235), unless it has been found able to issue as a whole; else the
operation has its effect. DESIGN CHOICE (log 6). -/
def issueOp (s : State) (t slot : Nat) (badEnc : Bool) (holds : List Nat) (stall : Bool) (body : State → State) : State :=
  if !issuing s t || bubbled s t then s
  else if pcOut s t then progErr s t errPcRange 0
  else if badEnc then progErr s t errReserved slot
  else match (if isCleared s t then [] else holds) with
    | [] => body (wr s (TIL_SEQ_STATUS_state t) 1)
    | k :: r => holdTick s t (minOr k r) slot stall

/-- The slot of an operation is taken by an earlier one (R60). DESIGN CHOICE (log 6); DEDUCED (log 13). -/
def slotHold (x : Tile) (tick slot : Nat) : List Nat := if usesOf x (.slot slot) tick = 0 then [] else [2]

/-- A slot occupied for `n` ticks from the issue tick (R80). -/
def slotUse (slot tick n : Nat) : List PortUse := (rangeFrom tick n).map fun k => ⟨.slot slot, k, 0⟩

/-! ### Errors that a read finds (R171, R179, R182, R183) -/

/-- A correctable error counted where it is found: SPD_ECC of the tile by scratchpad, BDR_STATIC of the tile whose near region
the line lies in, LPD_ECC (R171, R179, R182). -/
def countUpset (s : State) : Upset → State
  | .storage a =>
    match placeOf s a with
    | .window t off =>
      match scratchOf off with
      | some 0 => bump s (SPD_ECC_me_corrected t) 1
      | some 1 => bump s (SPD_ECC_ve_corrected t) 1
      | some _ => bump s (SPD_ECC_aide_corrected t) 1
      | none => bump s (SPD_ECC_array_corrected t) 1
    | .bonded t => bump s (BDR_STATIC_corrected t) 1
    | .lpd => bump s LPD_ECC_corrected 1
    | .nothing => s
  | .array t => bump s (SPD_ECC_array_corrected t) 1
  | .crc line => bump s (BDR_STATIC_crc_resends (512 * line / nearBytes)) 1

/-- The errors that a test names found: corrected, and counted. DESIGN CHOICE (log 56). -/
def findUpsets (s : State) (f : Upset → Bool) : State :=
  if s.upsets.isEmpty then s
  else (s.upsets.filter f).foldl countUpset { s with upsets := s.upsets.filter fun u => !f u }

/-- Whether an error lies in the storage of a span. -/
def Upset.within (a n : Nat) : Upset → Bool
  | .storage b => decide (a ≤ b) && decide (b < a + n)
  | _ => false

/-- The correctable errors that a read of a span finds (R171, R179, R182). -/
def readFinds (s : State) (a n : Nat) : State := findUpsets s (Upset.within a n)

/-! ### The bundle's end -/

/-- The next bundle after the one at `pc` by the active loops (R64): the loops left, the counters, the next pc.
DEDUCED (log 14). -/
def loopNext (lims : Store Nat) (pc : Nat) : List LoopRec → Store Nat → List LoopRec × Store Nat × Nat
  | [], cnts => ([], cnts, pc + 1)
  | l :: r, cnts =>
    if l.stop ≠ pc then (l :: r, cnts, pc + 1)
    else if Store.getD cnts l.c 0 + 1 < Store.getD lims l.c 1 then
      (l :: r, Store.put cnts l.c 0 (Store.getD cnts l.c 0 + 1), l.start)
    else loopNext lims pc r cnts

/-- The bundle's SEQ operation has issued: the next pc is the branch target, or what the loops give; the tile goes on
`cost` ticks later, or is held while it waits for something, the accesses of the next tick's reads running (R64, R80, R207,
R218). `lims` are the limits of this tick: a SETLIM of
the bundle itself takes effect from the next tick on (R64). DESIGN CHOICE (log 6). -/
def endBundle (s : State) (t : Nat) (lims : Store Nat) (target : Option Nat) (cost : Nat) : State :=
  let x := tileOf s t
  let pc := pcOf s t
  let (loops, cnts, seqNext) := loopNext lims pc x.loops x.cnts
  let next := target.getD seqNext
  let s := modTile s t fun y => { y with
    loops := loops, cnts := cnts, hold := none, pcOver := decide (2 ^ 14 ≤ next), stall := (if y.waits.isEmpty then none else y.stall), firstIsCur := false, longIsCur := false }
  let s := wr s (TIL_SEQ_STATUS_pc t) next
  let s := wr s (TIL_SEQ_STATUS_loops_active t) (loops.foldl (fun b l => b ||| 2 ^ l.c) 0)
  let s := wr s (CH_WDOG_stalled t) 0
  if x.waits.isEmpty then setTick (wr s (TIL_SEQ_STATUS_state t) 1) t (tickOf s t + cost)
  else runDue (wr s (TIL_SEQ_STATUS_state t) 2) t (tickOf s t + 1)

/-- The issue of a SEQ operation: as `issueOp` in slot 0, `body` giving the branch target and the ticks it costs.
DESIGN CHOICE (log 6). -/
def issueSeq (s : State) (t : Nat) (badEnc : Bool) (body : State → State × Option Nat × Nat) : State :=
  let x := tileOf s t
  issueOp s t 0 badEnc (slotHold x (tickOf s t) 0) false fun s =>
    let (s, target, cost) := body s
    if issuing s t then endBundle s t x.lims target cost else s

/-- Whether a wait is that of a SWAIT, whose ticks count as stalled (R224). -/
def Wait.stalls : Wait → Bool
  | .swait .. => true
  | _ => false

/-- A wait of a tile has ended; when none is left the tile goes on at `tick` at the earliest, or, behind a HALT, has halted
(R67, R68, R72, R73, R221). DESIGN CHOICE (log 7). -/
def endWait (s : State) (t : Nat) (left : List Wait) (tick : Nat) : State :=
  let s := modTile s t fun x => { x with waits := left, stall := if left.any Wait.stalls then x.stall else none }
  let s := setTick s t (max (tickOf s t) tick)
  let s := if left.any Wait.stalls then s else wr s (CH_WDOG_stalled t) 0
  if left.isEmpty then
    match (tileOf s t).haltTick with
    | some k => wr (modTile s t fun x => { x with haltTick := some (max k (tickOf s t)) }) (TIL_SEQ_STATUS_state t) 4
    | none => wr s (TIL_SEQ_STATUS_state t) 1
  else s

/-- A result of a halted tile that has no fixed tick is delivered now: completion is no earlier (R73). -/
def noteDelivered (s : State) (t : Nat) : State :=
  if seqState s t == 4 then modTile s t fun x => { x with haltTick := x.haltTick.map fun k => max k (nowTick s t) } else s

end Sys2Proof.Machine
end

