-- ==== Sys2Proof/Machine/Aide.lean ====
section
/-! DEFINITION. The aide cores: arithmetic, shifts, compares, selects, loads and stores, gather and scatter, request
decoding, hashing, predicates, routing sends and the issue of locker operations (06_vector_engine_and_aides.md, R157 to
R163). -/

namespace Sys2Proof.Machine

/-! ### Encodings -/

/-- Which fields an aide instruction reads; a field it does not read must be zero (R57, R158). -/
structure AidUse where
  rd : Bool := true
  rs1 : Bool := true
  rs2 : Bool := true
  immBits : Nat := 0
  rdPred : Bool := false
  rs1Pred : Bool := false
  rs2Pred : Bool := false

/-- Whether an aide instruction's encoding is reserved (R158). -/
def aidBad (u : AidUse) (a : AidOp) : Bool :=
  (a.pred == 0 && a.pneg) || (!u.rd && a.rd != 0) || (!u.rs1 && a.rs1 != 0) || (!u.rs2 && a.rs2 != 0)
    || decide (2 ^ u.immBits ≤ a.imm.toNat)
    || (u.rdPred && (a.rd == 0 || decide (8 ≤ a.rd.toNat)))
    || (u.rs1Pred && decide (8 ≤ a.rs1.toNat)) || (u.rs2Pred && decide (8 ≤ a.rs2.toNat))

/-- The aides that run an instruction (R158). DEDUCED (log 49). -/
def aidesRun (x : Tile) (a : AidOp) : List Nat :=
  (List.range 16).filter fun i => x.pred i a.pred.toNat != a.pneg

/-- What an instruction reads or writes of registers and predicates, for the guard (R162). -/
def aidRes (u : AidUse) (a : AidOp) : List Res :=
  (if a.pred = 0 then [] else [.pred a.pred.toNat])
    ++ (if u.rd then (if u.rdPred then [.pred a.rd.toNat] else if a.rd = 0 then [] else [.reg a.rd.toNat]) else [])
    ++ (if u.rs1 then (if u.rs1Pred then [.pred a.rs1.toNat] else if a.rs1 = 0 then [] else [.reg a.rs1.toNat]) else [])
    ++ (if u.rs2 then (if u.rs2Pred then [.pred a.rs2.toNat] else if a.rs2 = 0 then [] else [.reg a.rs2.toNat]) else [])

/-- An aide program error with its detail, the first after kickoff kept (R160, R164). -/
def aidErr (s : State) (t cause code aide op : Nat) : State :=
  let s := if rd s (AID_ERR_INFO_cause t) = 0 then
      wrs s [(AID_ERR_INFO_cause t, cause), (AID_ERR_INFO_pc t, pcOf s t), (AID_ERR_INFO_aide t, aide),
        (AID_ERR_INFO_op t, op)]
    else s
  progErr s t code 3

/-- An instruction that writes a register of every aide that runs it, present `lat` ticks after issue (R80, R159). -/
def aidAlu (a : AidOp) (u : AidUse) (lat : Nat) (extra : List Res) (f : Tile → Nat → Nat) (s : State) : State :=
  let x := tileOf s a.t
  let tick := tickOf s a.t
  issueOp s a.t 3 (aidBad u a) (slotHold x tick 3 ++ flightKinds x tick (aidRes u a ++ extra)) false fun s =>
    modTile s a.t fun y =>
      let z := (aidesRun y a).foldl (fun z i => z.setReg i a.rd.toNat (f y i)) y
      (if a.rd = 0 then z else z.mark [⟨.reg a.rd.toNat, 3, tick, tick + lat, tick + lat, false, 1⟩]).use (slotUse 3 tick 1)

/-- An instruction that writes a predicate of every aide that runs it (R158, R159). -/
def aidPred (a : AidOp) (u : AidUse) (f : Tile → Nat → Bool) (s : State) : State :=
  let x := tileOf s a.t
  let tick := tickOf s a.t
  issueOp s a.t 3 (aidBad u a) (slotHold x tick 3 ++ flightKinds x tick (aidRes u a)) false fun s =>
    modTile s a.t fun y =>
      let z := (aidesRun y a).foldl (fun z i => z.setPred i a.rd.toNat (f y i)) y
      z.use (slotUse 3 tick 1)

/-- The values of rs1 and rs2 on an aide. -/
def Tile.v1 (x : Tile) (a : AidOp) (i : Nat) : Nat := x.reg i a.rs1.toNat
def Tile.v2 (x : Tile) (a : AidOp) (i : Nat) : Nat := x.reg i a.rs2.toNat

/-- A 64-bit number as signed. -/
def s64 (v : Nat) : Int := signed 64 v

/-- The carry-less product of two numbers, `n` bits of the second. -/
def clmulAux (x y : Nat) : Nat → Nat
  | 0 => 0
  | n + 1 => clmulAux x y n ^^^ (if bitOf y n then x * 2 ^ n else 0)

/-- A rotation of a 64-bit number to the left. -/
def rotl64 (v n : Nat) : Nat := (v * 2 ^ (n % 64) ||| v / 2 ^ (64 - n % 64)) % 2 ^ 64

/-- The hash H of R159. -/
def hashH (v : Nat) : Nat :=
  let v := v ^^^ v / 2 ^ 31
  let v := v * 0x9E6D5A3BC41728F5 % 2 ^ 64
  let v := v ^^^ v / 2 ^ 29
  let v := v * 0xD2B74407B1CE6E93 % 2 ^ 64
  v ^^^ v / 2 ^ 32

/-- A shift amount: x[rs2] plus the zero-extended immediate, modulo 64 (R158). -/
def shAmt (x : Tile) (a : AidOp) (i : Nat) : Nat := (x.v2 a i + a.imm.toNat) % 64

def use3 : AidUse := {}
def useImm : AidUse := { rs2 := false, immBits := 32 }
def useSh : AidUse := { immBits := 32 }

/-! ### Integer and logic, multiply, shifts, compares, selects (R159) -/

def opAdd (a : AidOp) (s : State) : Host.Outcome State Fault Refusal :=
  .next (aidAlu a use3 1 [] (fun x i => add64 (x.v1 a i) (x.v2 a i)) s)
def opSub (a : AidOp) (s : State) : Host.Outcome State Fault Refusal :=
  .next (aidAlu a use3 1 [] (fun x i => (x.v1 a i + (2 ^ 64 - x.v2 a i)) % 2 ^ 64) s)
def opAnd (a : AidOp) (s : State) : Host.Outcome State Fault Refusal :=
  .next (aidAlu a use3 1 [] (fun x i => x.v1 a i &&& x.v2 a i) s)
def opOr (a : AidOp) (s : State) : Host.Outcome State Fault Refusal :=
  .next (aidAlu a use3 1 [] (fun x i => x.v1 a i ||| x.v2 a i) s)
def opXor (a : AidOp) (s : State) : Host.Outcome State Fault Refusal :=
  .next (aidAlu a use3 1 [] (fun x i => x.v1 a i ^^^ x.v2 a i) s)
def opAddi (a : AidOp) (s : State) : Host.Outcome State Fault Refusal :=
  .next (aidAlu a useImm 1 [] (fun x i => add64 (x.v1 a i) (immS a.imm)) s)
def opAndi (a : AidOp) (s : State) : Host.Outcome State Fault Refusal :=
  .next (aidAlu a useImm 1 [] (fun x i => x.v1 a i &&& a.imm.toNat) s)
def opOri (a : AidOp) (s : State) : Host.Outcome State Fault Refusal :=
  .next (aidAlu a useImm 1 [] (fun x i => x.v1 a i ||| a.imm.toNat) s)
def opXori (a : AidOp) (s : State) : Host.Outcome State Fault Refusal :=
  .next (aidAlu a useImm 1 [] (fun x i => x.v1 a i ^^^ a.imm.toNat) s)
/-- LIH: rd ← (z << 32) OR rs1[31:0]. -/
def opLih (a : AidOp) (s : State) : Host.Outcome State Fault Refusal :=
  .next (aidAlu a useImm 1 [] (fun x i => a.imm.toNat * 2 ^ 32 + x.v1 a i % 2 ^ 32) s)
def opMin (a : AidOp) (s : State) : Host.Outcome State Fault Refusal :=
  .next (aidAlu a use3 1 [] (fun x i => if s64 (x.v2 a i) < s64 (x.v1 a i) then x.v2 a i else x.v1 a i) s)
def opMax (a : AidOp) (s : State) : Host.Outcome State Fault Refusal :=
  .next (aidAlu a use3 1 [] (fun x i => if s64 (x.v1 a i) < s64 (x.v2 a i) then x.v2 a i else x.v1 a i) s)
def opMinu (a : AidOp) (s : State) : Host.Outcome State Fault Refusal :=
  .next (aidAlu a use3 1 [] (fun x i => min (x.v1 a i) (x.v2 a i)) s)
def opMaxu (a : AidOp) (s : State) : Host.Outcome State Fault Refusal :=
  .next (aidAlu a use3 1 [] (fun x i => max (x.v1 a i) (x.v2 a i)) s)
/-- AIDX: rd ← the logical aide number. -/
def opAidx (a : AidOp) (s : State) : Host.Outcome State Fault Refusal :=
  .next (aidAlu a { rs1 := false, rs2 := false } 1 [] (fun _ i => i) s)
def opMul (a : AidOp) (s : State) : Host.Outcome State Fault Refusal :=
  .next (aidAlu a use3 3 [] (fun x i => x.v1 a i * x.v2 a i % 2 ^ 64) s)
def opMulhu (a : AidOp) (s : State) : Host.Outcome State Fault Refusal :=
  .next (aidAlu a use3 3 [] (fun x i => x.v1 a i * x.v2 a i / 2 ^ 64) s)
def opMulhs (a : AidOp) (s : State) : Host.Outcome State Fault Refusal :=
  .next (aidAlu a use3 3 [] (fun x i => unsigned 64 (s64 (x.v1 a i) * s64 (x.v2 a i) / 2 ^ 64)) s)
/-- CLMUL: rd ← the low 64 bits of the carry-less product. -/
def opClmul (a : AidOp) (s : State) : Host.Outcome State Fault Refusal :=
  .next (aidAlu a use3 3 [] (fun x i => clmulAux (x.v1 a i) (x.v2 a i) 64 % 2 ^ 64) s)
def opMuli (a : AidOp) (s : State) : Host.Outcome State Fault Refusal :=
  .next (aidAlu a useImm 3 [] (fun x i => x.v1 a i * immS a.imm % 2 ^ 64) s)
def opSll (a : AidOp) (s : State) : Host.Outcome State Fault Refusal :=
  .next (aidAlu a useSh 1 [] (fun x i => x.v1 a i * 2 ^ shAmt x a i % 2 ^ 64) s)
def opSrl (a : AidOp) (s : State) : Host.Outcome State Fault Refusal :=
  .next (aidAlu a useSh 1 [] (fun x i => x.v1 a i / 2 ^ shAmt x a i) s)
def opSra (a : AidOp) (s : State) : Host.Outcome State Fault Refusal :=
  .next (aidAlu a useSh 1 [] (fun x i => unsigned 64 (s64 (x.v1 a i) / 2 ^ shAmt x a i)) s)
def opRotr (a : AidOp) (s : State) : Host.Outcome State Fault Refusal :=
  .next (aidAlu a useSh 1 [] (fun x i => rotl64 (x.v1 a i) (64 - shAmt x a i)) s)
/-- SEL: rd ← p[imm[2:0]] ? rs1 : rs2. -/
def opSel (a : AidOp) (s : State) : Host.Outcome State Fault Refusal :=
  .next (aidAlu a { immBits := 3 } 1 (if a.imm.toNat % 8 = 0 then [] else [.pred (a.imm.toNat % 8)])
    (fun x i => if x.pred i (a.imm.toNat % 8) then x.v1 a i else x.v2 a i) s)
def opSlt (a : AidOp) (s : State) : Host.Outcome State Fault Refusal :=
  .next (aidAlu a use3 1 [] (fun x i => b2n (decide (s64 (x.v1 a i) < s64 (x.v2 a i)))) s)
def opSltu (a : AidOp) (s : State) : Host.Outcome State Fault Refusal :=
  .next (aidAlu a use3 1 [] (fun x i => b2n (decide (x.v1 a i < x.v2 a i))) s)
/-- EXT: rd ← (rs1 >> imm[5:0]) AND (2^(imm[11:6] + 1) − 1). -/
def opExt (a : AidOp) (s : State) : Host.Outcome State Fault Refusal :=
  .next (aidAlu a { rs2 := false, immBits := 12 } 1 []
    (fun x i => bitsOf (x.v1 a i) (a.imm.toNat % 64) (a.imm.toNat / 64 % 64 + 1)) s)
/-- HASH: rd ← H(rs1 XOR rotl(rs2, 29) XOR z). -/
def opHash (a : AidOp) (s : State) : Host.Outcome State Fault Refusal :=
  .next (aidAlu a useSh 6 [] (fun x i => hashH (x.v1 a i ^^^ rotl64 (x.v2 a i) 29 ^^^ a.imm.toNat)) s)

/-! ### Predicates (R158, R159) -/

def usePred : AidUse := { rdPred := true }
def usePredI : AidUse := { rdPred := true, rs2 := false, immBits := 32 }
def usePred2 : AidUse := { rdPred := true, rs1Pred := true, rs2Pred := true }
def usePred1 : AidUse := { rdPred := true, rs1Pred := true, rs2 := false }

def opPeq (a : AidOp) (s : State) : Host.Outcome State Fault Refusal :=
  .next (aidPred a usePred (fun x i => x.v1 a i == x.v2 a i) s)
def opPne (a : AidOp) (s : State) : Host.Outcome State Fault Refusal :=
  .next (aidPred a usePred (fun x i => x.v1 a i != x.v2 a i) s)
def opPlt (a : AidOp) (s : State) : Host.Outcome State Fault Refusal :=
  .next (aidPred a usePred (fun x i => decide (s64 (x.v1 a i) < s64 (x.v2 a i))) s)
def opPltu (a : AidOp) (s : State) : Host.Outcome State Fault Refusal :=
  .next (aidPred a usePred (fun x i => decide (x.v1 a i < x.v2 a i)) s)
def opPge (a : AidOp) (s : State) : Host.Outcome State Fault Refusal :=
  .next (aidPred a usePred (fun x i => decide (s64 (x.v2 a i) ≤ s64 (x.v1 a i))) s)
def opPgeu (a : AidOp) (s : State) : Host.Outcome State Fault Refusal :=
  .next (aidPred a usePred (fun x i => decide (x.v2 a i ≤ x.v1 a i)) s)
def opPeqi (a : AidOp) (s : State) : Host.Outcome State Fault Refusal :=
  .next (aidPred a usePredI (fun x i => x.v1 a i == immS a.imm) s)
/-- PLTI: signed, as PLT. -/
def opPlti (a : AidOp) (s : State) : Host.Outcome State Fault Refusal :=
  .next (aidPred a usePredI (fun x i => decide (s64 (x.v1 a i) < s64 (immS a.imm))) s)
def opPand (a : AidOp) (s : State) : Host.Outcome State Fault Refusal :=
  .next (aidPred a usePred2 (fun x i => x.pred i a.rs1.toNat && x.pred i a.rs2.toNat) s)
def opPor (a : AidOp) (s : State) : Host.Outcome State Fault Refusal :=
  .next (aidPred a usePred2 (fun x i => x.pred i a.rs1.toNat || x.pred i a.rs2.toNat) s)
def opPxor (a : AidOp) (s : State) : Host.Outcome State Fault Refusal :=
  .next (aidPred a usePred2 (fun x i => x.pred i a.rs1.toNat != x.pred i a.rs2.toNat) s)
/-- PANY: OR of the source predicate over all 16 aides, those that do not run included. -/
def opPany (a : AidOp) (s : State) : Host.Outcome State Fault Refusal :=
  .next (aidPred a usePred1 (fun x _ => (List.range 16).any fun i => x.pred i a.rs1.toNat) s)
/-- PALL: AND of the source predicate over all 16 aides. -/
def opPall (a : AidOp) (s : State) : Host.Outcome State Fault Refusal :=
  .next (aidPred a usePred1 (fun x _ => (List.range 16).all fun i => x.pred i a.rs1.toNat) s)

/-! ### Memory (R160) -/

/-- The scratchpad of logical aide `i` of a tile as module addresses (R20). -/
def aideBase (t i : Nat) : Nat := windowOf t + 0x400000 + i * 0x40000

/-- What an aide access of `n` bytes reaches: a module address, or the cause of its range violation (0x1 outside, 0x2
misaligned) (R160): an address that lies in the scratchpad and is misaligned is 0x2 (R164). -/
def ownAccess (t i off n : Nat) : Nat ⊕ Nat :=
  if 0x40000 ≤ off then .inr 1 else if off % n ≠ 0 then .inr 2 else .inl (aideBase t i + off)

/-- As `ownAccess` for a gather or scatter: an offset in the tile's window that falls in a scratchpad (R160). -/
def tileAccess (t _i off n : Nat) : Nat ⊕ Nat :=
  if 0x1000000 ≤ off ∨ (scratchOf off).isNone then .inr 1
  else if off % n ≠ 0 then .inr 2 else .inl (windowOf t + off)

/-- The accesses of the aides that run, in aide order: aide, and its address or cause. -/
def aidAccesses (x : Tile) (a : AidOp) (n : Nat) (acc : Nat → Nat → Nat → Nat → Nat ⊕ Nat) :
    List (Nat × (Nat ⊕ Nat)) :=
  (aidesRun x a).map fun i => (i, acc a.t i (add64 (x.v1 a i) (immS a.imm)) n)

/-- The first access at fault: aide and cause. -/
def firstBad (l : List (Nat × (Nat ⊕ Nat))) : Option (Nat × Nat) :=
  l.findSome? fun p => match p.2 with
    | .inr c => some (p.1, c)
    | .inl _ => none

/-- The good accesses: aide and module address. -/
def goodOnes (l : List (Nat × (Nat ⊕ Nat))) : List (Nat × Nat) :=
  l.filterMap fun p => match p.2 with
    | .inl a => some (p.1, a)
    | .inr _ => none

/-- A load or gather of `n` bytes per aide, read on tick +1 and present `lat` ticks after issue (R80, R160, R168). -/
def aidLoad (a : AidOp) (op n lat : Nat) (sext : Bool) (acc : Nat → Nat → Nat → Nat → Nat ⊕ Nat) (s : State) : State :=
  let u : AidUse := { rs2 := false, immBits := 32 }
  let x := tileOf s a.t
  let tick := tickOf s a.t
  let l := aidAccesses x a n acc
  let spans := (goodOnes l).map fun p => Res.bytes p.2 n
  issueOp s a.t 3 (aidBad u a) (slotHold x tick 3 ++ flightKinds x tick (aidRes u a ++ spans)) false fun s =>
    match firstBad l with
    | some (i, c) => aidErr s a.t c errRange i op
    | none =>
      modTile ((goodOnes l).foldl (fun s p => readFinds s p.2 n) s) a.t fun y =>
        let z := y.schedAll ((goodOnes l).map fun p => ⟨tick + 1, false, 3, .aideRead p.1 a.rd.toNat p.2 n sext, tick⟩)
        (if a.rd = 0 then z else z.mark [⟨.reg a.rd.toNat, 3, tick, tick + lat, tick + lat, false, 1⟩]).use (slotUse 3 tick 1)

/-- A store or scatter of `n` bytes per aide, written on tick +1 and visible `lat` ticks after issue; of two aides on one
byte the higher is kept (R80, R160, R168). -/
def aidStore (a : AidOp) (op n lat : Nat) (acc : Nat → Nat → Nat → Nat → Nat ⊕ Nat) (s : State) : State :=
  let u : AidUse := { rd := false, immBits := 32 }
  let x := tileOf s a.t
  let tick := tickOf s a.t
  let l := aidAccesses x a n acc
  let spans := (goodOnes l).map fun p => Res.bytes p.2 n
  issueOp s a.t 3 (aidBad u a) (slotHold x tick 3 ++ flightKinds x tick (aidRes u a ++ spans)) false fun s =>
    match firstBad l with
    | some (i, c) => aidErr s a.t c errRange i op
    | none =>
      modTile s a.t fun y =>
        ((y.schedAll ((goodOnes l).map fun p => ⟨tick + 1, true, 3, .write p.2 (plain (toLE n (y.v2 a p.1))), tick⟩)).mark
          (spans.eraseDups.map fun k => ⟨k, 3, tick, tick + lat, tick + lat, false, 1⟩)).use (slotUse 3 tick 1)

def opLd8 (a : AidOp) (s : State) : Host.Outcome State Fault Refusal := .next (aidLoad a 0x20 1 4 false ownAccess s)
def opLd16 (a : AidOp) (s : State) : Host.Outcome State Fault Refusal := .next (aidLoad a 0x21 2 4 false ownAccess s)
def opLd32 (a : AidOp) (s : State) : Host.Outcome State Fault Refusal := .next (aidLoad a 0x22 4 4 false ownAccess s)
def opLd64 (a : AidOp) (s : State) : Host.Outcome State Fault Refusal := .next (aidLoad a 0x23 8 4 false ownAccess s)
def opLd8s (a : AidOp) (s : State) : Host.Outcome State Fault Refusal := .next (aidLoad a 0x24 1 4 true ownAccess s)
def opLd16s (a : AidOp) (s : State) : Host.Outcome State Fault Refusal := .next (aidLoad a 0x25 2 4 true ownAccess s)
def opLd32s (a : AidOp) (s : State) : Host.Outcome State Fault Refusal := .next (aidLoad a 0x26 4 4 true ownAccess s)
def opSt8 (a : AidOp) (s : State) : Host.Outcome State Fault Refusal := .next (aidStore a 0x28 1 2 ownAccess s)
def opSt16 (a : AidOp) (s : State) : Host.Outcome State Fault Refusal := .next (aidStore a 0x29 2 2 ownAccess s)
def opSt32 (a : AidOp) (s : State) : Host.Outcome State Fault Refusal := .next (aidStore a 0x2A 4 2 ownAccess s)
def opSt64 (a : AidOp) (s : State) : Host.Outcome State Fault Refusal := .next (aidStore a 0x2B 8 2 ownAccess s)
def opGld32 (a : AidOp) (s : State) : Host.Outcome State Fault Refusal := .next (aidLoad a 0x30 4 6 false tileAccess s)
def opGld64 (a : AidOp) (s : State) : Host.Outcome State Fault Refusal := .next (aidLoad a 0x31 8 6 false tileAccess s)
def opGst32 (a : AidOp) (s : State) : Host.Outcome State Fault Refusal := .next (aidStore a 0x32 4 6 tileAccess s)
def opGst64 (a : AidOp) (s : State) : Host.Outcome State Fault Refusal := .next (aidStore a 0x33 8 6 tileAccess s)

/-! ### Request records (R159, R291) -/

/-- The fields of the request form of a tile's job; none without a FORM section. -/
def formFields (s : State) (t : Nat) : Nat := (((jobRec s t).bind (·.form)).map fun f => f.fields.length).getD 0

/-- DECF and DECA: `off` and `n` give the bytes of the record read, `val` the result; a field number beyond the form is
FORM_FIELD on the lowest aide that runs (R159). -/
def aidDecode (a : AidOp) (op off n : Nat) (val : Nat → Nat) (s : State) : State :=
  let u : AidUse := { rs2 := false, immBits := 8 }
  let x := tileOf s a.t
  let tick := tickOf s a.t
  let run := aidesRun x a
  let l := run.map fun i => (i, ownAccess a.t i (x.v1 a i + off) n)
  let spans := (goodOnes l).map fun p => Res.bytes p.2 n
  issueOp s a.t 3 (aidBad u a) (slotHold x tick 3 ++ flightKinds x tick (aidRes u a ++ spans)) false fun s =>
    match run.head? with
    | none => modTile s a.t fun y => y.use (slotUse 3 tick 1)
    | some i0 =>
      if formFields s a.t ≤ a.imm.toNat then aidErr s a.t 4 errFormField i0 op
      else match firstBad l with
        | some (i, c) => aidErr s a.t c errRange i op
        | none =>
          let vals := (goodOnes l).map fun p => (p.1, val (leNat (readBytes s p.2 n)))
          modTile ((goodOnes l).foldl (fun s p => readFinds s p.2 n) s) a.t fun y =>
            let z := vals.foldl (fun z p => z.setReg p.1 a.rd.toNat p.2) y
            (if a.rd = 0 then z else z.mark [⟨.reg a.rd.toNat, 3, tick, tick + 6, tick + 6, false, 1⟩]).use (slotUse 3 tick 1)

/-- DECF: the 8 bytes the record at rs1 holds for field imm[7:0]. -/
def opDecf (a : AidOp) (s : State) : Host.Outcome State Fault Refusal :=
  .next (aidDecode a 0x40 (0x20 + 8 * a.imm.toNat) 8 id s)

/-- DECA: the presence bit of that field as stored. -/
def opDeca (a : AidOp) (s : State) : Host.Outcome State Fault Refusal :=
  .next (aidDecode a 0x41 0x18 4 (fun v => b2n (bitOf v a.imm.toNat)) s)

/-! ### Routing sends and locker operations (R134, R159, R161) -/

/-- ROUTE: each aide that runs sends rs1[31:0] to the seating plan unit, aide 0 first. -/
def opRoute (a : AidOp) (s : State) : Host.Outcome State Fault Refusal :=
  let u : AidUse := { rd := false, rs2 := false }
  let x := tileOf s a.t
  let tick := tickOf s a.t
  .next <| issueOp s a.t 3 (aidBad u a) (slotHold x tick 3 ++ flightKinds x tick (aidRes u a)) false fun s =>
    let run := aidesRun x a
    let s := modTile s a.t fun y => { y.use (slotUse 3 tick 1) with aidOut := y.aidOut + run.length, newAid := run.length }
    run.foldl (fun s i => sendItem s ⟨.route (x.v1 a i % 2 ^ 32), a.t, 0xFFF, jobOfTile s a.t, epochOfTile s a.t, s.now⟩) s

/-- The bytes of a locker of a partition's store (R184). -/
def lockerBytes (s : State) (q : Nat) : Nat := 32 * rd s (LPD_LKS_SHAPE_locker_units q)

/-- The bytes of an event of a partition's store (R184). -/
def eventBytes (s : State) (q : Nat) : Nat := 32 * rd s (LPD_LKS_SHAPE_event_units q)

/-- The module address of a locker (R185). -/
def lockerAddr (s : State) (q m : Nat) : Nat := rd s (LPD_LKS_BASE_base q) + m * lockerBytes s q

/-- The physical stack that holds an LPDDR6 address (R22, R181). -/
def physStack (s : State) (a : Nat) : Nat :=
  let k := (a - lpdBase) / 4096 % s.part.stacks
  (Store.get? s.stackMap k).getD k

/-- The home hub of a locker (R14, R187). -/
def homeHub (s : State) (q m : Nat) : Nat := physStack s (lockerAddr s q m) % 4

/-- Why a locker operation of one aide is refused: the cause of AID_ERR_INFO and the error (R161). -/
def lockerFault (s : State) (t locker addr span ctr : Nat) : Option (Nat × Nat) :=
  let q := tilePart s t
  if !on s (LPD_LKS_SHAPE_valid q) || decide (rd s (LPD_LKS_COUNT_count q) ≤ locker) then some (3, errLockerRange)
  else if !ctrOk s t ctr then some (5, errRange)
  else
    let near := decide (nearBase t ≤ addr) && decide (addr + span ≤ nearBase (t + 1))
    let own := match scratchSpan s addr span with
      | some (u, _) => u == t
      | none => false
    if !(near || own) || !tileSpanOk s t addr span then some (1, errRange)
    else if addr % 32 ≠ 0 then some (2, errRange)
    else none

/-- What the guard tracks of the tile's own window that a locker operation of the aides reads (R161, R162, R235). -/
def lockerSpans (s : State) (x : Tile) (a : AidOp) (k : LkKind) : List Res :=
  match k with
  | .fetch => []
  | .store => (aidesRun x a).flatMap fun i => spanOf (x.v2 a i) (lockerBytes s (tilePart s a.t))
  | .append => (aidesRun x a).flatMap fun i => spanOf (x.v2 a i) (eventBytes s (tilePart s a.t))

/-- A locker operation put to the home hubs by every aide that runs it, in aide order (R161, R187). DEDUCED (log 49). -/
def aidLocker (a : AidOp) (op : Nat) (k : LkKind) (s : State) : State :=
  let u : AidUse := { rd := false, immBits := 16 }
  let t := a.t
  let x := tileOf s t
  let tick := tickOf s t
  issueOp s t 3 (aidBad u a) (slotHold x tick 3 ++ flightKinds x tick (aidRes u a ++ lockerSpans s x a k)) false fun s =>
    let q := tilePart s t
    let run := aidesRun x a
    let span := match k with
      | .append => eventBytes s q
      | _ => lockerBytes s q
    match run.findSome? (fun i => (lockerFault s t (x.v1 a i) (x.v2 a i) span a.imm.toNat).map fun f => (i, f)) with
    | some (i, c, e) => aidErr s t c e i op
    | none =>
      let s1 := modTile s t fun y => { y.use (slotUse 3 tick 1) with aidOut := y.aidOut + run.length, newAid := run.length }
      run.foldl (fun s i =>
        let o : LockerOp := ⟨k, t, i, pcOf s t, q, x.v1 a i, x.v2 a i, a.imm.toNat, jobOfTile s t, epochOfTile s t,
          (tileOf s t).lkIssued⟩
        let h := homeHub s q o.locker
        let s := modTile s t fun y => { y with lkIssued := y.lkIssued + 1 }
        { s with lockerQ := Store.set s.lockerQ h (Store.getD s.lockerQ h [] ++ [o]) }) s1

/-- LKFETCH: locker rs1 to address rs2, in logical order. -/
def opLkfetch (a : AidOp) (s : State) : Host.Outcome State Fault Refusal := .next (aidLocker a 0x38 .fetch s)

/-- LKSTORE: address rs2 to locker rs1. -/
def opLkstore (a : AidOp) (s : State) : Host.Outcome State Fault Refusal := .next (aidLocker a 0x39 .store s)

/-- LKAPPEND: one event from address rs2 appended to locker rs1. -/
def opLkappend (a : AidOp) (s : State) : Host.Outcome State Fault Refusal := .next (aidLocker a 0x3A .append s)

end Sys2Proof.Machine
end

