-- ==== Sys2Proof/Machine/Sequencer.lean ====
section
/-! DEFINITION. The sequencer slot (03_snielo_instruction_set.md, R56, R63 to R73, R80; 13, R334). -/

namespace Sys2Proof.Machine

/-- NOP: nothing for one tick; in slot 0 it ends its bundle (R56). -/
def opNop (t slot : Nat) (s : State) : Host.Outcome State Fault Refusal :=
  .next (if slot = 0 then issueSeq s t false fun s => (s, none, 1) else issueOp s t slot false [] false id)

/-- SETLIM: the limit of a loop counter, for bundles from the next tick on (R64). DEDUCED (log 14). -/
def opSetlim (t : Nat) (c : BitVec 3) (limit : BitVec 20) (s : State) : Host.Outcome State Fault Refusal :=
  .next <| issueSeq s t false fun s =>
    (modTile s t fun x => { x with lims := Store.put x.lims c.toNat 1 (count limit) }, none, 1)

/-- LOOP: arms a counter with 0 over the bundles from pc + 1 to end_pc (R64). -/
def opLoop (t : Nat) (c : BitVec 3) (endPc : BitVec 14) (s : State) : Host.Outcome State Fault Refusal :=
  .next <| issueSeq s t false fun s =>
    let pc := pcOf s t
    (modTile s t fun x => { x with
      cnts := Store.erase x.cnts c.toNat
      loops := ⟨c.toNat, pc + 1, endPc.toNat⟩ :: x.loops.filter fun l => l.c != c.toNat }, none, 1)

/-- JUMP: a forward target at a cost of three ticks (R63, R80). -/
def opJump (t : Nat) (target : BitVec 14) (s : State) : Host.Outcome State Fault Refusal :=
  .next <| issueSeq s t false fun s => (s, some target.toNat, 3)

/-- Whether a comparator's condition holds now (R63 cond, R66). -/
def cmpHolds (x : Tile) (k : Nat) : Bool :=
  let c := Store.getD x.cmps k ⟨0, 0, 0⟩
  let v := cntOf x c.c
  match c.cond with
  | 0 => v == c.imm
  | 1 => v != c.imm
  | 2 => decide (v < c.imm)
  | _ => decide (c.imm ≤ v)

/-- BRC: a branch on a comparator's value now; taken it costs three ticks, not taken one (R63, R66, R80). -/
def opBrc (t : Nat) (k : BitVec 2) (sense : Bool) (target : BitVec 14) (s : State) : Host.Outcome State Fault Refusal :=
  .next <| issueSeq s t false fun s =>
    if cmpHolds (tileOf s t) k.toNat != sense then (s, some target.toNat, 3) else (s, none, 1)

/-- SETCMP: a comparator set, from the next tick on (R66). -/
def opSetcmp (t : Nat) (k : BitVec 2) (c : BitVec 3) (cond : BitVec 2) (imm : BitVec 16) (s : State) :
    Host.Outcome State Fault Refusal :=
  .next <| issueSeq s t false fun s =>
    (modTile s t fun x => { x with cmps := Store.set x.cmps k.toNat ⟨c.toNat, cond.toNat, imm.toNat⟩ }, none, 1)

/-- The period a job is bound to: its partition and the binding (R266). -/
def periodOfJob (s : State) (j : Nat) : Option (Nat × Period) :=
  s.periods.find? fun p => p.2.job == j && p.2.closing.isNone

/-- The lateness of a WAITBELL whose bell has acted: one record of kind 0xA of that length in strict mode, ticks of
TIL_GUARD in guarded mode (R67, R236). -/
def recordLate (s : State) (t first len : Nat) : State :=
  if len = 0 then s
  else if on s (TIL_MODE_strict t) then
    let s := modTile s t fun y => { y with heldAll := y.heldAll + len, recsAll := y.recsAll + 1 }
    let s := bump (bump s (TIL_SLIP_slips t) len) (TIL_SLIP_records t) 1
    let n := min len 0xFFFF
    let s := if on s (TIL_SLIP_FIRST_valid t) then s else
      raise (wrs s [(TIL_SLIP_FIRST_pc t, pcOf s t), (TIL_SLIP_FIRST_kind t, 0xA), (TIL_SLIP_FIRST_slot t, 0),
        (TIL_SLIP_FIRST_valid t, 1), (TIL_SLIP_FIRST_AT_tick t, first), (TIL_SLIP_FIRST_AT_length t, n)])
        (TIL_CAUSE_cause t) 2
    if on s (TIL_SLIP_LONG_valid t) && decide (n ≤ rd s (TIL_SLIP_LONG_AT_length t)) then s else
      wrs s [(TIL_SLIP_LONG_pc t, pcOf s t), (TIL_SLIP_LONG_kind t, 0xA), (TIL_SLIP_LONG_slot t, 0),
        (TIL_SLIP_LONG_valid t, 1), (TIL_SLIP_LONG_AT_tick t, first), (TIL_SLIP_LONG_AT_length t, n)]
  else bump (modTile s t fun y => { y with heldAll := y.heldAll + len }) (TIL_GUARD_held t) len

/-- WAITBELL: holds the sequencer until the mark bell acts; a bell that has acted already costs one tick and is recorded
as lateness; no such mark is BELL_UNBOUND (R67). -/
def opWaitbell (t : Nat) (mark : BitVec 4) (s : State) : Host.Outcome State Fault Refusal :=
  let m := mark.toNat
  .next <| issueSeq s t false fun s =>
    match periodOfJob s (jobOfTile s t), jobRec s t with
    | some (_, p), some j =>
      if j.marks.length ≤ m then (progErr s t errBellUnbound 0, none, 1)
      else match p.acted.find? (·.1 == m) with
        | some (_, g) =>
          let first := localTick (tileOf s t) g
          (recordLate s t first (tickOf s t - first), none, 1)
        | none => (modTile s t fun x => { x with waits := .bell m (tickOf s t) :: x.waits }, none, 1)
    | _, _ => (progErr s t errBellUnbound 0, none, 1)

/-- WAITTICK: the next bundle issues on the later of the tick named and the next tick (R68). -/
def opWaittick (t : Nat) (tick : BitVec 26) (s : State) : Host.Outcome State Fault Refusal :=
  .next <| issueSeq s t false fun s =>
    if tick.toNat ≤ tickOf s t + 1 then (s, none, 1)
    else (modTile s t fun x => { x with waits := .tick tick.toNat :: x.waits }, none, 1)

/-- WAITTICK_RELEASE: the tile's ticks have passed up to its target (R68). DESIGN CHOICE (log 7). -/
def execWaittickRelease (t : Nat) (s : State) : Host.Outcome State Fault Refusal :=
  let x := tileOf s t
  .next <| match x.waits.find? (fun w => match w with | .tick _ => true | _ => false) with
    | some (.tick k) =>
      if seqState s t = 2 then
        endWait s t (x.waits.filter fun w => match w with | .tick _ => false | _ => true) k
      else s
    | _ => s

/-- HINT: a load phase announced: it begins `lead` windows after this one and lasts `length` windows (R70). -/
def opHint (t : Nat) (level : BitVec 4) (lead : BitVec 6) (length : BitVec 10) (s : State) :
    Host.Outcome State Fault Refusal :=
  .next <| issueSeq s t false fun s =>
    (modTile s t fun x => { x with hints := x.hints ++ [(s.windows + count lead, count length, level.toNat)] }, none, 1)

/-- The first tick from `lo` on that is neither taken by a claim placed nor busy. -/
def firstFree (taken : List Nat) (busyFrom busyTo : Nat) : Nat → Nat → Nat
  | 0, lo => lo
  | n + 1, lo =>
    if taken.contains lo then firstFree taken busyFrom busyTo n (lo + 1)
    else if busyFrom ≤ lo ∧ lo < busyTo then firstFree taken busyFrom busyTo n busyTo
    else lo

/-- A claim as it has been placed: its new slot, the ticks by which it has moved, the slip kind of the delay, and whether it
lost a slot of its own to another access. -/
structure Placed where
  claim : Claim
  delay : Nat
  kind : Nat
  lost : Bool

/-- One claim placed beside those placed before it: in the first free slot from its own on, behind the lines of its access
before it, which it moves with (R174). -/
def placeClaim (busyFrom busyTo : Nat) (done : List Placed) (c : Claim) : Placed :=
  let mates := done.filter fun d => d.claim.tile == c.tile && d.claim.issued == c.issued
  let want := mates.foldl (fun m d => max m (d.claim.tick + 1)) c.tick
  let taken := done.map (·.claim.tick)
  let k := firstFree taken busyFrom busyTo (2 * done.length + 2) want
  let before := mates.foldl (fun m d => if d.delay = 0 then m else d.kind) 3
  ⟨{ c with tick := k, moved := c.moved + (k - c.tick) }, k - c.tick,
    if taken.contains want then 3 else if k ≠ want then 4 else before, taken.contains want⟩

/-- The claims on one region placed, those of the lower logical tile first, each tile's in order of tick: on no slot does a
lower tile wait for a higher one (R174). DESIGN CHOICE (log 19). -/
def placeClaims (busyFrom busyTo : Nat) (l : List Claim) : List Placed :=
  l.foldl (fun done c => done ++ [placeClaim busyFrom busyTo done c]) []

/-- A line of a static access delivered `d` ticks later: its mark and its access to DRAM move, with what follows that; the read
of a DSTORE's scratchpad line stays (R174, R178). -/
def delayLine (x : Tile) (issued line d kind : Nat) : Tile :=
  { x with
    marks := x.marks.map fun m =>
      if m.issued = issued ∧ m.res = .bytes (512 * line) 512 ∧ m.slot = 4 then { m with present := m.present + d, kind := kind } else m
    micros := sortBy Micro.order <| x.micros.map fun m =>
      match m.act with
      | .moveLine src n dst k =>
        if dst / 512 = line ∧ m.slot = 4 then
          { m with tick := if windowBase ≤ dst then m.tick + d else m.tick, act := .moveLine src n dst (k + d) }
        else m
      | .write a _ => if a / 512 = line ∧ m.slot = 4 then { m with tick := m.tick + d } else m
      | _ => m }

/-- The static slots of a region settled again after a claim or a refresh: what moves is counted at its tile
(R71, R174, R178; BDR_STATIC). -/
def settleRegion (s : State) (region busyFrom busyTo : Nat) : State :=
  let mine := s.claims.filter (·.region == region)
  let rest := s.claims.filter (·.region != region)
  let placed := placeClaims busyFrom busyTo (sortBy (fun c => 2 ^ 52 * c.tile + c.tick) mine)
  let s := { s with claims := rest ++ placed.map (·.claim) }
  placed.foldl (fun s p =>
    if p.delay = 0 then s
    else
      let s := modTile s p.claim.tile fun x => delayLine x p.claim.issued p.claim.line p.delay p.kind
      let s := bump s (BDR_STATIC_held_ticks p.claim.tile) p.delay
      if p.lost then bump s (BDR_STATIC_conflicts p.claim.tile) 1 else s) s

/-- A refresh of a row group: the region is busy for 8 ticks from the tick after `tick` of its tile (R71, R178). -/
def refreshRow (s : State) (t row tick : Nat) : State :=
  let s := modTile s t fun x => { x with
    refreshed := Store.set x.refreshed row s.now, refrBusy := tick + 9 }
  let g := gridTick (tileOf s t) tick
  settleRegion s t (g + 1) (g + 9)

/-- REFR: refreshes a row group of the tile's near region (R71). DESIGN CHOICE (log 54). -/
def opRefr (t : Nat) (rowGroup : BitVec 12) (s : State) : Host.Outcome State Fault Refusal :=
  .next <| issueSeq s t false fun s =>
    (bump (refreshRow s t rowGroup.toNat (tickOf s t)) (BDR_REFRESH_refr t) 1, none, 1)

/-- Whether a scheduled write is the landing of an SPASS on another tile: one of slot 4 whose bytes are not marked here. -/
def landsAway (x : Tile) (m : Micro) : Bool :=
  match m.act with
  | .write a d => m.slot == 4 && !(x.marks.any fun k => k.res.meets (.bytes a d.length))
  | _ => false

/-- The tick from which every operation issued before tick `upto` in the slots named has delivered its result, of those
whose tick is fixed (R72, R80). -/
def deliveredTick (x : Tile) (slots upto : Nat) : Nat :=
  let named : Nat → Bool := fun k => decide (0 < k) && bitOf slots (k - 1)
  let m := (x.marks.filter fun m => named m.slot && decide (m.issued < upto)).map (·.present)
  let u := (x.micros.filter fun m => named m.slot && landsAway x m).map (·.tick + 1)
  let e := if bitOf slots 0 then (x.tray.filter fun e => decide (e.issued < upto)).map (·.first + 3) else []
  maxL (m ++ u ++ e)

/-- Whether what the slots named had outstanding before tick `upto` without a fixed tick has settled: DLOAD and DSTORE lines
of guarded mode, locker operations and routing entries, messages, and with `lp` every long-pass transfer; `newMsg` and
`newAid` are those that the FENCE's own bundle issued (R72, R215, R233). -/
def fenceSettled (x : Tile) (slots : Nat) (lp : Bool) (upto newMsg newAid : Nat) : Bool :=
  !(bitOf slots 3 && x.marks.any (fun m => m.waits && decide (m.issued < upto))) && !(bitOf slots 2 && decide (newAid < x.aidOut))
    && !(bitOf slots 4 && decide (newMsg < x.unsettled)) && !(lp && x.xfers.any fun f => decide (f.issued < upto))

/-- FENCE: holds the sequencer until the operations named that were issued earlier have delivered their results (R72).
DEDUCED (log 14). -/
def opFence (t : Nat) (slots : BitVec 5) (lp : Bool) (s : State) : Host.Outcome State Fault Refusal :=
  .next <| issueSeq s t false fun s =>
    let x := tileOf s t
    let now := tickOf s t
    if fenceSettled x slots.toNat lp now x.newMsg x.newAid && decide (deliveredTick x slots.toNat now ≤ now + 1) then (s, none, 1)
    else (modTile s t fun x => { x with waits := .fence slots.toNat lp now x.newMsg x.newAid :: x.waits }, none, 1)

/-- FENCE_RELEASE: the fence's operations have delivered by tile tick `tick` (R72). DESIGN CHOICE (log 7). -/
def execFenceRelease (t tick : Nat) (s : State) : Host.Outcome State Fault Refusal :=
  let x := tileOf s t
  .next <| match x.waits.find? (fun w => match w with | .fence .. => true | _ => false) with
    | some (.fence slots lp issued newMsg newAid) =>
      if seqState s t = 2 ∧ fenceSettled x slots lp issued newMsg newAid then
        endWait s t (x.waits.filter fun w => match w with | .fence .. => false | _ => true)
          (max (tickOf s t + 1) (max tick (deliveredTick x slots issued)))
      else s
    | _ => s

/-- The digest a layer starts from: 48 zero bytes (R334). -/
def zeroDigest : Bytes := List.replicate 48 0

/-- DIGEST: closes the open segment of row tags into the tile's digest of a layer; a 257th layer discards its segment
(R334). With audit disabled no digest is formed (R336). -/
def opDigest (t : Nat) (layer : BitVec 16) (s : State) : Host.Outcome State Fault Refusal :=
  .next <| issueSeq s t false fun s =>
    let q := tilePart s t
    if !auditOn s q then (s, none, 1)
    else
      let x := tileOf s t
      let seg := sha384 x.segTags.flatten
      match x.layers.find? (·.layer == layer.toNat) with
      | some d =>
        let d' : LayerDig := ⟨d.layer, d.closes + 1, sha384 (d.digest ++ seg)⟩
        (setTile s t { x with segTags := [], layers := x.layers.map fun e => if e.layer = d.layer then d' else e }, none, 1)
      | none =>
        if x.layers.length < 256 then
          let fresh : LayerDig := ⟨layer.toNat, 1, sha384 (zeroDigest ++ seg)⟩
          (setTile s t { x with segTags := [], layers := insertBy (·.layer) fresh x.layers }, none, 1)
        else
          let s := setTile s t { x with segTags := [], digestOver := true }
          let s := raise (bump s (AUD_STATS_digest_overflow q) 1) AUD_CAUSE_cause 3
          (match runOfTile s t with
            | some r => modRun s r fun y => { y with digestOver := true }
            | none => s, none, 1)

/-- TRAP: a program error with its code recorded (R72). -/
def opTrap (t : Nat) (code : BitVec 8) (s : State) : Host.Outcome State Fault Refusal :=
  .next <| issueSeq s t false fun s => (progErr (wr s (TIL_SEQ_STATUS_halt_code t) code.toNat) t errTrap 0, none, 1)

/-- HALT: ends the task on the tile, once a SWAIT of its bundle has been released; completion follows by TILE_COMPLETE (R73,
R221). DEDUCED (log 14). -/
def opHalt (t : Nat) (code : BitVec 8) (s : State) : Host.Outcome State Fault Refusal :=
  .next <| issueSeq s t false fun s =>
    let x := tileOf s t
    let last := max (tickOf s t + 1) (deliveredTick x 31 (tickOf s t + 1))
    let s := modTile (runDue s t (tickOf s t + 1)) t fun y => { y with haltTick := some last, hold := none }
    (wrs s [(TIL_SEQ_STATUS_halt_code t, code.toNat), (TIL_SEQ_STATUS_state t, if x.waits.isEmpty then 4 else 2),
      (CH_WDOG_stalled t, 0)], none, 1)

end Sys2Proof.Machine
end

