-- ==== Sys2Proof/Machine/Transfer.lean ====
section
/-! DEFINITION. The transfer slot: the static transfers, the short pass and the long pass (03, R78; 07, R165 to R200;
09, R233). -/

namespace Sys2Proof.Machine

/-- A transfer program error with its detail, the first after kickoff kept (R200, R239). -/
def xferErr (s : State) (t cause code tmpl eng piece pc : Nat) : State :=
  let s := if rd s (TIL_XFER_ERR_cause t) = 0 then
      wrs s [(TIL_XFER_ERR_cause t, cause), (TIL_XFER_ERR_pc t, pc), (TIL_XFER_ERR_tmpl t, tmpl),
        (TIL_XFER_ERR_eng t, eng), (TIL_XFER_ERR_piece t, min piece (2 ^ 24 - 1))]
    else s
  progErrAt s t code 4 pc

/-- The scratchpad of tile `t`'s own window a span lies in. -/
def ownUnit (s : State) (t a n : Nat) : Option Nat :=
  match scratchSpan s a n with
  | some (u, k) => if u = t then some k else none
  | none => none

/-- The ticks by which a CRC failure on its static crossing delays a line: 4 when it is resent (R179). -/
def crcDelay (s : State) (line : Nat) : Nat := if s.upsets.contains (.crc line) then 4 else 0

/-! ### FILL, COPY, DLOAD, DSTORE (R78, R168, R169, R172 to R174) -/

/-- FILL: lines of a scratchpad filled with a byte. -/
def opFill (t : Nat) (ddesc : BitVec 6) (doff : BitVec 12) (lines : BitVec 8) (byte : Byte) (s : State) :
    Host.Outcome State Fault Refusal :=
  let x := tileOf s t
  let tick := tickOf s t
  let n := count lines
  let da := effAddr x ddesc.toNat doff.toNat
  let unit := ownUnit s t da (512 * n)
  let busy := match unit with
    | some u => if portBusy x 1 (.xferWrite u) (rangeFrom (tick + 1) n) then [2] else []
    | none => []
  .next <| issueOp s t 4 false
      (slotHold x tick 4 ++ flightKinds x tick (spanOf da (512 * n)) ++ busy) false fun s =>
    match unit with
    | some u =>
      if da % 512 ≠ 0 || !tileSpanOk s t da (512 * n) then progErr s t errRange 4
      else modTile s t fun y =>
        ((y.schedAll ((List.range n).map fun i =>
            ⟨tick + 1 + i, true, 4, .write (da + 512 * i) (List.replicate 512 (byte, 0xFF)), tick⟩)).mark
          ((List.range n).map fun i => ⟨.bytes (da + 512 * i) 512, 4, tick, tick + 2 + i, tick + 2 + i, false, 1⟩)).use
          (slotUse 4 tick 1 ++ (rangeFrom (tick + 1) n).map fun k => ⟨.xferWrite u, k, 0⟩)
    | none => progErr s t errRange 4

/-- COPY: lines of a scratchpad copied within it; an overlap is settled by the ticks of the reads and writes (R169). -/
def opCopy (t : Nat) (sdesc : BitVec 6) (soff : BitVec 8) (ddesc : BitVec 6) (doff : BitVec 8) (lines : BitVec 7)
    (s : State) : Host.Outcome State Fault Refusal :=
  let x := tileOf s t
  let tick := tickOf s t
  let n := count lines
  let sa := effAddr x sdesc.toNat soff.toNat
  let da := effAddr x ddesc.toNat doff.toNat
  let unit := ownUnit s t da (512 * n)
  let busy := match unit with
    | some u => if readBusy x (.xferRead u) (tick + 1) (rangeFrom (sa / 512) n)
        || portBusy x 1 (.xferWrite u) (rangeFrom (tick + 2) n) then [2] else []
    | none => []
  .next <| issueOp s t 4 false
      (slotHold x tick 4 ++ flightKinds x tick (spanOf sa (512 * n) ++ spanOf da (512 * n)) ++ busy)
      false fun s =>
    match unit with
    | some u =>
      if sa % 512 ≠ 0 || da % 512 ≠ 0 || ownUnit s t sa (512 * n) != some u || !tileSpanOk s t sa (512 * n)
          || !tileSpanOk s t da (512 * n) then progErr s t errRange 4
      else modTile (readFinds s sa (512 * n)) t fun y =>
        ((y.schedAll ((List.range n).map fun i =>
            ⟨tick + 1 + i, false, 4, .moveLine (sa + 512 * i) 512 (da + 512 * i) (tick + 2 + i), tick⟩)).mark
          ((List.range n).map fun i => ⟨.bytes (da + 512 * i) 512, 4, tick, tick + 3 + i, tick + 3 + i, false, 1⟩)).use
          (slotUse 4 tick 1 ++ readUses (.xferRead u) (tick + 1) (rangeFrom (sa / 512) n)
            ++ (rangeFrom (tick + 2) n).map fun k => ⟨.xferWrite u, k, 0⟩)
    | none => progErr s t errRange 4

/-- The region (logical tile) of the tile's group whose near region holds a span, if one does (R78, R172). -/
def staticRegion (s : State) (t a n : Nat) : Option Nat :=
  let u := a / nearBytes
  if a + n ≤ nearBase (u + 1) ∧ u < s.part.tiles ∧ sameGroup t u then some u else none

/-- A hold while the near region is busy with a refresh (R71). -/
def refreshHold (x : Tile) (tick : Nat) (near : Bool) : List Nat := if near && decide (tick < x.refrBusy) then [4] else []

/-- A tick that a refresh holds a static access for, counted at its tile (R71, R200). -/
def countRefreshHold (s : State) (t : Nat) (near : Bool) : State :=
  if issuing s t && !bubbled s t && !(refreshHold (tileOf s t) (tickOf s t) near).isEmpty then bump s (BDR_STATIC_held_ticks t) 1 else s

/-- Whether a static read of lines of DRAM on slot ticks of the grid reaches a line that a DSTORE of another tile has still to
write: one that has lost its slot and waits, or one of a guarded job that has not been served (R174, R233, R234). -/
def storeWaits (s : State) (t : Nat) (slots lines : List Nat) : Bool :=
  (List.zip slots lines).any fun p =>
    (s.claims.any fun c => c.store && c.tile != t && c.line == p.2 && decide (c.tick - c.moved < p.1) && decide (p.1 ≤ c.tick)) ||
    s.tiles.any fun y => y.1 != t && y.2.marks.any fun m => m.slot == 4 && m.waits && m.res == .bytes (512 * p.2) 512

/-- The hold of a static read for the DSTORE of another tile. -/
def storeHold (s : State) (t : Nat) (slots lines : List Nat) : List Nat := if storeWaits s t slots lines then [3] else []

/-- The static slots claimed for the lines of an access in strict mode, and settled against the others of the region
and its refresh (R173, R174, R232). -/
def claimSlots (s : State) (t region tick : Nat) (store : Bool) (slotTicks lines : List Nat) : State :=
  if on s (TIL_MODE_strict t) then
    let x := tileOf s t
    let cs := (List.zip slotTicks lines).map fun p => (⟨region, gridTick x p.1, t, tick, p.2, store, 0⟩ : Claim)
    let y := tileOf s region
    let b := if y.refrBusy = 0 then 0 else gridTick y y.refrBusy
    settleRegion { s with claims := s.claims ++ cs } region (b - 8) b
  else s

/-- A line whose crossing is resent: it lands `d` ticks later, and is present that much later (R179). -/
def resendLine (x : Tile) (issued line d : Nat) : Tile :=
  { x with
    marks := x.marks.map fun m =>
      if m.issued = issued ∧ m.res = .bytes (512 * line) 512 ∧ m.slot = 4 then { m with present := m.present + d, kind := 0xB } else m
    micros := x.micros.map fun m =>
      match m.act with
      | .moveLine src n dst k =>
        if dst / 512 = line ∧ m.slot = 4 ∧ m.issued = issued then { m with act := .moveLine src n dst (k + d) } else m
      | _ => m }

/-- The CRC failures that the static crossings of lines meet: each such line is present 4 ticks late, in a hold of kind 0xB,
and its errors are counted (R179, R236). `k` is the line whose delivery the crossing ends in. -/
def crossBond (s : State) (t tick : Nat) (lines : List (Nat × Nat)) : State :=
  if s.upsets.isEmpty then s
  else
    let s := lines.foldl (fun s p =>
      let d := crcDelay s p.1
      if d = 0 then s
      else bump (modTile s t fun x => resendLine x tick p.2 d) (BDR_STATIC_held_ticks t) d) s
    findUpsets s fun u => lines.any fun p => u == .crc p.1 || Upset.within (512 * p.1) 512 u

/-- The ticks of the static slots of an access, by line (R173). -/
def slotTicks (tick lat n : Nat) : List Nat := (List.range n).map fun i => tick + i + (lat - 40) / 2

/-- DLOAD: lines of bonded DRAM into a scratchpad of the tile, through the static slot of the region (R172 to R174, R179); in
guarded mode each line also waits for GUARDED_LINE_PRESENT (R233). -/
def opDload (t : Nat) (mdesc : BitVec 6) (moff : BitVec 12) (sdesc : BitVec 6) (soff : BitVec 8) (lines : BitVec 3)
    (s : State) : Host.Outcome State Fault Refusal :=
  let x := tileOf s t
  let tick := tickOf s t
  let n := count lines
  let ma := effAddr x mdesc.toNat moff.toNat
  let sa := effAddr x sdesc.toNat soff.toNat
  let region := staticRegion s t ma (512 * n)
  let lat := dramLatency (t % 8) (region.getD t % 8)
  let slots := slotTicks tick lat n
  let unit := ownUnit s t sa (512 * n)
  let busy := match unit with
    | some u => if portBusy x 1 (.xferWrite u) (rangeFrom (tick + lat) n) then [2] else []
    | none => []
  .next <| issueOp (countRefreshHold s t (region == some t)) t 4 false
      (slotHold x tick 4 ++ flightKinds x tick (spanOf ma (512 * n) ++ spanOf sa (512 * n)) ++ busy
        ++ refreshHold x tick (region == some t) ++ storeHold s t (slots.map (gridTick x)) (rangeFrom (ma / 512) n)) false fun s =>
    match region, unit with
    | some r, some u =>
      if ma % 512 ≠ 0 || sa % 512 ≠ 0 || !tileSpanOk s t ma (512 * n) || !tileSpanOk s t sa (512 * n) then
        xferErr s t 5 errRange 0 0 0 (pcOf s t)
      else
        let waits := !on s (TIL_MODE_strict t)
        let s := modTile s t fun y =>
          ((y.schedAll ((List.zip (List.range n) slots).map fun p =>
              ⟨p.2, false, 4, .moveLine (ma + 512 * p.1) 512 (sa + 512 * p.1) (tick + lat + p.1 - 1), tick⟩)).mark
            ((List.range n).map fun i =>
              ⟨.bytes (sa + 512 * i) 512, 4, tick, tick + lat + i, tick + lat + i, waits, 3⟩)).use
            (slotUse 4 tick n ++ (rangeFrom (tick + lat) n).map fun k => ⟨.xferWrite u, k, 0⟩)
        crossBond (claimSlots s t r tick false slots (rangeFrom (sa / 512) n)) t tick
          (List.zip (rangeFrom (ma / 512) n) (rangeFrom (sa / 512) n))
    | _, _ => xferErr s t 5 errRange 0 0 0 (pcOf s t)

/-- DSTORE: as DLOAD, from a scratchpad of the tile to bonded DRAM; each line is in DRAM for static reads issued from tick
+n on (R80). -/
def opDstore (t : Nat) (mdesc : BitVec 6) (moff : BitVec 12) (sdesc : BitVec 6) (soff : BitVec 8) (lines : BitVec 3)
    (s : State) : Host.Outcome State Fault Refusal :=
  let x := tileOf s t
  let tick := tickOf s t
  let n := count lines
  let ma := effAddr x mdesc.toNat moff.toNat
  let sa := effAddr x sdesc.toNat soff.toNat
  let region := staticRegion s t ma (512 * n)
  let lat := dramLatency (t % 8) (region.getD t % 8)
  let slots := slotTicks tick lat n
  let unit := ownUnit s t sa (512 * n)
  let busy := match unit with
    | some u => if readBusy x (.xferRead u) tick (rangeFrom (sa / 512) n) then [2] else []
    | none => []
  .next <| issueOp (countRefreshHold s t (region == some t)) t 4 false
      (slotHold x tick 4 ++ flightKinds x tick (spanOf ma (512 * n) ++ spanOf sa (512 * n)) ++ busy
        ++ refreshHold x tick (region == some t)) false fun s =>
    match region, unit with
    | some r, some u =>
      if ma % 512 ≠ 0 || sa % 512 ≠ 0 || !tileSpanOk s t ma (512 * n) || !tileSpanOk s t sa (512 * n) then
        xferErr s t 5 errRange 0 0 0 (pcOf s t)
      else
        let waits := !on s (TIL_MODE_strict t)
        let s := modTile (readFinds s sa (512 * n)) t fun y =>
          ((y.schedAll ((List.zip (List.range n) slots).map fun p =>
              ⟨tick + p.1, false, 4, .moveLine (sa + 512 * p.1) 512 (ma + 512 * p.1) p.2, tick⟩)).mark
            ((List.range n).map fun i => ⟨.bytes (ma + 512 * i) 512, 4, tick, tick + n, tick + n, waits, 3⟩)).use
            (slotUse 4 tick n ++ readUses (.xferRead u) tick (rangeFrom (sa / 512) n))
        crossBond (claimSlots s t r tick true slots (rangeFrom (ma / 512) n)) t tick
          (List.zip (rangeFrom (ma / 512) n) (rangeFrom (ma / 512) n))
    | _, _ => xferErr s t 5 errRange 0 0 0 (pcOf s t)

/-- GUARDED_LINE_PRESENT: a line of a DLOAD or DSTORE of a guarded job has been served; it is present no earlier than
R80 gives (R233). -/
def execGuardedLinePresent (t addr : Nat) (s : State) : Host.Outcome State Fault Refusal :=
  let tick := nowTick s t
  .next <| noteDelivered (modTile s t fun x => { x with
    marks := x.marks.map fun m =>
      if m.waits ∧ m.res = .bytes (512 * (addr / 512)) 512 then { m with waits := false, present := max m.due tick } else m }) t

/-! ### The short pass (R197, R198) -/

/-- The first tick from `lo` on at which a short-pass write port has `k` slots left beside the passes of source tiles up to `t`
(R198). -/
def passRoom (x : Tile) (p : Port) (t k : Nat) : Nat → Nat → Nat
  | 0, lo => lo
  | n + 1, lo =>
    if (x.uses.filter fun u => u.port == p && u.tick == lo && decide (u.line ≤ t)).length + k ≤ 2 then lo
    else passRoom x p t k n (lo + 1)

/-- The passes of a higher source tile than `t` that no longer find room on a tick wait one tick: their uses of the port, their
marks at the destination, and what is still to be written move (R198). -/
def displace (s : State) (dt : Nat) (p : Port) (t : Nat) : Nat → Nat → State
  | 0, _ => s
  | n + 1, k =>
    let x := tileOf s dt
    let here := x.uses.filter fun u => u.port == p && u.tick == k
    if here.length ≤ 2 then s
    else
      let v := maxL (here.map (·.line))
      let g := gridTick x k
      let srcTick := localTick (tileOf s v) g
      let moves : Micro → Bool := fun m => m.slot == 4 && (match m.act with
        | .moveLine _ _ a j => j == srcTick && (scratchSpan s a 1 == some (dt, match p with | .shortWrite u => u | _ => 0))
        | .write a _ => m.tick == srcTick && (scratchSpan s a 1 == some (dt, match p with | .shortWrite u => u | _ => 0))
        | _ => false)
      let spans := ((tileOf s v).micros.filter moves).filterMap Micro.target
      let slide : Micro → Micro := fun m => if !moves m then m else match m.act with
        | .moveLine a l d j => { m with act := .moveLine a l d (j + 1) }
        | _ => { m with tick := m.tick + 1 }
      let s := modTile s v fun y => { y with micros := sortBy Micro.order (y.micros.map slide) }
      let s := modTile s dt fun y => { y with
        uses := y.uses.map fun u => if u.port == p && u.tick == k && u.line == v then { u with tick := k + 1 } else u
        marks := y.marks.map fun m => if m.slot = 4 ∧ m.present = k + 1 ∧ spans.any (fun q => m.res.meets (.bytes q.2.1 q.2.2)) then
          { m with present := k + 2 } else m }
      displace s dt p t n (k + 1)

/-- Which of what the guard tracks at another tile an operation on a tick of the grid meets: a write in flight to a source that
lies in that tile's window (R197, R198, R235). -/
def farFlight (s : State) (t u tick : Nat) (rs : List Res) : List Nat :=
  if u = t then [] else flightKinds (tileOf s u) (localTick (tileOf s u) (gridTick (tileOf s t) tick)) rs

/-- SPASS: up to 256 bytes between scratchpads of one compute die; the second source line is read a tick after the first
through the transfer-read port of the source, the write lands on tick +5 on the own tile and +23 on another, later where its
port is full; of passes that meet on the port the lower source tile's go first (R197, R198). DEDUCED (log 12). -/
def opSpass (t : Nat) (sdesc : BitVec 6) (soff : BitVec 8) (ddesc : BitVec 6) (doff : BitVec 8) (len : BitVec 3)
    (s : State) : Host.Outcome State Fault Refusal :=
  let x := tileOf s t
  let tick := tickOf s t
  let n := 32 * count len
  let sa := effAddr x sdesc.toNat soff.toNat
  let da := effAddr x ddesc.toNat doff.toNat
  let n1 := min n (512 - sa % 512)
  let su := scratchSpan s sa n
  let du := scratchSpan s da n
  let st := (su.map (·.1)).getD t
  let toTile : Nat → Nat → Nat := fun u k => if u = t then k else localTick (tileOf s u) (gridTick x k)
  let busy := match su with
    | some (st, u) => if readBusy (tileOf s st) (.xferRead u) (toTile st tick) (linesOf sa n) then [2] else []
    | none => []
  let ownDst := (du.map (·.1)) == some t
  .next <| issueOp s t 4 false
      (slotHold x tick 4 ++ flightKinds x tick (spanOf sa n ++ (if ownDst then spanOf da n else [])) ++ farFlight s t st tick (spanOf sa n)
        ++ busy) false fun s =>
    match su, du with
    | some (st, u), some (dt, du) =>
      if sa % 32 ≠ 0 || da % 32 ≠ 0 || !sameGroup t st || !sameGroup t dt || !tileSpanOk s t sa n
          || !tileSpanOk s t da n then xferErr s t 4 errRange 0 0 0 (pcOf s t)
      else
        let lines := linesOf da n
        let land := if dt = t then tick + 5 else tick + 23
        let port := Port.shortWrite du
        let room := passRoom (tileOf s dt) port t lines.length 64 (toTile dt land)
        let late := room - toTile dt land
        let s := modTile (readFinds s sa n) t fun y =>
          (y.schedAll (⟨tick, false, 4, .moveLine sa n1 da (land + late), tick⟩ ::
            (if n1 < n then [⟨tick + 1, false, 4, .moveLine (sa + n1) (n - n1) (da + n1) (land + late), tick⟩] else []))).use
            (slotUse 4 tick 1)
        let s := modTile s st fun y => y.use (readUses (.xferRead u) (toTile st tick) (linesOf sa n))
        let s := modTile s dt fun y =>
          (y.mark ((spanOf da n).map fun r =>
            ⟨r, 4, toTile dt (if dt = t then tick else tick + 1), toTile dt land + 1, room + 1, false, 1⟩)).use
            (lines.map fun _ => ⟨port, room, t⟩)
        displace s dt port t 64 room
    | _, _ => xferErr s t 4 errRange 0 0 0 (pcOf s t)

/-! ### The long pass (R190 to R196) -/

/-- The fields of a long-pass template read from its 64 bytes as a number (R190). -/
def tMode (d : Nat) : Nat := bitsOf d 0 8
def tHandover (d : Nat) : Bool := bitOf d 8
def tDstRel (d : Nat) : Bool := bitOf d 9
def tChunk (d : Nat) : Nat := bitsOf d 16 16
def tPiece (d : Nat) : Nat := 32 * bitsOf d 32 32
def tN1 (d : Nat) : Nat := bitsOf d 64 32
def tN2 (d : Nat) : Nat := bitsOf d 96 32
def tAmt (d : Nat) : Nat := bitsOf d 384 8
def tStride (d lo : Nat) : Int := 32 * signed 32 (bitsOf d lo 32)

/-- The pieces of a transfer. -/
def tPieces (d : Nat) : Nat := tN1 d * tN2 d

/-- The strided address of piece `k` from a base, the strides at `lo` and `lo + 32` (R191). -/
def strided (d base lo k : Nat) : Nat :=
  unsigned 64 ((base : Int) + tStride d lo * (k % tN1 d : Nat) + tStride d (lo + 32) * (k / tN1 d : Nat))

/-- Whether a write of what is neither a program nor an engine has reached a byte since the issue (R24). -/
def Transfer.isForeign (f : Transfer) (a : Nat) : Bool := f.foreign.any fun p => decide (p.1 ≤ a) && decide (a < p.1 + p.2)

/-- Whether a byte of memory holds what it held at the issue. -/
def Transfer.same (s : State) (f : Transfer) (a : Nat) : Bool := Memory.read f.snap a == readByte s a

/-- A byte that a transfer reads from module address `a`: what is there, when that has not changed since the issue; undefined,
when a program or an engine has written it (R195); of a 64-byte granule that others have written, the old or the new contents
whole (R24). `k` names the free values. -/
def srcByte (s : State) (f : Transfer) (k a : Nat) : Byte :=
  if f.same s a then readByte s a
  else if f.isForeign a then
    (if Config.freeValue (f.free + a / 64) % 2 = 0 then Memory.read f.snap a else readByte s a)
  else BitVec.ofNat 8 (Config.freeValue (f.free + k))

/-- Entry `k` of a transfer's index list, an undefined value where the list has been overwritten since the issue (R192,
R195). -/
def idxEntry (s : State) (f : Transfer) (k : Nat) : Nat :=
  leNat ((List.range 4).map fun b => srcByte s f (2 ^ 48 + 4 * k + b) (f.idx + 4 * k + b))

/-- Whether piece `k` is skipped by its index (R192). -/
def pieceSkipped (s : State) (f : Transfer) (k : Nat) : Bool := tMode f.tdata != 0 && idxEntry s f k == 0xFFFFFFFF

/-- The source address of piece `k`. -/
def pieceSrc (s : State) (f : Transfer) (k : Nat) : Nat :=
  if tMode f.tdata = 1 then (f.src + 512 * idxEntry s f k) % 2 ^ 64 else strided f.tdata f.src 256 k

/-- The destination address of piece `k`. -/
def pieceDst (s : State) (f : Transfer) (k : Nat) : Nat :=
  if tMode f.tdata = 2 then (f.dst + 512 * idxEntry s f k) % 2 ^ 64 else strided f.tdata f.dst 320 k

/-- Whether piece `k` passes R62 for its index-derived address, its alignment included (R191, R192, R196). -/
def pieceOk (s : State) (t : Nat) (f : Transfer) (k : Nat) : Bool :=
  let a := if tMode f.tdata = 1 then pieceSrc s f k else pieceDst s f k
  pieceSkipped s f k || tMode f.tdata == 0 || (a % 32 == 0 && tileSpanOk s t a (tPiece f.tdata))

/-- The outstanding transfers of an engine, in issue order (R194). -/
def engXfers (x : Tile) (eng : Nat) : List Transfer := x.xfers.filter (·.eng == eng)

/-- TIL_LPASS brought up to date. -/
def syncLpass (s : State) (t : Nat) : State :=
  let x := tileOf s t
  wrs s [(TIL_LPASS_outstanding0 t, (engXfers x 0).length), (TIL_LPASS_outstanding1 t, (engXfers x 1).length)]

/-- LPASS: a transfer formed from a template with the counters of this tick; its addresses known at issue must pass R62
(R190, R191, R194, R196). -/
def opLpass (t : Nat) (eng : Bool) (tmpl : BitVec 10) (ctr : BitVec 16) (s : State) :
    Host.Outcome State Fault Refusal :=
  let x := tileOf s t
  let tick := tickOf s t
  let e := b2n eng
  let full := decide (6 ≤ (engXfers x e).length)
  let s := if full && (slotHold x tick 4).isEmpty && issuing s t && !bubbled s t then bump s (TIL_LPASS_excess_ticks t) 1 else s
  .next <| issueOp s t 4 false (slotHold x tick 4 ++ (if full then [8] else [])) false fun s =>
    match x.tmpls[tmpl.toNat]? with
    | none => xferErr s t 1 errRange tmpl.toNat e 0 (pcOf s t)
    | some d =>
      let src := effAddr x (bitsOf d 128 8) (bitsOf d 160 16)
      let dst0 := effAddr x (bitsOf d 136 8) (bitsOf d 176 16)
      let dst := if tDstRel d then (dst0 + bitsOf d 416 16 * nearBytes) % 2 ^ 64 else dst0
      let idx := effAddr x (bitsOf d 144 8) (bitsOf d 192 16)
      let f : Transfer := ⟨e, tmpl.toNat, pcOf s t, d, src, dst, idx, ctr.toNat, tick, s.mem, 0, s.freeCtr, []⟩
      let ok (a n : Nat) : Bool := a % 32 == 0 && tileSpanOk s t a n
      let ks := List.range (tPieces d)
      let base := if tMode d = 1 then ok src 1 else tMode d != 2 || ok dst 1
      let good := base && (tMode d == 1 || ks.all fun k => ok (strided d src 256 k) (tPiece d))
        && (tMode d == 2 || ks.all fun k => ok (strided d dst 320 k) (tPiece d))
        && (tMode d == 0 || ok idx (4 * tPieces d))
      if !good then xferErr s t 2 errRange tmpl.toNat e 0 (pcOf s t)
      else if !ctrOk s t ctr.toNat then progErr s t errRange 4
      else
        let s := modTile (takeFree s (2 ^ 74)) t fun y => { y.use (slotUse 4 tick 1) with xfers := y.xfers ++ [f] }
        syncLpass (bump s (TIL_LPASS_issued t) 1) t

/-- The bytes of piece `k` as read now (R24, R195). -/
def pieceBytes (s : State) (f : Transfer) (k : Nat) : Bytes :=
  let n := tPiece f.tdata
  (List.range n).map fun i => srcByte s f (2 ^ 52 + k * n + i) (pieceSrc s f k + i)

/-- One piece moved: the correctable errors of its source are found on the way (R171, R179, R182). -/
def movePiece (s : State) (t : Nat) (f : Transfer) (k : Nat) : State :=
  if pieceSkipped s f k then s
  else
    let n := tPiece f.tdata
    let s1 := readFinds (writeBytes s (pieceDst s f k) (pieceBytes s f k)) (pieceSrc s f k) n
    bump s1 (TIL_LPASS_BYTES_bytes t) n

/-- The pieces of a transfer up to which its next report covers it (R193). -/
def nextReport (f : Transfer) : Nat :=
  if tHandover f.tdata then min (f.donePieces + tChunk f.tdata) (tPieces f.tdata) else tPieces f.tdata

/-- The first outstanding transfer of an engine replaced, or removed. -/
def replaceXfer (x : Tile) (eng : Nat) (new : Option Transfer) : Tile :=
  let rec go : List Transfer → List Transfer
    | [] => []
    | f :: r => if f.eng = eng then new.toList ++ r else f :: go r
  { x with xfers := go x.xfers }

/-- LPASS_REPORT: the oldest outstanding transfer of an engine has written the pieces its next report covers; its counter
receives the template's amount (R193). The writes come between the reads of the ticks of the tiles and the static writes of
those ticks, which stay (R170). DEDUCED (log 12). -/
def execLpassReport (t : Nat) (eng : Bool) (s : State) : Host.Outcome State Fault Refusal :=
  let e := b2n eng
  .next <| match engXfers (tileOf s t) e with
    | [] => s
    | f :: _ =>
      let stop := nextReport f
      let ks := rangeFrom f.donePieces (stop - f.donePieces)
      if !ks.all (pieceOk s t f) then s
      else
        let s := ks.foldl (fun s k => movePiece s t f k) s
        let last := stop == tPieces f.tdata
        let s := modTile s t fun x =>
          replaceXfer x e (if last then none else some { f with donePieces := stop })
        let s := noteDelivered (syncLpass s t) t
        sendItem s ⟨.incr f.ctr (tAmt f.tdata) 4 f.pc false, t, 0xFFF, jobOfTile s t, epochOfTile s t, s.now⟩

/-- XFER_RANGE: an index-derived address of the oldest outstanding transfer of an engine fails R62; the transfer stops
and the job ends with the program error (R196). -/
def execXferRange (t : Nat) (eng : Bool) (s : State) : Host.Outcome State Fault Refusal :=
  let e := b2n eng
  .next <| match engXfers (tileOf s t) e with
    | [] => s
    | f :: _ =>
      match (rangeFrom f.donePieces (tPieces f.tdata - f.donePieces)).find? fun k => !pieceOk s t f k with
      | none => s
      | some k =>
        let s := syncLpass (modTile s t fun x => replaceXfer x e none) t
        xferErr s t 3 errXferRange f.tmpl e k f.pc

end Sys2Proof.Machine
end

