-- ==== Sys2Proof/Machine/Channel.lean ====
section
/-! DEFINITION. Channels: CSEND, CRECV, QOPEN, QCLOSE, and what lines, credits and tokens do when they arrive
(08_channels_and_sync.md, R203 to R215, R223). -/

namespace Sys2Proof.Machine

/-! ### Dropped and stale messages (R212, R214) -/

/-- A line dropped at a closed queue or endpoint of tile `t`: the cause, and the first drop since kickoff kept (R212). -/
def recordOrphan (s : State) (t other q ep : Nat) (atReader : Bool) (pc : Nat) : State :=
  let s := if on s (CH_ORPHAN_valid t) then s else
    wrs s [(CH_ORPHAN_tile t, other), (CH_ORPHAN_queue t, q), (CH_ORPHAN_endpoint t, ep),
      (CH_ORPHAN_at_reader t, b2n atReader), (CH_ORPHAN_pc t, if atReader then 0 else pc), (CH_ORPHAN_valid t, 1)]
  raise s (TIL_CAUSE_cause t) 3

/-- A message of an old run or incarnation discarded at tile `t` (R214). -/
def recordStale (s : State) (t : Nat) : State :=
  raise (bump s (CH_STALE_lines t) 1) (TIL_CAUSE_cause t) 4

/-- A message of the run its tile serves now settled at its destination (R215). -/
def settleMsg (s : State) (i : Item) : State :=
  let t := i.src
  if t < s.part.tiles ∧ i.job = jobOfTile s t ∧ i.epoch = epochOfTile s t then
    noteDelivered (modTile s t fun x => { x with unsettled := x.unsettled - 1 }) t
  else s

/-- Whether an item carries the job and run epoch its tile serves now (R214). -/
def fresh (s : State) (i : Item) : Bool := i.job == jobOfTile s i.dst && i.epoch == epochOfTile s i.dst

/-- The increment a route makes once a line is present or a credit can be spent (R209, R218): its tile is the one whose
CSEND or CRECV stands behind it (R239). -/
def routeIncr (s : State) (ctr tile pc : Nat) : State :=
  sendItem s ⟨.incr ctr 1 5 pc false, tile, 0xFFF, jobOfTile s tile, epochOfTile s tile, s.now⟩

/-! ### Arrivals -/

/-- A line reaches its queue (R208, R209, R211, R212, R214): discarded as stale, dropped as an orphan, or enqueued. -/
def deliverLine (s : State) (i : Item) (ep q inc pc : Nat) (data : Bytes) (present : Option Nat) : State :=
  let d := i.dst
  let s := settleMsg s i
  if !fresh s i || (inc != rd s (CH_QSTAT_incarnation d q)) then recordStale s d
  else if !on s (CH_QSTAT_open d q) then recordOrphan (bump s (CH_QSTAT_orphans d q) 1) d i.src q ep true 0
  else
    let at' := match present with
      | some g => localTick (tileOf s d) g
      | none => 0
    let s := modTile s d fun x => { x with queues := Store.set x.queues q (Store.getD x.queues q [] ++ [⟨data, at'⟩]) }
    let s := wr s (CH_QSTAT_fill d q) (Store.getD (tileOf s d).queues q []).length
    if on s (CH_ROUTE_arr_en i.src ep) then routeIncr s (rd s (CH_ROUTE_arr_ctr i.src ep)) i.src pc else s

/-- A credit reaches its endpoint (R208, R209). -/
def deliverCredit (s : State) (i : Item) (ep pc : Nat) : State :=
  let d := i.dst
  if !fresh s i then recordStale s d
  else if !on s (CH_EPSTAT_open d ep) then s
  else
    let s := wr s (CH_EPSTAT_credits d ep) (rd s (CH_EPSTAT_credits d ep) + 1)
    if on s (CH_ROUTE_cred_en d ep) then routeIncr s (rd s (CH_ROUTE_cred_ctr d ep)) i.src pc else s

/-- An open or close token reaches its endpoint (R208, R212, R213). -/
def deliverToken (s : State) (i : Item) (ep : Nat) (opens : Bool) (inc : Nat) : State :=
  let d := i.dst
  let s := settleMsg s i
  if !fresh s i then recordStale s d
  else if opens then
    let s := modTile s d fun x => { x with epInc := Store.put x.epInc ep 0 inc }
    wrs s [(CH_EPSTAT_open d ep, 1), (CH_EPSTAT_credits d ep, rd s (CH_ROUTE_depth d ep))]
  else wrs s [(CH_EPSTAT_open d ep, 0), (CH_EPSTAT_credits d ep, 0)]

/-- What an item does when it is delivered at a tile. -/
def deliver (s : State) (i : Item) : State :=
  match i.cargo with
  | .line ep q inc pc data present => deliverLine s i ep q inc pc data present
  | .credit ep pc _ => deliverCredit s i ep pc
  | .token ep opens inc _ => deliverToken s i ep opens inc
  | .incr .. => s
  | .route _ => s

/-- The tick of the module's grid from which an item of a crossing route counts at its tile: a line enters its queue a
tick before a CRECV finds it (R208). -/
def Item.due (i : Item) : Option Nat :=
  match i.cargo with
  | .line _ _ _ _ _ p => p.map (· - 1)
  | .credit _ _ p => p
  | .token _ _ _ p => p
  | _ => none

/-- Whether an item of a crossing route to tile `t` has come due there by tick `tick` of the tile. -/
def crossedBy (s : State) (t tick : Nat) (i : Item) : Bool :=
  i.dst == t && (match i.due with
    | some g => decide (g ≤ gridTick (tileOf s t) tick)
    | none => false)

/-- Whether an item of a crossing route to tile `t` has come due there. -/
def crossed (s : State) (t : Nat) (i : Item) : Bool := crossedBy s t (nowTick s t) i

/-- Every item of a crossing route that has come due at tile `t` by a tick delivered, in the order sent (R208). -/
def settleBy (s : State) (t tick : Nat) : State :=
  let now := s.fabric.filter (crossedBy s t tick)
  now.foldl deliver { s with fabric := s.fabric.filter fun i => !crossedBy s t tick i }

/-- Every item of a crossing route that has come due at tile `t` delivered, in the order sent (R208). -/
def settleCrossing (s : State) (t : Nat) : State := settleBy s t (nowTick s t)

/-- The first item a test accepts taken off the fabric. -/
def takeItem (s : State) (f : Item → Bool) : Option (Item × State) :=
  match s.fabric.find? f with
  | some i => some (i, { s with fabric := s.fabric.eraseP f })
  | none => none

/-- Whether a crossing item may be delivered already; an item of the fabric may at any time, and so may one for a tile that
issues no bundle now, whose ticks only its commands tell (R208, R212). DESIGN CHOICE (log 7). -/
def mayArrive (s : State) (i : Item) : Bool := i.due.isNone || !issuing s i.dst || crossed s i.dst i

/-- LINE_ARRIVAL: the oldest line on its way from endpoint `ep` of tile `t` reaches its queue (R209).
DESIGN CHOICE (log 8); DEDUCED (log 16). -/
def execLineArrival (t ep : Nat) (s : State) : Host.Outcome State Fault Refusal :=
  let isLine : Item → Bool := fun i => i.src == t && (match i.cargo with
    | .line e .. => e == ep
    | _ => false)
  .next <| match takeItem s isLine with
    | some (i, s') => if mayArrive s i then deliver s' i else s
    | none => s

/-- CREDIT_RETURN: the oldest credit on its way to endpoint `ep` of tile `t` reaches it (R208, R209).
DESIGN CHOICE (log 8); DEDUCED (log 16). -/
def execCreditReturn (t ep : Nat) (s : State) : Host.Outcome State Fault Refusal :=
  let isCredit : Item → Bool := fun i => i.dst == t && (match i.cargo with
    | .credit e .. => e == ep
    | .token e .. => e == ep
    | _ => false)
  .next <| match takeItem s isCredit with
    | some (i, s') => (match i.cargo with
      | .credit .. => if mayArrive s i then deliver s' i else s
      | _ => s)
    | none => s

/-- QUEUE_TOKEN: the oldest token on its way to endpoint `ep` of tile `t` reaches it, after the credits before it (R209,
R213). DESIGN CHOICE (log 8). -/
def execQueueToken (t ep : Nat) (s : State) : Host.Outcome State Fault Refusal :=
  let isToken : Item → Bool := fun i => i.dst == t && (match i.cargo with
    | .credit e .. => e == ep
    | .token e .. => e == ep
    | _ => false)
  .next <| match takeItem s isToken with
    | some (i, s') => (match i.cargo with
      | .token .. => if mayArrive s i then deliver s' i else s
      | _ => s)
    | none => s

/-! ### Sending and receiving -/

/-- Whether an operation would be held for a reason of its own on this tick: what the stall counts and held_ticks need. -/
def willHold (s : State) (t : Nat) : Bool := issuing s t && !bubbled s t && !pcOut s t && !isCleared s t

/-- The stall of a held tile noted (R224, R226). -/
def noteStall (s : State) (t kind obj : Nat) (b : Bool) : State :=
  if b then modTile s t fun x => { x with stall := some (kind, obj, pcOf s t) } else s

/-- CSEND: sends one line on an endpoint, spends a credit; held without one; dropped as an orphan when the endpoint is
closed (R207, R212). The link of a crossing route stays enabled while its image is loaded, so no line of one is dropped for
a disabled link (R45, R204, R364, R408). DEDUCED (log 16). -/
def opCsend (t : Nat) (ep : BitVec 4) (sdesc : BitVec 6) (soff : BitVec 9) (s : State) :
    Host.Outcome State Fault Refusal :=
  let s := settleCrossing s t
  let e := ep.toNat
  let x := tileOf s t
  let tick := tickOf s t
  let a := effAddr x sdesc.toNat soff.toNat
  let unit := ownUnit s t a 512
  let isOff := rd s (CH_ROUTE_path t e) == 0
  let opened := on s (CH_EPSTAT_open t e)
  let dry := !isOff && opened && rd s (CH_EPSTAT_credits t e) == 0
  let reads := !isOff && opened
  let busy := match unit with
    | some u => if reads && readBusy x (.xferRead u) (tick + 1) [a / 512] then [2] else []
    | none => []
  let flight := if reads then flightKinds x tick (spanOf a 512) else []
  let s := if dry && willHold s t then bump (noteStall s t 1 e true) (CH_EPSTAT_held_ticks t e) 1 else s
  .next <| issueOp s t 5 false (slotHold x tick 5 ++ flight ++ busy ++ (if dry then [6] else [])) dry fun s =>
    match unit with
    | none => progErr s t errRange 5
    | some u =>
      if isOff || a % 512 != 0 || !tileSpanOk s t a 512 then progErr s t errRange 5
      else if !opened then
        let s := modTile s t fun y => y.use (slotUse 5 tick 1)
        recordOrphan (bump s (CH_EPSTAT_orphan_sends t e) 1) t (rd s (CH_ROUTE_dst_tile t e)) (rd s (CH_ROUTE_dst_q t e))
          e false (pcOf s t)
      else
        let s := wr s (CH_EPSTAT_credits t e) (rd s (CH_EPSTAT_credits t e) - 1)
        modTile (readFinds s a 512) t fun y =>
          { (y.sched ⟨tick + 1, false, 5, .sendLine e (Store.getD y.epInc e 0) (pcOf s t) a, tick⟩).use
              (⟨.xferRead u, tick + 1, a / 512⟩ :: slotUse 5 tick 1) with unsettled := y.unsettled + 1, newMsg := 1, stall := none }

/-- A credit, or a token, sent back from queue `q` of tile `t` to the endpoint that writes it (R207, R208, R213). -/
def sendBack (s : State) (t q : Nat) (mk : Nat → Option Nat → Cargo) : State :=
  let w := rd s (CH_QSTAT_writer_tile t q)
  let e := rd s (CH_QSTAT_writer_ep t q)
  let present := if rd s (CH_ROUTE_path w e) == 1 then some (gridTick (tileOf s t) (tickOf s t) + 6) else none
  sendItem s ⟨mk e present, t, w, jobOfTile s t, epochOfTile s t, s.now⟩

/-- CRECV: takes the oldest line of a queue into a scratchpad line and returns its credit (R207, R210). -/
def opCrecv (t : Nat) (q : BitVec 4) (ddesc : BitVec 6) (doff : BitVec 9) (s : State) :
    Host.Outcome State Fault Refusal :=
  let s := settleCrossing s t
  let k := q.toNat
  let x := tileOf s t
  let tick := tickOf s t
  let a := effAddr x ddesc.toNat doff.toNat
  let unit := ownUnit s t a 512
  let opened := on s (CH_QSTAT_open t k)
  let lines := Store.getD x.queues k []
  let empty := opened && (match lines with
    | [] => true
    | l :: _ => decide (tick < l.present))
  let busy := match unit with
    | some u => if opened && portBusy x 1 (.xferWrite u) [tick + 2] then [2] else []
    | none => []
  let s := if empty && willHold s t then noteStall s t 2 k true else s
  .next <| issueOp s t 5 false (slotHold x tick 5 ++ (if opened then flightKinds x tick (spanOf a 512) else [])
      ++ busy ++ (if empty then [7] else [])) empty fun s =>
    if !opened then progErr s t errQueueClosed 5
    else match unit, lines with
      | some u, l :: r =>
        if a % 512 != 0 || !tileSpanOk s t a 512 then progErr s t errRange 5
        else
          let s := modTile s t fun y =>
            { (((y.sched ⟨tick + 2, true, 5, .write a (plain l.data), tick⟩).mark
                [⟨.bytes a 512, 5, tick, tick + 3, tick + 3, false, 1⟩]).use
                (⟨.xferWrite u, tick + 2, 0⟩ :: slotUse 5 tick 1)) with queues := Store.put y.queues k [] r, stall := none }
          let s := wr s (CH_QSTAT_fill t k) r.length
          let pc := pcOf s t
          sendBack s t k fun e p => .credit e pc p
      | _, _ => progErr s t errRange 5

/-- QOPEN: opens a closed queue with the next incarnation and tells its endpoint; within 4 µs of the last one it is held
(R213). -/
def opQopen (t : Nat) (q : BitVec 4) (s : State) : Host.Outcome State Fault Refusal :=
  let s := settleCrossing s t
  let k := q.toNat
  let x := tileOf s t
  let tick := tickOf s t
  let bad := on s (CH_QSTAT_open t k) || rd s (CH_QSTAT_depth t k) == 0
  let early := !bad && decide (s.now < Store.getD x.qOpened k 0 + 4000)
  .next <| issueOp s t 5 false (slotHold x tick 5 ++ (if early then [9] else [])) false fun s =>
    if bad then progErr s t errQueueState 5
    else
      let inc := (rd s (CH_QSTAT_incarnation t k) + 1) % 256
      let s := wrs s [(CH_QSTAT_incarnation t k, inc), (CH_QSTAT_open t k, 1), (CH_QSTAT_fill t k, 0)]
      let s := modTile s t fun y => { y.use (slotUse 5 tick 1) with
        queues := Store.erase y.queues k, qOpened := Store.set y.qOpened k s.now, unsettled := y.unsettled + 1, newMsg := 1 }
      sendBack s t k fun e p => .token e true inc p

/-- A queue closed: its lines are discarded and counted (R211). -/
def dropQueue (s : State) (t q : Nat) : State :=
  let n := (Store.getD (tileOf s t).queues q []).length
  let s := bump s (CH_QSTAT_unread t q) n
  let s := modTile s t fun x => { x with queues := Store.erase x.queues q }
  wrs s [(CH_QSTAT_open t q, 0), (CH_QSTAT_fill t q, 0)]

/-- QCLOSE: closes a queue and tells its endpoint; of a queue closed already, no effect (R204, R211). -/
def opQclose (t : Nat) (q : BitVec 4) (s : State) : Host.Outcome State Fault Refusal :=
  let s := settleCrossing s t
  let k := q.toNat
  let tick := tickOf s t
  .next <| issueOp s t 5 false (slotHold (tileOf s t) tick 5) false fun s =>
    let s := modTile s t fun y => y.use (slotUse 5 tick 1)
    if on s (CH_QSTAT_open t k) then
      let s := modTile (dropQueue s t k) t fun y => { y with unsettled := y.unsettled + 1, newMsg := 1 }
      sendBack s t k fun e p => .token e false 0 p
    else s

/-- Every open queue of a tile closed as its task completes: the writers learn it by close tokens, for which nothing
waits (R211, R212). -/
def closeQueues (s : State) (t : Nat) : State :=
  (List.range 16).foldl (fun s k =>
    if on s (CH_QSTAT_open t k) then
      let s := modTile (dropQueue s t k) t fun y => { y with unsettled := y.unsettled + 1 }
      sendBack s t k fun e p => .token e false 0 p
    else s) s

end Sys2Proof.Machine
end

