-- ==== Sys2Proof/Machine/Sync.lean ====
section
/-! DEFINITION. Sync counters: SINC, SWAIT, increments, releases, the watchdog (08_channels_and_sync.md, R216 to R226,
R229). -/

namespace Sys2Proof.Machine

/-- SINC: an increment sent once the earlier writes and lines of the tile are visible (R218). -/
def opSinc (t : Nat) (ctr : BitVec 16) (amt : BitVec 3) (s : State) : Host.Outcome State Fault Refusal :=
  let tick := tickOf s t
  .next <| issueOp s t 5 false (slotHold (tileOf s t) tick 5) false fun s =>
    if !ctrOk s t ctr.toNat then progErr s t errRange 5
    else
      let pc := pcOf s t
      modTile s t fun y =>
        { (y.sched ⟨tick + 1, false, 5, .sendIncr ctr.toNat (count amt) pc, tick⟩).use (slotUse 5 tick 1) with
          unsettled := y.unsettled + 1, newMsg := 1 }

/-- A release of a SWAIT sent to its tile. -/
def grant (s : State) (t : Nat) : State :=
  modTile s t fun x => { x with waits := x.waits.map fun w => match w with
    | .swait i _ => .swait i true
    | w => w }

/-- A waiter put in its place: behind those of earlier cycles and, on one cycle, by logical tile (R221). -/
def addWaiter (l : List Waiter) (w : Waiter) : List Waiter :=
  l.filter (fun v => decide (v.since < w.since) || (v.since == w.since && decide (v.tile < w.tile)))
    ++ [w] ++ l.filter (fun v => !(decide (v.since < w.since) || (v.since == w.since && decide (v.tile < w.tile))))

/-- SWAIT: at the counter's turn its condition is met, or it waits; the sequencer is held until the release (R221). -/
def opSwait (t : Nat) (ctr : BitVec 16) (consume : Bool) (s : State) : Host.Outcome State Fault Refusal :=
  let tick := tickOf s t
  let c := ctr.toNat
  .next <| issueOp s t 5 false (slotHold (tileOf s t) tick 5) false fun s =>
    if !ctrOk s t c then progErr s t errRange 5
    else
      let v := rd s (SYN_CTR_value c)
      let th := rd s (SYN_CTR_threshold c)
      let met := decide (th ≤ v)
      let pc := pcOf s t
      let s := modTile s t fun y =>
        { y.use (slotUse 5 tick 1) with waits := .swait tick met :: y.waits, stall := some (3, c, pc) }
      if met then (if consume then wr s (SYN_CTR_value c) (v - th) else s)
      else { s with waiters := addWaiter s.waiters ⟨s.now, t, c, consume⟩ }

/-- The waiters on a counter examined in arrival order after an increment (R221). -/
def examine (s : State) (c : Nat) : List Waiter → State
  | [] => s
  | w :: r =>
    let th := rd s (SYN_CTR_threshold c)
    let v := rd s (SYN_CTR_value c)
    if w.ctr = c ∧ th ≤ v then
      let s := if w.consume then wr s (SYN_CTR_value c) (v - th) else s
      let s := { s with waiters := s.waiters.erase w }
      examine (grant s w.tile) c r
    else examine s c r

/-- A stale increment counted and, when it is the first, recorded (R219). -/
def staleIncr (s : State) (ctr : Nat) (i : Item) : State :=
  let s := bump s SYN_STATS_stale 1
  let s := if on s SYN_STALE_INFO_valid then s else
    wrs s [(SYN_STALE_INFO_counter, ctr), (SYN_STALE_INFO_job_id, i.job), (SYN_STALE_INFO_epoch, i.epoch),
      (SYN_STALE_INFO_source, i.src), (SYN_STALE_INFO_valid, 1)]
  raise s CTL_DISP_CAUSE_cause 0

/-- An increment past the counter's top: not applied; the job ends with SYNC_OVERFLOW (R220, R239). -/
def syncOverflow (s : State) (ctr slot pc : Nat) (i : Item) : State :=
  let s := if on s SYN_STATS_overflow_valid then s else
    wrs s [(SYN_STATS_overflow_ctr, ctr), (SYN_STATS_overflow_valid, 1)]
  if i.src < s.part.tiles then progErrAt s i.src errSyncOverflow slot pc
  else match runningRun s i.job with
    | some (r, _) => modRun s r fun x => x.noteStop (.program 0xFFF errSyncOverflow 0 0 (windowNow s))
    | none => s

/-- The reply counter of a job's form (R297). -/
def replyCounter (s : State) (j : Nat) : Option Nat := ((Store.get? s.jobs j).bind (·.form)).map (·.replyCtr)

/-- The post counter of the grading engines, when they are armed for a job (R309, R314). -/
def postCounter (s : State) (j : Nat) : Option Nat :=
  if on s GRD_JOB_en && rd s GRD_JOB_job_id == j then (Store.get? s.jobs j).map fun x => x.ctrFirst + rd s GRD_RING_post_ctr
  else none

/-- An increment applied at the control die (R219 to R221); one of the post counter is only made known to net die 0
(R314). -/
def applyIncr (s : State) (ctr amt slot pc : Nat) (i : Item) : State :=
  let v := rd s (SYN_CTR_value ctr)
  if (runningRun s i.job).isNone || rd s (SYN_CTR_threshold ctr) == 0 || rd s (SYN_CTR_job_id ctr) != i.job
      || rd s (SYN_CTR_epoch ctr) != i.epoch then staleIncr s ctr i
  else if postCounter s i.job = some ctr then { s with netNotes := s.netNotes ++ [ctr] }
  else if 0xFFFFFF < v + amt then syncOverflow s ctr slot pc i
  else
    let s := wr s (SYN_CTR_value ctr) (v + amt)
    let s := if replyCounter s i.job = some ctr then { s with netNotes := s.netNotes ++ [ctr] } else s
    examine s ctr s.waiters

/-- Whether an earlier line of a tile is still on its way: a SINC takes effect after it (R218). -/
def lineBefore (t ctr : Nat) : List Item → Bool
  | [] => false
  | i :: r =>
    match i.cargo with
    | .line .. => i.src == t || lineBefore t ctr r
    | .incr c _ _ _ settles => if i.src = t ∧ c = ctr ∧ settles then false else lineBefore t ctr r
    | _ => lineBefore t ctr r

/-- Whether an item is an increment of a counter by an issuer. -/
def isIncr (src ctr : Nat) (i : Item) : Bool :=
  i.src == src && (match i.cargo with
    | .incr c .. => c == ctr
    | _ => false)

/-- COUNTER_INCREMENT: the oldest increment of a counter by an issuer reaches the control die (R218 to R221).
DESIGN CHOICE (log 8); DEDUCED (log 16). -/
def execCounterIncrement (src ctr : Nat) (s : State) : Host.Outcome State Fault Refusal :=
  .next <| match takeItem s (isIncr src ctr) with
    | some (i, s') =>
      (match i.cargo with
      | .incr c amt slot pc settles =>
        if settles && lineBefore src ctr s.fabric then s
        else applyIncr (if settles then settleMsg s' i else s') c amt slot pc i
      | _ => s)
    | none => s

/-- SWAIT_RELEASE: the release reaches the tile; `u` is the tick that begins at or after that instant (R221).
DESIGN CHOICE (log 7). -/
def execSwaitRelease (t u : Nat) (s : State) : Host.Outcome State Fault Refusal :=
  let x := tileOf s t
  .next <| match x.waits.find? (fun w => match w with | .swait _ true => true | _ => false) with
    | some (.swait issued _) =>
      if seqState s t = 2 then
        endWait s t (x.waits.filter fun w => match w with | .swait _ _ => false | _ => true) (max (issued + 4) (u + 1))
      else s
    | _ => s

/-! ### The stall watchdog (R224 to R226) -/

/-- What a tile is stalled on now: kind, object and pc. DEDUCED (log 17). -/
def stalledOn (s : State) (t : Nat) : Option (Nat × Nat × Nat) :=
  if seqState s t = 2 ∨ seqState s t = 3 then (tileOf s t).stall else none

/-- The other end of a queue a tile waits on: the reader of an endpoint, the writer of a queue. -/
def otherEnd (s : State) (t kind obj : Nat) : Nat :=
  if kind = 1 then rd s (CH_ROUTE_dst_tile t obj) else rd s (CH_QSTAT_writer_tile t obj)

/-- The tiles of a job. -/
def tilesOfJob (s : State) (j : Nat) : List Nat :=
  (List.range s.part.tiles).filter fun t => on s (TIL_MODE_bound t) && jobOfTile s t == j

/-- The stalled ticks of a tile, the tick at which it stands included while a SWAIT holds it (R224). -/
def stalledNow (s : State) (t : Nat) : Nat :=
  match (if seqState s t == 2 then (tileOf s t).waits.find? Wait.stalls else none) with
  | some (.swait issued _) => nowTick s t - issued
  | _ => rd s (CH_WDOG_stalled t)

/-- The ticks of a tile passed up to the one on which its count reaches the watchdog limit: those of a hold are held ticks of it
(R225, R226, R236). DEDUCED (log 17). -/
def reachLimit (s : State) (t : Nat) : State :=
  let lim := 2 ^ rd s (CH_WDOG_limit_log2 t)
  let s := match (if seqState s t == 2 then (tileOf s t).waits.find? Wait.stalls else none) with
    | some (.swait issued _) => setTick s t (max (tickOf s t) (issued + lim))
    | _ =>
      let left := lim - rd s (CH_WDOG_stalled t)
      let kind := ((tileOf s t).hold.map (·.kind)).getD 6
      if left = 0 then s else setTick (countHeld s t kind 5 left) t (tickOf s t + left - 1)
  wr s (CH_WDOG_stalled t) lim

/-- The stall record released as the WATCHDOG bit of its side-A tile clears (R226). -/
def releaseStall (s : State) (t : Nat) : State :=
  if on s CH_STALL_A_valid && rd s CH_STALL_A_tile == t then wrs s [(CH_STALL_A_valid, 0), (CH_STALL_B_valid, 0)] else s

/-- WATCHDOG: the stalled ticks of the tiles named have reached the limit of their job; every tile of the job stops on
that tick and the two sides are recorded (R226). DEDUCED (log 17). -/
def execWatchdog (tiles : List Nat) (s : State) : Host.Outcome State Fault Refusal :=
  let hit := tiles.filter fun t => (stalledOn s t).isSome
  .next <| match hit with
    | [] => s
    | h :: r =>
      let a := minOr h r
      match stalledOn s a with
      | none => s
      | some (kind, obj, pc) =>
        let j := jobOfTile s a
        let s := hit.foldl (fun s t => if jobOfTile s t = j then reachLimit s t else s) s
        let cycle := kind == 3
        let mine := tilesOfJob s j
        let bSide : Option (Nat × Nat × Nat) :=
          if cycle then (mine.find? fun t => t != a && (stalledOn s t).isSome).map fun t =>
            (t, ((stalledOn s t).getD (0, 0, 0)).1, ((stalledOn s t).getD (0, 0, 0)).2.1)
          else
            let o := otherEnd s a kind obj
            some (o, ((stalledOn s o).getD (0, 0, 0)).1, ((stalledOn s o).getD (0, 0, 0)).2.1)
        let s := if on s CH_STALL_A_valid then s else
          let s := wrs s [(CH_STALL_A_tile, a), (CH_STALL_A_kind, kind), (CH_STALL_A_object, obj), (CH_STALL_A_job_id, j),
            (CH_STALL_A_cause, b2n cycle), (CH_STALL_A_valid, 1)]
          match bSide with
          | some (t, k, o) => wrs s [(CH_STALL_B_tile, t), (CH_STALL_B_kind, k), (CH_STALL_B_object, o),
              (CH_STALL_B_job_id, j), (CH_STALL_B_valid, 1)]
          | none => wrs s [(CH_STALL_B_tile, 0), (CH_STALL_B_kind, 0), (CH_STALL_B_object, 0), (CH_STALL_B_job_id, 0),
              (CH_STALL_B_valid, 0)]
        let s := raise s (TIL_CAUSE_cause a) 5
        let s := progErrAt s a (if cycle then errWaitCycle else errDeadlock) 5 pc
        mine.foldl (fun s t => if t = a then s else stopTile s t) s

end Sys2Proof.Machine
end

