-- ==== Sys2Proof/Machine/Locker.lean ====
section
/-! DEFINITION. The locker store: its description, the operations its home hubs serve, and the undo log
(07_memory_tiers_and_transfers.md, R184 to R187; 06, R161; 14, R355). -/

namespace Sys2Proof.Machine

/-- Whether a job of a partition is loaded. -/
def partLoaded (s : State) (q : Nat) : Bool := s.jobs.any fun p => p.2.part == q

/-- The head byte of a locker is at this module address (R185). -/
def headAddr (s : State) (q m : Nat) : Nat := rd s (LPD_LKS_HEAD_head_base q) + m

/-- Whether a span lies in the LPDDR6 range and in a partition's range (R184, R355). -/
def lpdSpanOk (s : State) (q a n : Nat) : Bool :=
  placeOf s a == .lpd && decide (0 < n) && decide (n ≤ roomAt s a) && partOwns s q a n

/-- Whether two spans share no byte. -/
def disjoint (a n b m : Nat) : Bool := decide (a + n ≤ b) || decide (b + m ≤ a)

/-- Whether the store a partition's registers describe is valid (R184). -/
def lockerValid (s : State) (q : Nat) : Bool :=
  let base := rd s (LPD_LKS_BASE_base q)
  let head := rd s (LPD_LKS_HEAD_head_base q)
  let n := rd s (LPD_LKS_COUNT_count q)
  let lb := lockerBytes s q
  let eb := eventBytes s q
  base % 4096 == 0 && head % 4096 == 0 && decide (1 ≤ n) && decide (4096 ≤ lb) && lb % 4096 == 0 && decide (lb ≤ 65536)
    && decide (32 ≤ eb) && lb % eb == 0 && decide (lb / eb ≤ 256) && lpdSpanOk s q base (n * lb) && lpdSpanOk s q head n
    && disjoint base (n * lb) head n

/-- LKS_REGISTER_WRITE: a write of a locker-store register, validity evaluated again; dropped with LKS_BUSY while a job
of the partition is loaded (R184, R411). -/
def execLksRegisterWrite (fn off : Nat) (v : Word64) (s : State) : Host.Outcome State Fault Refusal :=
  let q := (off - 0x60100) / 0x20
  .next <|
    if off < 0x60100 ∨ 0x60200 ≤ off ∨ !fnOwns s fn q then s
    else if partLoaded s q then raise s LPD_CAUSE_cause 3
    else
      let w := v.toNat
      let s := match (off - 0x60100) % 0x20 / 8 with
        | 0 => wr s (LPD_LKS_BASE_base q) w
        | 1 => wr s (LPD_LKS_HEAD_head_base q) w
        | 2 => wrs s [(LPD_LKS_SHAPE_locker_units q, w), (LPD_LKS_SHAPE_event_units q, w / 2 ^ 16)]
        | _ => wr s (LPD_LKS_COUNT_count q) w
      let ok := lockerValid s q
      let s := wr s (LPD_LKS_SHAPE_valid q) (b2n ok)
      if !ok && rd s (LPD_LKS_COUNT_count q) != 0 && rd s (LPD_LKS_SHAPE_locker_units q) != 0
          && rd s (LPD_LKS_SHAPE_event_units q) != 0 then raise s LPD_CAUSE_cause 2 else s

/-! ### The undo log (R355) -/

/-- The size of a partition's undo log in bytes. -/
def undoBytes (s : State) (q : Nat) : Nat :=
  let k := rd s (REL_UNDO_CFG_log2_bytes q)
  2 ^ (if 12 ≤ k ∧ k ≤ 30 then k else 12)

/-- The first address of a partition's undo log. -/
def undoBase (s : State) (q : Nat) : Nat := 4096 * rd s (REL_UNDO_BASE_base q)

/-- The 16 header bytes of an undo entry: locker, old head, kind (1 append, 2 store). -/
def undoHeader (locker head kind : Nat) : Bytes := toLE 5 locker ++ toLE 1 head ++ toLE 1 kind ++ List.replicate 9 0

/-- An entry appended before a locker write of run `r` takes effect; the log is emptied at the run's first one; an entry
that does not fit, and a write no log covers, end the run's right to a retake (R354, R355). -/
def undoAppend (s : State) (q r locker head kind : Nat) (old : Bytes) : State :=
  let covered := on s (REL_UNDO_CFG_en q) && on s (REL_UNDO_CFG_valid q)
  if !covered then modRun s r fun x => { x with undoBroken := true, wrote := true }
  else
    let s := if Store.get? s.undoRun q = some r then s
      else { wr s (REL_UNDO_CFG_used q) 0 with undoRun := Store.set s.undoRun q r }
    let s := modRun s r fun x => { x with wrote := true }
    let used := rd s (REL_UNDO_CFG_used q)
    let e := undoHeader locker head kind ++ old
    if undoBytes s q < used + e.length then
      modRun (raise s REL_CAUSE_cause 7) r fun x => { x with undoBroken := true }
    else wr (writeBytes s (undoBase s q + used) e) (REL_UNDO_CFG_used q) (used + e.length)

/-- The entries of an undo log from an offset on: locker, old head, kind, the bytes overwritten. -/
def undoEntries (s : State) (q used : Nat) : Nat → Nat → List (Nat × Nat × Nat × Bytes)
  | 0, _ => []
  | n + 1, off =>
    if used ≤ off then []
    else
      let h := readBytes s (undoBase s q + off) 16
      let kind := fieldLE h 6 1
      let len := if kind = 1 then eventBytes s q else lockerBytes s q
      (fieldLE h 0 5, fieldLE h 5 1, kind, readBytes s (undoBase s q + off + 16) len)
        :: undoEntries s q used n (off + 16 + len)

/-- An undo log applied: its entries restored in reverse order, head bytes included; the log is then empty (R355). -/
def undoApply (s : State) (q : Nat) : State :=
  let used := rd s (REL_UNDO_CFG_used q)
  let es := (undoEntries s q used (used / 16 + 1) 0).reverse
  let s := es.foldl (fun s e =>
    let (locker, head, kind, old) := e
    let a := lockerAddr s q locker + (if kind = 1 then head * eventBytes s q else 0)
    writeByte (writeOther s a old) (headAddr s q locker) (BitVec.ofNat 8 head)) s
  wr s (REL_UNDO_CFG_used q) 0

/-- UNDO_LOG_ENABLE: a write of REL_UNDO_CFG: with en, valid only where the ring meets R355, else UNDO_BAD.
DEDUCED (log 18). -/
def execUndoLogEnable (fn q : Nat) (v : Word64) (s : State) : Host.Outcome State Fault Refusal :=
  .next <|
    if !fnOwns s fn q then s
    else
      let w := v.toNat
      let s := wrs s [(REL_UNDO_CFG_log2_bytes q, w), (REL_UNDO_CFG_en q, w / 32), (REL_UNDO_CFG_used q, 0)]
      let s := { s with undoRun := Store.erase s.undoRun q }
      if !on s (REL_UNDO_CFG_en q) then wr s (REL_UNDO_CFG_valid q) 0
      else
        let n := undoBytes s q
        let stored := on s (LPD_LKS_SHAPE_valid q)
        let ok := lpdSpanOk s q (undoBase s q) n
          && (!stored || (disjoint (undoBase s q) n (rd s (LPD_LKS_BASE_base q)) (rd s (LPD_LKS_COUNT_count q) * lockerBytes s q)
            && disjoint (undoBase s q) n (rd s (LPD_LKS_HEAD_head_base q)) (rd s (LPD_LKS_COUNT_count q))))
        if ok then wr s (REL_UNDO_CFG_valid q) 1 else raise (wr s (REL_UNDO_CFG_valid q) 0) REL_CAUSE_cause 6

/-! ### The operations (R161, R186) -/

/-- The run that issued a locker operation, while it is still the attempt that issued it. -/
def runOfOp (s : State) (o : LockerOp) : Option (Nat × Run) :=
  s.runs.find? fun p => p.2.job == o.job && p.2.epoch == o.epoch
    && (p.2.phase == .running || p.2.phase == .stopping || p.2.phase == .aborting)

/-- The bytes of a locker in logical order from its head (R186). -/
def logicalLocker (s : State) (q m head : Nat) : Bytes :=
  let d := readBytes s (lockerAddr s q m) (lockerBytes s q)
  let k := head * eventBytes s q
  d.drop k ++ d.take k

/-- The locker and its head written as one step (R186). -/
def lockerWrite (s : State) (o : LockerOp) (a head kind newHead : Nat) (data : Bytes) : State :=
  let old := readBytes s a data.length
  let s := match runOfOp s o with
    | some (r, _) => undoAppend s o.part r o.locker head kind old
    | none => s
  writeByte (writeOther s a data) (headAddr s o.part o.locker) (BitVec.ofNat 8 newHead)

/-- What a locker operation does at its hub; `none` where the head byte is at or above E (R186). DEDUCED (log 18). -/
def lockerEffect (s : State) (o : LockerOp) : Option State :=
  let q := o.part
  let lb := lockerBytes s q
  let eb := eventBytes s q
  let head := (readByte s (headAddr s q o.locker)).toNat
  match o.kind with
  | .store => some (lockerWrite s o (lockerAddr s q o.locker) head 2 0 (readBytes s o.addr lb))
  | .append =>
    if lb / eb ≤ head then none
    else some (lockerWrite s o (lockerAddr s q o.locker + head * eb) head 1 ((head + 1) % (lb / eb)) (readBytes s o.addr eb))
  | .fetch =>
    if lb / eb ≤ head then none
    else
      let d := logicalLocker s q o.locker head
      let s := writeOther s o.addr d
      match runOfOp s o with
      | some (r, _) =>
        if auditOn s q then
          let tt := rd s (TIL_MODE_task_tile o.tile)
          some (modRun s r fun x =>
            { x with fetches := Store.set x.fetches tt (Store.getD x.fetches tt [] ++ [(o.ord, sha384 d)]) })
        else some s
      | none => some s

/-- A locker operation of the run its tile serves complete, and counted (R73, R164). -/
def opSettled (s : State) (o : LockerOp) : State :=
  let s := match o.kind with
    | .fetch => bump s (AID_LOCKER_fetches o.tile) 1
    | _ => bump s (AID_LOCKER_writes o.tile) 1
  if o.job = jobOfTile s o.tile ∧ o.epoch = epochOfTile s o.tile then
    noteDelivered (modTile s o.tile fun x => { x with aidOut := x.aidOut - 1 }) o.tile
  else s

/-- LOCKER_OP_DONE: the oldest operation at a hub completes whole and adds 1 to its counter; with a bad head byte it moves
nothing and raises LOCKER_RANGE at its tile (R161, R186, R187). DEDUCED (log 18). -/
def execLockerOpDone (hub : Nat) (s : State) : Host.Outcome State Fault Refusal :=
  .next <| match Store.getD s.lockerQ hub [] with
    | [] => s
    | o :: r =>
      let s := { s with lockerQ := Store.put s.lockerQ hub [] r }
      match lockerEffect s o with
      | some s => sendItem (opSettled s o) ⟨.incr o.ctr 1 3 o.pc false, o.tile, 0xFFF, o.job, o.epoch, s.now⟩
      | none =>
        let s := if o.job = jobOfTile s o.tile ∧ o.epoch = epochOfTile s o.tile then modTile s o.tile fun x => { x with aidOut := x.aidOut - 1 } else s
        if (runningRun s o.job).isSome && Store.getD s.epochs o.job 0 == o.epoch then
          let s := if rd s (AID_ERR_INFO_cause o.tile) = 0 then
              wrs s [(AID_ERR_INFO_cause o.tile, 3), (AID_ERR_INFO_pc o.tile, o.pc), (AID_ERR_INFO_aide o.tile, o.aide),
                (AID_ERR_INFO_op o.tile, match o.kind with | .fetch => 0x38 | .store => 0x39 | .append => 0x3A)]
            else s
          progErrAt s o.tile errLockerRange 3 o.pc
        else s

end Sys2Proof.Machine
end

