-- ==== Sys2Proof/Machine/Audit.lean ====
section
/-! DEFINITION. Audit: lines, the RUN, SIGN, SIG and GAP records, the chain and its log ring
(13_determinism_and_audit.md, R331, R335 to R350). -/

namespace Sys2Proof.Machine

/-- What audit keeps for a partition before anything is written. -/
def AudSt.init : AudSt := ⟨[], none, none, none, 0, false, []⟩

/-- Whether the module is one of a pair: state PAIRED or SPLIT (R366, R371). -/
def paired (s : State) : Bool := rd s DBL_STATUS_state == 2 || rd s DBL_STATUS_state == 4

/-- The audit state of a partition. -/
def audOf (s : State) (q : Nat) : AudSt := Store.getD s.aud q AudSt.init

/-- The state with a partition's audit state changed. -/
def modAud (s : State) (q : Nat) (f : AudSt → AudSt) : State := { s with aud := Store.set s.aud q (f (audOf s q)) }

/-! ### The ring (R341) -/

/-- The bytes of a partition's log ring. -/
def ringBytes (s : State) (q : Nat) : Nat :=
  let k := rd s (AUD_LOG_CFG_log2_bytes q)
  2 ^ (if 20 ≤ k ∧ k ≤ 40 then k else 20)

/-- The bytes of the ring in use: from the head to the tail. -/
def ringUsed (s : State) (q : Nat) : Nat :=
  let n := ringBytes s q
  (rd s (AUD_LOG_TAIL_tail q) + n - rd s (AUD_LOG_HEAD_head q) % n) % n

/-- The prefix of a record (R342). -/
def recPrefix (kind q len num : Nat) (prev : Bytes) : Bytes :=
  toLE 1 kind ++ [1] ++ toLE 1 q ++ [0] ++ toLE 4 len ++ toLE 8 num ++ prev

/-- Bytes written to the ring at its tail, on behalf of the physical function (R341, R419). DEDUCED (log 36). -/
def ringPut (s : State) (q : Nat) (b : Bytes) : State :=
  let t := rd s (AUD_LOG_TAIL_tail q)
  wr (emitOut s (.hostWrite 0 (4096 * rd s (AUD_LOG_BASE_base q) + t) b)) (AUD_LOG_TAIL_tail q) ((t + b.length) % ringBytes s q)

/-- A record written to the ring where it fits before the head, a PAD record before it where it would cross the end. -/
def ringWrite (s : State) (q : Nat) (b : Bytes) : Option State :=
  let n := ringBytes s q
  let t := rd s (AUD_LOG_TAIL_tail q)
  let pad := if n < t + b.length then n - t else 0
  if ringUsed s q + pad + b.length < n then
    let s := if pad = 0 then s
      else ringPut s q (sliceB (recPrefix 0 q pad 0 zeroDigest) 0 pad)
    let before := 2 * (n - ringUsed s q)
    let s := ringPut s q b
    some (if n ≤ before ∧ 2 * (n - ringUsed s q) < n then raise s AUD_CAUSE_cause 5 else s)
  else none

/-- Held records written in order while they fit. -/
def drain : Nat → State → Nat → State
  | 0, s, _ => s
  | k + 1, s, q =>
    match (audOf s q).heldRecs with
    | [] => s
    | b :: r =>
      match ringWrite s q b with
      | some s' => drain k (modAud s' q fun a => { a with heldRecs := r }) q
      | none => s

/-- Every held record that fits written. -/
def drainAll (s : State) (q : Nat) : State := drain (audOf s q).heldRecs.length s q

/-- Whether a record of `n` bytes fits in the held space of 4 MiB. -/
def fitsHeld (s : State) (q n : Nat) : Bool :=
  decide (sumL ((audOf s q).heldRecs.map List.length) + n ≤ 4194304)

/-- The hash of the last chain record (AUD_HEAD_HASH). -/
def headHash (s : State) (q : Nat) : Bytes :=
  (List.range 6).flatMap fun i => toLE 8 (rd s (AUD_HEAD_HASH_hash q i))

/-- The head of the chain set: number and hash. -/
def setHead (s : State) (q num : Nat) (h : Bytes) : State :=
  let s := wr s (AUD_HEAD_NUM_head_num q) num
  (List.range 6).foldl (fun s i => wr s (AUD_HEAD_HASH_hash q i) (fieldLE h (8 * i) 8)) s

/-- A chain record formed with the partition's next number (R342); one that does not fit is discarded and counted, and its
number is lost (R341). -/
def chainOne (s : State) (q kind : Nat) (body : Bytes) : State :=
  let num := rd s (AUD_NEXT_NUM_next_num q)
  let b := recPrefix kind q (64 + body.length) num (headHash s q) ++ body
  let s := wr s (AUD_NEXT_NUM_next_num q) (num + 1)
  if fitsHeld s q b.length then
    drainAll (modAud (setHead s q num (sha384 b)) q fun a => { a with heldRecs := a.heldRecs ++ [b] }) q
  else
    let s := raise (bump s (AUD_STATS_overruns q) 1) AUD_CAUSE_cause 1
    modAud s q fun a => { a with lost := some (match a.lost with | some (f, _) => (f, num) | none => (num, num)) }

/-- The body of a GAP record (R344). -/
def gapBody (first last reason todNow : Nat) : Bytes :=
  toLE 8 first ++ toLE 8 last ++ toLE 8 reason ++ toLE 8 todNow ++ List.replicate 32 0

/-- A GAP record formed. -/
def gapRecord (s : State) (q first last reason : Nat) : State :=
  raise (chainOne s q 3 (gapBody first last reason (tod s))) AUD_CAUSE_cause 2

/-- A GAP of reason 0x02 formed where numbers have been lost and there is room for it (R341, R344). -/
def gapFirst (s : State) (q : Nat) : State :=
  match (audOf s q).lost with
  | some (f, l) => if fitsHeld s q 128 then gapRecord (modAud s q fun a => { a with lost := none }) q f l 2 else s
  | none => s

/-- A chain record formed, a GAP before it where one is due. -/
def chainRecord (s : State) (q kind : Nat) (body : Bytes) : State := chainOne (gapFirst s q) q kind body

/-! ### Lines (R337, R338) -/

/-- The 128 bytes of a line. -/
def lineBytes (isCarry : Bool) (plan status index tag ts : Nat) (record payload : Bytes) : Bytes :=
  toLE 1 (b2n isCarry + 4 * plan) ++ toLE 1 status ++ toLE 2 index ++ toLE 1 payload.length ++ List.replicate 3 0
    ++ toLE 8 tag ++ toLE 8 ts ++ sha384 record ++ sliceB payload 0 32 ++ List.replicate 24 0

/-- The leaf of a line (R337). -/
def leaf (line : Bytes) : Bytes := sha384 ((0 : Byte) :: line)

/-- The order of a run's lines: seats, then carry slots by plan (R339). -/
def Line.order (l : Line) : Nat := (if l.isCarry then 2 ^ 20 * (1 + l.plan) else 0) + l.index

/-- A line put in a run's list, the first formed kept. -/
def addLine (s : State) (r : Nat) (l : Line) : State :=
  modRun s r fun x => if x.lines.any (fun m => m.order == l.order) then x else { x with lines := insertBy Line.order l x.lines }

/-- The report-card identifier (R338). -/
def cardId (serial index kind status q : Nat) (leafBytes : Bytes) : Bytes :=
  toBE 6 serial ++ toBE 2 index ++ toBE 1 kind ++ toBE 1 status ++ toBE 1 q ++ [0] ++ sliceB leafBytes 0 4

/-! ### The RUN record (R335, R339, R340) -/

/-- One level of the Merkle tree. -/
def merkleLevel : List Bytes → List Bytes
  | a :: b :: r => sha384 ((1 : Byte) :: (a ++ b)) :: merkleLevel r
  | l => l

/-- The Merkle root of leaves, by levels. -/
def merkleFuel : Nat → List Bytes → Bytes
  | 0, l => l.headD (sha384 [])
  | _ + 1, [] => sha384 []
  | _ + 1, [a] => a
  | k + 1, l => merkleFuel k (merkleLevel l)

/-- The outputs digest of a run's lines. -/
def outputsDigest (lines : List Line) : Bytes := merkleFuel lines.length (lines.map fun l => leaf l.bytes)

/-- The image a run ran. -/
def jobOfRun (s : State) (x : Run) : Option Job :=
  match x.snap with
  | some j => some j
  | none => Store.get? s.jobs x.job

/-- The layers a run's tiles closed, ascending. -/
def layersOf (x : Run) : List Nat := (sortBy id (x.layersAt.map fun p => p.2.layer)).eraseDups

/-- The entries of a layer, by task tile. -/
def layerItems (x : Run) (l : Nat) : List (Nat × LayerDig) := sortBy (·.1) (x.layersAt.filter fun p => p.2.layer == l)

/-- D[L] (R335). -/
def layerDigest (x : Run) (l : Nat) : Bytes :=
  sha384 ((layerItems x l).flatMap fun p => toLE 2 p.1 ++ toLE 4 p.2.closes ++ p.2.digest)

/-- The layer entries of a record. -/
def layerEntries (x : Run) : Bytes :=
  (layersOf x).flatMap fun l => toLE 2 l ++ toLE 2 (layerItems x l).length ++ List.replicate 12 0 ++ layerDigest x l

/-- The tile entries of a record. -/
def tileEntries (x : Run) : Bytes :=
  (layersOf x).flatMap fun l => (layerItems x l).flatMap fun p =>
    toLE 2 p.1 ++ toLE 2 l ++ toLE 4 p.2.closes ++ List.replicate 8 0 ++ p.2.digest

/-- The decoded records of the seats a run reads, in seat order (R340, R347). -/
def seatRecords (s : State) (x : Run) : List Bytes :=
  match x.kind with
  | .period n => ((s.copies.find? fun c => c.period == n && c.bind == x.subm).map
      fun c => c.seats.map (·.req.record)).getD []
  | .graph => x.replay.map (·.2)

/-- The decoded records of the requests carried into a run's fills, in line order (R340, R348). -/
def carryRecords (s : State) (x : Run) : List Bytes :=
  match x.kind with
  | .period n => ((sortBy (fun c => 2 ^ 20 * c.plan + c.slot)
      (s.carries.filter fun c => c.bind == x.subm && c.into == some n)).filterMap (·.req)).map (·.record)
  | .graph => (sortBy (fun p => 2 ^ 20 * p.1 + p.2.1) x.carryIn).map (·.2.2)

/-- The digests of a run's record (R340, R370). -/
def runDigests (s : State) (x : Run) : RunDigests :=
  let j := jobOfRun s x
  let weights := sha384 ((j.map fun j =>
    ((List.zip (List.range j.regions.length) j.regions).filter fun p => p.2.weight).flatMap fun p =>
      Store.getD j.regionDigs p.1 []).getD [])
  let tiles := (j.map fun j => j.tiles.length).getD 0
  let lockers := sha384 ((List.range tiles).flatMap fun k =>
    sha384 ((sortBy (·.1) (Store.getD x.fetches k [])).flatMap (·.2)))
  { program := (j.map (·.digest)).getD [], weights := weights, seed := sha384 (toLE 16 x.seed)
    inputs := sha384 (sha384 (seatRecords s x).flatten ++ sha384 (carryRecords s x).flatten ++ lockers)
    layers := sha384 (layerEntries x), outputs := outputsDigest x.lines, exam := x.exam }

/-- The body of a RUN record (R339). -/
def runBody (s : State) (q : Nat) (x : Run) : Bytes :=
  let j := jobOfRun s x
  let d := runDigests s x
  let seats := seatRecords s x
  let logL := on s (AUD_CFG_lines q)
  let logR := on s (AUD_CFG_records q)
  let logT := on s (AUD_CFG_tile_entries q)
  let flags := b2n x.forcedFill + 2 * b2n x.carryLost + 4 * b2n ((j.map (·.weightsWritten)).getD false) + 8 * b2n logL
    + 16 * b2n logR + 32 * b2n logT + 64 * b2n x.digestOver
    + 128 * b2n (match x.kind with | .graph => ((j.bind (·.form)).isSome) | .period _ => false)
  let mode := b2n x.exam + 2 * rd s TIM_FREQ_CTL_current + 8 * b2n x.strict + 16 * b2n x.slipFatal
    + 32 * (j.map (·.timing)).getD 0
  let tiles := tileEntries x
  toLE 6 (x.serial.getD 0) ++ toLE 2 x.job ++ toLE 8 x.kickTod ++ toLE 8 (tod s)
    ++ toLE 8 (match x.kind with | .period n => n | .graph => 2 ^ 64 - 1)
    ++ toLE 1 x.outcome ++ toLE 1 x.retakes ++ toLE 1 x.epoch ++ toLE 1 flags ++ toLE 4 mode
    ++ toLE 4 (min x.heldTicks (2 ^ 32 - 1)) ++ toLE 2 ((j.map (·.sizeClass)).getD 0) ++ [1]
    ++ toLE 1 ((j.map (·.isaMinor)).getD 0)
    ++ d.program ++ d.weights ++ d.seed ++ d.inputs ++ d.outputs ++ d.layers
    ++ toLE 4 x.lines.length ++ toLE 2 (layersOf x).length ++ toLE 2 (tiles.length / 64)
    ++ toLE 4 (if logR then ((j.bind (·.form)).map (·.recordBytes)).getD 0 else 0)
    ++ toLE 4 (if logR then seats.length else 0) ++ List.replicate 96 0
    ++ layerEntries x ++ (if logT then tiles else []) ++ (if logL then x.lines.flatMap (·.bytes) else [])
    ++ (if logR then seats.flatten else [])

/-- The partition of a run's job. -/
def partOfRun (s : State) (x : Run) : Nat := ((jobOfRun s x).map (·.part)).getD 8

/-- A run's record formed, once (R339); a doubles run's digests go to the partner (R370). -/
def formRecord (s : State) (r : Nat) : State :=
  match Store.get? s.runs r with
  | none => s
  | some x =>
    if x.recorded then s
    else if x.serial.isNone then modRun s r fun y => { y with recorded := true }
    else
      let q := partOfRun s x
      let s1 := chainRecord s q 1 (runBody s q x)
      let s1 := modRun s1 r fun y => { y with recorded := true }
      match x.name with
      | none => s1
      | some n =>
        if !paired s || x.outcome == 2 then s1
        else
          let d := runDigests s x
          let s1 := { s1 with dbl := { s1.dbl with myDig := s1.dbl.myDig ++ [(n, x.retakes, d)] } }
          emitOut s1 (.pairMsg 6 (toBE 2 n.job ++ toBE 4 n.num ++ toBE 1 x.retakes ++ d.program ++ d.weights ++ d.seed
            ++ d.inputs ++ d.layers ++ d.outputs ++ toBE 1 (b2n d.exam)))

/-- Whether every line of a run has been formed: every seat answered, carried out, or given a line (R339). -/
def linesFormed (s : State) (x : Run) : Bool :=
  match x.kind with
  | .graph => true
  | .period n =>
    (s.copies.all fun c => c.period != n || c.bind != x.subm ||
      (c.seats.zipIdx.all fun p => p.1.status.isSome || p.1.carried || p.1.gone || x.lines.any fun l => !l.isCarry && l.index == p.2))
    && (s.carries.all fun c => c.bind != x.subm || c.into != some n || c.status.isSome || c.req.isNone)

/-- The record of a run that has ended formed once its lines have been; that of an aborted attempt holds the lines it has
(R339). DEDUCED (log 37). -/
def recordRun (s : State) (run : Nat) : State :=
  match Store.get? s.runs run with
  | some x => if (x.phase = .ended ∧ linesFormed s x) ∨ x.phase = .retakeWait then formRecord s run else s
  | none => s

/-! ### Registers of the ring, signatures, enable (R341 to R346) -/

/-- LOG_HEAD_ADVANCE: a write of AUD_LOG_HEAD frees space, and held records are written (R341). DEDUCED (log 37). -/
def execLogHeadAdvance (fn q : Nat) (v : Word64) (s : State) : Host.Outcome State Fault Refusal :=
  .next (if fnOwns s fn q then drainAll (wr s (AUD_LOG_HEAD_head q) v.toNat) q else s)

/-- A SIGN record formed: its signing begins; SIGN_NOW descriptors waiting take its number (R343, R345). One that does not
fit is lost as any record is, and no SIG follows it. -/
def formSign (s : State) (q : Nat) : State :=
  let s := gapFirst s q
  let num := rd s (AUD_NEXT_NUM_next_num q)
  let body := toLE 8 (tod s) ++ toLE 8 (((audOf s q).lastSign).getD (2 ^ 64 - 1)) ++ List.replicate 48 0
  let b := recPrefix 2 q 128 num (headHash s q) ++ body
  let fits := fitsHeld s q 128
  let s := modAud (chainOne s q 2 body) q fun a => { a with signFrom := s.now, signLate := false }
  if fits then
    modAud s q fun a => { a with
      signing := some (num, b), lastSign := some num
      signNow := a.signNow.map fun p => (p.1, match p.2 with | some n => some n | none => some num) }
  else s

/-- A SIGN falls due: formed, or deferred while a SIG is pending (R343). -/
def signDue (s : State) (q : Nat) : State :=
  if (audOf s q).signing.isSome then
    raise (modAud s q fun a => { a with signLate := true, signFrom := s.now }) AUD_CAUSE_cause 4
  else formSign s q

/-- SIGN_TIMER: sign_ms have passed since the interval began (R343). DEDUCED (log 38). -/
def execSignTimer (q : Nat) (s : State) : Host.Outcome State Fault Refusal :=
  let ms := rd s (AUD_CFG_sign_ms q)
  .next (if auditOn s q ∧ ms ≠ 0 ∧ (audOf s q).signFrom + ms * 1000000 ≤ s.now then signDue s q else s)

/-- The SIG record of a SIGN (R343). -/
def sigRecord (s : State) (q num : Nat) (signBytes : Bytes) : Bytes :=
  recPrefix 4 q 36160 num (sha384 signBytes) ++ sliceB (Config.rsaSign signBytes s.freeCtr) 0 384
    ++ sliceB (Config.slhSign signBytes) 0 35664 ++ List.replicate 48 0

/-- AUDIT_ENABLE: a write of AUD_CFG. Setting en starts audit; a GAP of reason 0x01 is its first record where numbers are
missing between the head and next_num (R344, R346). -/
def execAuditEnable (fn q : Nat) (v : Word64) (s : State) : Host.Outcome State Fault Refusal :=
  .next <|
    if !fnOwns s fn q then s
    else
      let w := v.toNat
      let was := auditOn s q
      let s := wrs s [(AUD_CFG_en q, w), (AUD_CFG_lines q, w / 2), (AUD_CFG_records q, w / 4), (AUD_CFG_tile_entries q, w / 8),
        (AUD_CFG_sign_ms q, w / 256)]
      if was || !auditOn s q then s
      else
        let s := modAud s q fun a => { a with signFrom := s.now }
        let next := rd s (AUD_NEXT_NUM_next_num q)
        let head := rd s (AUD_HEAD_NUM_head_num q)
        if next ≠ 0 ∧ head + 1 < next then gapRecord s q (head + 1) (next - 1) 1 else s

end Sys2Proof.Machine
end

