-- ==== Sys2Proof/Machine/Image.lean ====
section
/-! DEFINITION. The program image and its checks that need no placement, in the order of R87
(03_snielo_instruction_set.md, R57, R58, R63, R65, R74 to R79, R81 to R85, R91 to R93; 05, R133; 06, R147 to R151; 07,
R190; 08, R203, R204, R216; 10, R262, R263; 11, R288). Where several fields of one part are at fault the detail word names
the lowest; parts are examined in the order of the section table. -/

namespace Sys2Proof.Machine

/-- The load statuses of R87 and R261. -/
def ldBadMagic : Nat := 0x01
def ldDigest : Nat := 0x02
def ldIsaMajor : Nat := 0x03
def ldIsaMinor : Nat := 0x04
def ldCapability : Nat := 0x05
def ldTimingModel : Nat := 0x06
def ldSizeClass : Nat := 0x07
def ldSection : Nat := 0x08
def ldReserved : Nat := 0x09
def ldLoop : Nat := 0x0A
def ldReloc : Nat := 0x0B
def ldBackEdge : Nat := 0x0C

/-- A failed check: its status and detail word. -/
abbrev LoadErr := Option (Nat × Nat)

/-- Where a fault lies beside the sections (R87). -/
def inHeader : Nat := 0xFFFF
def inSectTab : Nat := 0xFFFE
def inRelocTab : Nat := 0xFFFD
def inBinding : Nat := 0xFFFC

/-- A detail word that names a place and a bit offset in it (R87). -/
def placeWord (sec bit : Nat) : Nat := sec * 2 ^ 48 + bit % 2 ^ 48

/-- The first failure of a list. -/
def firstErr (l : List LoadErr) : LoadErr := l.findSome? id

/-- A failure of a part of the image: the lowest of the fields at fault, by bit offset. -/
def partErr (st sec base : Nat) (l : List (Nat × Bool)) : LoadErr :=
  match (l.filter (·.2)).map (·.1) with
  | [] => none
  | x :: xs => some (st, placeWord sec (base + minOr x xs))

/-- Bit fields of a number that must be zero, by lowest bit and width. -/
def mustZero (v : Nat) (l : List (Nat × Nat)) : List (Nat × Bool) := l.map fun p => (p.1, bitsOf v p.1 p.2 != 0)

/-! ### Structure (R81, R82) -/

/-- An entry of the section table. -/
structure Sect where
  index : Nat
  type : Nat
  target : Nat
  off : Nat
  len : Nat
deriving DecidableEq, Repr

/-- A relocation record (R84). -/
structure Reloc where
  index : Nat
  kind : Nat
  width : Nat
  sect : Nat
  bit : Nat
  target : Nat
  addend : Int
deriving DecidableEq, Repr

/-- The fields of the image header (R81). -/
def hdrFlags (m : Bytes) : Nat := fieldLE m 6 2
def hdrStrict (m : Bytes) : Bool := bitOf (hdrFlags m) 0
def hdrCrossings (m : Bytes) : Bool := bitOf (hdrFlags m) 1
def hdrSealed (m : Bytes) : Bool := bitOf (hdrFlags m) 2
def hdrTiming (m : Bytes) : Nat := fieldLE m 0x0A 1
def hdrSizeClass (m : Bytes) : Nat := fieldLE m 0x0C 2
def hdrTaskTiles (m : Bytes) : Nat := fieldLE m 0x0E 2
def hdrSects (m : Bytes) : Nat := fieldLE m 0x20 4
def hdrRelocs (m : Bytes) : Nat := fieldLE m 0x24 4
def hdrSectTab (m : Bytes) : Nat := fieldLE m 0x28 8
def hdrRelocTab (m : Bytes) : Nat := fieldLE m 0x30 8

/-- The digest field of an image (R81). -/
def imageDigest (m : Bytes) : Bytes := sliceB m 0x80 48

/-- The digest an image has: SHA-384 with the digest field zero (R81, R88). -/
def formedDigest (m : Bytes) : Bytes := sha384 (patchB m 0x80 (List.replicate 48 0))

/-- Rows of `n` bytes of a string. -/
def rowsOf (n : Nat) (b : Bytes) : List (Nat × Bytes) := (List.range (b.length / n)).map fun k => (k, sliceB b (n * k) n)

/-- The section table. -/
def sectsOf (m : Bytes) : List Sect :=
  (rowsOf 32 (sliceB m (hdrSectTab m) (32 * hdrSects m))).map fun p =>
    ⟨p.1, fieldLE p.2 0 2, fieldLE p.2 2 2, fieldLE p.2 8 8, fieldLE p.2 16 8⟩

/-- The relocation table. -/
def relocsOf (m : Bytes) : List Reloc :=
  (rowsOf 16 (sliceB m (hdrRelocTab m) (16 * hdrRelocs m))).map fun p =>
    ⟨p.1, fieldLE p.2 0 1, fieldLE p.2 1 1, fieldLE p.2 2 2, fieldLE p.2 4 4, fieldLE p.2 8 2, signed 48 (fieldLE p.2 10 6)⟩

/-- The bytes of a section. -/
def bodyOf (m : Bytes) (x : Sect) : Bytes := sliceB m x.off x.len

/-- The section of a type and target. -/
def sectOf? (l : List Sect) (ty tg : Nat) : Option Sect := l.find? fun x => x.type == ty && x.target == tg

/-- The bytes of the section of a type and target, none where there is none. -/
def sectBytes (m : Bytes) (ty tg : Nat) : Bytes := ((sectOf? (sectsOf m) ty tg).map (bodyOf m)).getD []

/-- The number of job counters (R216). -/
def ctrCount (m : Bytes) : Nat := fieldLE (sectBytes m 6 0) 0 2

/-- The entries of SYNC_CFG: threshold and initial value (R216). -/
def ctrsOf (m : Bytes) : List (Nat × Nat) :=
  (List.range (ctrCount m)).map fun k =>
    let b := sliceB (sectBytes m 6 0) (16 + 8 * k) 8
    (fieldLE b 0 2, fieldLE b 2 3)

/-- The REGIONS entries. -/
def regionRows (m : Bytes) : List (Nat × Bytes) := rowsOf 32 (sectBytes m 7 0)

/-- The fields of a REGIONS entry (R83). -/
def rgTier (b : Bytes) : Nat := fieldLE b 0 1
def rgWeight (b : Bytes) : Bool := fieldLE b 1 1 == 1
def rgSealed (b : Bytes) : Bool := bitOf (fieldLE b 2 2) 0
def rgNear (b : Bytes) : Bool := bitOf (fieldLE b 2 2) 1
def rgTile (b : Bytes) : Nat := fieldLE b 4 2
def rgSize (b : Bytes) : Nat := fieldLE b 8 8
def rgAlign (b : Bytes) : Nat := fieldLE b 16 8

/-- The REGIONS entry of an index. -/
def regionRow (m : Bytes) (k : Nat) : Option Bytes := ((regionRows m)[k]?).map (·.2)

/-! ### The header (R81, R87, R91, R92) -/

/-- SNL_CAP: every capability is present (R90). -/
def snlCap : Nat := 0xFFFFF

/-- Checks of the header up to its size class. -/
def checkHeader (m : Bytes) (s : State) : LoadErr :=
  let major := fieldLE m 8 1
  let minor := fieldLE m 9 1
  let req := fieldLE m 0x10 8
  let miss := req - (req &&& snlCap)
  let sc := hdrSizeClass m
  let tt := hdrTaskTiles m
  firstErr [
    partErr ldBadMagic inHeader 0 [(0, fieldLE m 0 4 != 0x494C4E53), (8 * 4, fieldLE m 4 2 != 0x0100)],
    if imageDigest m != formedDigest m then some (ldDigest, placeWord inHeader (8 * 0x80)) else none,
    if major ≠ rd s SNL_VERSION_isa_major then some (ldIsaMajor, major) else none,
    if rd s SNL_VERSION_isa_minor < minor then some (ldIsaMinor, minor) else none,
    if miss ≠ 0 then some (ldCapability, miss) else none,
    if hdrStrict m && hdrTiming m != rd s SNL_VERSION_timing_model then some (ldTimingModel, hdrTiming m) else none,
    partErr ldSizeClass inHeader 0
      [(8 * 0x0C, sc % 8 != 0 || decide (sc < 8) || decide (96 < sc) || decide (tilesUsable s < sc)),
        (8 * 0x0E, tt == 0 || decide (sc < tt))]]

/-! ### SECTION (R82, R83, R133, R147, R149, R190, R204, R216, R262, R288) -/

/-- The limit of a section's length, and the unit it is a multiple of (R82, R190, R203). -/
def sectLimit (ty : Nat) : Option (Nat × Nat) :=
  if ty = 1 then some (0x80000, 32)
  else if ty = 2 then some (1024, 16)
  else if ty = 3 then some (65536, 64)
  else if ty = 5 then some (128, 128)
  else if ty = 7 then some (8192, 32)
  else none

/-- Whether two spans share a byte. -/
def spansMeet (a n b k : Nat) : Bool := decide (a < b + k) && decide (b < a + n) && n != 0 && k != 0

/-- The section table itself: types, targets, lengths, duplicates, overlaps. -/
def checkTable (m : Bytes) : LoadErr :=
  let l := sectsOf m
  let st := hdrSectTab m
  let rt := hdrRelocTab m
  let sn := 32 * hdrSects m
  let rn := 16 * hdrRelocs m
  firstErr (
    [partErr ldSection inHeader 0
      [(8 * 0x28, decide (m.length < st + sn) || spansMeet 0 256 st sn),
        (8 * 0x30, decide (m.length < rt + rn) || spansMeet 0 256 rt rn || spansMeet st sn rt rn)]]
    ++ l.map fun x =>
      let long := match sectLimit x.type with
        | some (n, u) => decide (n < x.len) || x.len % u != 0
        | none => false
      let perTile := decide (1 ≤ x.type) && decide (x.type ≤ 5)
      partErr ldSection inSectTab (256 * x.index)
        [(0, x.type == 0 || decide (10 < x.type)
            || (x.type != 8 && l.any fun y => decide (y.index < x.index) && y.type == x.type && y.target == x.target)),
          (16, if perTile then decide (hdrTaskTiles m ≤ x.target) else x.type != 8 && x.target != 0),
          (64, decide (m.length < x.off + x.len) || spansMeet x.off x.len 0 256 || spansMeet x.off x.len st sn
            || spansMeet x.off x.len rt rn || l.any fun y => decide (y.index < x.index) && spansMeet x.off x.len y.off y.len),
          (128, long)])

/-- REGIONS and DATA (R83). -/
def checkRegions (m : Bytes) (x : Sect) : LoadErr :=
  firstErr ((rowsOf 32 (bodyOf m x)).map fun p =>
    let al := rgAlign p.2
    partErr ldSection x.index (256 * p.1)
      [(64, rgSize p.2 == 0), (128, decide (al < 512) || al != 2 ^ Nat.log2 al),
        (0, rgNear p.2 && rgTier p.2 != 1), (32, rgNear p.2 && decide (hdrTaskTiles m ≤ rgTile p.2)),
        (16, rgSealed p.2 && !hdrSealed m)])

def checkData (m : Bytes) (x : Sect) : LoadErr :=
  match regionRow m x.target with
  | none => some (ldSection, placeWord inSectTab (256 * x.index + 16))
  | some r => partErr ldSection inSectTab (256 * x.index) [(16, rgSealed r), (128, decide (rgSize r < x.len))]

/-- SYNC_CFG (R216). -/
def checkSync (m : Bytes) (x : Sect) : LoadErr :=
  let b := bodyOf m x
  let n := fieldLE b 0 2
  if n = 0 ∨ 4096 < n ∨ b.length ≠ 16 + 8 * n then some (ldSection, placeWord x.index 0)
  else firstErr ((List.range n).map fun k => partErr ldSection x.index (8 * (16 + 8 * k)) [(0, fieldLE b (16 + 8 * k) 2 == 0)])

/-- K of R75 for a format, dense. -/
def extentOf (fmt : Nat) : Nat := if fmt = 3 ∨ fmt = 8 then 256 else if fmt = 10 ∨ fmt = 11 then 64 else 128

/-- CHAIN: size limits (R147, R149). -/
def checkChainSize (m : Bytes) (s : State) (x : Sect) : LoadErr :=
  let b := bodyOf m x
  let n := fieldLE b 2 2
  let lanes := rd s (VE_CAP_lanes 0)
  firstErr [
    partErr ldSection x.index 0
      [(0, fieldLE b 0 2 != lanes), (16, n == 0 || decide (256 < n) || b.length != 32 + 96 * n)],
    firstErr ((List.range n).map fun k =>
      let d := sliceB b (32 + 96 * k) 96
      let ty := fieldLE d 2 1
      let lay := fieldLE d 3 1
      let ex := extentOf ty * (if bitOf (fieldLE d 4 1) 3 then 2 else 1)
      partErr ldSection x.index (8 * (32 + 96 * k))
        [(0, fieldLE d 0 1 == 0 || decide (8 < fieldLE d 0 1)),
          (24, decide (1 ≤ lay) && decide (lay ≤ 2) && decide (ty < 12) && lanes % ex != 0)])]

/-- XFER_TMPL: limits (R190). -/
def checkTmplSize (m : Bytes) (x : Sect) : LoadErr :=
  firstErr ((rowsOf 64 (bodyOf m x)).map fun p =>
    let f := fieldLE p.2
    let indexed := decide (1 ≤ f 0 1) && decide (f 0 1 ≤ 2)
    partErr ldSection x.index (512 * p.1)
      [(16, if bitOf (f 1 1) 0 then f 2 2 == 0 else f 2 2 != 0), (32, f 4 4 == 0 || decide (2 ^ 20 < f 4 4)),
        (64, f 8 4 == 0 || decide (2 ^ 24 < f 8 4)), (96, f 12 4 == 0 || decide (2 ^ 24 < f 12 4)),
        (128, decide (63 < f 16 1)), (136, decide (63 < f 17 1)), (144, decide (63 < f 18 1) || (!indexed && f 18 1 != 0)),
        (384, f 0x30 1 == 0)])

/-- The fields of a ROUTE entry (R203). -/
def rtDst (v : Nat) : Nat := bitsOf v 0 12
def rtQ (v : Nat) : Nat := bitsOf v 12 4
def rtPath (v : Nat) : Nat := bitsOf v 16 2
def rtDepth (v : Nat) : Nat := bitsOf v 18 8

/-- Every ROUTE entry in use of an image, in the order of the section table: section, own task tile, entry, value. -/
def routesOf (m : Bytes) : List (Nat × Nat × Nat × Nat) :=
  ((sectsOf m).filter fun x => x.type == 5).flatMap fun x =>
    ((rowsOf 8 (bodyOf m x)).map fun p => (x.index, x.target, p.1, leNat p.2)).filter fun r =>
      rtPath r.2.2.2 == 1 || rtPath r.2.2.2 == 2

/-- ROUTE: limits; depths are summed over the entries so far (R204). -/
def checkRoutes (m : Bytes) : LoadErr :=
  let n := ctrCount m
  let rs := routesOf m
  firstErr (rs.zipIdx.map fun q =>
    let (sec, own, e, v) := q.1
    let prev := (rs.take q.2).map fun r => r.2.2.2
    let sum := sumL ((prev.filter fun w => rtDst w == rtDst v).map rtDepth) + rtDepth v
    partErr ldSection sec (64 * e)
      [(0, decide (hdrTaskTiles m ≤ rtDst v) || rtDst v == own),
        (12, prev.any fun w => rtDst w == rtDst v && rtQ w == rtQ v),
        (16, rtPath v == 1 && (!hdrCrossings m || own / 8 != rtDst v / 8 || (linkTo (own % 8) (rtDst v % 8)).isNone)),
        (18, rtDepth v == 0 || decide (128 < sum)),
        (32, bitOf v 27 && decide (n ≤ bitsOf v 32 16)), (48, bitOf v 28 && decide (n ≤ bitsOf v 48 16))])

/-- The offsets that the TASKS header gives (R262). -/
def tkCount (b : Bytes) : Nat := fieldLE b 0 2
def tkEdges (b : Bytes) : Nat := fieldLE b 2 2
def tkPlans (b : Bytes) : Nat := fieldLE b 4 1
def tkMarks (b : Bytes) : Nat := fieldLE b 5 1

/-- The rows of a table of the TASKS section that lie in it: row number and byte offset. -/
def tableRows (b : Bytes) (off n size : Nat) : List (Nat × Nat) :=
  ((List.range n).map fun k => (k, off + size * k)).filter fun p => decide (p.2 + size ≤ b.length)

/-- A number rounded up to a multiple. -/
def roundUp (n k : Nat) : Nat := (n + k - 1) / k * k

/-- The size of one bin table copy, rounded up to 512 (R140). -/
def binCopy (p : Part) (bins cap carry : Nat) : Nat :=
  roundUp (64 + roundUp (2 * bins) 64 + roundUp (4 * bins * cap) 64 + roundUp (4 * bins * carry) 64 + roundUp p.seats 64) 512

/-- The routing plans (R133). -/
def checkPlans (m : Bytes) (p : Part) (x : Sect) : LoadErr :=
  let b := bodyOf m x
  let at0 := fieldLE b 0x30 8
  let rows := tableRows b at0 (tkPlans b) 64
  firstErr (rows.map fun r =>
    let d := sliceB b r.2 64
    let f := fieldLE d
    let bins := f 2 2
    let cap := f 4 2
    let carry := f 6 2
    let regionBad := match regionRow m (f 0x10 2) with
      | some g => rgSealed g || decide (rgSize g < 512 + 2 * binCopy p bins cap carry)
      | none => true
    partErr ldSection x.index (8 * r.2)
      [(0, decide (3 < f 0 1) || rows.any fun q => decide (q.1 < r.1) && fieldLE b q.2 1 == f 0 1),
        (16, bins == 0 || decide (256 < bins)), (32, cap == 0 || decide (2048 < cap) || decide (4096 < bins * cap)),
        (48, decide (cap < carry) || decide (1024 < bins * carry)),
        (80, f 10 2 == 0 || decide (hdrTaskTiles m < f 8 2 + f 10 2)), (96, f 12 1 == 0 || decide (4 < f 12 1)),
        (104, decide (0x0F < f 13 1) && f 13 1 != 0xFF), (128, regionBad)])

/-- TASKS: the limits of the header and of its tasks, the plans (R133, R262). -/
def checkTasks (m : Bytes) (p : Part) (x : Sect) : LoadErr :=
  let b := bodyOf m x
  firstErr [
    partErr ldSection x.index 0
      [(0, decide (b.length < 64) || tkCount b == 0 || decide (64 < tkCount b)), (16, decide (1024 < tkEdges b)),
        (32, decide (4 < tkPlans b)), (40, decide (16 < tkMarks b))],
    firstErr ((tableRows b (fieldLE b 0x10 8) (tkCount b) 16).map fun r =>
      partErr ldSection x.index (8 * r.2) [(0, decide (63 < fieldLE b r.2 1))]),
    checkPlans m p x]

/-- The plans of the image that carry entries over. -/
def imageCarryPlans (m : Bytes) : Nat :=
  let b := sectBytes m 10 0
  ((tableRows b (fieldLE b 0x30 8) (tkPlans b) 64).filter fun r => fieldLE b (r.2 + 6) 2 != 0).length

/-- The size of one copy of the seat region, rounded up to 512 (R294). -/
def seatCopyBytes (m : Bytes) (p : Part) (rec : Nat) : Nat :=
  roundUp (512 + p.seats * rec + 64 * p.seats + 2048 * 64 * imageCarryPlans m) 512

/-- A 64-bit form value for comparison: signed for SINT (R288). -/
def formVal (kind v : Nat) : Int := if kind = 1 then signed 64 v else v

/-- FORM: the limits of the header and its fields (R288). -/
def checkForm (m : Bytes) (p : Part) (x : Sect) : LoadErr :=
  let b := bodyOf m x
  let n := fieldLE b 2 1
  let fld := fun k => sliceB b (32 + 32 * k) 32
  let lf := fieldLE b 3 1
  let kindOf := fun k => fieldLE (fld k) 1 1
  let regionBad := match regionRow m (fieldLE b 6 2) with
    | some g => rgTier g != 1 || rgSealed g || decide (rgSize g < 512 + 2 * seatCopyBytes m p (fieldLE b 4 2))
    | none => true
  firstErr [
    partErr ldSection x.index 0
      [(16, n == 0 || decide (28 < n) || b.length != 32 + 32 * n), (24, decide (n ≤ lf) || kindOf lf != 3),
        (32, fieldLE b 4 2 != roundUp (32 + 8 * n) 64), (48, regionBad)],
    firstErr ((List.range n).map fun k =>
      let d := fld k
      let kd := kindOf k
      let req := bitOf (fieldLE d 2 1) 0
      let lo := formVal kd (fieldLE d 8 8)
      let hi := formVal kd (fieldLE d 16 8)
      let df := formVal kd (fieldLE d 24 8)
      partErr ldSection x.index (8 * (32 + 32 * k))
        [(8, kd == 3 && k != lf), (16, kd == 3 && !req),
          (64, if kd = 2 then lo != 0 else decide (hi < lo)), (128, kd == 2 && hi != 0),
          (192, if req then df != 0 else (kd == 0 || kd == 1) && (decide (df < lo) || decide (hi < df)))])]

/-- The SECTION checks, section by section. -/
def checkSections (m : Bytes) (s : State) : LoadErr :=
  firstErr ([checkTable m] ++ (sectsOf m).map (fun x =>
      if x.type = 3 then checkTmplSize m x
      else if x.type = 4 then checkChainSize m s x
      else if x.type = 6 then checkSync m x
      else if x.type = 7 then checkRegions m x
      else if x.type = 8 then checkData m x
      else if x.type = 9 then checkForm m s.part x
      else if x.type = 10 then checkTasks m s.part x
      else none)
    ++ [checkRoutes m, if (sectOf? (sectsOf m) 10 0).isNone then some (ldSection, placeWord inSectTab 0) else none])

/-! ### RESERVED_ENCODING: bundles (R57, R58) -/

/-- The bits of the SEQ slot that an opcode leaves unused, none for a reserved opcode (R63). -/
def seqUnused (op : Nat) : Option (List (Nat × Nat)) :=
  ([(0x00, [(6, 26)]), (0x01, [(29, 3)]), (0x02, [(23, 9)]), (0x03, [(20, 12)]), (0x04, [(23, 9)]), (0x05, [(29, 3)]),
    (0x06, [(10, 22)]), (0x07, []), (0x08, [(26, 6)]), (0x09, [(18, 14)]), (0x0A, [(6, 1), (13, 19)]), (0x0B, [(22, 10)]),
    (0x0C, [(14, 18)]), (0x0D, [(14, 18)])].find? fun p => p.1 == op).map (·.2)

/-- The bits of the VE slot that an opcode leaves unused (R76). -/
def veUnused (op : Nat) : Option (List (Nat × Nat)) :=
  ([(0x00, [(6, 42)]), (0x01, []), (0x02, [(6, 42)]), (0x03, [(26, 22)])].find? fun p => p.1 == op).map (·.2)

/-- The bits of the XFER slot that an opcode leaves unused (R78). -/
def xferUnused (op : Nat) : Option (List (Nat × Nat)) :=
  ([(0x00, [(5, 35)]), (0x01, [(32, 8)]), (0x02, [(36, 4)]), (0x03, [(39, 1)]), (0x04, []), (0x05, []), (0x06, [])].find?
    fun p => p.1 == op).map (·.2)

/-- The bits of the CHN slot that an opcode leaves unused (R79). -/
def chnUnused (op : Nat) : Option (List (Nat × Nat)) :=
  ([(0x00, [(5, 19)]), (0x01, []), (0x02, [(22, 2)]), (0x03, []), (0x04, []), (0x05, [(9, 15)]), (0x06, [(9, 15)])].find?
    fun p => p.1 == op).map (·.2)

/-- The fields of the ME slot (R74): fmt, wbuf, adesc, aoff, acc, acnt, accmode, sparse, amask, exam, aus, wus, pshift, and
the reserved bit. -/
def meFields : List (Nat × Nat) :=
  [(5, 4), (9, 1), (10, 6), (16, 10), (26, 8), (34, 4), (38, 2), (40, 1), (41, 1), (42, 1), (43, 1), (44, 1), (45, 2), (47, 1)]

/-- The fields, by lowest bit, that an ME opcode uses. -/
def meUsed (op : Nat) : Option (List Nat) :=
  ([(0, []), (1, [5, 9, 10, 16, 26, 34, 38, 40, 41, 42, 43, 44, 45]), (2, [5, 9, 10, 16, 40]), (3, [26, 34, 42]),
    (4, [26, 34, 42]), (5, [16, 26, 34])].find? fun p => p.1 == op).map (·.2)

/-- The ME slot's faults (R74, R75). -/
def meFaults (v : Nat) : List (Nat × Bool) :=
  let op := bitsOf v 0 5
  let fmt := bitsOf v 5 4
  match meUsed op with
  | none => [(0, true)]
  | some us =>
    mustZero v (meFields.filter fun p => !us.contains p.1)
      ++ [(34, decide (9 ≤ bitsOf v 34 4)), (38, bitsOf v 38 2 == 3), (45, bitsOf v 45 2 == 3), (5, decide (12 ≤ fmt)),
        (42, op == 1 && bitOf v 42 && decide (10 ≤ fmt)), (43, bitOf v 43 && fmt != 2 && fmt != 3),
        (44, bitOf v 44 && fmt != 2 && fmt != 3), (45, bitsOf v 45 2 != 0 && fmt != 2)]

/-- The VE slot's faults (R76). -/
def veFaults (v : Nat) : List (Nat × Bool) :=
  let op := bitsOf v 0 6
  let src := bitsOf v 14 2
  match veUnused op with
  | none => [(0, true)]
  | some l => mustZero v l ++ (if op = 1 then
      [(14, decide (2 ≤ src)), (16, src == 0 && bitsOf v 16 6 != 0), (22, src == 0 && bitsOf v 22 10 != 0)] else [])

/-- The fields each aide opcode reads (R158, R159, R161). -/
def aidUseOf (op : Nat) : Option AidUse :=
  if op = 0 then some { rd := false, rs1 := false, rs2 := false }
  else if op ≤ 0x05 ∨ (0x0B ≤ op ∧ op ≤ 0x0E) ∨ (0x10 ≤ op ∧ op ≤ 0x13) ∨ op = 0x1D ∨ op = 0x1E then some use3
  else if (0x06 ≤ op ∧ op ≤ 0x0A) ∨ op = 0x14 ∨ (0x20 ≤ op ∧ op ≤ 0x26) ∨ op = 0x30 ∨ op = 0x31 then some useImm
  else if op = 0x0F then some { rs1 := false, rs2 := false }
  else if 0x18 ≤ op ∧ op ≤ 0x1B then some useSh
  else if op = 0x1C then some { immBits := 3 }
  else if op = 0x1F then some { rs2 := false, immBits := 12 }
  else if (0x28 ≤ op ∧ op ≤ 0x2B) ∨ op = 0x32 ∨ op = 0x33 then some { rd := false, immBits := 32 }
  else if 0x38 ≤ op ∧ op ≤ 0x3A then some { rd := false, immBits := 16 }
  else if op = 0x40 ∨ op = 0x41 then some { rs2 := false, immBits := 8 }
  else if op = 0x44 then some { immBits := 32 }
  else if 0x50 ≤ op ∧ op ≤ 0x55 then some usePred
  else if op = 0x56 ∨ op = 0x57 then some usePredI
  else if 0x58 ≤ op ∧ op ≤ 0x5A then some usePred2
  else if op = 0x5B ∨ op = 0x5C then some usePred1
  else if op = 0x5D then some { rd := false, rs2 := false }
  else none

/-- The AID slot's faults (R77, R158). -/
def aidFaults (v : Nat) : List (Nat × Bool) :=
  let op := bitsOf v 0 7
  let rdv := bitsOf v 7 5
  match aidUseOf op with
  | none => [(0, true)]
  | some u =>
    mustZero v ((if u.rd then [] else [(7, 5)]) ++ (if u.rs1 then [] else [(12, 5)]) ++ (if u.rs2 then [] else [(17, 5)])
        ++ (if op = 0 then [(22, 3)] else []) ++ [(26, 6), (32 + u.immBits, 32 - u.immBits)])
      ++ [(25, bitOf v 25 && bitsOf v 22 3 == 0), (7, u.rdPred && (rdv == 0 || decide (8 ≤ rdv))),
        (12, u.rs1Pred && decide (8 ≤ bitsOf v 12 5)), (17, u.rs2Pred && decide (8 ≤ bitsOf v 17 5))]

/-- The faults of a slot whose reserved bits alone are restricted. -/
def plainFaults (v : Nat) (l : Option (List (Nat × Nat))) : List (Nat × Bool) :=
  match l with
  | none => [(0, true)]
  | some l => mustZero v l

/-- The faults of a bundle, by bit (R55, R57, R58). -/
def bundleFaults (w : Nat) : List (Nat × Bool) :=
  let slot := fun lo n => bitsOf w lo n
  let shift := fun (k : Nat) (l : List (Nat × Bool)) => l.map fun p => (p.1 + k, p.2)
  plainFaults (slot 0 32) (seqUnused (slot 0 6)) ++ shift 32 (meFaults (slot 32 48)) ++ shift 80 (veFaults (slot 80 48))
    ++ shift 128 (aidFaults (slot 128 64)) ++ shift 192 (plainFaults (slot 192 40) (xferUnused (slot 192 5)))
    ++ shift 232 (plainFaults (slot 232 24) (chnUnused (slot 232 5)))

/-! ### RESERVED_ENCODING: sections -/

/-- The operations that read operand b, and those that write a mask (R150, R151). -/
def stageReadsB (op : Nat) : Bool := [0x01, 0x02, 0x03, 0x05, 0x06, 0x0E, 0x10, 0x11, 0x12, 0x13, 0x1A, 0x1B].contains op
def stageWritesMask (op : Nat) : Bool := decide (0x10 ≤ op) && decide (op ≤ 0x15)
def stageKnown (op : Nat) : Bool :=
  (decide (1 ≤ op) && decide (op ≤ 0x0E)) || (decide (0x10 ≤ op) && decide (op ≤ 0x15)) || (decide (0x18 ≤ op) && decide (op ≤ 0x1E))
    || op == 0x20 || op == 0x21

/-- The faults of a stage word (R150, R151). -/
def stageFaults (v : Nat) (aux : Bool) : List (Nat × Bool) :=
  let op := bitsOf v 0 6
  let b := bitsOf v 6 2
  let readsB := stageReadsB op
  let usesBank := (readsB && b == 1) || op == 0x04 || op == 0x0B
  let usesImm := (readsB && b == 0) || op == 0x0B
  if !stageKnown op then [(0, true)]
  else mustZero v ((if readsB || op == 0x14 then [] else [(6, 2)]) ++ (if usesBank then [] else [(8, 4)])
      ++ (if op = 0x14 then [(12, 2), (14, 1)] else []) ++ (if stageWritesMask op then [] else [(15, 2)]) ++ [(17, 3)]
      ++ (if op = 0x1E then [] else [(20, 8)]) ++ [(28, 4)] ++ (if usesImm then [] else [(32, 32)]))
    ++ [(6, (readsB && b == 3) || (op == 0x14 && b != 2) || ((readsB || op == 0x14) && b == 2 && !aux)),
      (15, stageWritesMask op && bitsOf v 15 2 == 0)]

/-- Formats an input row or an output row may have (R148). -/
def inFmtOk (f : Nat) : Bool := [0, 1, 2, 10, 11, 16, 17].contains f
def outFmtOk (f : Nat) : Bool := decide (f < 12) || f == 16 || f == 17 || f == 18

/-- The faults of a chain descriptor (R147 to R151). -/
def chainFaults (d : Bytes) : List (Nat × Bool) :=
  let f := fieldLE d
  let n := f 0 1
  let out := f 2 1
  let lay := f 3 1
  let aux := bitOf (f 4 1) 1
  let sr := bitOf (f 4 1) 2
  let st := (List.range 8).map fun k => f (0x20 + 8 * k) 8
  let ops := (st.take n).map fun v => bitsOf v 0 6
  mustZero (leNat d) ([(36, 4), (43, 5), (70, 2), (72, 8), (90, 6), (96, 160)])
    ++ [(8, !inFmtOk (f 1 1)), (16, !outFmtOk out || (out == 18) != (ops == [0x21])), (24, decide (2 < lay) || (lay != 0 && decide (12 ≤ out))),
      (34, sr && [2, 3, 17, 18].contains out), (35, lay == 0 && bitOf (f 4 1) 3), (48, !sr && f 6 1 != 0),
      (56, if aux then !inFmtOk (f 7 1) else f 7 1 != 0), (64, !aux && bitsOf (f 8 1) 0 6 != 0), (80, !aux && bitsOf (f 10 2) 0 10 != 0)]
    ++ st.zipIdx.flatMap fun p =>
      let base := 8 * (0x20 + 8 * p.2)
      if n ≤ p.2 then [(base, p.1 != 0)]
      else (stageFaults p.1 aux).map (fun q => (base + q.1, q.2))
        ++ [(base, (bitsOf p.1 0 6 == 0x20 && p.2 != 0) || (bitsOf p.1 0 6 == 0x21 && n != 1))]

/-- A failure in the rows of a section. -/
def rowErrs (st : Nat) (x : Sect) (n : Nat) (b : Bytes) (f : Bytes → List (Nat × Bool)) : LoadErr :=
  firstErr ((rowsOf n b).map fun p => partErr st x.index (8 * n * p.1) (f p.2))

/-- The reserved fields of the tables of TASKS (R133, R262). -/
def tasksReserved (m : Bytes) (x : Sect) : LoadErr :=
  let b := bodyOf m x
  let rows := fun (off n size : Nat) (l : List (Nat × Nat)) => firstErr ((tableRows b (fieldLE b off 8) n size).map fun r =>
    partErr ldReserved x.index (8 * r.2) (mustZero (leNat (sliceB b r.2 size)) l))
  firstErr [partErr ldReserved x.index 0 (mustZero (leNat (b.take 64)) [(48, 16)]),
    rows 0x10 (tkCount b) 16 [(8, 8), (64, 64)], rows 0x28 (fieldLE b 12 4) 8 [(48, 16)],
    rows 0x30 (tkPlans b) 64 [(8, 8), (112, 16), (160, 352)], rows 0x38 (tkMarks b) 8 [(32, 32)]]

/-- The RESERVED_ENCODING checks of one section. -/
def sectReserved (m : Bytes) (x : Sect) : LoadErr :=
  let b := bodyOf m x
  if x.type = 1 then rowErrs ldReserved x 32 b fun d => bundleFaults (leNat d)
  else if x.type = 2 then rowErrs ldReserved x 16 b fun d => mustZero (leNat d) [(124, 4)]
  else if x.type = 3 then rowErrs ldReserved x 64 b fun d =>
    (0, decide (2 < fieldLE d 0 1)) :: mustZero (leNat d) [(10, 6), (152, 8), (208, 48), (392, 24), (428, 4), (432, 80)]
  else if x.type = 4 then firstErr [partErr ldReserved x.index 0 (mustZero (leNat (b.take 32)) [(32, 224)]),
    firstErr ((List.range (fieldLE b 2 2)).map fun k =>
      partErr ldReserved x.index (8 * (32 + 96 * k)) (chainFaults (sliceB b (32 + 96 * k) 96)))]
  else if x.type = 5 then rowErrs ldReserved x 8 b fun d =>
    let v := leNat d
    (16, rtPath v == 3) :: mustZero v ([(29, 3)] ++ if rtPath v = 0 then
      [(0, 12), (12, 4), (18, 8), (26, 1), (27, 1), (28, 1), (32, 16), (48, 16)] else [])
  else if x.type = 6 then firstErr [partErr ldReserved x.index 0 (mustZero (leNat (b.take 16)) [(16, 112)]),
    firstErr ((List.range (fieldLE b 0 2)).map fun k =>
      partErr ldReserved x.index (8 * (16 + 8 * k)) (mustZero (leNat (sliceB b (16 + 8 * k) 8)) [(40, 24)]))]
  else if x.type = 7 then rowErrs ldReserved x 32 b fun d =>
    [(0, rgTier d != 1 && rgTier d != 2), (8, decide (1 < fieldLE d 1 1))] ++ mustZero (leNat d) [(18, 14), (48, 16), (192, 64)]
  else if x.type = 9 then firstErr [partErr ldReserved x.index 0 (mustZero (leNat (b.take 32)) [(80, 176)]),
    firstErr ((List.range (fieldLE b 2 1)).map fun k =>
      let d := sliceB b (32 + 32 * k) 32
      partErr ldReserved x.index (8 * (32 + 32 * k))
        ([(0, !([1, 2, 4, 8].contains (fieldLE d 0 1))), (8, decide (3 < fieldLE d 1 1))] ++ mustZero (leNat d) [(17, 7), (24, 40)]))]
  else if x.type = 10 then tasksReserved m x
  else none

/-- The RESERVED_ENCODING checks: header, section table, sections, relocation kinds (R85, R87). -/
def checkReserved (m : Bytes) : LoadErr :=
  firstErr ([partErr ldReserved inHeader 0 (mustZero (leNat (m.take 256)) [(51, 13), (88, 8), (448, 576), (1408, 640)])]
    ++ (sectsOf m).map (fun x =>
      partErr ldReserved inSectTab (256 * x.index)
        (mustZero (leNat (sliceB m (hdrSectTab m + 32 * x.index) 32)) [(32, 32), (192, 64)]))
    ++ (sectsOf m).map (sectReserved m)
    ++ (relocsOf m).map fun r => partErr ldReserved inRelocTab (128 * r.index) [(0, r.kind == 0 || decide (4 < r.kind))])

/-! ### LOOP_STRUCTURE (R65) -/

/-- The SEQ words of an INSTR section. -/
def seqWords (b : Bytes) : List (Nat × Nat) := (rowsOf 32 b).map fun p => (p.1, fieldLE p.2 0 4)

/-- The loops of a section in pc order: pc, counter, end. -/
def loopsOf (l : List (Nat × Nat)) : List (Nat × Nat × Nat) :=
  (l.filter fun p => bitsOf p.2 0 6 == 2).map fun p => (p.1, bitsOf p.2 6 3, bitsOf p.2 9 14)

/-- The LOOP_STRUCTURE checks of one INSTR section; a loop's body runs from its pc + 1 to its end. -/
def checkLoops (m : Bytes) (x : Sect) : LoadErr :=
  let l := seqWords (bodyOf m x)
  let lp := loopsOf l
  let holds := fun (q : Nat × Nat × Nat) (pc : Nat) => decide (q.1 < pc) && decide (pc ≤ q.2.2)
  let cut := fun op => [0x02, 0x03, 0x04, 0x06, 0x07, 0x0D].contains op
  firstErr [
    firstErr (lp.map fun q => partErr ldLoop x.index (256 * q.1)
      [(6, lp.any fun o => holds o q.1 && o.2.1 == q.2.1), (9, decide (q.2.2 ≤ q.1) || lp.any fun o => holds o q.1 && decide (o.2.2 < q.2.2))]),
    firstErr (l.map fun p => partErr ldLoop x.index (256 * p.1)
      [(0, cut (bitsOf p.2 0 6) && lp.any fun q => q.2.2 == p.1)]),
    firstErr (l.map fun p =>
      let op := bitsOf p.2 0 6
      let tgt := if op = 3 then bitsOf p.2 6 14 else bitsOf p.2 9 14
      partErr ldLoop x.index (256 * p.1)
        [(if op = 3 then 6 else 9, (op == 3 || op == 4)
          && (decide (tgt ≤ p.1) || lp.any fun q => holds q p.1 != holds q tgt))])]

/-! ### RELOC_RANGE before placement (R84, R85, R93, R216, R247) -/

/-- The width of each relocation kind (R85). -/
def relocWidth (k : Nat) : Nat := if k = 3 then 12 else if k = 4 then 16 else 64

/-- The counter fields that an image carries in bundles, plans and its form: section, bit (R79, R133, R161, R288). -/
def ctrFields (m : Bytes) : List (Nat × Nat) :=
  (sectsOf m).flatMap fun x =>
    let b := bodyOf m x
    if x.type = 1 then (rowsOf 32 b).flatMap fun p =>
      let w := leNat p.2
      let aid := bitsOf w 128 7
      let chn := bitsOf w 232 5
      (if 0x38 ≤ aid ∧ aid ≤ 0x3A then [(x.index, 256 * p.1 + 160)] else [])
        ++ (if bitsOf w 192 5 = 1 then [(x.index, 256 * p.1 + 208)] else [])
        ++ (if chn = 1 ∨ chn = 2 then [(x.index, 256 * p.1 + 237)] else [])
    else if x.type = 9 then [(x.index, 64)]
    else if x.type = 10 then (tableRows b (fieldLE b 0x30 8) (tkPlans b) 64).map fun r => (x.index, 8 * (r.2 + 0x12))
    else []

/-- Whether a record can be applied at all: its width, its section and field, its target, fields not shared (R85, R247). -/
def relocBad (m : Bytes) (l : List Sect) (rs : List Reloc) (r : Reloc) : Bool :=
  let w := relocWidth r.kind
  r.width != w
    || (match l[r.sect]? with
      | none => true
      | some x => x.type == 7 || decide (8 * x.len < r.bit + w))
    || (r.kind == 1 && (regionRow m r.target).isNone)
    || ((r.kind == 2 || r.kind == 3) && decide (hdrTaskTiles m ≤ r.target))
    || (r.kind == 4 && (sectOf? l 6 0).isNone)
    || rs.any fun q => decide (q.index < r.index) && q.sect == r.sect && decide (q.bit < r.bit + w)
      && decide (r.bit < q.bit + relocWidth q.kind)

/-- The RELOC_RANGE checks that need no placement. -/
def checkRelocs (m : Bytes) : LoadErr :=
  let l := sectsOf m
  let rs := relocsOf m
  firstErr ((rs.map fun r => if relocBad m l rs r then some (ldReloc, placeWord r.sect r.bit) else none)
    ++ [if (sectOf? l 6 0).isNone then (ctrFields m).head?.map fun f => (ldReloc, placeWord f.1 f.2) else none])

/-! ### The graph (R263) -/

/-- The tasks and edges of the image. -/
def taskRows (m : Bytes) : List TaskRec :=
  let b := sectBytes m 10 0
  (List.range (tkCount b)).map fun k =>
    let o := fieldLE b 0x10 8 + 16 * k
    ⟨fieldLE b o 1, fieldLE b (o + 2) 2, fieldLE b (o + 4) 2, fieldLE b (o + 6) 2⟩

def edgeRows (m : Bytes) : List (Nat × Nat) :=
  let b := sectBytes m 10 0
  (List.range (tkEdges b)).map fun k =>
    let o := fieldLE b 0x18 8 + 4 * k
    (fieldLE b o 2, fieldLE b (o + 2) 2)

/-- The task tiles of a task. -/
def TaskRec.tilesOf (k : TaskRec) : List Nat := rangeFrom k.first k.tiles

/-- The bundles of a task tile's INSTR section. -/
def bundlesOf (m : Bytes) (u : Nat) : Nat := (sectBytes m 1 u).length / 32

/-- The two stages of the graph checks. -/
def checkGraph (m : Bytes) : LoadErr :=
  match sectOf? (sectsOf m) 10 0 with
  | none => none
  | some x =>
    let b := bodyOf m x
    let ts := taskRows m
    let es := edgeRows m
    let outside := fun (off n size : Nat) => n != 0 && decide (b.length < fieldLE b off 8 + n * size)
    let level := fun k => ((ts[k]?).map (·.level)).getD 0
    firstErr (
      [partErr ldSection x.index 0
        [(8 * 0x10, outside 0x10 (tkCount b) 16), (8 * 0x18, outside 0x18 (tkEdges b) 4), (8 * 0x20, outside 0x20 (hdrTaskTiles m) 4),
          (8 * 0x28, outside 0x28 (fieldLE b 12 4) 8), (8 * 0x30, outside 0x30 (tkPlans b) 64), (8 * 0x38, outside 0x38 (tkMarks b) 8)]]
      ++ ts.zipIdx.map (fun p => partErr ldSection x.index (8 * (fieldLE b 0x10 8 + 16 * p.2))
        [(32, p.1.tiles == 0),
          (16, decide (hdrTaskTiles m < p.1.first + p.1.tiles)
            || (ts.take p.2).any fun q => q.level == p.1.level && decide (q.first < p.1.first + p.1.tiles)
              && decide (p.1.first < q.first + q.tiles)),
          (48, p.1.tilesOf.any fun u => decide (bundlesOf m u ≤ p.1.entryPc))])
      ++ es.zipIdx.map (fun p => partErr ldSection x.index (8 * (fieldLE b 0x18 8 + 4 * p.2))
        [(0, decide (ts.length ≤ p.1.1)), (16, decide (ts.length ≤ p.1.2))])
      ++ (List.range (hdrTaskTiles m)).map (fun k =>
        let o := fieldLE b 0x20 8 + 4 * k
        partErr ldSection x.index (8 * o) [(0, decide (2 ^ 24 ≤ fieldLE b o 4))])
      ++ es.zipIdx.map fun p => if level p.1.2 ≤ level p.1.1 then some (ldBackEdge, p.2) else none)

end Sys2Proof.Machine
end

