-- ==== Sys2Proof/Machine/Float.lean ====
section
/-! DEFINITION. Exact dyadic arithmetic, the element formats of the matrix and vector engines, IEEE 754 binary32
with round-to-nearest-even, and the conversions to narrower formats (04_matrix_engine.md, R99 to R110;
06_vector_engine_and_aides.md, R152, R154). FP32 values are held as their 32-bit codes. -/

namespace Sys2Proof.Machine

/-- A decoded value: a signed dyadic number `m * 2 ^ e`, an infinity, or a NaN (R99). -/
inductive FVal where
  | fin (neg : Bool) (m : Nat) (e : Int)
  | inf (neg : Bool)
  | nan
deriving DecidableEq, Repr

/-- How the top exponent of a format is read (R99). -/
inductive TopExp where
  | ieee
  | nanOnlyAllOnes
  | none
deriving DecidableEq, Repr

/-- A floating-point element format: exponent bits, mantissa bits, bias, reading of the top exponent. -/
structure FFmt where
  eb : Nat
  mb : Nat
  bias : Nat
  top : TopExp
deriving DecidableEq, Repr

/-- The exponent of the least significant bit of a subnormal of the format. -/
def FFmt.lsb (f : FFmt) : Int := 1 - (f.bias : Int) - f.mb

def fp32F : FFmt := ⟨8, 23, 127, .ieee⟩
def bf16F : FFmt := ⟨8, 7, 127, .ieee⟩
def fp16F : FFmt := ⟨5, 10, 15, .ieee⟩
def e4m3F : FFmt := ⟨4, 3, 7, .nanOnlyAllOnes⟩
def e5m2F : FFmt := ⟨5, 2, 15, .ieee⟩
def e3m2F : FFmt := ⟨3, 2, 3, .none⟩
def e2m3F : FFmt := ⟨2, 3, 1, .none⟩
def e2m1F : FFmt := ⟨2, 1, 1, .none⟩

/-- An element code read in its format (R99): subnormals keep their value. -/
def decodeF (f : FFmt) (c : Nat) : FVal :=
  let m := bitsOf c 0 f.mb
  let x := bitsOf c f.mb f.eb
  let neg := bitOf c (f.mb + f.eb)
  let top := x == 2 ^ f.eb - 1
  if f.top == .ieee && top then (if m == 0 then .inf neg else .nan)
  else if f.top == .nanOnlyAllOnes && top && m == 2 ^ f.mb - 1 then .nan
  else if x == 0 then .fin neg m f.lsb
  else .fin neg (m + 2 ^ f.mb) (f.lsb + x - 1)

/-- Round a magnitude `m * 2 ^ e` (plus something less than one unit when `sticky`) to `p` significant bits, no finer
than `2 ^ lsb`, to nearest even: the integer and its exponent. -/
def roundMag (p : Nat) (lsb : Int) (m : Nat) (e : Int) (sticky : Bool) : Nat × Int :=
  let k := max (e + (bitLen m : Int) - p) lsb
  if k ≤ e then (m * 2 ^ (e - k).toNat, k)
  else
    let s := (k - e).toNat
    let q := m / 2 ^ s
    let r := m % 2 ^ s
    let h := 2 ^ (s - 1)
    if h < r || (r == h && (sticky || q % 2 == 1)) then (q + 1, k) else (q, k)

/-- The magnitude code of `q * 2 ^ k` in a format, `q` at most `2 ^ (mb + 1)`: codes of rising magnitude are consecutive. -/
def magCode (f : FFmt) (q : Nat) (k : Int) : Nat :=
  if q < 2 ^ f.mb then q else (k - f.lsb).toNat * 2 ^ f.mb + q

/-- The canonical NaN (R105). -/
def nan32 : Nat := 0x7FC00000

/-- The FP32 infinity of a sign. -/
def inf32 (neg : Bool) : Nat := if neg then 0xFF800000 else 0x7F800000

/-- The FP32 zero of a sign. -/
def zero32 (neg : Bool) : Nat := if neg then 0x80000000 else 0

/-- A signed magnitude rounded once to FP32, to nearest even, overflowing to an infinity (R103). -/
def round32 (neg : Bool) (m : Nat) (e : Int) (sticky : Bool := false) : Nat :=
  let (q, k) := roundMag 24 (-149) m e sticky
  let c := magCode fp32F q k
  if 0x7F800000 ≤ c then inf32 neg else c + (if neg then 2 ^ 31 else 0)

/-- An integer times a power of two rounded once to FP32; zero gives +0 (R103, R109). DEDUCED (log 15). -/
def roundInt32 (t : Int) (e : Int) : Nat := if t = 0 then 0 else round32 (t < 0) t.natAbs e

/-- An FP32 code read. -/
def dec32 (x : Nat) : FVal := decodeF fp32F (x % 2 ^ 32)

/-- Whether an FP32 code is a NaN. -/
def isNan32 (x : Nat) : Bool := dec32 x == .nan

/-- The sign bit of an FP32 code. -/
def neg32 (x : Nat) : Bool := bitOf x 31

/-- A finite dyadic value as an integer times `2 ^ e0`, for an `e0` at or below its exponent. -/
def fixAt (e0 : Int) (neg : Bool) (m : Nat) (e : Int) : Int :=
  let v : Int := m * 2 ^ (e - e0).toNat
  if neg then -v else v

/-- The rounded sum of two decoded values, with the IEEE 754 sign of an exact zero (R104). -/
def addV (a b : FVal) : Nat :=
  match a, b with
  | .nan, _ => nan32
  | _, .nan => nan32
  | .inf n, .inf n' => if n == n' then inf32 n else nan32
  | .inf n, _ => inf32 n
  | _, .inf n => inf32 n
  | .fin n m e, .fin n' m' e' =>
    let e0 := min e e'
    let t := fixAt e0 n m e + fixAt e0 n' m' e'
    if t = 0 then zero32 (m == 0 && m' == 0 && n && n') else roundInt32 t e0

/-- The exact product of two decoded values. -/
def mulExact (a b : FVal) : FVal :=
  match a, b with
  | .nan, _ => .nan
  | _, .nan => .nan
  | .inf n, .inf n' => .inf (n != n')
  | .inf n, .fin n' m' _ => if m' == 0 then .nan else .inf (n != n')
  | .fin n m _, .inf n' => if m == 0 then .nan else .inf (n != n')
  | .fin n m e, .fin n' m' e' => .fin (n != n') (m * m') (e + e')

/-- A decoded value rounded to FP32. -/
def roundV (v : FVal) : Nat :=
  match v with
  | .nan => nan32
  | .inf n => inf32 n
  | .fin n m e => if m == 0 then zero32 n else round32 n m e

/-- FP32 addition (R152). -/
def add32 (x y : Nat) : Nat := addV (dec32 x) (dec32 y)

/-- FP32 negation of a code; a NaN stays the canonical NaN. -/
def fneg32 (x : Nat) : Nat := if isNan32 x then nan32 else if neg32 x then x - 2 ^ 31 else x + 2 ^ 31

/-- FP32 subtraction (R152). -/
def sub32 (x y : Nat) : Nat :=
  match dec32 y with
  | .nan => nan32
  | .inf n => addV (dec32 x) (.inf (!n))
  | .fin n m e => addV (dec32 x) (.fin (!n) m e)

/-- FP32 multiplication (R152). -/
def mul32 (x y : Nat) : Nat := roundV (mulExact (dec32 x) (dec32 y))

/-- `x * y + z` with one rounding (R151 AFFINE, R152 PWL). -/
def fma32 (x y z : Nat) : Nat := addV (mulExact (dec32 x) (dec32 y)) (dec32 z)

/-- The value of a non-NaN FP32 code as an ordered integer, zeros equal. -/
def ord32 (x : Nat) : Int := if neg32 x then -((x - 2 ^ 31 : Nat) : Int) else (x : Int)

/-- IEEE 754-2019 maximum: NaN if either is, +0 above -0 (R151). -/
def max32 (x y : Nat) : Nat :=
  if isNan32 x || isNan32 y then nan32
  else if ord32 x < ord32 y then y
  else if ord32 y < ord32 x then x
  else if neg32 x then y else x

/-- IEEE 754-2019 minimum: NaN if either is, -0 below +0 (R151). -/
def min32 (x y : Nat) : Nat :=
  if isNan32 x || isNan32 y then nan32
  else if ord32 x < ord32 y then x
  else if ord32 y < ord32 x then y
  else if neg32 x then x else y

/-- `x < y` of FP32 codes; false with a NaN. -/
def lt32 (x y : Nat) : Bool := !isNan32 x && !isNan32 y && decide (ord32 x < ord32 y)

/-- `x = y` of FP32 codes; false with a NaN. -/
def eq32 (x y : Nat) : Bool := !isNan32 x && !isNan32 y && decide (ord32 x = ord32 y)

/-- `1 / x`, correctly rounded (R151, R152). -/
def recip32 (x : Nat) : Nat :=
  match dec32 x with
  | .nan => nan32
  | .inf n => zero32 n
  | .fin n m e =>
    if m == 0 then inf32 n
    else
      let w := bitLen m + 60
      round32 n (2 ^ w / m) (-(w : Int) - e) (2 ^ w % m != 0)

/-- The integer square root of a number below `4 ^ k`, bit by bit. -/
def isqrtAux (n : Nat) : Nat → Nat → Nat
  | 0, r => r
  | k + 1, r => let c := r + 2 ^ k; if c * c ≤ n then isqrtAux n k c else isqrtAux n k r

/-- `1 / √x`, correctly rounded (R151, R152). -/
def rsqrt32 (x : Nat) : Nat :=
  match dec32 x with
  | .nan => nan32
  | .inf n => if n then nan32 else 0
  | .fin n m e =>
    if m == 0 then inf32 n
    else if n then nan32
    else
      let odd := e % 2 != 0
      let m' := if odd then 2 * m else m
      let e' := if odd then e - 1 else e
      let a := 2 ^ 160 / m'
      let r := isqrtAux a 81 0
      round32 false r (-80 - e' / 2) (r * r * m' != 2 ^ 160)

/-- The exact sum of FP32 codes, rounded once; NaN, or infinities of both signs, give the canonical NaN (R152 RSUM).
DEDUCED (log 15). -/
def sum32 (l : List Nat) : Nat :=
  if l.any isNan32 then nan32
  else
    let pi := l.contains (inf32 false)
    let ni := l.contains (inf32 true)
    if pi && ni then nan32
    else if pi then inf32 false
    else if ni then inf32 true
    else
      roundInt32 (l.foldl (fun a x => match dec32 x with
        | .fin n m e => a + fixAt (-149) n m e
        | _ => a) 0) (-149)

/-- A finite dyadic magnitude rounded to the nearest integer, ties to even. -/
def roundToInt (m : Nat) (e : Int) : Nat :=
  if 0 ≤ e then m * 2 ^ e.toNat
  else
    let s := (-e).toNat
    let q := m / 2 ^ s
    let r := m % 2 ^ s
    let h := 2 ^ (s - 1)
    if h < r || (r == h && q % 2 == 1) then q + 1 else q

/-- An FP32 value rounded to an integer and saturated to `[lo, hi]`; NaN gives 0 (R110, R151 FTOI, R154). -/
def toIntSat (lo hi : Int) (x : Nat) : Int :=
  match dec32 x with
  | .nan => 0
  | .inf n => if n then lo else hi
  | .fin n m e =>
    let v : Int := roundToInt m e
    let v := if n then -v else v
    max lo (min hi v)

/-- INT32 to FP32 (R151 ITOF). -/
def itof32 (x : Nat) : Nat := roundInt32 (signed 32 x) 0

/-- How a narrow float target treats a value beyond its largest, an infinity and a NaN (R110). -/
structure Narrow where
  fmt : FFmt
  maxCode : Nat
  overCode : Nat
  infCode : Nat
  nanCode : Nat
deriving DecidableEq, Repr

def toE4M3 : Narrow := ⟨e4m3F, 0x7E, 0x7E, 0x7E, 0x7F⟩
def toE5M2 : Narrow := ⟨e5m2F, 0x7B, 0x7B, 0x7C, 0x7E⟩
def toBF16 : Narrow := ⟨bf16F, 0x7F7F, 0x7F80, 0x7F80, 0x7FC0⟩
def toFP16 : Narrow := ⟨fp16F, 0x7BFF, 0x7C00, 0x7C00, 0x7E00⟩
def toE3M2 : Narrow := ⟨e3m2F, 0x1F, 0x1F, 0x1F, 0⟩
def toE2M3 : Narrow := ⟨e2m3F, 0x1F, 0x1F, 0x1F, 0⟩
def toE2M1 : Narrow := ⟨e2m1F, 0x7, 0x7, 0x7, 0⟩

/-- The sign bit of a narrow code. -/
def Narrow.signBit (t : Narrow) (neg : Bool) : Nat := if neg then 2 ^ (t.fmt.eb + t.fmt.mb) else 0

/-- The two magnitude codes that bracket `m * 2 ^ e` in a format and the fraction between them over `2 ^ s`. -/
def bracket (f : FFmt) (m : Nat) (e : Int) : Nat × Nat × Nat :=
  let k := max (e + (bitLen m : Int) - (f.mb + 1)) f.lsb
  if k ≤ e then (magCode f (m * 2 ^ (e - k).toNat) k, 0, 0)
  else
    let s := (k - e).toNat
    (magCode f (m / 2 ^ s) k, m % 2 ^ s, s)

/-- The magnitude `m * 2 ^ e` converted to a narrow target: to nearest even, or stochastically with the word `w`
(R110, R154). DEDUCED (log 15). -/
def narrowMag (t : Narrow) (sr : Option Nat) (neg : Bool) (m : Nat) (e : Int) : Nat :=
  match sr with
  | none =>
    let (q, k) := roundMag (t.fmt.mb + 1) t.fmt.lsb m e false
    let c := magCode t.fmt q k
    if t.maxCode < c then t.overCode else c
  | some w =>
    let (c, r, s) := bracket t.fmt m e
    if t.maxCode < c || (c == t.maxCode && r != 0) then t.overCode
    else if r == 0 then c
    else
      let up := if neg then !decide (w < (2 ^ s - r) * 2 ^ 32 / 2 ^ s) else decide (w < r * 2 ^ 32 / 2 ^ s)
      if up then c + 1 else c

/-- An FP32 code converted to a narrow float target, `2 ^ sc` being divided out first (the block scale of an MX
format) (R110, R154). -/
def narrowF (t : Narrow) (sr : Option Nat) (sc : Int) (x : Nat) : Nat :=
  match dec32 x with
  | .nan => t.nanCode
  | .inf n => t.infCode + t.signBit n
  | .fin n m e => (if m == 0 then 0 else narrowMag t sr n m (e - sc)) + t.signBit n

/-- An FP32 code converted to MXINT8 at block scale `2 ^ sc` (R110): two's complement in units of `2 ^ -6`, saturating
to plus or minus 127 units. -/
def narrowMxInt8 (sr : Option Nat) (sc : Int) (x : Nat) : Nat :=
  match dec32 x with
  | .nan => 0
  | .inf n => if n then unsigned 8 (-127) else 127
  | .fin n m e =>
    let e' := e - sc + 6
    let v : Nat := match sr with
      | none => roundToInt m e'
      | some w =>
        if 0 ≤ e' then m * 2 ^ e'.toNat
        else
          let s := (-e').toNat
          let q := m / 2 ^ s
          let r := m % 2 ^ s
          if r == 0 then q
          else
            let up := if n then !decide (w < (2 ^ s - r) * 2 ^ 32 / 2 ^ s) else decide (w < r * 2 ^ 32 / 2 ^ s)
            if up then q + 1 else q
    let v := min v 127
    if n then unsigned 8 (-(v : Int)) else v

/-- The shared scale of a block of FP32 codes for an element format whose largest value has exponent `eMax` (R110):
0xFF with a NaN, 0x7F with no finite non-zero value, else the clamped exponent. -/
def mxScale (eMax : Int) (l : List Nat) : Nat :=
  if l.any isNan32 then 0xFF
  else
    let lg := l.filterMap fun x => match dec32 x with
      | .fin _ m e => if m == 0 then none else some (e + (bitLen m : Int) - 1)
      | _ => none
    match lg with
    | [] => 0x7F
    | a :: r => (max 0 (min 254 (r.foldl max a - eMax + 127))).toNat

/-- `x` with bits 15 to 0 of its encoding cleared (R119, SPLITH); where that is a NaN, the canonical one, the only NaN the module
writes (R105, R152). DEDUCED (log 57). -/
def splitH (x : Nat) : Nat := if isNan32 (x / 2 ^ 16 * 2 ^ 16) then nan32 else x / 2 ^ 16 * 2 ^ 16

/-- The low part of the split of R119 as an FP32 value: `x` minus its high part, rounded to BF16; +0 for an infinity or
a NaN (SPLITL). -/
def splitL (x : Nat) : Nat :=
  match dec32 x with
  | .nan => 0
  | .inf _ => 0
  | .fin _ _ _ => narrowF toBF16 none 0 (sub32 x (x / 2 ^ 16 * 2 ^ 16)) * 2 ^ 16

/-- The index of a piecewise-linear stage: the clamped floor, none when it is NaN (R152). -/
def pwlIndex (x lo r : Nat) : Option Nat :=
  let v := mul32 (sub32 x lo) r
  match dec32 v with
  | .nan => none
  | .inf n => some (if n then 0 else 255)
  | .fin n m e =>
    if n && m != 0 then some 0
    else some (min 255 (if 0 ≤ e then m * 2 ^ e.toNat else m / 2 ^ (-e).toNat))

/-- The piecewise-linear stage (R152). -/
def pwl32 (slope icpt : List Nat) (lo r x : Nat) : Nat :=
  let at' (l : List Nat) (i : Nat) : Nat := l.getD i 0
  match dec32 x with
  | .nan => nan32
  | .inf n =>
    let i := if n then 0 else 255
    match dec32 (at' slope i) with
    | .nan => nan32
    | .inf n' => inf32 (n != n')
    | .fin n' m _ => if m == 0 then roundV (dec32 (at' icpt i)) else inf32 (n != n')
  | .fin _ _ _ =>
    match pwlIndex x lo r with
    | none => nan32
    | some i => fma32 (at' slope i) x (at' icpt i)

end Sys2Proof.Machine
end

