-- ==== Sys2Proof/Machine/Matrix.lean ====
section
/-! DEFINITION. The matrix engine (04_matrix_engine.md, R95 to R124; 05_sparsity_and_routing.md, R126 to R132). -/

namespace Sys2Proof.Machine

/-! ### Formats -/

/-- The element width in bits of a format code (R75, R99). -/
def fmtBits (f : Nat) : Nat :=
  match f with
  | 3 => 4 | 8 => 4 | 6 => 6 | 7 => 6 | 10 => 16 | 11 => 16 | _ => 8

/-- Whether a format carries E8M0 block scales (R97). -/
def fmtMx (f : Nat) : Bool := decide (4 ≤ f) && decide (f ≤ 9)

/-- The K extent of one MMA (R75). -/
def fmtK (f : Nat) (sparse : Bool) : Nat :=
  let k := match f with
    | 3 => 256 | 8 => 256 | 10 => 64 | 11 => 64 | _ => 128
  if sparse then 2 * k else k

/-- Stored weights per row (R97, R125). -/
def fmtStored (f : Nat) (sparse : Bool) : Nat := if sparse then fmtK f sparse / 2 else fmtK f sparse

/-- The bytes of the value part of a block image (R97, R126). -/
def imgValues (f : Nat) (sparse : Bool) : Nat := 256 * fmtStored f sparse * fmtBits f / 8

/-- The bytes of the scale part (R97, R126). -/
def imgScales (f : Nat) (sparse : Bool) : Nat := if fmtMx f then 256 * fmtK f sparse / 32 else 0

/-- The lines of a weight block image (R97). -/
def imgLines (f : Nat) (sparse : Bool) : Nat :=
  (imgValues f sparse + imgScales f sparse + (if sparse then 256 * fmtStored f sparse / 4 else 0)) / 512

/-- The bytes of an activation vector, padded to 32 (R98). -/
def vecBytes (f : Nat) (sparse : Bool) : Nat :=
  (fmtK f sparse * fmtBits f / 8 + (if fmtMx f then fmtK f sparse / 32 else 0) + 31) / 32 * 32

/-- The 128-element groups of a vector (R130, R131). -/
def vecGroups (f : Nat) (sparse : Bool) : Nat := max 1 (fmtK f sparse / 128)

/-- Element `i` of width `w` of a bit string (R97). -/
def elemAt (bs : Bytes) (w i : Nat) : Nat := bitsOf (leNat ((bs.drop (w * i / 8)).take 3)) (w * i % 8) w

/-- An integer element as a value. -/
def intVal (v : Int) : FVal := .fin (decide (v < 0)) v.natAbs 0

/-- An element code read in its format (R99). -/
def elemVal (f : Nat) (uns : Bool) (c : Nat) : FVal :=
  match f with
  | 0 => decodeF e4m3F c
  | 1 => decodeF e5m2F c
  | 2 => intVal (if uns then (c : Int) else signed 8 c)
  | 3 => intVal (if uns then (c : Int) else signed 4 c)
  | 4 => decodeF e4m3F c
  | 5 => decodeF e5m2F c
  | 6 => decodeF e3m2F c
  | 7 => decodeF e2m3F c
  | 8 => decodeF e2m1F c
  | 9 => match intVal (signed 8 c) with
    | .fin n m e => .fin n m (e - 6)
    | v => v
  | 10 => decodeF bf16F c
  | _ => decodeF fp16F c

/-- A value with an E8M0 block scale (R99): 0xFF stands for NaN. -/
def scaled (v : FVal) (sc : Nat) : FVal :=
  if sc = 0xFF then .nan
  else match v with
    | .fin n m e => .fin n m (e + sc - 127)
    | v => v

/-- The elements of a vector or of a dense weight row, each with its block's scale; `scales` holds one byte per 32
elements when the format has scales (R97, R98). -/
def rowVals (f : Nat) (uns : Bool) (n : Nat) (vals scales : Bytes) : List FVal :=
  (List.range n).map fun i =>
    let v := elemVal f uns (elemAt vals (fmtBits f) i)
    if fmtMx f then scaled v (scales.getD (i / 32) 0).toNat else v

/-! ### Products and sums -/

/-- A product scaled by `2 ^ sh` (R100, pshift). -/
def shiftVal (sh : Nat) (v : FVal) : FVal :=
  match v with
  | .fin n m e => .fin n m (e + sh)
  | v => v

/-- The products of output `j` that take part in an MMA (R100, R126, R127, R131): `img` is the weight block image, `acts`
the activation elements, `gated` the groups left out. -/
def outputProducts (f : Nat) (sparse wus : Bool) (pshift : Nat) (img : Bytes) (acts : List FVal) (gated : Nat → Bool)
    (j : Nat) : List FVal :=
  let k := fmtK f sparse
  let st := fmtStored f sparse
  let w := fmtBits f
  let vals := (img.drop (j * st * w / 8)).take (st * w / 8)
  let scales := (img.drop (imgValues f sparse + j * (k / 32))).take (k / 32)
  let idxs := (img.drop (imgValues f sparse + imgScales f sparse + j * st / 4)).take (st / 4)
  (List.range st).filterMap fun i =>
    let e := if sparse then 4 * (i / 2) + elemAt idxs 2 i else i
    if gated (if k < 128 then 0 else e / 128) then none
    else
      let wv := elemVal f wus (elemAt vals w i)
      let wv := if fmtMx f then scaled wv (scales.getD (e / 32) 0).toNat else wv
      some (shiftVal (8 * pshift) (mulExact (acts.getD e (.fin false 0 0)) wv))

/-- The open dot result as an FP32 code (R101 to R103, R105). -/
def dotOpen (ps : List FVal) : Nat :=
  if ps.contains .nan then nan32
  else
    let pi := ps.contains (.inf false)
    let ni := ps.contains (.inf true)
    if pi && ni then nan32
    else if pi then inf32 false
    else if ni then inf32 true
    else
      let lg := ps.filterMap fun p => match p with
        | .fin _ m e => if m = 0 then none else some (e + (bitLen m : Int) - 1)
        | _ => none
      match lg with
      | [] => 0
      | q0 :: r =>
        let q := r.foldl max q0
        let t := ps.foldl (fun (a : Int) p => match p with
          | .fin n m e =>
            let sh := e + 86 - q
            let v : Int := if 0 ≤ sh then m * 2 ^ sh.toNat else (m / 2 ^ (-sh).toNat : Nat)
            if n then a - v else a + v
          | _ => a) 0
        roundInt32 t (q - 86)

/-- What an exam output gives: the new L, a failing product (whether it was NaN or infinite), or a sum out of range
(R107). -/
inductive ExamRes where
  | ok (l : Int)
  | badProduct (nonfinite : Bool)
  | overflow
deriving DecidableEq, Repr

/-- A product in units of `2 ^ a`, when R107 admits it. -/
def examUnits (a : Int) (p : FVal) : Option Int :=
  match p with
  | .fin n m e =>
    if m = 0 then some 0
    else if e < a ∧ m % 2 ^ (a - e).toNat ≠ 0 then none
    else
      let u : Nat := if a ≤ e then m * 2 ^ (e - a).toNat else m / 2 ^ (a - e).toNat
      if u < 2 ^ 128 then some (if n then -(u : Int) else u) else none
  | _ => none

/-- The long accumulation of one output (R107). Onto an undefined L only the products are judged, and the new L, undefined
again, raises no error (R117). -/
def examOut (a : Int) (base : Option Int) (ps : List FVal) : ExamRes :=
  if ps.any fun p => (examUnits a p).isNone then
    .badProduct (ps.any fun p => match p with | .fin _ _ _ => false | _ => true)
  else
    match base with
    | none => .ok 0
    | some b =>
      let l := ps.foldl (fun acc p => acc + (examUnits a p).getD 0) b
      if l.natAbs < 2 ^ 159 then .ok l else .overflow

/-! ### Accumulators -/

/-- The values of an open accumulator tile; undefined where nothing defines them (R95). -/
def openVals (x : Tile) (i : Nat) : List Nat :=
  match Store.get? x.acc i with
  | some l => l
  | none =>
    let b := Store.getD x.accFree i (x.accKick + 256 * i)
    (List.range 256).map fun j => Config.freeValue (b + j) % 2 ^ 32

/-- The L values of an exam accumulator tile; undefined where nothing defines them (R95). -/
def examVals (x : Tile) (e : Nat) : List Int :=
  match Store.get? x.exam e with
  | some l => l
  | none =>
    let b := Store.getD x.examFree e (x.accKick + 65536 + 256 * e)
    (List.range 256).map fun j => signed 160 (Config.freeValue (b + j))

/-- An open tile written: the exam tile that shares its storage becomes undefined (R95). -/
def putOpen (s : State) (t i : Nat) (v : List Nat) : State :=
  let s := modTile s t fun x => { x with acc := Store.set x.acc i v }
  if i < 240 then
    takeFree (modTile s t fun x => { x with
      exam := Store.erase x.exam (i / 5), examFree := Store.set x.examFree (i / 5) s.freeCtr }) 256
  else s

/-- An exam tile written: the five open tiles that share its storage become undefined (R95). -/
def putExam (s : State) (t e : Nat) (v : List Int) : State :=
  takeFree (modTile s t fun x => { x with
    exam := Store.set x.exam e v
    acc := Store.dropIf x.acc fun i => i / 5 == e && decide (i < 240)
    accFree := (List.range 5).foldl (fun m i => Store.set m (5 * e + i) (s.freeCtr + 256 * i)) x.accFree }) 1280

/-- An exam tile left undefined by what was accumulated onto undefined values: so are the open tiles that share its storage
(R95, R117). -/
def looseExam (s : State) (t e : Nat) : State :=
  takeFree (modTile (putExam s t e []) t fun x => { x with
    exam := Store.erase x.exam e
    examFree := Store.set x.examFree e (s.freeCtr + 1280) }) 256

/-- The storage a tile of a view occupies, as results the guard tracks (R95, R112). -/
def accRes (exam : Bool) (i : Nat) : List Res :=
  if exam then (List.range 5).map fun k => .acc (5 * i + k) else [.acc i]

/-- The accumulator tile an operation names: acc, plus a counter when acnt names one (R74). -/
def accIndex (x : Tile) (acc acnt : Nat) : Nat := if 1 ≤ acnt ∧ acnt ≤ 8 then acc + cntOf x (acnt - 1) else acc

/-- The accumulator tiles of a view (R95). -/
def accLimit (exam : Bool) : Nat := if exam then 48 else 256

/-- An ME program error with its detail, the first after kickoff kept (R124, R239). -/
def meErr (s : State) (t cause code acc pos : Nat) (ovf nonfin : Bool) : State :=
  let s := if rd s (ME_ERR_INFO_cause t) = 0 then
      wrs s [(ME_ERR_INFO_cause t, cause), (ME_ERR_INFO_pc t, pcOf s t), (ME_ERR_INFO_acc t, min acc 0xFF),
        (ME_ERR_INFO_pos t, pos), (ME_ERR_INFO_overflow t, b2n ovf), (ME_ERR_INFO_nonfinite t, b2n nonfin)]
    else s
  progErr s t code 1

/-! ### The tray's write side -/

/-- Whether the tray write port is taken on one of `n` ticks from `first` on (R114). -/
def trayPortHold (x : Tile) (first n : Nat) : List Nat := if portBusy x 1 .tray (rangeFrom first n) then [5] else []

/-- Whether the tray lacks `n` free lines (R115). -/
def trayShort (x : Tile) (tick n : Nat) : Bool := decide (512 < trayLines x tick + n)

/-- A hold for tray space while an issued pop is still to free lines (R115, R146). -/
def traySpaceHold (x : Tile) (tick n : Nat) : List Nat :=
  if trayShort x tick n && x.freeing.any (fun p => decide (tick < p.1)) then [5] else []

/-- TRAY_OVERFLOW: no issued pop is still to free lines (R146), detail in VE_ERR_INFO. -/
def trayErr (s : State) (t cause code slot : Nat) : State :=
  let s := if rd s (VE_ERR_INFO_cause t) = 0 then
      wrs s [(VE_ERR_INFO_cause t, cause), (VE_ERR_INFO_pc t, pcOf s t), (VE_ERR_INFO_chain t, 0)]
    else s
  progErr s t code slot

/-- An entry reserved in the tray, in the order of first lines, its port ticks taken (R114, R115). -/
def pushTray (s : State) (t : Nat) (e : TrayEntry) : State :=
  let n := if e.long then 10 else 2
  syncTray (modTile s t fun x =>
    { x with
      tray := insertBy TrayEntry.first e x.tray
      uses := (rangeFrom e.first n).map (fun k => ⟨.tray, k, 0⟩) ++ x.uses }) t

/-! ### Operations -/

/-- Whether an MMA's encoding is reserved (R57, R74, R75). -/
def mmaBad (o : MeOp) : Bool :=
  let f := o.fmt.toNat
  decide (11 < f) || decide (8 < o.acnt.toNat) || o.accmode == 3 || o.pshift == 3
    || (o.exam && decide (10 ≤ f)) || ((o.aus || o.wus) && f != 2 && f != 3) || (o.pshift != 0 && f != 2)

/-- The tag of a weight buffer: valid, fmt, sparse (R96). -/
def wbufTag (s : State) (t : Nat) (b : Bool) : Nat × Nat × Nat :=
  if b then (rd s (ME_STATUS_wbuf1_valid t), rd s (ME_STATUS_wbuf1_fmt t), rd s (ME_STATUS_wbuf1_sparse t))
  else (rd s (ME_STATUS_wbuf0_valid t), rd s (ME_STATUS_wbuf0_fmt t), rd s (ME_STATUS_wbuf0_sparse t))

/-- The bytes a weight buffer holds, line after line (R96). -/
def wbufImage (x : Tile) (b : Bool) (lines : Nat) : Bytes :=
  ((List.range lines).map fun i => Store.getD x.wbuf (128 * b2n b + i) (List.replicate 512 0)).flatten

/-- The bench DPUs of a tile neither used nor retired, in physical order (R357, R358). -/
def freeDpus (s : State) (t : Nat) : List Nat :=
  (List.range 8).filter fun i => !bitOf (rd s (REL_DPU_used t)) i && !bitOf (rd s (REL_DPU_retired t)) i

/-- ME_STATUS.shadow_width and shadow_next of a tile brought up to date (R122, R358). -/
def syncShadow (s : State) (t : Nat) : State :=
  let w := (freeDpus s t).length
  wrs s [(ME_STATUS_shadow_width t, w), (ME_STATUS_shadow_next t, w * rd s (ME_MMA_COUNT_mma t) % 256)]

/-- The effects of an issued MMA on the counters (R122, R132): the MMA count, gated groups, shadow comparisons. -/
def mmaCount (s : State) (t gatedGroups : Nat) (allGated : Bool) : State :=
  let w := (freeDpus s t).length
  let n := rd s (ME_MMA_COUNT_mma t)
  let s := wr s (ME_MMA_COUNT_mma t) (n + 1)
  let s := bump s (ME_GATE_gated_groups t) gatedGroups
  let s := if allGated then bump s (ME_GATE_gated_mma t) 1 else bump s (ME_SHADOW_compares t) w
  wr s (ME_STATUS_shadow_next t) (w * (n + 1) % 256)

/-- The failing outputs of an exam MMA: the lowest position and how it failed; where several fail, `overflow` and `nonfinite` are
those of the lowest (R107, R124). DESIGN CHOICE (log 57). -/
def examFail (l : List ExamRes) : Option (Nat × Bool × Bool) :=
  match (List.zip (List.range 256) l).find? fun p => match p.2 with | .ok _ => false | _ => true with
  | some (j, .badProduct nf) => some (j, false, nf)
  | some (j, .overflow) => some (j, true, false)
  | _ => none

/-- MMA: 256 outputs of one activation vector against the weight block of a buffer, written, accumulated or emitted
(R100 to R107, R111 to R115). Of several mistakes of one MMA the error is that of the first in this order: accumulator tile, address,
buffer empty, buffer format, tray, exam range: DESIGN CHOICE (log 57). -/
def opMma (o : MeOp) (s : State) : Host.Outcome State Fault Refusal :=
  let t := o.t
  let x := tileOf s t
  let tick := tickOf s t
  let f := o.fmt.toNat
  let i := accIndex x o.acc.toNat o.acnt.toNat
  let addr := effAddr x o.adesc.toNat o.aoff.toNat
  let vb := vecBytes f o.sparse
  let n := vb + (if o.amask then 32 else 0)
  let lat := (if o.exam then 14 else 10) + b2n o.sparse
  let emits := o.accmode == 2
  let lines := if o.exam then 10 else 2
  let holds := slotHold x tick 1
    ++ flightKinds x tick (accRes o.exam i ++ [.wbuf (b2n o.wbuf)] ++ spanOf addr n)
    ++ (if emits then trayPortHold x (tick + lat + 1) lines ++ traySpaceHold x tick lines else [])
  .next <| issueOp s t 1 (mmaBad o) holds false fun s =>
    if accLimit o.exam ≤ i then meErr s t 4 errRange i 0 false false
    else if addr % 32 ≠ 0 || !ownScratch s t 0 addr n then progErr s t errRange 1
    else
      let (valid, bf, bsp) := wbufTag s t o.wbuf
      if valid = 0 then meErr s t 1 errBufEmpty i 0 false false
      else if bf ≠ f ∨ bsp ≠ b2n o.sparse then meErr s t 2 errBufFormat i 0 false false
      else if emits && trayShort x tick lines then trayErr s t 2 errTrayOverflow 1
      else
        let s := findUpsets s fun u => u == .array t || Upset.within addr n u
        let vec := readBytes s addr n
        let mask := leNat (vec.drop vb)
        let gated : Nat → Bool := fun g => o.amask && bitOf mask g
        let groups := vecGroups f o.sparse
        let ng := ((List.range groups).filter gated).length
        let acts := rowVals f o.aus (fmtK f o.sparse) vec (vec.drop (fmtK f o.sparse * fmtBits f / 8))
        let img := wbufImage x o.wbuf (imgLines f o.sparse)
        let prods := (List.range 256).map (outputProducts f o.sparse o.wus o.pshift.toNat img acts gated)
        let mark := (accRes o.exam i).map fun r => (⟨r, 1, tick, tick + lat, tick + lat, false, 1⟩ : Mark)
        let finish (s : State) (data : List Int) (anchor : Int) : State :=
          let s := mmaCount s t ng (ng == groups)
          let s := modTile s t fun y => (y.mark mark).use (slotUse 1 tick (if o.exam then 2 else 1))
          if emits then pushTray s t ⟨o.exam, data, anchor, tick + lat + 1, tick⟩ else s
        if o.exam then
          let a := Store.getD x.anchors i 0
          let defined := o.accmode == 0 || (Store.get? x.exam i).isSome
          let old := if o.accmode = 0 then List.replicate 256 0 else examVals x i
          let res := List.zipWith (fun b => examOut a (if defined then some b else none)) old prods
          match examFail res with
          | some (pos, ovf, nf) => meErr s t 3 errExamRange i pos ovf nf
          | none =>
            let l := res.map fun r => match r with | .ok v => v | _ => 0
            if defined then finish (putExam s t i l) l a
            else
              let s := looseExam s t i
              finish s (examVals (tileOf s t) i) a
        else
          let d := prods.map dotOpen
          let v := if o.accmode = 0 then d else List.zipWith add32 (openVals x i) d
          finish (putOpen s t i v) (v.map fun k => (k : Int)) 0

/-- Whether a WLOAD's encoding is reserved: its format, and every field it does not use (R57, R74, R75). -/
def wloadBad (o : MeOp) : Bool :=
  decide (11 < o.fmt.toNat) || o.acc != 0 || o.acnt != 0 || o.accmode != 0 || o.amask || o.exam || o.aus || o.wus
    || o.pshift != 0

/-- WLOAD: a weight block image moved into a weight buffer, line by line; the tag is set at issue (R96, R97, R111). -/
def opWload (o : MeOp) (s : State) : Host.Outcome State Fault Refusal :=
  let t := o.t
  let x := tileOf s t
  let tick := tickOf s t
  let n := imgLines o.fmt.toNat o.sparse
  let addr := effAddr x o.adesc.toNat o.aoff.toNat
  let holds := slotHold x tick 1
    ++ flightKinds x tick (.wbuf (b2n o.wbuf) :: spanOf addr (512 * n))
    ++ (if portBusy x 1 .weight (rangeFrom tick n) then [2] else [])
  .next <| issueOp s t 1 (wloadBad o) holds false fun s =>
    if addr % 512 ≠ 0 || !ownScratch s t 0 addr (512 * n) then progErr s t errRange 1
    else
      let b := b2n o.wbuf
      let s := if o.wbuf then
          wrs s [(ME_STATUS_wbuf1_fmt t, o.fmt.toNat), (ME_STATUS_wbuf1_sparse t, b2n o.sparse), (ME_STATUS_wbuf1_valid t, 1)]
        else
          wrs s [(ME_STATUS_wbuf0_fmt t, o.fmt.toNat), (ME_STATUS_wbuf0_sparse t, b2n o.sparse), (ME_STATUS_wbuf0_valid t, 1)]
      modTile (readFinds s addr (512 * n)) t fun y =>
        ((y.schedAll ((List.range n).map fun i => ⟨tick + i, false, 1, .weightLine b i (addr + 512 * i), tick⟩)).mark
          [⟨.wbuf b, 1, tick, tick + n + 2, tick + n + 2, false, 1⟩]).use
          (slotUse 1 tick 1 ++ (rangeFrom tick n).map fun k => ⟨.weight, k, 0⟩)

/-- Whether an EMIT or AZERO has a non-zero unused field or a reserved acnt (R57, R74). -/
def accOpBad (o : MeOp) : Bool :=
  o.fmt != 0 || o.wbuf || o.adesc != 0 || o.aoff != 0 || decide (8 < o.acnt.toNat) || o.accmode != 0 || o.sparse
    || o.amask || o.aus || o.wus || o.pshift != 0

/-- EMIT: an accumulator tile written into the tray (R108, R111, R114, R115). -/
def opEmit (o : MeOp) (s : State) : Host.Outcome State Fault Refusal :=
  let t := o.t
  let x := tileOf s t
  let tick := tickOf s t
  let i := accIndex x o.acc.toNat o.acnt.toNat
  let lines := if o.exam then 10 else 2
  let holds := slotHold x tick 1 ++ flightKinds x tick (accRes o.exam i)
    ++ trayPortHold x (tick + 1) lines ++ traySpaceHold x tick lines
  .next <| issueOp s t 1 (accOpBad o) holds false fun s =>
    if accLimit o.exam ≤ i then meErr s t 4 errRange i 0 false false
    else if trayShort x tick lines then trayErr s t 2 errTrayOverflow 1
    else
      let data := if o.exam then examVals x i else (openVals x i).map fun k => (k : Int)
      let s := modTile s t fun y => y.use (slotUse 1 tick 2)
      pushTray s t ⟨o.exam, data, if o.exam then Store.getD x.anchors i 0 else 0, tick + 1, tick⟩

/-- AZERO: every value of an accumulator tile zero; an exam tile keeps its anchor (R106). -/
def opAzero (o : MeOp) (s : State) : Host.Outcome State Fault Refusal :=
  let t := o.t
  let x := tileOf s t
  let tick := tickOf s t
  let i := accIndex x o.acc.toNat o.acnt.toNat
  .next <| issueOp s t 1 (accOpBad o) (slotHold x tick 1 ++ flightKinds x tick (accRes o.exam i)) false fun s =>
    if accLimit o.exam ≤ i then meErr s t 4 errRange i 0 false false
    else
      let s := if o.exam then putExam s t i (List.replicate 256 0) else putOpen s t i (List.replicate 256 0)
      modTile s t fun y => y.use (slotUse 1 tick 1)

/-- Whether an ANCHOR has a non-zero unused field or a reserved acnt (R57, R74). -/
def anchorBad (o : MeOp) : Bool :=
  o.fmt != 0 || o.wbuf || o.adesc != 0 || decide (8 < o.acnt.toNat) || o.accmode != 0 || o.sparse || o.amask || o.exam
    || o.aus || o.wus || o.pshift != 0

/-- ANCHOR: an exam tile's anchor set from the signed offset field, every L zero (R106). -/
def opAnchor (o : MeOp) (s : State) : Host.Outcome State Fault Refusal :=
  let t := o.t
  let x := tileOf s t
  let tick := tickOf s t
  let i := accIndex x o.acc.toNat o.acnt.toNat
  .next <| issueOp s t 1 (anchorBad o) (slotHold x tick 1 ++ flightKinds x tick (accRes true i)) false fun s =>
    if accLimit true ≤ i then meErr s t 4 errRange i 0 false false
    else
      let s := putExam s t i (List.replicate 256 0)
      modTile s t fun y =>
        { y.use (slotUse 1 tick 1) with anchors := Store.put y.anchors i 0 (signed 10 o.aoff.toNat) }

end Sys2Proof.Machine
end

