-- ==== Sys2Proof/Machine/Vector.lean ====
section
/-! DEFINITION. The vector engine and the tray's read side (06_vector_engine_and_aides.md, R143 to R156; the generator of
13_determinism_and_audit.md, R332; row tags of R333). -/

namespace Sys2Proof.Machine

/-! ### Random words (R332) -/

/-- One round of Philox-4×32 on the counter words with the key of the round. -/
def philoxRound (k0 k1 : Nat) (c : Nat × Nat × Nat × Nat) : Nat × Nat × Nat × Nat :=
  let (c0, c1, c2, c3) := c
  let p0 := 0xD2511F53 * c0
  let p1 := 0xCD9E8D57 * c2
  (p1 / 2 ^ 32 ^^^ c1 ^^^ k0, p1 % 2 ^ 32, p0 / 2 ^ 32 ^^^ c3 ^^^ k1, p0 % 2 ^ 32)

/-- `n` rounds of Philox-4×32. -/
def philoxRounds : Nat → Nat → Nat → Nat × Nat × Nat × Nat → Nat × Nat × Nat × Nat
  | 0, _, _, c => c
  | n + 1, k0, k1, c =>
    philoxRounds n ((k0 + 0x9E3779B9) % 2 ^ 32) ((k1 + 0xBB67AE85) % 2 ^ 32) (philoxRound k0 k1 c)

/-- The random word of element `e` of VE stream `q` on a logical tile under a 128-bit seed (R332). -/
def philoxWord (seed tile q e : Nat) : Nat :=
  let e := e % 2 ^ 48
  let b := e / 4
  let c0 := bitsOf b 0 32
  let c1 := bitsOf b 32 16 + q % 256 * 2 ^ 16
  let c2 := (tile % 4096) ^^^ bitsOf seed 64 32
  let c3 := bitsOf seed 96 32
  let r := philoxRounds 10 (bitsOf seed 0 32) (bitsOf seed 32 32) (c0, c1, c2, c3)
  match e % 4 with
  | 0 => r.1
  | 1 => r.2.1
  | 2 => r.2.2.1
  | _ => r.2.2.2

/-- The seed of the run a tile serves (R331). -/
def seedOf (s : State) (t : Nat) : Nat :=
  match (runOfTile s t).bind (Store.get? s.runs) with
  | some r => r.seed
  | none => 0

/-! ### Rows -/

/-- The lanes of a VE (VE_CAP.lanes). -/
def lanes : Nat := 256

/-- The element width of a VE format (R148). -/
def veBits (f : Nat) : Nat := if f = 0x10 ∨ f = 0x11 then 32 else if f = 0x12 then 160 else fmtBits f

/-- The bytes of a packed row (R148, R149). -/
def packedBytes (f : Nat) : Nat := lanes * veBits f / 8 + (if fmtMx f then lanes / 32 else 0)

/-- The lane values of a source or auxiliary row, as FP32 codes; FP32 and INT32 elements as raw bits (R148). -/
def rowLanes (f : Nat) (bs : Bytes) : List Nat :=
  (List.range lanes).map fun j =>
    if f = 0x10 ∨ f = 0x11 then fieldLE bs (4 * j) 4
    else roundV (elemVal f false (elemAt bs (fmtBits f) j))

/-- The number of vectors and their extent that a destination is cut into (R149). -/
def destVectors (c : Chain) : Nat × Nat :=
  if c.layout = 0 then (1, lanes) else (lanes / fmtK c.outFmt c.vecSparse, fmtK c.outFmt c.vecSparse)

/-- The bytes of a destination (R149). -/
def destBytes (c : Chain) : Nat :=
  if c.layout = 0 then packedBytes c.outFmt
  else (destVectors c).1 * (vecBytes c.outFmt c.vecSparse + (if c.layout = 2 then 32 else 0))

/-! ### Stages (R150 to R153) -/

/-- The lanes and masks while a chain runs. -/
structure ChainSt where
  x : List Nat
  m1 : List Bool
  m2 : List Bool
  m3 : List Bool
deriving DecidableEq, Repr

/-- Mask `m` of a chain: m0 is always true (R150). -/
def ChainSt.mask (c : ChainSt) (m : Nat) : List Bool :=
  match m with
  | 0 => List.replicate lanes true
  | 1 => c.m1
  | 2 => c.m2
  | _ => c.m3

/-- A mask written by a mask stage (R150 mdst). -/
def ChainSt.setMask (c : ChainSt) (m : Nat) (l : List Bool) : ChainSt :=
  match m with
  | 1 => { c with m1 := l }
  | 2 => { c with m2 := l }
  | 3 => { c with m3 := l }
  | _ => c

/-- What the stages of one chain read: constant banks, auxiliary row as lanes and as bytes, the long entry's L values and
anchor, a stream's word for a lane. -/
structure ChainEnv where
  bank : Nat → Nat → Nat
  aux : Nat → Nat
  auxBytes : Bytes
  longL : Nat → Int
  anchor : Int
  word : Nat → Nat → Nat

/-- The mask a mask stage writes: FCMPLT to FCMPNE, MLD, MOR (R151). -/
def stageMask (env : ChainEnv) (st : Stage) (c : ChainSt) (b : Nat → Nat) (act : Nat → Bool) (j : Nat) : Bool :=
  let x := c.x.getD j 0
  match st.op with
  | 0x10 => lt32 x (b j) && act j
  | 0x11 => (!isNan32 x && !isNan32 (b j) && !lt32 x (b j)) && act j
  | 0x12 => eq32 x (b j) && act j
  | 0x13 => !eq32 x (b j) && act j
  | 0x14 => bitOf (leNat (env.auxBytes.take 32)) j
  | _ => (c.mask st.mdst).getD j false || act j

/-- The value of an active lane after a stage that is no mask stage (R151, R152). -/
def stageLane (env : ChainEnv) (st : Stage) (c : ChainSt) (b : Nat → Nat) (active : List Nat) (j : Nat) : Nat :=
  let x := c.x.getD j 0
  let k := st.bank
  let k' := (st.bank + 1) % 16
  match st.op with
  | 0x01 => add32 x (b j)
  | 0x02 => sub32 x (b j)
  | 0x03 => mul32 x (b j)
  | 0x04 => fma32 x (env.bank k j) (env.bank k' j)
  | 0x05 => max32 x (b j)
  | 0x06 => min32 x (b j)
  | 0x07 => if isNan32 x then nan32 else x % 2 ^ 31
  | 0x08 => fneg32 x
  | 0x09 => recip32 x
  | 0x0A => rsqrt32 x
  | 0x0B => pwl32 ((List.range 256).map (env.bank k)) ((List.range 256).map (env.bank k')) (bitsOf st.imm 0 16 * 2 ^ 16)
      (bitsOf st.imm 16 16 * 2 ^ 16) x
  | 0x0C => sum32 active
  | 0x0D => active.foldl max32 (inf32 true)
  | 0x0E => b j
  | 0x18 => itof32 x
  | 0x19 => unsigned 32 (toIntSat (-(2 ^ 31)) (2 ^ 31 - 1) x)
  | 0x1A => (x + b j) % 2 ^ 32
  | 0x1B => x &&& b j
  | 0x1C => splitH x
  | 0x1D => splitL x
  | 0x1E => roundInt32 (env.word st.stream j / 256 : Nat) (-24)
  | 0x20 => roundInt32 (env.longL j) env.anchor
  | _ => x

/-- One stage (R150). -/
def runStage (env : ChainEnv) (c : ChainSt) (st : Stage) : ChainSt :=
  let b : Nat → Nat := fun j =>
    match st.bsrc with
    | 0 => st.imm
    | 1 => env.bank st.bank j
    | _ => env.aux j
  let m := c.mask st.msel
  let act : Nat → Bool := fun j => m.getD j false != st.mneg
  if 0x10 ≤ st.op ∧ st.op ≤ 0x15 then c.setMask st.mdst ((List.range lanes).map (stageMask env st c b act))
  else
    let active := ((List.range lanes).filter act).map fun j => c.x.getD j 0
    { c with x := (List.range lanes).map fun j => if act j then stageLane env st c b active j else c.x.getD j 0 }

/-- The constant banks a stage names (R151, R156). -/
def stageBanks (st : Stage) : List Nat :=
  if st.op = 0x04 ∨ st.op = 0x0B then [st.bank, (st.bank + 1) % 16]
  else if st.bsrc = 1 then [st.bank] else []

/-- The random streams a chain uses (R153). -/
def chainStreams (c : Chain) : List Nat :=
  ((c.stages.filter (·.op == 0x1E)).map (·.stream) ++ (if c.outSr then [c.outStream] else [])).eraseDups

/-! ### Output conversion (R154, R155) -/

/-- The exponent of an MX element format's largest value (R110). -/
def mxMaxExp (f : Nat) : Int :=
  match f with
  | 4 => 8 | 5 => 15 | 6 => 4 | 7 => 2 | 8 => 2 | _ => 0

/-- One lane converted to a narrow format, `sc` being the block's scale exponent for an MX format (R110, R154). -/
def convLane (f : Nat) (sr : Option Nat) (sc : Int) (x : Nat) : Nat :=
  match f with
  | 0 => narrowF toE4M3 sr 0 x
  | 1 => narrowF toE5M2 sr 0 x
  | 2 => unsigned 8 (toIntSat (-128) 127 x)
  | 3 => unsigned 4 (toIntSat (-8) 7 x)
  | 4 => narrowF toE4M3 sr sc x
  | 5 => narrowF { toE5M2 with infCode := 0x7B } sr sc x
  | 6 => narrowF toE3M2 sr sc x
  | 7 => narrowF toE2M3 sr sc x
  | 8 => narrowF toE2M1 sr sc x
  | 9 => narrowMxInt8 sr sc x
  | 10 => narrowF toBF16 sr 0 x
  | 11 => narrowF toFP16 sr 0 x
  | _ => x

/-- Whether a converted code is a zero. -/
def convZero (f code : Nat) : Bool :=
  if f = 2 ∨ f = 3 ∨ f = 9 then code == 0
  else if f = 0x10 ∨ f = 0x11 then code % 2 ^ 31 == 0
  else code % 2 ^ (fmtBits f - 1) == 0

/-- The codes of a row and the scale byte of each 32-lane block (R110, R154). -/
def convRow (f : Nat) (x : List Nat) (w : List Bool) (sr : Option (Nat → Nat)) : List Nat × List Nat :=
  let val : Nat → Nat := fun j => if w.getD j false then x.getD j 0 else 0
  let scales := (List.range (lanes / 32)).map fun b => mxScale (mxMaxExp f) ((rangeFrom (32 * b) 32).map val)
  let codes := (List.range lanes).map fun j =>
    let sc := scales.getD (j / 32) 0
    if fmtMx f ∧ sc = 0xFF then 0
    else convLane f (sr.map fun g => g j) (if fmtMx f then (sc : Int) - 127 else 0) (x.getD j 0)
  (codes, scales)

/-- Codes of a width packed as a bit string (R97). -/
def packCodes (w : Nat) (l : List Nat) : Nat := l.foldr (fun c a => a * 2 ^ w + c % 2 ^ w) 0

/-- The destination bytes of a chain with their bit masks (R149, R155): each vector's elements, scales, padding and
granule. -/
def destRow (c : Chain) (codes scales : List Nat) (w : List Bool) : List (Byte × Byte) :=
  let (n, k) := destVectors c
  let wd := veBits c.outFmt
  let vecs := (List.range n).map fun v =>
    let ls := rangeFrom (v * k) k
    let val := packCodes wd (ls.map fun j => codes.getD j 0)
    let msk := packCodes wd (ls.map fun j => if w.getD j false then 2 ^ wd - 1 else 0)
    let elems := List.zip (toLE (k * wd / 8) val) (toLE (k * wd / 8) msk)
    let scl := if fmtMx c.outFmt then (List.range (k / 32)).map fun b =>
        let blk := rangeFrom (v * k + 32 * b) 32
        (BitVec.ofNat 8 (scales.getD (v * k / 32 + b) 0), if blk.any (fun j => w.getD j false) then (0xFF : Byte) else 0)
      else []
    let body := elems ++ scl
    if c.layout = 0 then body
    else
      let pad := List.replicate (vecBytes c.outFmt c.vecSparse - body.length) ((0 : Byte), (0xFF : Byte))
      let gran := if c.layout = 2 then
          let bit : Nat → Bool := fun g => (rangeFrom (v * k + 128 * g) (min k 128)).all fun j =>
            !w.getD j false || (convZero c.outFmt (codes.getD j 0) && !(fmtMx c.outFmt && scales.getD (j / 32) 0 == 0xFF))
          plain (toLE 32 (((List.range (vecGroups c.outFmt c.vecSparse)).filter bit).foldl (fun a g => a + 2 ^ g) 0))
        else []
      body ++ pad ++ gran
  vecs.flatten

/-- The row tag the digest unit absorbs for a VCHAIN (R333): GHASH of the write mask and the destination bytes, padded,
and the length block. -/
def rowTag (w : List Bool) (row : List (Byte × Byte)) : Bytes :=
  let mask := toLE 32 (((List.range lanes).filter fun j => w.getD j false).foldl (fun a j => a + 2 ^ j) 0)
  let data := mask ++ row.map fun p => p.1 &&& p.2
  let pad := List.replicate ((16 - data.length % 16) % 16) 0
  ghash (toBE 16 0x6A09E667F3BCC908BB67AE8584CAA73B) (data ++ pad ++ toBE 8 0 ++ toBE 8 (8 * data.length))

/-! ### Operations -/

/-- A VE program error with its detail, the first after kickoff kept (R164, R239). -/
def veErr (s : State) (t cause code chain : Nat) : State :=
  let s := if rd s (VE_ERR_INFO_cause t) = 0 then
      wrs s [(VE_ERR_INFO_cause t, cause), (VE_ERR_INFO_pc t, pcOf s t), (VE_ERR_INFO_chain t, min chain 0xFF)]
    else s
  progErr s t code 2

/-- A hold until the tray head is visible and the lines to be read are written (R144). -/
def headHold (x : Tile) (tick : Nat) (reads : Bool) : List Nat :=
  match x.tray with
  | [] => []
  | e :: _ => if tick < e.first + (if e.long && reads then 9 else 3) then [1] else []

/-- The head removed; its lines are free from tick `free` on (R145). -/
def popTray (s : State) (t free : Nat) : State :=
  let s := modTile s t fun x =>
    match x.tray with
    | [] => x
    | e :: r => { x with tray := r, freeing := (free, if e.long then 10 else 2) :: x.freeing }
  syncTray (bump s (VE_COUNT_pops t) 1) t

/-- Whether a chain's source does not match its stages (R151). -/
def srcMismatch (c : Chain) (long : Bool) : Bool :=
  let s0 := (c.stages.head?.map (·.op)).getD 0
  let longOps := c.stages.any fun st => st.op == 0x20 || st.op == 0x21
  (long && !(s0 == 0x20 || s0 == 0x21)) || (longOps && !long) || (long && c.aux)

/-- The chain run over its source: the codes to write, the scales, the write mask. -/
def runChain (s : State) (t : Nat) (c : Chain) (src : Option TrayEntry) (row auxRow : Bytes) :
    List Nat × List Nat × List Bool :=
  let x := tileOf s t
  let seed := seedOf s t
  let env : ChainEnv :=
    { bank := fun k j => (Store.getD x.banks k []).getD j 0
      aux := fun j => (rowLanes c.auxFmt auxRow).getD j 0
      auxBytes := auxRow
      longL := fun j => (src.map fun e => e.data.getD j 0).getD 0
      anchor := (src.map (·.anchor)).getD 0
      word := fun q j => philoxWord seed t q (Store.getD x.streams q 0 + j) }
  let x0 := match src with
    | some e => if e.long then List.replicate lanes 0 else e.data.map Int.toNat
    | none => rowLanes c.inFmt row
  let all := List.replicate lanes true
  let r := c.stages.foldl (runStage env) ⟨x0, all, all, all⟩
  let w := (r.mask c.wmask).map fun b => b != c.wneg
  if c.outFmt = 0x12 then
    ((List.range lanes).map fun j => unsigned 160 (env.longL j), [], w)
  else
    let (codes, scales) := convRow c.outFmt r.x w (if c.outSr then some (env.word c.outStream) else none)
    (codes, scales, w)

/-- VCHAIN: a chain of up to eight stages over the tray head or a scratchpad row, its converted result written under the
write mask on tick +4 + 2s, with the reads of that tick, which find it (R80, R144 to R156, R168). DEDUCED (log 12, 15). -/
def opVchain (t : Nat) (chain : BitVec 8) (src : BitVec 2) (sdesc : BitVec 6) (soff : BitVec 10) (ddesc : BitVec 6)
    (doff : BitVec 10) (s : State) : Host.Outcome State Fault Refusal :=
  let x := tileOf s t
  let tick := tickOf s t
  let bad := decide (2 ≤ src.toNat) || (src == 0 && (sdesc != 0 || soff != 0))
  .next <| match x.chains[chain.toNat]? with
  | none => issueOp s t 2 bad (slotHold x tick 2) false fun s => veErr s t 4 errRange chain.toNat
  | some c =>
    let tray := src == 0
    let sa := effAddr x sdesc.toNat soff.toNat
    let aa := effAddr x c.auxDesc c.auxOff
    let da := effAddr x ddesc.toNat doff.toNat
    let sn := packedBytes c.inFmt
    let an := packedBytes c.auxFmt
    let dn := destBytes c
    let lat := 4 + 2 * c.stages.length
    let spans := (if tray then [] else spanOf sa sn) ++ (if c.aux then spanOf aa an else []) ++ spanOf da dn
    let holds := slotHold x tick 2
      ++ flightKinds x tick ((c.stages.flatMap stageBanks).map .bank ++ spans)
      ++ (if tray then headHold x tick true else [])
      ++ (if portBusy x 1 .veWrite [tick + lat] then [2] else [])
    issueOp s t 2 bad holds false fun s =>
      let head := if tray then x.tray.head? else none
      if tray && head.isNone then veErr s t 1 errTrayEmpty chain.toNat
      else if srcMismatch c ((head.map (·.long)).getD false) then veErr s t 3 errSrcFormat chain.toNat
      else if (!tray && (sa % 32 != 0 || !ownScratch s t 1 sa sn)) || (c.aux && (aa % 32 != 0 || !ownScratch s t 1 aa an))
          || da % (if c.outFmt = 0x12 then 512 else 32) != 0
          || !(ownScratch s t 1 da dn || ownScratch s t 0 da dn) then veErr s t 5 errRange chain.toNat
      else
        let (codes, scales, w) := runChain s t c head (if tray then [] else readBytes s sa sn)
          (if c.aux then readBytes s aa an else [])
        let row := destRow c codes scales w
        let s := readFinds (readFinds s sa (if tray then 0 else sn)) aa (if c.aux then an else 0)
        let s := modTile (if tray then findUpsets s (· == .array t) else s) t fun y =>
          { ((y.sched ⟨tick + lat, false, 2, .write da row, tick⟩).mark ((spanOf da dn).map fun r =>
              ⟨r, 2, tick, tick + lat, tick + lat, false, 1⟩)).use (⟨.veWrite, tick + lat, 0⟩ :: slotUse 2 tick 2) with
            streams := (chainStreams c).foldl (fun m q => Store.put m q 0 (Store.getD m q 0 + lanes)) y.streams
            segTags := if auditOn s (tilePart s t) then y.segTags ++ [rowTag w row] else y.segTags }
        let s := bump s (VE_COUNT_chains t) 1
        match head with
        | some e => if c.pop then popTray s t (tick + (if e.long then 2 else 1)) else s
        | none => s

/-- VPOP: discards the tray head (R144, R145). -/
def opVpop (t : Nat) (s : State) : Host.Outcome State Fault Refusal :=
  let x := tileOf s t
  let tick := tickOf s t
  .next <| issueOp s t 2 false (slotHold x tick 2 ++ headHold x tick false) false fun s =>
    if x.tray.isEmpty then veErr s t 1 errTrayEmpty 0
    else popTray (modTile s t fun y => y.use (slotUse 2 tick 1)) t (tick + 1)

/-- VLDK: a row of raw lane words loaded into a constant bank (R156). -/
def opVldk (t : Nat) (k : BitVec 4) (sdesc : BitVec 6) (soff : BitVec 10) (s : State) :
    Host.Outcome State Fault Refusal :=
  let x := tileOf s t
  let tick := tickOf s t
  let a := effAddr x sdesc.toNat soff.toNat
  let n := 4 * lanes
  .next <| issueOp s t 2 false
      (slotHold x tick 2 ++ flightKinds x tick (.bank k.toNat :: spanOf a n)) false fun s =>
    if a % 32 ≠ 0 || !ownScratch s t 1 a n then veErr s t 5 errRange 0
    else
      let l := (List.range lanes).map fun j => leNat (readBytes s (a + 4 * j) 4)
      modTile (readFinds s a n) t fun y =>
        { (y.mark [⟨.bank k.toNat, 2, tick, tick + 3, tick + 3, false, 1⟩]).use (slotUse 2 tick 1) with
          banks := Store.set y.banks k.toNat l }

end Sys2Proof.Machine
end

