-- ==== Sys2Proof/Machine/Bundle.lean ====
section
/-! DEFINITION. The bundle at a tile's pc: its slots read from instruction memory by the encodings of
03_snielo_instruction_set.md (R55, R63, R74 to R79), and its issue as a whole (R56 to R60; 09, R235, R236, R239). -/

namespace Sys2Proof.Machine

/-- The 256-bit bundle at the pc of a tile (R55). -/
def bundleWord (s : State) (t : Nat) : Nat := leNat (readBytes s (windowOf t + 32 * pcOf s t) 32)

/-! ### The slots -/

/-- An operation of a slot: the command it is, and its meaning on its own. -/
structure SlotOp where
  cmd : Instr
  run : State → Host.Outcome State Fault Refusal

/-- NOP of a slot (R56). -/
def nopOp (t slot : Nat) : SlotOp := ⟨.nop t slot, opNop t slot⟩

/-- A field of a slot: its bits from `lo` up. -/
def fieldOf (w v lo : Nat) : BitVec w := BitVec.ofNat w (bitsOf v lo w)

/-- The SEQ operation of a bundle (R63). -/
def seqOp (t v : Nat) : SlotOp :=
  match bitsOf v 0 6 with
  | 0x01 => ⟨.setlim t (fieldOf 3 v 6) (fieldOf 20 v 9), opSetlim t (fieldOf 3 v 6) (fieldOf 20 v 9)⟩
  | 0x02 => ⟨.loop t (fieldOf 3 v 6) (fieldOf 14 v 9), opLoop t (fieldOf 3 v 6) (fieldOf 14 v 9)⟩
  | 0x03 => ⟨.jump t (fieldOf 14 v 6), opJump t (fieldOf 14 v 6)⟩
  | 0x04 => ⟨.brc t (fieldOf 2 v 6) (bitOf v 8) (fieldOf 14 v 9), opBrc t (fieldOf 2 v 6) (bitOf v 8) (fieldOf 14 v 9)⟩
  | 0x05 => ⟨.setcmp t (fieldOf 2 v 6) (fieldOf 3 v 8) (fieldOf 2 v 11) (fieldOf 16 v 13),
      opSetcmp t (fieldOf 2 v 6) (fieldOf 3 v 8) (fieldOf 2 v 11) (fieldOf 16 v 13)⟩
  | 0x06 => ⟨.waitbell t (fieldOf 4 v 6), opWaitbell t (fieldOf 4 v 6)⟩
  | 0x07 => ⟨.waittick t (fieldOf 26 v 6), opWaittick t (fieldOf 26 v 6)⟩
  | 0x08 => ⟨.hint t (fieldOf 4 v 6) (fieldOf 6 v 10) (fieldOf 10 v 16),
      opHint t (fieldOf 4 v 6) (fieldOf 6 v 10) (fieldOf 10 v 16)⟩
  | 0x09 => ⟨.refr t (fieldOf 12 v 6), opRefr t (fieldOf 12 v 6)⟩
  | 0x0A => ⟨.fence t (fieldOf 5 v 7) (bitOf v 12), opFence t (fieldOf 5 v 7) (bitOf v 12)⟩
  | 0x0B => ⟨.digest t (fieldOf 16 v 6), opDigest t (fieldOf 16 v 6)⟩
  | 0x0C => ⟨.trap t (fieldOf 8 v 6), opTrap t (fieldOf 8 v 6)⟩
  | 0x0D => ⟨.halt t (fieldOf 8 v 6), opHalt t (fieldOf 8 v 6)⟩
  | _ => nopOp t 0

/-- The ME operation of a bundle (R74). -/
def meOp (t v : Nat) : SlotOp :=
  let o : MeOp := ⟨t, fieldOf 4 v 5, bitOf v 9, fieldOf 6 v 10, fieldOf 10 v 16, fieldOf 8 v 26, fieldOf 4 v 34,
    fieldOf 2 v 38, bitOf v 40, bitOf v 41, bitOf v 42, bitOf v 43, bitOf v 44, fieldOf 2 v 45⟩
  match bitsOf v 0 5 with
  | 0x01 => ⟨.mma o, opMma o⟩
  | 0x02 => ⟨.wload o, opWload o⟩
  | 0x03 => ⟨.emit o, opEmit o⟩
  | 0x04 => ⟨.azero o, opAzero o⟩
  | 0x05 => ⟨.anchor o, opAnchor o⟩
  | _ => nopOp t 1

/-- The VE operation of a bundle (R76). -/
def veOp (t v : Nat) : SlotOp :=
  match bitsOf v 0 6 with
  | 0x01 => ⟨.vchain t (fieldOf 8 v 6) (fieldOf 2 v 14) (fieldOf 6 v 16) (fieldOf 10 v 22) (fieldOf 6 v 32) (fieldOf 10 v 38),
      opVchain t (fieldOf 8 v 6) (fieldOf 2 v 14) (fieldOf 6 v 16) (fieldOf 10 v 22) (fieldOf 6 v 32) (fieldOf 10 v 38)⟩
  | 0x02 => ⟨.vpop t, opVpop t⟩
  | 0x03 => ⟨.vldk t (fieldOf 4 v 6) (fieldOf 6 v 10) (fieldOf 10 v 16),
      opVldk t (fieldOf 4 v 6) (fieldOf 6 v 10) (fieldOf 10 v 16)⟩
  | _ => nopOp t 2

/-- The aide opcodes (R159). -/
def aidOps : List (Nat × (AidOp → Instr) × (AidOp → State → Host.Outcome State Fault Refusal)) :=
  [(0x01, Instr.add, opAdd), (0x02, Instr.sub, opSub), (0x03, Instr.and, opAnd), (0x04, Instr.or, opOr),
    (0x05, Instr.xor, opXor), (0x06, Instr.addi, opAddi), (0x07, Instr.andi, opAndi), (0x08, Instr.ori, opOri),
    (0x09, Instr.xori, opXori), (0x0A, Instr.lih, opLih), (0x0B, Instr.min, opMin), (0x0C, Instr.max, opMax),
    (0x0D, Instr.minu, opMinu), (0x0E, Instr.maxu, opMaxu), (0x0F, Instr.aidx, opAidx),
    (0x10, Instr.mul, opMul), (0x11, Instr.mulhu, opMulhu), (0x12, Instr.mulhs, opMulhs),
    (0x13, Instr.clmul, opClmul), (0x14, Instr.muli, opMuli), (0x18, Instr.sll, opSll),
    (0x19, Instr.srl, opSrl), (0x1A, Instr.sra, opSra), (0x1B, Instr.rotr, opRotr), (0x1C, Instr.sel, opSel),
    (0x1D, Instr.slt, opSlt), (0x1E, Instr.sltu, opSltu), (0x1F, Instr.ext, opExt)]
  ++ [(0x20, Instr.ld8, opLd8), (0x21, Instr.ld16, opLd16), (0x22, Instr.ld32, opLd32), (0x23, Instr.ld64, opLd64),
    (0x24, Instr.ld8s, opLd8s), (0x25, Instr.ld16s, opLd16s), (0x26, Instr.ld32s, opLd32s),
    (0x28, Instr.st8, opSt8), (0x29, Instr.st16, opSt16), (0x2A, Instr.st32, opSt32),
    (0x2B, Instr.st64, opSt64), (0x30, Instr.gld32, opGld32), (0x31, Instr.gld64, opGld64),
    (0x32, Instr.gst32, opGst32), (0x33, Instr.gst64, opGst64), (0x38, Instr.lkfetch, opLkfetch),
    (0x39, Instr.lkstore, opLkstore), (0x3A, Instr.lkappend, opLkappend), (0x40, Instr.decf, opDecf),
    (0x41, Instr.deca, opDeca), (0x44, Instr.hash, opHash)]
  ++ [(0x50, Instr.peq, opPeq), (0x51, Instr.pne, opPne), (0x52, Instr.plt, opPlt), (0x53, Instr.pltu, opPltu),
    (0x54, Instr.pge, opPge), (0x55, Instr.pgeu, opPgeu), (0x56, Instr.peqi, opPeqi),
    (0x57, Instr.plti, opPlti), (0x58, Instr.pand, opPand), (0x59, Instr.por, opPor),
    (0x5A, Instr.pxor, opPxor), (0x5B, Instr.pany, opPany), (0x5C, Instr.pall, opPall),
    (0x5D, Instr.route, opRoute)]

/-- The AID operation of a bundle (R77). -/
def aidOp (t v : Nat) : SlotOp :=
  match aidOps.find? fun p => p.1 == bitsOf v 0 7 with
  | some (_, c, run) =>
    let a : AidOp := ⟨t, fieldOf 5 v 7, fieldOf 5 v 12, fieldOf 5 v 17, fieldOf 3 v 22, bitOf v 25, fieldOf 32 v 32⟩
    ⟨c a, run a⟩
  | none => nopOp t 3

/-- The XFER operation of a bundle (R78). -/
def xferOp (t v : Nat) : SlotOp :=
  match bitsOf v 0 5 with
  | 0x01 => ⟨.lpass t (bitOf v 5) (fieldOf 10 v 6) (fieldOf 16 v 16),
      opLpass t (bitOf v 5) (fieldOf 10 v 6) (fieldOf 16 v 16)⟩
  | 0x02 => ⟨.spass t (fieldOf 6 v 5) (fieldOf 8 v 11) (fieldOf 6 v 19) (fieldOf 8 v 25) (fieldOf 3 v 33),
      opSpass t (fieldOf 6 v 5) (fieldOf 8 v 11) (fieldOf 6 v 19) (fieldOf 8 v 25) (fieldOf 3 v 33)⟩
  | 0x03 => ⟨.fill t (fieldOf 6 v 5) (fieldOf 12 v 11) (fieldOf 8 v 23) (fieldOf 8 v 31),
      opFill t (fieldOf 6 v 5) (fieldOf 12 v 11) (fieldOf 8 v 23) (fieldOf 8 v 31)⟩
  | 0x04 => ⟨.copy t (fieldOf 6 v 5) (fieldOf 8 v 11) (fieldOf 6 v 19) (fieldOf 8 v 25) (fieldOf 7 v 33),
      opCopy t (fieldOf 6 v 5) (fieldOf 8 v 11) (fieldOf 6 v 19) (fieldOf 8 v 25) (fieldOf 7 v 33)⟩
  | 0x05 => ⟨.dload t (fieldOf 6 v 5) (fieldOf 12 v 11) (fieldOf 6 v 23) (fieldOf 8 v 29) (fieldOf 3 v 37),
      opDload t (fieldOf 6 v 5) (fieldOf 12 v 11) (fieldOf 6 v 23) (fieldOf 8 v 29) (fieldOf 3 v 37)⟩
  | 0x06 => ⟨.dstore t (fieldOf 6 v 5) (fieldOf 12 v 11) (fieldOf 6 v 23) (fieldOf 8 v 29) (fieldOf 3 v 37),
      opDstore t (fieldOf 6 v 5) (fieldOf 12 v 11) (fieldOf 6 v 23) (fieldOf 8 v 29) (fieldOf 3 v 37)⟩
  | _ => nopOp t 4

/-- The CHN operation of a bundle (R79). -/
def chnOp (t v : Nat) : SlotOp :=
  match bitsOf v 0 5 with
  | 0x01 => ⟨.sinc t (fieldOf 16 v 5) (fieldOf 3 v 21), opSinc t (fieldOf 16 v 5) (fieldOf 3 v 21)⟩
  | 0x02 => ⟨.swait t (fieldOf 16 v 5) (bitOf v 21), opSwait t (fieldOf 16 v 5) (bitOf v 21)⟩
  | 0x03 => ⟨.csend t (fieldOf 4 v 5) (fieldOf 6 v 9) (fieldOf 9 v 15),
      opCsend t (fieldOf 4 v 5) (fieldOf 6 v 9) (fieldOf 9 v 15)⟩
  | 0x04 => ⟨.crecv t (fieldOf 4 v 5) (fieldOf 6 v 9) (fieldOf 9 v 15),
      opCrecv t (fieldOf 4 v 5) (fieldOf 6 v 9) (fieldOf 9 v 15)⟩
  | 0x05 => ⟨.qopen t (fieldOf 4 v 5), opQopen t (fieldOf 4 v 5)⟩
  | 0x06 => ⟨.qclose t (fieldOf 4 v 5), opQclose t (fieldOf 4 v 5)⟩
  | _ => nopOp t 5

/-- The six operations of a bundle word, by slot (R55). -/
def bundleOps (t w : Nat) : List SlotOp :=
  [seqOp t (bitsOf w 0 32), meOp t (bitsOf w 32 48), veOp t (bitsOf w 80 48), aidOp t (bitsOf w 128 64),
    xferOp t (bitsOf w 192 40), chnOp t (bitsOf w 232 24)]

/-- The slot that a bit of a bundle lies in (R55). -/
def slotAt (bit : Nat) : Nat :=
  if bit < 32 then 0 else if bit < 80 then 1 else if bit < 128 then 2 else if bit < 192 then 3 else if bit < 232 then 4 else 5

/-- The lowest slot of a bundle with a reserved encoding or a reserved bit set (R57, R58). -/
def reservedSlot (w : Nat) : Option Nat :=
  match (bundleFaults w).filter (·.2) with
  | [] => none
  | p :: r => some (slotAt (minOr p.1 (r.map (·.1))))

/-! ### The issue of a bundle -/

/-- What a slot operation would do on this tick: it can issue, it is held for a condition, or it is a program error. -/
inductive Verdict where
  | clear
  | held (kind slot : Nat) (stall : Bool)
  | error

/-- Whether a verdict is that of a program error. -/
def Verdict.isError : Verdict → Bool
  | .error => true
  | _ => false

/-- The verdict on one operation of the bundle at the tile's pc: what it does with no hold under way and none fatal. -/
def verdict (s : State) (t : Nat) (o : SlotOp) : Verdict :=
  match o.run (modTile (wrs s [(TIL_MODE_slip_fatal t, 0)]) t fun x => { x with hold := none }) with
  | .next u =>
    if seqState u t = 5 then .error
    else if seqState u t = 3 then
      match (tileOf u t).hold with
      | some h => .held h.kind h.slot (decide (0 < rd u (CH_WDOG_stalled t)))
      | none => .clear
    else .clear
  | _ => .clear

/-- The hold of a bundle: the lowest kind over its operations, the lowest slot that meets it, and whether it counts as
stalled (R224, R236). -/
def holdOf (l : List Verdict) : Option (Nat × Nat × Bool) :=
  l.foldl (fun h v =>
    match v, h with
    | .held k n b, none => some (k, n, b)
    | .held k n b, some (k', n', b') => if k < k' then some (k, n, b || b') else some (k', n', b || b')
    | _, h => h) none

/-- The issue of slot operation `o` of tile `t` (R56 to R58, R235, R236, R239). The first operation of a bundle that the tile's
instruction memory holds is judged with all six: while one is held the whole bundle is held for a tick; where one is a program
error none issues and the lowest slot's is raised; else every operation of the bundle issues on this tick. An operation that
the bundle at the pc does not name stands for a bundle of its own. DESIGN CHOICE (log 6). -/
def issueBundle (t : Nat) (o : SlotOp) (s : State) : Host.Outcome State Fault Refusal :=
  if !issuing s t || bubbled s t || pcOut s t || isCleared s t then o.run s
  else
    let w := bundleWord s t
    match reservedSlot w with
    | some slot => .next (progErr s t errReserved slot)
    | none =>
      if w < 2 ^ 32 || !(bundleOps t w).any (·.cmd == o.cmd) then o.run s
      else
        let ops := (bundleOps t w).map fun p => (p, verdict s t p)
        match holdOf (ops.map (·.2)) with
        | some (kind, slot, stall) => .next (holdTick s t kind slot stall)
        | none =>
          match ops.find? (·.2.isError) with
          | some p => p.1.run s
          | none => o.run { s with cleared := Store.set s.cleared t (pcOf s t, tickOf s t) }

/-! ### The slot operations, each issued with the bundle it belongs to -/

def execNop (t slot : Nat) (s : State) : Host.Outcome State Fault Refusal := issueBundle t ⟨.nop t slot, opNop t slot⟩ s
def execSetlim (t : Nat) (c : BitVec 3) (limit : BitVec 20) (s : State) : Host.Outcome State Fault Refusal :=
  issueBundle t ⟨.setlim t c limit, opSetlim t c limit⟩ s
def execLoop (t : Nat) (c : BitVec 3) (endPc : BitVec 14) (s : State) : Host.Outcome State Fault Refusal :=
  issueBundle t ⟨.loop t c endPc, opLoop t c endPc⟩ s
def execJump (t : Nat) (target : BitVec 14) (s : State) : Host.Outcome State Fault Refusal :=
  issueBundle t ⟨.jump t target, opJump t target⟩ s
def execBrc (t : Nat) (k : BitVec 2) (sense : Bool) (target : BitVec 14) (s : State) : Host.Outcome State Fault Refusal :=
  issueBundle t ⟨.brc t k sense target, opBrc t k sense target⟩ s
def execSetcmp (t : Nat) (k : BitVec 2) (c : BitVec 3) (cond : BitVec 2) (imm : BitVec 16) (s : State) :
    Host.Outcome State Fault Refusal := issueBundle t ⟨.setcmp t k c cond imm, opSetcmp t k c cond imm⟩ s
def execWaitbell (t : Nat) (mark : BitVec 4) (s : State) : Host.Outcome State Fault Refusal :=
  issueBundle t ⟨.waitbell t mark, opWaitbell t mark⟩ s
def execWaittick (t : Nat) (tick : BitVec 26) (s : State) : Host.Outcome State Fault Refusal :=
  issueBundle t ⟨.waittick t tick, opWaittick t tick⟩ s
def execHint (t : Nat) (level : BitVec 4) (lead : BitVec 6) (length : BitVec 10) (s : State) :
    Host.Outcome State Fault Refusal := issueBundle t ⟨.hint t level lead length, opHint t level lead length⟩ s
def execRefr (t : Nat) (rowGroup : BitVec 12) (s : State) : Host.Outcome State Fault Refusal :=
  issueBundle t ⟨.refr t rowGroup, opRefr t rowGroup⟩ s
def execFence (t : Nat) (slots : BitVec 5) (lp : Bool) (s : State) : Host.Outcome State Fault Refusal :=
  issueBundle t ⟨.fence t slots lp, opFence t slots lp⟩ s
def execDigest (t : Nat) (layer : BitVec 16) (s : State) : Host.Outcome State Fault Refusal :=
  issueBundle t ⟨.digest t layer, opDigest t layer⟩ s
def execTrap (t : Nat) (code : BitVec 8) (s : State) : Host.Outcome State Fault Refusal :=
  issueBundle t ⟨.trap t code, opTrap t code⟩ s
def execHalt (t : Nat) (code : BitVec 8) (s : State) : Host.Outcome State Fault Refusal :=
  issueBundle t ⟨.halt t code, opHalt t code⟩ s
def execMma (o : MeOp) (s : State) : Host.Outcome State Fault Refusal := issueBundle o.t ⟨.mma o, opMma o⟩ s
def execWload (o : MeOp) (s : State) : Host.Outcome State Fault Refusal := issueBundle o.t ⟨.wload o, opWload o⟩ s
def execEmit (o : MeOp) (s : State) : Host.Outcome State Fault Refusal := issueBundle o.t ⟨.emit o, opEmit o⟩ s
def execAzero (o : MeOp) (s : State) : Host.Outcome State Fault Refusal := issueBundle o.t ⟨.azero o, opAzero o⟩ s
def execAnchor (o : MeOp) (s : State) : Host.Outcome State Fault Refusal := issueBundle o.t ⟨.anchor o, opAnchor o⟩ s
def execVchain (t : Nat) (chain : BitVec 8) (src : BitVec 2) (sdesc : BitVec 6) (soff : BitVec 10) (ddesc : BitVec 6) (doff : BitVec 10)
    (s : State) : Host.Outcome State Fault Refusal :=
  issueBundle t ⟨.vchain t chain src sdesc soff ddesc doff, opVchain t chain src sdesc soff ddesc doff⟩ s
def execVpop (t : Nat) (s : State) : Host.Outcome State Fault Refusal := issueBundle t ⟨.vpop t, opVpop t⟩ s
def execVldk (t : Nat) (k : BitVec 4) (sdesc : BitVec 6) (soff : BitVec 10) (s : State) : Host.Outcome State Fault Refusal :=
  issueBundle t ⟨.vldk t k sdesc soff, opVldk t k sdesc soff⟩ s
def execAdd (a : AidOp) (s : State) : Host.Outcome State Fault Refusal := issueBundle a.t ⟨.add a, opAdd a⟩ s
def execSub (a : AidOp) (s : State) : Host.Outcome State Fault Refusal := issueBundle a.t ⟨.sub a, opSub a⟩ s
def execAnd (a : AidOp) (s : State) : Host.Outcome State Fault Refusal := issueBundle a.t ⟨.and a, opAnd a⟩ s
def execOr (a : AidOp) (s : State) : Host.Outcome State Fault Refusal := issueBundle a.t ⟨.or a, opOr a⟩ s
def execXor (a : AidOp) (s : State) : Host.Outcome State Fault Refusal := issueBundle a.t ⟨.xor a, opXor a⟩ s
def execAddi (a : AidOp) (s : State) : Host.Outcome State Fault Refusal := issueBundle a.t ⟨.addi a, opAddi a⟩ s
def execAndi (a : AidOp) (s : State) : Host.Outcome State Fault Refusal := issueBundle a.t ⟨.andi a, opAndi a⟩ s
def execOri (a : AidOp) (s : State) : Host.Outcome State Fault Refusal := issueBundle a.t ⟨.ori a, opOri a⟩ s
def execXori (a : AidOp) (s : State) : Host.Outcome State Fault Refusal := issueBundle a.t ⟨.xori a, opXori a⟩ s
def execLih (a : AidOp) (s : State) : Host.Outcome State Fault Refusal := issueBundle a.t ⟨.lih a, opLih a⟩ s
def execMin (a : AidOp) (s : State) : Host.Outcome State Fault Refusal := issueBundle a.t ⟨.min a, opMin a⟩ s
def execMax (a : AidOp) (s : State) : Host.Outcome State Fault Refusal := issueBundle a.t ⟨.max a, opMax a⟩ s
def execMinu (a : AidOp) (s : State) : Host.Outcome State Fault Refusal := issueBundle a.t ⟨.minu a, opMinu a⟩ s
def execMaxu (a : AidOp) (s : State) : Host.Outcome State Fault Refusal := issueBundle a.t ⟨.maxu a, opMaxu a⟩ s
def execAidx (a : AidOp) (s : State) : Host.Outcome State Fault Refusal := issueBundle a.t ⟨.aidx a, opAidx a⟩ s
def execMul (a : AidOp) (s : State) : Host.Outcome State Fault Refusal := issueBundle a.t ⟨.mul a, opMul a⟩ s
def execMulhu (a : AidOp) (s : State) : Host.Outcome State Fault Refusal := issueBundle a.t ⟨.mulhu a, opMulhu a⟩ s
def execMulhs (a : AidOp) (s : State) : Host.Outcome State Fault Refusal := issueBundle a.t ⟨.mulhs a, opMulhs a⟩ s
def execClmul (a : AidOp) (s : State) : Host.Outcome State Fault Refusal := issueBundle a.t ⟨.clmul a, opClmul a⟩ s
def execMuli (a : AidOp) (s : State) : Host.Outcome State Fault Refusal := issueBundle a.t ⟨.muli a, opMuli a⟩ s
def execSll (a : AidOp) (s : State) : Host.Outcome State Fault Refusal := issueBundle a.t ⟨.sll a, opSll a⟩ s
def execSrl (a : AidOp) (s : State) : Host.Outcome State Fault Refusal := issueBundle a.t ⟨.srl a, opSrl a⟩ s
def execSra (a : AidOp) (s : State) : Host.Outcome State Fault Refusal := issueBundle a.t ⟨.sra a, opSra a⟩ s
def execRotr (a : AidOp) (s : State) : Host.Outcome State Fault Refusal := issueBundle a.t ⟨.rotr a, opRotr a⟩ s
def execSel (a : AidOp) (s : State) : Host.Outcome State Fault Refusal := issueBundle a.t ⟨.sel a, opSel a⟩ s
def execSlt (a : AidOp) (s : State) : Host.Outcome State Fault Refusal := issueBundle a.t ⟨.slt a, opSlt a⟩ s
def execSltu (a : AidOp) (s : State) : Host.Outcome State Fault Refusal := issueBundle a.t ⟨.sltu a, opSltu a⟩ s
def execExt (a : AidOp) (s : State) : Host.Outcome State Fault Refusal := issueBundle a.t ⟨.ext a, opExt a⟩ s
def execLd8 (a : AidOp) (s : State) : Host.Outcome State Fault Refusal := issueBundle a.t ⟨.ld8 a, opLd8 a⟩ s
def execLd16 (a : AidOp) (s : State) : Host.Outcome State Fault Refusal := issueBundle a.t ⟨.ld16 a, opLd16 a⟩ s
def execLd32 (a : AidOp) (s : State) : Host.Outcome State Fault Refusal := issueBundle a.t ⟨.ld32 a, opLd32 a⟩ s
def execLd64 (a : AidOp) (s : State) : Host.Outcome State Fault Refusal := issueBundle a.t ⟨.ld64 a, opLd64 a⟩ s
def execLd8s (a : AidOp) (s : State) : Host.Outcome State Fault Refusal := issueBundle a.t ⟨.ld8s a, opLd8s a⟩ s
def execLd16s (a : AidOp) (s : State) : Host.Outcome State Fault Refusal := issueBundle a.t ⟨.ld16s a, opLd16s a⟩ s
def execLd32s (a : AidOp) (s : State) : Host.Outcome State Fault Refusal := issueBundle a.t ⟨.ld32s a, opLd32s a⟩ s
def execSt8 (a : AidOp) (s : State) : Host.Outcome State Fault Refusal := issueBundle a.t ⟨.st8 a, opSt8 a⟩ s
def execSt16 (a : AidOp) (s : State) : Host.Outcome State Fault Refusal := issueBundle a.t ⟨.st16 a, opSt16 a⟩ s
def execSt32 (a : AidOp) (s : State) : Host.Outcome State Fault Refusal := issueBundle a.t ⟨.st32 a, opSt32 a⟩ s
def execSt64 (a : AidOp) (s : State) : Host.Outcome State Fault Refusal := issueBundle a.t ⟨.st64 a, opSt64 a⟩ s
def execGld32 (a : AidOp) (s : State) : Host.Outcome State Fault Refusal := issueBundle a.t ⟨.gld32 a, opGld32 a⟩ s
def execGld64 (a : AidOp) (s : State) : Host.Outcome State Fault Refusal := issueBundle a.t ⟨.gld64 a, opGld64 a⟩ s
def execGst32 (a : AidOp) (s : State) : Host.Outcome State Fault Refusal := issueBundle a.t ⟨.gst32 a, opGst32 a⟩ s
def execGst64 (a : AidOp) (s : State) : Host.Outcome State Fault Refusal := issueBundle a.t ⟨.gst64 a, opGst64 a⟩ s
def execLkfetch (a : AidOp) (s : State) : Host.Outcome State Fault Refusal := issueBundle a.t ⟨.lkfetch a, opLkfetch a⟩ s
def execLkstore (a : AidOp) (s : State) : Host.Outcome State Fault Refusal := issueBundle a.t ⟨.lkstore a, opLkstore a⟩ s
def execLkappend (a : AidOp) (s : State) : Host.Outcome State Fault Refusal := issueBundle a.t ⟨.lkappend a, opLkappend a⟩ s
def execDecf (a : AidOp) (s : State) : Host.Outcome State Fault Refusal := issueBundle a.t ⟨.decf a, opDecf a⟩ s
def execDeca (a : AidOp) (s : State) : Host.Outcome State Fault Refusal := issueBundle a.t ⟨.deca a, opDeca a⟩ s
def execHash (a : AidOp) (s : State) : Host.Outcome State Fault Refusal := issueBundle a.t ⟨.hash a, opHash a⟩ s
def execPeq (a : AidOp) (s : State) : Host.Outcome State Fault Refusal := issueBundle a.t ⟨.peq a, opPeq a⟩ s
def execPne (a : AidOp) (s : State) : Host.Outcome State Fault Refusal := issueBundle a.t ⟨.pne a, opPne a⟩ s
def execPlt (a : AidOp) (s : State) : Host.Outcome State Fault Refusal := issueBundle a.t ⟨.plt a, opPlt a⟩ s
def execPltu (a : AidOp) (s : State) : Host.Outcome State Fault Refusal := issueBundle a.t ⟨.pltu a, opPltu a⟩ s
def execPge (a : AidOp) (s : State) : Host.Outcome State Fault Refusal := issueBundle a.t ⟨.pge a, opPge a⟩ s
def execPgeu (a : AidOp) (s : State) : Host.Outcome State Fault Refusal := issueBundle a.t ⟨.pgeu a, opPgeu a⟩ s
def execPeqi (a : AidOp) (s : State) : Host.Outcome State Fault Refusal := issueBundle a.t ⟨.peqi a, opPeqi a⟩ s
def execPlti (a : AidOp) (s : State) : Host.Outcome State Fault Refusal := issueBundle a.t ⟨.plti a, opPlti a⟩ s
def execPand (a : AidOp) (s : State) : Host.Outcome State Fault Refusal := issueBundle a.t ⟨.pand a, opPand a⟩ s
def execPor (a : AidOp) (s : State) : Host.Outcome State Fault Refusal := issueBundle a.t ⟨.por a, opPor a⟩ s
def execPxor (a : AidOp) (s : State) : Host.Outcome State Fault Refusal := issueBundle a.t ⟨.pxor a, opPxor a⟩ s
def execPany (a : AidOp) (s : State) : Host.Outcome State Fault Refusal := issueBundle a.t ⟨.pany a, opPany a⟩ s
def execPall (a : AidOp) (s : State) : Host.Outcome State Fault Refusal := issueBundle a.t ⟨.pall a, opPall a⟩ s
def execRoute (a : AidOp) (s : State) : Host.Outcome State Fault Refusal := issueBundle a.t ⟨.route a, opRoute a⟩ s
def execLpass (t : Nat) (eng : Bool) (tmpl : BitVec 10) (ctr : BitVec 16) (s : State) : Host.Outcome State Fault Refusal :=
  issueBundle t ⟨.lpass t eng tmpl ctr, opLpass t eng tmpl ctr⟩ s
def execSpass (t : Nat) (sdesc : BitVec 6) (soff : BitVec 8) (ddesc : BitVec 6) (doff : BitVec 8) (len : BitVec 3)
    (s : State) : Host.Outcome State Fault Refusal :=
  issueBundle t ⟨.spass t sdesc soff ddesc doff len, opSpass t sdesc soff ddesc doff len⟩ s
def execFill (t : Nat) (ddesc : BitVec 6) (doff : BitVec 12) (lines : BitVec 8) (byte : Byte) (s : State) :
    Host.Outcome State Fault Refusal := issueBundle t ⟨.fill t ddesc doff lines byte, opFill t ddesc doff lines byte⟩ s
def execCopy (t : Nat) (sdesc : BitVec 6) (soff : BitVec 8) (ddesc : BitVec 6) (doff : BitVec 8) (lines : BitVec 7)
    (s : State) : Host.Outcome State Fault Refusal :=
  issueBundle t ⟨.copy t sdesc soff ddesc doff lines, opCopy t sdesc soff ddesc doff lines⟩ s
def execDload (t : Nat) (mdesc : BitVec 6) (moff : BitVec 12) (sdesc : BitVec 6) (soff : BitVec 8) (lines : BitVec 3)
    (s : State) : Host.Outcome State Fault Refusal :=
  issueBundle t ⟨.dload t mdesc moff sdesc soff lines, opDload t mdesc moff sdesc soff lines⟩ s
def execDstore (t : Nat) (mdesc : BitVec 6) (moff : BitVec 12) (sdesc : BitVec 6) (soff : BitVec 8) (lines : BitVec 3)
    (s : State) : Host.Outcome State Fault Refusal :=
  issueBundle t ⟨.dstore t mdesc moff sdesc soff lines, opDstore t mdesc moff sdesc soff lines⟩ s
def execSinc (t : Nat) (ctr : BitVec 16) (amt : BitVec 3) (s : State) : Host.Outcome State Fault Refusal :=
  issueBundle t ⟨.sinc t ctr amt, opSinc t ctr amt⟩ s
def execSwait (t : Nat) (ctr : BitVec 16) (consume : Bool) (s : State) : Host.Outcome State Fault Refusal :=
  issueBundle t ⟨.swait t ctr consume, opSwait t ctr consume⟩ s
def execCsend (t : Nat) (ep : BitVec 4) (sdesc : BitVec 6) (soff : BitVec 9) (s : State) : Host.Outcome State Fault Refusal :=
  issueBundle t ⟨.csend t ep sdesc soff, opCsend t ep sdesc soff⟩ s
def execCrecv (t : Nat) (q : BitVec 4) (ddesc : BitVec 6) (doff : BitVec 9) (s : State) : Host.Outcome State Fault Refusal :=
  issueBundle t ⟨.crecv t q ddesc doff, opCrecv t q ddesc doff⟩ s
def execQopen (t : Nat) (q : BitVec 4) (s : State) : Host.Outcome State Fault Refusal :=
  issueBundle t ⟨.qopen t q, opQopen t q⟩ s
def execQclose (t : Nat) (q : BitVec 4) (s : State) : Host.Outcome State Fault Refusal :=
  issueBundle t ⟨.qclose t q, opQclose t q⟩ s

end Sys2Proof.Machine
end

