-- ==== Sys2Proof/Machine/Flags.lean ====
section
/-! DEFINITION. The interrupt tree: leaves, groups, the summary of each function, the IRQ_N pin and the MSI-X message
(17_host_interface_and_interrupts.md, R430 to R432). -/

namespace Sys2Proof.Machine

/-- The leaf registers of a group with their masks, group register bit 0 first (R430); group 3 is the tiles. -/
def leavesOf (g : Nat) : List (Fld × Fld) :=
  if g = 0 then [(HQ_CAUSE_cause, HQ_CAUSE_MASK_mask)]
  else if g = 1 then [(CTL_DISP_CAUSE_cause, CTL_DISP_CAUSE_MASK_mask)]
  else if g = 2 then [(TIM_CAUSE_cause, TIM_CAUSE_MASK_mask)]
  else if g = 4 then [(LPD_CAUSE_cause, LPD_CAUSE_MASK_mask)]
  else if g = 5 then [(NET_CAUSE_cause, NET_CAUSE_MASK_mask), (NET_SPU_CAUSE_cause, NET_SPU_CAUSE_MASK_mask)]
  else if g = 6 then [(GRD_CAUSE_cause, GRD_CAUSE_MASK_mask)]
  else if g = 7 then [(PWR_CAUSE_cause, PWR_CAUSE_MASK_mask)]
  else if g = 8 then [(SEC_CAUSE_cause, SEC_CAUSE_MASK_mask)]
  else if g = 9 then [(REL_CAUSE_cause, REL_CAUSE_MASK_mask)]
  else if g = 10 then [(DBL_CAUSE_cause, DBL_CAUSE_MASK_mask)]
  else if g = 11 then [(HST_CAUSE_cause, HST_CAUSE_MASK_mask)]
  else if g = 12 then [(AUD_CAUSE_cause, AUD_CAUSE_MASK_mask)]
  else []

/-- Whether a leaf passes a cause. -/
def leafOn (s : State) (p : Fld × Fld) : Bool := rd s p.1 &&& rd s p.2 != 0

/-- CTL_IRQ_GRP of group `g` (R430). -/
def groupBits (s : State) (g : Nat) : Nat :=
  sumL ((leavesOf g).zipIdx.map fun p => if leafOn s p.1 then 2 ^ p.2 else 0)

/-- CTL_IRQ_TILES0 and CTL_IRQ_TILES1 as one number (R430). -/
def tileBits (s : State) : Nat :=
  sumL ((List.range s.part.tiles).map fun t => if leafOn s (TIL_CAUSE_cause t, TIL_CAUSE_MASK_mask t) then 2 ^ t else 0)

/-- Whether group `g` passes to the summary (R430). -/
def groupOn (s : State) (g : Nat) : Bool :=
  if g = 3 then tileBits s &&& (rd s CTL_IRQ_TILES_MASK0_mask + 2 ^ 64 * rd s CTL_IRQ_TILES_MASK1_mask) != 0
  else groupBits s g &&& rd s (CTL_IRQ_GRP_MASK_mask g) != 0

/-- CTL_IRQ_SUMMARY of the physical function (R430). -/
def irqSummary (s : State) : Nat := sumL ((List.range 13).map fun g => if groupOn s g then 2 ^ g else 0)

/-- The enabled submission queues that complete into CQ `c`. -/
def sqsOf (s : State) (c : Nat) : List Nat :=
  (List.range 16).filter fun q => on s (HQ_SQ_CFG_en q) && rd s (HQ_SQ_CFG_cq q) == c

/-- Whether CQ `c` belongs to partition `q`: every enabled SQ that completes into it serves `q`; a CQ that none completes
into belongs to none (R430). DEDUCED (log 22). -/
def cqBelongs (s : State) (c q : Nat) : Bool :=
  !(sqsOf s c).isEmpty && (sqsOf s c).all fun k => rd s (HQ_SQ_CFG_partition k) == q

/-- The bits of HQ_CAUSE that belong to partition `q` (R424, R430). -/
def cqBits (s : State) (q : Nat) : Nat :=
  sumL ((List.range 16).map fun c => if cqBelongs s c q then 2 ^ c + 2 ^ (16 + c) else 0)

/-- The masked summary of a function (R430). -/
def maskedSummary (s : State) (fn : Nat) : Nat :=
  if fn = 0 then irqSummary s &&& rd s CTL_IRQ_MASK_mask
  else b2n (rd s HQ_CAUSE_cause &&& rd s HQ_CAUSE_MASK_mask &&& cqBits s (fn - 1) != 0)

/-- Whether IRQ_N is asserted (R431). DESIGN CHOICE (log 9). -/
def irqPin (s : State) : Bool := on s CTL_IRQ_CTL_pin_en && maskedSummary s 0 != 0

/-- The arm bit of a function. -/
def armed (s : State) (fn : Nat) : Bool := if fn = 0 then on s CTL_IRQ_CTL_armed else (fnOf s fn).armed

/-- The arm bit of a function set or cleared. -/
def setArmed (s : State) (fn : Nat) (b : Bool) : State :=
  if fn = 0 then wr s CTL_IRQ_CTL_armed (b2n b) else modFn s fn fun f => { f with armed := b }

/-- Whether the holdoff since a function's last message has passed (R432). -/
def holdoffOver (s : State) (fn : Nat) : Bool :=
  match (fnOf s fn).lastMsg with
  | some t => decide (t + 1000 * rd s CTL_IRQ_CTL_holdoff_us ≤ s.now)
  | none => true

/-- The conditions of R432 evaluated for a function: its message is sent and the arm bit cleared; where only a mask or
D3hot stands in the way the PBA bit is set; the PBA bit clears when the summary has fallen to zero (R421, R432).
DEDUCED (log 36); DESIGN CHOICE (log 45). -/
def irqEval (s : State) (fn : Nat) (atRearm : Bool) : State :=
  let f := fnOf s fn
  if !f.enabled then s
  else if maskedSummary s fn = 0 then modFn s fn fun f => { f with pba := false }
  else if !armed s fn || !holdoffOver s fn then s
  else if f.fnMask || f.vecMask || f.d3 then modFn s fn fun f => { f with pba := true }
  else
    let s := setArmed (emitOut s (.msix fn 0)) fn false
    let s := modFn s fn fun f => { f with pba := false, lastMsg := some s.now }
    if fn = 0 then
      let s := bump s CTL_IRQ_STATS_messages 1
      if atRearm then bump s CTL_IRQ_STATS_rearm_sends 1 else s
    else s

/-- IRQ_REARM: a write of CTL_IRQ_CTL through the physical function: the pin enable and the holdoff are set, and rearm sets
the arm bit (R432). -/
def execIrqRearm (fn : Nat) (v : Word64) (s : State) : Host.Outcome State Fault Refusal :=
  .next <|
    if !fnPhys s fn then s
    else
      let s := wrs s [(CTL_IRQ_CTL_pin_en, v.toNat), (CTL_IRQ_CTL_holdoff_us, v.toNat / 2 ^ 8)]
      if bitOf v.toNat 1 then irqEval (setArmed s 0 true) 0 true else s

/-- VF_REARM: a write of HST_IRQ_DB sets the arm bit of the function that writes it (R425, R432). -/
def execVfRearm (fn : Nat) (s : State) : Host.Outcome State Fault Refusal :=
  .next (if fnUp s fn ∧ fn ≠ 0 then irqEval (setArmed s fn true) fn true else s)

/-- MSIX_SEND: the last of R432's conditions has come true. DESIGN CHOICE (log 45). -/
def execMsixSend (fn : Nat) (s : State) : Host.Outcome State Fault Refusal := .next (irqEval s fn false)

/-- MSIX_CONFIG_WRITE: MSI-X enabled or disabled, or a mask changed; the conditions are evaluated at once (R432). -/
def execMsixConfigWrite (fn : Nat) (c : MsixCfg) (s : State) : Host.Outcome State Fault Refusal :=
  let s := modFn s fn fun f => match c with
    | .enable b => { f with enabled := b, pba := if b then f.pba else false }
    | .fnMask b => { f with fnMask := b }
    | .vecMask b => { f with vecMask := b }
  .next (irqEval s fn false)

/-- POWER_STATE_CHANGE: a function enters D3hot or returns to D0, which resets nothing; a message held goes out (R421). -/
def execPowerStateChange (fn : Nat) (d3 : Bool) (s : State) : Host.Outcome State Fault Refusal :=
  .next (irqEval (modFn s fn fun f => { f with d3 := d3 }) fn false)

end Sys2Proof.Machine
end

