-- ==== Sys2Proof/Machine/Queues.lean ====
section
/-! DEFINITION. The host queues: doorbells, the fetch of descriptors, their order of start, completion entries and held
space (10_jobs_graphs_and_timetable.md, R251 to R254, R261, R274, R275; 17, R420, R425, R426). -/

namespace Sys2Proof.Machine

/-! ### Completion statuses (R261) -/

def stOk : Nat := 0x00
def stMapsPending : Nat := 0x10
def stJobIdInUse : Nat := 0x11
def stNoJob : Nat := 0x12
def stNoCounters : Nat := 0x13
def stNoPlace : Nat := 0x14
def stJobBusy : Nat := 0x15
def stJobBound : Nat := 0x16
def stTimeUnset : Nat := 0x17
def stBellPast : Nat := 0x18
def stPeriodShort : Nat := 0x19
def stContract : Nat := 0x1A
def stSealedPending : Nat := 0x1B
def stDescriptor : Nat := 0x1C
def stPartition : Nat := 0x1D
def stProgramError : Nat := 0x20
def stFault : Nat := 0x21
def stAborted : Nat := 0x22
def stKeyFormat : Nat := 0x30
def stKeyBinding : Nat := 0x31
def stKeyUnwrap : Nat := 0x32
def stKeyEmpty : Nat := 0x33
def stSealRegion : Nat := 0x34
def stSealFormat : Nat := 0x35
def stSealTag : Nat := 0x36
def stSealDigest : Nat := 0x37

/-! ### A descriptor's fields (R254) -/

def Desc.type (d : Desc) : Nat := fieldLE d.bytes 0 1
def Desc.barrier (d : Desc) : Bool := bitOf (fieldLE d.bytes 1 1) 0
def Desc.irq (d : Desc) : Bool := bitOf (fieldLE d.bytes 1 1) 1
def Desc.job (d : Desc) : Nat := fieldLE d.bytes 2 2

/-- A BIND_PERIOD that binds (R253). -/
def Desc.binds (d : Desc) : Bool := d.type == 4 && !bitOf (fieldLE d.bytes 0x13 1) 1

/-- The held space a descriptor reserves when it starts (R253). -/
def Desc.need (d : Desc) : Nat := if d.binds then 2 else 1

/-- The held space a descriptor has reserved now. -/
def Desc.holds (d : Desc) : Nat := if !d.started then 0 else if d.binds && !d.settled then 2 else 1

/-- Whether a field of `n` bytes at `off` is not zero. -/
def nonZero (b : Bytes) (off n : Nat) : Bool := fieldLE b off n != 0

/-- The fields of a body that its type's table restricts, with whether each breaks its rule, by offset (R255 to R259,
R326, R345, R361, R362, R404). -/
def bodyChecks (b : Bytes) (ty : Nat) : List (Nat × Bool) :=
  let f := fieldLE b
  if ty = 1 then
    [(0x10, f 0x10 8 % 64 != 0), (0x18, decide (f 0x18 8 < 256)), (0x20, decide (4096 ≤ f 0x20 2)), (0x22, nonZero b 0x22 6),
      (0x28, f 0x28 8 % 64 != 0), (0x30, nonZero b 0x30 16)]
  else if ty = 2 then
    [(0x10, f 0x10 8 % 64 != 0), (0x22, decide (7 < f 0x22 1)), (0x23, decide (1 < f 0x23 1)), (0x24, nonZero b 0x24 4),
      (0x28, if f 0x23 1 = 1 then f 0x28 8 % 64 != 0 else nonZero b 0x28 8), (0x30, nonZero b 0x30 16)]
  else if ty = 3 then
    [(0x12, decide (3 < f 0x12 1)), (0x13, decide (1 < f 0x13 1)), (0x14, nonZero b 0x14 4), (0x30, nonZero b 0x30 16)]
  else if ty = 4 then
    if bitOf (f 0x13 1) 1 then
      [(0x10, nonZero b 0x10 2), (0x12, nonZero b 0x12 1), (0x13, f 0x13 1 != 2), (0x14, nonZero b 0x14 4),
        (0x18, nonZero b 0x18 8), (0x20, nonZero b 0x20 16), (0x30, nonZero b 0x30 8), (0x38, nonZero b 0x38 2),
        (0x3A, nonZero b 0x3A 2), (0x3C, nonZero b 0x3C 2), (0x3E, nonZero b 0x3E 2)]
    else
      [(0x12, nonZero b 0x12 1), (0x13, decide (1 < f 0x13 1)), (0x30, f 0x30 8 % 4096 != 0), (0x38, f 0x38 2 == 0),
        (0x3A, f 0x3A 2 != 0 && !((List.range 13).any fun k => f 0x3A 2 == 2 ^ k)), (0x3E, nonZero b 0x3E 2)]
  else if ty = 5 then
    [(0x11, f 0x11 1 == 0 || decide (8 < f 0x11 1)), (0x12, nonZero b 0x12 6),
      (0x18, !allZero (sliceB b (0x18 + 4 * f 0x11 1) (32 - 4 * f 0x11 1))), (0x38, nonZero b 0x38 8)]
  else if ty = 6 then
    [(0x10, decide (32 < f 0x10 1)), (0x11, nonZero b 0x11 7),
      (0x18, !allZero (sliceB b (0x18 + f 0x10 1) (32 - f 0x10 1))), (0x38, nonZero b 0x38 8)]
  else if ty = 7 then
    [(0x10, f 0x10 1 == 0 || decide (5 < f 0x10 1)), (0x11, decide (1 < f 0x11 1) || (f 0x11 1 == 1 && f 0x10 1 != 1)),
      (0x16, nonZero b 0x16 2), (0x18, f 0x11 1 == 0 && nonZero b 0x18 8), (0x20, f 0x11 1 == 0 && nonZero b 0x20 8),
      (0x28, nonZero b 0x28 24)]
  else if ty = 8 then
    [(0x10, f 0x10 1 == 0 || decide (2 < f 0x10 1)), (0x11, decide (1 < f 0x11 1)), (0x15, nonZero b 0x15 3),
      (0x18, f 0x10 1 == 2 && f 0x18 8 % 4096 != 0), (0x20, f 0x10 1 == 2 && f 0x20 8 % 4096 != 0), (0x28, nonZero b 0x28 24)]
  else if ty = 9 then [(0x10, nonZero b 0x10 48)]
  else [(0x10, decide (1 < f 0x10 1)), (0x11, nonZero b 0x11 47)]

/-- The byte offset of the first bad field of a descriptor (R254). -/
def badField (b : Bytes) : Option Nat :=
  let ty := fieldLE b 0 1
  let known := decide (1 ≤ ty) && decide (ty ≤ 10)
  let l := [(0, !known), (1, decide (3 < fieldLE b 1 1)), (2, fieldLE b 2 2 == 0), (4, nonZero b 4 4)]
    ++ (if known then bodyChecks b ty else [])
  (l.find? (·.2)).map (·.1)

/-! ### Rings -/

/-- The entries of a ring: 2^k, a value of k outside 4 to 16 being treated as 4 (R274). -/
def ringLen (k : Nat) : Nat := if 4 ≤ k ∧ k ≤ 16 then 2 ^ k else 16

def sqLen (s : State) (q : Nat) : Nat := ringLen (rd s (HQ_SQ_CFG_log2_entries q))
def cqLen (s : State) (c : Nat) : Nat := ringLen (rd s (HQ_CQ_CFG_log2_entries c))

/-- What a completion queue holds beside its registers. DESIGN CHOICE (log 50). -/
def cqOf (s : State) (c : Nat) : Cq := Store.getD s.cqs c ⟨true, []⟩

/-- Descriptors submitted and not yet fetched (R426). -/
def outstanding (s : State) (q : Nat) : Nat :=
  (rd s (HQ_SQ_DB_tail q) + sqLen s q - rd s (HQ_DEPTH_head q) % sqLen s q) % sqLen s q

/-- Entries of a completion queue that host software has not taken. -/
def cqUsed (s : State) (c : Nat) : Nat :=
  (rd s (HQ_CQ_STATUS_tail c) + cqLen s c - rd s (HQ_CQ_DB_head c) % cqLen s c) % cqLen s c

/-- Held space of a CQ reserved by running descriptors (R253). -/
def cqReserved (s : State) (c : Nat) : Nat := sumL ((s.descs.filter fun d => d.cq == c).map Desc.holds)

/-- Free held space of a CQ (R253). -/
def cqFree (s : State) (c : Nat) : Nat := 256 - ((cqOf s c).held.length + cqReserved s c)

/-- The function on whose behalf the module acts for a descriptor of an SQ: the virtual function of the partition the SQ serves (R407,
R419). DEDUCED (log 36). -/
def requester (s : State) (q : Nat) : Nat := rd s (HQ_SQ_CFG_partition q) + 1

/-- Entries in held space written to an enabled CQ while it has room; each takes the phase of the pass (R253). -/
def drainCq : Nat → State → Nat → State
  | 0, s, _ => s
  | k + 1, s, c =>
    let x := cqOf s c
    match x.held with
    | [] => s
    | (b, irq) :: r =>
      if !on s (HQ_CQ_CFG_en c) then s
      else if cqUsed s c + 1 < cqLen s c then
        let tail := rd s (HQ_CQ_STATUS_tail c)
        let next := (tail + 1) % cqLen s c
        let e := patchB b 0x1D (toLE 1 (fieldLE b 0x1D 1 + 128 * b2n x.phase))
        let s := emitOut s (.hostWrite (requester s (fieldLE b 0x1C 1)) (4096 * rd s (HQ_CQ_BASE_base c) + 32 * tail) e)
        let s := wr s (HQ_CQ_STATUS_tail c) next
        let s := { s with cqs := Store.set s.cqs c ⟨if next = 0 then !x.phase else x.phase, r⟩ }
        drainCq k (if irq then raise s HQ_CAUSE_cause c else s) c
      else raise s HQ_CAUSE_cause (16 + c)

/-- Every entry that can be written to a CQ written. -/
def drainCqAll (s : State) (c : Nat) : State := drainCq ((cqOf s c).held.length + 1) s c

/-- A completion entry (R253), its phase bit still 0. -/
def entryBytes (d : Desc) (todNow status detail retakes epoch : Nat) (final : Bool) : Bytes :=
  sliceB d.bytes 8 8 ++ toLE 8 detail ++ toLE 8 todNow ++ toLE 2 d.job ++ toLE 1 status ++ toLE 1 d.type ++ toLE 1 d.sq
    ++ toLE 1 (retakes % 4 + 4 * b2n final) ++ toLE 1 epoch ++ [0]

/-- An entry posted for a descriptor in its CQ, one of 16. DEDUCED (log 22). -/
def postEntry (s : State) (d : Desc) (status detail retakes epoch : Nat) (final : Bool) : State :=
  let c := d.cq % 16
  let x := cqOf s c
  let e := entryBytes d (tod s) status detail retakes epoch final
  drainCqAll { s with cqs := Store.set s.cqs c { x with held := x.held ++ [(e, final && d.irq)] } } c

/-- The descriptor of a submission number. -/
def descOf (s : State) (subm : Nat) : Option Desc := s.descs.find? fun d => d.subm == subm

/-- A descriptor completed: its reservation ends as its final entry is posted; an UNSEAL that ends with another status of R404
than OK raises UNSEAL_FAILED (R417). -/
def completeFull (s : State) (subm status detail retakes epoch : Nat) : State :=
  match descOf s subm with
  | none => s
  | some d =>
    let s := if d.type = 2 ∧ status ≠ stOk ∧ status ≠ stDescriptor then raise s SEC_CAUSE_cause 0 else s
    postEntry { s with descs := s.descs.filter fun x => x.subm != subm } d status detail retakes epoch true

/-- A descriptor that reports no run completed. -/
def complete (s : State) (subm status detail : Nat) : State := completeFull s subm status detail 0 0

/-! ### Start (R252) -/

/-- The types that wait for earlier ones of the same job (R252). -/
def ordersByJob (ty : Nat) : Bool := [1, 2, 4, 6, 10].contains ty

/-- The next descriptor of an SQ to start. -/
def nextDesc (s : State) (q : Nat) : Option Desc := s.descs.find? fun d => d.sq == q && !d.started

/-- Whether a partition's resources are being zero-filled (R409). -/
def partZeroing (s : State) (q : Nat) : Bool := s.zeroing.contains q

/-- Whether the next descriptor of an SQ may start now (R252, R253, R409). -/
def mayStart (s : State) (d : Desc) : Bool :=
  decide (d.need ≤ cqFree s d.cq)
    && (!d.barrier || s.descs.all fun e => e.sq != d.sq || decide (d.subm ≤ e.subm) || e.settled)
    && (!ordersByJob d.type || s.descs.all fun e =>
      decide (d.subm ≤ e.subm) || !ordersByJob e.type || e.job != d.job || e.settled)
    && !((d.type == 1 || d.type == 4) && partZeroing s d.part)

/-- The state with a descriptor started. -/
def startDesc (s : State) (subm : Nat) : State :=
  { s with descs := s.descs.map fun d => if d.subm = subm then { d with started := true } else d }

/-- The state with a descriptor counted as completed for R252. -/
def settleDesc (s : State) (subm : Nat) : State :=
  { s with descs := s.descs.map fun d => if d.subm = subm then { d with settled := true } else d }

/-- Whether a job is loaded in a partition other than `q`. -/
def otherPart (s : State) (j q : Nat) : Bool :=
  match Store.get? s.jobs j with
  | some x => x.part != q
  | none => false

/-- The status and detail that a descriptor ends with in its turn: what a check at its fetch found, or PARTITION for a job that
has come to another partition since (R252, R254). -/
def Desc.refusal (d : Desc) (s : State) : Option (Nat × Nat) :=
  d.bad.or (if otherPart s d.job d.part then some (stPartition, 0) else none)

/-- The next descriptor of an SQ, when it is of the type given and may start. -/
def ready (s : State) (q ty : Nat) : Option Desc :=
  match nextDesc s q with
  | some d => if d.type = ty ∧ d.refusal s = none ∧ mayStart s d then some d else none
  | none => none

/-- Whether a LOAD_IMAGE of a job accepted before a descriptor is still in progress (R252). -/
def loadAhead (s : State) (d : Desc) : Bool := s.descs.any fun e => e.type == 1 && e.job == d.job && decide (e.subm < d.subm)

/-- The RUN_GRAPH descriptors that wait for the load of a job (R257). -/
def waitingGraphs (s : State) (j : Nat) : List Desc :=
  s.descs.filter fun d => d.type == 3 && d.job == j && d.started && !(s.runs.any fun p => p.2.subm == d.subm && p.2.kind == .graph)

/-- A RUN_GRAPH that waited for a load, once no load of its job is ahead of it and none has loaded the job in its partition:
NO_JOB, or PARTITION (R252, R257). -/
def leaveGraph (s : State) (d : Desc) : State :=
  if loadAhead s d then s else complete s d.subm (if otherPart s d.job d.part then stPartition else stNoJob) 0

/-- Descriptors that R252 or R254 refuses complete in their turn, and with a load the runs that waited for it. DEDUCED (log 22). -/
def pump : Nat → State → State
  | 0, s => s
  | k + 1, s =>
    match s.descs.find? (fun d => !d.started && (d.refusal s).isSome && nextDesc s d.sq == some d && mayStart s d) with
    | some d =>
      let r := (d.refusal s).getD (0, 0)
      let s := complete (startDesc s d.subm) d.subm r.1 r.2
      pump k (if d.type = 1 then (waitingGraphs s d.job).foldl leaveGraph s else s)
    | none => s

/-- Every descriptor that is refused and whose turn has come completed. -/
def pumpAll (s : State) : State := pump s.descs.length s

/-- A descriptor started and completed at once. -/
def finishDesc (s : State) (d : Desc) (status detail : Nat) : State :=
  pumpAll (complete (startDesc s d.subm) d.subm status detail)

/-- Whether a partition is enabled (R407). -/
def partOn (s : State) (q : Nat) : Bool := (Store.get? s.parts q).isSome

/-- DESCRIPTOR_FETCH: the descriptor at the head of an enabled SQ is read and accepted with a submission number; one that
names a disabled partition or breaks R254 completes in its turn with PARTITION or DESCRIPTOR; none is read outside state READY (R252, R254, R443).
DEDUCED (log 22). -/
def execDescriptorFetch (sq : Nat) (bytes : Bytes) (s : State) : Host.Outcome State Fault Refusal :=
  .next <|
    if !isReady s || !on s (HQ_SQ_CFG_en sq) || outstanding s sq == 0 then s
    else
      let q := rd s (HQ_SQ_CFG_partition sq)
      let b := sliceB bytes 0 64
      let bad := if !partOn s q then some (stPartition, 0) else
        match badField b with
        | some o => some (stDescriptor, o)
        | none => if otherPart s (fieldLE b 2 2) q then some (stPartition, 0) else none
      let d : Desc := ⟨s.submNext, sq, rd s (HQ_SQ_CFG_cq sq), q, tod s, b, false, false, bad⟩
      let s := wr s (HQ_DEPTH_head sq) ((rd s (HQ_DEPTH_head sq) + 1) % sqLen s sq)
      pumpAll { s with descs := s.descs ++ [d], submNext := s.submNext + 1 }

/-! ### Doorbells and configuration -/

/-- The first refused access logged (R5, R425, R426). -/
def logBad (s : State) (off : Nat) (bar2 write : Bool) (log2 fn cause : Nat) : State :=
  let s := if on s HST_BAR0_LOG_valid then s else
    wrs s [(HST_BAR0_LOG_offset, off), (HST_BAR0_LOG_bar2, b2n bar2), (HST_BAR0_LOG_write, b2n write),
      (HST_BAR0_LOG_bytes_log2, log2), (HST_BAR0_LOG_function, fn), (HST_BAR0_LOG_valid, 1)]
  raise s HST_CAUSE_cause cause

/-- Whether a function reaches an SQ (R411, R425). -/
def fnSq (s : State) (fn q : Nat) : Bool := fnOwns s fn (rd s (HQ_SQ_CFG_partition q))

/-- Whether a function reaches a CQ (R411, R425, R430). -/
def fnCq (s : State) (fn c : Nat) : Bool := fnUp s fn && (fn == 0 || cqBelongs s c (fn - 1))

/-- HQ_SQ_DB: a write of an SQ's doorbell: the tail moves on, or the write is dropped as bad (R425, R426). -/
def execHqSqDb (fn q : Nat) (v : Word64) (s : State) : Host.Outcome State Fault Refusal :=
  let t := v.toNat % 2 ^ 17
  let old := rd s (HQ_SQ_DB_tail q)
  let n := sqLen s q
  .next <|
    if !fnSq s fn q then s
    else if on s (HQ_SQ_CFG_en q) && t == old then s
    else if !on s (HQ_SQ_CFG_en q) || decide (n ≤ t) || decide (n - 1 < outstanding s q + (t + n - old % n) % n) then
      logBad s (0x1000 * q) true true 3 fn 3
    else wr s (HQ_SQ_DB_tail q) t

/-- HQ_CQ_DB: a write of a CQ's doorbell: the head moves on and held completions are written, or the write is dropped as
bad (R425, R426). -/
def execHqCqDb (fn q : Nat) (v : Word64) (s : State) : Host.Outcome State Fault Refusal :=
  let h := v.toNat % 2 ^ 17
  let old := rd s (HQ_CQ_DB_head q)
  let n := cqLen s q
  .next <|
    if !fnCq s fn q then s
    else if on s (HQ_CQ_CFG_en q) && h == old then s
    else if !on s (HQ_CQ_CFG_en q) || decide (n ≤ h) || decide (cqUsed s q < (h + n - old % n) % n) then
      logBad s (0x10000 + 0x1000 * q) true true 3 fn 3
    else pumpAll (drainCqAll (wr s (HQ_CQ_DB_head q) h) q)

/-- Whether an offset is HQ_SQ_CFG (0x08) or HQ_CQ_CFG (0x20) of a queue, and which. -/
def hqCfgAt (off : Nat) : Option (Bool × Nat) :=
  if 0x40000 ≤ off ∧ off < 0x40400 then
    if (off - 0x40000) % 0x40 = 0x08 then some (true, (off - 0x40000) / 0x40)
    else if (off - 0x40000) % 0x40 = 0x20 then some (false, (off - 0x40000) / 0x40)
    else none
  else none

/-- The configuration fields of a disabled queue written, `en` apart; partition only through the physical function. -/
def hqConfig (s : State) (fn : Nat) (sq : Bool) (q w : Nat) : State :=
  if sq then
    let s := wrs s [(HQ_SQ_CFG_log2_entries q, w), (HQ_SQ_CFG_cq q, w / 2 ^ 6)]
    if fn = 0 then wr s (HQ_SQ_CFG_partition q) (w / 2 ^ 10) else s
  else wr s (HQ_CQ_CFG_log2_entries q) w

/-- QUEUE_ENABLE: a write of a queue's CFG with en set: a disabled queue takes the configuration written and is enabled
with head and tail at 0; completions held for a CQ are written from tail 0 (R251, R253). -/
def execQueueEnable (fn off : Nat) (v : Word64) (s : State) : Host.Outcome State Fault Refusal :=
  let w := v.toNat
  .next <| match hqCfgAt off with
    | none => s
    | some (sq, q) =>
      if (if sq then !fnSq s fn q else !fnCq s fn q) || !bitOf w 5 then s
      else if sq then
        if on s (HQ_SQ_CFG_en q) then s
        else wrs (hqConfig s fn true q w) [(HQ_SQ_CFG_en q, 1), (HQ_DEPTH_head q, 0), (HQ_SQ_DB_tail q, 0)]
      else if on s (HQ_CQ_CFG_en q) then s
      else
        let s := wrs (hqConfig s fn false q w) [(HQ_CQ_CFG_en q, 1), (HQ_CQ_STATUS_tail q, 0), (HQ_CQ_DB_head q, 0)]
        pumpAll (drainCqAll { s with cqs := Store.set s.cqs q ⟨true, (cqOf s q).held⟩ } q)

/-- QUEUE_DISABLE: a write of a queue's CFG with en clear: an enabled queue is disabled and keeps its configuration; a
disabled one takes the configuration written (R251). -/
def execQueueDisable (fn off : Nat) (v : Word64) (s : State) : Host.Outcome State Fault Refusal :=
  let w := v.toNat
  .next <| match hqCfgAt off with
    | none => s
    | some (sq, q) =>
      if (if sq then !fnSq s fn q else !fnCq s fn q) || bitOf w 5 then s
      else if sq then (if on s (HQ_SQ_CFG_en q) then wr s (HQ_SQ_CFG_en q) 0 else hqConfig s fn true q w)
      else if on s (HQ_CQ_CFG_en q) then wr s (HQ_CQ_CFG_en q) 0
      else hqConfig s fn false q w

end Sys2Proof.Machine
end

