-- ==== Sys2Proof/Machine/Wire.lean ====
section
/-! DEFINITION. Ethernet frames as they stand on a sub-port's link: formed with addresses, VLAN tag, IP and UDP headers and MACsec,
and taken apart again (11_network_and_ingest.md, R277 to R280; 16, R414). The constants of the standards that the spec cites are
PRESUMED (log 41). -/

namespace Sys2Proof.Machine

/-! ### Checksums -/

/-- One bit of a reflected CRC. -/
def crcBit (poly c : Nat) : Nat := if c % 2 = 1 then (c / 2) ^^^ poly else c / 2

/-- One byte of a reflected CRC. -/
def crcByte (poly c : Nat) (b : Byte) : Nat := (crcBit poly)^[8] (c ^^^ b.toNat)

/-- A reflected CRC of 32 bits, with both complements. -/
def crc32 (poly : Nat) (bs : Bytes) : Nat := (bs.foldl (crcByte poly) 0xFFFFFFFF) ^^^ 0xFFFFFFFF

/-- CRC-32C of a byte string (R282). PRESUMED (log 41): the polynomial of the CRC the spec names. -/
def crc32c (bs : Bytes) : Nat := crc32 0x82F63B78 bs

/-- The frame check sequence of IEEE 802.3. PRESUMED (log 41). -/
def fcsOf (bs : Bytes) : Nat := crc32 0xEDB88320 bs

/-- The sum of the 16-bit words of a string, the last padded. -/
def wordSum : Bytes → Nat
  | [] => 0
  | [a] => 256 * a.toNat
  | a :: b :: r => 256 * a.toNat + b.toNat + wordSum r

/-- The carries of a sum of 16-bit words brought round. -/
def carryRound (n : Nat) : Nat :=
  let a := n % 65536 + n / 65536
  a % 65536 + a / 65536

/-- The ones' complement sum of a string shorter than 2^16 words; 0xFFFF of one that carries its own right checksum. PRESUMED (log 41). -/
def onesSum (bs : Bytes) : Nat := carryRound (wordSum bs)

/-- The checksum of a string. -/
def inetSum (bs : Bytes) : Nat := 0xFFFF - onesSum bs

/-! ### IP and UDP (R279) -/

/-- Whether an address is an IPv4 address in IPv4-mapped form (R277). -/
def isV4 (ip : Nat) : Bool := ip / 2 ^ 32 == 0xFFFF

/-- An IPv4 address in IPv4-mapped form (R277). -/
def mapped (v4 : Nat) : Nat := 0xFFFF * 2 ^ 32 + v4

/-- The pseudo header of a UDP datagram of `n` bytes. -/
def pseudoHeader (src dst n : Nat) : Bytes :=
  if isV4 dst then toBE 4 src ++ toBE 4 dst ++ [0, 17] ++ toBE 2 n else toBE 16 src ++ toBE 16 dst ++ toBE 4 n ++ [0, 0, 0, 17]

/-- A UDP datagram, its checksum filled (R279). -/
def udpDatagram (src dst sport dport : Nat) (m : Bytes) : Bytes :=
  let n := 8 + m.length
  let h (c : Nat) : Bytes := toBE 2 sport ++ toBE 2 dport ++ toBE 2 n ++ toBE 2 c
  let c := inetSum (pseudoHeader src dst n ++ h 0 ++ m)
  h (if c = 0 then 0xFFFF else c) ++ m

/-- An IPv4 packet without options, DF set, TTL 64, or an IPv6 packet with hop limit 64 (R279). -/
def ipPacket (src dst : Nat) (udp : Bytes) : Bytes :=
  if isV4 dst then
    let h (c : Nat) : Bytes := [0x45, 0] ++ toBE 2 (20 + udp.length) ++ [0, 0, 0x40, 0, 64, 17] ++ toBE 2 c ++ toBE 4 src ++ toBE 4 dst
    h (inetSum (h 0)) ++ udp
  else [0x60, 0, 0, 0] ++ toBE 2 udp.length ++ [17, 64] ++ toBE 16 src ++ toBE 16 dst ++ udp

/-! ### Addresses (R277, R279) -/

/-- The MAC address of a sub-port (R277). -/
def subMac (s : State) (port sub : Nat) : Nat := rd s HST_MAC_BASE_mac + 4 * port + sub

/-- The IP address of a sub-port (R277, R304). -/
def subAddr (s : State) (port sub : Nat) : Nat := rd s (NET_SUB_ADDR_HI_addr_hi port sub) * 2 ^ 64 + rd s (NET_SUB_ADDR_LO_addr_lo port sub)

/-- The MAC address that the neighbour table holds for an address on a sub-port (R279). -/
def neighbourOf (s : State) (port sub ip : Nat) : Option Nat :=
  (s.neighbours.find? fun n => n.sub == 4 * port + sub && n.ip == ip).map (·.mac)

/-- The neighbour table with an entry put in. PRESUMED (log 59). -/
def learnNeighbour (s : State) (n : Neighbour) : State :=
  { s with neighbours := n :: s.neighbours.filter fun m => m.sub != n.sub || m.ip != n.ip }

/-! ### MACsec (R280, R414) -/

/-- The parts of an association's selector (R416): port, sub-port, direction, association number. -/
def selPort (k : Nat) : Nat := bitsOf k 0 4
def selSub (k : Nat) : Nat := bitsOf k 4 2
def selRx (k : Nat) : Bool := bitOf k 6
def selAn (k : Nat) : Nat := bitsOf k 9 2

/-- The transmit association of a sub-port: the one installed last. DESIGN CHOICE (log 60). -/
def txMsa (s : State) (port sub : Nat) : Option (Nat × Msa) :=
  (s.sec.msaOrder.find? fun k => selPort k == port && selSub k == sub && !selRx k && (Store.get? s.sec.msas k).isSome).bind fun k =>
    (Store.get? s.sec.msas k).map fun m => (k, m)

/-- The receive association of a sub-port that a SecTAG names by its SCI and association number. -/
def rxMsa (s : State) (port sub sci an : Nat) : Option (Nat × Msa) :=
  s.sec.msas.find? fun p => selPort p.1 == port && selSub p.1 == sub && selRx p.1 && selAn p.1 == an && p.2.sci == sci

/-- The initialization vector of GCM-AES-XPN: SSCI and packet number, masked with the salt. PRESUMED (log 41). -/
def xpnIv (m : Msa) (pn : Nat) : Bytes := List.zipWith (· ^^^ ·) (toBE 4 m.ssci ++ toBE 8 pn) (toLE 12 m.salt)

/-- A SecTAG with its SCI, for encrypted data. PRESUMED (log 41). -/
def secTag (m : Msa) (an pn : Nat) : Bytes := [0x88, 0xE5] ++ toBE 1 (0x2C + an) ++ [0] ++ toBE 4 pn ++ toBE 8 m.sci

/-- A frame under the association of its sub-port, whose packet number advances; at 2^62 MACSEC_PN is raised (R280). -/
def protectFrame (s : State) (port sub : Nat) (f : Bytes) : State × Bytes :=
  match txMsa s port sub with
  | none => (s, f)
  | some (k, m) =>
    let h := f.take 12 ++ secTag m (selAn k) m.pn
    let s := { s with sec := { s.sec with msas := Store.set s.sec.msas k { m with pn := m.pn + 1 } } }
    (if m.pn + 1 = 2 ^ 62 then raise s NET_CAUSE_cause 2 else s, h ++ Config.gcmSeal m.key (xpnIv m m.pn) h (f.drop 12))

/-- The packet number that the low 32 bits of a SecTAG stand for, given the lowest acceptable. PRESUMED (log 41). -/
def xpnOf (low pn32 : Nat) : Nat :=
  (if bitOf low 31 && !bitOf pn32 31 then low / 2 ^ 32 + 1 else low / 2 ^ 32) * 2 ^ 32 + pn32

/-- Whether a frame carries a SecTAG. -/
def hasSecTag (f : Bytes) : Bool := fieldBE f 12 2 == 0x88E5

/-- A frame with a SecTAG opened: none where the tag, the association, the packet number or the check value is not valid; the
replay window moves on (R280, R414). -/
def openFrame (s : State) (port sub : Nat) (f : Bytes) : Option (State × Bytes) :=
  let tci := fieldBE f 14 1
  let sl := fieldBE f 15 1
  let data := f.drop 28
  match rxMsa s port sub (fieldBE f 20 8) (tci % 4) with
  | none => none
  | some (k, m) =>
    let pn := xpnOf m.pn (fieldBE f 16 4)
    if tci / 4 ≠ 0x0B ∨ 48 ≤ sl ∨ pn < m.pn then none
    else (Config.gcmOpen m.key (xpnIv m pn) (f.take 28) (if sl = 0 then data else data.take (sl + 16))).map fun p =>
      ({ s with sec := { s.sec with msas := Store.set s.sec.msas k { m with pn := max m.pn (pn + 1 - m.window) } } }, f.take 12 ++ p)

/-! ### Sending (R277 to R280, R298) -/

/-- Whether a sub-port's link is up. -/
def linkUp (s : State) (port sub : Nat) : Bool := bitOf (rd s (NET_PORT_STATUS_link_up port)) sub

/-- A frame padded to the least length, its frame check sequence at its end. -/
def withFcs (f : Bytes) : Bytes :=
  let g := f ++ List.replicate (60 - f.length) 0
  g ++ toLE 4 (fcsOf g)

/-- A UDP message as an Ethernet frame of a sub-port before MACsec: tagged with the port's vid when vlan_en is 1, the source port
taken from udp_port (R277 to R279). -/
def udpFrame (s : State) (port sub mac ip udp : Nat) (m : Bytes) : Bytes :=
  let src := subAddr s port sub
  let tag : Bytes := if on s (NET_PORT_CFG_vlan_en port) then [0x81, 0] ++ toBE 2 (rd s (NET_PORT_CFG_vid port)) else []
  let f := toBE 6 mac ++ toBE 6 (subMac s port sub) ++ tag ++ (if isV4 ip then [0x08, 0] else [0x86, 0xDD])
    ++ ipPacket src ip (udpDatagram src ip (rd s NET_MIOBEL_CFG_udp_port) udp m)
  f ++ List.replicate (60 - f.length) 0

/-- A message sent to a UDP port of an address: none where the sub-port's link is down or the address has no neighbour entry
(R279, R298). -/
def sendUdp (s : State) (port sub ip udp : Nat) (m : Bytes) : Option State :=
  if !linkUp s port sub then none
  else (neighbourOf s port sub ip).map fun mac =>
    let p := protectFrame s port sub (udpFrame s port sub mac ip udp m)
    emitOut p.1 (.frame port sub (withFcs p.2))

/-! ### Receiving (R278, R279) -/

/-- A received frame's VLAN identifier, EtherType and payload. -/
def frameVlan (f : Bytes) : Option Nat := if fieldBE f 12 2 = 0x8100 then some (fieldBE f 14 2 % 4096) else none
def frameType (f : Bytes) : Nat := if fieldBE f 12 2 = 0x8100 then fieldBE f 16 2 else fieldBE f 12 2
def framePayload (f : Bytes) : Bytes := f.drop (if fieldBE f 12 2 = 0x8100 then 18 else 14)

/-- What an IP packet says: source, destination, protocol, whether it is a later fragment, whether its header fails R279, and what
follows the headers, as its length field bounds it. -/
structure IpView where
  src : Nat
  dst : Nat
  proto : Nat
  later : Bool
  bad : Bool
  body : Bytes
deriving DecidableEq, Repr

/-- Whether a packet of `n` bytes disagrees with the payload that carried it, padding of a short frame apart. -/
def lengthBad (n : Nat) (p : Bytes) : Bool := decide (p.length < n) || (decide (n < p.length) && decide (46 < p.length))

/-- An IPv4 packet read: options, fragments, a wrong length and a wrong header checksum are bad (R279). -/
def readV4 (p : Bytes) : IpView :=
  let ihl := 4 * (fieldBE p 0 1 % 16)
  let n := fieldBE p 2 2
  let frag := fieldBE p 6 2
  ⟨mapped (fieldBE p 12 4), mapped (fieldBE p 16 4), fieldBE p 9 1, frag % 8192 != 0,
    fieldBE p 0 1 / 16 != 4 || ihl != 20 || frag % 16384 != 0 || lengthBad n p || onesSum (p.take ihl) != 0xFFFF, (p.take n).drop ihl⟩

/-- The extension headers of IPv6. PRESUMED (log 41). -/
def v6Ext (next : Nat) : Bool := [0, 43, 44, 51, 60, 135, 139, 140].contains next

/-- The protocol after the extension headers of an IPv6 packet, whether the packet is a later fragment, and what follows. -/
def skipExt : Nat → Nat → Bytes → Nat × Bool × Bytes
  | 0, next, p => (next, false, p)
  | k + 1, next, p =>
    if !v6Ext next then (next, false, p)
    else if next = 44 then
      (if fieldBE p 2 2 / 8 ≠ 0 then (fieldBE p 0 1, true, p.drop 8) else skipExt k (fieldBE p 0 1) (p.drop 8))
    else skipExt k (fieldBE p 0 1) (p.drop (if next = 51 then 4 * (fieldBE p 1 1 + 2) else 8 * (fieldBE p 1 1 + 1)))

/-- An IPv6 packet read: extension headers and a wrong length are bad (R279). -/
def readV6 (p : Bytes) : IpView :=
  let n := fieldBE p 4 2
  let next := fieldBE p 6 1
  let x := skipExt 8 next ((p.take (40 + n)).drop 40)
  ⟨fieldBE p 8 16, fieldBE p 24 16, x.1, x.2.1, fieldBE p 0 1 / 16 != 6 || v6Ext next || lengthBad (40 + n) p, x.2.2⟩

/-- What a received frame is found to be (R279). -/
inductive FrameClass where
  | ptp
  | firmware (learn : Option (Nat × Nat))
  | miobel (bad : Bool) (src udp : Nat) (msg : Bytes)
  | other
deriving DecidableEq, Repr

/-- Whether a UDP datagram fails R279: its length, or its checksum, which only IPv4 may leave zero. -/
def udpBad (v : IpView) : Bool :=
  let c := fieldBE v.body 6 2
  fieldBE v.body 4 2 != v.body.length
    || (if c = 0 then !isV4 v.src else onesSum (pseudoHeader v.src v.dst v.body.length ++ v.body) != 0xFFFF)

/-- An IP packet to be classified: UDP to the sub-port's address by its port, a later fragment there failing as a Miobel frame's header
does. DESIGN CHOICE (log 40). -/
def classifyUdp (s : State) (port sub : Nat) (v : IpView) : FrameClass :=
  let dport := fieldBE v.body 2 2
  if v.proto ≠ 17 ∨ v.dst ≠ subAddr s port sub then .other
  else if v.later then .miobel true v.src 0 []
  else if dport = 319 ∨ dport = 320 then .ptp
  else if dport = rd s NET_MIOBEL_CFG_udp_port then .miobel (v.bad || udpBad v) v.src (fieldBE v.body 0 2) (v.body.drop 8)
  else .other

/-- The neighbour that an ARP packet tells of: its sender. PRESUMED (log 59). -/
def arpNeighbour (p : Bytes) : Option (Nat × Nat) :=
  if fieldBE p 0 2 = 1 ∧ fieldBE p 2 2 = 0x0800 ∧ fieldBE p 14 4 ≠ 0 then some (mapped (fieldBE p 14 4), fieldBE p 8 6) else none

/-- The neighbour that a neighbour solicitation or advertisement tells of, its link-layer address first among its options.
PRESUMED (log 59). -/
def ndNeighbour (v : IpView) : Option (Nat × Nat) :=
  let ty := fieldBE v.body 0 1
  let opt := fieldBE v.body 24 2
  if ty = 135 ∧ opt = 0x0101 ∧ v.src ≠ 0 then some (v.src, fieldBE v.body 26 6)
  else if ty = 136 ∧ opt = 0x0201 then some (fieldBE v.body 8 16, fieldBE v.body 26 6)
  else none

/-- The class of a received frame (R279). -/
def classifyFrame (s : State) (port sub : Nat) (f : Bytes) : FrameClass :=
  let ty := frameType f
  let p := framePayload f
  if ty = 0x88F7 then .ptp
  else if ty = 0x0806 then .firmware (arpNeighbour p)
  else if ty = 0x0800 then (if fieldBE p 9 1 = 1 then .firmware none else classifyUdp s port sub (readV4 p))
  else if ty = 0x86DD then
    let v := readV6 p
    if v.proto = 58 then .firmware (ndNeighbour v) else classifyUdp s port sub v
  else .other

end Sys2Proof.Machine
end

