-- ==== Sys2Proof/Machine/Net.lean ====
section
/-! DEFINITION. Ports, frames, Miobel messages and the association table (11_network_and_ingest.md, R277 to R285, R298,
R304, R305, R307). -/

namespace Sys2Proof.Machine

/-! ### Messages (R282) -/

/-- The types of Miobel messages. -/
def mtReq : Nat := 1
def mtRep : Nat := 2
def mtColl : Nat := 3
def mtCtrl : Nat := 4

/-- A Miobel message: header, body and CRC (R282). -/
def mkMsg (ty flags job epoch seqn : Nat) (body : Bytes) : Bytes :=
  let h := toBE 1 (0x10 + ty) ++ toBE 1 flags ++ toBE 2 job ++ toBE 1 epoch ++ [0] ++ toBE 2 body.length ++ toBE 4 seqn
  h ++ toBE 4 (crc32c (h ++ toBE 4 0 ++ body)) ++ body

def msgType (m : Bytes) : Nat := fieldBE m 0 1 % 16
def msgJob (m : Bytes) : Nat := fieldBE m 2 2
def msgEpoch (m : Bytes) : Nat := fieldBE m 4 1
def msgSeq (m : Bytes) : Nat := fieldBE m 8 4

/-- Whether a message passes the header checks of R283. -/
def msgOk (m : Bytes) : Bool :=
  decide (16 ≤ m.length) && fieldBE m 0 1 / 16 == 1 && decide (1 ≤ msgType m) && decide (msgType m ≤ 4)
    && decide (fieldBE m 1 1 < 2) && fieldBE m 5 1 == 0 && fieldBE m 6 2 == m.length - 16
    && fieldBE m 12 4 == crc32c (patchB m 12 (toBE 4 0))

/-! ### Associations (R284) -/

/-- What an association keeps before anything is sent or received. -/
def AssocSt.init : AssocSt := ⟨none, none, [], 0, [], [], 0, [], 0, 0, []⟩

/-- The hidden state of an association. -/
def assocOf (s : State) (a : Nat) : AssocSt := Store.getD s.assocs a AssocSt.init

/-- The state with an association's hidden state changed. -/
def modAssoc (s : State) (a : Nat) (f : AssocSt → AssocSt) : State :=
  { s with assocs := Store.set s.assocs a (f (assocOf s a)) }

/-- The peer address of an association. -/
def assocIp (s : State) (a : Nat) : Nat := rd s (NET_ASSOC_IP_HI_ip_hi a) * 2 ^ 64 + rd s (NET_ASSOC_IP_LO_ip_lo a)

/-- The valid association of a peer, its UDP port and a sub-port (R283, R284). -/
def findAssoc (s : State) (ip udp port sub : Nat) : Option Nat :=
  (List.range 512).find? fun a => on s (NET_ASSOC_CFG_valid a) && assocIp s a == ip && rd s (NET_ASSOC_CFG_peer_udp a) == udp
    && rd s (NET_ASSOC_CFG_port a) == port && rd s (NET_ASSOC_CFG_subport a) == sub

/-- Whether a function reaches what belongs to a port: the physical function, or the virtual function of the partition
that owns the port (R411). -/
def fnPort (s : State) (fn port : Nat) : Bool :=
  fnUp s fn && (fn == 0 || (match Store.get? s.parts (fn - 1) with
    | some r => bitOf r.ports port
    | none => false))

/-- M: the modules of the group, 1 while the group is not enabled (R299). -/
def groupM (s : State) : Nat :=
  let m := rd s NET_COLL_CFG_modules
  if on s NET_COLL_CFG_en ∧ 1 ≤ m ∧ m ≤ 16 then m else 1

/-- This module's index in the group. -/
def groupIdx (s : State) : Nat := if groupM s = 1 then 0 else rd s NET_COLL_CFG_index

/-- What a layer holds of a step with another module forgotten: its partials, ends and finals not yet applied, what was sent to it, and
the finals formed here, to be formed and sent again as its partials come again (R302). DESIGN CHOICE (log 30). -/
def GrdLayer.forget (y : GrdLayer) (m groups self : Nat) : GrdLayer :=
  let kept (k : Nat) : Bool := k % groups != m || y.applied.contains k
  { y with
    parts := y.parts.filter fun p => p.2.1 != m, modEnds := y.modEnds.filter fun k => k != m && k != self
    finEnds := y.finEnds.filter fun k => k != m && k != self, finals := y.finals.filter fun p => kept p.1
    arrived := y.arrived.filter kept, sent := y.sent.filter fun k => k % groups != m, formed := [], partEnd := false
    finEndSent := false }

/-- The collective state shared with a module forgotten: its association has taken a new epoch (R302). -/
def forgetModule (s : State) (m : Nat) : State :=
  if groupM s = 1 ∨ m = groupIdx s then s
  else { s with grd := { s.grd with layers := s.grd.layers.map fun y => y.forget m (groupM s) (groupIdx s) } }

/-- ASSOC_WRITE: a write of NET_ASSOC_CFG. With valid it advances the epoch and clears the sequence state; one less than
1 s after the last, or one that would make two valid entries alike, is dropped with ASSOC_BUSY (R284). Before the first
write since a restart the second counts from READY, and that write takes its epoch from the DRBG, a free value (R449).
DEDUCED (log 26). -/
def execAssocWrite (fn a : Nat) (v : Word64) (s : State) : Host.Outcome State Fault Refusal :=
  let w := v.toNat
  let port := bitsOf w 16 4
  .next <|
    if !fnPort s fn (rd s (NET_ASSOC_CFG_port a)) || !fnPort s fn port then s
    else
      let first := (assocOf s a).lastWrite.isNone
      let early := match (if first then s.readyAt else (assocOf s a).lastWrite) with
        | some t => decide (s.now < t + 1000000000)
        | none => true
      let twin := bitOf w 22 && (match findAssoc (wr s (NET_ASSOC_CFG_valid a) 0) (assocIp s a) (bitsOf w 0 16) port (bitsOf w 20 2) with
        | some b => b != a
        | none => false)
      if early || twin then raise s NET_CAUSE_cause 11
      else
        let s := wrs s [(NET_ASSOC_CFG_peer_udp a, w), (NET_ASSOC_CFG_port a, port), (NET_ASSOC_CFG_subport a, bitsOf w 20 2),
          (NET_ASSOC_CFG_valid a, bitsOf w 22 1), (NET_ASSOC_CFG_kind a, bitsOf w 23 1),
          (NET_ASSOC_CFG_coll_module a, bitsOf w 24 4)]
        let s := if first then wr (takeFree s 1) (NET_ASSOC_CFG_epoch a) (Config.freeValue s.freeCtr) else s
        if bitOf w 22 then
          let s := if first then s else wr s (NET_ASSOC_CFG_epoch a) (rd s (NET_ASSOC_CFG_epoch a) + 1)
          let s := if bitOf w 23 then forgetModule s (bitsOf w 24 4) else s
          modAssoc s a fun _ => { AssocSt.init with lastWrite := some s.now }
        else modAssoc s a fun x => { x with lastWrite := some s.now }

/-! ### Sending -/

/-- A message sent on an association; on a link that is down, or with no neighbour entry, it is lost. -/
def sendOn (s : State) (a : Nat) (m : Bytes) : State :=
  (sendUdp s (rd s (NET_ASSOC_CFG_port a)) (rd s (NET_ASSOC_CFG_subport a)) (assocIp s a) (rd s (NET_ASSOC_CFG_peer_udp a)) m).getD s

/-! ### Frames (R278, R279, R283) -/

/-- A frame dropped and counted. -/
def dropFrame (s : State) (f : Fld) : State := bump s f 1

/-- An ARP, ICMP or ICMPv6 frame handed to the firmware, up to 10 000 a second of the time clock and sub-port; the firmware keeps
what it tells of a neighbour (R279). DESIGN CHOICE (log 48, 59). -/
def toFirmware (s : State) (port sub : Nat) (learn : Option (Nat × Nat)) : State :=
  let k := 4 * port + sub
  let sec := s.now / 1000000000
  let n := match Store.get? s.fwRate k with
    | some (t, n) => if t = sec then n else 0
    | none => 0
  if n < 10000 then
    let s := emitOut (bump { s with fwRate := Store.set s.fwRate k (sec, n + 1) } (NET_PORT_RX_firmware port) 1) (.toFirmware port sub)
    match learn with
    | some (ip, mac) => learnNeighbour s ⟨k, ip, mac⟩
    | none => s
  else dropFrame s (NET_PORT_DROP_other port)

/-- A Miobel frame: the IP, UDP and header checks, the association and its epoch (R279, R283). -/
def miobelFrame (s : State) (port sub : Nat) (badHeaders : Bool) (src udp : Nat) (m : Bytes) : State :=
  if badHeaders || !msgOk m then dropFrame s (NET_PORT_DROP_header port)
  else match findAssoc s src udp port sub with
    | none => dropFrame s (NET_PORT_DROP_header port)
    | some a =>
      let hello := msgType m == mtCtrl && fieldBE m 16 1 == 1
      if !hello && msgEpoch m != rd s (NET_ASSOC_CFG_epoch a) then
        raise (bump (bump s (NET_ASSOC_STAT_stale a) 1) NET_INGEST_MISC_stale 1) NET_CAUSE_cause 3
      else bump (bump s (NET_PORT_RX_miobel port) 1) (NET_ASSOC_STAT_rx a) 1

/-- Whether a frame's VLAN tag is what its port accepts: the port's vid when vlan_en is 1, none when it is 0 (R278). -/
def vlanOk (s : State) (port : Nat) (f : Bytes) : Bool :=
  if on s (NET_PORT_CFG_vlan_en port) then frameVlan f == some (rd s (NET_PORT_CFG_vid port)) else (frameVlan f).isNone

/-- A frame whose MACsec has been taken off, if it had any, classified and counted: one without a SecTAG falls under macsec_req,
ptp_clear excepting PTP (R280); one whose VLAN tag is not the port's is dropped (R278, R279). -/
def takeFrame (s : State) (port sub : Nat) (tagged : Bool) (f : Bytes) : State :=
  let c := classifyFrame s port sub f
  if on s (NET_PORT_CFG_macsec_req port) && !tagged && !(c == .ptp && on s (NET_PORT_CFG_ptp_clear port)) then
    dropFrame s (NET_PORT_DROP_macsec port)
  else if !vlanOk s port f then dropFrame s (NET_PORT_DROP_other port)
  else match c with
    | .ptp =>
      if sub = 0 ∧ rd s TIM_SRC_CFG_ptp_port = port then bump s (NET_PORT_RX_ptp port) 1
      else dropFrame s (NET_PORT_DROP_other port)
    | .firmware learn => toFirmware s port sub learn
    | .miobel bad src udp m => miobelFrame s port sub bad src udp m
    | .other => dropFrame s (NET_PORT_DROP_other port)

/-- Whether the frame check sequence at the end of a frame is right. -/
def fcsGood (f : Bytes) : Bool := decide (4 ≤ f.length) && fieldLE f (f.length - 4) 4 == fcsOf (f.take (f.length - 4))

/-- FRAME_RECEIVE: a received frame, FCS included, and the codewords that FEC corrected or could not correct on its way, are
counted; the frame is checked in R279's order and classified or dropped; one outside 64 to 9,216 bytes is dropped as other (R278,
R280, R304). DEDUCED (log 26); DESIGN CHOICE (log 40). -/
def execFrameReceive (port sub : Nat) (frame : Bytes) (fecCorrected fecUncorrected : Nat) (s : State) :
    Host.Outcome State Fault Refusal :=
  .next <|
    if !on s (NET_PORT_CFG_en port) then s
    else
      let s := bump (bump s (NET_PORT_STATUS_fec_corrected port) fecCorrected) (NET_PORT_STATUS_fec_uncorrected port) fecUncorrected
      let f := frame.take (frame.length - 4)
      if !fcsGood frame then dropFrame s (NET_PORT_DROP_fcs port)
      else if frame.length < 64 ∨ 9216 < frame.length then dropFrame s (NET_PORT_DROP_other port)
      else if hasSecTag f then
        match openFrame s port sub f with
        | some (s, g) => takeFrame s port sub true g
        | none => dropFrame s (NET_PORT_DROP_macsec port)
      else takeFrame s port sub false f

/-- PTP_MESSAGE: a PTP message on the port in use: an event message received is timestamped, the port's asymmetry added, and handed to
the firmware's servo; a Pdelay_Req is answered by a one-step Pdelay_Resp; a Delay_Req or Pdelay_Req is sent and timestamped as it
leaves (R281). DESIGN CHOICE (log 40). -/
def execPtpMessage (port sub : Nat) (k : PtpKind) (s : State) : Host.Outcome State Fault Refusal :=
  let stamp := unsigned 64 ((tod s : Int) + signed 16 (rd s (NET_PTP_ASYM_asym_ns port)))
  .next <|
    if !on s (NET_PORT_CFG_en port) || sub != 0 || rd s TIM_SRC_CFG_ptp_port != port then s
    else match k with
      | .pdelayReq => emitOut s (.ptp port (some stamp) true)
      | .sync | .pdelayResp => emitOut s (.ptp port (some stamp) false)
      | .followUp | .delayResp | .other => emitOut s (.ptp port none false)
      | .sendDelayReq => if linkUp s port sub then emitOut s (.ptpSent port 1 (tod s)) else s
      | .sendPdelayReq => if linkUp s port sub then emitOut s (.ptpSent port 2 (tod s)) else s

/-- LINK_DOWN: a sub-port's link goes down (R307). -/
def execLinkDown (port sub : Nat) (s : State) : Host.Outcome State Fault Refusal :=
  .next <|
    if linkUp s port sub then
      raise (wr s (NET_PORT_STATUS_link_up port) (setBits (rd s (NET_PORT_STATUS_link_up port)) sub 1 0)) NET_CAUSE_cause 0
    else s

/-- The sub-ports of a port's mode (R277). -/
def subPorts (s : State) (port : Nat) : Nat := 2 ^ rd s (NET_PORT_CFG_mode port)

/-- LINK_UP: a sub-port's link of an enabled port comes up (R307). -/
def execLinkUp (port sub : Nat) (s : State) : Host.Outcome State Fault Refusal :=
  .next <|
    if !on s (NET_PORT_CFG_en port) || decide (subPorts s port ≤ sub) || linkUp s port sub then s
    else raise (wr s (NET_PORT_STATUS_link_up port) (setBits (rd s (NET_PORT_STATUS_link_up port)) sub 1 1)) NET_CAUSE_cause 1

/-! ### Bound jobs and HELLO (R285) -/

/-- The partition that owns a port (R277, R410). -/
def partOfPort (s : State) (port : Nat) : Option Nat := (s.parts.find? fun p => bitOf p.2.ports port).map (·.1)

/-- The job bound in a partition (R266). -/
def boundJob (s : State) (q : Nat) : Option Nat := (Store.get? s.periods q).map (·.job)

/-- MIOBEL_HELLO: a CTRL HELLO, accepted with any epoch, is answered by HELLO_REPLY with the epoch and the job bound in
the port's partition, 0 when none (R285). DEDUCED (log 26). -/
def execMiobelHello (assoc : Nat) (msg : Bytes) (s : State) : Host.Outcome State Fault Refusal :=
  .next <|
    if !on s (NET_ASSOC_CFG_valid assoc) || msgType msg != mtCtrl || fieldBE msg 16 1 != 1 then s
    else
      let job := ((partOfPort s (rd s (NET_ASSOC_CFG_port assoc))).bind (boundJob s)).getD 0
      sendOn s assoc (mkMsg mtCtrl 0 0 (rd s (NET_ASSOC_CFG_epoch assoc)) (assocOf s assoc).txSeq
        ([2, 0] ++ toBE 2 job))

end Sys2Proof.Machine
end

