-- ==== Sys2Proof/Machine/Ingest.lean ====
section
/-! DEFINITION. Requests, seating and replies: the checks of a REQ, the seat copies, the REP of every request, the lines of
the audit, miss records and the end of a binding (11_network_and_ingest.md, R286 to R298; 10, R270 to R272; 13, R337,
R338; 14, R368, R369). -/

namespace Sys2Proof.Machine

/-! ### Reply statuses (R296) -/

def rpScored : Nat := 0x00
def rpLate : Nat := 0x01
def rpClosed : Nat := 0x02
def rpNotBound : Nat := 0x10
def rpBadForm : Nat := 0x11
def rpBadLength : Nat := 0x12
def rpBadField : Nat := 0x13
def rpBusy : Nat := 0x14

/-! ### Doubles roles (R366 to R372) -/

/-- Whether the runs of a partition are doubles runs: the module is PAIRED or SPLIT and the partition is in part_mask. -/
def dblPart (s : State) (q : Nat) : Bool :=
  paired s && bitOf (rd s DBL_CFG_part_mask) q

/-- Module B of a pair (DBL_ID). -/
def isB (s : State) : Bool := on s DBL_STATUS_id

/-- Whether a partition's requests are answered by the partner: module B of a doubles partition (R368). -/
def follows (s : State) (q : Nat) : Bool := dblPart s q && isB s

/-- Whether a partition sends no REP: module B of a doubles partition, or an OUT module's (R368, R371). -/
def muted (s : State) (q : Nat) : Bool :=
  follows s q || (rd s DBL_STATUS_state == 5 && bitOf (rd s DBL_CFG_part_mask) q)

/-- Whether a run's results are released without agreement (R370). -/
def solo (s : State) (run : RunName) : Bool := s.dbl.solo.contains run

/-! ### REPs (R287, R296, R298) -/

/-- The body of a REP (R296). -/
def repBody (tag status field seat period : Nat) (ident payload : Bytes) : Bytes :=
  toBE 8 tag ++ toBE 1 status ++ toBE 1 field ++ toBE 2 seat ++ toBE 4 period ++ sliceB ident 0 16
    ++ toBE 1 payload.length ++ List.replicate 7 0 ++ payload

/-- A REP sent on the sub-port of its REQ and held for resending, the oldest of 16,384 dropped; on a link that is down, or with no
neighbour entry, it is lost and counted (R287, R298). -/
def sendRep (s : State) (r : Request) (status field seat period : Nat) (ident payload : Bytes) : State :=
  let epoch := rd s (NET_ASSOC_CFG_epoch r.assoc)
  let body := repBody r.tag status field seat period ident payload
  match sendUdp s r.port r.sub r.ip r.udp (mkMsg mtRep 0 r.job epoch r.seqn body) with
  | some s =>
    let h : HeldRep := ⟨r.assoc, epoch, r.seqn, r.port, r.sub, r.ip, r.udp, mkMsg mtRep 1 r.job epoch r.seqn body, s.now⟩
    let held := s.heldReps ++ [h]
    bump { s with heldReps := held.drop (held.length - 16384) } NET_REPLY_STATS_sent 1
  | none => raise (bump s NET_REPLY_STATS_lost 1) NET_CAUSE_cause 6

/-! ### Bindings -/

/-- A binding by the submission number of its BIND_PERIOD, active or ending. -/
def bindingOf (s : State) (b : Nat) : Option Period :=
  match s.periods.find? (fun p => p.2.subm == b) with
  | some p => some p.2
  | none => s.closings.find? fun p => p.subm == b

/-- The fallback in force for a binding's replies (R259). -/
def fallbackOf (s : State) (b : Nat) : Bytes :=
  match bindingOf s b with
  | some p => if p.gone then p.fallback else ((Store.get? s.jobs p.job).map (·.fallback)).getD p.fallback
  | none => []

/-- The run of a period of a binding. -/
def runOfBind (s : State) (b n : Nat) : Option (Nat × Run) :=
  s.runs.find? fun p => p.2.subm == b && p.2.kind == .period n

/-- Whether a seat still waits for its reply. -/
def Seat.waits (x : Seat) : Bool := x.status.isNone && !x.carried && !x.gone

/-- Whether a carried request still waits for its reply. -/
def Carry.waits (x : Carry) : Bool := x.status.isNone && x.req.isSome

/-- The end entry of an ended binding posted once its last request has been answered (R272). -/
def bindingDone (s : State) (b : Nat) : State :=
  match s.closings.find? (fun p => p.subm == b) with
  | none => s
  | some p =>
    if s.cands.any (fun r => r.bind == b) || s.copies.any (fun c => c.bind == b && c.seats.any Seat.waits)
        || s.carries.any (fun c => c.bind == b && c.waits) then s
    else
      let (st, detail, retakes, epoch) := p.closing.getD (0, 0, 0, 0)
      pumpAll (completeFull { s with closings := s.closings.filter fun x => x.subm != b } b st detail retakes epoch)

/-- The miss record of a period (R271). -/
def missRecord (n job : Nat) (late : List Nat) : Bytes :=
  toLE 8 n ++ toLE 2 job ++ toLE 2 late.length ++ List.replicate 52 0 ++ toLE 256 (sumL (late.map (2 ^ ·)))
    ++ List.replicate 192 0

/-- The state with the binding of a number changed. -/
def modBinding (s : State) (b : Nat) (f : Period → Period) : State :=
  { s with periods := s.periods.map fun p => (p.1, if p.2.subm = b then f p.2 else p.2)
           closings := s.closings.map fun p => if p.subm = b then f p else p }

/-- Every request seated in period `n` answered: with a LATE reply among them DEADLINE is raised, the period counted, and
its miss record written on behalf of the function of its partition (R271, R419). -/
def periodDone (s : State) (b n : Nat) : State :=
  match s.copies.find? (fun c => c.bind == b && c.period == n), bindingOf s b with
  | some c, some p =>
    let late := (c.seats.zipIdx.filter fun x => x.1.status == some rpLate && !x.1.gone).map (·.2)
    if c.recorded || late.isEmpty || !(c.seats.all fun x => x.status.isSome || x.gone) then s
    else
      let s := { s with copies := s.copies.map fun d => if d.bind = b ∧ d.period = n then { d with recorded := true } else d }
      let s := raise (bump s (CTL_PERIOD_COUNT_late_periods p.part) 1) CTL_DISP_CAUSE_cause 1
      if p.missEntries = 0 then s
      else
        let s := emitOut s (.hostWrite (p.part + 1) (p.missLog + 512 * (p.missCount % p.missEntries)) (missRecord n p.job late))
        let s := wr s (CTL_PERIOD_LATE_miss_records p.part) (rd s (CTL_PERIOD_LATE_miss_records p.part) + 1)
        modBinding s b fun p => { p with missCount := p.missCount + 1 }
  | _, _ => s

/-! ### Lines and answers -/

/-- The kind byte of a line, a RESULT and a SENT (R337, R369). -/
def kindByte (isCarry : Bool) (plan : Nat) : Nat := b2n isCarry + 4 * plan

/-- A request's line formed in the run of period `n`, once that run has taken a serial, and the report-card identifier of
its REP; zero without a serial (R336 to R338). -/
def formLine (s : State) (b n : Nat) (isCarry : Bool) (plan index status : Nat) (r : Request) (payload : Bytes) :
    State × Bytes :=
  match runOfBind s b n with
  | some (i, x) =>
    (match x.serial with
    | some serial =>
      let l := lineBytes isCarry plan status index r.tag r.ts r.record payload
      (addLine s i ⟨isCarry, plan, index, l⟩, cardId serial index (kindByte isCarry plan) status r.part (leaf l))
    | none => (s, zeroIdent))
  | none => (s, zeroIdent)
where
  /-- The identifier of a REP without a line. -/
  zeroIdent : Bytes := List.replicate 16 0

/-- What module A tells its partner after a REP (R369). -/
def sentNote (s : State) (q : Nat) (run : RunName) (kind index status : Nat) (payload : Bytes) : State :=
  if dblPart s q && !isB s then
    emitOut s (.pairMsg 5 (toBE 2 run.job ++ toBE 4 run.num ++ toBE 1 kind ++ toBE 2 index ++ toBE 1 status
      ++ toBE 1 payload.length ++ payload))
  else s

/-- The state with a seat changed. -/
def modSeat (s : State) (ci k : Nat) (f : Seat → Seat) : State :=
  { s with copies := s.copies.modify ci fun c => { c with seats := c.seats.modify k f } }

/-- The request of a seat answered, exactly once (R270, R296). DEDUCED (log 27). -/
def answerSeat (s : State) (ci k status : Nat) (payload : Bytes) : State :=
  match s.copies[ci]? with
  | none => s
  | some c =>
    match c.seats[k]? with
    | none => s
    | some x =>
      if !x.waits then s
      else
        let r := x.req
        let (s, ident) := formLine s c.bind c.period false 0 k status r payload
        let s := if muted s c.part && !solo s ⟨r.job, c.period⟩ then s else sendRep s r status 0 k (c.period % 2 ^ 32) ident payload
        let s := modSeat s ci k fun y => { y with status := some status, payload := payload }
        let s := if status = rpLate then bump s (CTL_PERIOD_LATE_late_replies c.part) 1 else s
        let s := sentNote s c.part ⟨r.job, c.period⟩ 0 k status payload
        bindingDone (periodDone s c.bind c.period) c.bind

/-- The request of a carry slot answered, with every other carry slot of it: a line belongs to the run whose fill carried
the slot in, the miss to the period in which the request was seated (R271, R295, R337). DEDUCED (log 27). -/
def answerCarry (s : State) (i status : Nat) (payload : Bytes) : State :=
  match s.carries[i]? with
  | none => s
  | some c =>
    match c.req with
    | none => s
    | some r =>
      if c.status.isSome then s
      else
        let (s, ident) := match c.into with
          | some n => formLine s c.bind n true c.plan c.slot status r payload
          | none => (s, List.replicate 16 0)
        let twin : Carry → Bool := fun d => d.bind == c.bind && d.period == c.period && d.seat == c.seat && d.status.isNone
        let s := (s.carries.filter twin).foldl (fun s d => match d.into with
          | some n => (formLine s d.bind n true d.plan d.slot status r payload).1
          | none => s) s
        let own := match c.into with
          | some n => solo s ⟨r.job, n⟩
          | none => false
        let s := if muted s r.part && !own then s else sendRep s r status 0 c.seat (c.period % 2 ^ 32) ident payload
        let s := { s with carries := s.carries.map fun d => if twin d then { d with status := some status, payload := payload } else d }
        let s := match s.copies.findIdx? (fun d => d.bind == c.bind && d.period == c.period) with
          | some ci => modSeat s ci c.seat fun y => { y with status := some status, payload := payload }
          | none => s
        let s := if status = rpLate then bump s (CTL_PERIOD_LATE_late_replies r.part) 1 else s
        let s := match c.into with
          | some n => sentNote s r.part ⟨r.job, n⟩ (kindByte true c.plan) c.slot status payload
          | none => s
        bindingDone (periodDone s c.bind c.period) c.bind

/-- NET_INGEST_STATUS.candidates brought up to date. -/
def syncCands (s : State) : State := wr s NET_INGEST_STATUS_candidates s.cands.length

/-- A candidate answered before it was seated: seat 0xFFFF and a zero identifier, counted where audit is enabled (R293,
R338). -/
def answerCand (s : State) (i status : Nat) (payload : Bytes) : State :=
  match s.cands[i]? with
  | none => s
  | some r =>
    let s := if muted s r.part then s else sendRep s r status 0 0xFFFF 0 (List.replicate 16 0) payload
    let s := syncCands { s with cands := s.cands.eraseIdx i }
    let s := if auditOn s r.part then bump s (AUD_STATS_unseated r.part) 1 else s
    let s := if status = rpLate then bump s (CTL_PERIOD_LATE_late_replies r.part) 1 else s
    bindingDone s r.bind

/-- A request waiting for its reply: a candidate, a seat of a copy, or a carry record, by index. -/
inductive ReqRef where
  | cand (i : Nat)
  | seat (ci k : Nat)
  | carry (i : Nat)
deriving DecidableEq, Repr

/-- The requests waiting for a reply that a test accepts. -/
def waiting (s : State) (f : Request → Bool) : List ReqRef :=
  (s.cands.zipIdx.filterMap fun p => if f p.1 then some (.cand p.2) else none)
    ++ (s.copies.zipIdx.flatMap fun c => c.1.seats.zipIdx.filterMap fun p =>
      if p.1.waits && f p.1.req then some (.seat c.2 p.2) else none)
    ++ (s.carries.zipIdx.filterMap fun p => match p.1.req with
      | some r => if p.1.waits && f r then some (.carry p.2) else none
      | none => none)

/-- A waiting request answered. -/
def answer (s : State) (r : ReqRef) (status : Nat) (payload : Bytes) : State :=
  match r with
  | .cand i => answerCand s i status payload
  | .seat ci k => answerSeat s ci k status payload
  | .carry i => answerCarry s i status payload

/-- The binding of a waiting request. -/
def refBind (s : State) : ReqRef → Nat
  | .cand i => ((s.cands[i]?).map (·.bind)).getD 0
  | .seat ci _ => ((s.copies[ci]?).map (·.bind)).getD 0
  | .carry i => ((s.carries[i]?).map (·.bind)).getD 0

/-- Requests whose deadline bell TIM_TOD has reached, those that module B leaves to its partner apart (R270, R368). -/
def dueReqs (s : State) : List ReqRef := waiting s fun r => decide (r.deadline ≤ tod s) && !follows s r.part

/-- Every deadline bell that TIM_TOD has reached fires: each request is looked up anew, as answering removes candidates
(R36, R270). -/
def fireDeadlines : Nat → State → State
  | 0, s => s
  | k + 1, s =>
    match dueReqs s with
    | [] => s
    | r :: _ => fireDeadlines k (answer s r rpLate (fallbackOf s (refBind s r)))

/-- DEADLINE_BELL: the deadline bell of a request not yet answered: the fallback is sent with status LATE (R270). `req`
counts among the requests whose bell has been reached. DEDUCED (log 23). -/
def execDeadlineBell (req : Nat) (s : State) : Host.Outcome State Fault Refusal :=
  .next <| match (dueReqs s)[req]? with
    | some r => answer s r rpLate (fallbackOf s (refBind s r))
    | none => s

/-- CANDIDATE_DROP: module B drops a candidate that no SEATING named, 1 ms after its deadline bell (R368). -/
def execCandidateDrop (req : Nat) (s : State) : Host.Outcome State Fault Refusal :=
  let due := (s.cands.zipIdx.filter fun p => follows s p.1.part && decide (p.1.deadline + 1000000 ≤ tod s)).map (·.2)
  .next <| match due[req]? with
    | some i =>
      let b := ((s.cands[i]?).map (·.bind)).getD 0
      bindingDone (syncCands { s with cands := s.cands.eraseIdx i }) b
    | none => s

/-- The requests of a list answered CLOSED with the fallback; answering removes candidates, so each is looked up anew. -/
def closeAll : Nat → State → (Request → Bool) → State
  | 0, s, _ => s
  | k + 1, s, f =>
    match waiting s f with
    | [] => s
    | r :: _ => closeAll k (answer s r rpClosed (fallbackOf s (refBind s r))) f

/-- A binding ended: candidates and the requests seated for periods later than the current one receive their fallback with
status CLOSED at once; the end entry is posted once the last request has been answered (R272). -/
def endBinding (s : State) (q status detail retakes epoch : Nat) : State :=
  match Store.get? s.periods q with
  | none => s
  | some p =>
    let p := { p with closing := some (status, detail, retakes, epoch), fallback := fallbackOf s p.subm }
    let s := { s with periods := Store.erase s.periods q, closings := s.closings ++ [p] }
    let s := wrs s [(CTL_PERIOD_NUM_bound q, 0), (CTL_PERIOD_NUM_job_id q, 0)]
    let later : Nat → Bool := fun n => match p.current with
      | some m => decide (m < n)
      | none => true
    let inLater : Request → Bool := fun r => s.copies.any fun c => c.bind == p.subm && later c.period
      && c.seats.any fun x => x.waits && x.req == r
    let isCand : Request → Bool := fun r => s.cands.contains r
    let n := s.cands.length + sumL (s.copies.map (·.seats.length))
    bindingDone (closeAll n s fun r => r.bind == p.subm && (isCand r || inLater r)) p.subm

/-! ### REQ (R287 to R292) -/

/-- How far a sequence lies behind another, modulo 2^32; nothing when it lies ahead. -/
def behind (top seqn : Nat) : Option Nat :=
  let d := (top + 2 ^ 32 - seqn % 2 ^ 32) % 2 ^ 32
  if d < 2 ^ 31 then some d else none

/-- The bytes of the fields present on the wire, by field: offset in the message and width (R289). -/
def wireFields (fs : List FormField) (present off i : Nat) : List (Nat × Nat × FormField) :=
  match fs with
  | [] => []
  | f :: r =>
    if bitOf present i then (i, off, f) :: wireFields r present (off + f.width) (i + 1)
    else wireFields r present off (i + 1)

/-- Whether a present field breaks its range (R290, order 5). -/
def fieldBad (m : Bytes) (lockers : Nat) (off : Nat) (f : FormField) : Bool :=
  let v := fieldBE m off f.width
  if f.kind = 1 then
    let x := signed (8 * f.width) v
    decide (x < signed 64 f.minV) || decide (signed 64 f.maxV < x)
  else if f.kind = 2 then false
  else decide (v < f.minV) || decide (f.maxV < v) || (f.kind == 3 && decide (lockers ≤ v))

/-- The 8 bytes of a field in the decoded record (R291). -/
def recordField (m : Bytes) (present : Nat) (w : List (Nat × Nat × FormField)) (i : Nat) (f : FormField) : Bytes :=
  if bitOf present i then
    match w.find? (fun x => x.1 == i) with
    | some (_, off, _) =>
      if f.kind = 2 then sliceB (sliceB m off f.width) 0 8
      else if f.kind = 1 then toLE 8 (unsigned 64 (signed (8 * f.width) (fieldBE m off f.width)))
      else toLE 8 (fieldBE m off f.width)
    | none => toLE 8 f.dflt
  else toLE 8 f.dflt

/-- The decoded record of a request; byte 0x1C takes the deferred bit when it is seated (R291). -/
def decodedRecord (form : Form) (m : Bytes) (ts port sub : Nat) : Bytes :=
  let present := fieldBE m 0x1C 4
  let w := wireFields form.fields present 0x20 0
  let fields := (form.fields.zipIdx.map fun p => recordField m present w p.2 p.1).flatten
  let locker := fieldLE fields (8 * form.lockerField) 8
  sliceB (toLE 8 ts ++ toLE 8 (fieldBE m 0x10 8) ++ toLE 8 locker ++ toLE 4 present ++ toLE 1 1
    ++ toLE 1 (port + 16 * sub) ++ toLE 2 0 ++ fields) 0 form.recordBytes

/-- The checks of R290: the status and field of the first that fails. DEDUCED (log 26). -/
def reqCheck (s : State) (q : Nat) (m : Bytes) : Option (Nat × Nat) :=
  match (Store.get? s.periods q) with
  | none => some (rpNotBound, 0)
  | some p =>
    if p.job ≠ msgJob m then some (rpNotBound, 0)
    else match (Store.get? s.jobs p.job).bind (·.form) with
      | none => some (rpBadForm, 0)
      | some form =>
        let present := fieldBE m 0x1C 4
        let w := wireFields form.fields present 0x20 0
        let lockers := rd s (LPD_LKS_COUNT_count q)
        if fieldBE m 0x18 2 ≠ form.version then some (rpBadForm, 0)
        else if fieldBE m 6 2 ≠ 16 + sumL (w.map (·.2.2.width)) ∨ 2 ^ form.fields.length ≤ present then some (rpBadLength, 0)
        else match form.fields.zipIdx.find? (fun p => p.1.required && !bitOf present p.2) with
          | some p => some (rpBadField, p.2)
          | none =>
            match w.find? (fun x => fieldBad m lockers x.2.1 x.2.2) with
            | some x => some (rpBadField, x.1)
            | none => if 8192 ≤ s.cands.length then some (rpBusy, 0) else none

/-- The order of candidates (R292). -/
def Request.before (a b : Request) : Bool :=
  decide (a.ts < b.ts) || (a.ts == b.ts && (decide (a.port < b.port) || (a.port == b.port && decide (a.sub < b.sub))))

/-- A request put in its place in a list: behind those it does not come before (R292). -/
def insertReq (l : List Request) (r : Request) : List Request :=
  l.takeWhile (fun c => !r.before c) ++ r :: l.dropWhile (fun c => !r.before c)

/-- A candidate held. -/
def addCand (s : State) (r : Request) : State := syncCands { s with cands := insertReq s.cands r }

/-- The counter of a rejection (R290, R306). -/
def countReject (s : State) (status : Nat) : State :=
  if status = rpBusy then raise (bump s NET_INGEST_MISC_busy 1) NET_CAUSE_cause 5
  else
    let f := if status = rpNotBound then NET_INGEST_REJECT_not_bound else if status = rpBadForm then NET_INGEST_REJECT_bad_form
      else if status = rpBadLength then NET_INGEST_REJECT_bad_length else NET_INGEST_REJECT_bad_field
    raise (bump s f 1) NET_CAUSE_cause 4

/-- A REQ whose sequence was accepted before: its REP sent within reply_hold_ms is sent again, else it is discarded (R287). -/
def dupReq (s : State) (a seqn : Nat) : State :=
  let s := bump (bump s (NET_ASSOC_STAT_dup a) 1) NET_INGEST_MISC_dup 1
  let hold := 1000000 * max 1 (rd s NET_MIOBEL_CFG_reply_hold_ms)
  match s.heldReps.find? (fun h => h.assoc == a && h.seqn == seqn && h.epoch == rd s (NET_ASSOC_CFG_epoch a)
      && decide (s.now ≤ h.sentAt + hold)) with
  | some h =>
    match sendUdp s h.port h.sub h.ip h.udp h.msg with
    | some s => bump s NET_REPLY_STATS_resent 1
    | none => raise (bump s NET_REPLY_STATS_lost 1) NET_CAUSE_cause 6
  | none => s

/-- A REQ that came on a port of no partition: only its REP needs it (R290, R296). -/
def strayReq (s : State) (assoc : Nat) (msg : Bytes) : Request where
  assoc := assoc
  port := rd s (NET_ASSOC_CFG_port assoc)
  sub := rd s (NET_ASSOC_CFG_subport assoc)
  ip := assocIp s assoc
  udp := rd s (NET_ASSOC_CFG_peer_udp assoc)
  seqn := msgSeq msg
  tag := fieldBE msg 0x10 8
  ts := tod s
  locker := 0
  job := msgJob msg
  part := 8
  bind := 0
  deadline := 0
  deferred := false
  record := []
  body := msg

/-- REQ: a request message on a client association: stale and duplicate sequences, the checks of R290, and the candidate
(R287, R290, R292). DEDUCED (log 26). -/
def execReq (assoc : Nat) (msg : Bytes) (s : State) : Host.Outcome State Fault Refusal :=
  let a := assocOf s assoc
  let seqn := msgSeq msg
  let port := rd s (NET_ASSOC_CFG_port assoc)
  let sub := rd s (NET_ASSOC_CFG_subport assoc)
  .next <|
    if !on s (NET_ASSOC_CFG_valid assoc) || on s (NET_ASSOC_CFG_kind assoc) || msgType msg != mtReq
        || msgEpoch msg != rd s (NET_ASSOC_CFG_epoch assoc) then s
    else
      let stale := match a.top with
        | some t => (match behind t seqn with
          | some d => decide (4095 < d)
          | none => false)
        | none => false
      if stale then bump (bump s (NET_ASSOC_STAT_stale assoc) 1) NET_INGEST_MISC_stale 1
      else if a.seen.contains seqn then dupReq s assoc seqn
      else
        let newTop := match a.top with
          | some t => if (behind t seqn).isSome then t else seqn
          | none => seqn
        let s := modAssoc s assoc fun x => { x with top := some newTop, seen := (seqn :: x.seen).take 4096 }
        match partOfPort s port with
        | none => sendRep (countReject s rpNotBound) (strayReq s assoc msg) rpNotBound 0 0xFFFF 0 (List.replicate 16 0) []
        | some q =>
          let p := Store.get? s.periods q
          let form := (p.bind fun p => Store.get? s.jobs p.job).bind (·.form)
          let r : Request :=
            { assoc := assoc, port := port, sub := sub, ip := assocIp s assoc, udp := rd s (NET_ASSOC_CFG_peer_udp assoc)
              seqn := seqn, tag := fieldBE msg 0x10 8, ts := tod s, locker := 0, job := msgJob msg, part := q
              bind := (p.map (·.subm)).getD 0, deadline := tod s + 1000 * (p.map (·.deadlineUs)).getD 0
              deferred := false, record := [], body := msg }
          match reqCheck s q msg, form with
          | some (st, f), _ =>
            let s := countReject s st
            if muted s q then s else sendRep s r st f 0xFFFF 0 (List.replicate 16 0) []
          | none, some form =>
            let d := decodedRecord form msg (tod s) port sub
            addCand s { r with record := d, locker := fieldLE d 0x10 8 }
          | none, none => s

/-! ### Seat copies (R293, R294) -/

/-- The size of one copy before rounding (R294). -/
def copyBytes (seats recordBytes carryPlans : Nat) : Nat := 512 + seats * (recordBytes + 64) + carryPlans * 131072

/-- S: the size of one copy rounded up to 512 (R294). -/
def copySize (seats recordBytes carryPlans : Nat) : Nat := (copyBytes seats recordBytes carryPlans + 511) / 512 * 512

/-- The plans of a job with carry slots, in plan order. -/
def carryPlans (j : Job) : List Nat := (j.plans.filter fun p => decide (0 < p.carryCap)).map (·.plan)

/-- The first address of the copy of period `n`. -/
def copyBase (s : State) (j : Job) (f : Form) (n : Nat) : Nat :=
  ((j.regions[f.seatRegion]?).map (·.addr)).getD 0 + 512 + n % 2 * copySize s.part.seats f.recordBytes (carryPlans j).length

/-- The address of the reply entry of a seat. -/
def replyAddr (s : State) (j : Job) (f : Form) (n k : Nat) : Nat :=
  copyBase s j f n + 512 + s.part.seats * f.recordBytes + 64 * k

/-- The address of the reply entry of a carry slot. -/
def carryReplyAddr (s : State) (j : Job) (f : Form) (n plan slot : Nat) : Nat :=
  copyBase s j f n + 512 + s.part.seats * (f.recordBytes + 64) + 131072 * ((carryPlans j).idxOf plan) + 64 * slot

/-- The record of a request as its seat holds it (R291). -/
def seatedRecord (r : Request) : Bytes := patchB r.record 0x1C (toLE 1 (1 + 2 * b2n r.deferred))

/-- A seat just filled. -/
def Seat.fresh (r : Request) : Seat := ⟨{ r with record := seatedRecord r }, none, [], false, false, false, false, false⟩

/-- The copy of a period written whole, then the index word (R294). -/
def writeCopy (s : State) (p : Period) (n close deferred : Nat) (placed : List Request) : State :=
  match (Store.get? s.jobs p.job) with
  | none => s
  | some j =>
    match j.form with
    | none => s
    | some f =>
      let base := copyBase s j f n
      let s := zeroSpan s base (copyBytes s.part.seats f.recordBytes (carryPlans j).length)
      let s := writeOther s base (toLE 8 n ++ toLE 2 placed.length ++ toLE 2 deferred ++ toLE 4 0 ++ toLE 8 close)
      let seats := placed.map Seat.fresh
      let s := seats.zipIdx.foldl (fun s x => writeOther s (base + 512 + x.2 * f.recordBytes) x.1.req.record) s
      let s := writeOther s (((j.regions[f.seatRegion]?).map (·.addr)).getD 0) (toLE 8 (n % 2 + n % 2 ^ 32 * 2 ^ 32))
      let old := s.copies.filter fun c => c.bind != p.subm || decide (n < c.period + 4) || c.seats.any Seat.waits || !c.recorded
      let s := { s with copies := old ++ [⟨p.subm, p.part, n, close, seats, false, false⟩] }
      let s := modBinding s p.subm fun p => { p with lastSeat := some n }
      wrs s [(NET_INGEST_STATUS_seated_last, placed.length), (NET_INGEST_STATUS_deferred_last, deferred)]

/-- The loop of R293: seats filled in order, the lockers held, the candidates kept. -/
def seatLoop (seats close : Nat) : List Request → List Request → List Nat → List Request → Nat →
    List Request × List Request × Nat
  | [], placed, _, kept, d => (placed.reverse, kept.reverse, d)
  | c :: r, placed, held, kept, d =>
    if close ≤ c.ts then (placed.reverse, kept.reverse ++ c :: r, d)
    else if placed.length = seats ∨ held.contains c.locker then
      seatLoop seats close r placed held ({ c with deferred := true } :: kept) (d + 1)
    else seatLoop seats close r (c :: placed) (c.locker :: held) kept d

/-- The requests that a skipped seating placed and that are not answered go back to the candidates (R267, R293).
DEDUCED (log 27). -/
def returnSkipped (s : State) (b : Nat) : State :=
  let back := (s.copies.filter fun c => c.bind == b && c.skipped).flatMap fun c => (c.seats.filter Seat.waits).map (·.req)
  let s := { s with copies := s.copies.map fun c =>
    if c.bind = b ∧ c.skipped then { c with seats := c.seats.map fun x => if x.waits then { x with gone := true } else x } else c }
  back.foldl (fun s r => addCand s { r with deferred := true }) s

/-- A seat as SEATING names it (R368). -/
def seatRef (r : Request) : Bytes :=
  toBE 16 r.ip ++ toBE 2 r.udp ++ toBE 4 r.seqn ++ toBE 8 r.ts ++ toBE 1 r.port ++ toBE 1 r.sub

/-- The seating of period `n` made from the candidates held, and told to a doubles partner (R293, R368). -/
def seatNow (s : State) (p : Period) (n : Nat) : State :=
  let close := p.firstStart + n * p.periodNs - 2000
  let s := returnSkipped s p.subm
  let carried := (s.carries.filter fun c => c.bind == p.subm && c.outPeriod + 1 == n).map (·.locker)
  let mine := s.cands.filter fun r => r.bind == p.subm
  let (placed, kept, d) := seatLoop s.part.seats close mine [] carried [] 0
  let s := syncCands { s with cands := (s.cands.filter fun r => r.bind != p.subm).foldl insertReq kept }
  let s := bump (writeCopy s p n close d placed) NET_INGEST_MISC_deferred d
  if dblPart s p.part && !isB s then emitOut s (.pairMsg 2 (toBE 4 n ++ (placed.map seatRef).flatten)) else s

/-- Whether the seating of period `n` is due: 1 µs after its close, its start bell still to come, no later one made, and its
close not passed by a forward step (R25, R36, R293). -/
def seatDue (s : State) (p : Period) (n : Nat) : Bool :=
  let bell := p.firstStart + n * p.periodNs
  decide (bell ≤ tod s + 1000) && decide (tod s < bell) && decide (p.nextStart ≤ n) && decide (p.seatFrom ≤ n)
    && (match p.lastSeat with
      | some m => decide (m < n)
      | none => true)

/-- SEAT_PERIOD: net die 0 seats the candidates of a period in order and writes its copy; module B of a doubles partition
leaves it to its partner (R293, R368). -/
def execSeatPeriod (q n : Nat) (s : State) : Host.Outcome State Fault Refusal :=
  .next <| match Store.get? s.periods q with
    | none => s
    | some p =>
      if ((Store.get? s.jobs p.job).bind (·.form)).isNone || !seatDue s p n || follows s q then s
      else seatNow s p n

/-! ### Scores (R297, R298, R369) -/

/-- Whether a reply entry is bad: a reserved bit set or a length above 32 (R297). -/
def entryBad (e : Bytes) : Bool := decide (1 < fieldLE e 0 1) || decide (32 < fieldLE e 1 1) || !allZero (sliceB e 2 30)

/-- The first 16 bytes of the digest of a result (R369). -/
def resultItem (kind index : Nat) (payload : Bytes) : Bytes :=
  (sha384 (toLE 1 kind ++ toLE 2 index ++ toLE 1 payload.length ++ sliceB payload 0 32)).take 16

/-- Whether an item is the result of a run at a kind and index. -/
def DblItem.is (x : DblItem) (run : RunName) (kind index : Nat) : Bool := x.run == run && x.kind == kind && x.idx == index

/-- The waiting request of a result: a seat of the run's period, or the carry slot carried into it. -/
def refOf (s : State) (run : RunName) (kind index : Nat) : Option ReqRef :=
  if kind % 4 = 1 then
    (s.carries.findIdx? fun c => c.job == run.job && c.into == some run.num && c.plan == kind / 4 && c.slot == index && c.waits).map
      .carry
  else
    match s.copies.findIdx? (fun c => c.period == run.num && c.seats.any fun x => x.req.job == run.job) with
    | some ci => if ((s.copies[ci]?).bind fun c => (c.seats[index]?).map Seat.waits) == some true then some (.seat ci index) else none
    | none => none

/-- The deadline bell of a waiting request. -/
def refDeadline (s : State) : ReqRef → Nat
  | .cand i => ((s.cands[i]?).map (·.deadline)).getD 0
  | .seat ci k => ((s.copies[ci]?).bind fun c => (c.seats[k]?).map (·.req.deadline)).getD 0
  | .carry i => ((s.carries[i]?).bind fun c => c.req.map (·.deadline)).getD 0

/-- A result of both modules: equal items release the REP at module A while the deadline bell has not come; items that
differ mark the run, and the seat is never released; results of a run whose results are withheld are counted (R369,
R371). -/
def tryRelease (s : State) (run : RunName) (kind index : Nat) : State :=
  match s.dbl.mine.find? (·.is run kind index), s.dbl.theirs.find? (·.is run kind index) with
  | some a, some b =>
    if a.item ≠ b.item then
      { s with dbl := { s.dbl with disagreed := if s.dbl.disagreed.contains run then s.dbl.disagreed else run :: s.dbl.disagreed } }
    else if isB s then s
    else if s.dbl.broken.contains run then bump s DBL_STATS_withheld 1
    else match refOf s run kind index with
      | some r =>
        if tod s < refDeadline s r then answer s r rpScored a.payload
        else bump s (CTL_PERIOD_LATE_late_scores (((bindingOf s (refBind s r)).map (·.part)).getD 0)) 1
      | none => s
  | _, _ => s

/-- A valid score found for a waiting request: sent as SCORED, or in a doubles run offered to the partner (R297, R369). -/
def offer (s : State) (r : ReqRef) (q : Nat) (run : RunName) (kind index : Nat) (payload : Bytes) : State :=
  if dblPart s q && !solo s run then
    if s.dbl.mine.any (·.is run kind index) then s
    else
      let item := resultItem kind index payload
      let s := { s with dbl := { s.dbl with mine := s.dbl.mine ++ [⟨run, kind, index, item, payload⟩] } }
      let s := emitOut s (.pairMsg 4 (toBE 2 run.job ++ toBE 4 run.num ++ toBE 1 kind ++ toBE 2 index ++ item))
      tryRelease s run kind index
  else answer s r rpScored payload

/-- The reply entry of a seat examined (R270, R297). -/
def scanSeat (s : State) (j : Job) (f : Form) (ci k : Nat) : State :=
  match s.copies[ci]? with
  | none => s
  | some c =>
    match c.seats[k]? with
    | none => s
    | some x =>
      let late := x.status == some rpLate && !x.lateScored
      if x.gone || x.carried || !(x.status.isNone || late) then s
      else
        let e := readBytes s (replyAddr s j f c.period k) 64
        if entryBad e then
          if x.badSeen then s else modSeat (bump s NET_REPLY_STATS_bad 1) ci k fun y => { y with badSeen := true }
        else if fieldLE e 0 1 = 0 then s
        else if x.status.isNone ∧ tod s < x.req.deadline then
          offer s (.seat ci k) c.part ⟨x.req.job, c.period⟩ 0 k (sliceB e 0x20 (fieldLE e 1 1))
        else if x.lateScored then s
        else modSeat (bump s (CTL_PERIOD_LATE_late_scores c.part) 1) ci k fun y => { y with lateScored := true }

/-- The reply entry of a carry slot examined (R295, R297). -/
def scanCarry (s : State) (j : Job) (f : Form) (i : Nat) : State :=
  match s.carries[i]? with
  | none => s
  | some x =>
    match x.into, x.req with
    | some n, some r =>
      let late := x.status == some rpLate && !x.lateScored
      if !(x.status.isNone || late) then s
      else
        let e := readBytes s (carryReplyAddr s j f n x.plan x.slot) 64
        if entryBad e then
          if x.badSeen then s
          else { bump s NET_REPLY_STATS_bad 1 with carries := s.carries.modify i fun y => { y with badSeen := true } }
        else if fieldLE e 0 1 = 0 then s
        else if x.status.isNone ∧ tod s < r.deadline then
          offer s (.carry i) r.part ⟨r.job, n⟩ (kindByte true x.plan) x.slot (sliceB e 0x20 (fieldLE e 1 1))
        else if x.lateScored then s
        else { bump s (CTL_PERIOD_LATE_late_scores r.part) 1 with
               carries := s.carries.modify i fun y => { y with lateScored := true } }
    | _, _ => s

/-- Whether a copy can still be read: its run has kicked off, and the copy after the next has not been written (R294). -/
def copyLive (s : State) (p : Period) (c : Copy) : Bool :=
  c.bind == p.subm && !c.skipped
    && (match p.lastSeat with
      | some m => decide (m < c.period + 2)
      | none => true)
    && (match runOfBind s c.bind c.period with
      | some (_, x) => x.phase != .pending
      | none => false)

/-- The reply counter of a binding's job. -/
def replyCtr (s : State) (p : Period) : Option Nat := ((Store.get? s.jobs p.job).bind (·.form)).map (·.replyCtr)

/-- REPLY_SCAN: on an increment of a binding's reply_ctr, every entry of the copy that belongs to a request not yet
answered is read, and the valid ones are sent as SCORED (R297, R298). -/
def execReplyScan (q : Nat) (s : State) : Host.Outcome State Fault Refusal :=
  let ps := ((s.periods.map (·.2)) ++ s.closings).filter fun p => p.part == q
  .next <| match ps.find? (fun p => (replyCtr s p).any fun c => s.netNotes.contains c) with
    | none => s
    | some p =>
      match Store.get? s.jobs p.job with
      | none => s
      | some j =>
        match j.form with
        | none => s
        | some f =>
          let s := { s with netNotes := s.netNotes.erase f.replyCtr }
          let live := (s.copies.zipIdx.filter fun c => copyLive s p c.1).map fun c => (c.2, c.1.seats.length)
          let s := live.foldl (fun s c => (List.range c.2).foldl (fun s k => scanSeat s j f c.1 k) s) s
          let cs := (s.carries.zipIdx.filter fun x => x.1.bind == p.subm && (match x.1.into with
            | some n => s.copies.any fun c => c.period == n && copyLive s p c
            | none => false)).map (·.2)
          cs.foldl (fun s i => scanCarry s j f i) s

end Sys2Proof.Machine
end

