-- ==== Sys2Proof/Machine/Spu.lean ====
section
/-! DEFINITION. The seating plan unit: routing entries, fills, the bin table, carried state
(05_sparsity_and_routing.md, R133 to R142). -/

namespace Sys2Proof.Machine

/-- The state with a bound plan changed. -/
def modPlan (s : State) (p : Nat) (f : PlanSt → PlanSt) : State :=
  match Store.get? s.plans p with
  | some x => { s with plans := Store.set s.plans p (f x) }
  | none => s

/-- NET_SPU_STATUS.bound, busy and filling brought up to date. -/
def syncSpu (s : State) : State :=
  wrs s [(NET_SPU_STATUS_bound, sumL (s.plans.map fun p => 2 ^ p.1)), (NET_SPU_STATUS_busy, b2n !s.spuFills.isEmpty),
    (NET_SPU_STATUS_filling, (s.spuFills.head?.map (·.plan)).getD 0)]

/-- The run in progress of a plan's job. -/
def runOfPlan (s : State) (x : PlanSt) : Option Nat := (runningRun s x.job).map (·.1)

/-! ### Binding and carried state -/

/-- The carried entries of a plan that its next fill would carry in. -/
def carriedIn (s : State) (p : Nat) : List Carry := s.carries.filter fun c => c.plan == p && c.into.isNone && !c.dead

/-- The carried state of a plan discarded: its entries counted, CARRY_DISCARDED raised, carry_lost for the next fill (R139). -/
def discardCarry (s : State) (p : Nat) : State :=
  let n := (carriedIn s p).length
  if n = 0 then s
  else
    let s := raise (bump s (NET_SPU_MISC_carry_discarded p) n) NET_SPU_CAUSE_cause 7
    let s := { s with
      carries := s.carries.map fun c => if c.plan = p ∧ c.into = none ∧ c.dead = false then { c with dead := true } else c
      lostCarry := p :: s.lostCarry.filter (· != p) }
    modPlan s p fun x => { x with carryLost := true }

/-- The plans of a job that are bound. -/
def plansOf (s : State) (j : Nat) : List Nat := (s.plans.filter fun p => p.2.job == j).map (·.1)

/-- The carried state of a job's plans discarded, with the fills of the job that wait or run (R139). DEDUCED (log 28). -/
def discardJobCarry (s : State) (j : Nat) : State :=
  let ps := plansOf s j
  syncSpu (ps.foldl discardCarry { s with spuFills := s.spuFills.filter fun f => !ps.contains f.plan })

/-- A plan's registers cleared, as at its binding (R142). -/
def clearPlanRegs (s : State) (p : Nat) : State :=
  wrs s [(NET_SPU_FILL_placed p, 0), (NET_SPU_FILL_carried_in p, 0), (NET_SPU_FILL_carried_out p, 0), (NET_SPU_FILL_dropped p, 0),
    (NET_SPU_TOTAL_fills p, 0), (NET_SPU_TOTAL_dropped_total p, 0), (NET_SPU_REJECT_late p, 0), (NET_SPU_REJECT_bad_seat p, 0),
    (NET_SPU_REJECT_bad_bin p, 0), (NET_SPU_REJECT_over_limit p, 0), (NET_SPU_MISC_duplicates p, 0),
    (NET_SPU_MISC_carry_discarded p, 0), (NET_SPU_MISC_forced p, 0)]

/-- The plans of a job bound (R133, R347). -/
def bindPlans (s : State) (j : Nat) (x : Job) (replay : Bool) : State :=
  syncSpu (x.plans.foldl (fun s p =>
    let st : PlanSt :=
      { job := j, bins := p.bins, capacity := p.capacity, carryCap := p.carryCap
        senders := (rangeFrom p.firstSender p.senders).map fun k => x.tiles.getD k 0xFFF
        maxRoutes := p.maxRoutes, fillBell := p.fillBell, regionAddr := ((x.regions[p.region]?).map (·.addr)).getD 0
        doneCtr := p.doneCtr, replay := replay, fills := 0, period := 0, held := [], ended := [], begun := true
        rejected := 0, rejSeats := [], carryLost := s.lostCarry.contains p.plan }
    clearPlanRegs { s with plans := Store.set s.plans p.plan st } p.plan) s)

/-- The plans of a job unbound, their carried state discarded (R139). DESIGN CHOICE (log 21). -/
def unbindPlans (s : State) (j : Nat) : State :=
  let ps := plansOf s j
  let s := discardJobCarry s j
  syncSpu { s with plans := s.plans.filter fun p => !ps.contains p.1 }

/-- The job that holds one of an image's plan numbers, other than job `j`. DESIGN CHOICE (log 21). -/
def planHolder (s : State) (j : Nat) (x : Job) : Option Nat :=
  (s.plans.find? fun p => p.2.job != j && x.plans.any fun r => r.plan == p.1).map (·.2.job)

/-- A plan ready for the entries of period `n`. -/
def planStart (s : State) (p n : Nat) : State :=
  modPlan s p fun x => { x with period := n, held := [], ended := [], begun := false, rejected := 0, rejSeats := [] }

/-! ### Fills -/

/-- The entries a fill keeps: of each seat the `m` lowest bins (R136); and those it discards. -/
def keepLowest (m : Nat) (held : List (Nat × Nat × Nat)) : List (Nat × Nat × Nat) × List (Nat × Nat × Nat) :=
  held.partition fun e => decide ((held.filter fun g => g.1 == e.1 && decide (g.2.1 < e.2.1)).length < m)

/-- The first rejection recorded, until its cause is cleared (R142). -/
def noteReject (s : State) (seat bin plan reason sender : Nat) : State :=
  if on s NET_SPU_ERR_INFO_valid then s else
    wrs s [(NET_SPU_ERR_INFO_seat, seat), (NET_SPU_ERR_INFO_bin, bin), (NET_SPU_ERR_INFO_plan, plan),
      (NET_SPU_ERR_INFO_reason, reason), (NET_SPU_ERR_INFO_sender, sender), (NET_SPU_ERR_INFO_valid, 1)]

/-- A plan's fill begins: entries beyond max_routes are discarded, and the fill waits for those before it (R136, R141). -/
def beginFill (s : State) (p : Nat) (forced : Bool) : State :=
  match Store.get? s.plans p with
  | none => s
  | some x =>
    if x.begun then s
    else
      let (kept, over') := keepLowest x.maxRoutes x.held
      let s := over'.foldl (fun s e =>
        raise (bump (noteReject s e.1 e.2.1 p 3 e.2.2) (NET_SPU_REJECT_over_limit p) 1) NET_SPU_CAUSE_cause 4) s
      let f : Fill := ⟨p, forced, x.period, kept, x.rejected + over'.length, x.rejSeats ++ over'.map (·.1)⟩
      let s := modPlan { s with spuFills := s.spuFills ++ [f] } p fun y => { y with begun := true }
      let s := if forced then
          let s := raise (bump s (NET_SPU_MISC_forced p) 1) NET_SPU_CAUSE_cause 0
          match runOfPlan s x with
          | some r => modRun s r fun y => { y with forcedFill := true }
          | none => s
        else s
      syncSpu s

/-- The fills of a job's plans that the start bell of its next period forces (R136). -/
def forceFills (s : State) (j : Nat) : State :=
  (plansOf s j).foldl (fun s p => match Store.get? s.plans p with
    | some x => if x.replay then s else beginFill s p true
    | none => s) s

/-- FILL_BELL: TIM_TOD has reached a plan's fill bell of its current period (R136). DEDUCED (log 28). -/
def execFillBell (plan : Nat) (s : State) : Host.Outcome State Fault Refusal :=
  .next <| match Store.get? s.plans plan with
    | none => s
    | some x =>
      match s.periods.find? (fun p => p.2.job == x.job), Store.get? s.jobs x.job with
      | some (_, p), some j =>
        (match j.marks[x.fillBell]? with
        | some off => if !x.replay ∧ p.firstStart + x.period * p.periodNs + off ≤ tod s then beginFill s plan true else s
        | none => s)
      | _, _ => s

/-- Whether a seat of a plan's current period holds a request (R135, R347). -/
def seatTaken (s : State) (x : PlanSt) (seat : Nat) : Bool :=
  if x.replay then
    match runningRun s x.job with
    | some (_, r) => r.replay.any fun p => p.1 == seat
    | none => false
  else
    match s.periods.find? (fun p => p.2.job == x.job) with
    | some (_, p) => s.copies.any fun c => c.bind == p.subm && c.period == x.period && decide (seat < c.seats.length)
    | none => false

/-- A routing entry rejected: counted, its cause raised, the first recorded (R135): reason 0 late, 1 bad seat, 2 bad bin. -/
def rejectEntry (s : State) (p seat bin reason sender : Nat) : State :=
  let f := if reason = 0 then NET_SPU_REJECT_late p else if reason = 1 then NET_SPU_REJECT_bad_seat p else NET_SPU_REJECT_bad_bin p
  let s := raise (bump (noteReject s seat bin p reason sender) f 1) NET_SPU_CAUSE_cause (1 + reason)
  modPlan s p fun x => { x with rejected := x.rejected + 1, rejSeats := seat :: x.rejSeats }

/-- A routing entry taken by the SPU (R134, R135); the last end marker begins the fill (R136). An end marker whose seat or bin is not 0
is rejected with ROUTE_BAD_BIN and ends nothing. DESIGN CHOICE (log 28): R134 only says that they must be 0. -/
def takeEntry (s : State) (t w : Nat) : State :=
  let seat := bitsOf w 0 16
  let bin := bitsOf w 16 8
  let p := bitsOf w 24 2
  let ends := bitOf w 26
  match Store.get? s.plans p with
  | none => rejectEntry s p seat bin 2 t
  | some x =>
    if w / 2 ^ 28 ≠ 0 ∨ !x.senders.contains t ∨ (ends ∧ (seat ≠ 0 ∨ bin ≠ 0)) then rejectEntry s p seat bin 2 t
    else if bitsOf w 27 1 ≠ x.period % 2 then rejectEntry s p seat bin 0 t
    else if x.ended.contains t ∨ x.begun then rejectEntry s p seat bin 0 t
    else if ends then
      let s := modPlan s p fun y => { y with ended := t :: y.ended }
      if x.senders.all (fun u => u == t || x.ended.contains u) then beginFill s p false else s
    else if s.part.seats ≤ seat ∨ !seatTaken s x seat then rejectEntry s p seat bin 1 t
    else if x.bins ≤ bin then rejectEntry s p seat bin 2 t
    else if x.held.any (fun e => e.1 == seat && e.2.1 == bin) then
      raise (bump s (NET_SPU_MISC_duplicates p) 1) NET_SPU_CAUSE_cause 5
    else modPlan s p fun y => { y with held := (seat, bin, t) :: y.held }

/-- Whether an item is a routing entry of a tile. -/
def isRoute (t : Nat) (i : Item) : Bool :=
  i.src == t && (match i.cargo with
    | .route _ => true
    | _ => false)

/-- ROUTE_ENTRY: the oldest routing entry on its way from a tile reaches the SPU (R134, R135); one of an earlier run is
discarded. DESIGN CHOICE (log 8); DEDUCED (log 16, 28). -/
def execRouteEntry (t : Nat) (s : State) : Host.Outcome State Fault Refusal :=
  .next <| match takeItem s (isRoute t) with
    | some (i, s') =>
      let s' := if i.job = jobOfTile s' t ∧ i.epoch = epochOfTile s' t then modTile s' t fun x => { x with aidOut := x.aidOut - 1 } else s'
      (match i.cargo with
      | .route w => if Store.getD s'.epochs i.job 0 = i.epoch then takeEntry s' t w else s'
      | _ => s)
    | none => s

/-! ### The bin table (R136 to R140) -/

/-- A bin after the pass of R136: the carry slots carried in, the seats placed, carried out and dropped. -/
structure BinFill where
  carryIn : List Nat
  placed : List Nat
  out : List Nat
  dropped : List Nat
deriving DecidableEq, Repr

/-- The pass of R136 for one bin. -/
def fillBin (capacity carryCap : Nat) (cin seats : List Nat) : BinFill :=
  let room := capacity - cin.length
  ⟨cin, seats.take room, (seats.drop room).take carryCap, (seats.drop room).drop carryCap⟩

/-- The bins of a fill. -/
def fillBins (s : State) (x : PlanSt) (f : Fill) : List BinFill :=
  (List.range x.bins).map fun b =>
    fillBin x.capacity x.carryCap (sortBy id (((carriedIn s f.plan).filter fun c => c.bin == b).map (·.slot)))
      (sortBy id ((f.held.filter fun e => e.2.1 == b).map (·.1)))

/-- A byte string padded with zeros to a multiple of 64. -/
def pad64 (b : Bytes) : Bytes := sliceB b 0 ((b.length + 63) / 64 * 64)

/-- The slot entries of a bin (R140). -/
def slotBytes (capacity : Nat) (b : BinFill) : Bytes :=
  let l := b.carryIn.map (· + 0x10000) ++ b.placed
  (l ++ List.replicate (capacity - l.length) 0x20000).flatMap fun v => toLE 4 v

/-- The carry slot of position `i` of bin `b` in fill `f` (R137). -/
def carrySlot (x : PlanSt) (f b i : Nat) : Nat := f % 2 * x.bins * x.carryCap + b * x.carryCap + i

/-- The carry-out entries of a bin. -/
def carryBytes (x : PlanSt) (f b : Nat) (c : BinFill) : Bytes :=
  (List.range x.carryCap).flatMap fun i => toLE 4 ((c.out.getD i 0xFFFF) + 2 ^ 16 * carrySlot x f b i)

/-- The status byte of a seat (R140). -/
def seatStatus (bins : List BinFill) (rej : List Nat) (seat : Nat) : Nat :=
  b2n (bins.any fun b => b.placed.contains seat) + 2 * b2n (bins.any fun b => b.out.contains seat)
    + 4 * b2n (bins.any fun b => b.dropped.contains seat) + 8 * b2n (rej.contains seat)

/-- The bytes of a bin table (R140). -/
def binTable (s : State) (x : PlanSt) (f : Fill) (bins : List BinFill) : Bytes :=
  let cin := sumL (bins.map (·.carryIn.length))
  let placed := cin + sumL (bins.map (·.placed.length))
  let header := toLE 4 f.period ++ toLE 4 x.fills ++ toLE 1 f.plan ++ toLE 1 (b2n f.forced + 2 * b2n x.carryLost)
    ++ toLE 2 x.bins ++ toLE 2 x.capacity ++ toLE 2 x.carryCap ++ toLE 2 placed ++ toLE 2 cin
    ++ toLE 2 (sumL (bins.map (·.out.length))) ++ toLE 2 (sumL (bins.map (·.dropped.length))) ++ toLE 2 f.rejected
    ++ List.replicate 38 0
  header ++ pad64 (bins.flatMap fun b => toLE 2 (b.carryIn.length + b.placed.length))
    ++ pad64 (bins.flatMap (slotBytes x.capacity)) ++ pad64 (bins.zipIdx.flatMap fun p => carryBytes x x.fills p.2 p.1)
    ++ pad64 ((List.range s.part.seats).map fun k => BitVec.ofNat 8 (seatStatus bins f.rejSeats k))

/-- The run of a replay fill and the record of one of its seats, an occupied one (R347). -/
def replaySeat (s : State) (x : PlanSt) (seat : Nat) : Option (Nat × Bytes) :=
  if !x.replay then none
  else (runOfPlan s x).bind fun r => ((Store.get? s.runs r).bind fun y => y.replay.find? (·.1 == seat)).map fun p => (r, p.2)

/-- The line of status CARRIED of a seat that a replay run carries out; its kickoff took a serial (R336, R337, R348).
DEDUCED (log 27). -/
def replayCarried (s : State) (r seat : Nat) (b : Bytes) : State :=
  if (Store.get? s.runs r).any fun y => y.serial.isSome then
    addLine s r ⟨false, 0, seat, lineBytes false 0 3 seat (fieldLE b 8 8) (fieldLE b 0 8) b []⟩
  else s

/-- What a replay run's fill carries in, noted with its run (R340, R348). -/
def noteCarryIn (s : State) (x : PlanSt) (p : Nat) : State :=
  if !x.replay then s
  else match runOfPlan s x with
    | some r => modRun s r fun y => { y with carryIn := y.carryIn ++ (carriedIn s p).map fun c => (c.plan, c.slot, c.record) }
    | none => s

/-- A seat carried out: its carry record, and its line of status CARRIED (R295, R337). -/
def carryOut (s : State) (x : PlanSt) (f : Fill) (b i seat : Nat) : State :=
  let slot := carrySlot x x.fills b i
  let p := s.periods.find? fun p => p.2.job == x.job
  let bind := (p.map (·.2.subm)).getD 0
  let ci := if x.replay then none else s.copies.findIdx? fun c => c.bind == bind && c.period == f.period
  let st := (ci.bind fun ci => s.copies[ci]?).bind fun c => c.seats[seat]?
  let req := st.bind fun y => if y.status.isSome then none else some y.req
  let again := replaySeat s x seat
  let c : Carry :=
    { plan := f.plan, slot := slot, bin := b, job := x.job, bind := bind, seat := seat, period := f.period
      outPeriod := f.period, locker := ((st.map (·.req.locker)).getD 0), req := req
      record := (again.map (·.2)).getD ((st.map (·.req.record)).getD []), into := none, dead := false, status := none
      payload := [], differs := false, lateScored := false, badSeen := false }
  let s := { s with carries := (s.carries.filter fun d => d.waits || d.plan != f.plan || decide (f.period < d.outPeriod + 4)) ++ [c] }
  match ci, req, again with
  | some ci, some r, _ =>
    let s := (formLine s bind f.period false 0 seat 3 r []).1
    modSeat s ci seat fun y => { y with carried := true }
  | _, _, some (r, b) => replayCarried s r seat b
  | _, _, none => s

/-- SPU_FILL_DONE: the fill that runs has placed its entries: the whole copy is written, then the index word, then done_ctr
is incremented; the next waiting fill may begin (R136 to R141). DEDUCED (log 28). -/
def execSpuFillDone (s : State) : Host.Outcome State Fault Refusal :=
  .next <| match s.spuFills with
    | [] => s
    | f :: rest =>
      let s := { s with spuFills := rest }
      match Store.get? s.plans f.plan with
      | none => syncSpu s
      | some x =>
        let bins := fillBins s x f
        let table := binTable s x f bins
        let size := (table.length + 511) / 512 * 512
        let s := writeOther s (x.regionAddr + 512 + x.fills % 2 * size) table
        let s := writeOther s x.regionAddr (toLE 8 (x.fills % 2 + x.fills % 2 ^ 32 * 2 ^ 32))
        let s := noteCarryIn s x f.plan
        let s := { s with carries := s.carries.map fun c =>
          if c.plan = f.plan ∧ c.into = none ∧ c.dead = false then { c with into := some f.period } else c }
        let s := bins.zipIdx.foldl (fun s b => b.1.out.zipIdx.foldl (fun s o => carryOut s x f b.2 o.2 o.1) s) s
        let drops := sumL (bins.map (·.dropped.length))
        let s := if drops = 0 then s else raise (bump s (NET_SPU_TOTAL_dropped_total f.plan) drops) NET_SPU_CAUSE_cause 6
        let cin := sumL (bins.map (·.carryIn.length))
        let s := wrs (bump s (NET_SPU_TOTAL_fills f.plan) 1) [(NET_SPU_FILL_placed f.plan, cin + sumL (bins.map (·.placed.length))),
          (NET_SPU_FILL_carried_in f.plan, cin), (NET_SPU_FILL_carried_out f.plan, sumL (bins.map (·.out.length))),
          (NET_SPU_FILL_dropped f.plan, drops), (NET_SPU_STATUS_last_period, f.period), (NET_SPU_STATUS_last_plan, f.plan),
          (NET_SPU_STATUS_last_forced, b2n f.forced)]
        let s := match runOfPlan s x with
          | some r => if x.carryLost then modRun s r fun y => { y with carryLost := true } else s
          | none => s
        let s := modPlan { s with lostCarry := s.lostCarry.filter (· != f.plan) } f.plan fun y => { y with fills := y.fills + 1, carryLost := false }
        let s := sendItem s ⟨.incr x.doneCtr 1 0 0 false, 0xFFF, 0xFFF, x.job, Store.getD s.epochs x.job 0, s.now⟩
        syncSpu s

end Sys2Proof.Machine
end

