-- ==== Sys2Proof/Machine/Grading.lean ====
section
/-! DEFINITION. The grading engines: arming, posts, reductions, update rules, aborts
(12_grading_engine.md, R308 to R327; 11_network_and_ingest.md, R286, R299 to R302). -/

namespace Sys2Proof.Machine

/-! ### Arithmetic (R320) -/

/-- A quotient, correctly rounded. -/
def div32 (x y : Nat) : Nat :=
  match dec32 x, dec32 y with
  | .nan, _ => nan32
  | _, .nan => nan32
  | .inf n, .inf n' => let _ := n; let _ := n'; nan32
  | .inf n, .fin n' _ _ => inf32 (n != n')
  | .fin n _ _, .inf n' => zero32 (n != n')
  | .fin n m e, .fin n' m' e' =>
    if m' = 0 then (if m = 0 then nan32 else inf32 (n != n'))
    else if m = 0 then zero32 (n != n')
    else
      let k := bitLen m' + 30
      round32 (n != n') (m * 2 ^ k / m') (e - e' - k) (m * 2 ^ k % m' != 0)

/-- A square root, correctly rounded, of a magnitude `m * 2 ^ e`. -/
def sqrtMag (m : Nat) (e : Int) : Nat :=
  if m = 0 then 0
  else
    let m := if e % 2 = 0 then m else 2 * m
    let e := if e % 2 = 0 then e else e - 1
    let n := m * 4 ^ 40
    let r := isqrtAux n (bitLen n / 2 + 1) 0
    round32 false r (e / 2 - 40) (r * r != n)

/-- A square root, correctly rounded. -/
def sqrt32 (x : Nat) : Nat :=
  match dec32 x with
  | .nan => nan32
  | .inf n => if n then nan32 else inf32 false
  | .fin n m e => if m = 0 then zero32 n else if n then nan32 else sqrtMag m e

def one32 : Nat := 0x3F800000

/-- Whether an FP32 code is finite. -/
def fin32 (x : Nat) : Bool :=
  match dec32 x with
  | .fin _ _ _ => true
  | _ => false

/-- Whether an FP32 code is above zero. -/
def pos32 (x : Nat) : Bool := lt32 0 x

/-- The square of a finite FP32 code in units of 2 ^ -298. -/
def square298 (x : Nat) : Nat :=
  match dec32 x with
  | .fin _ m e => m * m * 2 ^ (2 * e + 298).toNat
  | _ => 0

/-! ### Descriptors (R309 to R312) -/

/-- The armed job. -/
def grdJob (s : State) : Nat := rd s GRD_JOB_job_id

/-- Whether the engines are armed for a job. -/
def grdArmed (s : State) (j : Nat) : Bool := on s GRD_JOB_en && grdJob s == j

/-- The module address of an offset in a region of a job. -/
def regionAt (x : Job) (region off : Nat) : Nat := ((x.regions[region]?).map (·.addr)).getD 0 + off

/-- Whether an area of `n` bytes at an offset lies in a region of a job. -/
def inRegion (x : Job) (region off n : Nat) : Bool :=
  match x.regions[region]? with
  | some r => decide (off + n ≤ r.size)
  | none => false

/-- Fields of a layer descriptor (R310). -/
def gRule (d : Bytes) : Nat := fieldLE d 0x00 1
def gFrozen (d : Bytes) : Bool := bitOf (fieldLE d 0x01 1) 0
def gExport (d : Bytes) : Bool := bitOf (fieldLE d 0x01 1) 1
def gSparse (d : Bytes) : Bool := bitOf (fieldLE d 0x01 1) 2
def gGroup (d : Bytes) : Nat := fieldLE d 0x02 1
def gFmt (d : Bytes) : Nat := fieldLE d 0x03 1
def gWork (d : Bytes) : Nat := fieldLE d 0x04 1
def gAnchor (d : Bytes) : Int := signed 16 (fieldLE d 0x06 2)
def gElems (d : Bytes) : Nat := fieldLE d 0x08 4
def gRow (d : Bytes) : Nat := fieldLE d 0x0C 2
def gSeg (d : Bytes) : Nat := fieldLE d 0x0E 2

/-- S: the segments of a layer. -/
def gSegs (d : Bytes) : Nat := (gElems d + gSeg d - 1) / gSeg d

/-- The elements of segment `k` of a layer (R312). -/
def segLen (d : Bytes) (k : Nat) : Nat := if k + 1 = gSegs d then gElems d - k * gSeg d else gSeg d

/-- The bytes of the payload of `n` elements: values, then MX scales (R300, R312). -/
def payBytes (f n : Nat) : Nat := (n * veBits f + 7) / 8 + (if fmtMx f then (n + 31) / 32 else 0)

/-- The bytes of an element of the work copy (R310). -/
def workBytes (f : Nat) : Nat := if f ≤ 1 then 1 else if f = 0x10 then 4 else 2

/-- Whether a format is reduced exactly in exam mode (R300). -/
def longFmt (f : Nat) : Bool := decide (f ≤ 2) || fmtMx f

/-- Whether a region and offset of an area of `n` bytes meet R311: it lies in its region, aligned to 64 bytes, or, when it
is not used, they are 0xFFFF and 0. -/
def areaOk (x : Job) (used : Bool) (region off n : Nat) : Bool :=
  if used then off % 64 == 0 && inRegion x region off n else region == 0xFFFF && off == 0

/-- The ranks of one module: 2^r (R299). -/
def rankLog (s : State) : Nat := min 6 (rd s NET_COLL_CFG_log2_local)
def ranks (s : State) : Nat := 2 ^ rankLog s

/-- The bytes of a staging slot (R312). -/
def slotSize (d : Bytes) : Nat := (payBytes (gFmt d) (gSeg d) + 31) / 32 * 32

/-- Whether a layer descriptor meets R311. -/
def descOk (s : State) (x : Job) (d : Bytes) : Bool :=
  let f := fieldLE d
  let rule := gRule d
  let n := gElems d
  let fmt := gFmt d
  let inUnit : Nat → Bool := fun v => fin32 v && !lt32 v 0 && lt32 v one32
  decide (rule ≤ 3) && decide (f 0x01 1 < 8) && decide (gGroup d < 64) && f 0x05 1 == 0 && f 0x3E 2 == 0 && f 0x64 12 == 0
    && f 0x7C 4 == 0
    && (decide (fmt ≤ 2) || (decide (4 ≤ fmt) && decide (fmt ≤ 0x0B)) || fmt == 0x10)
    && [0x00, 0x01, 0x0A, 0x0B, 0x10, 0xFF].contains (gWork d)
    && decide (1 ≤ n) && decide (1 ≤ gSeg d) && (!fmtMx fmt || gSeg d % 32 == 0) && decide (payBytes fmt (gSeg d) ≤ 8192)
    && (!longFmt fmt || decide (gSeg d * 20 ≤ 8192))
    && (if gSparse d then decide (1 ≤ gRow d) && gSeg d % gRow d == 0 && n % gRow d == 0 else gRow d == 0)
    && decide (gSegs d ≤ 0xFFFFFFFD)
    && areaOk x true (f 0x10 2) (f 0x18 8) (4 * n)
    && areaOk x (decide (1 ≤ rule)) (f 0x12 2) (f 0x20 8) (4 * n)
    && areaOk x (decide (2 ≤ rule)) (f 0x14 2) (f 0x28 8) (4 * n)
    && areaOk x (gWork d != 0xFF) (f 0x16 2) (f 0x30 8) (n * workBytes (gWork d))
    && areaOk x true (f 0x38 2) (f 0x40 8) (ranks s * gSegs d * slotSize d)
    && areaOk x (gExport d) (f 0x3C 2) (f 0x48 8) (4 * n)
    && (if 1 ≤ rule then inUnit (f 0x50 4) else f 0x50 4 == 0)
    && (if 2 ≤ rule then inUnit (f 0x54 4) && fin32 (f 0x58 4) && pos32 (f 0x58 4) else f 0x54 4 == 0 && f 0x58 4 == 0)
    && fin32 (f 0x5C 4) && !lt32 (f 0x5C 4) 0
    && (if rule = 3 then fin32 (f 0x60 4) && pos32 (f 0x60 4) else f 0x60 4 == 0)
    && decide (f 0x3A 2 < x.ctrs.length)

/-- The address of a layer's descriptor. -/
def descAddr (s : State) (x : Job) (l : Nat) : Nat := regionAt x (rd s GRD_TABLE_table_region) (128 * l)

/-- The address of a layer's journal entry (R317). -/
def journalAddr (s : State) (x : Job) (l : Nat) : Nat := regionAt x (rd s GRD_TABLE_journal_region) (16 * l)

/-- The address of the ring of a rank (R313). -/
def ringAddr (s : State) (x : Job) (k : Nat) : Nat :=
  regionAt x (rd s GRD_RING_ring_region) (rd s GRD_RING_OFF_ring_off + k * 2 ^ rd s GRD_RING_log2_entries * 16)

/-! ### Arming (R308) -/

/-- GRD_ERR recorded, the first kept. -/
def noteGrdErr (s : State) (cause layer tile : Nat) : State :=
  if on s GRD_ERR_valid then s else
    wrs s [(GRD_ERR_cause, cause), (GRD_ERR_layer, layer), (GRD_ERR_tile, tile), (GRD_ERR_valid, 1)]

/-- The first arming check of R308 that fails: its cause and layer. -/
def armFault (s : State) (j : Nat) : Option (Nat × Nat) :=
  match Store.get? s.jobs j with
  | none => some (3, 0)
  | some x =>
    let n := rd s GRD_TABLE_layer_count
    let e := rd s GRD_RING_log2_entries
    let layers := List.range n
    if s.periods.any (fun p => p.2.job == j) then some (3, 0)
    else if n = 0 ∨ 4096 < n then some (3, 0)
    else if !inRegion x (rd s GRD_TABLE_table_region) 0 (128 * n) || !inRegion x (rd s GRD_TABLE_journal_region) 0 (16 * n) then
      some (3, 0)
    else match layers.find? (fun l => !descOk s x (readBytes s (descAddr s x l) 128)) with
      | some l => some (1, l)
      | none =>
        match layers.find? (fun l => readByte s (journalAddr s x l) != 0) with
        | some l => some (2, l)
        | none =>
          if e < 4 ∨ 16 < e ∨ rd s GRD_RING_OFF_ring_off % 512 ≠ 0
              ∨ !inRegion x (rd s GRD_RING_ring_region) (rd s GRD_RING_OFF_ring_off) (ranks s * 2 ^ e * 16) then some (3, 0)
          else none

/-- Whether a function writes the GRD registers for a job (R410, R411). -/
def fnGrd (s : State) (fn j : Nat) : Bool :=
  fnUp s fn && (fn == 0 || (match Store.get? s.jobs j with
    | some x => x.part + 1 == fn
    | none => false))

/-- Whether a function may write GRD_JOB with a job named. -/
def fnGrdJob (s : State) (fn j : Nat) : Bool := fnGrd s fn j && (!on s GRD_JOB_en || fnGrd s fn (grdJob s))

/-- The engines disarmed. -/
def grdDisarm (s : State) : State := { wrs s [(GRD_JOB_en, 0), (GRD_STATUS_open, 0)] with grd := ⟨[], []⟩ }

/-- The engines disarmed when they are armed for a job. -/
def grdDisarmJob (s : State) (j : Nat) : State := if grdArmed s j then grdDisarm s else s

/-- GRD_ARM: a write of GRD_JOB with en set: the checks of R308, then the engines are armed, or ARM_FAILED. Engines that
are armed already stay as they are. -/
def execGrdArm (fn : Nat) (v : Word64) (s : State) : Host.Outcome State Fault Refusal :=
  let j := v.toNat % 65536
  .next <|
    if !bitOf v.toNat 16 || !fnGrdJob s fn j || on s GRD_JOB_en then s
    else
      let s := wr s GRD_JOB_job_id j
      match armFault s j with
      | some (c, l) => raise (noteGrdErr s c l 0) GRD_CAUSE_cause 0
      | none => { wr s GRD_JOB_en 1 with grd := ⟨[], []⟩ }

/-- GRD_DISARM: a write of GRD_JOB with en clear: dropped while a run of the armed job is pending or running (R308). -/
def execGrdDisarm (fn : Nat) (v : Word64) (s : State) : Host.Outcome State Fault Refusal :=
  let j := v.toNat % 65536
  .next <|
    if bitOf v.toNat 16 || !fnGrdJob s fn j then s
    else if on s GRD_JOB_en then
      (if s.runs.any (fun p => p.2.job == grdJob s && p.2.phase != .ended) then s else wr (grdDisarm s) GRD_JOB_job_id j)
    else wr s GRD_JOB_job_id j

/-! ### Layers -/

/-- A layer before its first post or partial. -/
def GrdLayer.fresh (l : Nat) : GrdLayer where
  layer := l
  isOpen := false
  desc := []
  exam := false
  t := 0
  p1 := 0
  p2 := 0
  e := 0
  ended := []
  posted := []
  acc := []
  leaves := []
  sent := []
  partEnd := false
  parts := []
  modEnds := []
  formed := []
  finals := []
  applied := []
  arrived := []
  finEnds := []
  finEndSent := false
  sw := 0
  su := 0
  normBad := false
  phase2 := false

/-- What is held of a layer. -/
def layerOf (s : State) (l : Nat) : GrdLayer := (s.grd.layers.find? fun x => x.layer == l).getD (GrdLayer.fresh l)

/-- The state with a layer replaced. -/
def setLayer (s : State) (x : GrdLayer) : State :=
  { s with grd := { s.grd with layers := (s.grd.layers.filter fun y => y.layer != x.layer) ++ [x] } }

/-- The state with a layer changed. -/
def modLayer (s : State) (l : Nat) (f : GrdLayer → GrdLayer) : State := setLayer s (f (layerOf s l))

/-- GRD_STATUS.open brought up to date. -/
def syncOpen (s : State) : State := wr s GRD_STATUS_open (s.grd.layers.filter (·.isOpen)).length

/-- The descriptor of a layer: as read at its open, or as the table holds it. -/
def layerDesc (s : State) (x : Job) (l : Nat) : Bytes :=
  let y := layerOf s l
  if y.isOpen then y.desc else readBytes s (descAddr s x l) 128

/-- The run of the armed job in progress. -/
def grdRun (s : State) : Option (Nat × Run) := if on s GRD_JOB_en then runningRun s (grdJob s) else none

/-- A layer opened: its descriptor read, the journal entry open, the step scalars formed (R317, R320). -/
def openLayer (s : State) (x : Job) (l : Nat) : State :=
  let y := layerOf s l
  if y.isOpen then s
  else
    let d := readBytes s (descAddr s x l) 128
    let s := writeOther s (journalAddr s x l) [1]
    let exam := match grdRun s with
      | some (_, r) => r.exam
      | none => false
    let s := modLayer s l fun y => { y with
      isOpen := true, desc := d, exam := exam, t := (fieldLE d 0x70 4 + 1) % 2 ^ 32
      p1 := mul32 (fieldLE d 0x74 4) (fieldLE d 0x50 4), p2 := mul32 (fieldLE d 0x78 4) (fieldLE d 0x54 4)
      e := rd s (GRD_STEP_step (gGroup d)) }
    let s := match grdRun s with
      | some (r, _) => modRun s r fun z => { z with opened := true }
      | none => s
    syncOpen s

/-! ### The group (R299 to R301) -/

/-- The association of another module of the group. -/
def peerAssoc (s : State) (m : Nat) : Option Nat :=
  (List.range 512).find? fun a => on s (NET_ASSOC_CFG_valid a) && on s (NET_ASSOC_CFG_kind a)
    && rd s (NET_ASSOC_CFG_coll_module a) == m

/-- A COLL message with the resend flag (R286). -/
def asResend (m : Bytes) : Bytes := mkMsg (msgType m) 1 (msgJob m) (msgEpoch m) (msgSeq m) (m.drop 16)

/-- COLL messages that wait sent while fewer than 256 are unacknowledged (R286). -/
def pushColl : Nat → State → Nat → State
  | 0, s, _ => s
  | k + 1, s, a =>
    let x := assocOf s a
    match x.waiting with
    | [] => s
    | c :: r =>
      if 256 ≤ x.unacked.length then s
      else
        let s := modAssoc s a fun x => { x with waiting := r, unacked := x.unacked ++ [{ c with sentAt := s.now }] }
        pushColl k (sendOn s a c.msg) a

/-- Every COLL that the window admits sent. -/
def pushCollAll (s : State) (a : Nat) : State := pushColl (assocOf s a).waiting.length s a

/-- The wire form of values: FP32 codes, or 20-byte integers L (R300). -/
def wireVals (long : Bool) (v : List Int) : Bytes :=
  v.flatMap fun x => if long then toBE 20 (unsigned 160 x) else toBE 4 (unsigned 32 x)

/-- A COLL sent to a module of the group (R300). -/
def sendColl (s : State) (m l seg : Nat) (long : Bool) (anchor : Int) (v : List Int) : State :=
  match peerAssoc s m with
  | none => s
  | some a =>
    let fmt := if long then 0x12 else 0x10
    let body := toBE 2 l ++ toBE 2 0 ++ toBE 4 seg ++ toBE 1 fmt ++ toBE 1 (groupIdx s) ++ toBE 2 v.length
      ++ toBE 2 (if long then unsigned 16 anchor else 0) ++ toBE 2 0 ++ wireVals long v
    let seqn := (assocOf s a).txSeq
    let c : CollSent := ⟨seqn, mkMsg mtColl 0 (grdJob s) (rd s (NET_ASSOC_CFG_epoch a)) seqn body, l, seg, 0, s.now⟩
    pushCollAll (modAssoc s a fun x => { x with txSeq := (seqn + 1) % 2 ^ 32, waiting := x.waiting ++ [c] }) a

/-- A COLL sent to each module of a list but this one. -/
def sendColls (s : State) (ms : List Nat) (l seg : Nat) (v : List Int) : State :=
  (ms.filter (· != groupIdx s)).foldl (fun s m => sendColl s m l seg false 0 v) s

/-- The segment numbers of a partial end and of a final end (R316). -/
def segPartEnd : Nat := 0xFFFFFFFE
def segFinEnd : Nat := 0xFFFFFFFF

/-- The modules that own a segment of a layer. -/
def ownersOf (s : State) (d : Bytes) : List Nat := List.range (min (groupM s) (gSegs d))

/-! ### Reductions (R300, R302, R316) -/

/-- Whether a layer's segments are reduced as long values, or by the rank-order tree. -/
def isLong (x : GrdLayer) : Bool := x.exam && longFmt (gFmt x.desc)
def isTree (x : GrdLayer) : Bool := x.exam && !longFmt (gFmt x.desc)

/-- The elements of a posted segment, decoded (R300, R312). -/
def segVals (f n : Nat) (b : Bytes) : List FVal :=
  (List.range n).map fun i =>
    if f = 0x10 then dec32 (fieldLE b (4 * i) 4)
    else
      let v := elemVal f false (elemAt b (fmtBits f) i)
      if fmtMx f then scaled v (fieldLE b ((n * fmtBits f + 7) / 8 + i / 32) 1) else v

/-- The sum of two lists of FP32 codes. -/
def addLists (a b : List Int) : List Int := List.zipWith (fun x y => (add32 x.toNat y.toNat : Int)) a b

/-- A node of the rank-order tree: `k` levels up from leaf `i * 2 ^ k` (R300). -/
def treeNode (leaf : Nat → Option (List Int)) : Nat → Nat → Option (List Int)
  | 0, i => leaf i
  | k + 1, i =>
    match treeNode leaf k (2 * i), treeNode leaf k (2 * i + 1) with
    | some a, some b => some (addLists a b)
    | some a, none => some a
    | none, b => b

/-- NET_COLL_ERR recorded, the first kept. -/
def noteCollErr (s : State) (cause layer seg rank : Nat) : State :=
  if on s NET_COLL_ERR_valid then s else
    wrs s [(NET_COLL_ERR_cause, cause), (NET_COLL_ERR_layer, layer), (NET_COLL_ERR_segment, seg), (NET_COLL_ERR_rank, rank),
      (NET_COLL_ERR_valid, 1)]

/-- A condition of R107 failed in a reduction: the run ends with EXAM_RANGE (R302). -/
def collRange (s : State) (l seg rank : Nat) : State :=
  let s := raise (noteCollErr s 1 l seg rank) NET_CAUSE_cause 8
  match grdRun s with
  | some (r, _) => modRun s r fun z => z.noteStop (.program 0xFFF errExamRange 0 0 (windowNow s))
  | none => s

/-- Whether a long sum stays in range (R107). -/
def longOk (v : List Int) : Bool := v.all fun x => decide (x.natAbs < 2 ^ 159)

/-- A final value of a segment held: the segment is delivered to the engine (R301). -/
def deliverFinal (s : State) (l seg : Nat) (v : List Int) : State :=
  let s := modLayer s l fun y => { y with finals := Store.set y.finals seg (v.map (·.toNat)), arrived := seg :: y.arrived }
  bump s NET_COLL_STATS_segments 1

/-- The final value of a segment formed by its owner from the partials held (R300, R301). -/
def formFinal (s : State) (l seg : Nat) : State :=
  let y := layerOf s l
  let ps := y.parts.filter fun p => p.1 == seg
  let done (s : State) (v : List Int) : State :=
    let s := sendColls (modLayer s l fun y => { y with formed := seg :: y.formed }) (List.range (groupM s)) l seg v
    if y.arrived.contains seg then s else deliverFinal s l seg v
  match ps with
  | [] => s
  | p :: r =>
    if isLong y then
      let sum := r.foldl (fun a q => List.zipWith (· + ·) a q.2.2) p.2.2
      if longOk sum then done s (sum.map fun v => (roundInt32 v (gAnchor y.desc) : Int)) else collRange s l seg (p.2.1 * ranks s)
    else if isTree y then
      let leaf : Nat → Option (List Int) := fun m => (ps.find? fun q => q.2.1 == m).map (·.2.2)
      match treeNode leaf (bitLen (groupM s - 1)) 0 with
      | some v => done s v
      | none => s
    else done s (r.foldl (fun a q => addLists a q.2.2) p.2.2)

/-- Whether every partial of a segment that will come has come to its owner. -/
def partsIn (s : State) (y : GrdLayer) (seg : Nat) : Bool :=
  (List.range (groupM s)).all fun m => y.modEnds.contains m || y.parts.any fun p => p.1 == seg && p.2.1 == m

/-- What an owner does as partials arrive: finals formed, then the final end sent (R301, R316). -/
def ownerWork (s : State) (l : Nat) : State :=
  let y := layerOf s l
  if !y.isOpen then s
  else
    let segs := ((y.parts.map (·.1)).eraseDups).filter fun k => !y.formed.contains k && partsIn s y k
    let s := segs.foldl (fun s k => formFinal s l k) s
    let y := layerOf s l
    if y.finEndSent || !(ownersOf s y.desc).contains (groupIdx s)
        || !((List.range (groupM s)).all fun m => y.modEnds.contains m) then s
    else
      let s := sendColls s (List.range (groupM s)) l segFinEnd []
      modLayer s l fun y => { y with finEndSent := true, finEnds := groupIdx s :: y.finEnds }

/-- A module's partial of a segment handed to its owner (R301). -/
def handPartial (s : State) (l seg : Nat) (v : List Int) : State :=
  let y := layerOf s l
  let owner := seg % groupM s
  if owner = groupIdx s then modLayer s l fun y => { y with parts := y.parts ++ [(seg, groupIdx s, v)] }
  else sendColl s owner l seg (isLong y) (if isLong y then gAnchor y.desc else 0) v

/-- The partial of a segment, when it has a contribution. -/
def partialOf (s : State) (y : GrdLayer) (seg : Nat) : Option (List Int) :=
  if isTree y then
    treeNode (fun k => (y.leaves.find? fun p => p.1 == seg && p.2.1 == k).map fun p => p.2.2.map fun v => (v : Int)) (rankLog s) 0
  else Store.get? y.acc seg

/-- Partials of this module that have become complete, and its partial end (R316). -/
def partialWork (s : State) (l : Nat) : State :=
  let y := layerOf s l
  let all := List.range (ranks s)
  let segs := sortBy id (((y.posted.map (·.1)).eraseDups).filter fun k =>
    !y.sent.contains k && all.all fun r => y.ended.contains r || y.posted.contains (k, r))
  let s := segs.foldl (fun s k =>
    let s := modLayer s l fun y => { y with sent := k :: y.sent }
    match partialOf s (layerOf s l) k with
    | some v => handPartial s l k v
    | none => s) s
  let y := layerOf s l
  let s := if !y.partEnd && all.all (fun r => y.ended.contains r) then
      let s := sendColls s (ownersOf s y.desc) l segPartEnd []
      modLayer s l fun y => { y with partEnd := true, modEnds := groupIdx s :: y.modEnds }
    else s
  ownerWork s l

/-- A segment contributed by a local rank (R300, R302). -/
def contribute (s : State) (l seg k : Nat) (vals : List FVal) : State :=
  let y := layerOf s l
  let s := modLayer s l fun y => { y with posted := (seg, k) :: y.posted }
  if isLong y then
    let u := vals.map (examUnits (gAnchor y.desc))
    let base := (Store.get? y.acc seg).getD (List.replicate vals.length 0)
    let sum := List.zipWith (fun a (b : Option Int) => a + b.getD 0) base u
    if u.any (·.isNone) || !longOk sum then collRange s l seg (groupIdx s * ranks s + k)
    else modLayer s l fun y => { y with acc := Store.set y.acc seg sum }
  else
    let c := vals.map roundV
    if isTree y then modLayer s l fun y => { y with leaves := (seg, k, c) :: y.leaves }
    else
      let c := c.map fun v => (v : Int)
      modLayer s l fun y => { y with acc := Store.set y.acc seg (match Store.get? y.acc seg with
        | some a => addLists a c
        | none => c) }

/-! ### Posts (R313 to R315, R319) -/

/-- A bad post: the run ends with a range violation at the tile of the rank (R315). -/
def postBad (s : State) (x : Job) (l k : Nat) : State :=
  let t := x.tiles.getD k 0xFFF
  let s := raise (noteGrdErr s 4 l t) GRD_CAUSE_cause 1
  let s := if t < s.part.tiles then progErrAt s t errRange 0 0 else s
  match grdRun s with
  | some (r, _) => modRun s r fun z => z.noteStop (.program t errRange 0 0 (windowNow s))
  | none => s

/-- The address of a post entry. -/
def postAddr (s : State) (x : Job) (k n : Nat) : Nat := ringAddr s x k + 16 * (n % 2 ^ rd s GRD_RING_log2_entries)

/-- Whether the entry at a rank's next index is new (R314). -/
def postNew (s : State) (x : Job) (k : Nat) : Bool :=
  let n := Store.getD s.grd.readIdx k 0
  fieldLE (readBytes s (postAddr s x k n) 16) 0 4 == n

/-- The payload of a staging slot; free bytes where no region of the job holds it (R309, R312). DESIGN CHOICE (log 29). -/
def readStage (s : State) (x : Job) (d : Bytes) (slot n : Nat) : State × Bytes :=
  let off := fieldLE d 0x40 8 + slot * slotSize d
  if inRegion x (fieldLE d 0x38 2) off n then (s, readBytes s (regionAt x (fieldLE d 0x38 2) off) n)
  else (takeFree s n, (List.range n).map fun i => BitVec.ofNat 8 (Config.freeValue (s.freeCtr + i)))

/-- One post entry taken (R314 to R316). -/
def takePost (s : State) (x : Job) (k : Nat) (b : Bytes) (addr n : Nat) : State :=
  let l := fieldLE b 4 2
  let ends := bitOf (fieldLE b 6 1) 0
  let seg := fieldLE b 8 4
  let s := writeOther { s with grd := { s.grd with readIdx := Store.set s.grd.readIdx k (n + 1) } } addr (toLE 4 0xFFFFFFFF)
  if rd s GRD_TABLE_layer_count ≤ l ∨ 1 < fieldLE b 6 1 ∨ fieldLE b 7 1 ≠ 0 ∨ fieldLE b 12 4 ≠ 0 then postBad s x l k
  else
    let d := layerDesc s x l
    if (if ends then seg != 0 else decide (gSegs d ≤ seg)) then postBad s x l k
    else
      let s := openLayer s x l
      let y := layerOf s l
      if ends then partialWork (modLayer s l fun y => { y with ended := k :: y.ended }) l
      else if y.posted.contains (seg, k) then bump s NET_COLL_STATS_dup 1
      else
        let n := segLen y.desc seg
        let f := gFmt y.desc
        let (s, b) := readStage s x y.desc (k * gSegs y.desc + seg) (payBytes f n)
        partialWork (contribute s l seg k (segVals f n b)) l

/-- Whether reading has to stop: the run no longer runs. -/
def postsStopped (s : State) : Bool :=
  match grdRun s with
  | some (_, r) => r.stop.isSome
  | none => true

/-- The new entries of a rank taken in index order, up to one that belongs to the next step (R314, R319). -/
def readRank : Nat → State → Job → Nat → State
  | 0, s, _, _ => s
  | f + 1, s, x, k =>
    if postsStopped s then s
    else
      let n := Store.getD s.grd.readIdx k 0
      let addr := postAddr s x k n
      let b := readBytes s addr 16
      if fieldLE b 0 4 ≠ n then s
      else
        let y := layerOf s (fieldLE b 4 2)
        if y.isOpen ∧ y.ended.contains k then s else readRank f (takePost s x k b addr n) x k

/-- Every rank's ring read (R314). -/
def readPosts (s : State) (x : Job) : State :=
  (List.range (ranks s)).foldl (fun s k => readRank (2 ^ rd s GRD_RING_log2_entries) s x k) s

/-- Whether a run of a job has made posts that have not been read (R327). -/
def postsUnread (s : State) (j : Nat) : Bool :=
  match Store.get? s.jobs j with
  | some x => grdArmed s j && (List.range (ranks s)).any fun k => postNew s x k
  | none => false

/-! ### Updates (R321 to R325) -/

/-- The stored values of an element and the addresses they lie at. -/
structure GrdElem where
  w : Nat
  m : Nat
  v : Nat
deriving DecidableEq, Repr

/-- u, m and v of an element by its rule (R321). -/
def gradStep (y : GrdLayer) (g : Nat) (x : GrdElem) : Nat × Nat × Nat :=
  let f := fieldLE y.desc
  let b1 := f 0x50 4
  let b2 := f 0x54 4
  let decay := mul32 (f 0x5C 4) x.w
  let rule := gRule y.desc
  if rule = 0 then (add32 g decay, x.m, x.v)
  else if rule = 1 then
    let m := add32 (mul32 b1 x.m) g
    (add32 m decay, m, x.v)
  else
    let m := add32 (mul32 b1 x.m) (mul32 (sub32 one32 b1) g)
    let v := add32 (mul32 b2 x.v) (mul32 (sub32 one32 b2) (mul32 g g))
    (m, m, v)

/-- u of rules 2 and 3 from m, v and w (R321). -/
def adaptU (y : GrdLayer) (m v w : Nat) : Nat :=
  let f := fieldLE y.desc
  let c1 := sub32 one32 y.p1
  let c2 := sub32 one32 y.p2
  add32 (div32 (div32 m c1) (add32 (sqrt32 (div32 v c2)) (f 0x58 4))) (mul32 (f 0x5C 4) w)

/-- The address of element `i` of the area whose region and offset stand at two places of a descriptor. -/
def elemAddr (x : Job) (d : Bytes) (region off i n : Nat) : Nat := regionAt x (fieldLE d region 2) (fieldLE d off 8 + i * n)

/-- Bytes written at element `i` of an area: the engines write only in regions of the armed job, so what a descriptor changed by host
software puts elsewhere is not written (R309, R310). DESIGN CHOICE (log 29). -/
def areaWrite (s : State) (x : Job) (d : Bytes) (region off i n : Nat) (b : Bytes) : State :=
  if inRegion x (fieldLE d region 2) (fieldLE d off 8 + i * n) b.length then writeOther s (elemAddr x d region off i n) b else s

/-- Whether a region of the job holds FP32 element `i` of an area. -/
def areaHas (x : Job) (d : Bytes) (region off i : Nat) : Bool := inRegion x (fieldLE d region 2) (fieldLE d off 8 + i * 4) 4

/-- An FP32 element of an area read; a free value, the `k`-th to come, where no region of the job holds it. DESIGN CHOICE (log 29). -/
def areaRead (s : State) (x : Job) (d : Bytes) (region off i k : Nat) : Nat :=
  if areaHas x d region off i then leNat (readBytes s (elemAddr x d region off i 4) 4) else Config.freeValue (s.freeCtr + k) % 2 ^ 32

/-- The weight and the averages that a rule uses of an element, three free values being taken where one of them is nowhere. -/
def readElem (s : State) (x : Job) (d : Bytes) (rule i : Nat) : State × GrdElem :=
  let has := areaHas x d 0x10 0x18 i && (rule == 0 || areaHas x d 0x12 0x20 i) && (decide (rule < 2) || areaHas x d 0x14 0x28 i)
  (if has then s else takeFree s 3, ⟨areaRead s x d 0x10 0x18 i 0, if 1 ≤ rule then areaRead s x d 0x12 0x20 i 1 else 0,
    if 2 ≤ rule then areaRead s x d 0x14 0x28 i 2 else 0⟩)

/-- A new weight written with its work copy; NaN and infinities are counted (R321, R323). -/
def putWeight (s : State) (x : Job) (d : Bytes) (i w : Nat) : State :=
  let s := areaWrite s x d 0x10 0x18 i 4 (toLE 4 w)
  let f := gWork d
  let s := if f = 0xFF then s else areaWrite s x d 0x16 0x30 i (workBytes f) (toLE (workBytes f) (convLane f none 0 w))
  if fin32 w then s else raise (bump s GRD_NONFINITE_elements 1) GRD_CAUSE_cause 4

/-- One element updated as its segment is applied: rules 0 to 2 whole, rule 3 its first phase (R321, R322). -/
def applyElem (s : State) (x : Job) (l i g : Nat) : State :=
  let y := layerOf s l
  let d := y.desc
  let rule := gRule d
  let (s, old) := readElem s x d rule i
  let (u0, m, v) := gradStep y g old
  let u := if 2 ≤ rule then adaptU y m v old.w else u0
  let s := if 1 ≤ rule then areaWrite s x d 0x12 0x20 i 4 (toLE 4 m) else s
  let s := if 2 ≤ rule then areaWrite s x d 0x14 0x28 i 4 (toLE 4 v) else s
  if rule = 3 then
    modLayer s l fun y => { y with
      sw := y.sw + square298 old.w, su := y.su + square298 u, normBad := y.normBad || !fin32 old.w || !fin32 u }
  else putWeight s x d i (sub32 old.w (mul32 y.e u))

/-- A final segment applied: exported, and its elements updated unless the layer is frozen (R321, R325). -/
def applySegment (s : State) (x : Job) (l seg : Nat) (g : List Nat) (delivered : Bool) : State :=
  let d := (layerOf s l).desc
  let base := seg * gSeg d
  let s := if gExport d then areaWrite s x d 0x3C 0x48 base 4 (g.flatMap (toLE 4)) else s
  let s := modLayer s l fun y => { y with finals := Store.erase y.finals seg, applied := seg :: y.applied }
  if gFrozen d then
    if delivered then raise (wr (bump s GRD_FROZEN_HITS_hits 1) GRD_FROZEN_HITS_last_layer l) GRD_CAUSE_cause 3 else s
  else
    let s := bump s GRD_COUNT_segments 1
    let s := match Store.get? s.jobs (grdJob s) with
      | some j => setJob s (grdJob s) { j with weightsWritten := true }
      | none => s
    g.zipIdx.foldl (fun s p => applyElem s x l (base + p.2) p.1) s

/-- Whether a layer is complete but for the segments that nothing contributed and the second phase (R316, R318). -/
def layerComplete (s : State) (y : GrdLayer) : Bool :=
  y.isOpen && (List.range (ranks s)).all (fun k => y.ended.contains k)
    && (ownersOf s y.desc).all (fun m => y.finEnds.contains m) && y.finals.isEmpty

/-- The segments of a dense layer that no rank contributed, applied with a gradient of +0 (R318). -/
def applyMissing (s : State) (x : Job) (l : Nat) : State :=
  let y := layerOf s l
  if gSparse y.desc then s
  else
    ((List.range (gSegs y.desc)).filter fun k => !y.applied.contains k).foldl
      (fun s k => applySegment s x l k (List.replicate (segLen y.desc k) 0) false) s

/-- The trust ratio (R322). -/
def trustRatio (y : GrdLayer) : Nat :=
  if y.normBad then nan32
  else
    let nw := sqrt32 (if y.sw = 0 then 0 else round32 false y.sw (-298))
    let nu := sqrt32 (if y.su = 0 then 0 else round32 false y.su (-298))
    if pos32 nw && pos32 nu then min32 (div32 nw nu) (fieldLE y.desc 0x60 4) else one32

/-- The second phase: every weight of the step rewritten (R322). -/
def phaseTwo (s : State) (x : Job) (l : Nat) : State :=
  let y := layerOf s l
  let d := y.desc
  let e2 := mul32 y.e (trustRatio y)
  let els := (sortBy id y.applied).flatMap fun k => rangeFrom (k * gSeg d) (segLen d k)
  if gFrozen d then s
  else els.foldl (fun s i =>
    let (s, z) := readElem s x d 3 i
    putWeight s x d i (sub32 z.w (mul32 e2 (adaptU y z.m z.v z.w)))) s

/-! ### Aborts (R327) -/

/-- A span written with free values. -/
def freeSpan (s : State) (a n : Nat) : State :=
  takeFree (writeBytes s a ((List.range n).map fun i => BitVec.ofNat 8 (Config.freeValue (s.freeCtr + i)))) n

/-- An area of a layer, as far as a region of the job holds it, left with free values (R309, R327). -/
def freeArea (s : State) (x : Job) (d : Bytes) (region off n : Nat) : State :=
  if inRegion x (fieldLE d region 2) (fieldLE d off 8) n then freeSpan s (elemAddr x d region off 0 1) n else s

/-- The weights, averages and work copy of a layer that a step had open: undefined values, unless it is frozen (R327, R447). -/
def freeLayer (s : State) (x : Job) (d : Bytes) : State :=
  let n := gElems d
  if gFrozen d then s
  else
    let s := freeArea (freeArea (freeArea s x d 0x10 0x18 (4 * n)) x d 0x12 0x20 (4 * n)) x d 0x14 0x28 (4 * n)
    if gWork d = 0xFF then s else freeArea s x d 0x16 0x30 (n * workBytes (gWork d))

/-- A faulted layer: its journal entry, and the undefined values the step leaves. DEDUCED (log 29). -/
def faultLayer (s : State) (x : Job) (y : GrdLayer) : State :=
  let s := freeLayer (writeOther s (journalAddr s x y.layer) [3]) x y.desc
  raise (noteGrdErr s 5 y.layer 0) GRD_CAUSE_cause 2

/-- The collective messages of the group discarded (R302). -/
def dropColl (s : State) : State :=
  { s with assocs := s.assocs.map fun p => (p.1, { p.2 with unacked := [], waiting := [] }) }

/-- What the engines do when a run of the armed job is aborted: work stops, open layers are faulted, rings are cleared, and
with a faulted layer the engines disarm (R327). DEDUCED (log 30). -/
def grdAbort (s : State) (j : Nat) : State :=
  if !grdArmed s j then s
  else match Store.get? s.jobs j with
    | none => s
    | some x =>
      let bad := sortBy (·.layer) (s.grd.layers.filter (·.isOpen))
      let s := bad.foldl (fun s y => faultLayer s x y) s
      let s := (List.range (ranks s)).foldl (fun s k =>
        (List.range (2 ^ rd s GRD_RING_log2_entries)).foldl (fun s i => writeOther s (ringAddr s x k + 16 * i) (toLE 4 0xFFFFFFFF)) s) s
      let notes := s.netNotes.filter fun c => some c != postCounter s j
      let s := dropColl { s with grd := ⟨[], []⟩, netNotes := notes }
      let s := wr s GRD_STATUS_open 0
      if bad.isEmpty then s else grdDisarm s

end Sys2Proof.Machine
end

