-- ==== Sys2Proof/Machine/Runs.lean ====
section
/-! DEFINITION. Runs: kickoff, task starts, completion, aborts and the end of a run
(10_jobs_graphs_and_timetable.md, R250, R256, R261, R264 to R273; 09, R239 to R241; 02, R43, R44, R46; 13, R336, R337,
R347; 14, R353, R354). -/

namespace Sys2Proof.Machine

/-! ### Which runs -/

/-- Whether a run has kicked off and has not ended, its aborts and retakes included. -/
def Run.live (x : Run) : Bool := x.phase != .pending && x.phase != .ended

/-- Whether the sequencers of a run still issue. -/
def Run.runs (x : Run) : Bool := x.phase == .running || x.phase == .stopping

/-- The run of a job that has kicked off and not ended. -/
def liveRun (s : State) (j : Nat) : Option (Nat × Run) := s.runs.find? fun p => p.2.job == j && p.2.live

/-- Whether a job has a run pending or running (R256, R258). -/
def jobBusy (s : State) (j : Nat) : Bool :=
  s.runs.any (fun p => p.2.job == j && p.2.phase != .ended)

/-- The tiles of a run. -/
def tilesOfRun (s : State) (x : Run) : List Nat := ((Store.get? s.jobs x.job).map (·.tiles)).getD []

/-- The instant of the start bell of period `n` of a binding (R266). -/
def Period.bellAt (p : Period) (n : Nat) : Nat := p.firstStart + n * p.periodNs

/-- The window at whose start a bell reached now acts (R43). DEDUCED (log 23). -/
def actWindow (s : State) : Nat := windowNow s + 2

/-- Whether the windows stand: a relock or a roll call is under way (R41). -/
def gridStopped (s : State) : Bool := s.time.relock || s.time.rollCall != 0

/-- Whether an action chosen for the start of window `w` can be taken in domain `q` now: its boundary has come (R43). -/
def boundaryCome (s : State) (w : Nat) : Bool := !gridStopped s && decide (w ≤ windowNow s)

/-- KICK_DEFERRED raised (R44, R358). -/
def kickDeferred (s : State) : State := raise s TIM_CAUSE_cause 12

/-! ### Kickoff of a tile (R248, R264) -/

/-- The registers of a tile that a kickoff clears (R94, R124, R164, R200, R228, R248). -/
def clearKick (s : State) (t : Nat) : State :=
  let s := wrs (releaseStall s t) [(TIL_ERR_code t, 0), (TIL_ERR_slot t, 0), (TIL_ERR_pc t, 0), (TIL_ERR_valid t, 0), (TIL_ERR_TICK_tick t, 0),
    (TIL_SLIP_slips t, 0), (TIL_SLIP_records t, 0), (TIL_GUARD_held t, 0), (TIL_SLIP_FIRST_pc t, 0), (TIL_SLIP_FIRST_kind t, 0),
    (TIL_SLIP_FIRST_slot t, 0), (TIL_SLIP_FIRST_valid t, 0), (TIL_SLIP_FIRST_AT_tick t, 0), (TIL_SLIP_FIRST_AT_length t, 0),
    (TIL_SLIP_LONG_pc t, 0), (TIL_SLIP_LONG_kind t, 0), (TIL_SLIP_LONG_slot t, 0), (TIL_SLIP_LONG_valid t, 0),
    (TIL_SLIP_LONG_AT_tick t, 0), (TIL_SLIP_LONG_AT_length t, 0)]
  let s := wrs s [(TIL_SEQ_STATUS_halt_code t, 0), (TIL_SEQ_STATUS_loops_active t, 0), (TIL_TICK_tick t, 0), (TIL_CAUSE_cause t, 0)]
  let s := wrs s [(ME_STATUS_wbuf0_valid t, 0), (ME_STATUS_wbuf1_valid t, 0), (ME_STATUS_shadow_next t, 0), (ME_MMA_COUNT_mma t, 0),
    (ME_GATE_gated_groups t, 0), (ME_GATE_gated_mma t, 0), (ME_SHADOW_compares t, 0), (ME_SHADOW_mismatches t, 0),
    (ME_SHADOW_last_pos t, 0), (ME_SHADOW_INFO_last_mma t, 0), (ME_ERR_INFO_cause t, 0), (ME_ERR_INFO_pc t, 0), (ME_ERR_INFO_acc t, 0),
    (ME_ERR_INFO_pos t, 0), (ME_ERR_INFO_overflow t, 0), (ME_ERR_INFO_nonfinite t, 0)]
  let s := wrs s [(VE_TRAY_peak_lines t, 0), (VE_COUNT_chains t, 0), (VE_COUNT_pops t, 0), (VE_ERR_INFO_cause t, 0),
    (VE_ERR_INFO_pc t, 0), (VE_ERR_INFO_chain t, 0), (AID_LOCKER_fetches t, 0), (AID_LOCKER_writes t, 0), (AID_ERR_INFO_cause t, 0),
    (AID_ERR_INFO_pc t, 0), (AID_ERR_INFO_aide t, 0), (AID_ERR_INFO_op t, 0)]
  let s := wrs s [(SPD_ECC_me_corrected t, 0), (SPD_ECC_ve_corrected t, 0), (SPD_ECC_aide_corrected t, 0), (SPD_ECC_array_corrected t, 0),
    (BDR_REFRESH_refr t, 0), (BDR_REFRESH_controller t, 0), (BDR_REFRESH_late t, 0), (BDR_STATIC_held_ticks t, 0),
    (BDR_STATIC_conflicts t, 0), (BDR_STATIC_crc_resends t, 0), (BDR_STATIC_corrected t, 0), (TIL_LPASS_outstanding0 t, 0),
    (TIL_LPASS_outstanding1 t, 0), (TIL_LPASS_excess_ticks t, 0), (TIL_LPASS_issued t, 0), (TIL_LPASS_BYTES_bytes t, 0),
    (TIL_XFER_ERR_cause t, 0), (TIL_XFER_ERR_pc t, 0), (TIL_XFER_ERR_tmpl t, 0), (TIL_XFER_ERR_eng t, 0), (TIL_XFER_ERR_piece t, 0)]
  wrs s [(CH_STALE_lines t, 0), (CH_ORPHAN_tile t, 0), (CH_ORPHAN_queue t, 0), (CH_ORPHAN_endpoint t, 0), (CH_ORPHAN_at_reader t, 0),
    (CH_ORPHAN_pc t, 0), (CH_ORPHAN_valid t, 0), (CH_WDOG_stalled t, 0)]

/-- The queues and endpoints of a tile as a kickoff sets them from the routes of its job's tiles (R206). -/
def kickQueues (s : State) (t : Nat) (mine : List Nat) : State :=
  let s := (List.range 16).foldl (fun s q =>
    let writer := (mine.flatMap fun u => (List.range 16).map fun e => (u, e)).find? fun p =>
      rd s (CH_ROUTE_path p.1 p.2) != 0 && rd s (CH_ROUTE_dst_tile p.1 p.2) == t && rd s (CH_ROUTE_dst_q p.1 p.2) == q
    let opens := match writer with
      | some (u, e) => rd s (CH_ROUTE_open_at_kickoff u e)
      | none => 0
    wrs s [(CH_QSTAT_fill t q, 0), (CH_QSTAT_open t q, opens), (CH_QSTAT_incarnation t q, 0), (CH_QSTAT_unread t q, 0),
      (CH_QSTAT_orphans t q, 0)]) s
  (List.range 16).foldl (fun s e =>
    let opens := rd s (CH_ROUTE_path t e) != 0 && on s (CH_ROUTE_open_at_kickoff t e)
    wrs s [(CH_EPSTAT_open t e, b2n opens), (CH_EPSTAT_credits t e, if opens then rd s (CH_ROUTE_depth t e) else 0),
      (CH_EPSTAT_orphan_sends t e, 0), (CH_EPSTAT_held_ticks t e, 0)]) s

/-- The watchdog exponent a contract names (R225). -/
def wdogOf (n : Nat) : Nat := if n = 0 then 20 else n

/-- The hidden state of a tile after a kickoff: what the loader wrote, refresh ages, and the digests of its run stay
(R64, R66, R95, R96, R143, R153, R156, R157, R334). -/
def kickedTile (s : State) (t run task entry : Nat) : Tile :=
  let y := tileOf s t
  let q := tilePart s t
  { Tile.init with
    accKick := s.freeCtr, wbuf := y.wbuf, descs := y.descs, tmpls := y.tmpls, chains := y.chains, bundles := y.bundles
    entryPc := entry, task := some (run, task), kickWin := s.windows, kickBubbles := Store.getD s.bubbles q 0
    segTags := y.segTags, layers := y.layers, digestOver := y.digestOver, lkIssued := y.lkIssued
    qOpened := (List.range 16).map fun k => (k, s.now)
    refreshed := y.refreshed, refrBusy := 0, stretch := y.stretch, bubbleReq := y.bubbleReq }

/-- A tile kicked off for a task: tick 0 at entry_pc, at the boundary that started the window now open (R43, R69, R264). -/
def kickTile (s : State) (t run task : Nat) (x : Run) (entry : Nat) : State :=
  let s := { takeFree (setTile s t (kickedTile s t run task entry)) 131072 with
    waiters := s.waiters.filter fun w => w.tile != t, cleared := Store.erase s.cleared t }
  let s := kickQueues (clearKick s t) t (tilesOfRun s x)
  let s := wrs s [(TIL_MODE_strict t, b2n x.strict), (TIL_MODE_slip_fatal t, b2n x.slipFatal), (CH_WDOG_limit_log2 t, wdogOf x.wdog),
    (TIL_SEQ_STATUS_pc t, entry), (TIL_SEQ_STATUS_state t, 1), (TIM_KICK_TOD_kick_tod t, s.time.winTod)]
  syncTray s t

/-! ### Tasks (R264) -/

/-- The task tiles of a task. -/
def TaskRec.span (k : TaskRec) : List Nat := rangeFrom k.first k.tiles

/-- Whether every condition of a task but the run's kickoff is met: its predecessors have completed, and every lower-level
task that uses one of its tiles has (R264). -/
def taskReady (j : Job) (x : Run) (k : Nat) : Bool :=
  match j.tasks[k]? with
  | none => false
  | some a =>
    (j.edges.all fun e => e.2 != k || x.done.contains e.1)
      && (j.tasks.zipIdx.all fun b => x.done.contains b.2 || decide (a.level ≤ b.1.level)
        || b.1.span.all fun u => !a.span.contains u)

/-- The tasks whose last condition has just been met join those waiting for a boundary (R264). -/
def readyTasks (s : State) (r : Nat) : State :=
  match Store.get? s.runs r with
  | none => s
  | some x =>
    match Store.get? s.jobs x.job with
    | none => s
    | some j =>
      let ks := (List.range j.tasks.length).filter fun k =>
        !x.started.contains k && !(x.ready.any fun p => p.1 == k) && taskReady j x k
      modRun s r fun x => { x with ready := x.ready ++ ks.map fun k => (k, actWindow s) }

/-- A task started on its tiles (R264). -/
def startTask (s : State) (r k : Nat) : State :=
  match Store.get? s.runs r with
  | none => s
  | some x =>
    match Store.get? s.jobs x.job with
    | none => s
    | some j =>
      match j.tasks[k]? with
      | none => s
      | some a =>
        let s := modRun s r fun x => { x with started := k :: x.started, ready := x.ready.filter fun p => p.1 != k }
        a.span.foldl (fun s u => kickTile s (j.tiles.getD u 0xFFF) r k x a.entryPc) s

/-! ### The end of a run -/

/-- The last kickoff boundary of the pending runs of a job put off: none acts before the boundary that R43 gives for now
(R265); after an overrun, none before the next boundary (R268). -/
def delayPending (s : State) (j w : Nat) : State :=
  { s with runs := s.runs.map fun p =>
    (p.1, if p.2.job = j ∧ p.2.phase = .pending then { p.2 with kickWin := p.2.kickWin.map fun v => max v w } else p.2) }

/-- The margin of a run noted: the last and the smallest (R269, R276). -/
def noteMargin (s : State) (x : Run) (m : Nat) : State :=
  let q := partOfRun s x
  let m := min m 0xFFFFFFFF
  let s := wrs s [(CTL_PERIOD_MARGIN_last_margin_ns q, m),
    (CTL_PERIOD_MARGIN_min_margin_inv q, max (rd s (CTL_PERIOD_MARGIN_min_margin_inv q)) (0xFFFFFFFF - m))]
  match bindingOf s x.subm with
  | some p => if p.slackUs ≠ 0 ∧ m < 1000 * p.slackUs then raise s CTL_DISP_CAUSE_cause 4 else s
  | none => s

/-- The valid payload of a reply entry, none where it is empty or bad (R297). -/
def entryPayload (e : Bytes) : Option Bytes :=
  if entryBad e || fieldLE e 0 1 == 0 then none else some (sliceB e 0x20 (fieldLE e 1 1))

/-- The BEFORE lines of a period run's end: seats and carry slots answered that have no line in this attempt (R337).
DEDUCED (log 27). -/
def beforeLines (s : State) (r : Nat) (x : Run) (j : Job) (f : Form) (n : Nat) : State :=
  let seats := (s.copies.filter fun c => c.bind == x.subm && c.period == n).flatMap fun c => c.seats.zipIdx
  let s := seats.foldl (fun s p =>
    if p.1.status.isSome ∧ !p.1.gone then
      let pay := (entryPayload (readBytes s (replyAddr s j f n p.2) 64)).getD []
      addLine s r ⟨false, 0, p.2, lineBytes false 0 4 p.2 p.1.req.tag p.1.req.ts p.1.req.record pay⟩
    else s) s
  let cs := s.carries.filter fun c => c.bind == x.subm && c.into == some n && c.status.isSome
  cs.foldl (fun s c => match c.req with
    | some q =>
      let pay := (entryPayload (readBytes s (carryReplyAddr s j f n c.plan c.slot) 64)).getD []
      addLine s r ⟨true, c.plan, c.slot, lineBytes true c.plan 4 c.slot q.tag q.ts q.record pay⟩
    | none => s) s

/-- The index word of a job's seat region (R294). -/
def seatIndex (s : State) (j : Job) (f : Form) : Nat :=
  fieldLE (readBytes s (((j.regions[f.seatRegion]?).map (·.addr)).getD 0) 8) 0 8

/-- The copy a replay run reads, as `n` of R294: the copy bit decides the copy, bits 63:32 the number. -/
def replayPeriod (s : State) (j : Job) (f : Form) : Nat :=
  let w := seatIndex s j f
  w / 2 ^ 32 / 2 * 2 + w % 2

/-- The seats of a replay run, with their records (R347). -/
def replaySeats (s : State) (j : Job) (f : Form) : List (Nat × Bytes) :=
  let base := copyBase s j f (seatIndex s j f % 2) + 512
  ((List.range s.part.seats).map fun k => (k, readBytes s (base + k * f.recordBytes) f.recordBytes)).filter fun p =>
    bitOf (fieldLE p.2 0x1C 1) 0

/-- The line of a seat or a carry slot of a replay run, from its reply entry: SCORED, or NONE where that is not valid (R347). -/
def replayLine (s : State) (r : Nat) (isCarry : Bool) (plan idx entry : Nat) (b : Bytes) : State :=
  let pay := entryPayload (readBytes s entry 64)
  let st := if pay.isSome then 0 else 5
  addLine s r ⟨isCarry, plan, idx, lineBytes isCarry plan st idx (fieldLE b 8 8) (fieldLE b 0 8) b (pay.getD [])⟩

/-- The lines of a replay run, formed at its end from the reply entries: of each seat that has none yet, and of each carry slot
carried into its fills (R337, R347, R348). DEDUCED (log 27). -/
def replayLines (s : State) (r : Nat) (x : Run) (j : Job) (f : Form) : State :=
  let n := seatIndex s j f % 2
  let s := x.replay.foldl (fun s p => replayLine s r false 0 p.1 (replyAddr s j f n p.1) p.2) s
  x.carryIn.foldl (fun s c => replayLine s r true c.1 c.2.1 (carryReplyAddr s j f n c.1 c.2.1) c.2.2) s

/-- The lines that a run's end forms (R337, R347). -/
def endLines (s : State) (r : Nat) : State :=
  match Store.get? s.runs r with
  | none => s
  | some x =>
    if x.serial.isNone then s
    else match Store.get? s.jobs x.job with
      | none => s
      | some j =>
        match j.form, x.kind with
        | some f, .period n => beforeLines s r x j f n
        | some f, .graph => replayLines s r x j f
        | none, _ => s

/-- The unbinding descriptor of a binding completed; one that an OUT module makes by itself has none, and carries the
binding's own number (R272, R371). -/
def unbindDone (s : State) (p : Period) (d : Nat) : State := if d = p.subm then s else pumpAll (complete s d stOk 0)

/-- A binding ended, an unbinding descriptor that waits for it completed, and its plans unbound once no run of the job is in
progress (R133, R139, R272). -/
def endBind (s : State) (q status detail retakes epoch : Nat) : State :=
  match Store.get? s.periods q with
  | none => s
  | some p =>
    let s := match p.unbind with
      | some d => unbindDone s p d
      | none => s
    let s := endBinding s q status detail retakes epoch
    if (liveRun s p.job).isNone then unbindPlans s p.job else s

/-- The pending period runs of a job dropped. -/
def dropPeriodRuns (s : State) (j : Nat) : State :=
  { s with runs := s.runs.map fun p => (p.1, if p.2.job = j ∧ p.2.phase = .pending ∧ p.2.kind ≠ .graph then
      { p.2 with phase := .ended, outcome := 5, recorded := true } else p.2) }

/-- A run ended with a status: the entry of a RUN_GRAPH is posted; PROGRAM_ERROR and FAULT of a period run unbind its job
at once (R261, R272, R273). -/
def endRun (s : State) (r outcome status detail : Nat) : State :=
  match Store.get? s.runs r with
  | none => s
  | some x =>
    let s := endLines s r
    let s := modRun s r fun x => { x with phase := .ended, outcome := outcome, endTod := tod s }
    let s := match Store.get? s.runs r with
      | some y => if y.serial.isNone then modRun s r fun x => { x with recorded := true } else s
      | none => s
    let s := delayPending s x.job (if outcome = 4 then windowNow s + 1 else actWindow s)
    let s := match x.kind with
      | .graph => pumpAll (completeFull s x.subm status detail x.retakes x.epoch)
      | .period _ =>
        let bound := (s.periods.find? fun p => p.2.subm == x.subm).map (·.1)
        (match bound with
        | some q =>
          if status = stProgramError ∨ status = stFault ∨ status = stAborted then
            endBind (dropPeriodRuns s x.job) q status detail x.retakes x.epoch
          else s
        | none => s)
    if x.kind != .graph && (s.periods.all fun p => p.2.subm != x.subm) then unbindPlans s x.job else s

/-- The detail word of a run that completed (R261). -/
def okDetail (x : Run) : Nat := min x.heldTicks (2 ^ 32 - 1) + 2 ^ 32 * min x.slipRecs 0xFFFF

/-- The number of the next start bell of a binding: of those to come, none that TIM_TOD has reached (R266, R269). -/
def Period.nextBell (p : Period) (tod : Nat) : Nat :=
  max p.nextStart (if tod < p.firstStart then 0 else (tod - p.firstStart) / p.periodNs + 1)

/-- A run whose every task has completed: its margin is the time to the next start bell (R264, R269). DEDUCED (log 25). -/
def completeRun (s : State) (r : Nat) : State :=
  match Store.get? s.runs r with
  | none => s
  | some x =>
    let s := match x.kind, bindingOf s x.subm with
      | .period _, some p => noteMargin s x (p.bellAt (p.nextBell (tod s)) - tod s)
      | _, _ => s
    endRun s r 0 stOk (okDetail x)

/-! ### Completion of a tile (R73, R264) -/

/-- The held ticks, slip records and layer digests of a tile added to its run (R261, R335). -/
def gatherTile (s : State) (t r : Nat) : State :=
  let x := tileOf s t
  let tt := rd s (TIL_MODE_task_tile t)
  modRun s r fun y => { y with
    heldTicks := y.heldTicks + x.heldAll, slipRecs := y.slipRecs + x.recsAll
    layersAt := y.layersAt.filter (fun p => p.1 != tt) ++ x.layers.map fun l => (tt, l) }

/-- Whether a halted tile can report completion: every earlier operation has delivered its result (R73, R215). -/
def mayComplete (s : State) (t : Nat) : Bool :=
  let x := tileOf s t
  seqState s t == 4 && x.task.isSome && x.xfers.isEmpty && x.aidOut == 0 && x.unsettled == 0 && !x.marks.any (·.waits)

/-- Whether every task of a run has completed (R264). -/
def allDone (s : State) (r : Nat) : Bool :=
  match Store.get? s.runs r with
  | none => false
  | some x => x.phase == .running && (match Store.get? s.jobs x.job with
    | some j => (List.range j.tasks.length).all fun k => x.done.contains k
    | none => false)

/-- TILE_COMPLETE: a halted tile reports completion once every earlier result is delivered; a task completes when all its
tiles have reported, and a run when all its tasks have and every
post it made has been read (R73, R264, R327). -/
def execTileComplete (t : Nat) (s : State) : Host.Outcome State Fault Refusal :=
  .next <|
    match (tileOf s t).task with
    | none => s
    | some (r, k) =>
      if !mayComplete s t then s
      else
        let last := max (tickOf s t) (((tileOf s t).haltTick).getD 0)
        let s := settleBy (setTick (flushMicros s t) t last) t last
        let s := gatherTile (closeQueues s t) t r
        let s := modTile s t fun x => { x with task := none, haltTick := none, hints := [] }
        let s := modRun s r fun y => { y with tilesDone := t :: y.tilesDone }
        match Store.get? s.runs r with
        | none => s
        | some x =>
          match Store.get? s.jobs x.job with
          | none => s
          | some j =>
            let mine := ((j.tasks[k]?).map (·.span)).getD []
            if x.phase != .running || mine.any (fun u => ((tileOf s (j.tiles.getD u 0xFFF)).task).map (·.2) == some k) then s
            else
              let s := modRun s r fun y => { y with done := k :: y.done }
              if allDone s r then (if postsUnread s x.job then s else completeRun s r) else readyTasks s r

/-- TASK_START: a task whose conditions were met in window W starts at the start of window W + 2, a bubble first
(R44, R264). -/
def execTaskStart (run task : Nat) (s : State) : Host.Outcome State Fault Refusal :=
  .next <| match Store.get? s.runs run with
    | none => s
    | some x =>
      match x.ready.find? (fun p => p.1 == task) with
      | none => s
      | some (_, w) =>
        if x.phase != .running || !boundaryCome s w then s
        else if inBubble s (partOfRun s x) then
          kickDeferred (modRun s run fun x => { x with
            ready := x.ready.map fun p => if p.1 = task then (task, windowNow s + 1) else p })
        else readyTasks (startTask s run task) run

/-! ### Kickoff of a run (R43, R44, R46, R217, R222, R265) -/

/-- Whether a run comes before another in the order of R265, a retake before every other run of its job (R273). -/
def Run.before (a b : Run) : Bool :=
  if a.retakes ≠ b.retakes ∧ a.job = b.job then decide (b.retakes < a.retakes)
  else decide (a.bell < b.bell) || (a.bell == b.bell && (decide (a.prio < b.prio) || (a.prio == b.prio && decide (a.subm < b.subm))))

/-- Whether a pending run has to wait: its bell has not been reached, another run of its job is in progress or comes
before it, windows stand, or a frequency step holds RUN_GRAPH runs back (R52, R265). -/
def kickBlocked (s : State) (r : Nat) (x : Run) : Bool :=
  x.phase != .pending || x.kickWin.isNone || (liveRun s x.job).isSome || gridStopped s
    || (s.runs.any fun p => p.1 != r && p.2.job == x.job && p.2.phase == .pending && p.2.before x)
    || (on s TIM_FREQ_CTL_busy && x.kind == .graph)

/-- Whether a replacement stands in the way of a kickoff on tile `t`: one that has begun, or, before a retake, one that is
due (R353, R358, R359). -/
def replacing (s : State) (t : Nat) (isRetake : Bool) : Bool :=
  (s.unitSubs.any fun u => u.tile == t && (u.begun || (isRetake && (on s REL_CFG_auto_en || u.subm.isSome))))
    || (s.siteSubs.any fun u => u.tile == t && (u.begun || isRetake))

/-- The first sealed region of a job that has not been filled (R189). -/
def unfilled (j : Job) : Option Nat := j.regions.findIdx? fun g => g.isSealed && !g.filled

/-- The counters of a job set to their initial values and thresholds under a run epoch (R217). -/
def armCounters (s : State) (j : Nat) (x : Job) (epoch : Nat) : State :=
  x.ctrs.zipIdx.foldl (fun s p =>
    let c := x.ctrFirst + p.2
    wrs s [(SYN_CTR_value c, p.1.2), (SYN_CTR_threshold c, p.1.1), (SYN_CTR_epoch c, epoch), (SYN_CTR_job_id c, j)]) s

/-- The lines of requests of a period answered before the first attempt kicked off. -/
def earlyLines (s : State) (r : Nat) (x : Run) (n : Nat) : State :=
  let seats := (s.copies.filter fun c => c.bind == x.subm && c.period == n).flatMap fun c => c.seats.zipIdx
  seats.foldl (fun s p => match p.1.status with
    | some st => if p.1.gone then s else
        addLine s r ⟨false, 0, p.2, lineBytes false 0 st p.2 p.1.req.tag p.1.req.ts p.1.req.record p.1.payload⟩
    | none => s) s

/-- A doubles run named by its period number, or by the count of the job's runs since pairing (R367). -/
def nameRun (s : State) (r : Nat) (x : Run) : State :=
  match x.kind with
  | .period n => modRun s r fun x => { x with name := some ⟨x.job, n⟩ }
  | .graph =>
    let n := Store.getD s.dbl.count x.job 0
    modRun { s with dbl := { s.dbl with count := Store.set s.dbl.count x.job (n + 1) } } r fun x => { x with name := some ⟨x.job, n⟩ }

/-- A run kicked off: the epoch advances, the counters are initialised, a serial is taken, and the level-0 tasks start
(R217, R222, R264, R336, R347). -/
def kickRun (s : State) (r : Nat) (x : Run) (j : Job) : State :=
  let epoch := (Store.getD s.epochs x.job 0 + 1) % 256
  let s := { s with epochs := Store.set s.epochs x.job epoch, epochAt := Store.set s.epochAt x.job s.now
                    undoRun := Store.erase s.undoRun j.part }
  let s := if grdArmed s x.job then { s with grd := { s.grd with readIdx := [] } } else s
  let s := if dblPart s j.part && x.name.isNone then nameRun s r x else s
  let s := armCounters s x.job j epoch
  let audited := auditOn s j.part
  let serial := rd s (AUD_RUN_SERIAL_serial j.part)
  let s := if audited then wr s (AUD_RUN_SERIAL_serial j.part) (serial + 1) else s
  let replay := match x.kind, j.form with
    | .graph, some f => replaySeats s j f
    | _, _ => []
  let s := modRun s r fun x => { x with
    phase := .running, epoch := epoch, kickTod := s.time.winTod, serial := if audited then some serial else none, replay := replay }
  let s := match x.kind with
    | .period n =>
      let s := (plansOf s x.job).foldl (fun s p => planStart s p n) s
      if audited && x.retakes == 0 then earlyLines s r x n else s
    | .graph =>
      let n := match j.form with
        | some f => replayPeriod s j f
        | none => 0
      (plansOf s x.job).foldl (fun s p => planStart s p n) s
  let s := j.tiles.foldl (fun s t => modTile s t fun y => { y with segTags := [], layers := [], digestOver := false, lkIssued := 0 }) s
  let zero := (List.range j.tasks.length).filter fun k => ((j.tasks[k]?).map (·.level)) == some 0
  readyTasks (zero.foldl (fun s k => startTask s r k) s) r

/-- A RUN_GRAPH run's kickoff checks: sealed regions and plan numbers (R265, R347). -/
def graphKick (s : State) (r : Nat) (x : Run) (j : Job) : State :=
  match unfilled j with
  | some g => endRun s r 5 stSealedPending g
  | none =>
    match planHolder s x.job j with
    | some h => endRun s r 5 stJobBound h
    | none => kickRun (if (plansOf s x.job).isEmpty then bindPlans s x.job j true else s) r x j

/-- KICKOFF: a pending run kicks off at the boundary its bell gave; a roll call that is due begins first; a bubble, a
replacement at one of its tiles, or an epoch younger than 4 µs puts it off to a later boundary (R43, R44, R46, R222, R265,
R358). DESIGN CHOICE (log 11); DEDUCED (log 23, 25). -/
def execKickoff (run : Nat) (s : State) : Host.Outcome State Fault Refusal :=
  .next <| match Store.get? s.runs run with
    | none => s
    | some x =>
      match Store.get? s.jobs x.job with
      | none => s
      | some j =>
        if kickBlocked s run x then s
        else if s.time.rollDue then { s with time := { s.time with rollCall := 1, rollRun := some run } }
        else if !boundaryCome s (x.kickWin.getD 0) then s
        else
          let putOff := modRun s run fun x => { x with kickWin := some (windowNow s + 1) }
          if inBubble s j.part || j.tiles.any (fun t => replacing s t (decide (0 < x.retakes))) then kickDeferred putOff
          else if (match Store.get? s.epochAt x.job with
            | some t => decide (s.now < t + 4000)
            | none => false) then putOff
          else match x.kind with
            | .graph => graphKick s run x j
            | .period _ => kickRun s run x j

/-! ### Aborts (R240, R241, R268, R353) -/

/-- A granule choice of a transfer cut short: whether its new contents were written (R195, R240). -/
def granuleWritten (s : State) (g : Nat) : Bool := Config.freeValue (s.freeCtr + g) % 2 == 1

/-- A piece cut short by an abort: each 64-byte granule of its destination holds its old or its new contents. -/
def cutPiece (s : State) (t : Nat) (f : Transfer) (k : Nat) : State :=
  if pieceSkipped s f k || !pieceOk s t f k then s
  else
    let n := tPiece f.tdata
    let dst := pieceDst s f k
    let new := (pieceBytes s f k).zipIdx.map fun p =>
      if granuleWritten s (n + (dst + p.2) / 64 - dst / 64) then some p.1 else none
    takeFree (writeMasked s dst new) (2 * n)

/-- The transfers of a tile ended by an abort: what each wrote is undefined, granule by granule, inside its destination
(R195, R240). DESIGN CHOICE (log 19). -/
def cutXfers (s : State) (t : Nat) : State :=
  let s := (tileOf s t).xfers.foldl (fun s f =>
    (rangeFrom f.donePieces (tPieces f.tdata - f.donePieces)).foldl (fun s k => cutPiece s t f k) s) s
  syncLpass (modTile s t fun x => { x with xfers := [] }) t

/-- A run's tiles stopped and its units' work ended: JOB_STOPPED at those that run, queues closed, transfers cut, carried
state discarded, grading stopped (R139, R211, R240, R327). DEDUCED (log 25). -/
def abortRun (s : State) (r : Nat) : State :=
  match Store.get? s.runs r with
  | none => s
  | some x =>
    let ts := tilesOfRun s x
    let s := ts.foldl (fun s t =>
      let mine := ((tileOf s t).task).map (·.1) == some r
      let s := if mine then gatherTile (stopTile s t) t r else s
      let s := settleCrossing s t
      let s := if mine && seqState s t == 4 then haltTile s t 4 else s
      let s := cutXfers (closeQueues s t) t
      modTile s t fun y => { y with task := none, hints := [] }) s
    grdAbort (discardJobCarry (modRun s r fun x => { x with phase := .aborting, ready := [] }) x.job) x.job

/-- The window of a reason to stop, where it has one (R240). -/
def StopCause.window : StopCause → Option Nat
  | .program _ _ _ _ w => some w
  | .fault _ w => some w
  | _ => none

/-- Whether the start bell after a run's has acted: a later period run of the job waits at a boundary that has come
(R268). -/
def overrunNow (s : State) (r : Nat) (x : Run) : Bool :=
  s.runs.any fun p => p.1 != r && p.2.job == x.job && p.2.phase == .pending && p.2.kind != .graph && x.kind != .graph
    && decide (p.2.retakes = 0) && (match p.2.kickWin with
      | some w => boundaryCome s w
      | none => false)

/-- Whether a run that a fault stopped may be retaken; code 0xFF is a doubles disagreement, after which one retake is made
at most (R354). -/
def mayRetake (x : Run) (detail : Nat) : Bool :=
  decide (x.retakes < 2) && detail % 256 != 0x0A && detail % 256 != 0x0E && !x.opened && !x.undoBroken && !x.barred
    && !(detail % 256 == 0xFF && x.disagreed != 0)

/-- Whether a run that is being stopped for another reason ends for that reason at a start bell: a program error, a reset, an
UNLOAD, a fault after which it is not retaken (R240, R241, R268, R273). DEDUCED (log 25). -/
def stopStands (x : Run) : Bool :=
  match x.stop with
  | none => false
  | some .overrun => true
  | some (.fault d _) => !mayRetake x d
  | some _ => true

/-- A run aborted as a period overrun, a retake that waits included: counted, its cause raised, margin 0 (R268, R269, R273). -/
def overrun (s : State) (r : Nat) (x : Run) : State :=
  let s := raise (bump s (CTL_PERIOD_COUNT_overruns (partOfRun s x)) 1) CTL_DISP_CAUSE_cause 2
  let s := noteMargin s x 0
  let s := modRun s r fun y => { y with stop := some .overrun }
  if x.runs then abortRun s r else if x.phase = .pending ∨ x.phase = .retakeWait then endRun s r 4 stOk 0 else s

/-- JOB_STOP: at the first window boundary after an error of a run its other tiles stop and it is aborted; at the boundary
of a start bell a run still in progress is aborted as an overrun (R226, R240, R268). -/
def execJobStop (job : Nat) (s : State) : Host.Outcome State Fault Refusal :=
  .next <| match s.runs.find? (fun p => p.2.job == job && (p.2.live || (p.2.phase == .pending && decide (0 < p.2.retakes)))) with
    | none => s
    | some (r, x) =>
      if overrunNow s r x && !(stopStands x && x.phase != .retakeWait) then overrun s r x
      else if x.phase ≠ .stopping then s
      else
        let passed := match x.stop.bind StopCause.window with
          | some w => w != windowNow s
          | none => true
        let still := (tilesOfRun s x).all fun t => !tileActive s t
        if passed || still then abortRun s r else s

/-- The outcome code, status and detail that a reason to stop gives a run (R241, R261, R339). -/
def stopStatus (s : State) : StopCause → Nat × Nat × Nat
  | .program t code slot pc _ =>
    if t < s.part.tiles then
      (1, stProgramError, rd s (TIL_ERR_code t) + 2 ^ 6 * rd s (TIL_ERR_slot t) + 2 ^ 9 * rd s (TIL_ERR_pc t) + 2 ^ 23 * t)
    else (1, stProgramError, code + 2 ^ 6 * slot + 2 ^ 9 * pc + 2 ^ 23 * t)
  | .fault d _ => (3, stFault, d)
  | .overrun => (4, stOk, 0)
  | .unload => (5, stAborted, 0)
  | .reset => (5, stAborted, 0)

/-- Whether the locker operations of a run have all completed (R161, R240). -/
def lockersDone (s : State) (x : Run) : Bool :=
  s.lockerQ.all fun p => p.2.all fun o => o.job != x.job || o.epoch != x.epoch

/-- A run prepared for its next attempt: pending again, ahead of every other run of its job (R273). -/
def Run.again (x : Run) (w : Nat) : Run :=
  { x with
    phase := .pending, kickWin := some w, started := [], ready := [], done := [], tilesDone := [], stop := none, epoch := x.epoch
    retakes := x.retakes + 1, disagreed := x.disagreed + b2n (x.fault == 0xFF), undoBroken := false, wrote := false, opened := false, serial := none, lines := [], fetches := [], carryIn := []
    layersAt := [], heldTicks := 0, slipRecs := 0, digestOver := false, forcedFill := false, carryLost := false, outcome := 0
    recorded := false }

end Sys2Proof.Machine
end

