-- ==== Sys2Proof/Machine/Posts.lean ====
section
/-! DEFINITION. The commands of the grading engines while a run posts (12_grading_engine.md, R314 to R326). -/

namespace Sys2Proof.Machine

/-- A run whose tasks have all completed completes once its posts have been read (R327). -/
def finishPosts (s : State) (r : Nat) : State :=
  match Store.get? s.runs r with
  | none => s
  | some x => if allDone s r && !postsUnread s x.job then completeRun s r else s

/-- The rings of the armed job read while its run runs, and the run completed where that was all it waited for. -/
def serveRings (s : State) : State :=
  match grdRun s, Store.get? s.jobs (grdJob s) with
  | some (r, _), some x => finishPosts (readPosts s x) r
  | _, _ => s

/-- POST_READ: an increment of the post counter made known to net die 0: it reads every rank's new entries (R314).
DEDUCED (log 29). -/
def execPostRead (s : State) : Host.Outcome State Fault Refusal :=
  .next <| match postCounter s (grdJob s) with
    | none => s
    | some c => if s.netNotes.contains c then serveRings { s with netNotes := s.netNotes.filter (· != c) } else s

/-- SEGMENT_APPLY: the oldest work of the engines: a final segment delivered is applied (R321, R322, R325).
DEDUCED (log 29). -/
def execSegmentApply (layer seg : Nat) (s : State) : Host.Outcome State Fault Refusal :=
  .next <| match Store.get? (layerOf s layer).finals seg, Store.get? s.jobs (grdJob s) with
    | some g, some x => if on s GRD_JOB_en then applySegment s x layer seg g true else s
    | _, _ => s

/-- TRUST_PHASE_TWO: a complete layer of rule 0x03: missing segments, the journal entry applying, the ratio, every weight
(R318, R322). -/
def execTrustPhaseTwo (layer : Nat) (s : State) : Host.Outcome State Fault Refusal :=
  let y := layerOf s layer
  .next <| match Store.get? s.jobs (grdJob s) with
    | none => s
    | some x =>
      if !on s GRD_JOB_en || !layerComplete s y || gRule y.desc != 3 || y.phase2 then s
      else
        let s := writeOther (applyMissing s x layer) (journalAddr s x layer) [2]
        modLayer (phaseTwo s x layer) layer fun y => { y with phase2 := true }

/-- The descriptor and the journal entry of a layer written at its close (R317, R318, R325). -/
def closeWrites (s : State) (x : Job) (y : GrdLayer) : State :=
  let d := descAddr s x y.layer
  let s := if gFrozen y.desc then s else writeOther s (d + 0x70) (toLE 4 y.t ++ toLE 4 y.p1 ++ toLE 4 y.p2)
  let t := if gFrozen y.desc then fieldLE y.desc 0x70 4 else y.t
  writeOther s (journalAddr s x y.layer)
    (toLE 1 0 ++ toLE 3 0 ++ toLE 4 t ++ toLE 1 (Store.getD s.epochs (grdJob s) 0) ++ toLE 7 0)

/-- LAYER_CLOSE: a complete layer is written, then its descriptor, then its journal entry, then close_ctr is incremented;
rings held back by it are read on (R318, R319). DEDUCED (log 29). -/
def execLayerClose (layer : Nat) (s : State) : Host.Outcome State Fault Refusal :=
  let y := layerOf s layer
  .next <| match Store.get? s.jobs (grdJob s) with
    | none => s
    | some x =>
      if !on s GRD_JOB_en || !layerComplete s y || (gRule y.desc == 3 && !y.phase2) then s
      else
        let s := closeWrites (if gRule y.desc = 3 then s else applyMissing s x layer) x y
        let s := { s with grd := { s.grd with layers := s.grd.layers.filter fun z => z.layer != layer } }
        let s := wrs (bump (syncOpen s) GRD_COUNT_closes 1) [(GRD_STATUS_last_closed, layer), (GRD_STATUS_last_valid, 1)]
        let c := fieldLE y.desc 0x3A 2
        serveRings (if c < x.ctrs.length then
          sendItem s ⟨.incr (x.ctrFirst + c) 1 0 0 false, 0xFFF, 0xFFF, grdJob s, Store.getD s.epochs (grdJob s) 0, s.now⟩
        else s)

/-- The completion statuses of SET_STEP (R326). -/
def stGrdNotArmed : Nat := 0x30
def stGrdBadStep : Nat := 0x31

/-- Whether a step value is negative, NaN or infinite (R326). -/
def badStep (v : Nat) : Bool := !fin32 v || lt32 v 0

/-- SET_STEP: step sizes of grading groups written (R326). -/
def execSetStep (sq : Nat) (s : State) : Host.Outcome State Fault Refusal :=
  .next <| match ready s sq 5 with
    | none => s
    | some d =>
      let first := fieldLE d.bytes 0x10 1
      let n := fieldLE d.bytes 0x11 1
      let v : Nat → Nat := fun i => fieldLE d.bytes (0x18 + 4 * i) 4
      if !grdArmed s d.job then finishDesc s d stGrdNotArmed 0
      else if 64 < first + n ∨ (List.range n).any (fun i => badStep (v i)) then finishDesc s d stGrdBadStep 0
      else finishDesc (wrs s ((List.range n).map fun i => (GRD_STEP_step (first + i), v i))) d stOk 0

end Sys2Proof.Machine
end

