-- ==== Sys2Proof/Machine/Reliability.lean ====
section
/-! DEFINITION. Hardware faults, condemnation, spares, replacement of units, sites and stacks, wear, the maps
(14_reliability_substitution_doubles.md, R351 to R365; 02, R47, R48, R51; 07, R176 to R183; 01, R18, R22, R27). -/

namespace Sys2Proof.Machine

/-! ### Spares -/

/-- The bits of a number, lowest first, of the first `n`. -/
def bitList (v n : Nat) : List Nat := (List.range n).filter fun i => bitOf v i

/-- The free bench row groups of a tile's region (R358). -/
def freeRows (s : State) (t : Nat) : List Nat :=
  (List.range 32).filter fun i => !on s (REL_ROW_used t i) && !on s (REL_ROW_retired t i)

/-- The free bench stacks: fitted, passed, bound to no logical stack, not condemned (R360, R365). -/
def freeStacks (s : State) : List Nat :=
  (List.range s.part.stacksFitted).filter fun p =>
    !on s (REL_STACK_WEAR_in_service p) && !on s (REL_STACK_WEAR_condemned p)
      && (!on s HST_DIE_STATUS_test_done || bitOf (rd s HST_DIE_STATUS_lpd_stack_ok) p)

/-- Whether a site passed its power-up test: its die did (R16). -/
def sitePassed (s : State) (die : Nat) : Bool :=
  decide (die < s.part.dies) && (!on s HST_DIE_STATUS_test_done || bitOf (rd s HST_DIE_STATUS_compute_ok) die)

/-- Whether a logical tile is bound to a site in the map in force. -/
def siteUsed (s : State) (die site : Nat) : Bool :=
  (List.range s.part.tiles).any fun t => (siteOf s t).die == die && (siteOf s t).site == site

/-- Whether the bench site of a die can be taken (R359). -/
def benchFree (s : State) (die : Nat) : Bool :=
  sitePassed s die && !siteUsed s die 8 && !s.badSites.contains (16 * die + 8)

/-! ### Failure of the module (R365) -/

/-- The detail of the first cause for which the module is failed (R352, R365); that of too few sites has an index the spec
does not give. -/
def failCause (s : State) : Option Nat :=
  let tested := on s HST_DIE_STATUS_test_done
  let dies := (List.range 4).filter (fun h => !bitOf (rd s HST_DIE_STATUS_hub_ok) h)
    ++ ((List.range 2).filter fun n => !bitOf (rd s HST_DIE_STATUS_net_ok) n).map (· + 4)
    ++ (if on s HST_DIE_STATUS_control_ok then [] else [6])
  let die : Nat → Nat := fun i => 0x0E + 0xFFF * 2 ^ 8 + i * 2 ^ 20
  match (if tested then dies else []), (List.range s.part.stacksFitted).find? (fun p =>
      on s (REL_STACK_WEAR_condemned p) && on s (REL_STACK_WEAR_in_service p)) with
  | d :: _, _ => some (die d)
  | [], some p => if (freeStacks s).isEmpty then some (0x08 + 0xFFF * 2 ^ 8 + p * 2 ^ 20) else none
  | [], none =>
    if tested ∧ 9 * (bitList (rd s HST_DIE_STATUS_compute_ok) s.part.dies).length < s.part.tiles then
      some (die (Config.freeValue s.freeCtr % 2 ^ 16)) else none

/-- REL_STATUS.failed brought up to date: MODULE_FAILED, state FAILED, and LEAVE to a partner, as it becomes 1 (R365,
R443). DEDUCED (log 31). -/
def evalFailed (s : State) : State :=
  let f := (failCause s).isSome
  let was := on s REL_STATUS_failed
  let s := wr s REL_STATUS_failed (b2n f)
  if f && !was then
    let s := raise s REL_CAUSE_cause 8
    let s := if isReady s then setBoot s 7 else s
    if paired s then emitOut s (.pairMsg 8 [2]) else s
  else s

/-! ### Condemnation (R356, R358) -/

/-- A tile site condemned. -/
def condemnSite (s : State) (t : Nat) : State := raise (wr s (REL_TILE_MAP_condemned t) 1) REL_CAUSE_cause 1

/-- A physical stack condemned. -/
def condemnStack (s : State) (p : Nat) : State := evalFailed (raise (wr s (REL_STACK_WEAR_condemned p) 1) REL_CAUSE_cause 1)

/-- A unit put in line for its replacement at the tile's job boundary, once. -/
def queueUnit (s : State) (t kind idx : Nat) (subm : Option Nat) : State :=
  if s.unitSubs.any fun u => u.tile == t && u.kind == kind && u.idx == idx && u.subm == subm then s
  else { s with unitSubs := s.unitSubs ++ [⟨t, kind, idx, false, subm⟩] }

/-- A unit whose kind has no spare left: a DPU position or an aide passes its condemnation to the tile site, a row group
marks its region (R358). -/
def passOn (s : State) (t kind : Nat) : State :=
  if kind = 5 then wr s (REL_TILE_MAP_region_condemned t) 1 else condemnSite s t

/-- The spare that already serves a unit retired (R358). -/
def retireSpare (s : State) (t kind idx : Nat) : State :=
  if kind = 3 then
    match (List.range 8).find? (fun i => bitOf (rd s (REL_DPU_used t)) i && rd s (REL_DPU_POS_pos t i) == idx) with
    | some i => wrs s [(REL_DPU_used t, setBits (rd s (REL_DPU_used t)) i 1 0),
        (REL_DPU_retired t, rd s (REL_DPU_retired t) ||| 2 ^ i)]
    | none => s
  else if kind = 4 then
    if on s (REL_AIDE_used t) ∧ rd s (REL_AIDE_serves t) = idx then wr s (REL_AIDE_retired t) 1 else s
  else if kind = 5 then
    match (List.range 32).find? (fun i => on s (REL_ROW_used t i) && rd s (REL_ROW_row_group t i) == idx) with
    | some i => wrs s [(REL_ROW_used t i, 0), (REL_ROW_retired t i, 1)]
    | none => s
  else s

/-- Whether a spare of a kind is left in a tile. -/
def spareLeft (s : State) (t kind : Nat) : Bool :=
  if kind = 3 then !(freeDpus s t).isEmpty
  else if kind = 4 then !on s (REL_AIDE_used t) && !on s (REL_AIDE_retired t)
  else if kind = 5 then !(freeRows s t).isEmpty
  else true

/-- A unit condemned: kinds as SUBSTITUTE has them, and 6 a bench DPU (R356 to R358). DEDUCED (log 31). -/
def condemn (s : State) (t kind idx : Nat) : State :=
  if kind = 1 then condemnSite s t
  else if kind = 2 then condemnStack s idx
  else
    let s := raise (retireSpare s t kind idx) REL_CAUSE_cause 1
    if spareLeft s t kind then queueUnit s t kind idx none else passOn s t kind

/-! ### Hardware faults (R351 to R354) -/

/-- The unit a fault names: its kind and index (R351). -/
def faultUnit (code idx : Nat) : Option (Nat × Nat) :=
  if code = 0x01 then some (3, idx)
  else if code = 0x04 ∧ idx < 16 ∨ code = 0x06 then some (4, idx)
  else if code = 0x07 then some (5, idx)
  else if code = 0x08 then some (2, idx)
  else if [0x02, 0x03, 0x04, 0x05, 0x09, 0x0A, 0x0B].contains code then some (1, 0)
  else none

/-- The detail word of a fault (R352). -/
def faultDetail (code tile idx : Nat) (condemned : Bool) : Nat :=
  code % 256 + tile % 4096 * 2 ^ 8 + idx % 65536 * 2 ^ 20 + b2n condemned * 2 ^ 40

/-- The runs in progress that a fault stops: the run of the tile that met it; of the armed job; every run for a die. -/
def faultRuns (s : State) (code tile : Nat) : List Nat :=
  (s.runs.filter fun p => p.2.runs && (
    if code = 0x0E then true
    else if code = 0x0D then grdArmed s p.2.job
    else (tilesOfRun s p.2).contains tile)).map (·.1)

/-- A fault counted at its site or its stack; whether the limit is reached, which sets the count back (R356). -/
def countFault (s : State) (tile : Nat) (u : Option (Nat × Nat)) : State × Bool :=
  let lim := max 1 (rd s REL_CFG_fault_limit)
  let tally (f : Fld) : State × Bool :=
    if lim ≤ rd s f + 1 then (wr s f 0, true) else (wr s f (rd s f + 1), false)
  match u with
  | some (2, p) => tally (REL_STACK_WEAR_faults p)
  | some _ => if tile < s.part.tiles then tally (REL_WEAR_faults tile) else (s, false)
  | none => (s, false)

/-- The MMA whose shadow of an output position differs: the latest with its result formed that a bench DPU shadowed there, of the
last 256 (R122, R123); and the bench DPU, in the order of those not used. DEDUCED (log 31). -/
def shadowMma (s : State) (t pos : Nat) : Nat × Nat :=
  let w := (freeDpus s t).length
  let tick := tickOf s t
  let unformed := ((((tileOf s t).marks.filter fun m => m.slot == 1 && decide (tick < m.present)).filter fun m => match m.res with
    | .acc _ => true
    | _ => false).map (·.issued)).eraseDups.length
  let top := rd s (ME_MMA_COUNT_mma t) - 1 - unformed
  let lane : Nat → Nat := fun n => (pos + 256 * n * w - w * n) % 256
  match (List.range (min 256 (top + 1))).find? fun k => decide (lane (top - k) < w) with
  | some k => (top - k, lane (top - k))
  | none => (top, lane top)

/-- What a shadow mismatch condemns under R357 (position, or bench DPU), and the mismatch kept as the tile's last. -/
def shadowFault (s : State) (t pos : Nat) : State × Option (Nat × Nat) :=
  let (n, i) := shadowMma s t pos
  let phys := (freeDpus s t).getD i 0
  let last := on s (REL_DPU_last_valid t)
  let hit := if last ∧ rd s (REL_DPU_last_pos t) = pos then some (3, pos)
    else if last ∧ rd s (REL_DPU_last_bench t) = i then some (6, phys) else none
  let s := wrs (bump s (ME_SHADOW_mismatches t) 1) [(ME_SHADOW_last_pos t, pos), (ME_SHADOW_INFO_last_mma t, n),
    (REL_DPU_last_pos t, pos), (REL_DPU_last_bench t, i), (REL_DPU_last_valid t, 1)]
  (s, hit)

/-- A hardware fault: recorded, counted, its unit condemned where R356 or R357 says so, and the runs that use the unit
stopped for a retake (R351 to R357). `tile` is the tile that met the fault; REL_FAULT names none for a unit outside a tile.
DEDUCED (log 31). -/
def hwFaultOn (s : State) (code tile idx : Nat) (rs : List Nat) : State :=
  let u := faultUnit code idx
  let key := match u with
    | some (k, i) => k + 8 * (if k = 2 then 0 else tile) + 2 ^ 16 * i
    | none => 0
  let twice := u.isSome && rs.any fun r => match Store.get? s.runs r with
    | some x => x.units.any fun p => p.1 != x.retakes && p.2 == key
    | none => false
  let s := rs.foldl (fun s r => modRun s r fun x => { x with units := if u.isSome then (x.retakes, key) :: x.units else x.units }) s
  let (s, hit) := if code = 0x01 then shadowFault s tile idx else (s, none)
  let (s, limit) := countFault s tile u
  let unit := if (twice || limit) && hit.isNone then u else match hit with
    | some h => if twice || limit then u else some h
    | none => none
  let s := match unit with
    | some (k, i) => condemn s tile k i
    | none => s
  let named := if code = 0x08 ∨ s.part.tiles ≤ tile then 0xFFF else tile
  let detail := faultDetail code named idx unit.isSome
  let s := raise (wrs s [(REL_FAULT_fault, detail), (REL_FAULT_AT_tod, tod s)]) REL_CAUSE_cause 0
  rs.foldl (fun s r =>
    let s := modRun s r fun x => { x.noteStop (.fault detail (windowNow s)) with fault := code }
    match Store.get? s.runs r with
    | some x => (match x.name with
      | some n => if !paired s then s else emitOut s (.pairMsg 7 (toBE 2 n.job ++ toBE 4 n.num 
          ++ toBE 1 (if mayRetake x detail then x.retakes + 1 else 3) ++ toBE 1 code))
      | none => s)
    | none => s) s

/-- A hardware fault of the runs that use the unit of a tile. -/
def hwFault (s : State) (code tile idx : Nat) : State := hwFaultOn s code tile idx (faultRuns s code tile)

/-- HARDWARE_FAULT: a fault of R351's table. -/
def execHardwareFault (code tile idx : Nat) (s : State) : Host.Outcome State Fault Refusal :=
  .next (if 0x01 ≤ code ∧ code ≤ 0x0E then hwFault s code tile idx else s)

/-- TIMING_MARGIN_FAULT: the margin of a tile falls below the second threshold before the bubble it has asked for (R48). -/
def execTimingMarginFault (t : Nat) (s : State) : Host.Outcome State Fault Refusal :=
  .next (if (tileOf s t).bubbleReq then hwFault s 0x0B t 0 else s)

/-- TIM_XOVR_INFO recorded, the first kept. -/
def noteXovr (s : State) (t link : Nat) (under over' : Bool) : State :=
  if on s TIM_XOVR_INFO_underrun || on s TIM_XOVR_INFO_overrun || flag s TIM_CAUSE_cause 9 || flag s TIM_CAUSE_cause 10 then s
  else wrs s [(TIM_XOVR_INFO_tile, t), (TIM_XOVR_INFO_link, link), (TIM_XOVR_INFO_underrun, b2n under),
    (TIM_XOVR_INFO_overrun, b2n over'), (TIM_XOVR_INFO_window, windowNow s)]

/-- XOVR: a crossing buffer of the reader tile underruns or overruns (R51). -/
def execXovr (t link : Nat) (overrun : Bool) (s : State) : Host.Outcome State Fault Refusal :=
  .next (hwFault (raise (noteXovr s t link (!overrun) overrun) TIM_CAUSE_cause 10) 0x09 t link)

/-! ### Refresh and patrol scrub (R177, R178, R183) -/

/-- REFRESH_LATE: a row group of the near region of a running tile has reached an age of 16 ms: refreshed at once (R178).
DESIGN CHOICE (log 11). -/
def execRefreshLate (t rowGroup : Nat) (s : State) : Host.Outcome State Fault Refusal :=
  .next <|
    if tileActive s t && decide (Store.getD (tileOf s t).refreshed rowGroup 0 + 16000000 ≤ s.now) then
      raise (bump (refreshRow s t rowGroup (nowTick s t)) (BDR_REFRESH_late t) 1) (TIL_CAUSE_cause t) 6
    else s

/-- Whether a row group of a tile's region is one of those refreshed longest ago (R177). -/
def oldestRow (s : State) (t row : Nat) : Bool :=
  let age (r : Nat) : Nat := Store.getD (tileOf s t).refreshed r 0
  age row == 0 || (List.range 4096).all fun r => decide (age row ≤ age r)

/-- Whether a static slot of a region is claimed for one of the next 8 ticks (R177). -/
def slotSoon (s : State) (t : Nat) : Bool :=
  s.claims.any fun c => c.region == t && decide (gridNow s t < c.tick) && decide (c.tick ≤ gridNow s t + 8)

/-- CONTROLLER_REFRESH: the controller refreshes the oldest row group of a tile that runs no task, or runs one in guarded mode,
while no static access claims a slot of the next 8 ticks (R177, R233). -/
def execControllerRefresh (t rowGroup : Nat) (s : State) : Host.Outcome State Fault Refusal :=
  .next <|
    if (tileActive s t && on s (TIL_MODE_strict t)) || 4096 ≤ rowGroup || !oldestRow s t rowGroup || slotSoon s t then s
    else bump (modTile s t fun x => { x with refreshed := Store.set x.refreshed rowGroup s.now }) (BDR_REFRESH_controller t) 1

/-- PATROL_SCRUB: patrol scrub reads a block in which it finds an error and writes the correction back (R182, R183).
DEDUCED (log 31). -/
def execPatrolScrub (addr : Nat) (uncorrectable deviceLost passEnd : Bool) (s : State) : Host.Outcome State Fault Refusal :=
  .next <|
    if !on s LPD_SCRUB_en || placeOf s addr != .lpd then s
    else
      let s := if uncorrectable then hwFault (raise (bump s LPD_ECC_uncorrectable 1) LPD_CAUSE_cause 0) 0x08 0xFFF (physStack s addr)
        else if deviceLost then raise (bump s LPD_ECC_device_corrected 1) LPD_CAUSE_cause 1
        else bump s LPD_ECC_corrected 1
      if passEnd then raise (bump s LPD_SCRUB_passes 1) LPD_CAUSE_cause 4 else s

/-! ### Replacement of units (R358) -/

/-- Whether a tile is at a job boundary: no run that uses it runs or is being aborted (R358). -/
def atBoundary (s : State) (t : Nat) : Bool :=
  s.runs.all fun p => !(p.2.runs || p.2.phase == .aborting) || !(tilesOfRun s p.2).contains t

/-- AUTO_SUBSTITUTE: at the tile's job boundary the replacement of a condemned unit begins: under auto_en, or for a
SUBSTITUTE (R358). -/
def execAutoSubstitute (t kind idx : Nat) (s : State) : Host.Outcome State Fault Refusal :=
  .next <|
    if !atBoundary s t || s.unitSubs.any (fun u => u.tile == t && u.begun) || s.siteSubs.any (fun u => u.tile == t && u.begun) then s
    else match s.unitSubs.findIdx? (fun u => u.tile == t && u.kind == kind && u.idx == idx && (on s REL_CFG_auto_en || u.subm.isSome)) with
      | some i => { s with unitSubs := s.unitSubs.modify i fun u => { u with begun := true } }
      | none => s

/-- A replacement made: the registers of the spare, and the number of the spare taken; the bench aide has no number in the spec:
a free value. -/
def replaceUnit (s : State) (t kind idx : Nat) : State × Nat :=
  if kind = 3 then
    let i := (freeDpus s t).headD 0
    (syncShadow (wrs s [(REL_DPU_used t, rd s (REL_DPU_used t) ||| 2 ^ i), (REL_DPU_POS_pos t i, idx)]) t, i)
  else if kind = 4 then (takeFree (wrs s [(REL_AIDE_serves t, idx), (REL_AIDE_used t, 1)]) 1, Config.freeValue s.freeCtr % 2 ^ 64)
  else if kind = 5 then
    let i := (freeRows s t).headD 0
    (wrs s [(REL_ROW_row_group t i, idx), (REL_ROW_used t i, 1)], i)
  else (syncShadow (wr s (REL_DPU_retired t) (rd s (REL_DPU_retired t) ||| 2 ^ idx)) t, idx)

/-- The completion statuses of SUBSTITUTE and SCRUB (R361). -/
def stNoBench : Nat := 0x30
def stUnitBusy : Nat := 0x31
def stTestFailed : Nat := 0x32
def stBadTarget : Nat := 0x33

/-- UNIT_REPLACE_DONE: the replacement that has begun at a tile ends: SUBSTITUTED, or, with no spare left, the condemnation
passes on (R358). -/
def execUnitReplaceDone (t : Nat) (s : State) : Host.Outcome State Fault Refusal :=
  .next <| match s.unitSubs.find? (fun u => u.tile == t && u.begun) with
    | none => s
    | some u =>
      let s := { s with unitSubs := s.unitSubs.filter fun v => v != u && !(v.tile == t && v.kind == u.kind && v.idx == u.idx) }
      let ok := spareLeft s t u.kind
      let (s, spare) := if ok then replaceUnit s t u.kind u.idx else (passOn s t u.kind, 0)
      let s := if ok then raise s REL_CAUSE_cause 2 else s
      match u.subm with
      | some n => pumpAll (complete s n (if ok then stOk else stNoBench) (if ok then spare else 0))
      | none => s

/-! ### Sites (R359) -/

/-- SITE_COPY_START: at the tile's job boundary the copy of a site substitution begins (R359). -/
def execSiteCopyStart (t : Nat) (s : State) : Host.Outcome State Fault Refusal :=
  .next <|
    if !atBoundary s t || s.unitSubs.any (fun u => u.tile == t && u.begun) || s.siteSubs.any (fun u => u.tile == t && u.begun) then s
    else match s.siteSubs.findIdx? (fun u => u.tile == t) with
      | some i => { s with siteSubs := s.siteSubs.modify i fun u => { u with begun := true } }
      | none => s

/-- The scratchpads of a tile with undefined contents. -/
def freeScratch (s : State) (t : Nat) : State :=
  let w := windowOf t
  freeSpan (freeSpan (freeSpan s (w + 0x100000) 0x60000) (w + 0x200000) 0x40000) (w + 0x400000) 0x400000

/-- The registers of a site's own units as a site that has never been repaired has them; REL_WEAR is cleared (R375). -/
def newSiteRegs (s : State) (t : Nat) : State :=
  let s := wrs s [(REL_WEAR_ageing t, 0), (REL_WEAR_ce_rate t, 0), (REL_WEAR_faults t, 0), (REL_WEAR_alert t, 0), (REL_DPU_used t, 0), (REL_DPU_retired t, 0), (REL_DPU_last_pos t, 0),
    (REL_DPU_last_bench t, 0), (REL_DPU_last_valid t, 0), (REL_AIDE_serves t, 0), (REL_AIDE_used t, 0), (REL_AIDE_retired t, 0)]
  syncShadow ((List.range 8).foldl (fun s i => wr s (REL_DPU_POS_pos t i) 0) s) t

/-- The crossing links and the stretches of a tile as a site measured by no roll call has them, the neighbours' sides of its links
too (R54). -/
def newSiteTim (s : State) (t : Nat) : State :=
  let unmeasured (s : State) (u l : Nat) : State :=
    wrs s [(TIM_XOFS_offset u l, 0), (TIM_XFILL_min_fill u l, 4), (TIM_XFILL_max_fill u l, 4)]
  let s := wrs s [(TIM_STRETCH_own t, 0), (TIM_STRETCH_equalising t, 0), (TIM_STRETCH_bubble_req t, 0), (TIM_STRETCH_full_windows t, 0)]
  (List.range 4).foldl (fun s l => match neighbourTile t l with
    | some u => unmeasured (unmeasured s t l) u ((l + 2) % 4)
    | none => unmeasured s t l) s

/-- SITE_COPY_DONE: the copy ends: the map entry moves to the bench site, the old site is condemned, roll call is due
(R46, R359). -/
def execSiteCopyDone (t : Nat) (s : State) : Host.Outcome State Fault Refusal :=
  .next <| match s.siteSubs.find? (fun u => u.tile == t && u.begun) with
    | none => s
    | some u =>
      let old := siteOf s t
      let s := { s with
        siteSubs := s.siteSubs.erase u, siteMap := Store.set s.siteMap t { old with site := 8 }
        badSites := (16 * old.die + old.site) :: s.badSites, time := { s.time with rollDue := true } }
      let s := newSiteTim (newSiteRegs (wrs s [(REL_TILE_MAP_site t, 8), (REL_TILE_MAP_condemned t, 0)]) t) t
      let s := if u.reload then freeScratch s t else s
      pumpAll (complete (raise s REL_CAUSE_cause 2) u.subm stOk (16 * old.die + 8))

/-! ### Stacks (R360) -/

/-- STACK_COPY_DONE: the stack copy ends: the logical stack is bound to the bench stack (R360). -/
def execStackCopyDone (poisoned : Nat) (s : State) : Host.Outcome State Fault Refusal :=
  .next <| match s.stackCopy with
    | none => s
    | some c =>
      let old := Store.getD s.stackMap c.logical c.logical
      let s := { s with stackCopy := none, stackMap := Store.set s.stackMap c.logical c.dest }
      let s := wrs s [(REL_STACK_MAP_phys c.logical, c.dest), (REL_STACK_WEAR_in_service old, 0),
        (REL_STACK_WEAR_in_service c.dest, 1), (REL_STACK_COPY_copied_mib, 98304), (REL_STACK_COPY_poisoned, min poisoned 0xFFFF),
        (REL_STATUS_copy_active, 0)]
      pumpAll (complete (evalFailed (raise s REL_CAUSE_cause 5)) c.subm stOk c.dest)

/-! ### SUBSTITUTE and SCRUB (R361, R362) -/

/-- Whether a logical tile belongs to a partition. -/
def tileOfPart (s : State) (t q : Nat) : Bool := partOfTile s t == some q

/-- The SUBSTITUTE of a unit within a tile, its checks of the tile done. -/
def substUnit (s : State) (d : Desc) (kind t idx : Nat) (imageDigest : Bytes) : State :=
  let top := if kind = 3 then 256 else if kind = 4 then 16 else 4096
  if kind = 1 then
    let reload := fieldLE d.bytes 0x11 1 == 1
    if reload && ((jobRec s t).map (·.digest)) != some imageDigest then finishDesc s d stBadTarget 0
    else if !benchFree s (siteOf s t).die || s.siteSubs.any (fun u => (siteOf s u.tile).die == (siteOf s t).die) then
      finishDesc s d stNoBench 0
    else
      let s := startDesc s d.subm
      pumpAll { s with siteSubs := s.siteSubs ++ [⟨t, reload, false, d.subm⟩] }
  else if top ≤ idx then finishDesc s d stBadTarget 0
  else if !spareLeft s t kind then finishDesc s d stNoBench 0
  else pumpAll (queueUnit (startDesc s d.subm) t kind idx (some d.subm))

/-- SUBSTITUTE: a site, a stack, a DPU position, an aide or a row group replaced by a spare (R359 to R361).
DEDUCED (log 31). -/
def execSubstitute (sq : Nat) (imageDigest : Bytes) (s : State) : Host.Outcome State Fault Refusal :=
  .next <| match ready s sq 7 with
    | none => s
    | some d =>
      let kind := fieldLE d.bytes 0x10 1
      let t := fieldLE d.bytes 0x12 2
      if (Store.get? s.jobs d.job).isNone then finishDesc s d stNoJob 0
      else if kind = 2 then
        if d.part ≠ 0 then finishDesc s d stPartition 0
        else if s.part.stacks ≤ t then finishDesc s d stBadTarget 0
        else if s.stackCopy.isSome then finishDesc s d stUnitBusy 0
        else match freeStacks s with
          | [] => finishDesc s d stNoBench 0
          | p :: _ =>
            let s := wrs (startDesc s d.subm) [(REL_STACK_COPY_logical, t), (REL_STACK_COPY_dest, p), (REL_STACK_COPY_copied_mib, 0),
              (REL_STACK_COPY_poisoned, 0), (REL_STATUS_copy_active, 1)]
            pumpAll { s with stackCopy := some ⟨t, p, d.subm, s.now⟩ }
      else if s.part.tiles ≤ t then finishDesc s d stBadTarget 0
      else if !tileOfPart s t d.part then finishDesc s d stPartition 0
      else if !tileOn s t then finishDesc s d stBadTarget 0
      else substUnit s d kind t (fieldLE d.bytes 0x14 2) imageDigest

/-- The tile a site test names: a logical tile, or with the bench flag the one the bench site of a die is bound to. -/
def scrubTile (s : State) (d : Desc) : Option Nat :=
  if fieldLE d.bytes 0x11 1 = 1 then
    (List.range s.part.tiles).find? fun t => (siteOf s t).die == fieldLE d.bytes 0x14 1 && (siteOf s t).site == 8
  else some (fieldLE d.bytes 0x12 2)

/-- SCRUB: a site test or a memory scrub starts (R362). -/
def execScrub (sq : Nat) (s : State) : Host.Outcome State Fault Refusal :=
  .next <| match ready s sq 8 with
    | none => s
    | some d =>
      let bench := fieldLE d.bytes 0x11 1 == 1
      if fieldLE d.bytes 0x10 1 = 2 then
        let a := fieldLE d.bytes 0x18 8
        let n := fieldLE d.bytes 0x20 8
        if spanOk s d.part d.job a n then pumpAll (startDesc s d.subm) else finishDesc s d stDescriptor 0x18
      else if bench && decide (s.part.dies ≤ fieldLE d.bytes 0x14 1) then finishDesc s d stBadTarget 0
      else match scrubTile s d with
        | none => pumpAll (startDesc s d.subm)
        | some t =>
          if s.part.tiles ≤ t then finishDesc s d stBadTarget 0
          else if !tileOfPart s t d.part then finishDesc s d stPartition 0
          else if !tileOn s t then finishDesc s d stBadTarget 0
          else if on s (TIL_MODE_bound t) then finishDesc s d stUnitBusy 0
          else pumpAll (startDesc s d.subm)

/-- The SCRUB of a kind that an SQ has started. -/
def scrubOf (s : State) (sq kind : Nat) : Option Desc :=
  s.descs.find? fun d => d.sq == sq && d.type == 8 && d.started && fieldLE d.bytes 0x10 1 == kind

/-- SITE_TEST_DONE: a site test ends: the scratchpads of the site are undefined; a fault it found is recorded and counted
(R362). -/
def execSiteTestDone (sq : Nat) (fault : Option (Nat × Nat)) (s : State) : Host.Outcome State Fault Refusal :=
  .next <| match scrubOf s sq 1 with
    | none => s
    | some d =>
      let t := scrubTile s d
      let s := match t with
        | some t => freeScratch s t
        | none => s
      match fault with
      | none => pumpAll (complete s d.subm stOk 0)
      | some (code, idx) =>
        let s := hwFault s code (t.getD 0xFFF) idx
        pumpAll (complete s d.subm stTestFailed (rd s REL_FAULT_fault))

/-- MEMORY_SCRUB_DONE: a memory scrub ends with the count of uncorrectable blocks (R362). -/
def execMemoryScrubDone (sq uncorrectable : Nat) (s : State) : Host.Outcome State Fault Refusal :=
  .next <| match scrubOf s sq 2 with
    | some d => pumpAll (complete s d.subm stOk uncorrectable)
    | none => s

/-! ### Wear (R363) -/

/-- What one site measured: its limits condemn it and raise WEAR_ALERT as they are reached. -/
def wearSite (s : State) (w : SiteWear) : State :=
  let hit := decide (rd s REL_CFG_age_limit ≤ w.ageing) || decide (rd s REL_CFG_ce_limit ≤ w.ceRate)
  let was := on s (REL_WEAR_alert w.t)
  let s := wrs s [(REL_WEAR_ageing w.t, min w.ageing 0xFFFF), (REL_WEAR_ce_rate w.t, min w.ceRate 0xFFFF), (REL_WEAR_alert w.t, b2n hit)]
  if hit && !was then
    let s := raise s REL_CAUSE_cause 3
    if on s (REL_TILE_MAP_condemned w.t) then s else condemnSite s w.t
  else s

/-- The corrected errors of a physical stack in the last hour. -/
def wearStack (s : State) (p rate : Nat) : State :=
  let lim := rd s REL_CFG_ce_limit
  let was := decide (lim ≤ rd s (REL_STACK_WEAR_ce_rate p))
  let s := wr s (REL_STACK_WEAR_ce_rate p) (min rate 0xFFFF)
  if lim ≤ rate ∧ !was then
    let s := raise s REL_CAUSE_cause 3
    if on s (REL_STACK_WEAR_condemned p) then s else condemnStack s p
  else s

/-- Whether a link of REL_MARGIN is fitted on the part: a port it has, or a compute die's; the links of the hub, net, control and host
dies and the pair links are on every part (R1, R374). -/
def linkFitted (p : Part) (u : Nat) : Bool :=
  if u < 12 then decide (u < p.ports) else if 14 ≤ u ∧ u < 38 then decide ((u - 14) / 2 < p.dies) else decide (u < 60)

/-- The margin of a link, in percent of nominal. -/
def wearLink (s : State) (u m : Nat) : State :=
  let low := decide (m < rd s REL_CFG_margin_limit)
  let was := on s (REL_MARGIN_alert u)
  let s := wrs s [(REL_MARGIN_margin u, min m 255), (REL_MARGIN_alert u, b2n low)]
  if low && !was then raise s REL_CAUSE_cause 3 else s

/-- WEAR_SAMPLE: once a second the wear monitors are measured (R363). DEDUCED (log 31); DESIGN CHOICE (log 46). -/
def execWearSample (sites : List SiteWear) (stackRates linkMargins : List (Nat × Nat)) (s : State) :
    Host.Outcome State Fault Refusal :=
  let s := (sites.filter fun w => decide (w.t < s.part.tiles)).foldl wearSite s
  let s := (stackRates.filter fun p => decide (p.1 < s.part.stacksFitted)).foldl (fun s p => wearStack s p.1 p.2) s
  .next ((linkMargins.filter fun p => linkFitted s.part p.1).foldl (fun s p => wearLink s p.1 p.2) s)

/-! ### Map commits (R27, R364) -/

/-- The staged entry of a logical tile. -/
def stagedSite (s : State) (t : Nat) : SiteMap := ⟨rd s (REL_TILE_MAP_die t), rd s (REL_TILE_MAP_site t), on s (REL_TILE_MAP_on t)⟩

/-- Whether the staged maps meet R27. -/
def mapsDistinct (s : State) : Bool :=
  let ts := List.range s.part.tiles
  let ks := List.range s.part.stacks
  noDup (ts.map fun t => 16 * (stagedSite s t).die + (stagedSite s t).site)
    && (ts.all fun t => decide ((stagedSite s t).site ≤ 8) && decide ((stagedSite s t).die < s.part.dies)
      && bitOf (rd s HST_DIE_STATUS_compute_ok) (stagedSite s t).die)
    && noDup (ks.map fun k => rd s (REL_STACK_MAP_phys k))
    && ks.all fun k => decide (rd s (REL_STACK_MAP_phys k) < s.part.stacksFitted)
      && bitOf (rd s HST_DIE_STATUS_lpd_stack_ok) (rd s (REL_STACK_MAP_phys k))

/-- Whether the staged tile map meets the group rules of R364. -/
def groupsOk (s : State) : Bool :=
  let gs := List.range (s.part.tiles / 8)
  let on' : Nat → Bool := fun g => (stagedSite s (8 * g)).on
  let up := gs.filter on'
  (gs.all fun g => (List.range 8).all fun r => (stagedSite s (8 * g + r)).on == on' g)
    && up == List.range up.length
    && (up.all fun g => (List.range 8).all fun r =>
      let m := stagedSite s (8 * g + r)
      m.die == (stagedSite s (8 * g)).die && (m.site == r || m.site == 8))
    && noDup (up.map fun g => (stagedSite s (8 * g)).die)

/-- Whether a tile that is on in the staged map has a condemned site or region (R364). -/
def condemnedOn (s : State) : Bool :=
  (List.range s.part.tiles).any fun t =>
    let m := stagedSite s t
    m.on && (on s (REL_TILE_MAP_condemned t) || on s (REL_TILE_MAP_region_condemned t) || s.badSites.contains (16 * m.die + m.site))

/-- The reason a commit is rejected with, 0 for none (REL_MAP_CTL). -/
def mapReason (s : State) : Nat :=
  if !s.jobs.isEmpty then 3
  else if !mapsDistinct s then 1
  else if !groupsOk s then 2
  else if condemnedOn s then 4 else 0

/-- Every staged entry restored to the map in force (R27): what binds tiles and stacks; the bits condemned and region_condemned act as
they are written and stand. DEDUCED (log 31). -/
def restoreMaps (s : State) : State :=
  let s := (List.range s.part.tiles).foldl (fun s t =>
    let m := siteOf s t
    wrs s [(REL_TILE_MAP_site t, m.site), (REL_TILE_MAP_die t, m.die), (REL_TILE_MAP_on t, b2n m.on)]) s
  (List.range s.part.stacks).foldl (fun s k => wr s (REL_STACK_MAP_phys k) (Store.getD s.stackMap k k)) s

/-- The staged maps put in force; what the registers of a tile say of a site left behind goes (R54). -/
def commitMaps (s : State) : State :=
  let moved := (List.range s.part.tiles).filter fun t =>
    !((siteOf s t).die == (stagedSite s t).die && (siteOf s t).site == (stagedSite s t).site)
  let tiles := (List.range s.part.tiles).map fun t => (t, stagedSite s t)
  let maps := (List.range s.part.stacks).map fun k => (k, rd s (REL_STACK_MAP_phys k))
  let s := { s with siteMap := tiles, stackMap := maps, time := { s.time with rollDue := true } }
  let s := moved.foldl newSiteTim s
  (List.range s.part.stacksFitted).foldl (fun s p => wr s (REL_STACK_WEAR_in_service p) (b2n (maps.any fun k => k.2 == p))) s

/-- MAP_COMMIT: a commit of the staged maps: put in force, or rejected and restored (R27, R364). DEDUCED (log 31). -/
def execMapCommit (fn : Nat) (s : State) : Host.Outcome State Fault Refusal :=
  .next <|
    if !fnPhys s fn then s
    else
      let r := mapReason s
      if r = 0 then evalFailed (wrs (commitMaps s) [(REL_STATUS_committed, 1), (REL_MAP_CTL_rejected, 0), (REL_MAP_CTL_reason, 0)])
      else raise (wrs (restoreMaps s) [(REL_MAP_CTL_rejected, 1), (REL_MAP_CTL_reason, r)]) REL_CAUSE_cause 4

end Sys2Proof.Machine
end

