-- ==== Sys2Proof/Machine/Jobs.lean ====
section
/-! DEFINITION. Bells, the descriptors of jobs, the end of an abort, retakes
(10_jobs_graphs_and_timetable.md, R255 to R260, R265 to R273; 02, R36, R43, R44; 09, R230, R231; 08, R223). -/

namespace Sys2Proof.Machine

/-! ### Contracts and new runs -/

/-- Whether a contract word fails R231. -/
def contractBad (s : State) (x : Job) (w : Nat) : Bool :=
  let n := bitsOf w 2 5
  (bitOf w 0 && (!x.strict || x.timing != rd s SNL_VERSION_timing_model)) || (bitOf w 1 && !bitOf w 0) || decide (128 ≤ w)
    || !(n == 0 || (decide (10 ≤ n) && decide (n ≤ 30)))

/-- A pending run (R257, R265, R266). -/
def newRun (j : Nat) (kind : RunKind) (strict slipFatal : Bool) (wdog prio : Nat) (exam : Bool) (seed bell subm : Nat)
    (kickWin : Option Nat) : Run where
  job := j
  kind := kind
  phase := .pending
  strict := strict
  slipFatal := slipFatal
  wdog := wdog
  prio := prio
  exam := exam
  seed := seed
  bell := bell
  subm := subm
  kickWin := kickWin
  started := []
  ready := []
  done := []
  tilesDone := []
  stop := none
  epoch := 0
  kickTod := 0
  endTod := 0
  retakes := 0
  disagreed := 0
  units := []
  fault := 0
  barred := false
  undoBroken := false
  wrote := false
  opened := false
  serial := none
  lines := []
  fetches := []
  layersAt := []
  heldTicks := 0
  slipRecs := 0
  digestOver := false
  forcedFill := false
  carryLost := false
  outcome := 0
  recorded := false
  replay := []
  carryIn := []
  name := none
  snap := none

/-- A run added under the next run number. -/
def addRun (s : State) (x : Run) : State := { s with runs := Store.set s.runs s.runNext x, runNext := s.runNext + 1 }

/-- The seed of period `n` (R331). -/
def periodSeed (p : Period) (n : Nat) : Nat := p.seed ^^^ (n % 2 ^ 32 * 2 ^ 96)

/-! ### Bells (R43, R44, R67, R266) -/

/-- Whether a partition's run waits for the seat copy of its period: module B before SEATING (R368). -/
def copyMissing (s : State) (p : Period) (n : Nat) : Bool :=
  follows s p.part && ((Store.get? s.jobs p.job).bind (·.form)).isSome
    && !(s.copies.any fun c => c.bind == p.subm && c.period == n)

/-- START_BELL: TIM_TOD has reached the start bell of a binding's next period: an unbinding that waits takes effect and no
run starts; else the period begins with a new run (R43, R266, R272). DEDUCED (log 23). -/
def execStartBell (q : Nat) (s : State) : Host.Outcome State Fault Refusal :=
  .next <| match Store.get? s.periods q with
    | none => s
    | some p =>
      let n := p.nextStart
      if tod s < p.bellAt n then s
      else match p.unbind with
        | some _ => endBind s q stOk 0 0 (Store.getD s.epochs p.job 0)
        | none =>
          let s := setPeriod (forceFills s p.job) q { p with nextStart := n + 1, current := some n, acting := [], acted := [] }
          let s := wr s (CTL_PERIOD_NUM_period q) n
          addRun s (newRun p.job (.period n) p.strict p.slipFatal p.wdog 0 p.exam (periodSeed p n) (p.bellAt n) p.subm
            (if copyMissing s p n then none else some (actWindow s)))

/-- The instant of mark bell `m` in the current period of a binding (R266). -/
def markAt (s : State) (p : Period) (m : Nat) : Option Nat :=
  match p.current, (Store.get? s.jobs p.job).bind fun j => j.marks[m]? with
  | some n, some off => some (p.bellAt n + off)
  | _, _ => none

/-- MARK_BELL: TIM_TOD has reached a mark bell of the current period: it acts at the start of window W + 2 (R43). -/
def execMarkBell (q m : Nat) (s : State) : Host.Outcome State Fault Refusal :=
  .next <| match Store.get? s.periods q with
    | none => s
    | some p =>
      match markAt s p m with
      | none => s
      | some t =>
        if tod s < t ∨ p.acting.any (·.1 == m) ∨ p.acted.any (·.1 == m) then s
        else setPeriod s q { p with acting := p.acting ++ [(m, actWindow s)] }

/-- The tiles of a job that wait for a mark bell. -/
def bellWaiters (s : State) (j m : Nat) : List Nat :=
  (tilesOfJob s j).filter fun t => seqState s t == 2 && (tileOf s t).waits.any fun w => match w with
    | .bell k _ => k == m
    | _ => false

/-- BELL_ACT: the boundary of a mark bell has come: a bubble is taken first; else its waiters are released at the first tick
of the boundary (R43, R44, R67). DEDUCED (log 23). -/
def execBellAct (q m : Nat) (s : State) : Host.Outcome State Fault Refusal :=
  .next <| match Store.get? s.periods q with
    | none => s
    | some p =>
      match p.acting.find? (·.1 == m) with
      | none => s
      | some (_, w) =>
        if !boundaryCome s w then s
        else if inBubble s q then
          kickDeferred (setPeriod s q { p with acting := p.acting.map fun a => if a.1 = m then (m, windowNow s + 1) else a })
        else
          let g := 256 * (s.windows - Store.getD s.bubbles q 0)
          let s := setPeriod s q { p with acting := p.acting.filter fun a => a.1 != m, acted := p.acted ++ [(m, g)] }
          (bellWaiters s p.job m).foldl (fun s t =>
            let left := (tileOf s t).waits.filter fun w => match w with
              | .bell k _ => k != m
              | _ => true
            endWait s t left (localTick (tileOf s t) g)) s

/-- START_TOD_BELL: TIM_TOD has reached the start_tod of a pending RUN_GRAPH run, or a forward step has passed it: R36 counts the
start bells of periods, and the run may kick off from its start_tod on (R43, R257, R265). DESIGN CHOICE (log 24). -/
def execStartTodBell (run : Nat) (s : State) : Host.Outcome State Fault Refusal :=
  .next <| match Store.get? s.runs run with
    | none => s
    | some x =>
      if x.phase = .pending ∧ x.kind = .graph ∧ x.kickWin = none ∧ x.bell ≤ tod s then
        setRun s run { x with kickWin := some (actWindow s) }
      else s

/-! ### RUN_GRAPH (R257) -/

/-- The contract word of a descriptor. -/
def Desc.contract (d : Desc) : Nat := fieldLE d.bytes 0x10 2

/-- Whether the exam flag of a RUN_GRAPH or BIND_PERIOD is set. -/
def Desc.exam (d : Desc) : Bool := bitOf (fieldLE d.bytes 0x13 1) 0

/-- The run of a RUN_GRAPH whose job is loaded made pending, or the descriptor refused with CONTRACT (R231, R257). -/
def enqueueGraph (s : State) (d : Desc) (j : Job) : State :=
  let w := d.contract
  let start := fieldLE d.bytes 0x18 8
  if contractBad s j w then pumpAll (complete s d.subm stContract w)
  else
    addRun s (newRun d.job .graph (bitOf w 0) (bitOf w 1) (bitsOf w 2 5) (fieldLE d.bytes 0x12 1) d.exam
      (fieldLE d.bytes 0x20 16) (if start = 0 then d.tod else start) d.subm
      (if start ≤ tod s then some (actWindow s) else none))

/-- RUN_GRAPH: a run becomes pending, or waits for its job's load (R257, R367). -/
def execRunGraph (sq : Nat) (s : State) : Host.Outcome State Fault Refusal :=
  .next <| match ready s sq 3 with
    | none => s
    | some d =>
      if dblPart s d.part && !d.exam then finishDesc s d stDescriptor 0x13
      else if s.periods.any (fun p => p.2.job == d.job) then finishDesc s d stJobBound d.job
      else match Store.get? s.jobs d.job with
        | some j => pumpAll (enqueueGraph (startDesc s d.subm) d j)
        | none => if loadAhead s d then pumpAll (startDesc s d.subm) else finishDesc s d stNoJob 0

/-- The RUN_GRAPH descriptors that waited for the load of a job, once it has ended: their runs become pending, or they
complete with NO_JOB, or with PARTITION (R252, R257). -/
def wakeGraphs (s : State) (j : Nat) : State :=
  (waitingGraphs s j).foldl (fun s d => match Store.get? s.jobs j with
    | some x => if x.part = d.part then enqueueGraph s d x else pumpAll (leaveGraph s d)
    | none => pumpAll (leaveGraph s d)) s

/-! ### BIND_PERIOD (R258, R272) -/

/-- Whether a period holds an image's ticks and marks (R258). -/
def periodFits (s : State) (j : Job) (n : Nat) : Bool :=
  let f := 9 - rd s TIM_FREQ_CTL_current
  decide (0 < j.needTicks) && j.marks.all (fun m => decide (m < n)) && decide (10000 ≤ n) && decide (n ≤ 1000000000)
    && decide (5 * j.needTicks + 1000 * f ≤ n * f)

/-- The check of a bind that fails first: its status and detail (R258). DEDUCED (log 22). -/
def bindFault (s : State) (d : Desc) : Option (Nat × Nat) :=
  let n := fieldLE d.bytes 0x14 4
  let first := fieldLE d.bytes 0x18 8
  if dblPart s d.part && !d.exam then some (stDescriptor, 0x13)
  else if !on s TIM_STATUS_tod_valid then some (stTimeUnset, 0)
  else match Store.get? s.jobs d.job with
    | none => some (stNoJob, 0)
    | some j =>
      if jobBusy s d.job then some (stJobBusy, 0)
      else match Store.get? s.periods d.part with
        | some p => some (stJobBound, p.job)
        | none =>
          match planHolder s d.job j, unfilled j with
          | some h, _ => some (stJobBound, h)
          | none, some g => some (stSealedPending, g)
          | none, none =>
            if first < d.tod + 100000 then some (stBellPast, d.tod)
            else if !periodFits s j n then some (stPeriodShort, j.needTicks)
            else if contractBad s j d.contract then some (stContract, d.contract)
            else none

/-- The binding a BIND_PERIOD makes. -/
def bindingOfDesc (d : Desc) : Period where
  part := d.part
  job := d.job
  subm := d.subm
  periodNs := fieldLE d.bytes 0x14 4
  firstStart := fieldLE d.bytes 0x18 8
  seed := fieldLE d.bytes 0x20 16
  strict := bitOf d.contract 0
  slipFatal := bitOf d.contract 1
  wdog := bitsOf d.contract 2 5
  exam := d.exam
  missLog := fieldLE d.bytes 0x30 8
  missEntries := fieldLE d.bytes 0x3A 2
  missCount := 0
  deadlineUs := fieldLE d.bytes 0x38 2
  slackUs := fieldLE d.bytes 0x3C 2
  nextStart := 0
  current := none
  acting := []
  acted := []
  lastSeat := none
  seatFrom := 0
  unbind := none
  closing := none
  gone := false
  fallback := []

/-- The timetable registers of a partition as a bind sets them (R276). -/
def clearPeriodRegs (s : State) (q job : Nat) : State :=
  wrs s [(CTL_PERIOD_NUM_period q, 0), (CTL_PERIOD_NUM_job_id q, job), (CTL_PERIOD_NUM_bound q, 1),
    (CTL_PERIOD_MARGIN_min_margin_inv q, 0), (CTL_PERIOD_MARGIN_last_margin_ns q, 0), (CTL_PERIOD_COUNT_overruns q, 0),
    (CTL_PERIOD_COUNT_skipped q, 0), (CTL_PERIOD_COUNT_late_periods q, 0), (CTL_PERIOD_COUNT_retakes q, 0),
    (CTL_PERIOD_LATE_late_replies q, 0), (CTL_PERIOD_LATE_late_scores q, 0), (CTL_PERIOD_LATE_miss_records q, 0)]

/-- A bind accepted: the binding begins, its plans are bound, the acceptance entry is posted, a grading engine armed for the
job disarms (R133, R253, R258, R308). -/
def acceptBind (s : State) (d : Desc) (j : Job) : State :=
  let s := clearPeriodRegs (setPeriod s d.part (bindingOfDesc d)) d.part d.job
  let s := bindPlans (grdDisarmJob (unbindPlans s d.job) d.job) d.job j false
  pumpAll (postEntry (settleDesc s d.subm) d stOk 0 0 0 false)

/-- BIND_PERIOD: a job bound to a period of its partition, after the checks of R258. -/
def execBindPeriod (sq : Nat) (s : State) : Host.Outcome State Fault Refusal :=
  .next <| match ready s sq 4 with
    | none => s
    | some d =>
      if !d.binds then s
      else match bindFault s d, Store.get? s.jobs d.job with
        | none, some j => acceptBind (startDesc s d.subm) d j
        | some (st, detail), _ => finishDesc s d st detail
        | none, none => s

/-- UNBIND_PERIOD: a BIND_PERIOD with unbind set waits for the next start bell of the job's binding, or ends at once when
the job is not bound (R272). -/
def execUnbindPeriod (sq : Nat) (s : State) : Host.Outcome State Fault Refusal :=
  .next <| match ready s sq 4 with
    | none => s
    | some d =>
      if d.binds then s
      else match Store.get? s.periods d.part with
        | some p =>
          if p.job = d.job then pumpAll (setPeriod (startDesc s d.subm) d.part { p with unbind := some d.subm })
          else finishDesc s d stOk 0
        | none => finishDesc s d stOk 0

/-- SET_FALLBACK: the fallback payload of a loaded job (R259). -/
def execSetFallback (sq : Nat) (s : State) : Host.Outcome State Fault Refusal :=
  .next <| match ready s sq 6 with
    | none => s
    | some d =>
      match Store.get? s.jobs d.job with
      | none => finishDesc s d stNoJob 0
      | some j => finishDesc (setJob s d.job { j with fallback := sliceB d.bytes 0x18 (fieldLE d.bytes 0x10 1) }) d stOk 0

/-! ### UNLOAD (R256) -/

/-- The counters of a job's range freed: they read as after reset. -/
def freeCounters (s : State) (x : Job) : State :=
  (rangeFrom x.ctrFirst x.ctrs.length).foldl (fun s c =>
    wrs s [(SYN_CTR_value c, 0), (SYN_CTR_threshold c, 0), (SYN_CTR_epoch c, 0), (SYN_CTR_job_id c, 0)]) s

/-- An image unloaded: sealed regions zero-filled, counters and tiles released (R189, R217, R256). DESIGN CHOICE (log 21). -/
def removeJob (s : State) (j : Nat) (x : Job) : State :=
  let s := { s with
    runs := s.runs.map fun p => (p.1, if p.2.job = j ∧ !p.2.recorded then { p.2 with snap := some x } else p.2)
    closings := s.closings.map fun p => if p.job = j then { p with fallback := fallbackOf s p.subm, gone := true } else p }
  let s := (x.regions.filter (·.isSealed)).foldl (fun s g => zeroSpan s g.addr g.size) s
  let s := freeCounters (unbindPlans (grdDisarmJob s j) j) x
  let s := x.tiles.foldl (fun s t => wrs s [(TIL_MODE_strict t, 0), (TIL_MODE_slip_fatal t, 0), (TIL_MODE_timing_model t, 0),
    (TIL_MODE_size_class t, 0), (TIL_MODE_task_tile t, 0), (TIL_MODE_bound t, 0), (TIL_MODE_job_id t, 0)]) s
  { s with jobs := Store.erase s.jobs j }

/-- The UNLOAD of a job that has started and waits for its abort. -/
def waitingUnload (s : State) (j : Nat) : Option Desc := s.descs.find? fun d => d.type == 10 && d.started && d.job == j

/-- An UNLOAD that waits for a job with no run left finished. -/
def finishUnload (s : State) (j : Nat) : State :=
  match waitingUnload s j, Store.get? s.jobs j with
  | some d, some x => if (liveRun s j).isSome then s else pumpAll (complete (removeJob s j x) d.subm stOk 0)
  | _, _ => s

/-- A forced unload begun: the job unbound at once, its pending runs discarded, its run aborted (R256). -/
def forceUnload (s : State) (j : Nat) : State :=
  let s := match s.periods.find? (fun p => p.2.job == j) with
    | some (q, _) => endBind s q stOk 0 0 (Store.getD s.epochs j 0)
    | none => s
  let pend := (s.runs.filter fun p => p.2.job == j && p.2.phase == .pending && p.2.kind == .graph).map (·.1)
  let s := pend.foldl (fun s r => endRun s r 5 stAborted 0) (dropPeriodRuns s j)
  match liveRun s j with
  | some (r, x) =>
    let s := modRun s r fun x => { x with stop := some .unload }
    if x.runs then abortRun s r else if x.phase = .retakeWait then endRun s r 5 stAborted 0 else s
  | none => s

/-- UNLOAD: an image released; a bound or busy one only with force, at once (R256). DEDUCED (log 22). -/
def execUnload (sq : Nat) (s : State) : Host.Outcome State Fault Refusal :=
  .next <| match ready s sq 10 with
    | none => s
    | some d =>
      if (Store.get? s.jobs d.job).isNone then finishDesc s d stNoJob 0
      else if fieldLE d.bytes 0x10 1 = 0 ∧ (jobBusy s d.job ∨ s.periods.any (fun p => p.2.job == d.job)) then
        finishDesc s d stJobBusy 0
      else finishUnload (forceUnload (startDesc s d.subm) d.job) d.job

/-! ### The end of an abort, retakes (R240, R273, R353) -/

/-- RUN_ABORT_COMPLETE: the locker operations of an aborted run have completed: the run ends with the status of what
stopped it, or waits for its retake (R240, R241, R273, R354). DEDUCED (log 25). -/
def execRunAbortComplete (run : Nat) (s : State) : Host.Outcome State Fault Refusal :=
  .next <| match Store.get? s.runs run with
    | none => s
    | some x =>
      if x.phase ≠ .aborting ∨ !lockersDone s x then s
      else
        let c := x.stop.getD .reset
        let again := match c with
          | .fault d _ => mayRetake x d
          | _ => false
        let s := if again then modRun s run fun x => { x with phase := .retakeWait }
          else
            let (o, st, d) := stopStatus s c
            endRun s run o st d
        finishUnload s x.job

/-- The result items of a run forgotten, as its next attempt makes them again (R369, R370). -/
def forgetItems (s : State) (n : RunName) : State :=
  { s with dbl := { s.dbl with
      mine := s.dbl.mine.filter fun x => x.run != n, theirs := s.dbl.theirs.filter fun x => x.run != n
      disagreed := s.dbl.disagreed.filter fun r => r != n } }

/-- RETAKE_PREPARE: before a retake: the record of the attempt is formed with outcome 2, the undo log is applied, roll call
falls due after faults 0x09 and 0x0B, and the next attempt is pending ahead of every other run of its job (R273, R339,
R353, R355). DEDUCED (log 18, 25). -/
def execRetakePrepare (run : Nat) (s : State) : Host.Outcome State Fault Refusal :=
  .next <| match Store.get? s.runs run with
    | none => s
    | some x =>
      if x.phase ≠ .retakeWait then s
      else
        let q := partOfRun s x
        let s := endLines s run
        let s := formRecord (modRun s run fun x => { x with outcome := 2, endTod := tod s }) run
        let s := if x.wrote ∧ Store.get? s.undoRun q = some run then undoApply s q else s
        let s := if x.fault = 0x09 ∨ x.fault = 0x0B then { s with time := { s.time with rollDue := true } } else s
        let s := raise s CTL_DISP_CAUSE_cause 5
        let s := if x.kind = .graph then s else bump s (CTL_PERIOD_COUNT_retakes q) 1
        let s := match x.name with
          | some n => forgetItems (if paired s then bump s DBL_STATS_retakes 1 else s) n
          | none => s
        modRun s run fun x => x.again (actWindow s)

/-! ### Fabric discards (R223) -/

/-- FABRIC_DISCARD: an item not delivered within 1 ms of its issue is discarded: a hardware fault of its run, or stale
(R214, R219, R223). -/
def execFabricDiscard (item : Nat) (s : State) : Host.Outcome State Fault Refusal :=
  .next <| match s.fabric[item]? with
    | none => s
    | some i =>
      if s.now < i.issued + 1000000 then s
      else
        let s := { s with fabric := s.fabric.eraseIdx item }
        match runningRun s i.job with
        | some (r, x) => if x.epoch = i.epoch then hwFaultOn s 0x0C i.src 0 [r] else stale s i
        | none => stale s i
where
  /-- An item of an earlier run counted as stale. -/
  stale (s : State) (i : Item) : State :=
    match i.cargo with
    | .incr c .. => staleIncr s c i
    | .route _ => s
    | _ => recordStale s i.dst

end Sys2Proof.Machine
end

