-- ==== Sys2Proof/Machine/Coll.lean ====
section
/-! DEFINITION. Collective messages between modules: COLL, ACK, resends (11_network_and_ingest.md, R285, R286, R299 to
R302, R319). -/

namespace Sys2Proof.Machine

/-! ### Acknowledgement (R285, R286) -/

/-- The cumulative sequence and the SACK bitmap of an association. -/
def ackOf (x : AssocSt) : Nat × Nat :=
  ((x.rxNext + 2 ^ 32 - 1) % 2 ^ 32, sumL ((List.range 64).map fun i => if x.rxAhead.contains ((x.rxNext + i) % 2 ^ 32) then 2 ^ i else 0))

/-- An ACK sent for what an association has received. -/
def sendAck (s : State) (a : Nat) : State :=
  let (c, m) := ackOf (assocOf s a)
  let s := sendOn s a (mkMsg mtCtrl 0 0 (rd s (NET_ASSOC_CFG_epoch a)) (assocOf s a).txSeq ([3, 0, 0, 0] ++ toBE 4 c ++ toBE 8 m))
  modAssoc s a fun x => { x with rxPend := 0 }

/-- The sequences received taken into the cumulative one. -/
def advanceRx : Nat → AssocSt → AssocSt
  | 0, x => x
  | k + 1, x =>
    if x.rxAhead.contains x.rxNext then
      advanceRx k { x with rxNext := (x.rxNext + 1) % 2 ^ 32, rxAhead := x.rxAhead.erase x.rxNext }
    else x

/-- A COLL received: 16 unacknowledged ones are acknowledged at once (R286). -/
def noteRx (s : State) (a seqn : Nat) (new : Bool) : State :=
  let s := modAssoc s a fun x =>
    let x := if new then advanceRx (x.rxAhead.length + 1) { x with rxAhead := seqn :: x.rxAhead } else x
    { x with rxPend := x.rxPend + 1, rxSince := if x.rxPend = 0 then s.now else x.rxSince }
  if 16 ≤ (assocOf s a).rxPend then sendAck s a else s

/-- ACK_TIMER: 2 µs have passed since the first unacknowledged COLL arrived (R286). -/
def execAckTimer (assoc : Nat) (s : State) : Host.Outcome State Fault Refusal :=
  let x := assocOf s assoc
  .next (if 0 < x.rxPend ∧ x.rxSince + 2000 ≤ s.now then sendAck s assoc else s)

/-- A COLL sent again, with the resend flag, and counted. -/
def resendColl (s : State) (a : Nat) (c : CollSent) : State :=
  let s := bump (sendOn s a (asResend c.msg)) NET_COLL_STATS_retransmits 1
  modAssoc s a fun x => { x with unacked := x.unacked.map fun d =>
    if d.seqn = c.seqn then { d with resends := d.resends + 1, sentAt := s.now } else d }

/-- Whether an ACK marks a sequence as received. -/
def acked (c m seqn : Nat) : Bool :=
  (behind c seqn).isSome || (List.range 64).any fun i => bitOf m i && (c + 1 + i) % 2 ^ 32 == seqn

/-- The later messages that a SACK marks while it does not mark a sequence. -/
def laterMarked (c m seqn : Nat) : Nat :=
  ((List.range 64).filter fun i => bitOf m i && (behind ((c + 1 + i) % 2 ^ 32) seqn).isSome).length

/-- ACK: COLL messages acknowledged; one that the SACK passes over by three later ones is resent; the window moves on
(R286). DEDUCED (log 30). -/
def execAck (assoc : Nat) (msg : Bytes) (s : State) : Host.Outcome State Fault Refusal :=
  let c := fieldBE msg 0x14 4
  let m := fieldBE msg 0x18 8
  .next <|
    if !on s (NET_ASSOC_CFG_valid assoc) || msgType msg != mtCtrl || fieldBE msg 0x10 1 != 3
        || msgEpoch msg != rd s (NET_ASSOC_CFG_epoch assoc) then s
    else
      let s := modAssoc s assoc fun x => { x with unacked := x.unacked.filter fun d => !acked c m d.seqn }
      let lost := (assocOf s assoc).unacked.filter fun d => decide (3 ≤ laterMarked c m d.seqn) && decide (d.resends < 8)
      pushCollAll (lost.foldl (fun s d => resendColl s assoc d) s) assoc

/-- A COLL that has been resent 8 times fails: COLL_FAILED, and the run of the armed job stops with a fault of class network
(R302). -/
def collFailed (s : State) (a : Nat) (c : CollSent) : State :=
  let m := rd s (NET_ASSOC_CFG_coll_module a)
  let s := raise (noteCollErr s 2 c.layer c.seg m) NET_CAUSE_cause 7
  hwFault (dropColl s) 0x0D 0xFFF m

/-- COLL_RETRANSMIT: rto_us have passed without the acknowledgement of a COLL (R286, R302). DEDUCED (log 30). -/
def execCollRetransmit (assoc seq : Nat) (s : State) : Host.Outcome State Fault Refusal :=
  let rto := 1000 * max 1 (rd s NET_COLL_CFG_rto_us)
  .next <| match (assocOf s assoc).unacked.find? (fun d => d.seqn == seq) with
    | none => s
    | some c => if s.now < c.sentAt + rto then s else if 8 ≤ c.resends then collFailed s assoc c else resendColl s assoc c

/-! ### COLL (R299 to R302, R316, R319) -/

/-- The values of a COLL payload. -/
def collVals (long : Bool) (n : Nat) (m : Bytes) : List Int :=
  (List.range n).map fun i =>
    if long then signed 160 (fieldBE m (0x20 + 20 * i) 20) else (fieldBE m (0x20 + 4 * i) 4 : Nat)

/-- What is wrong with a COLL: its source is not the association's module, its format does not fit the job's mode and the
layer, its anchor or its length is wrong, or a reserved field is not zero (R283, R299, R300). -/
def collBad (s : State) (a : Nat) (m : Bytes) (x : Job) (exam : Bool) : Bool :=
  let src := fieldBE m 0x19 1
  let l := fieldBE m 0x10 2
  let seg := fieldBE m 0x14 4
  let fmt := fieldBE m 0x18 1
  let n := fieldBE m 0x1A 2
  let d := layerDesc s x l
  let final := seg % groupM s != groupIdx s
  let ends := decide (segPartEnd ≤ seg)
  let long := exam && longFmt (gFmt d) && !final && !ends
  fieldBE m 0x12 2 != 0 || fieldBE m 0x1E 2 != 0 || src != rd s (NET_ASSOC_CFG_coll_module a) || src == groupIdx s
    || decide (groupM s ≤ src) || !on s NET_COLL_CFG_en || decide (rd s GRD_TABLE_layer_count ≤ l)
    || fmt != (if long then 0x12 else 0x10)
    || (if ends then n != 0 else decide (gSegs d ≤ seg) || n != segLen d seg)
    || (long && signed 16 (fieldBE m 0x1C 2) != gAnchor d) || m.length != 0x20 + n * (if long then 20 else 4)

/-- The layer, segment and source of a COLL. -/
def collLayer (m : Bytes) : Nat := fieldBE m 0x10 2
def collSeg (m : Bytes) : Nat := fieldBE m 0x14 4
def collSrc (m : Bytes) : Nat := fieldBE m 0x19 1

/-- A layer with the ends that an association holds back, but that were sent before sequence `seqn`, counted as arrived (R319). -/
def GrdLayer.withHeld (y : GrdLayer) (x : AssocSt) (seqn : Nat) : GrdLayer :=
  let ends (k : Nat) : List Nat := (x.heldEnds.filter fun h =>
    collLayer h.2 == y.layer && collSeg h.2 == k && h.1 != seqn && (behind seqn h.1).isSome).map fun h => collSrc h.2
  { y with modEnds := ends segPartEnd ++ y.modEnds, finEnds := ends segFinEnd ++ y.finEnds }

/-- Whether a COLL belongs to the next step of a layer that is still open (R319). -/
def nextStep (y : GrdLayer) (src seg owner self : Nat) : Bool :=
  y.isOpen && (if seg = segPartEnd then y.modEnds.contains src
    else if seg = segFinEnd then y.finEnds.contains src
    else if owner = self then y.modEnds.contains src else y.finEnds.contains owner)

/-- A COLL that has come before counted (R286, R302, R305). -/
def dupColl (s : State) (a : Nat) : State := bump (bump s (NET_ASSOC_STAT_dup a) 1) NET_COLL_STATS_dup 1

/-- A COLL's content taken: an end, a final value, or a partial; one that has come before is a duplicate (R301, R302). -/
def takeColl (s : State) (a : Nat) (m : Bytes) : State :=
  let src := collSrc m
  let l := collLayer m
  let seg := collSeg m
  let y := layerOf s l
  let dup := dupColl s a
  if seg = segPartEnd then partialWork (modLayer s l fun y => { y with modEnds := src :: y.modEnds }) l
  else if seg = segFinEnd then modLayer s l fun y => { y with finEnds := src :: y.finEnds }
  else
    let v := collVals (fieldBE m 0x18 1 == 0x12) (fieldBE m 0x1A 2) m
    if seg % groupM s = groupIdx s then
      if y.parts.any (fun p => p.1 == seg && p.2.1 == src) then dup
      else partialWork (modLayer s l fun y => { y with parts := y.parts ++ [(seg, src, v)] }) l
    else if y.arrived.contains seg then dup
    else deliverFinal s l seg v

/-- The ends that an association holds back taken, in the order they were sent, once every COLL sent before them has come (R316,
R319). -/
def releaseEnds (s : State) (a : Nat) : State :=
  let x := assocOf s a
  let ready := x.heldEnds.filter fun h => h.1 != x.rxNext && (behind x.rxNext h.1).isSome
  let s := modAssoc s a fun x => { x with heldEnds := x.heldEnds.filter fun h => !ready.contains h }
  (sortBy (fun h => 2 ^ 32 - ((behind x.rxNext h.1).getD 0)) ready).foldl (fun s h => takeColl s a h.2) s

/-- A new COLL acknowledged in time and taken; an end waits for every COLL sent before it. -/
def acceptColl (s : State) (a : Nat) (m : Bytes) : State :=
  let s := noteRx s a (msgSeq m) true
  releaseEnds (if segPartEnd ≤ collSeg m then modAssoc s a fun x => { x with heldEnds := x.heldEnds ++ [(msgSeq m, m)] }
    else takeColl s a m) a

/-- The mode and job of a layer's reduction: those of the run in progress, or, once that has completed, of a layer still open; none
where neither is there (R316, R318). -/
def collJob (s : State) (l : Nat) : Option (Bool × Job) :=
  if !on s GRD_JOB_en then none
  else match grdRun s, Store.get? s.jobs (grdJob s) with
    | some (_, r), some j => some (r.exam, j)
    | none, some j => if (layerOf s l).isOpen then some ((layerOf s l).exam, j) else none
    | _, none => none

/-- COLL: a message of a collective peer: a bad one is discarded as header class; one that no run or open layer waits for, or for the
next step of an open layer, is left unacknowledged; one received before is a duplicate; else it is acknowledged in time and taken (R286,
R299 to R302, R316, R319). DEDUCED (log 30). -/
def execColl (assoc : Nat) (msg : Bytes) (s : State) : Host.Outcome State Fault Refusal :=
  let port := rd s (NET_ASSOC_CFG_port assoc)
  let seqn := msgSeq msg
  let seg := collSeg msg
  .next <|
    if !on s (NET_ASSOC_CFG_valid assoc) || !on s (NET_ASSOC_CFG_kind assoc) || msgType msg != mtColl
        || msgEpoch msg != rd s (NET_ASSOC_CFG_epoch assoc) then s
    else
      let x := assocOf s assoc
      let seen := x.rxAhead.contains seqn || (behind ((x.rxNext + 2 ^ 32 - 1) % 2 ^ 32) seqn).isSome
      if seen then noteRx (dupColl s assoc) assoc seqn false
      else match collJob s (collLayer msg) with
        | some (exam, j) =>
          if msgJob msg ≠ grdJob s then s
          else if collBad s assoc msg j exam then dropFrame s (NET_PORT_DROP_header port)
          else if nextStep ((layerOf s (collLayer msg)).withHeld x seqn) (collSrc msg) seg (seg % groupM s) (groupIdx s) then s
          else acceptColl s assoc msg
        | none => s

end Sys2Proof.Machine
end

