-- ==== Sys2Proof/Machine/Restart.lean ====
section
/-! DEFINITION. What a restart of the dies leaves (18_reset_and_bringup.md, R433, R434; 15, R386). -/

namespace Sys2Proof.Machine

/-- The module with every die restarted: registers at their reset values but those whose offset is kept, no work, no images,
no keys, the given contents of memory; the next fill of a plan whose carried state net die 0 has lost sets carry_lost (R139). The part, the boot sequence, what was given out, the clock since power-up and the
command queue are not of the dies. -/
def restart (s : State) (keep : Nat → Bool) (m : List Host.Cell) : State :=
  { State.reset with
    part := s.part, regs := s.regs.filter (fun p => keep (p.1 / 64)), mem := m, out := s.out, freeCtr := s.freeCtr, now := s.now
    lostCarry := (s.lostCarry ++ (s.carries.filter fun c => c.into.isNone && !c.dead).map (·.plan)).eraseDups
    parts := [(0, PartRes.whole s.part)], windows := s.windows, boot := s.boot, pending := s.pending }

/-- A trip: every die but the host die is turned off, THERMTRIP_N and FAULT_N are driven, the state is TRIPPED; the fused
minimum svn and the strap stay (R386, R397, R450, R452). DEDUCED (log 35, 44). -/
def tripModule (s : State) : State :=
  let t := { restart s (fun o => o == PWR_STATUS || o == HST_RESET_STATUS) [] with fns := s.fns }
  let t := if s.time.pulse then emitOut t (.pin "TIME_1PPS_OUT" false) else t
  let t := wrs t [(SEC_STATUS_fuse_svn, rd s SEC_STATUS_fuse_svn), (DBL_STATUS_id, rd s DBL_STATUS_id)]
  emitOut (setBoot (wr t PWR_STATUS_tripped 1) 8) (.pin "THERMTRIP_N" false)

end Sys2Proof.Machine
end

