-- ==== Sys2Proof/Machine/Time.lean ====
section
/-! DEFINITION. The time unit: its state, 1PPS and PTP, corrections, bells passed by a step, the 1PPS output, roll call and
frequency steps (02_time_and_clocking.md, R28 to R39, R46, R47, R52, R53; 10, R267). -/

namespace Sys2Proof.Machine

/-! ### Sources and the state (R31 to R34, R53) -/

/-- The state with the time unit changed. -/
def modTime (s : State) (f : TimeSt → TimeSt) : State := { s with time := f s.time }

/-- Whether TIM_SRC_CFG names a source: 1 is 1PPS, 2 is PTP (R53). -/
def names (s : State) (src : Nat) : Bool := rd s TIM_SRC_CFG_primary == src || rd s TIM_SRC_CFG_secondary == src

/-- Whether a named source is valid: 1PPS is locked, PTP has had its writes (R31, R34). -/
def sourceOk (s : State) (src : Nat) : Bool :=
  (src == 1 && s.time.pps == 3) || (src == 2 && on s TIM_STATUS_ptp_ok)

/-- TIM_STATUS.state and source brought up to date; LOCKED is raised when the time unit takes up a locked source (R31 to R34,
R53). -/
def timeSync (s : State) : State :=
  let p := rd s TIM_SRC_CFG_primary
  let q := rd s TIM_SRC_CFG_secondary
  let old := (rd s TIM_STATUS_state, rd s TIM_STATUS_source)
  if p = 0 ∧ q = 0 then
    let s := modTime s fun x => { x with holdFrom := none }
    wrs s [(TIM_STATUS_state, rd s TIM_STATUS_tod_valid), (TIM_STATUS_source, 0), (TIM_STATUS_holdover_s, 0)]
  else if sourceOk s p || sourceOk s q then
    let src := if sourceOk s p then p else q
    let s := modTime s fun x => { x with holdFrom := none }
    let s := wrs s [(TIM_STATUS_state, 3), (TIM_STATUS_source, src), (TIM_STATUS_holdover_s, 0)]
    if old = (3, src) then s else raise s TIM_CAUSE_cause 5
  else if s.time.holdFrom.isSome || (names s 1 && s.time.pps == 4) then
    let s := modTime s fun x => { x with holdFrom := some (x.holdFrom.getD s.now) }
    wrs s [(TIM_STATUS_state, 4), (TIM_STATUS_source, 0)]
  else wrs s [(TIM_STATUS_state, 2), (TIM_STATUS_source, 0), (TIM_STATUS_holdover_s, 0)]

/-! ### Bells that a forward step passes (R36, R67, R267) -/

/-- LOCKED raised as a source reaches that state, the one in use or not (R53). -/
def sourceLocked (s : State) (src : Nat) : State := if names s src then raise s TIM_CAUSE_cause 5 else s

/-- TIM_STATUS.step_pending: a correction is held, or a time of day waits for an edge (R35). -/
def syncPending (s : State) : State :=
  wr s TIM_STATUS_step_pending (b2n (s.time.heldCorr.isSome || s.time.setPend.isSome))

/-- The instants of the mark bells of period `n` of a binding that lie above `lo` and not above `hi`, by mark. -/
def marksIn (s : State) (p : Period) (n lo hi : Nat) : List Nat :=
  let offs := ((Store.get? s.jobs p.job).map (·.marks)).getD []
  (List.range offs.length).filter fun m =>
    let t := p.bellAt n + offs.getD m 0
    decide (lo < t) && decide (t ≤ hi)

/-- The first period of a binding whose close lies after `hi`, which a forward step from `lo` has reached: the closes it passed
make no seating (R25, R293). -/
def Period.seatAfter (p : Period) (lo hi : Nat) : Nat :=
  let upTo : Nat → Nat := fun t => if t + 2000 < p.firstStart then 0 else (t + 2000 - p.firstStart) / p.periodNs + 1
  if upTo lo < upTo hi then max p.seatFrom (upTo hi) else p.seatFrom

/-- A forward step from `lo` to `hi` passes bells of a binding: start bells are skipped, their seatings marked, mark bells
are not fired and their waiters act where R43 puts the instant of the step; all are counted; closes passed seat nothing (R36, R67,
R267, R293). -/
def passBells (s : State) (q : Nat) (p : Period) (lo hi : Nat) : State :=
  let p := { p with seatFrom := p.seatAfter lo hi }
  let s := setPeriod s q p
  let offs := ((Store.get? s.jobs p.job).map (·.marks)).getD []
  let old := match p.current with
    | some n => (marksIn s p n lo hi).filter fun m => !(p.acting.any (·.1 == m)) && !(p.acted.any (·.1 == m))
    | none => []
  let k := if hi < p.firstStart then 0 else (hi - p.firstStart) / p.periodNs + 1 - p.nextStart
  let last := p.nextStart + k - 1
  let newest := if k = 0 then [] else marksIn s p last lo hi
  let passed := if 2 ≤ k then List.range offs.length else (List.range offs.length).filter fun m => old.contains m || newest.contains m
  let count := k + old.length + newest.length + (if k = 0 then 0 else (k - 1) * offs.length)
  if count = 0 then s
  else
    let p := { p with acting := p.acting.filter (fun a => !passed.contains a.1) ++ passed.map fun m => (m, actWindow s) }
    let s := setPeriod s q (if k = 0 then p else { p with nextStart := last + 1, current := some last })
    let s := raise (bump s TIM_MISSED_missed_bells count) TIM_CAUSE_cause 8
    if k = 0 then s
    else
      let s := raise (bump (wr s (CTL_PERIOD_NUM_period q) last) (CTL_PERIOD_COUNT_skipped q) k) CTL_DISP_CAUSE_cause 3
      { s with copies := s.copies.map fun c =>
          if c.bind = p.subm ∧ last + 1 - k ≤ c.period ∧ c.period ≤ last then { c with skipped := true } else c }

/-! ### Corrections (R35) -/

/-- A correction applied as one step (R35, R36). -/
def stepTod (s : State) (c : Int) : State :=
  let lo := tod s
  let s := setTodFine s (unsigned 96 ((todFine s : Int) + c))
  let s := raise s TIM_CAUSE_cause 6
  if 0 < c then
    let s := fireDeadlines (s.cands.length + s.carries.length + sumL (s.copies.map (·.seats.length))) s
    (s.periods.map (·.1)).foldl (fun s q => match Store.get? s.periods q with
      | some p => passBells s q p lo (tod s)
      | none => s) s
  else s

/-- A phase correction taken up: slewed, applied as one step, or held; it replaces one in progress or held (R35). -/
def correct (s : State) (c : Int) : State :=
  let thresh : Int := rd s TIM_SRC_CFG_step_thresh * 1000 * 2 ^ 32
  if c.natAbs ≤ thresh.toNat then
    syncPending (wr (modTime s fun x => { x with slew := c, heldCorr := none }) TIM_STATUS_slewing (b2n (c != 0)))
  else
    let s := wr (modTime s fun x => { x with slew := 0, heldCorr := none }) TIM_STATUS_slewing 0
    if on s TIM_SRC_CFG_step_allowed && (s.periods.isEmpty || on s TIM_SRC_CFG_step_while_bound) then
      stepTod (syncPending s) c
    else raise (syncPending (modTime s fun x => { x with heldCorr := some c })) TIM_CAUSE_cause 7

/-- A correction of host software or of the firmware: a jump's window is no longer followed. -/
def adjust (s : State) (c : Int) : State := correct (modTime s fun x => { x with jump := false }) c

/-- Time of day set for the first time (R31, R35). -/
def setTodNow (s : State) (v : Nat) : State :=
  let s := modTime (setTodFine s (v * 2 ^ 32)) fun x => { x with setPend := none }
  timeSync (syncPending (wr s TIM_STATUS_tod_valid 1))

/-- TIM_TOD_SET: while tod_valid is 0 the value waits for the next accepted edge when a source is 1PPS, else it is the time
of day at once; while tod_valid is 1 it is a phase correction (R35). DEDUCED (log 24). -/
def execTimTodSet (fn : Nat) (v : Word64) (s : State) : Host.Outcome State Fault Refusal :=
  .next <|
    if !fnPhys s fn then s
    else if on s TIM_STATUS_tod_valid then adjust s (v.toNat * 2 ^ 32 - todFine s)
    else if names s 1 then syncPending (modTime s fun x => { x with setPend := some v.toNat })
    else setTodNow s v.toNat

/-- A PTP servo write noted: PTP is valid for 4 s, when the port it names is fitted (R34; TIM_SRC_CFG.ptp_port). -/
def ptpMark (s : State) (mark : Bool) : State :=
  if !mark then s
  else
    let s := modTime s fun x => { x with lastPtp := some s.now }
    if rd s TIM_SRC_CFG_ptp_port < s.part.ports then
      timeSync (wr (if on s TIM_STATUS_ptp_ok then s else sourceLocked s 2) TIM_STATUS_ptp_ok 1)
    else s

/-- TIM_ADJ_PHASE: a write of TIM_ADJ with phase_valid is a phase correction (R34, R35). DEDUCED (log 24). -/
def execTimAdjPhase (fn : Nat) (phase : BitVec 32) (mark : Bool) (s : State) : Host.Outcome State Fault Refusal :=
  .next (if fnPhys s fn then ptpMark (adjust s (signed 32 phase.toNat * 2 ^ 32)) mark else s)

/-- TIM_ADJ_RATE: a write of TIM_ADJ with rate_valid sets the servo rate, clamped to ±100 ppm (R30, R34, R53). -/
def execTimAdjRate (fn : Nat) (rate : BitVec 24) (mark : Bool) (s : State) : Host.Outcome State Fault Refusal :=
  .next <|
    if fnPhys s fn then ptpMark (modTime s fun x => { x with servo := clampRate (signed 24 rate.toNat) }) mark else s

/-- PTP no longer valid: PTP_LOST, and holdover where it is a source (R32, R34). -/
def ptpLost (s : State) : State :=
  raise (modTime (wr s TIM_STATUS_ptp_ok 0) fun x => { x with
    holdFrom := if names s 2 then some s.now else x.holdFrom }) TIM_CAUSE_cause 4

/-- PTP judged again as its port changes: one that is not fitted makes it invalid; one that is makes it valid while a servo write of
the last 4 s stands (R34; TIM_SRC_CFG.ptp_port). -/
def judgePtp (s : State) : State :=
  let recent := match s.time.lastPtp with
    | some e => decide (s.now < e + 4000000000)
    | none => false
  if s.part.ports ≤ rd s TIM_SRC_CFG_ptp_port then (if on s TIM_STATUS_ptp_ok then ptpLost s else s)
  else if recent && !on s TIM_STATUS_ptp_ok then wr (sourceLocked s 2) TIM_STATUS_ptp_ok 1
  else s

/-- A source field with a value written to it: 0b11 leaves it unchanged (R9, R53). -/
def srcField (old new : Nat) : Nat := if new = 3 then old else new

/-- TIME_SOURCE_CONFIG: TIM_SRC_CFG is written through the physical function: the sources and the settings change, a held
correction is evaluated again, and a pending time of day is applied when no source is 1PPS any longer (R31 to R35, R38).
DEDUCED (log 24). -/
def execTimeSourceConfig (fn : Nat) (v : Word64) (s : State) : Host.Outcome State Fault Refusal :=
  .next <|
    if !fnPhys s fn then s
    else
      let n := v.toNat
      let was := names s 1
      let p := srcField (rd s TIM_SRC_CFG_primary) (bitsOf n 0 2)
      let q := srcField (rd s TIM_SRC_CFG_secondary) (bitsOf n 2 2)
      let moved := p != rd s TIM_SRC_CFG_primary || q != rd s TIM_SRC_CFG_secondary
      let s := wrs s [(TIM_SRC_CFG_primary, p), (TIM_SRC_CFG_secondary, q), (TIM_SRC_CFG_ptp_port, n / 2 ^ 4),
        (TIM_SRC_CFG_ref_sel, n / 2 ^ 8), (TIM_SRC_CFG_pps_edge, n / 2 ^ 9), (TIM_SRC_CFG_step_allowed, n / 2 ^ 10),
        (TIM_SRC_CFG_step_while_bound, n / 2 ^ 11), (TIM_SRC_CFG_pps_out_en, n / 2 ^ 12),
        (TIM_SRC_CFG_pps_out_width, n / 2 ^ 16), (TIM_SRC_CFG_step_thresh, n / 2 ^ 24)]
      let s := wr s TIM_STATUS_ref_in_use (b2n (on s TIM_STATUS_ref_ok && !on s TIM_SRC_CFG_ref_sel))
      let s := judgePtp (if moved then modTime s fun x => { x with holdFrom := none } else s)
      let s := if names s 1 && !was then
          modTime s fun x => { x with pps := 2, ppsGood := 0, lastEdge := some s.now, predicted := none, outside := [] }
        else if !names s 1 then modTime s fun x => { x with pps := 0, predicted := none, outside := [], jump := false } else s
      let s := match s.time.setPend with
        | some t => if names s 1 then s else setTodNow s t
        | none => s
      let s := if s.time.pulse && !on s TIM_SRC_CFG_pps_out_en then
          emitOut (modTime s fun x => { x with pulse := false }) (.pin "TIME_1PPS_OUT" false) else s
      timeSync (match s.time.heldCorr with
        | some c => correct s c
        | none => s)

/-- SLEW_COMPLETE: a slew is fully applied (R35). -/
def execSlewComplete (s : State) : Host.Outcome State Fault Refusal :=
  .next <|
    if on s TIM_STATUS_slewing && s.time.slew == 0 then
      modTime (wr s TIM_STATUS_slewing 0) fun x => if x.heldCorr.isNone then { x with jump := false } else x
    else s

/-! ### The 10 MHz reference (R28, R29) -/

/-- The error of the last 1 ms measurement: a free value. -/
def measureRef (s : State) : State := takeFree (wr s TIM_REF_STATS_ref_err_ppb (Config.freeValue s.freeCtr)) 1

/-- REF_LOST: REF_10M_IN is declared lost, and the time PLL moves to the local oscillator (R29). -/
def execRefLost (s : State) : Host.Outcome State Fault Refusal :=
  .next <|
    if !on s TIM_STATUS_ref_ok then s
    else raise (bump (measureRef (wrs s [(TIM_STATUS_ref_ok, 0), (TIM_STATUS_ref_in_use, 0)])) TIM_REF_STATS_lost_events 1) TIM_CAUSE_cause 0

/-- REF_RESTORED: REF_10M_IN is valid, and the time PLL moves to it while ref_sel is 0 (R28, R29). -/
def execRefRestored (s : State) : Host.Outcome State Fault Refusal :=
  .next <|
    if on s TIM_STATUS_ref_ok then s
    else raise (measureRef (wrs s [(TIM_STATUS_ref_ok, 1), (TIM_STATUS_ref_in_use, b2n (!on s TIM_SRC_CFG_ref_sel))])) TIM_CAUSE_cause 1

/-! ### 1PPS (R31 to R33) -/

/-- One second in ns. -/
def second : Nat := 1000000000

/-- An offset brought into half a second on either side of 0. -/
def nearSecond (x : Int) : Int := (x + 500000000) % 1000000000 - 500000000

/-- Where edges are expected from the whole second of TIM_TOD: at it, or, after a jump, off it by the correction not yet
worked off (R33). -/
def ppsCentre (s : State) : Int :=
  if s.time.jump then -((s.time.slew + s.time.heldCorr.getD 0) / 2 ^ 32) else 0

/-- The phase error of an edge at the present TIM_TOD, none for the first edge while acquiring; after a jump the window follows the
new edges (R31, R33). -/
def edgeError (s : State) : Option Int :=
  if s.time.pps = 2 ∧ !s.time.jump then s.time.predicted.map fun p => (tod s : Int) - p
  else some (nearSecond (tod s - ppsCentre s))

/-- An edge outside the window: rejected and counted; the fourth in a row 1 s apart is a jump, on whose edges the window is centred
(R31, R33). The run of 8 of R31 is one of accepted edges: neither an edge rejected between them nor a second without one breaks it.
DEDUCED (log 24). -/
def rejectEdge (s : State) : State :=
  let s := bump s TIM_PPS_STATS_window_rejects 1
  let l := match s.time.outside with
    | t :: r => if t + second ≤ s.now + 100 ∧ s.now ≤ t + second + 100 then s.now :: t :: r else [s.now]
    | [] => [s.now]
  if l.length < 4 then modTime s fun x => { x with outside := l }
  else
    let o := nearSecond (tod s)
    let s := correct (raise (modTime s fun x => { x with outside := [], jump := true }) TIM_CAUSE_cause 3) (-(o * 2 ^ 32))
    modTime s fun x => { x with predicted := if x.pps = 2 then some (tod s + second) else none }

/-- An edge accepted with its phase error: counted; a pending time of day takes effect; the lock state follows, and the servo while
1PPS is the source that the time unit disciplines from (R31, R32). -/
def acceptEdge (s : State) (err : Option Int) : State :=
  let e : Int := err.getD (signed 32 (Config.freeValue s.freeCtr))
  let rate := clampRate (signed 32 (Config.freeValue (s.freeCtr + 1)))
  let s := takeFree s 2
  let s := wrs (bump s TIM_PPS_STATS_accepted 1) [(TIM_PHASE_ERR_phase_err, unsigned 32 e),
    (TIM_PHASE_ERR_edges, rd s TIM_PHASE_ERR_edges + 1), (TIM_STATUS_pps_ok, 1)]
  let s := match s.time.setPend with
    | some v => if on s TIM_STATUS_tod_valid then s else setTodNow s v
    | none => s
  let was := s.time.pps == 3
  let near := err.isSome && decide (e.natAbs ≤ 100)
  let good := if near then s.time.ppsGood + 1 else 0
  let s := modTime s fun x => { x with
    lastEdge := some s.now, outside := [], lastMissing := (tod s + second / 2) / second
    pps := if x.pps = 4 then 2 else if x.pps = 2 ∧ 8 ≤ good then 3 else x.pps
    ppsGood := if x.pps = 2 then good else 0
    predicted := if x.pps = 3 ∨ (x.pps = 2 ∧ 8 ≤ good) then none else some (tod s + second)
    holdFrom := if x.pps = 4 then none else x.holdFrom
    servo := if x.pps = 3 ∧ rd s TIM_STATUS_source = 1 then rate else x.servo }
  timeSync (if s.time.pps = 3 ∧ !was then sourceLocked s 1 else s)

/-- PPS_EDGE: an edge of TIME_1PPS_IN is checked for polarity, width and window (R31 to R33). DEDUCED (log 24). -/
def execPpsEdge (falling : Bool) (widthNs : Nat) (s : State) : Host.Outcome State Fault Refusal :=
  .next <|
    if s.time.pps = 0 ∨ on s TIM_SRC_CFG_pps_edge ≠ falling then s
    else if widthNs < 100 ∨ 500000000 < widthNs then bump s TIM_PPS_STATS_width_rejects 1
    else match edgeError s with
      | none => acceptEdge s none
      | some e => if e.natAbs ≤ 1000 then acceptEdge s (some e) else rejectEdge s

/-- PPS_HOLDOVER: no edge has been accepted for 1.5 s on the time clock (R32). DESIGN CHOICE (log 11); DEDUCED (log 24). -/
def execPpsHoldover (s : State) : Host.Outcome State Fault Refusal :=
  .next <| match s.time.lastEdge with
    | some e =>
      if (s.time.pps = 2 ∨ s.time.pps = 3) ∧ e + 1500000000 ≤ s.now then
        timeSync (raise (modTime (wr s TIM_STATUS_pps_ok 0) fun x => { x with
          pps := 4, predicted := none, ppsGood := 0, holdFrom := some s.now }) TIM_CAUSE_cause 2)
      else s
    | none => s

/-- PTP_LOST: no PTP servo write has arrived for 4 s; R32 applies as to 1PPS (R34). -/
def execPtpLost (s : State) : Host.Outcome State Fault Refusal :=
  .next <| match s.time.lastPtp with
    | some e =>
      if on s TIM_STATUS_ptp_ok && decide (e + 4000000000 ≤ s.now) then timeSync (ptpLost s) else s
    | none => s

/-- PPS_MISSING: a predicted second has passed without an accepted edge (R53, TIM_PPS_STATS). -/
def execPpsMissing (s : State) : Host.Outcome State Fault Refusal :=
  .next <|
    if s.time.pps = 2 then
      match s.time.predicted with
      | some p =>
        if p + 1000 < tod s then bump (modTime s fun x => { x with predicted := some (p + second) }) TIM_PPS_STATS_missing 1 else s
      | none => s
    else if s.time.pps = 3 ∨ s.time.pps = 4 then
      let k := (tod s - 1001) / second
      if s.time.lastMissing < k then bump (modTime s fun x => { x with lastMissing := k }) TIM_PPS_STATS_missing 1 else s
    else s

/-! ### TIME_1PPS_OUT (R38) -/

/-- PPS_OUT_ASSERT: at a whole second of TIM_TOD, within 5 ns, while pps_out_en and tod_valid are both 1 (R38). -/
def execPpsOutAssert (s : State) : Host.Outcome State Fault Refusal :=
  .next <|
    if on s TIM_SRC_CFG_pps_out_en && on s TIM_STATUS_tod_valid && !s.time.pulse && decide ((nearSecond (tod s)).natAbs ≤ 5) then
      emitOut (modTime s fun x => { x with pulse := true, pulseFrom := s.now }) (.pin "TIME_1PPS_OUT" true)
    else s

/-- PPS_OUT_RELEASE: the pulse ends after pps_out_width ms, 0 counting as 1 (R38, R53). -/
def execPpsOutRelease (s : State) : Host.Outcome State Fault Refusal :=
  .next <|
    if s.time.pulse && decide (s.time.pulseFrom + 1000000 * max 1 (rd s TIM_SRC_CFG_pps_out_width) ≤ s.now) then
      emitOut (modTime s fun x => { x with pulse := false }) (.pin "TIME_1PPS_OUT" false)
    else s

/-! ### Frequency steps and roll call (R41, R44, R46, R47, R52) -/

/-- TIM_FREQ_CTL.target written: a step is requested, or one not begun is withdrawn (R52). -/
def setTarget (s : State) (v : Nat) : State :=
  let s := wr s TIM_FREQ_CTL_target v
  if v ≠ rd s TIM_FREQ_CTL_current then wr s TIM_FREQ_CTL_busy 1
  else if s.time.relock || s.time.rollCall == 2 then s
  else wr s TIM_FREQ_CTL_busy 0

/-- FREQ_TARGET_WRITE: host software writes the target through the physical function (R52, R385). -/
def execFreqTargetWrite (fn : Nat) (target : BitVec 2) (s : State) : Host.Outcome State Fault Refusal :=
  .next (if fnPhys s fn then setTarget s target.toNat else s)

/-- PLL_RELOCK: every tile is between runs and every next start bell lies at least 25 µs ahead: the die PLLs begin to relock
(R52). -/
def execPllRelock (s : State) : Host.Outcome State Fault Refusal :=
  .next <|
    if on s TIM_FREQ_CTL_busy && !gridStopped s && !(s.runs.any fun p => p.2.live)
        && s.periods.all (fun p => decide (tod s + 25000 ≤ p.2.bellAt p.2.nextStart)) then
      modTime s fun x => { x with relock := true, relockTo := rd s TIM_FREQ_CTL_target }
    else s

/-- RELOCK_DONE: the tick clocks run at the new ratio, and the roll call of the step begins (R52). DEDUCED (log 24). -/
def execRelockDone (s : State) : Host.Outcome State Fault Refusal :=
  .next <|
    if s.time.relock then
      modTime (wr s TIM_FREQ_CTL_current s.time.relockTo) fun x => { x with relock := false, rollCall := 2, rollRun := none }
    else s

/-- Whether a crossing link of a tile is present: a neighbour site exists on it (R45). -/
def linkPresent (s : State) (t l : Nat) : Bool := decide (t < s.part.tiles) && (neighbourTile t l).isSome

/-- Whether a crossing link of a tile is enabled (R45). DESIGN CHOICE (log 50). -/
def linkEnabled (s : State) (t l : Nat) : Bool :=
  match neighbourTile t l with
  | none => false
  | some u => tileOn s t && tileOn s u && (partOfTile s t).isSome && partOfTile s t == partOfTile s u

/-- A roll call has ended and window 0 of a new grid begins: every action still to come is taken at the start of its window 2, and
nothing of the window cut short counts in it: stretches, bubble requests, claims of static slots (R41, R44, R46). -/
def regrid (s : State) : State :=
  { s with
    tiles := s.tiles.map fun p => (p.1, { p.2 with stretch := 0, bubbleReq := false })
    claims := []
    runs := s.runs.map fun p => (p.1, { p.2 with kickWin := p.2.kickWin.map fun _ => 2, ready := p.2.ready.map fun k => (k.1, 2) })
    periods := s.periods.map fun p => (p.1, { p.2 with acting := p.2.acting.map fun a => (a.1, 2) })
    winMax := [], bubbleNow := [] }

/-- The window grid that the end of a roll call starts (R41, R46). -/
def startGrid (s : State) : State :=
  wr (modTime (regrid s) fun x => { x with rollCall := 0, rollRun := none, rolled := true, winTod := tod s }) TIM_WINDOW_window 0

/-- ROLL_CALL_DONE: roll call ends, window 0 of the new grid begins; a frequency step is done (R41, R44, R46, R52, R381).
DESIGN CHOICE (log 46). -/
def execRollCallDone (offsets : List (Nat × Nat × Nat)) (s : State) : Host.Outcome State Fault Refusal :=
  .next <|
    if s.time.rollCall = 0 then s
    else
      let step := s.time.rollCall == 2
      let s := modTime (startGrid s) fun x => { x with rollDue := false }
      let s := offsets.foldl (fun s o => if linkEnabled s o.1 o.2.1 then wr s (TIM_XOFS_offset o.1 o.2.1) o.2.2 else s) s
      if step then
        let s := { s with pwr := { s.pwr with acc := [] } }
        raise (wr s TIM_FREQ_CTL_busy (b2n (rd s TIM_FREQ_CTL_target != rd s TIM_FREQ_CTL_current))) TIM_CAUSE_cause 11
      else s

/-- ROLL_CALL_FAIL: a second failure of a link: the fault is recorded, and the job whose kickoff it precedes ends with it; the roll
call has ended, its grid runs, and another is due (R41, R44, R47, R351, R354). DEDUCED (log 24). -/
def execRollCallFail (t link : Nat) (s : State) : Host.Outcome State Fault Refusal :=
  .next <|
    if s.time.rollCall = 0 then s
    else
      let step := s.time.rollCall == 2
      let r := s.time.rollRun
      let s := raise (noteXovr s t link false false) TIM_CAUSE_cause 9
      let s := hwFaultOn s 0x0A t link []
      let s := modTime (startGrid s) fun x => { x with rollDue := true }
      let s := if step then wr s TIM_FREQ_CTL_busy 0 else s
      match r with
      | some k => (match Store.get? s.runs k with
        | some x => if x.phase = .pending then
            endRun (modRun s k fun x => { x with fault := 0x0A }) k 3 stFault (rd s REL_FAULT_fault) else s
        | none => s)
      | none => s

end Sys2Proof.Machine
end

