-- ==== Sys2Proof/Machine/Power.lean ====
section
/-! DEFINITION. Droop, windows, bubbles, power and temperature
(02_time_and_clocking.md, R41, R42, R48 to R51; 15_power_and_thermal.md, R378 to R393). -/

namespace Sys2Proof.Machine

/-! ### Figures -/

/-- The domain and the owner of a tile: its partition, when it is on (R42, R388). -/
def domainOf (s : State) (t : Nat) : Option Nat := if tileOn s t then partOfTile s t else none

/-- The logical tiles of a domain that are on. -/
def domainTiles (s : State) (q : Nat) : List Nat := (List.range s.part.tiles).filter fun t => domainOf s t == some q

/-- max_ratio in force, in 1/256 (PWR_CAP_CFG). DESIGN CHOICE (log 39). -/
def maxRatio (s : State) : Nat := min 256 (max 1 (rd s PWR_CAP_CFG_max_ratio))

/-- The module cap in force, in 0.01 W. DESIGN CHOICE (log 39). -/
def moduleCap (s : State) : Nat := 100 * min 2600 (max 500 (rd s PWR_CAP_CFG_cap_w))

/-- A temperature limit in force, in degrees C. DESIGN CHOICE (log 39). -/
def thermLimit (n : Nat) : Nat := min 105 (max 70 n)

/-- A raw term under the gain, in 0.01 W rounded down (R379). -/
def calibrated (s : State) (raw : Nat) : Nat := raw * rd s PWR_CAL_gain / 2 ^ 14

/-- The level a tile's hints give a window: of those whose phase has begun the latest, while it lasts (R70, R383). -/
def hintAt (x : Tile) (w : Nat) : Option Nat :=
  match (x.hints.filter fun h => decide (h.1 ≤ w)).getLast? with
  | some (f, n, l) => if w < f + n then some l else none
  | none => none

/-- The tile term that R380 uses: the estimate, or the hinted power where that is larger (R383). -/
def termOf (s : State) (t : Nat) : Nat :=
  let e := Store.getD s.pwr.terms t 0
  match hintAt (tileOf s t) s.windows with
  | some l => if on s PWR_CAP_CFG_hints_en then max e (l * (10 * rd s PWR_CAL_tile_max_dw) / 15) else e
  | none => e

/-- The sum of the tile terms of a domain (R380). -/
def domainPower (s : State) (q : Nat) : Nat := sumL ((domainTiles s q).map (termOf s))

/-- The module estimate with the hinted terms (R378, R383). -/
def modulePower (s : State) : Nat := s.pwr.base + s.pwr.traffic + sumL ((List.range s.part.tiles).map (termOf s))

/-- A quotient in 1/256, rounded up, at most max_ratio; 0 of nothing, max_ratio where the divisor is not above 0 (R380). -/
def ratioUp (s : State) (e : Nat) (d : Int) : Nat :=
  if e = 0 then 0 else if d ≤ 0 then maxRatio s else min (maxRatio s) ((256 * e + d.toNat - 1) / d.toNat)

/-- Whether pwr_iso is set in a committed SEC_PART_CFG of an enabled partition, which applies it to all (R412). -/
def pwrIso (s : State) : Bool := s.parts.any fun p => bitOf (Store.getD s.sec.committed (SEC_PART_CFG p.1) 0) 14

/-- The cap ratio of a domain (R380, R382, R412): the larger of what the module cap and the partition's cap ask for.
DEDUCED (log 33). -/
def capRatio (s : State) (q : Nat) : Nat :=
  if on s PWR_STATUS_overpower then maxRatio s
  else
    let pd := domainPower s q
    let all := sumL ((s.parts.map (·.1)).map (domainPower s))
    let e := modulePower s - moduleCap s
    let owned := sumL (s.parts.map fun p => (domainTiles s p.1).length)
    let cap := 100 * rd s (PWR_PART_CAP_part_cap_w q)
    let mine := (domainTiles s q).length
    let pq := Store.getD s.pwr.shares q 0 * owned + s.pwr.base * mine
    let iso := pq * tilesUsable s - moduleCap s * mine * owned
    let f1 := if pwrIso s then ratioUp s iso ((pd * owned * tilesUsable s : Nat) - (iso : Int))
      else if pd = 0 then 0 else ratioUp s e ((all : Int) - e)
    let over' := pq - cap * owned
    let f2 := if cap = 0 then 0 else ratioUp s over' ((pd * owned : Nat) - (over' : Int))
    max f1 f2

/-- A thermal ratio for `over'` degrees at or above a limit: a tenth for each (R384). -/
def thermRatio (s : State) (above : Int) : Nat := if above ≤ 0 then 0 else min (maxRatio s) ((256 * above.toNat + 9) / 10)

/-- The temperature a sensor register holds. -/
def tempOf (s : State) (i : Nat) : Int := signed 8 (rd s (PWR_TEMP_temp_c i))

/-- The thermal ratio of a domain: from the compute dies that hold its tiles, and from the stacks (R384).
DEDUCED (log 33). -/
def thermalRatio (s : State) (q : Nat) : Nat :=
  let dies := (domainTiles s q).map fun t => (siteOf s t).die
  let lim : Int := thermLimit (rd s PWR_THERM_CFG_throttle_c)
  let a := ((List.range 12).filter fun d => dies.contains d).map fun d => thermRatio s (tempOf s d - lim + 1)
  let b := (List.range 22).map fun k => if tempOf s (20 + k) ≤ 95 then 0 else thermRatio s (tempOf s (20 + k) - 94)
  max (maxL a) (maxL b)

/-! ### Ratios in force (R380 to R384) -/

/-- The ratio of a domain in force. -/
def ratioOf (s : State) (q : Nat) : Nat := max (Store.getD s.pwr.capF q 0) (Store.getD s.pwr.thF q 0)

/-- The status bits that follow the ratios, and the domains whose ratio is above 0 noted. -/
def syncRatios (s : State) : State :=
  let qs := s.parts.map (·.1)
  let s := wrs s [(PWR_STATUS_capping, b2n (qs.any fun q => Store.getD s.pwr.capF q 0 != 0)),
    (PWR_STATUS_thermal, b2n (qs.any fun q => Store.getD s.pwr.thF q 0 != 0))]
  { s with pwr := { s.pwr with live := (s.pwr.live ++ qs.filter fun q => ratioOf s q != 0).dedup } }

/-- The cap ratios of domains formed anew; CAPPING is raised where one becomes non-zero (R380). -/
def formCaps (s : State) (qs : List Nat) : State :=
  let new := qs.map fun q => (q, capRatio s q)
  let rise := new.any fun p => p.2 != 0 && Store.getD s.pwr.capF p.1 0 == 0
  let s := { s with pwr := { s.pwr with capF := new.foldl (fun m p => Store.put m p.1 0 p.2) s.pwr.capF } }
  syncRatios (if rise then raise s PWR_CAUSE_cause 0 else s)

/-- The thermal ratios formed anew; THERM_THROTTLE is raised where one becomes non-zero (R384). -/
def formTherms (s : State) : State :=
  let new := s.parts.map fun p => (p.1, thermalRatio s p.1)
  let rise := new.any fun p => p.2 != 0 && Store.getD s.pwr.thF p.1 0 == 0
  let s := { s with pwr := { s.pwr with thF := new.foldl (fun m p => Store.put m p.1 0 p.2) s.pwr.thF } }
  syncRatios (if rise then raise s PWR_CAUSE_cause 3 else s)

/-! ### Droop and windows (R48 to R50, R381) -/

/-- The fill of the crossing buffer from `w` to `r` with the stretches of the window now open, no tick of which issues in a bubble
(R51). -/
def fillNow (s : State) (r w : Nat) : Nat := 4 + (tileOf s r).stretch - (tileOf s w).stretch

/-- The fills a reader has seen on a link noted (TIM_XFILL). -/
def noteFill (s : State) (r l w : Nat) : State :=
  if !linkEnabled s r l then s
  else
    let f := fillNow s r w
    wrs s [(TIM_XFILL_min_fill r l, min f (rd s (TIM_XFILL_min_fill r l))), (TIM_XFILL_max_fill r l, max f (rd s (TIM_XFILL_max_fill r l)))]

/-- DROOP_STRETCH: a tile's monitor asks for a stretch cycle; the fourth request of a window is a bubble request instead; in a bubble
the tile issues nothing to stretch (R41, R48, R51, R54). DEDUCED (log 33). -/
def execDroopStretch (t : Nat) (s : State) : Host.Outcome State Fault Refusal :=
  .next <|
    if !tileOn s t || gridStopped s || bubbled s t then s
    else if (tileOf s t).stretch < 3 then
      let s := bump (modTile s t fun x => { x with stretch := x.stretch + 1 }) (TIM_STRETCH_own t) 1
      let s := if (tileOf s t).stretch = 3 then bump s (TIM_STRETCH_full_windows t) 1 else s
      (List.range 4).foldl (fun s l => match neighbourTile t l with
        | some u => noteFill (noteFill s t l u) u ((l + 2) % 4) t
        | none => s) s
    else bump (modTile s t fun x => { x with bubbleReq := true }) (TIM_STRETCH_bubble_req t) 1

/-- The largest stretch count of each compute die in the window now open (R49). -/
def dieMaxes (s : State) : List Nat :=
  (List.range 12).map fun d => maxL ((s.tiles.filter fun p => tileOn s p.1 && (siteOf s p.1).die == d).map fun p => p.2.stretch)

/-- The equalising stretches of the window that ends added to every tile's count (R49, R50). -/
def equalise (s : State) : State :=
  let m := dieMaxes s
  let old := s.winMax.getD 1 []
  let s := (List.range s.part.tiles).foldl (fun s t =>
    if tileOn s t then
      let d := (siteOf s t).die
      bump s (TIM_STRETCH_equalising t) (m.getD d 0 - (tileOf s t).stretch + (maxL old - old.getD d 0))
    else s) s
  { s with winMax := [m, s.winMax.getD 0 []] }

/-- What the boundary decides for a domain: a bubble owed to its ratio after an issued window, or to a droop request (R48,
R381). DEDUCED (log 33). -/
def windowDomain (s : State) (q : Nat) : State :=
  let issued := !s.bubbleNow.contains q
  let droop := (domainTiles s q).any fun t => (tileOf s t).bubbleReq
  let a := min 512 (Store.getD s.pwr.acc q 0 + (if issued then ratioOf s q else 0))
  let owed := issued && decide (256 ≤ a)
  let s := { s with pwr := { s.pwr with acc := Store.put s.pwr.acc q 0 (if owed then a - 256 else a) } }
  if droop then bump s (PWR_BUBBLES_droop q) 1
  else if owed then
    if Store.getD s.pwr.thF q 0 ≤ Store.getD s.pwr.capF q 0 then bump s (PWR_BUBBLES_cap q) 1 else bump s (PWR_BUBBLES_thermal q) 1
  else s

/-- Whether the next window of a domain is a bubble (R48, R381). -/
def bubbleNext (s : State) (q : Nat) : Bool :=
  ((domainTiles s q).any fun t => (tileOf s t).bubbleReq)
    || (!s.bubbleNow.contains q && decide (256 ≤ min 512 (Store.getD s.pwr.acc q 0 + ratioOf s q)))

/-- Domains in which a hinted phase begins with the window now open (R383). -/
def phaseStarts (s : State) : List Nat :=
  if !on s PWR_CAP_CFG_hints_en then []
  else (s.parts.map (·.1)).filter fun q => (domainTiles s q).any fun t => (tileOf s t).hints.any fun h => h.1 == s.windows

/-- WINDOW_END: an alignment window ends: stretches are equalised, bubbles of the next window decided, windows counted; none
run before the first roll call, nor during a relock or a roll call (R41, R48 to R50, R381, R383). -/
def execWindowEnd (s : State) : Host.Outcome State Fault Refusal :=
  .next <|
    if gridStopped s || !s.time.rolled then s
    else
      let qs := s.parts.map (·.1)
      let next := qs.filter (bubbleNext s)
      let s := qs.foldl windowDomain (equalise s)
      let s := s.bubbleNow.foldl (fun s q => { s with bubbles := Store.set s.bubbles q (Store.getD s.bubbles q 0 + 1) }) s
      let s := { s with tiles := s.tiles.map fun p => (p.1, { p.2 with stretch := 0, bubbleReq := false }), bubbleNow := next
                        windows := s.windows + 1 }
      let s := modTime (bump s TIM_WINDOW_window 1) fun x => { x with winTod := tod s }
      match phaseStarts s with
      | [] => s
      | l => formCaps s l

/-! ### Power (R378 to R382, R388 to R390) -/

/-- A figure in 0.01 W over 1 µs added to an energy counter in µJ, hundredths kept (R388, R389). -/
def addEnergy (s : State) (k : Nat) (f : Fld) (cw : Nat) : State :=
  let n := Store.getD s.pwr.frac k 0 + cw
  wr { s with pwr := { s.pwr with frac := Store.put s.pwr.frac k 0 (n % 100) } } f (rd s f + n / 100)

/-- The SQ a run's tile terms go to: that of its RUN_GRAPH or of its BIND_PERIOD (R389). -/
def sqOfRun (s : State) (x : Run) : Option Nat := ((s.descs.find? fun d => d.subm == x.subm).map (·.sq))

/-- The runs in progress with their SQ and tiles. -/
def chargedTiles (s : State) : List (Nat × List Nat) :=
  s.runs.filterMap fun p => if p.2.runs then (sqOfRun s p.2).map fun k => (k, tilesOfRun s p.2) else none

/-- The SQ of the LOAD_IMAGE of the job the grading engine is armed for, and its partition (R388, R389). -/
def gradingOwner (s : State) : Option (Nat × Nat) :=
  ((s.jobs.find? fun p => grdArmed s p.1).map fun p => (p.2.part, p.2.sq))

/-- The interval's energy divided among partitions and queues (R388, R389). DEDUCED (log 33). -/
def accountEnergy (s : State) (grading : Nat) (service : List (Nat × Nat)) : State :=
  let owned := sumL (s.parts.map fun p => (domainTiles s p.1).length)
  let s := s.parts.foldl (fun s p =>
    let own := Store.getD s.pwr.shares p.1 0
    let base := if owned = 0 then 0 else s.pwr.base * (domainTiles s p.1).length / owned
    addEnergy s p.1 (PWR_ENERGY_PART_energy_uj p.1) (own + base)) s
  let s := (chargedTiles s).foldl (fun s c =>
    addEnergy s (8 + c.1) (PWR_ENERGY_SQ_energy_uj c.1) (sumL (c.2.map fun t => Store.getD s.pwr.terms t 0))) s
  let s := match gradingOwner s with
    | some (_, k) => addEnergy s (8 + k) (PWR_ENERGY_SQ_energy_uj k) (calibrated s grading)
    | none => s
  service.foldl (fun s p => addEnergy s (8 + p.1) (PWR_ENERGY_SQ_energy_uj p.1) (calibrated s p.2)) s

/-- The coarse readings taken at the end of a millisecond (R390). DEDUCED (log 33). -/
def coarsen (s : State) : State :=
  if s.pwr.msN < 1000 then s
  else
    let mj (f : Fld) : Nat := rd s f / 1000 * 1000
    let hot := ((List.range 20).map (tempOf s)).foldl max (tempOf s 0)
    { s with pwr := { s.pwr with
        msN := 0, msEst := 0, msSamples := 0, msMeas := 0
        cEst := s.pwr.msEst / s.pwr.msN / 100, cMeas := if s.pwr.msSamples = 0 then s.pwr.cMeas else s.pwr.msMeas / s.pwr.msSamples
        cTemp := unsigned 8 hot, cMod := mj PWR_ENERGY_MOD_energy_uj
        cParts := (List.range 8).map fun q => (q, mj (PWR_ENERGY_PART_energy_uj q))
        cSqs := (List.range 16).map fun q => (q, mj (PWR_ENERGY_SQ_energy_uj q)) } }

/-- The domains that have stayed at max_ratio counted; CAP_SATURATED after 1 ms (R382). DEDUCED (log 33). -/
def saturate (s : State) : State :=
  s.parts.foldl (fun s p =>
    let n := if ratioOf s p.1 = maxRatio s then Store.getD s.pwr.sat p.1 0 + 1 else 0
    let s := { s with pwr := { s.pwr with sat := Store.put s.pwr.sat p.1 0 n } }
    if n = 1000 then raise s PWR_CAUSE_cause 1 else s) s

/-- POWER_INTERVAL: an interval of 1 µs ends with the raw terms it had: base, tiles, traffic by partition, grading engine,
and loader, copy and test terms by SQ; the estimate, the energies and the ratios of the next interval follow (R378 to R382,
R388 to R390). DESIGN CHOICE (log 46). -/
def execPowerInterval (base : Nat) (tiles : List TileTerm) (traffic : List (Nat × Nat)) (grading : Nat)
    (service : List (Nat × Nat)) (s : State) : Host.Outcome State Fault Refusal :=
  .next <|
    let s := saturate s
    let terms : Store Nat := tiles.foldl (fun m x => if x.t < s.part.tiles then Store.put m x.t 0 (calibrated s x.cw) else m) []
    let flow := traffic.map fun p => (p.1, calibrated s p.2)
    let g := calibrated s grading
    let share (q : Nat) : Nat :=
      sumL ((domainTiles s q).map fun t => Store.getD terms t 0) + sumL ((flow.filter fun p => p.1 == q).map (·.2))
        + (match gradingOwner s with
          | some (p, _) => if p = q then g else 0
          | none => 0)
    let dead := (s.pwr.acc.map (·.1)).filter fun q => !s.pwr.live.contains q
    let s := { s with pwr := { s.pwr with
      base := calibrated s base, traffic := sumL (flow.map (·.2)) + g, terms := terms
      shares := s.parts.map fun p => (p.1, share p.1)
      acc := dead.foldl Store.erase s.pwr.acc, live := [] } }
    let s := (List.range s.part.tiles).foldl (fun s t =>
      wr s (PWR_TILE_power_cw t) (min 0xFFFF (Store.getD terms t 0))) s
    let total := s.pwr.base + s.pwr.traffic + sumL (terms.map (·.2))
    let s := accountEnergy (wr s PWR_STATUS_est_w (min 0xFFF (total / 100))) grading service
    let s := coarsen { s with pwr := { s.pwr with msN := s.pwr.msN + 1, msEst := s.pwr.msEst + total } }
    formCaps s (s.parts.map (·.1))

/-- INPUT_SAMPLE: the mean input power of 100 µs: counted in the module's energy, and held against the overpower limit
(R379, R382). -/
def execInputSample (watts : Nat) (s : State) : Host.Outcome State Fault Refusal :=
  .next <|
    let s := wrs s [(PWR_STATUS_meas_w, min 0xFFF watts), (PWR_ENERGY_MOD_energy_uj, rd s PWR_ENERGY_MOD_energy_uj + 100 * watts)]
    let s := { s with pwr := { s.pwr with msSamples := s.pwr.msSamples + 1, msMeas := s.pwr.msMeas + watts
                                          cool := if watts < 2600 then s.pwr.cool + 1 else 0 } }
    if 2750 < watts then
      if on s PWR_STATUS_overpower then s
      else formCaps (raise (wr s PWR_STATUS_overpower 1) PWR_CAUSE_cause 5) (s.parts.map (·.1))
    else if on s PWR_STATUS_overpower && decide (10 ≤ s.pwr.cool) then formCaps (wr s PWR_STATUS_overpower 0) (s.parts.map (·.1))
    else s

/-- The least gain, 0.80, in units of 2 ^ -14. -/
def gainLow : Nat := 13108

/-- The greatest gain, 1.25. -/
def gainHigh : Nat := 20480

/-- CALIBRATION: every 10 ms the gain moves by at most 1 % towards the ratio of the measured input energy to the raw estimate,
within its clamp; CAL_DRIFT after ten ratios in a row outside it (R379). DEDUCED (log 33). -/
def execCalibration (measuredUj estimatedUj : Nat) (s : State) : Host.Outcome State Fault Refusal :=
  .next <|
    let outside := estimatedUj == 0 || decide (5 * measuredUj < 4 * estimatedUj) || decide (5 * estimatedUj < 4 * measuredUj)
    let n := if outside then s.pwr.calOut + 1 else 0
    let g := rd s PWR_CAL_gain
    let want := if estimatedUj = 0 then gainHigh else measuredUj * 2 ^ 14 / estimatedUj
    let new := min gainHigh (max gainLow (min (g + g / 100) (max (g - g / 100) want)))
    let s := wrs { s with pwr := { s.pwr with calOut := n } } [(PWR_CAL_gain, new), (PWR_CAL_clamped, b2n (new == gainLow || new == gainHigh))]
    if n = 10 then raise s PWR_CAUSE_cause 2 else s

/-! ### Temperature (R384 to R386) -/

/-- The trip point of a sensor, none where R386 names none. -/
def tripAt (i : Nat) : Option Int := if i < 19 then some 110 else if 20 ≤ i ∧ i < 42 then some 105 else none

/-- Whether a reading stands at its trip point. -/
def atTrip (r : TempReading) : Bool :=
  match tripAt r.idx with
  | some l => decide (l ≤ r.tempC)
  | none => false

/-- One reading taken into its register and the dies' histories. -/
def takeReading (s : State) (r : TempReading) : State :=
  let v := unsigned 8 (max (-128) (min 127 r.tempC))
  let top := max (signed 8 v) (signed 8 (rd s (PWR_TEMP_max_c r.idx)))
  let s := wrs s [(PWR_TEMP_temp_c r.idx, v), (PWR_TEMP_max_c r.idx, unsigned 8 top)]
  let lim : Int := thermLimit (rd s PWR_THERM_CFG_step_c)
  let hot := if 12 ≤ r.idx then s.pwr.hot
    else if r.tempC < lim then Store.erase s.pwr.hot r.idx
    else Store.set s.pwr.hot r.idx (Store.getD s.pwr.hot r.idx s.now)
  { s with pwr := { s.pwr with hot := hot, trip := if atTrip r then (r.idx :: s.pwr.trip).dedup else s.pwr.trip.filter (· != r.idx) } }

/-- The hottest sensor of the module brought up to date (PWR_STATUS). -/
def syncHottest (s : State) : State :=
  let best := (List.range 44).foldl (fun b i => if tempOf s b < tempOf s i then i else b) 0
  wrs s [(PWR_STATUS_hottest_at, best), (PWR_STATUS_hottest_c, rd s (PWR_TEMP_temp_c best))]

/-- TEMP_SAMPLE: sensors are read; two readings in a row at a trip point trip the module; the thermal ratios follow (R384,
R386). DESIGN CHOICE (log 46). -/
def execTempSample (readings : List TempReading) (s : State) : Host.Outcome State Fault Refusal :=
  .next <|
    if on s PWR_STATUS_tripped then s
    else
      let rs := readings.filter fun r => decide (r.idx < 44)
      let trip := rs.any fun r => atTrip r && s.pwr.trip.contains r.idx
      let s := syncHottest (rs.foldl takeReading s)
      if trip then tripModule s else formTherms s

/-- THERM_STEP: a compute die has stayed at or above step_c for 10 ms while auto_step is 1: the manager writes target one
step lower (R385). DEDUCED (log 33). -/
def execThermStep (die : Nat) (s : State) : Host.Outcome State Fault Refusal :=
  .next <| match Store.get? s.pwr.hot die with
    | some t =>
      if on s PWR_THERM_CFG_auto_step && decide (die < 12) && decide (t + 10000000 ≤ s.now) && decide (rd s TIM_FREQ_CTL_target < 3) then
        raise (setTarget { s with pwr := { s.pwr with hot := Store.set s.pwr.hot die s.now } } (rd s TIM_FREQ_CTL_target + 1)) PWR_CAUSE_cause 4
      else s
    | none => s

end Sys2Proof.Machine
end

