-- ==== Sys2Proof/Machine/Views.lean ====
section
/-! DEFINITION. What a read of a register returns: the register at an offset, the fields formed on a read, and what a
function may read (00_scope.md, R5 to R8; 15, R386, R390; 16, R411, R412; 17, R424, R430). -/

namespace Sys2Proof.Machine

/-! ### The register at an offset -/

/-- The instance of a row's register that lies at an offset from its base: its two indices. -/
def RegRow.indexAt (r : RegRow) (d : Nat) : Option (Nat × Nat) :=
  let i := if r.s1 = 0 then 0 else d / r.s1
  let e := if r.s1 = 0 then d else d % r.s1
  let j := if r.s2 = 0 then 0 else e / r.s2
  let f := if r.s2 = 0 then e else e % r.s2
  if i < r.n1 ∧ j < r.n2 ∧ f = 0 then some (i, j) else none

/-- Whether an instance of a register exists on the part (R6, R304; 14, R374). -/
def instanceFitted (p : Part) (name : String) (i : Nat) : Bool :=
  if ["NET_PORT_CFG", "NET_PORT_STATUS", "NET_PORT_RX", "NET_PORT_DROP", "NET_PTP_ASYM", "NET_SUB_ADDR_HI",
      "NET_SUB_ADDR_LO"].contains name then decide (i < p.ports)
  else if name = "REL_TILE_MAP" then decide (i < p.tiles)
  else if name = "REL_STACK_MAP" then decide (i < p.stacks)
  else if name = "REL_STACK_WEAR" then decide (i < p.stacksFitted)
  else true

/-- The row and first index of the register at an offset. Tile blocks exist for the part's tiles (R6, R7). -/
def regAt (p : Part) (off : Nat) : Option (RegRow × Nat) :=
  let tile := decide (0x1000000 ≤ off) && decide (off < 0x1000000 + 0x10000 * p.tiles)
  let o := if tile then off % 0x10000 else off
  regMap.findSome? fun r =>
    if r.tile = tile ∧ r.base ≤ o then
      match r.indexAt (o - r.base) with
      | some (i, _) => if instanceFitted p r.name i then some (r, i) else none
      | none => none
    else none

/-- The fields of the register at an offset; none where no register lies. -/
def fieldsAt (p : Part) (off : Nat) : List Fld :=
  match regAt p off with
  | some (r, _) => r.flds.map fun f => { f with off := off }
  | none => []

/-! ### Fields formed on a read -/

/-- The runs in progress (CTL_DISP_STATUS). -/
def runsLive (s : State) : Nat := (s.runs.filter fun p => p.2.live).length

/-- The age of the oldest row group of a near region, in µs (BDR_REFRESH). -/
def oldestAge (s : State) (t : Nat) : Nat :=
  let l := (tileOf s t).refreshed
  let oldest := if l.length < 4096 then 0 else minOr 0 (l.map (·.2))
  (s.now - oldest) / 1000

/-- The physical stacks bound to a logical stack. -/
def stacksBound (s : State) : List Nat :=
  (List.range s.part.stacks).map fun k => Store.getD s.stackMap k k

/-- The key of the MACsec association SEC_MSA_SEL names. -/
def msaSel (s : State) : Nat :=
  rd s SEC_MSA_SEL_port + 2 ^ 4 * rd s SEC_MSA_SEL_subport + 2 ^ 6 * rd s SEC_MSA_SEL_dir + 2 ^ 7 * rd s SEC_MSA_SEL_channel
    + 2 ^ 9 * rd s SEC_MSA_SEL_an

/-- The fields of queue registers that are formed on a read (R251, R253). -/
def viewQueue (s : State) (f : Fld) : Option Nat :=
  if 0x40000 ≤ f.off ∧ f.off < 0x40400 then
    let q := (f.off - 0x40000) / 0x40
    if f = HQ_DEPTH_free q then some (if on s (HQ_SQ_CFG_en q) then sqLen s q - 1 - outstanding s q else 0)
    else if f = HQ_DEPTH_pending q then some (s.descs.filter fun d => d.sq == q).length
    else if f = HQ_CQ_STATUS_held q then some (cqOf s q).held.length
    else if f = HQ_CQ_STATUS_reserved_space q then some (cqReserved s q)
    else none
  else none

/-- The fields of a tile block that are formed on a read. -/
def viewTile (s : State) (f : Fld) : Option Nat :=
  if 0x1000000 ≤ f.off then
    let t := (f.off - 0x1000000) / 0x10000
    if f = BDR_REFRESH_oldest_age_us t then some (min (oldestAge s t) 0xFFFFFF)
    else if f = TIL_TICK_tick t then some (nowTick s t)
    else if f = CH_WDOG_stalled t then some (stalledNow s t)
    else if f = PWR_TILE_hint_level t then some ((hintAt (tileOf s t) s.windows).getD 0)
    else if f = PWR_TILE_hint_active t then some (b2n (hintAt (tileOf s t) s.windows).isSome)
    else if f.off = TIM_XOFS t then
      let l := f.lo / 16
      if f.lo % 16 = 3 then some (b2n (linkPresent s t l)) else if f.lo % 16 = 4 then some (b2n (linkEnabled s t l)) else none
    else none
  else none

/-- The fields of the interrupt tree and the dispatcher that are formed on a read (R276, R430). -/
def viewCtl (s : State) (f : Fld) : Option Nat :=
  if f = CTL_IRQ_SUMMARY_groups then some (irqSummary s)
  else if f = CTL_IRQ_CTL_pending then some (b2n (maskedSummary s 0 != 0))
  else if f = CTL_IRQ_TILES0_tiles then some (tileBits s % 2 ^ 64)
  else if f = CTL_IRQ_TILES1_tiles then some (tileBits s / 2 ^ 64)
  else if 0x10100 ≤ f.off ∧ f.off < 0x10168 then
    let g := (f.off - 0x10100) / 8
    some (if g = 3 then 0 else groupBits s g)
  else if f = CTL_IRQ_GRP_MASK_mask 3 then some 0
  else if f = CTL_DISP_STATUS_running then some (min (runsLive s) 0xFF)
  else if f = CTL_DISP_STATUS_pending then some (min (s.runs.filter fun p => p.2.phase == .pending).length 0xFFFF)
  else if f = CTL_DISP_STATUS_jobs then some (min s.jobs.length 0xFFFF)
  else none

/-- The MiB that a stack copy has made at 48 GB/s, of 96 GiB; what the last one made where none runs (R360). DEDUCED (log 31). -/
def copiedMib (s : State) : Nat :=
  match s.stackCopy with
  | some c => min 98304 (48 * (s.now - c.since) / 2 ^ 20)
  | none => rd s REL_STACK_COPY_copied_mib

/-- The other fields that are formed on a read (R364, R374, R377, R414); the die status is undefined until the test is done
(R16). -/
def viewOther (s : State) (f : Fld) : Option Nat :=
  if f = REL_STATUS_tiles_usable then some (tilesUsable s)
  else if f = REL_STATUS_dies_on then
    some (sumL (((List.range 12).filter fun d => (List.range s.part.tiles).any fun t => tileOn s t && (siteOf s t).die == d).map (2 ^ ·)))
  else if f = REL_STATUS_stacks then some ((List.range s.part.stacksFitted).filter fun p => on s (REL_STACK_WEAR_in_service p)).length
  else if f = REL_STATUS_bench_stacks then some (freeStacks s).length
  else if f.off = HST_DIE_STATUS ∧ !on s HST_DIE_STATUS_test_done ∧ f ≠ HST_DIE_STATUS_host_ok ∧ f ≠ HST_DIE_STATUS_test_done then
    some (Config.freeValue s.freeCtr / 2 ^ f.lo)
  else if f = LPD_STATUS_stack_up then
    some (sumL (((List.range s.part.stacksFitted).filter fun p => bitOf (rd s HST_DIE_STATUS_lpd_stack_ok) p && (stacksBound s).contains p).map (2 ^ ·)))
  else if f = REL_STACK_COPY_copied_mib then some (copiedMib s)
  else if f = SEC_MSA_CTL_in_use then some (b2n (Store.get? s.sec.msas (msaSel s)).isSome)
  else if f = SEC_MSA_PN_pn then some (((Store.get? s.sec.msas (msaSel s)).map (·.pn)).getD (rd s SEC_MSA_PN_pn))
  else if f = DBL_STATUS_links_up then some (rd s (NET_PAIR_STATUS_up 0) + 2 * rd s (NET_PAIR_STATUS_up 1))
  else if f = DBL_STATUS_leader then some (b2n (rd s DBL_STATUS_state == 3 || !isB s))
  else none

/-- What a read of a field finds; a write-only field reads zero (R8). DESIGN CHOICE (log 47). -/
def viewFld (s : State) (f : Fld) : Nat :=
  if f.acc = .wo then 0
  else
    let v := match viewQueue s f, viewTile s f, viewCtl s f, viewOther s f with
      | some v, _, _, _ => v
      | none, some v, _, _ => v
      | none, none, some v, _ => v
      | none, none, none, some v => v
      | none, none, none, none => rd s f
    v % 2 ^ f.w

/-- What a read of a register through the physical function finds; zero where no register lies (R6).
DESIGN CHOICE (log 2); DEDUCED (log 43). -/
def viewReg (s : State) (off : Nat) : Nat := sumL ((fieldsAt s.part off).map fun f => viewFld s f * 2 ^ f.lo)

/-! ### Reads through a virtual function (R390, R412, R424, R430) -/

/-- Whether partition `q` owns a port. -/
def ownsPort (s : State) (q p : Nat) : Bool :=
  match Store.get? s.parts q with
  | some r => bitOf r.ports p
  | none => false

/-- Whether a counter lies in the run of partition `q`. -/
def ownsCtr (s : State) (q c : Nat) : Bool :=
  match Store.get? s.parts q with
  | some r => decide (r.synBase ≤ c) && decide (c < r.synBase + r.synCount)
  | none => false

/-- Whether the job that the grading registers name is one of partition `q` (R410). -/
def ownsGrd (s : State) (q : Nat) : Bool :=
  match Store.get? s.jobs (rd s GRD_JOB_job_id) with
  | some j => j.part == q
  | none => false

/-- Registers that any virtual function reads (R424). -/
def vfOpen : List Nat := [HST_PART_INFO, HST_DIE_STATUS, SNL_VERSION, SNL_CAP, HST_MAC_BASE, TIM_STATUS, TIM_TOD, TIM_WINDOW, TIM_WIN_TOD]

/-- Whether a NET register below the seating plan unit belongs to a port or an association of partition `q` (R411, R412). -/
def vfNet (s : State) (q off : Nat) : Bool :=
  if off < 0x50600 then ownsPort s q ((off - 0x50000) / 0x80)
  else if 0x51000 ≤ off ∧ off < 0x55000 then ownsPort s q (rd s (NET_ASSOC_CFG_port ((off - 0x51000) / 0x20)))
  else false

/-- Whether a register of the control and host dies can be read through the virtual function of partition `q`
(R411, R412, R424). DEDUCED (log 43). -/
def vfReads (s : State) (q off : Nat) : Bool :=
  if vfOpen.contains off then true
  else if 0x12100 ≤ off ∧ off < 0x12200 then
    let p := (off - 0x12100) / 0x20
    p == q && on s (CTL_PERIOD_NUM_bound q)
  else if 0x30000 ≤ off ∧ off < 0x38000 then ownsCtr s q ((off - 0x30000) / 8)
  else if off = SYN_STATS then on s SYN_STATS_overflow_valid && ownsCtr s q (rd s SYN_STATS_overflow_ctr)
  else if 0x40000 ≤ off ∧ off < 0x40400 then
    let k := (off - 0x40000) / 0x40
    if off % 0x40 < 0x18 then rd s (HQ_SQ_CFG_partition k) == q else cqBelongs s k q
  else if 0x50000 ≤ off ∧ off < 0x58000 then vfNet s q off
  else if 0x60100 ≤ off ∧ off < 0x60200 then (off - 0x60100) / 0x20 == q
  else if 0x70000 ≤ off ∧ off < 0x80000 then ownsGrd s q
  else if 0x80000 ≤ off ∧ off < 0x80400 then (off - 0x80000) / 0x80 == q
  else if 0x90600 ≤ off ∧ off < 0x90680 then (off - 0x90600) / 0x10 == q
  else if 0xC0100 ≤ off ∧ off < 0xC0300 then (off - 0xC0100) / 0x40 == q
  else if 0xC0800 ≤ off ∧ off ≤ 0xC0848 then ownsPort s q (rd s SEC_MSA_SEL_port)
  else if 0x1000000 ≤ off then
    let o := off % 0x10000
    partOfTile s ((off - 0x1000000) / 0x10000) == some q && !(o == 0x208 || o == 0x210 || (decide (0xB00 ≤ o) && decide (o ≤ 0xD00)))
  else false

/-- What a read of a register through the virtual function of partition `q` finds. DEDUCED (log 43). -/
def viewVf (s : State) (q off : Nat) : Nat :=
  if off = HST_BAR4_BASE then rd s (HST_VF_BAR4_BASE_base q) * 2 ^ 30
  else if off = CTL_IRQ_SUMMARY then b2n (rd s HQ_CAUSE_cause &&& rd s HQ_CAUSE_MASK_mask &&& cqBits s q != 0)
  else if off = HQ_CAUSE then rd s HQ_CAUSE_cause &&& cqBits s q
  else if off = PWR_ENERGY_PART q then Store.getD s.pwr.cParts q 0
  else if off = PWR_BUBBLES q then viewReg s off
  else if 0xB0400 ≤ off ∧ off < 0xB0480 then
    let i := (off - 0xB0400) / 8
    if off % 8 = 0 ∧ rd s (HQ_SQ_CFG_partition i) = q then Store.getD s.pwr.cSqs i 0 else 0
  else if vfReads s q off then viewReg s off
  else 0

/-- What a read of a register through a function finds; after a trip every register but PWR_STATUS reads all-ones (R386).
DEDUCED (log 44). -/
def readReg (s : State) (fn off : Nat) : Nat :=
  if on s PWR_STATUS_tripped ∧ off ≠ PWR_STATUS then 2 ^ 64 - 1
  else if fn = 0 then viewReg s off else viewVf s (fn - 1) off

/-- The answer to a host read: read data, or UR from a function in D3hot or while the dies are in reset (R421, R435). -/
def answerRead (s : State) (fn v : Nat) : State :=
  if (fnOf s fn).d3 || s.boot.held then emitOut s .ur else emitOut s (.readData v)

end Sys2Proof.Machine
end

