-- ==== Sys2Proof/Machine/Doubles.lean ====
section
/-! DEFINITION. The pair links and the messages of doubles: pairing, shared seating, compared results, joint retakes, a split
and the loss of the partner (11_network_and_ingest.md, R303; 14_reliability_substitution_doubles.md, R354, R366 to R373). -/

namespace Sys2Proof.Machine

/-! ### HELLO (R366, R373) -/

/-- What this module's HELLO says. -/
def myHello (s : State) : Hello where
  partCode := rd s HST_PART_INFO_part_code
  stepping := rd s HST_PART_INFO_stepping_letter + 16 * rd s HST_PART_INFO_stepping_number
  snlVersion := viewReg s SNL_VERSION
  snlCap := viewReg s SNL_CAP
  tilesUsable := tilesUsable s
  partMask := rd s DBL_CFG_part_mask
  dblId := isB s
  failed := on s REL_STATUS_failed

/-- Whether two HELLOs match: equal but for DBL_ID, which differs, and neither reports failed (R366). -/
def hellosMatch (a b : Hello) : Bool := a.dblId != b.dblId && !a.failed && !b.failed && { a with dblId := b.dblId } == b

/-- The body of a HELLO. -/
def helloBytes (h : Hello) : Bytes :=
  toBE 1 h.partCode ++ toBE 1 h.stepping ++ toBE 8 h.snlVersion ++ toBE 8 h.snlCap ++ toBE 2 h.tilesUsable ++ toBE 1 h.partMask
    ++ toBE 1 (b2n h.dblId + 2 * b2n h.failed)

/-- Whether a pair link is up. -/
def linksUp (s : State) : Bool := on s (NET_PAIR_STATUS_up 0) || on s (NET_PAIR_STATUS_up 1)

/-- The body of a message that names a run. -/
def runBytes (n : RunName) : Bytes := toBE 2 n.job ++ toBE 4 n.num

/-! ### Release of held results (R369, R370, R372) -/

/-- Whether the items of both modules for a result differ. -/
def itemsDiffer (s : State) (x : DblItem) : Bool :=
  s.dbl.theirs.any fun y => y.is x.run x.kind x.idx && y.item != x.item

/-- A held result released without the partner's item, where its request still waits and its deadline bell has not come. -/
def releaseOwn (s : State) (x : DblItem) : State :=
  if itemsDiffer s x || s.dbl.broken.contains x.run then s
  else match refOf s x.run x.kind x.idx with
    | some r => if tod s < refDeadline s r then answer s r rpScored x.payload else s
    | none => s

/-- DOUBLES_SPLIT raised and counted. -/
def splitEvent (s : State) : State := raise (bump s DBL_STATS_splits 1) DBL_CAUSE_cause 5

/-- A run whose partner cannot retake it: its held results are released without agreement (R370). DEDUCED (log 32). -/
def releaseSolo (s : State) (n : RunName) : State :=
  let s := { s with dbl := { s.dbl with solo := n :: s.dbl.solo } }
  splitEvent ((s.dbl.mine.filter fun x => x.run == n).foldl releaseOwn s)

/-- The state becomes SINGLES: the module leads, and releases every held result that it alone has scored or that no SENT
names (R372). -/
def becomeSingles (s : State) : State :=
  let s := raise (wr s DBL_STATUS_state 3) DBL_CAUSE_cause 3
  let s := s.dbl.mine.foldl releaseOwn s
  { s with dbl := { s.dbl with mine := [], theirs := [], seatWait := none, fills := [] } }

/-- The module has lost its partner (R372). -/
def enterSingles (s : State) : State := becomeSingles (raise s DBL_CAUSE_cause 2)

/-! ### Pair links (R303) -/

/-- A pair link's hidden state. -/
def pairOf (s : State) (l : Nat) : PairSt := Store.getD s.pairs l ⟨0, 0, 0, 0, []⟩

/-- The bytes of payload in a pair frame (R303). -/
def pairPayload : Nat := 232

/-- A message cut into payloads, the last padded. -/
def payloads : Nat → Bytes → List Bytes
  | 0, _ => []
  | k + 1, b => sliceB b 0 pairPayload :: payloads k (b.drop pairPayload)

/-- The frames that an output takes on a pair link, each a type and a payload: a message goes out on both links, a heartbeat, type 0, on
its own. DESIGN CHOICE (log 42). -/
def framesOf (l : Nat) : Out → List (Nat × Bytes)
  | .pairMsg k b =>
    if k = 0 then (if b = toBE 1 l then [(0, List.replicate pairPayload 0)] else [])
    else (payloads ((max 1 b.length + pairPayload - 1) / pairPayload) b).map fun p => (k, p)
  | _ => []

/-- The frames sent on a pair link since the module's outputs began, oldest first. DESIGN CHOICE (log 42). -/
def framesOn (s : State) (l : Nat) : List (Nat × Bytes) := s.out.reverse.flatMap (framesOf l)

/-- How many they are. -/
def framesSent (s : State) (l : Nat) : Nat := (framesOn s l).length

/-- The header of a pair frame: type, 24-bit sequence, 24-bit acknowledgement. DESIGN CHOICE (log 42). -/
def pairHeader (k seqn ack : Nat) : Bytes := toBE 1 k ++ toBE 3 seqn ++ toBE 3 ack ++ [0]

/-- The initialization vector of a pair frame: the sender's DBL_ID, the link and the sequence. DESIGN CHOICE (log 42). -/
def pairIv (b : Bool) (link seqn : Nat) : Bytes := toBE 4 (2 * link + b2n b) ++ toBE 8 seqn

/-- A pair frame of 256 bytes: header, payload and tag, sealed under the pair key (R303). -/
def pairBytes (s : State) (key : Bytes) (link seqn : Nat) (f : Nat × Bytes) : Bytes :=
  let h := pairHeader f.1 (seqn % 2 ^ 24) (pairOf s link).rxNext
  h ++ Config.gcmSeal key (pairIv (isB s) link (seqn % 2 ^ 24)) h f.2

/-- What a pair frame of the partner holds, when it has its length and its tag is right: type, sequence, acknowledgement, payload
(R303). -/
def openPair (s : State) (link : Nat) (f : Bytes) : Option (Nat × Nat × Nat × Bytes) :=
  match s.sec.pairKey with
  | none => none
  | some key =>
    if f.length ≠ 256 then none
    else (Config.gcmOpen key (pairIv (!isB s) link (fieldBE f 1 3)) (f.take 8) (f.drop 8)).map fun p =>
      (fieldBE f 0 1, fieldBE f 1 3, fieldBE f 4 3, p)

/-- The heartbeat interval of a pair link in ns. DESIGN CHOICE (log 39). -/
def heartbeatNs (s : State) (l : Nat) : Nat := 1000 * max 1 (rd s (NET_PAIR_CFG_hb_us l))

/-- A pair link taken down; with both down, module A loses its partner at once (R303, R372). DESIGN CHOICE (log 42). -/
def dropPair (s : State) (l : Nat) : State :=
  let s := wrs (bump s (NET_PAIR_STATUS_down_events l) 1) [(NET_PAIR_STATUS_up l, 0), (NET_PAIR_STATUS_lanes_ok l, 0)]
  let s := raise { s with pairs := s.pairs.map fun p => (p.1, { p.2 with early := [] }) } NET_CAUSE_cause 9
  if linksUp s then s
  else
    let s := { s with dbl := { s.dbl with downAt := some s.now } }
    if paired s && !isB s then enterSingles s else s

/-- The frames of a link that the partner's acknowledgement leaves unacknowledged: those before its next expected sequence are done. -/
def ackedTo (s : State) (link ack : Nat) : Nat :=
  let p := pairOf s link
  let sent := framesSent s link - p.txBase
  let left := (sent % 2 ^ 24 + 2 ^ 24 - ack) % 2 ^ 24
  if left ≤ sent - p.txAck then sent - left else p.txAck

/-- The payload of a message frame passed on, unless the other link, being up, has brought its first copy (R303). -/
def passPayload (s : State) (link k : Nat) (b : Bytes) : State :=
  let o := pairOf s (1 - link)
  if o.early.contains b then { s with pairs := Store.set s.pairs (1 - link) { o with early := o.early.erase b } }
  else
    let s := if on s (NET_PAIR_STATUS_up (1 - link)) then
        let p := pairOf s link
        { s with pairs := Store.set s.pairs link { p with early := p.early ++ [b] } }
      else s
    emitOut s (.pairTaken k b)

/-- PAIR_FRAME: a frame of the partner: the next in sequence with a good tag is taken and acknowledged, and its payload, unless it is a
heartbeat or a second copy, is passed on as a doubles message; any other frame is discarded (R303). DESIGN CHOICE (log 42). -/
def execPairFrame (link : Nat) (header sealed : Bytes) (s : State) : Host.Outcome State Fault Refusal :=
  let p := pairOf s link
  .next <|
    if 1 < link || !on s (NET_PAIR_STATUS_up link) then s
    else match openPair s link (header ++ sealed) with
      | none => s
      | some (k, seqn, ack, b) =>
        if seqn ≠ p.rxNext then s
        else
          let p := { p with rxNext := (seqn + 1) % 2 ^ 24, heard := s.now, txAck := ackedTo s link ack }
          let s := { s with pairs := Store.set s.pairs link p }
          if k = 0 then s else passPayload s link k b

/-- PAIR_RESEND: the frames from the one the partner missed onward, of those not acknowledged, are sent again (R303). -/
def execPairResend (link seq : Nat) (s : State) : Host.Outcome State Fault Refusal :=
  let p := pairOf s link
  let sent := framesSent s link - p.txBase
  let n := (sent % 2 ^ 24 + 2 ^ 24 - seq) % 2 ^ 24
  .next <| match s.sec.pairKey with
    | none => s
    | some key =>
      if 1 < link || !on s (NET_PAIR_STATUS_up link) || n == 0 || decide (sent - p.txAck < n) then s
      else
        let again := ((framesOn s link).drop (p.txBase + (sent - n))).zipIdx.map fun f => Out.pairAgain link (pairBytes s key link (sent - n + f.2) f.1)
        bump { s with out := again.reverse ++ s.out } (NET_PAIR_STATUS_resends link) n

/-- PAIR_HEARTBEAT: hb_us have passed: a heartbeat is sent on an enabled link with a key (R303, R415). -/
def execPairHeartbeat (link : Nat) (s : State) : Host.Outcome State Fault Refusal :=
  .next <|
    if link ≤ 1 && on s (NET_PAIR_CFG_en link) && s.sec.pairKey.isSome then emitOut s (.pairMsg 0 (toBE 1 link)) else s

/-- PAIR_DOWN: three heartbeats in a row have been missed (R303). -/
def execPairDown (link : Nat) (s : State) : Host.Outcome State Fault Refusal :=
  .next <|
    if link ≤ 1 && on s (NET_PAIR_STATUS_up link) && decide ((pairOf s link).heard + 3 * heartbeatNs s link ≤ s.now) then
      dropPair s link
    else s

/-- PAIR_UP: an enabled link with a key trains, or returns (R303, R415). -/
def execPairUp (link : Nat) (s : State) : Host.Outcome State Fault Refusal :=
  .next <|
    if 1 < link || on s (NET_PAIR_STATUS_up link) || !on s (NET_PAIR_CFG_en link) || s.sec.pairKey.isNone then s
    else
      let fresh := !linksUp s
      let s := raise (wrs s [(NET_PAIR_STATUS_up link, 1), (NET_PAIR_STATUS_lanes_ok link, 0xFF)]) NET_CAUSE_cause 10
      { s with
        pairs := Store.set s.pairs link ⟨0, s.now, framesSent s link, 0, []⟩
        dbl := { s.dbl with downAt := none, partner := if fresh then none else s.dbl.partner } }

/-! ### Pairing (R366) -/

/-- DOUBLES_ENABLE: a write of DBL_CFG: setting en starts PAIRING, clearing it leaves doubles (R366, R372).
DEDUCED (log 32). -/
def execDoublesEnable (fn : Nat) (v : Word64) (s : State) : Host.Outcome State Fault Refusal :=
  .next <|
    if !fnPhys s fn then s
    else
      let was := on s DBL_CFG_en
      let s := wrs s [(DBL_CFG_en, v.toNat), (DBL_CFG_part_mask, v.toNat / 2 ^ 8), (DBL_CFG_singles_wait, v.toNat / 2 ^ 16)]
      if on s DBL_CFG_en && !was then
        { wr s DBL_STATUS_state 1 with dbl := { DblSt.init with partner := s.dbl.partner, downAt := s.dbl.downAt, helloAt := s.now } }
      else if !on s DBL_CFG_en && was then
        { wr s DBL_STATUS_state 0 with dbl := { DblSt.init with partner := s.dbl.partner, downAt := s.dbl.downAt } }
      else s

/-- DOUBLES_HELLO_TIMER: 1 ms has passed since the last HELLO and the module is not PAIRED (R373). -/
def execDoublesHelloTimer (s : State) : Host.Outcome State Fault Refusal :=
  .next <|
    if !on s DBL_CFG_en || rd s DBL_STATUS_state == 2 || !linksUp s || decide (s.now < s.dbl.helloAt + 1000000) then s
    else emitOut { s with dbl := { s.dbl with helloAt := s.now } } (.pairMsg 1 (helloBytes (myHello s)))

/-- DOUBLES_HELLO: the partner's HELLO is kept; in PAIRING one that does not match raises PAIR_MISMATCH; one that reports
failed loses the partner (R366, R372). -/
def execDoublesHello (h : Hello) (s : State) : Host.Outcome State Fault Refusal :=
  .next <|
    if !linksUp s then s
    else
      let s := { s with dbl := { s.dbl with partner := some h } }
      if paired s then (if h.failed then enterSingles s else s)
      else if rd s DBL_STATUS_state == 1 && !hellosMatch (myHello s) h then raise s DBL_CAUSE_cause 1
      else s

/-- Whether a job of a doubles partition is bound or has a run that has not ended here. -/
def doublesBusy (s : State) : Bool :=
  let mask := rd s DBL_CFG_part_mask
  s.periods.any (fun p => bitOf mask p.1) || s.runs.any fun p => p.2.phase != .ended && bitOf mask (partOfRun s p.2)

/-- PAIR_ESTABLISH: the HELLOs match and neither module has a doubles job bound or running: the state becomes PAIRED
(R366). -/
def execPairEstablish (s : State) : Host.Outcome State Fault Refusal :=
  let met := match s.dbl.partner with
    | some h => hellosMatch (myHello s) h
    | none => false
  .next <|
    if rd s DBL_STATUS_state == 1 && on s DBL_CFG_en && linksUp s && met && !doublesBusy s then
      { raise (wr s DBL_STATUS_state 2) DBL_CAUSE_cause 0 with dbl := { DblSt.init with partner := s.dbl.partner, helloAt := s.dbl.helloAt } }
    else s

/-! ### Seating of module B (R368) -/

/-- The candidate that a seat of SEATING names. -/
def namedCand (s : State) (b : Nat) (x : SeatRef) : Option Request :=
  s.cands.find? fun r => r.bind == b && r.ip == x.ip.toNat && r.udp == x.udp.toNat && r.seqn == x.seq.toNat

/-- Whether a request was passed over by an earlier seating of its binding: its timestamp lies before the last close that
was seated (R293). -/
def passedOver (p : Period) (ts : Nat) : Bool :=
  match p.lastSeat with
  | some m => decide (ts < p.firstStart + m * p.periodNs - 2000)
  | none => false

/-- The request of a seat: built from a REQ as received, with the timestamp, port and sub-port of module A (R291, R368).
DEDUCED (log 32). -/
def namedRequest (f : Form) (p : Period) (q : Nat) (x : SeatRef) (assoc : Nat) (body : Bytes) : Request :=
  let d := decodedRecord f body x.ts x.port x.sub
  { assoc := assoc, port := x.port, sub := x.sub, ip := x.ip.toNat, udp := x.udp.toNat, seqn := x.seq.toNat
    tag := fieldBE body 0x10 8, ts := x.ts, locker := fieldLE d 0x10 8, job := p.job, part := q, bind := p.subm
    deadline := x.ts + 1000 * p.deadlineUs, deferred := passedOver p x.ts, record := d, body := body }

/-- The body and association that a seat is built from: the module's own copy of the REQ, or what REQ_FILL brought. -/
def seatSource (s : State) (p : Period) (k : Nat) (x : SeatRef) : Option (Nat × Bytes) :=
  match namedCand s p.subm x, Store.get? s.dbl.fills k with
  | some r, _ => some (r.assoc, r.body)
  | none, some b => some (((findAssoc s x.ip.toNat x.udp.toNat x.port x.sub)).getD 0, b)
  | none, none => none

/-- Whether the request that a SENT names is known here: its line can be formed or has been. -/
def sentKnown (s : State) (run : RunName) (kind idx : Nat) : Bool :=
  if kind % 4 = 1 then s.carries.any fun c => c.job == run.job && c.into == some run.num && c.plan == kind / 4 && c.slot == idx
  else s.copies.any fun c => c.period == run.num && c.seats.any fun x => x.req.job == run.job

/-- The SENT items whose requests are known applied: each request is answered with the status and payload of A's REP, and its
line formed (R369). -/
def applySents (s : State) : State :=
  let (now, later) := s.dbl.sents.partition fun x => sentKnown s x.1 x.2.1 x.2.2.1
  now.foldl (fun s x => match refOf s x.1 x.2.1 x.2.2.1 with
    | some r => answer s r x.2.2.2.1 x.2.2.2.2
    | none => s) { s with dbl := { s.dbl with sents := later } }

/-- The run of a period that waited for its seat copy acts at the boundary R43 gives for now (R368). -/
def wakeRun (s : State) (b n : Nat) : State :=
  { s with runs := s.runs.map fun p => (p.1, if p.2.subm = b ∧ p.2.kind = .period n ∧ p.2.phase = .pending ∧ p.2.kickWin = none then
      { p.2 with kickWin := some (actWindow s) } else p.2) }

/-- The copy of a period built from A's SEATING once a REQ is held for every seat (R368). -/
def buildSeats (s : State) (q n : Nat) (seats : List SeatRef) : State :=
  match Store.get? s.periods q with
  | none => s
  | some p =>
    match (Store.get? s.jobs p.job).bind (·.form) with
    | none => s
    | some f =>
      let s := returnSkipped s p.subm
      if seats.zipIdx.all fun x => (seatSource s p x.2 x.1).isSome then
        let placed := seats.zipIdx.map fun x =>
          let src := (seatSource s p x.2 x.1).getD (0, [])
          namedRequest f p q x.1 src.1 src.2
        let close := p.firstStart + n * p.periodNs - 2000
        let named : Request → Bool := fun r => r.bind == p.subm && seats.any fun x =>
          r.ip == x.ip.toNat && r.udp == x.udp.toNat && r.seqn == x.seq.toNat
        let kept := s.cands.filter fun r => !named r
        let d := (kept.filter fun r => r.bind == p.subm && decide (r.ts < close)).length
        let s := syncCands { s with cands := kept, dbl := { s.dbl with seatWait := none, fills := [] } }
        applySents (wakeRun (bump (writeCopy s p n close d placed) NET_INGEST_MISC_deferred d) p.subm n)
      else { s with dbl := { s.dbl with seatWait := some (q, n, seats) } }

/-- SEATING: module A's seat table of a period (R368). -/
def execSeating (q n : Nat) (seats : List SeatRef) (s : State) : Host.Outcome State Fault Refusal :=
  .next <| match Store.get? s.periods q with
    | none => s
    | some p =>
      let done := match p.lastSeat with
        | some m => decide (n ≤ m)
        | none => false
      if !follows s q || done then s else buildSeats { s with dbl := { s.dbl with fills := [] } } q n seats

/-- REQ_FILL: a REQ that module B did not hold (R368). -/
def execReqFill (seat : Nat) (body : Bytes) (s : State) : Host.Outcome State Fault Refusal :=
  .next <| match s.dbl.seatWait with
    | none => s
    | some (q, n, seats) => buildSeats { s with dbl := { s.dbl with fills := Store.set s.dbl.fills seat body } } q n seats

/-- SEAT_LOST: no SEATING has come 20 µs after the start bell: the module seats the period itself, and the run cannot agree
(R368). DEDUCED (log 32). -/
def execSeatLost (q : Nat) (s : State) : Host.Outcome State Fault Refusal :=
  .next <| match Store.get? s.periods q with
    | none => s
    | some p =>
      match p.current with
      | none => s
      | some n =>
        let waitsCopy := s.runs.any fun r => r.2.subm == p.subm && r.2.kind == .period n && r.2.phase == .pending && r.2.kickWin.isNone
        if !waitsCopy || s.dbl.seatWait.isSome || decide (tod s < p.bellAt n + 20000)
            || s.copies.any (fun c => c.bind == p.subm && c.period == n) then s
        else
          let s := if follows s q then
              raise { s with dbl := { s.dbl with broken := ⟨p.job, n⟩ :: s.dbl.broken } } DBL_CAUSE_cause 7
            else s
          wakeRun (seatNow s p n) p.subm n

/-! ### Results (R369) -/

/-- RESULT: the partner's item; module A releases the REP when both are equal (R369). -/
def execResult (run : RunName) (kind idx : Nat) (item : Bytes) (s : State) : Host.Outcome State Fault Refusal :=
  .next <|
    if !paired s || s.dbl.theirs.any (·.is run kind idx) then s
    else tryRelease { s with dbl := { s.dbl with theirs := s.dbl.theirs ++ [⟨run, kind, idx, sliceB item 0 16, []⟩] } } run kind idx

/-- SENT: module B answers the request with the status and payload of A's REP, and forms its line (R369). -/
def execSent (run : RunName) (kind idx status : Nat) (payload : Bytes) (s : State) : Host.Outcome State Fault Refusal :=
  .next <|
    if paired s && isB s then applySents { s with dbl := { s.dbl with sents := s.dbl.sents ++ [(run, kind, idx, status, payload)] } }
    else s

/-! ### Agreement and joint retakes (R354, R367, R370, R371) -/

/-- The fault code that stands for a disagreement (R373). -/
def disagreement : Nat := 0xFF

/-- The detail word of a fault of the partner, or of a disagreement. -/
def partnerDetail (code : Nat) : Nat := faultDetail code 0xFFF 0 false

/-- The run of a name: one that has kicked off, or the pending one that will take the name. -/
def runNamed (s : State) (n : RunName) : Option (Nat × Run) :=
  match s.runs.find? (fun p => p.2.name == some n) with
  | some p => some p
  | none => s.runs.find? fun p => p.2.job == n.job && p.2.phase == .pending && p.2.name.isNone && (match p.2.kind with
      | .period m => m == n.num
      | .graph => Store.getD s.dbl.count n.job 0 == n.num)

/-- RETAKE sent: the attempt to come, or 3 where this module cannot retake. -/
def sendRetake (s : State) (n : RunName) (attempt code : Nat) : State :=
  emitOut s (.pairMsg 7 (runBytes n ++ toBE 1 attempt ++ toBE 1 code))

/-- Whether another run of a run's job has kicked off since, so that the undo log no longer reaches back (R355).
DEDUCED (log 32). -/
def overtaken (s : State) (r : Nat) (x : Run) : Bool := s.runs.any fun p => p.1 != r && p.2.job == x.job && p.2.live

/-- Whether this module can make a retake of a run (R354, R370). -/
def canRetake (s : State) (r : Nat) (x : Run) (detail : Nat) : Bool :=
  mayRetake x detail && (x.phase != .ended || (x.outcome == 0 && !overtaken s r x))

/-- The retake of a run begun at the partner's word or for a disagreement: a running attempt is aborted; a completed one is
marked outcome 0x02 and waits for its preparation; one that has not kicked off counts the attempt (R370). -/
def beginRetake (s : State) (r : Nat) (x : Run) (code : Nat) : State :=
  let stop := StopCause.fault (partnerDetail code) (windowNow s)
  let mark := if code = disagreement then code else 0
  if x.phase = .pending then modRun s r fun x => { x with retakes := x.retakes + 1 }
  else if x.runs then abortRun (modRun s r fun x => { x with stop := some stop, fault := mark }) r
  else modRun s r fun x => { x with stop := some stop, fault := mark, phase := .retakeWait, outcome := 2 }

/-- A run that this module cannot retake: it ends with FAULT, and the partner is told (R370). -/
def refuseRetake (s : State) (r : Nat) (x : Run) (n : RunName) (code : Nat) : State :=
  let s := sendRetake s n 3 code
  let detail := partnerDetail code
  if x.runs then abortRun (modRun s r fun x => { x with stop := some (.fault detail (windowNow s)), barred := true }) r
  else endRun s r 3 stFault detail

/-- A run whose partner cannot retake it: an attempt that a fault stopped ends with FAULT, and held results are released
without agreement (R354, R370). -/
def partnerBars (s : State) (r : Nat) (x : Run) (n : RunName) : State :=
  let s := modRun s r fun x => { x with barred := true }
  let s := releaseSolo s n
  let detail := match x.stop with
    | some (.fault d _) => d
    | _ => partnerDetail x.fault
  if x.phase = .retakeWait ∨ (x.phase = .pending ∧ 0 < x.retakes) then endRun s r 3 stFault detail else s

/-- RETAKE: the partner begins a retake, or cannot make one (R370). DEDUCED (log 32). -/
def execRetake (run : RunName) (attempt fault : Nat) (s : State) : Host.Outcome State Fault Refusal :=
  .next <| match runNamed s run with
    | none => s
    | some (r, x) =>
      if !paired s then s
      else if 2 < attempt ∨ fault = 0x0A ∨ fault = 0x0E then partnerBars s r x run
      else if attempt ≤ x.retakes ∨ x.phase = .retakeWait ∨ x.phase = .aborting then s
      else if canRetake s r x (partnerDetail fault) then beginRetake s r x fault
      else refuseRetake s r x run fault

/-- The first field in which two runs part, in the order of R348; 6 for a result item. -/
def firstApart (a b : RunDigests) : Option Nat :=
  if a.program ≠ b.program ∨ a.weights ≠ b.weights then some 1
  else if a.seed ≠ b.seed ∨ a.exam ≠ b.exam then some 2
  else if a.inputs ≠ b.inputs then some 3
  else if a.layers ≠ b.layers then some 4
  else if a.outputs ≠ b.outputs then some 5
  else none

/-- Whether two runs were set up differently: program digest, seed digest or exam bit (R367). -/
def setupApart (a b : RunDigests) : Bool := a.program != b.program || a.seed != b.seed || a.exam != b.exam

/-- Every result of a run not yet released withheld and counted (R371). -/
def withhold (s : State) (n : RunName) : State :=
  let held := (s.dbl.mine.filter fun x => x.run == n && (refOf s n x.kind x.idx).isSome).length
  bump { s with dbl := { s.dbl with broken := n :: s.dbl.broken } } DBL_STATS_withheld held

/-- A second disagreement in one run: the state becomes SPLIT (R371). -/
def splitRun (s : State) (n : RunName) (first : Nat) : State :=
  let s := splitEvent (withhold s n)
  let s := if on s DBL_SPLIT_INFO_valid then s else
    wrs s [(DBL_SPLIT_INFO_run, n.num), (DBL_SPLIT_INFO_job_id, n.job), (DBL_SPLIT_INFO_first, first), (DBL_SPLIT_INFO_valid, 1)]
  wr s DBL_STATUS_state 4

/-- A run that has not agreed: a retake after the first disagreement, SPLIT after the second (R354, R370, R371). -/
def disagree (s : State) (n : RunName) (first : Nat) : State :=
  let s := raise s DBL_CAUSE_cause 4
  match runNamed s n with
  | none => s
  | some (r, x) =>
    if 0 < x.disagreed then splitRun s n first
    else if canRetake s r x (partnerDetail disagreement) then
      beginRetake (sendRetake s n (x.retakes + 1) disagreement) r x disagreement
    else refuseRetake s r x n disagreement

/-- The digests of both modules for an attempt of a run compared (R367, R370). DEDUCED (log 32). -/
def judge (s : State) (n : RunName) (a b : RunDigests) : State :=
  if setupApart a b then raise (raise (withhold s n) DBL_CAUSE_cause 6) DBL_CAUSE_cause 4
  else if (firstApart a b).isNone && !s.dbl.disagreed.contains n && !s.dbl.broken.contains n then bump s DBL_STATS_agreed 1
  else disagree s n ((firstApart a b).getD 6)

/-- The digests of a run judged once both modules' are there. -/
def compareDigests (s : State) : State :=
  match s.dbl.myDig.find? (fun a => s.dbl.theirDig.any fun b => b.1 == a.1 && b.2.1 == a.2.1) with
  | none => s
  | some a =>
    match s.dbl.theirDig.find? (fun b => b.1 == a.1 && b.2.1 == a.2.1) with
    | none => s
    | some b =>
      let s := { s with dbl := { s.dbl with myDig := s.dbl.myDig.erase a, theirDig := s.dbl.theirDig.erase b } }
      judge s a.1 a.2.2 b.2.2

/-- RUN_DIGEST: the partner's digests of an attempt of a run (R370). -/
def execRunDigest (run : RunName) (attempt : Nat) (d : RunDigests) (s : State) : Host.Outcome State Fault Refusal :=
  .next <|
    if paired s then compareDigests { s with dbl := { s.dbl with theirDig := s.dbl.theirDig ++ [(run, attempt, d)] } } else s

/-- RUN_RECORD: the record of a run that has ended is formed once every line of it has been; a doubles run's digests go to the
partner and are compared with its own (R339, R370). DEDUCED (log 37). -/
def execRunRecord (run : Nat) (s : State) : Host.Outcome State Fault Refusal := .next (compareDigests (recordRun s run))

/-! ### Loss of the partner and the host's decision (R371, R372) -/

/-- The module is OUT: its doubles jobs are unbound at their next start bell (R272, R371). DEDUCED (log 32). -/
def goOut (s : State) : State :=
  let mask := rd s DBL_CFG_part_mask
  { wr s DBL_STATUS_state 5 with
    periods := s.periods.map fun p => (p.1, if bitOf mask p.1 ∧ p.2.unbind = none then { p.2 with unbind := some p.2.subm } else p.2) }

/-- LEAVE: reason 0x01 (keep) sends the module OUT, reason 0x02 (failed) into SINGLES (R371, R372). -/
def execLeave (reason : Nat) (s : State) : Host.Outcome State Fault Refusal :=
  .next <|
    if !paired s then s else if reason = 1 then goOut s else if reason = 2 then enterSingles s else s

/-- SINGLES: module B enters SINGLES singles_wait after both pair links went down (R372). DEDUCED (log 32). -/
def execSingles (s : State) : Host.Outcome State Fault Refusal :=
  .next <| match s.dbl.downAt with
    | some t =>
      if paired s && isB s && decide (t + 100000 * max 1 (rd s DBL_CFG_singles_wait) ≤ s.now) then enterSingles s else s
    | none => s

/-- Whether a write of DBL_CTL acts: through the physical function, in SPLIT (R371, R377). -/
def decides (s : State) (fn : Nat) : Bool := fnPhys s fn && rd s DBL_STATUS_state == 4

/-- DBL_RESUME: a SPLIT module returns to PAIRED (R371). -/
def execDblResume (fn : Nat) (s : State) : Host.Outcome State Fault Refusal :=
  .next (if decides s fn then wr s DBL_STATUS_state 2 else s)

/-- DBL_KEEP: a SPLIT module becomes singles and sends LEAVE (R371). DEDUCED (log 32). -/
def execDblKeep (fn : Nat) (s : State) : Host.Outcome State Fault Refusal :=
  .next (if decides s fn then becomeSingles (emitOut s (.pairMsg 8 [1])) else s)

/-- DBL_LEAVE: a SPLIT module becomes OUT (R371). -/
def execDblLeave (fn : Nat) (s : State) : Host.Outcome State Fault Refusal :=
  .next (if decides s fn then goOut s else s)

end Sys2Proof.Machine
end

