-- ==== Sys2Proof/Machine/Loader.lean ====
section
/-! DEFINITION. LOAD_IMAGE: binding, counters, placement, relocation, and writing an image into the module
(09_compiler_contract.md, R245 to R247; 10_jobs_graphs_and_timetable.md, R255; 03, R83 to R87, R93; 07, R171, R182; 08, R203, R206, R217; 18,
R444). -/

namespace Sys2Proof.Machine

/-! ### Binding (R86, R245, R255) -/

/-- The logical tile of each task tile: from the map, or from first_tile on. -/
def bindTiles (d : Desc) (map : List Nat) (n : Nat) : List Nat :=
  if fieldLE d.bytes 0x28 8 = 0 then rangeFrom (fieldLE d.bytes 0x20 2) n else (List.range n).map fun k => map.getD k 0

/-- Whether a tile can be bound to an image of a partition: usable, in the partition, bound to no loaded image. -/
def tileFree (s : State) (q t : Nat) : Bool := tileOn s t && partOfTile s t == some q && !on s (TIL_MODE_bound t)

/-- The first task tile whose binding is refused. -/
def bindBad (s : State) (q : Nat) (crossings : Bool) (l : List Nat) : Option Nat :=
  (l.zipIdx.find? fun p => !tileFree s q p.1 || (l.take p.2).contains p.1
    || (crossings && (l.getD 0 0 % 8 != 0 || p.1 != l.getD 0 0 + p.2))).map (·.2)

/-! ### Counters (R217) -/

/-- Whether a counter is in a loaded job's range. -/
def ctrTaken (s : State) (c : Nat) : Bool :=
  s.jobs.any fun p => decide (p.2.ctrFirst ≤ c) && decide (c < p.2.ctrFirst + p.2.ctrs.length)

/-- The lowest run of `n` free counters in a partition's range: one starts at the range's first counter, or right behind a
range in use. -/
def allocCounters (s : State) (r : PartRes) (n : Nat) : Option Nat :=
  let starts := sortBy id (r.synBase :: s.jobs.map fun p => p.2.ctrFirst + p.2.ctrs.length)
  starts.find? fun a => decide (r.synBase ≤ a) && decide (a + n ≤ r.synBase + r.synCount)
    && s.jobs.all fun p => p.2.ctrs.isEmpty || decide (a + n ≤ p.2.ctrFirst) || decide (p.2.ctrFirst + p.2.ctrs.length ≤ a)

/-! ### Placement (R246) -/

/-- The spans a region may lie in: first address and end. -/
def spansFor (s : State) (r : PartRes) (tiles : List Nat) (b : Bytes) : List (Nat × Nat) :=
  if rgTier b = 2 then
    let base := lpdBase + r.lpdBase * 2 ^ 30
    [(base, min (base + r.lpdSize * 2 ^ 30) (lpdBase + s.part.stacks * stackBytes))]
  else if rgNear b then
    let t := tiles.getD (rgTile b) 0
    [(nearBase t, nearBase (t + 1))]
  else (sortBy id tiles).foldl (fun acc t => match acc.getLast? with
    | some (lo, hi) => if hi = nearBase t then acc.dropLast ++ [(lo, nearBase (t + 1))] else acc ++ [(nearBase t, nearBase (t + 1))]
    | none => [(nearBase t, nearBase (t + 1))]) []

/-- What holds addresses already: placed regions, and for LPDDR6 the partition's locker store and head table. -/
def takenSpans (s : State) (q : Nat) : List (Nat × Nat) :=
  (s.jobs.flatMap fun p => p.2.regions.map fun g => (g.addr, g.size))
    ++ if lockerValid s q then
        [(rd s (LPD_LKS_BASE_base q), rd s (LPD_LKS_COUNT_count q) * lockerBytes s q), (rd s (LPD_LKS_HEAD_head_base q), rd s (LPD_LKS_COUNT_count q))]
      else []

/-- The lowest aligned address of a span at which `n` bytes meet nothing taken: the span's start or the end of something
taken, rounded up. -/
def lowestIn (taken : List (Nat × Nat)) (align n : Nat) (span : Nat × Nat) : Option Nat :=
  let cands := (span.1 :: taken.map fun t => t.1 + t.2).map fun a => roundUp a align
  let ok := cands.filter fun a => decide (span.1 ≤ a) && decide (a + n ≤ span.2)
    && taken.all fun t => !spansMeet a n t.1 t.2
  match ok with
  | [] => none
  | x :: xs => some (minOr x xs)

/-- The regions of an image placed in order; the index of the first with no place otherwise. -/
def placeRegions (s : State) (r : PartRes) (tiles : List Nat) : List (Nat × Bytes) → List (Nat × Nat) → List Region → Except Nat (List Region)
  | [], _, acc => .ok acc
  | (k, b) :: rest, taken, acc =>
    let align := max (rgAlign b) 0x10000
    match (spansFor s r tiles b).findSome? (lowestIn taken align (rgSize b)) with
    | none => .error k
    | some a =>
      let g : Region := ⟨rgTier b, rgWeight b, rgSealed b, if rgNear b then some (rgTile b) else none, a, rgSize b, false⟩
      placeRegions s r tiles rest (taken ++ [(a, rgSize b)]) (acc ++ [g])

/-! ### Relocation (R85, R93, R247) -/

/-- The sections of an image as patched so far, by index. -/
abbrev Bodies := Store Bytes

/-- A bit field of a section. -/
def fieldAt (b : Bytes) (bit w : Nat) : Nat := bitsOf (fieldLE b (bit / 8) ((bit % 8 + w + 7) / 8)) (bit % 8) w

/-- A bit field of a section replaced. -/
def setFieldAt (b : Bytes) (bit w v : Nat) : Bytes :=
  let n := (bit % 8 + w + 7) / 8
  patchB b (bit / 8) (toLE n (setBits (fieldLE b (bit / 8) n) (bit % 8) w v))

/-- The value a record adds, and the span its patched value must lie in (R85). -/
def relocBase (tiles : List Nat) (regions : List Region) (first count : Nat) (r : Reloc) : Nat × Nat × Nat :=
  if r.kind = 1 then match regions[r.target]? with
    | some g => (g.addr, g.addr, g.addr + g.size)
    | none => (0, 0, 0)
  else if r.kind = 2 then
    let a := windowOf (tiles.getD r.target 0)
    (a, a, a + 0x01000000)
  else if r.kind = 3 then
    let t := tiles.getD r.target 0
    (t, t, t + 1)
  else (first, first, first + count)

/-- The records applied in table order; the first whose value does not fit fails the load. -/
def applyRelocs (tiles : List Nat) (regions : List Region) (first count : Nat) : List Reloc → Bodies → Except (Nat × Nat) Bodies
  | [], bs => .ok bs
  | r :: rest, bs =>
    let b := Store.getD bs r.sect []
    let (add, lo, hi) := relocBase tiles regions first count r
    let v : Int := fieldAt b r.bit (relocWidth r.kind) + add + r.addend
    let implemented : Int := if r.kind = 4 then 4096 else 2 ^ 48
    if v < lo ∨ (hi : Int) ≤ v ∨ implemented ≤ v then .error (ldReloc, placeWord r.sect r.bit)
    else applyRelocs tiles regions first count rest (Store.set bs r.sect (setFieldAt b r.bit (relocWidth r.kind) v.toNat))

/-- The growth fields of a section after patching: descriptor bases, template tiles, ROUTE entries (R93). -/
def growthErr (s : State) (x : Sect) (b : Bytes) : LoadErr :=
  if x.type = 2 then rowErrs ldReloc x 16 b fun d => [(0, decide (2 ^ 48 ≤ fieldLE d 0 8))]
  else if x.type = 3 then rowErrs ldReloc x 64 b fun d => [(8 * 0x34, decide (s.part.tiles ≤ fieldLE d 0x34 2))]
  else if x.type = 5 then rowErrs ldReloc x 8 b fun d =>
    let v := leNat d
    [(0, rtPath v != 0 && decide (s.part.tiles ≤ rtDst v)), (32, decide (4096 ≤ bitsOf v 32 16)), (48, decide (4096 ≤ bitsOf v 48 16))]
  else none

/-- done_ctr of the plans and reply_ctr of the form, patched as SYNC fields: outside the job's range they fail (R133, R247,
R288). -/
def jobCtrErr (m : Bytes) (bs : Bodies) : LoadErr :=
  firstErr ((sectsOf m).map fun x =>
    let b := Store.getD bs x.index []
    if x.type = 9 then partErr ldReloc x.index 0 [(64, decide (ctrCount m ≤ fieldLE b 8 2))]
    else if x.type = 10 then firstErr ((tableRows b (fieldLE b 0x30 8) (tkPlans b) 64).map fun r =>
      partErr ldReloc x.index (8 * r.2) [(8 * 0x12, decide (ctrCount m ≤ fieldLE b (r.2 + 0x12) 2))])
    else none)

/-- The body of a section with the fields its relocations patch left out, as zeros: what is left is the image's own. -/
def ownFields (m : Bytes) (x : Sect) : Bytes :=
  (relocsOf m).foldl (fun b r => if r.sect = x.index then setFieldAt b r.bit (relocWidth r.kind) 0 else b) (bodyOf m x)

/-- RELOC_RANGE of the bodies of the sections: growth fields beyond the part, and counters beyond the job's (R93). -/
def rangeErr (m : Bytes) (s : State) (bs : Bodies) : LoadErr :=
  firstErr ((sectsOf m).map (fun x => growthErr s x (Store.getD bs x.index [])) ++ [jobCtrErr m bs])

/-! ### Writing the image in -/

/-- The patched bytes of the section of a type and target. -/
def patched (m : Bytes) (bs : Bodies) (ty tg : Nat) : Bytes :=
  match sectOf? (sectsOf m) ty tg with
  | some x => Store.getD bs x.index []
  | none => []

/-- A stage word read (R150). -/
def stageOf (v : Nat) : Stage :=
  ⟨bitsOf v 0 6, bitsOf v 6 2, bitsOf v 8 4, bitsOf v 12 2, bitOf v 14, bitsOf v 15 2, bitsOf v 20 8, bitsOf v 32 32⟩

/-- A chain descriptor read (R147). -/
def chainOf (d : Bytes) : Chain :=
  let f := fieldLE d
  ⟨f 1 1, f 2 1, f 3 1, bitOf (f 4 1) 0, bitOf (f 4 1) 1, bitOf (f 4 1) 2, bitOf (f 4 1) 3, bitsOf (f 5 1) 0 2, bitOf (f 5 1) 2, f 6 1,
    f 7 1, bitsOf (f 8 1) 0 6, bitsOf (f 10 2) 0 10, (List.range (f 0 1)).map fun k => stageOf (f (0x20 + 8 * k) 8)⟩

/-- The page-class word of a task tile (R171, R262). -/
def pageWord (m : Bytes) (k : Nat) : Nat :=
  let b := sectBytes m 10 0
  fieldLE b (fieldLE b 0x20 8 + 4 * k) 4

/-- The page classes of a tile written: a page whose class changes holds undefined values (R171). -/
def writeClasses (s : State) (t w : Nat) : State :=
  let old := rd s (SPD_CLASS_me_weight_pages t)
  let s := (List.range 24).foldl (fun s p =>
    if bitOf old p = bitOf w p then s else freeSpan s (windowOf t + 0x100000 + 0x4000 * p) 0x4000) s
  wr s (SPD_CLASS_me_weight_pages t) w

/-- CH_ROUTE of a tile written from its ROUTE section (R203). -/
def writeRoutes (s : State) (t : Nat) (b : Bytes) : State :=
  (List.range 16).foldl (fun s e =>
    let v := fieldLE b (8 * e) 8
    let link := if rtPath v = 1 then (linkTo (t % 8) (rtDst v % 8)).getD 0 else 0
    wrs s [(CH_ROUTE_dst_tile t e, v), (CH_ROUTE_dst_q t e, v / 2 ^ 12), (CH_ROUTE_path t e, v / 2 ^ 16), (CH_ROUTE_depth t e, v / 2 ^ 18),
      (CH_ROUTE_open_at_kickoff t e, v / 2 ^ 26), (CH_ROUTE_arr_en t e, v / 2 ^ 27), (CH_ROUTE_cred_en t e, v / 2 ^ 28),
      (CH_ROUTE_arr_ctr t e, v / 2 ^ 32), (CH_ROUTE_cred_ctr t e, v / 2 ^ 48), (CH_EPSTAT_link t e, link)]) s

/-- The depth and the writer of each inbound queue, from the routes of the image's tiles (R204, R228). -/
def writeQueues (s : State) (tiles : List Nat) : State :=
  let s := tiles.foldl (fun s t => (List.range 16).foldl (fun s q =>
    wrs s [(CH_QSTAT_depth t q, 0), (CH_QSTAT_writer_tile t q, 0), (CH_QSTAT_writer_ep t q, 0)]) s) s
  tiles.foldl (fun s t => (List.range 16).foldl (fun s e =>
    if rd s (CH_ROUTE_path t e) = 0 then s
    else
      let u := rd s (CH_ROUTE_dst_tile t e)
      let q := rd s (CH_ROUTE_dst_q t e)
      wrs s [(CH_QSTAT_depth u q, rd s (CH_ROUTE_depth t e)), (CH_QSTAT_writer_tile u q, t), (CH_QSTAT_writer_ep u q, e)]) s) s

/-- A tile bound to a task tile of an image: its mode, descriptors, templates, chains and instruction memory (R82, R248). -/
def bindTile (s : State) (m : Bytes) (bs : Bodies) (job k t : Nat) : State :=
  let ins := patched m bs 1 k
  let ch := patched m bs 4 k
  let s := writeBytes s (windowOf t) ins
  let s := wrs s [(TIL_MODE_strict t, 0), (TIL_MODE_slip_fatal t, 0), (TIL_MODE_timing_model t, hdrTiming m), (TIL_MODE_size_class t, hdrSizeClass m),
    (TIL_MODE_task_tile t, k), (TIL_MODE_bound t, 1), (TIL_MODE_job_id t, job)]
  let s := writeRoutes (writeClasses s t (pageWord m k)) t (patched m bs 5 k)
  modTile s t fun y => { y with
    descs := (rowsOf 16 (patched m bs 2 k)).map (fun p => (p.1, leNat p.2))
    tmpls := (rowsOf 64 (patched m bs 3 k)).map fun p => leNat p.2
    chains := (List.range (fieldLE ch 2 2)).map fun c => chainOf (sliceB ch (32 + 96 * c) 96)
    bundles := ins.length / 32 }

/-- A routing plan read; its counter is the module's (R133). -/
def planOf (b : Bytes) (first : Nat) : PlanRec :=
  let f := fieldLE b
  ⟨f 0 1, f 2 2, f 4 2, f 6 2, f 8 2, f 10 2, f 12 1, f 13 1, f 16 2, first + f 18 2⟩

/-- A request form read; its counter is the module's (R288). -/
def formOf (b : Bytes) (first : Nat) : Form :=
  let f := fieldLE b
  ⟨f 0 2, f 3 1, f 4 2, f 6 2, first + f 8 2, (List.range (f 2 1)).map fun k =>
    let g := fieldLE (sliceB b (32 + 32 * k) 32)
    ⟨g 0 1, g 1 1, bitOf (g 2 1) 0, g 8 8, g 16 8, g 24 8⟩⟩

/-- The initial contents of a region: its DATA sections written from its first byte in the order of the section table, a later one
over an earlier (R82). DESIGN CHOICE (log 20): the spec names no order. -/
def dataOf (m : Bytes) (bs : Bodies) (k : Nat) : Bytes :=
  ((sectsOf m).filter fun x => x.type == 8 && x.target == k).foldl (fun b x =>
    let d := Store.getD bs x.index []
    d ++ b.drop d.length) []

/-- The record of a job whose image has been placed. -/
def jobOf (m : Bytes) (bs : Bodies) (q sq : Nat) (tiles : List Nat) (regions : List Region) (first : Nat) : Job where
  part := q
  digest := imageDigest m
  strict := hdrStrict m
  timing := hdrTiming m
  isaMinor := fieldLE m 9 1
  sizeClass := hdrSizeClass m
  tiles := tiles
  regions := regions
  regionDigs := (regions.zipIdx.filter fun p => !p.1.isSealed).map fun p => (p.2, sha384 (dataOf m bs p.2))
  weightsWritten := false
  ctrFirst := first
  ctrs := ctrsOf m
  tasks := taskRows m
  edges := edgeRows m
  needTicks := fieldLE (sectBytes m 10 0) 8 4
  marks := (tableRows (sectBytes m 10 0) (fieldLE (sectBytes m 10 0) 0x38 8) (tkMarks (sectBytes m 10 0)) 8).map fun r => fieldLE (sectBytes m 10 0) r.2 4
  plans :=
    let b := patched m bs 10 0
    (tableRows b (fieldLE b 0x30 8) (tkPlans b) 64).map fun r => planOf (sliceB b r.2 64) first
  form := (sectOf? (sectsOf m) 9 0).map fun _ => formOf (patched m bs 9 0) first
  fallback := []
  sq := sq

/-- The counters of a job allocated: threshold and owner (R217, R229). -/
def takeCounters (s : State) (job first : Nat) (l : List (Nat × Nat)) : State :=
  l.zipIdx.foldl (fun s p => wrs s [(SYN_CTR_value (first + p.2), 0), (SYN_CTR_threshold (first + p.2), p.1.1), (SYN_CTR_epoch (first + p.2), 0),
    (SYN_CTR_job_id (first + p.2), job)]) s

/-- The image written into the module. -/
def commitLoad (s : State) (m : Bytes) (bs : Bodies) (job q sq : Nat) (tiles : List Nat) (regions : List Region) (first : Nat) : State :=
  let j := jobOf m bs q sq tiles regions first
  let s := regions.zipIdx.foldl (fun s p => writeBytes s p.1.addr (dataOf m bs p.2)) s
  let s := tiles.zipIdx.foldl (fun s p => bindTile s m bs job p.2 p.1) s
  setJob (takeCounters (writeQueues s tiles) job first j.ctrs) job j

/-- The checks of R87, the binding of R245 and the graph checks of R263 in order, then counters and placement; the image is
written only when all pass. DEDUCED (log 20). -/
def loadResult (s : State) (d : Desc) (m : Bytes) (map : List Nat) : Except (Nat × Nat) State :=
  match firstErr [checkHeader m s] with
  | some e => .error e
  | none =>
    let tiles := bindTiles d map (hdrTaskTiles m)
    match bindBad s d.part (hdrCrossings m) tiles with
    | some k => .error (ldSizeClass, placeWord inBinding k)
    | none =>
      match firstErr [checkSections m s, checkReserved m, firstErr ((sectsOf m).map fun x => if x.type = 1 then checkLoops m x else none), checkRelocs m,
          rangeErr m s ((sectsOf m).map fun x => (x.index, ownFields m x))] with
      | some e => .error e
      | none =>
        match Store.get? s.parts d.part with
        | none => .error (stPartition, 0)
        | some r =>
          let n := ctrCount m
          let bodies : Bodies := (sectsOf m).map fun x => (x.index, bodyOf m x)
          let graph := checkGraph m
          match (if n = 0 then some 0 else allocCounters s r n), placeRegions s r tiles (regionRows m) (takenSpans s d.part) [] with
          | none, _ => .error (graph.getD (stNoCounters, n))
          | some _, .error k => .error (graph.getD (stNoPlace, k))
          | some first, .ok regions =>
            match applyRelocs tiles regions first n (relocsOf m) bodies with
            | .error e => .error e
            | .ok bs =>
              match firstErr [rangeErr m s bs, graph] with
              | some e => .error e
              | none => .ok (commitLoad s m bs d.job d.part d.sq tiles regions first)

/-- The status and detail of a LOAD_IMAGE that the module's state or its lengths refuse (R26, R255, R261, R365, R444). -/
def loadRefused (s : State) (d : Desc) (m : Bytes) : Option (Nat × Nat) :=
  match failCause s with
  | some f => some (stFault, f)
  | none =>
    if !on s REL_STATUS_committed then some (stMapsPending, 0)
    else if (Store.get? s.jobs d.job).isSome then some (stJobIdInUse, 0)
    else if fieldLE d.bytes 0x18 8 != fieldLE m 0x18 8 then some (stDescriptor, 0x18)
    else none

/-- LOAD_IMAGE: the image read from host memory is checked, placed, patched and written; runs that waited for it go on
(R255, R257). DEDUCED (log 20); DESIGN CHOICE (log 21). -/
def execLoadImage (sq : Nat) (image : Bytes) (tileMap : List Nat) (s : State) : Host.Outcome State Fault Refusal :=
  .next <| match ready s sq 1 with
    | none => s
    | some d =>
      let m := image.take (fieldLE d.bytes 0x18 8)
      match loadRefused s d m with
      | some (st, dt) => wakeGraphs (finishDesc s d st dt) d.job
      | none => match loadResult s d m tileMap with
        | .error (st, dt) => wakeGraphs (finishDesc s d st dt) d.job
        | .ok t => wakeGraphs (finishDesc t d stOk 0) d.job

end Sys2Proof.Machine
end

