-- ==== Sys2Proof/Machine/Security.lean ====
section
/-! DEFINITION. Unsealing, key slots, partitions, port and pair keys, attestation and monitoring
(16_security_and_attestation.md, R394, R397 to R417; 15, R390; 19, R461). -/

namespace Sys2Proof.Machine

/-! ### Key slots and unsealing (R402 to R406) -/

/-- The slots of a partition as SEC_PART_KEYS shows them. -/
def syncKeys (s : State) (q : Nat) : State :=
  let full := sumL ((List.range 8).map fun k => if (Store.get? s.sec.slots (8 * q + k)).isSome then 2 ^ k else 0)
  let bound := sumL ((List.range 8).map fun k => match Store.get? s.sec.slots (8 * q + k) with
    | some x => if x.bound.isSome then 2 ^ k else 0
    | none => 0)
  wrs s [(SEC_PART_KEYS_full q, full), (SEC_PART_KEYS_image_bound q, bound)]

/-- Slots cleared. -/
def clearSlots (s : State) (l : List Nat) : State :=
  let s := { s with sec := { s.sec with slots := l.foldl Store.erase s.sec.slots } }
  (List.range 8).foldl syncKeys s

/-- The offset of the first field of a key blob that breaks its format (R402, R404). DEDUCED (log 34). -/
def blobBad (b : Bytes) : Option Nat :=
  let checks := [(0, fieldLE b 0 4 != 0x59454B4F), (4, fieldLE b 4 1 != 1), (5, decide (1 < fieldLE b 5 1)),
    (6, decide (7 < fieldLE b 6 1)), (7, !allZero (sliceB b 7 9)), (0x40, fieldLE b 5 1 == 0 && !allZero (sliceB b 0x40 48)),
    (0x84C, !allZero (sliceB b 0x84C 4))]
  (checks.find? (·.2)).map (·.1)

/-- Whether a blob is for another partition, session or image, or no session key is there (R401, R404). -/
def blobUnbound (s : State) (d : Desc) (j : Job) (b : Bytes) : Bool :=
  !on s SEC_STATUS_session_ready || fieldLE b 6 1 != d.part || sliceB b 0x10 48 != s.sec.sessionId
    || (bitOf (fieldLE b 5 1) 0 && sliceB b 0x40 48 != j.digest)

/-- HMAC-SHA-384 of RFC 2104, and HKDF of RFC 5869 for one block of output (cited by R403). PRESUMED (log 5). -/
def hmac384 (key msg : Bytes) : Bytes :=
  let k := sliceB (if 128 < key.length then sha384 key else key) 0 128
  sha384 (k.map (· ^^^ 0x5C#8) ++ sha384 (k.map (· ^^^ 0x36#8) ++ msg))
def hkdf384 (salt ikm info : Bytes) (len : Nat) : Bytes := sliceB (hmac384 (hmac384 salt ikm) (info ++ [1])) 0 len

/-- The bytes of the text ONEVO-KEK (R403). -/
def kekInfo : Bytes := [0x4F, 0x4E, 0x45, 0x56, 0x4F, 0x2D, 0x4B, 0x45, 0x4B]

/-- The model key of a key blob under the session keys that a session id names: none when OAEP decoding does not give 32 bytes or the
GCM tag fails (R403). -/
def unwrapKey (session b : Bytes) : Option Bytes :=
  match Config.oaepDecrypt session (sliceB b 0x70 384) with
  | none => none
  | some a =>
    if a.length ≠ 32 then none
    else
      let kem := sliceB (Config.kemDecaps session (sliceB b 0x1F0 1568)) 0 32
      let kek := hkdf384 (sliceB b 0x10 48) (a ++ kem) kekInfo 32
      (Config.gcmOpen kek (sliceB b 0x810 12) (sliceB b 0 0x70) (sliceB b 0x81C 48)).map fun k => sliceB k 0 32

/-- The region index and the slot of an UNSEAL (R404). -/
def Desc.region (d : Desc) : Nat := fieldLE d.bytes 0x20 2
def Desc.slot (d : Desc) : Nat := 8 * d.part + fieldLE d.bytes 0x22 1

/-- A key installed in a slot of its partition (R404). -/
def installKey (s : State) (d : Desc) (key : Bytes) (bound : Option Bytes) : State :=
  let s := { s with sec := { s.sec with slots := Store.set s.sec.slots d.slot ⟨key, bound, []⟩ } }
  raise (syncKeys s d.part) SEC_CAUSE_cause 1

/-- The job's partition's key for an UNSEAL: taken from its blob, or from its slot; a status and detail where it has none, or where
the session keys are not ready (R401, R404). -/
def unsealKey (s : State) (d : Desc) (j : Job) (blob : Bytes) : State × (Bytes ⊕ (Nat × Nat)) :=
  if fieldLE d.bytes 0x23 1 = 1 then
    let b := sliceB blob 0 2128
    match blobBad b with
    | some o => (s, .inr (stKeyFormat, o))
    | none =>
      if blobUnbound s d j b then (s, .inr (stKeyBinding, 0))
      else match unwrapKey s.sec.sessionId b with
        | none => (s, .inr (stKeyUnwrap, 0))
        | some k => (installKey s d k (if bitOf (fieldLE b 5 1) 0 then some j.digest else none), .inl k)
  else if !on s SEC_STATUS_session_ready then (s, .inr (stKeyBinding, 0))
  else match Store.get? s.sec.slots d.slot with
    | some x =>
      if x.bound.isSome && x.bound != some j.digest then (s, .inr (stKeyEmpty, fieldLE d.bytes 0x22 1)) else (s, .inl x.key)
    | none => (s, .inr (stKeyEmpty, fieldLE d.bytes 0x22 1))

/-- A region of a job. -/
def regionOf (s : State) (j i : Nat) : Option Region := (Store.get? s.jobs j).bind fun x => x.regions[i]?

/-- The stream length of a region of `n` bytes (R405). -/
def streamLen (n : Nat) : Nat := 128 + n + 16 * ((n + 1048575) / 1048576)

/-- The offset at which a stream's header fails R405; a wrong src_len has no stated offset: a free value. -/
def headerBad (s : State) (d : Desc) (u : Unsealing) (size : Nat) : Option Nat :=
  let h := u.header
  let used := match Store.get? s.sec.slots u.slot with
    | some x => x.used
    | none => []
  let checks := [(0, fieldLE h 0 4 != 0x4C45534F), (4, used.contains (fieldLE h 4 4) || decide (256 ≤ used.length)),
    (8, fieldLE h 8 8 != size), (0x10, fieldLE h 0x10 2 != d.region), (0x12, !allZero (sliceB h 0x12 14)),
    (0x50, !allZero (sliceB h 0x50 48)), (Config.freeValue s.freeCtr, fieldLE d.bytes 0x18 8 != streamLen size)]
  (checks.find? (·.2)).map (·.1)

/-- The state without the UNSEAL that streams. -/
def dropStream (s : State) : State := { s with sec := { s.sec with unseals := s.sec.unseals.drop 1 } }

/-- The sealed region of an UNSEAL that ends with a failure after its region has been found good: zero-filled (R406).
DEDUCED (log 34). -/
def zeroRegion (s : State) (d : Desc) : State :=
  match regionOf s d.job d.region with
  | some g => zeroSpan s g.addr g.size
  | none => s

/-- An UNSEAL ended with a failure: its region zero-filled (R406). -/
def failStream (s : State) (d : Desc) (status detail : Nat) : State :=
  complete (dropStream (zeroRegion s d)) d.subm status detail

/-- Streams whose header fails at their turn complete, up to the first that streams on (R405, R406). DEDUCED (log 34). -/
def nextStream : Nat → State → State
  | 0, s => s
  | k + 1, s =>
    match s.sec.unseals with
    | [] => s
    | u :: _ =>
      match descOf s u.subm with
      | none => nextStream k (dropStream s)
      | some d =>
        match regionOf s d.job d.region with
        | none => nextStream k (dropStream s)
        | some g => (match headerBad s d u g.size with
          | some o => nextStream k (takeFree (failStream s d stSealFormat (o % 2 ^ 64)) 1)
          | none => s)

/-- The turn given to the next stream. -/
def turnStreams (s : State) : State := pumpAll (nextStream (s.sec.unseals.length + 1) s)

/-- UNSEAL: the job, the region, the key of a sealed stream are checked in order; a key blob installs its key; the stream
waits for its turn (R404 to R406). DEDUCED (log 34). -/
def execUnseal (sq : Nat) (blob : Bytes) (header : Bytes) (s : State) : Host.Outcome State Fault Refusal :=
  .next <| match ready s sq 2 with
    | none => s
    | some d =>
      match Store.get? s.jobs d.job with
      | none => finishDesc s d stNoJob 0
      | some j =>
        let good := match j.regions[d.region]? with
          | some g => g.isSealed && !g.filled && fieldLE header 8 8 == g.size
          | none => false
        if !good then finishDesc s d stSealRegion d.region
        else
          let (s, r) := unsealKey s d j blob
          match r with
          | .inr (st, detail) => finishDesc (zeroRegion s d) d st detail
          | .inl key =>
            let u : Unsealing := ⟨d.subm, sliceB header 0 128, d.slot, key⟩
            let s := startDesc s d.subm
            let alone := s.sec.unseals.isEmpty
            let s := { s with sec := { s.sec with unseals := s.sec.unseals ++ [u] } }
            if alone then turnStreams s else pumpAll s

/-- Chunk `c` of a stream opened (R405). -/
def openChunk (u : Unsealing) (stream : Bytes) (size c : Nat) : Option Bytes :=
  let n := min 1048576 (size - c * 1048576)
  let iv := (sliceB u.header 4 4).reverse ++ toBE 8 c
  (Config.gcmOpen u.key iv u.header (sliceB stream (128 + c * 1048592) (n + 16))).map fun p => sliceB p 0 n

/-- The plaintext of a stream, or the first chunk whose tag fails (R405). -/
def openStream (u : Unsealing) (stream : Bytes) (size : Nat) : Bytes ⊕ Nat :=
  ((List.range ((size + 1048575) / 1048576)).foldl (fun (r : Bytes ⊕ Nat) c => match r with
    | .inr k => .inr k
    | .inl b => match openChunk u stream size c with
      | some p => .inl (b ++ p)
      | none => .inr c) (.inl []))

/-- A region filled with its plaintext: its digest, the stream_id and the completion (R189, R340, R405, R406). -/
def fillRegion (s : State) (d : Desc) (u : Unsealing) (g : Region) (plain : Bytes) : State :=
  let s := writeBytes s g.addr plain
  let s := match Store.get? s.jobs d.job with
    | some j => setJob s d.job { j with
        regions := setAt j.regions d.region { g with filled := true }
        regionDigs := Store.set j.regionDigs d.region (sha384 plain) }
    | none => s
  let slots := match Store.get? s.sec.slots u.slot with
    | some x => Store.set s.sec.slots u.slot { x with used := fieldLE u.header 4 4 :: x.used }
    | none => s.sec.slots
  let s := { s with sec := { s.sec with slots := slots } }
  complete (dropStream s) d.subm stOk 0

/-- UNSEAL_COMPLETE: the stream that is read ends: its region is filled, or zero-filled when a chunk's tag or the digest
fails, and the next stream has its turn (R405, R406). -/
def execUnsealComplete (stream : Bytes) (s : State) : Host.Outcome State Fault Refusal :=
  .next <| match s.sec.unseals with
    | [] => s
    | u :: _ =>
      match descOf s u.subm with
      | none => turnStreams (dropStream s)
      | some d =>
        match regionOf s d.job d.region with
        | none => turnStreams (dropStream s)
        | some g => turnStreams (match openStream u stream g.size with
          | .inr c => failStream s d stSealTag c
          | .inl p => if sha384 p = sliceB u.header 0x20 48 then fillRegion s d u g p else failStream s d stSealDigest 0)

/-- KEY_SLOT_CLEAR: a write of SEC_KEY_CTL clears slots; a virtual function those of its own partition (R404, R411). -/
def execKeySlotClear (fn : Nat) (v : Word64) (s : State) : Host.Outcome State Fault Refusal :=
  .next <|
    if fnUp s fn then clearSlots s ((List.range 64).filter fun k => bitOf v.toNat k && (fn == 0 || k / 8 + 1 == fn)) else s

/-! ### Partitions (R407 to R409) -/

/-- What the SEC_PART registers of a partition name, none while its en is 0. -/
def partWanted (s : State) (q : Nat) : Option PartRes :=
  if on s (SEC_PART_CFG_en q) then
    some ⟨rd s (SEC_PART_TILES0_tiles q) + 2 ^ 64 * rd s (SEC_PART_TILES1_tiles q), rd s (SEC_PART_LPD_base_gib q),
      rd s (SEC_PART_LPD_size_gib q), rd s (SEC_PART_SYN_base q), rd s (SEC_PART_SYN_count q), rd s (SEC_PART_CFG_ports q)⟩
  else none

/-- The partitions that the SEC_PART registers name. -/
def partsWanted (s : State) : Store PartRes := (List.range 8).filterMap fun q => (partWanted s q).map fun r => (q, r)

/-- Whether two partitions name one tile, GiB, counter or port (R408). -/
def PartRes.meets (a b : PartRes) : Bool :=
  a.tiles &&& b.tiles != 0 || a.ports &&& b.ports != 0 || spansMeet a.lpdBase a.lpdSize b.lpdBase b.lpdSize
    || spansMeet a.synBase a.synCount b.synBase b.synCount

/-- Whether what a partition names is misaligned or beyond the part (R407, R408). -/
def PartRes.beyond (p : Part) (r : PartRes) : Bool :=
  decide (2 ^ p.tiles ≤ r.tiles) || decide (2 ^ p.ports ≤ r.ports) || decide (p.stacks * 96 < r.lpdBase + r.lpdSize)
    || r.synBase % 64 != 0 || r.synCount % 64 != 0 || decide (4096 < r.synBase + r.synCount)

/-- The partitions whose resources a commit changes, disabled ones included. -/
def partsChanged (s : State) : List Nat :=
  (List.range 8).filter fun q => Store.get? s.parts q != partWanted s q

/-- The reason for which a commit is rejected, the lowest that holds (R408). DEDUCED (log 34). -/
def commitReason (s : State) : Option Nat :=
  let l := partsWanted s
  let changed := partsChanged s
  if l.any fun a => l.any fun b => a.1 != b.1 && a.2.meets b.2 then some 1
  else if s.jobs.any fun j => changed.contains j.2.part then some 2
  else if l.any fun a => a.2.beyond s.part then some 3
  else if l.any fun a => (List.range s.part.tiles).any fun t => bitOf a.2.tiles t && !tileOn s t then some 4
  else if (Store.get? l 0).isNone || l.any fun a => a.2.tiles == 0 then some 5
  else none

/-- The partition that owns what an address names (R407). -/
def ownerOfAddr (s : State) (l : Store PartRes) (a : Nat) : Option Nat :=
  let byTile (t : Nat) := (l.find? fun p => bitOf p.2.tiles t).map (·.1)
  if a < s.part.tiles * nearBytes then byTile (a / nearBytes)
  else if lpdBase ≤ a ∧ a < windowBase then
    let g := (a - lpdBase) / 2 ^ 30
    (l.find? fun p => decide (p.2.lpdBase ≤ g) && decide (g < p.2.lpdBase + p.2.lpdSize)).map (·.1)
  else if windowBase ≤ a then byTile ((a - windowBase) / 0x1000000)
  else none

/-- The partition that owns a counter. -/
def ownerOfCtr (l : Store PartRes) (c : Nat) : Option Nat :=
  (l.find? fun p => decide (p.2.synBase ≤ c) && decide (c < p.2.synBase + p.2.synCount)).map (·.1)

/-- The partition that owns a port. -/
def ownerOfPort (l : Store PartRes) (p : Nat) : Option Nat := (l.find? fun x => bitOf x.2.ports p).map (·.1)

/-- The tiles that change partition between two settings. -/
def tilesMoved (s : State) (l : Store PartRes) : List Nat :=
  (List.range s.part.tiles).filter fun t => partOfTile s t != (l.find? fun p => bitOf p.2.tiles t).map (·.1)

/-- What changes partition zero-filled: tile state, memory, counters; MACsec associations of ports that change deleted
(R409). -/
def zeroMoved (s : State) (l : Store PartRes) : State :=
  let moved := tilesMoved s l
  { s with
    tiles := s.tiles.filter fun p => !moved.contains p.1
    mem := s.mem.filter fun c => ownerOfAddr s s.parts c.1 == ownerOfAddr s l c.1
    regs := s.regs.filter fun p =>
      let o := p.1 / 64
      if 0x30000 ≤ o ∧ o < 0x38000 then ownerOfCtr s.parts ((o - 0x30000) / 8) == ownerOfCtr l ((o - 0x30000) / 8)
      else if 0x1000000 ≤ o ∧ 0x900 ≤ o % 0x10000 ∧ o % 0x10000 < 0xB00 then !moved.contains ((o - 0x1000000) / 0x10000)
      else true
    sec := { s.sec with msas := s.sec.msas.filter fun p => ownerOfPort s.parts (p.1 % 16) == ownerOfPort l (p.1 % 16) } }

/-- The SEC_PART registers of every partition by offset (R399, R408). -/
def partRegs (s : State) : Store Nat :=
  (List.range 8).flatMap fun q => (List.range 5).map fun k => (0xC0100 + 0x40 * q + 8 * k, viewReg s (0xC0100 + 0x40 * q + 8 * k))

/-- A commit accepted: the partitions are in force, what moves is zero-filled, busy is set (R408, R409). DEDUCED (log 34). -/
def acceptCommit (s : State) : State :=
  let l := partsWanted s
  let changed := partsChanged s
  let roll := !(tilesMoved s l).isEmpty
  let regs := partRegs s
  let s := { zeroMoved s l with parts := l, zeroing := changed }
  let s := clearSlots s (changed.flatMap fun q => rangeFrom (8 * q) 8)
  let s := { s with sec := { s.sec with committed := regs }, time := { s.time with rollDue := s.time.rollDue || roll } }
  wrs s [(SEC_PART_CTL_busy, 1), (SEC_PART_CTL_rejected, 0), (SEC_PART_CTL_reason, 0),
    (SEC_PART_CTL_enabled, sumL (l.map fun p => 2 ^ p.1))]

/-- PARTITION_COMMIT: the SEC_PART registers are checked and put in force, or the commit is rejected with its reason (R408,
R409). -/
def execPartitionCommit (fn : Nat) (s : State) : Host.Outcome State Fault Refusal :=
  .next <|
    if !fnPhys s fn || on s SEC_PART_CTL_busy then s
    else match commitReason s with
      | some r => raise (wrs s [(SEC_PART_CTL_rejected, 1), (SEC_PART_CTL_reason, r)]) SEC_CAUSE_cause 2
      | none => acceptCommit s

/-- PART_DONE: the zero-fill of a commit ends, busy clears, and descriptors that waited may start (R409). -/
def execPartDone (s : State) : Host.Outcome State Fault Refusal :=
  .next <|
    if on s SEC_PART_CTL_busy then
      pumpAll { raise (wr s SEC_PART_CTL_busy 0) SEC_CAUSE_cause 3 with zeroing := [] }
    else s

/-! ### Port and pair keys, svn (R397, R414, R415) -/

/-- Whether a function may write the SEC_MSA registers for the port selected (R411). -/
def fnMsa (s : State) (fn : Nat) : Bool := fnUp s fn && (fn == 0 || ownsPort s (fn - 1) (rd s SEC_MSA_SEL_port))

/-- MSA_INSTALL: the association selected is installed with the key, salt, SSCI, SCI, window and packet number registers
(R414). -/
def execMsaInstall (fn : Nat) (v : Word64) (s : State) : Host.Outcome State Fault Refusal :=
  .next <|
    if !fnMsa s fn then s
    else
      let s := wr s SEC_MSA_CTL_replay_window (v.toNat / 2 ^ 4)
      let m : Msa := ⟨((List.range 4).map fun i => toLE 8 (rd s (SEC_MSA_KEY_key i))).flatten,
        rd s SEC_MSA_SALT0_salt + 2 ^ 64 * rd s SEC_MSA_SALT1_salt, rd s SEC_MSA_SALT1_ssci, rd s SEC_MSA_SCI_sci,
        min (2 ^ 30) (rd s SEC_MSA_CTL_replay_window), rd s SEC_MSA_PN_pn⟩
      { s with sec := { s.sec with msas := Store.set s.sec.msas (msaSel s) m, msaOrder := msaSel s :: s.sec.msaOrder.filter (· != msaSel s) } }

/-- MSA_DELETE: the association selected is deleted (R414). -/
def execMsaDelete (fn : Nat) (v : Word64) (s : State) : Host.Outcome State Fault Refusal :=
  .next <|
    if !fnMsa s fn then s
    else
      let s := wr s SEC_MSA_CTL_replay_window (v.toNat / 2 ^ 4)
      { s with sec := { s.sec with msas := Store.erase s.sec.msas (msaSel s) } }

/-- PAIR_KEY_SET: the pair key is taken while neither pair link is enabled; else the write is dropped (R415). -/
def execPairKeySet (fn : Nat) (s : State) : Host.Outcome State Fault Refusal :=
  .next <|
    if !fnPhys s fn then s
    else if on s (NET_PAIR_CFG_en 0) || on s (NET_PAIR_CFG_en 1) then raise s SEC_CAUSE_cause 4
    else
      let k := ((List.range 4).map fun i => toLE 8 (rd s (SEC_PAIR_KEY_key i))).flatten
      wr { s with sec := { s.sec with pairKey := some k } } SEC_PAIR_CTL_key_set 1

/-- SVN_RAISE: a higher fused minimum is noted for the next power-up; a value not above the minimum, above 64 or above the
running firmware's is ignored (R397). -/
def execSvnRaise (fn : Nat) (raiseTo : BitVec 8) (s : State) : Host.Outcome State Fault Refusal :=
  .next <|
    let v := raiseTo.toNat
    if fnPhys s fn ∧ rd s SEC_STATUS_fuse_svn < v ∧ v ≤ 64 ∧ v ≤ rd s SEC_STATUS_fw_svn then
      { s with boot := { s.boot with svnNext := some v } }
    else s

/-- SESSION_KEYS_READY: the session keys are generated: the session id is known, session_ready is set (R401). -/
def execSessionKeysReady (sessionId : Bytes) (s : State) : Host.Outcome State Fault Refusal :=
  .next <|
    if on s SEC_STATUS_session_ready || s.boot.held then s
    else wr { s with sec := { s.sec with sessionId := sliceB sessionId 0 48 } } SEC_STATUS_session_ready 1

/-! ### SPDM (R398 to R400, R413) -/

/-- Codes of SPDM messages and errors. PRESUMED from DSP0274 (log 55). -/
def spdmVersion : Nat := 0x04
def spdmCapabilities : Nat := 0x61
def spdmAlgorithms : Nat := 0x63
def spdmDigests : Nat := 0x01
def spdmCertificate : Nat := 0x02
def spdmChallengeAuth : Nat := 0x03
def spdmMeasurements : Nat := 0x60
def spdmKeyExchangeRsp : Nat := 0x64
def spdmFinishRsp : Nat := 0x65
def spdmChunkSendAck : Nat := 0x05
def spdmChunkResponse : Nat := 0x06
def spdmError : Nat := 0x7F

/-- A connection. -/
def spdmOf (s : State) (k : Nat) : SpdmSt := Store.getD s.sec.spdm k ⟨0, false, false, [], none⟩

/-- A connection changed. -/
def modSpdm (s : State) (k : Nat) (f : SpdmSt → SpdmSt) : State :=
  { s with sec := { s.sec with spdm := Store.set s.sec.spdm k (f (spdmOf s k)) } }

/-- An ERROR response: 1 invalid, 3 busy, 4 unexpected, 6 unspecified, 7 unsupported, 0x0F large. -/
def spdmFail (s : State) (k code : Nat) : State := emitOut s (.response k spdmError [BitVec.ofNat 8 code])

/-- A response; one above 64 KiB is kept for CHUNK_GET (R398, R418). -/
def spdmAnswer (s : State) (k code : Nat) (body : Bytes) : State :=
  if 65536 < body.length then spdmFail (modSpdm s k fun x => { x with large := some (code, body) }) k 0x0F
  else emitOut s (.response k code body)

/-- Whether the supervisor firmware answers on its links: the host die is out of reset and the firmware runs. -/
def spdmUp (s : State) : Bool := !s.boot.held && !on s PWR_STATUS_tripped && rd s SEC_STATUS_boot == 1

/-- A request answered on a connection negotiated as far as `need`; earlier it is unexpected. -/
def spdmServe (s : State) (k need : Nat) (f : State → State) : State :=
  if !spdmUp s then s
  else if (spdmOf s k).phase < need then spdmFail s k 4
  else f s

/-- GET_VERSION: versions 1.2 and 1.3; the connection starts over (R398). PRESUMED (log 55). -/
def execGetVersion (session : Nat) (s : State) : Host.Outcome State Fault Refusal :=
  .next <| spdmServe s session 0 fun s =>
    spdmAnswer (modSpdm s session fun _ => ⟨1, false, false, [], none⟩) session spdmVersion [0x12, 0x13]

/-- GET_CAPABILITIES (R398). -/
def execGetCapabilities (session : Nat) (s : State) : Host.Outcome State Fault Refusal :=
  .next <| spdmServe s session 1 fun s =>
    spdmAnswer (modSpdm s session fun x => { x with phase := max x.phase 2 }) session spdmCapabilities []

/-- NEGOTIATE_ALGORITHMS: the one set of algorithms of R398. -/
def execNegotiateAlgorithms (session : Nat) (s : State) : Host.Outcome State Fault Refusal :=
  .next <| spdmServe s session 2 fun s =>
    spdmAnswer (modSpdm s session fun x => { x with phase := 3 }) session spdmAlgorithms []

/-- GET_DIGESTS: the digests of the chains of slots 0 and 1 (R398). -/
def execGetDigests (session : Nat) (s : State) : Host.Outcome State Fault Refusal :=
  .next <| spdmServe s session 3 fun s =>
    spdmAnswer s session spdmDigests (sha384 (Config.certChain 0) ++ sha384 (Config.certChain 1))

/-- GET_CERTIFICATE: a portion of a chain with its length and what remains (R398). -/
def execGetCertificate (session slot offset len : Nat) (s : State) : Host.Outcome State Fault Refusal :=
  .next <| spdmServe s session 3 fun s =>
    if 2 ≤ slot then spdmFail s session 1
    else
      let rest := (Config.certChain slot).drop offset
      let part := rest.take len
      spdmAnswer s session spdmCertificate (toLE 2 part.length ++ toLE 2 (rest.length - part.length) ++ part)

/-- CHALLENGE: an answer signed under identity key 1 (R394, R398). -/
def execChallenge (session slot : Nat) (nonce : Bytes) (s : State) : Host.Outcome State Fault Refusal :=
  .next <| spdmServe s session 3 fun s =>
    if 2 ≤ slot then spdmFail s session 1
    else
      let body := sha384 (Config.certChain slot) ++ sliceB nonce 0 32
      spdmAnswer (takeFree s 1) session spdmChallengeAuth (body ++ sliceB (Config.rsaSign body s.freeCtr) 0 384)

/-- The committed SEC_PART registers in offset order. -/
def committedParts (s : State) : Bytes :=
  let l := if s.sec.committed.isEmpty then partRegs { State.reset with part := s.part } else s.sec.committed
  (l.map fun p => toLE 8 p.2).flatten

/-- The registers at offsets, 8 bytes each. -/
def regBytes (s : State) (l : List Nat) : Bytes := (l.map fun o => toLE 8 (viewReg s o)).flatten

/-- The content of a measurement block, and whether it is raw (R399). -/
def measure (s : State) (i : Nat) : Option (Bool × Bytes) :=
  if i = 1 then some (false, sliceB Config.bootRomDigest 0 48)
  else if i = 2 then some (false, sliceB s.boot.fwDigest 0 48)
  else if i = 3 then some (true, toLE 4 (rd s SEC_STATUS_fw_svn) ++ toLE 4 (rd s SEC_STATUS_fuse_svn))
  else if i = 4 then some (true, regBytes s [HST_PART_INFO, HST_SERIAL0, HST_SERIAL1])
  else if i = 5 then some (false, sliceB s.sec.sessionId 0 48)
  else if i = 6 then some (false, sha384 (committedParts s))
  else if i = 7 then some (false, sha384 (s.jobs.map fun p => toLE 1 p.2.part ++ [0] ++ toLE 2 p.1 ++ sliceB p.2.digest 0 48).flatten)
  else if i = 8 then some (true, (s.jobs.map fun p => (p.2.regions.filter (·.isSealed)).map fun g => BitVec.ofNat 8 (b2n g.filled)).flatten)
  else if i = 9 then some (false, sha384 (regBytes s (((List.range s.part.tiles).map fun t => 0x90100 + 8 * t)
    ++ ((List.range s.part.stacks).map fun k => 0x90400 + 8 * k) ++ [HST_DIE_STATUS])))
  else if i = 10 then some (true, ((List.range 8).map fun q =>
    regBytes s (AUD_NEXT_NUM q :: (List.range 6).map fun j => AUD_HEAD_HASH q j)).flatten)
  else none

/-- A block in the DMTF format. PRESUMED (log 55). -/
def measureBlock (i : Nat) (raw : Bool) (b : Bytes) : Bytes :=
  toLE 1 i ++ toLE 1 1 ++ toLE 2 (3 + b.length) ++ toLE 1 (128 * b2n raw) ++ toLE 2 b.length ++ b

/-- The blocks a request names: one, or all of them in index order with the dual-signature block last when signed (R399,
R400). -/
def measureAll (s : State) (idx : Nat) (sign : Bool) (nonce : Bytes) : Option Bytes :=
  if idx = 0 then some (toLE 1 11)
  else if idx = 0xFF then
    let all := (rangeFrom 1 10).flatMap fun i => match measure s i with
      | some (raw, b) => measureBlock i raw b
      | none => []
    some (if sign then all ++ measureBlock 0x7F true (sliceB (Config.slhSign (sha384 (sliceB nonce 0 32 ++ all))) 0 35664) else all)
  else (measure s idx).map fun m => measureBlock idx m.1 m.2

/-- GET_MEASUREMENTS: blocks formed at the request, signed when asked; busy until the session keys are there (R399 to R401,
R417). -/
def execGetMeasurements (session idx : Nat) (sign : Bool) (nonce : Bytes) (s : State) : Host.Outcome State Fault Refusal :=
  .next <| spdmServe s session 3 fun s =>
    if !on s SEC_STATUS_session_ready then spdmFail s session 3
    else match measureAll s idx sign nonce with
      | none => spdmFail s session 1
      | some b =>
        if sign then
          let s := raise s SEC_CAUSE_cause 6
          spdmAnswer (takeFree s 1) session spdmMeasurements (b ++ sliceB (Config.rsaSign (b ++ sliceB nonce 0 32) s.freeCtr) 0 384)
        else spdmAnswer s session spdmMeasurements b

/-- KEY_EXCHANGE: on MCTP only (R398, R413). -/
def execKeyExchange (session : Nat) (mcTp : Bool) (exchange : Bytes) (s : State) : Host.Outcome State Fault Refusal :=
  .next <| spdmServe s session 3 fun s =>
    if !mcTp then spdmFail s session 7
    else
      let s' := modSpdm (takeFree s 1) session fun x => { x with exchange := true, authorised := false }
      spdmAnswer s' session spdmKeyExchangeRsp (Config.keyExchange exchange s.freeCtr)

/-- A SEC_SB_AUTH slot as 48 bytes. -/
def sbAuth (s : State) (i : Nat) : Bytes := ((List.range 6).map fun j => toLE 8 (rd s (SEC_SB_AUTH_hash i j))).flatten

/-- Whether a key hash stands in a non-zero SEC_SB_AUTH slot (R413). -/
def sbKnown (s : State) (h : Bytes) : Bool := (List.range 4).any fun i => !allZero (sbAuth s i) && sbAuth s i == h

/-- FINISH: mutual authentication by a key that SEC_SB_AUTH names authorises the session; a failure ends the exchange (R413). -/
def execFinish (session : Nat) (leafKeyHash : Bytes) (authOk : Bool) (s : State) : Host.Outcome State Fault Refusal :=
  .next <| spdmServe s session 3 fun s =>
    if !(spdmOf s session).exchange then spdmFail s session 4
    else if authOk && sbKnown s (sliceB leafKeyHash 0 48) then
      spdmAnswer (modSpdm s session fun x => { x with exchange := false, authorised := true }) session spdmFinishRsp []
    else spdmFail (raise (modSpdm s session fun x => { x with exchange := false, authorised := false }) SEC_CAUSE_cause 5) session 6

/-- CHUNK_SEND: a part of a large request is taken and acknowledged (R398). DEDUCED (log 52). -/
def execChunkSend (session : Nat) (chunk : Bytes) (last : Bool) (s : State) : Host.Outcome State Fault Refusal :=
  .next <| spdmServe s session 2 fun s =>
    spdmAnswer (modSpdm s session fun x => { x with chunks := if last then [] else x.chunks ++ chunk }) session spdmChunkSendAck []

/-- The bytes of a large response in one CHUNK_RESPONSE. DEDUCED (log 52). -/
def chunkBytes : Nat := 32768

/-- CHUNK_GET: a part of the large response kept; the last ends it (R398). DEDUCED (log 52). -/
def execChunkGet (session idx : Nat) (s : State) : Host.Outcome State Fault Refusal :=
  .next <| spdmServe s session 2 fun s =>
    match (spdmOf s session).large with
    | none => spdmFail s session 4
    | some (_, b) =>
      let part := (b.drop (chunkBytes * idx)).take chunkBytes
      if part.isEmpty then spdmFail s session 1
      else
        let s := if b.length ≤ chunkBytes * (idx + 1) then modSpdm s session fun x => { x with large := none } else s
        spdmAnswer s session spdmChunkResponse (toLE 2 idx ++ part)

/-! ### PLDM (R390, R461) -/

/-- A sensor: 0 the estimate, 1 the measured input, 2 the input energy, 3 the hottest temperature, 4 + i the sensor of
PWR_TEMP i; coarse for a requester that is not authorised (R390). DESIGN CHOICE (log 51). -/
def pldmValue (s : State) (exact : Bool) (sensor : Nat) : Option Nat :=
  if sensor = 0 then some (if exact then rd s PWR_STATUS_est_w else s.pwr.cEst)
  else if sensor = 1 then some (if exact then rd s PWR_STATUS_meas_w else s.pwr.cMeas)
  else if sensor = 2 then some (if exact then rd s PWR_ENERGY_MOD_energy_uj else s.pwr.cMod)
  else if sensor = 3 then some (if exact then rd s PWR_STATUS_hottest_c else s.pwr.cTemp)
  else if sensor < 48 then some (if exact then rd s (PWR_TEMP_temp_c (sensor - 4)) else s.pwr.cTemp)
  else none

/-- PLDM_REQUEST: a monitoring request over MCTP is answered (R390, R413, R461). DESIGN CHOICE (log 51). -/
def execPldmRequest (session sensor : Nat) (s : State) : Host.Outcome State Fault Refusal :=
  .next <|
    if !spdmUp s then s
    else match pldmValue s (spdmOf s session).authorised sensor with
      | some v => emitOut s (.response session 0 (toLE 8 v))
      | none => emitOut s (.response session 0x80 [])

end Sys2Proof.Machine
end

