-- ==== Sys2Proof/Machine/Reset.lean ====
section
/-! DEFINITION. Resets, power-up and power-down, the boot from ROM to READY, and failures of the host's side of the link
(18_reset_and_bringup.md, R433 to R453; 19, R456 to R458, R461; 16, R396, R397; 17, R420, R421, R429). -/

namespace Sys2Proof.Machine

/-! ### Output pins (R450) -/

/-- The state with the boot record changed. -/
def modBoot (s : State) (f : BootSt → BootSt) : State := { s with boot := f s.boot }

/-- The output pins that every reset releases, at the level the board then reads. -/
def releasePins (s : State) : State :=
  { s with out := [.pin "READY" false, .pin "IRQ_N" true, .pin "FAULT_N" true, .pin "STAT[0]" true, .pin "STAT[1]" true,
      .pin "STAT[2]" true, .pin "TIME_1PPS_OUT" false] ++ s.out }

/-! ### Module reset (R433 to R435, R441, R445 to R449) -/

/-- The 64 KiB pages that a region meets: first address and length (R441). -/
def pagesOf (a n : Nat) : Nat × Nat := (a / 65536 * 65536, (a + n + 65535) / 65536 * 65536 - a / 65536 * 65536)

/-- The pages whose seal tags are set: those of the sealed regions loaded, and those not yet zero-filled (R441).
DEDUCED (log 34). -/
def sealTags (s : State) : List (Nat × Nat) :=
  s.boot.tags ++ s.jobs.flatMap fun p => (p.2.regions.filter (·.isSealed)).map fun g => pagesOf g.addr g.size

/-- What an open or applying layer holds after a reset: undefined values in every row its step could touch, descriptor
fields t, p1 and p2 included (R447). DEDUCED (log 29). -/
def loseLayer (s : State) (x : Job) (y : GrdLayer) : State :=
  freeLayer (freeSpan s (descAddr s x y.layer + 0x70) 12) x y.desc

/-- Every open layer of the armed job lost. -/
def loseLayers (s : State) : State :=
  match Store.get? s.jobs (grdJob s) with
  | some x => if on s GRD_JOB_en then (s.grd.layers.filter (·.isOpen)).foldl (fun s y => loseLayer s x y) s else s
  | none => s

/-- The oldest locker operation of each hub as a reset finds it: completed with its head byte where the hub has begun it, else
without effect; which of them has begun is free (R435, R449). DEDUCED (log 35). -/
def endLockers (s : State) : State :=
  s.lockerQ.foldl (fun s p => match p.2 with
    | [] => s
    | o :: _ => if Config.freeValue s.freeCtr % 2 = 1 then (lockerEffect (takeFree s 1) o).getD s else takeFree s 1) s

/-- The dies held in reset or restarted: everything at its reset value but HST_RESET_STATUS, the straps and the fuses; memory
behind the two tiers is kept. -/
def bareDies (s : State) : State :=
  restart s (fun o => o == HST_RESET_STATUS) (s.mem.filter fun c => decide (c.1 < windowBase))

/-- The straps and fuses of one state carried to another. -/
def keepFuses (s t : State) : State :=
  wrs t [(SEC_STATUS_fuse_svn, rd s SEC_STATUS_fuse_svn), (DBL_STATUS_id, rd s DBL_STATUS_id)]

/-- The link registers of one state carried to another: a reset that keeps the link up (R435). -/
def keepLink (s t : State) : State :=
  wrs t [(HST_LINK_gen, rd s HST_LINK_gen), (HST_LINK_width, rd s HST_LINK_width), (HST_LINK_flit, rd s HST_LINK_flit),
    (HST_LINK_reversed, rd s HST_LINK_reversed)]

/-- HST_RESET_STATUS as a module reset of a cause writes it (R453). -/
def writeResetStatus (s t : State) (cause : Nat) : State :=
  let t := bump t HST_RESET_STATUS_module_resets 1
  wrs t [(HST_RESET_STATUS_cause, cause), (HST_RESET_STATUS_mem_kept, b2n (!s.boot.cold)),
    (HST_RESET_STATUS_unseal_lost, b2n (!s.sec.unseals.isEmpty)),
    (HST_RESET_STATUS_copy_lost, b2n (s.stackCopy.isSome || s.siteSubs.any (·.begun))),
    (HST_RESET_STATUS_grading_armed, rd s GRD_JOB_en),
    (HST_RESET_STATUS_audit_on, b2n ((List.range 8).any fun q => auditOn s q))]

/-- Whether a module reset can act: powered, and not tripped (R386, R457). -/
def canReset (s : State) : Bool := s.boot.rails == 2 && !on s PWR_STATUS_tripped

/-- A module reset of a cause (R453): the dies are held in reset from now on for at least 100 µs (R435). DEDUCED (log 35). -/
def dieReset (s : State) (cause : Nat) : State :=
  if !canReset s || s.boot.held then s
  else
    let tags := sealTags s
    let s' := loseLayers (endLockers s)
    let t := writeResetStatus s (keepFuses s (bareDies s')) cause
    let t := if cause = 5 ∨ cause = 6 then keepLink s t else t
    releasePins (modBoot t fun b => { b with
      held := true, pulseFrom := s.now, tags := tags, bme := false, fwWait := false, fwDigest := [], i3c := false, deferred := false })

/-- The dies restart and the boot ROM waits for firmware; a reset by an FLR ends with FLR_DONE (R421, R439, R452).
DEDUCED (log 35). -/
def startDies (s : State) : State :=
  let t := keepFuses s (bareDies s)
  let t := if rd s HST_RESET_STATUS_cause = 5 ∨ rd s HST_RESET_STATUS_cause = 6 then keepLink s t else t
  let t := if rd s HST_RESET_STATUS_cause = 5 then raise t HST_CAUSE_cause 7 else t
  setBoot (modBoot t fun b => { b with held := false, deferred := false }) 1

/-- Whether the least length of a reset pulse and the 100 ms after PWR_GOOD have passed (R435, R439). -/
def pulseOver (s : State) : Bool := decide (s.boot.pulseFrom + 100000 ≤ s.now)
def perstDelayOver (s : State) : Bool := decide (s.boot.goodAt + 100000000 ≤ s.now)

/-- PERST_ASSERT: a module reset; before PWR_GOOD it has no effect; it withdraws a release that waits (R433, R435, R457). -/
def execPerstAssert (s : State) : Host.Outcome State Fault Refusal :=
  .next (modBoot (dieReset s 2) fun b => { b with perst := true, deferred := false, pulseFrom := if s.boot.rails = 2 then s.now else b.pulseFrom })

/-- PERST_RELEASE: the dies restart, unless the reset pulse or the 100 ms after PWR_GOOD have not passed (R435, R439). -/
def execPerstRelease (s : State) : Host.Outcome State Fault Refusal :=
  let s := modBoot s fun b => { b with perst := false }
  .next <|
    if !canReset s || !s.boot.held then s
    else if !perstDelayOver s then modBoot s fun b => { b with deferred := true }
    else if pulseOver s then startDies s
    else s

/-- RESET_PULSE_END: the reset pulse ends, at least 100 µs after it began (R435). DESIGN CHOICE (log 11). -/
def execResetPulseEnd (s : State) : Host.Outcome State Fault Refusal :=
  .next (if canReset s && s.boot.held && !s.boot.perst && !s.boot.deferred && pulseOver s && perstDelayOver s then startDies s else s)

/-- DEFERRED_PERST_RELEASE: PWR_GOOD + 100 ms has come (R439, R457). -/
def execDeferredPerstRelease (s : State) : Host.Outcome State Fault Refusal :=
  .next (if canReset s && s.boot.held && s.boot.deferred && perstDelayOver s then startDies s else s)

/-- HOT_RESET: a module reset (R433). -/
def execHotReset (s : State) : Host.Outcome State Fault Refusal := .next (dieReset s 3)

/-- PCIE_LINK_DOWN: a module reset (R433). -/
def execPcieLinkDown (s : State) : Host.Outcome State Fault Refusal := .next (dieReset s 4)

/-- PF_FLR: a module reset with the link kept up (R421, R433). -/
def execPfFlr (s : State) : Host.Outcome State Fault Refusal := .next (dieReset s 5)

/-- MODULE_RESET: a write of HST_RESET_CTL.module through the physical function (R435, R438). -/
def execModuleReset (fn : Nat) (s : State) : Host.Outcome State Fault Refusal :=
  .next (if fnPhys s fn then dieReset s 6 else s)

/-! ### Job and partition reset (R436 to R438) -/

/-- A job reset: the binding ends with ABORTED, pending runs are discarded, the run in progress is aborted and never retaken
(R437). -/
def resetJob (s : State) (j : Nat) : State :=
  let s := match s.periods.find? (fun p => p.2.job == j) with
    | some (q, _) => endBind s q stAborted 0 0 (Store.getD s.epochs j 0)
    | none => s
  let pend := (s.runs.filter fun p => p.2.job == j && p.2.phase == .pending && p.2.kind == .graph).map (·.1)
  let s := pend.foldl (fun s r => endRun s r 5 stAborted 0) (dropPeriodRuns s j)
  match liveRun s j with
  | some (r, x) =>
    let s := modRun s r fun x => { x with stop := some .reset }
    if x.runs then abortRun s r else if x.phase = .retakeWait then endRun s r 5 stAborted 0 else s
  | none => s

/-- JOB_RESET: a job reset; one of a job ID with no image, or through a virtual function of a job that is not loaded in its partition,
is dropped and raises BAR0_ACCESS (R437, R438). DEDUCED (log 35). -/
def execJobReset (fn job : Nat) (s : State) : Host.Outcome State Fault Refusal :=
  let own := match Store.get? s.jobs job with
    | some x => fn == 0 || x.part + 1 == fn
    | none => false
  .next <|
    if !fnUp s fn then s
    else if own then pumpAll (resetJob s job)
    else raise s HST_CAUSE_cause 0

/-- The locker operations of a job that its hubs hold completed at once. -/
def drainLockers (s : State) (j : Nat) : State :=
  let ops := s.lockerQ.flatMap fun p => p.2.filter fun o => o.job == j
  let s := { s with lockerQ := s.lockerQ.map fun p => (p.1, p.2.filter fun o => o.job != j) }
  ops.foldl (fun s o => (lockerEffect s o).getD s) s

/-- A job's aborted run ended at once. -/
def endAborting (s : State) (j : Nat) : State :=
  match liveRun s j with
  | some (r, _) => endRun (drainLockers s j) r 5 stAborted 0
  | none => s

/-- A tile reset: its registers, but those of its repairs and wear, and its hidden state; the ages of its rows go on (R434,
R436). DEDUCED (log 35). -/
def resetTile (s : State) (t : Nat) : State :=
  let base := 0x1000000 + 0x10000 * t
  let y := tileOf s t
  let s := releaseStall s t
  let s := { s with regs := s.regs.filter fun p =>
    let o := p.1 / 64
    !(decide (base ≤ o) && decide (o < base + 0x10000) && !(decide (0xB00 ≤ o - base) && decide (o - base < 0xD00))) }
  let s := { s with waiters := s.waiters.filter fun w => w.tile != t, cleared := Store.erase s.cleared t }
  syncShadow (setTile s t { Tile.init with refreshed := y.refreshed, stretch := y.stretch }) t

/-- The queues of a partition disabled and their descriptors abandoned (R436). -/
def dropQueues (s : State) (q : Nat) : State :=
  let sqs := (List.range 16).filter fun k => rd s (HQ_SQ_CFG_partition k) == q
  let cqs := (List.range 16).filter fun c => cqBelongs s c q
  let s := { s with descs := s.descs.filter fun d => !sqs.contains d.sq }
  let s := sqs.foldl (fun s k => wr s (HQ_SQ_CFG_en k) 0) s
  cqs.foldl (fun s c => wr s (HQ_CQ_CFG_en c) 0) s

/-- A partition reset (R436). DEDUCED (log 35). -/
def resetPart (s : State) (q : Nat) : State :=
  let js := (s.jobs.filter fun p => p.2.part == q).map (·.1)
  let s := js.foldl (fun s j => endAborting (resetJob s j) j) s
  let s := dropQueues s q
  let s := js.foldl (fun s j => match Store.get? s.jobs j with
    | some x => removeJob s j x
    | none => s) s
  let s := match Store.get? s.parts q with
    | some r =>
      let s := ((List.range s.part.tiles).filter fun t => bitOf r.tiles t).foldl resetTile s
      (rangeFrom r.synBase r.synCount).foldl (fun s c =>
        wrs s [(SYN_CTR_value c, 0), (SYN_CTR_threshold c, 0), (SYN_CTR_epoch c, 0), (SYN_CTR_job_id c, 0)]) s
    | none => s
  let s := modFn s (q + 1) fun f => { f with pba := false, armed := true, lastMsg := none }
  turnStreams (bump s HST_RESET_STATUS_partition_resets 1)

/-- PARTITION_RESET: the partition named, or a virtual function's own (R436, R438). -/
def execPartitionReset (fn part : Nat) (s : State) : Host.Outcome State Fault Refusal :=
  .next (if fnUp s fn then resetPart s (if fn = 0 then part % 8 else fn - 1) else s)

/-- VF_FLR: the function's MSI-X state cleared, its arm bit set, its held message discarded, its partition reset, and FLR_DONE
raised (R421). -/
def execVfFlr (q : Nat) (s : State) : Host.Outcome State Fault Refusal :=
  .next <|
    if s.boot.held || !canReset s || decide (8 ≤ q) then s
    else raise (resetPart (modFn s (q + 1) fun f => { HostFn.init with d3 := f.d3 }) q) HST_CAUSE_cause 7

/-! ### Power (R439, R440, R456 to R458) -/

/-- The power gone: every die is unpowered, nothing is kept but the fuses, every output pin is released (R433, R440, R450). -/
def powerOff (s : State) : State :=
  if s.boot.rails = 0 then s
  else
    let t := wr (restart s (fun _ => false) []) SEC_STATUS_fuse_svn (rd s SEC_STATUS_fuse_svn)
    let t := releasePins (modBoot t fun b => { b with
      rails := 0, deferred := false, held := true, pulseFrom := s.now, cold := true, tags := [], bme := false, fwWait := false
      fwDigest := [], i3c := false })
    emitOut (emitOut t (.pin "PWR_GOOD" false)) (.pin "THERMTRIP_N" true)

/-- The rails begin to ramp, where PWR_EN is asserted and Vin is in its window. -/
def rampUp (s : State) : State :=
  if s.boot.pwrEn && s.boot.vinOk && s.boot.rails == 0 then modBoot s fun b => { b with rails := 1 } else s

/-- Whether 100 ms have passed since PWR_EN was released. -/
def enGapOver (s : State) : Bool :=
  match s.boot.enOff with
  | some t => decide (t + 100000000 ≤ s.now)
  | none => true

/-- POWER_UP: PWR_EN is asserted: the rails ramp, or the assertion is held until 100 ms after the last release (R439, R456). -/
def execPowerUp (s : State) : Host.Outcome State Fault Refusal :=
  .next <|
    if s.boot.pwrEn then s
    else if enGapOver s then rampUp (modBoot s fun b => { b with pwrEn := true, enHeld := false })
    else modBoot s fun b => { b with enHeld := true }

/-- PWR_EN_HOLD_END: a held assertion is acted on (R456). -/
def execPwrEnHoldEnd (s : State) : Host.Outcome State Fault Refusal :=
  .next (if s.boot.enHeld && enGapOver s then rampUp (modBoot s fun b => { b with pwrEn := true, enHeld := false }) else s)

/-- RAILS_GOOD: PWR_GOOD is driven high, the straps are sampled, a raise of the fused svn is burned; PERST_N released already
counts as released 100 ms from now (R397, R439, R442, R453, R457). DEDUCED (log 35). -/
def execRailsGood (dblId : Bool) (boardId : BitVec 4) (s : State) : Host.Outcome State Fault Refusal :=
  .next <|
    if s.boot.rails ≠ 1 then s
    else
      let svn := max (rd s SEC_STATUS_fuse_svn) (s.boot.svnNext.getD 0)
      let t := wrs (restart s (fun _ => false) []) [(SEC_STATUS_fuse_svn, svn), (DBL_STATUS_id, b2n dblId),
        (HST_RESET_STATUS_board_id, boardId.toNat)]
      emitOut (modBoot t fun b => { b with
        rails := 2, goodAt := s.now, pulseFrom := s.now, held := true, deferred := !b.perst, cold := true, svnNext := none })
        (.pin "PWR_GOOD" true)

/-- POWER_DOWN: PWR_EN is released (R440). -/
def execPowerDown (s : State) : Host.Outcome State Fault Refusal :=
  .next <|
    if s.boot.pwrEn || s.boot.enHeld then
      modBoot (powerOff s) fun b => { b with pwrEn := false, enHeld := false, enOff := if s.boot.pwrEn then some s.now else b.enOff }
    else s

/-- VIN_LEAVE_WINDOW: Vin leaves its window past its filter: the module powers down (R440, R458). -/
def execVinLeaveWindow (s : State) : Host.Outcome State Fault Refusal :=
  .next (modBoot (powerOff s) fun b => { b with vinOk := false })

/-- VIN_RETURN: Vin is back in its window: with PWR_EN asserted a power-up follows (R433, R458). -/
def execVinReturn (s : State) : Host.Outcome State Fault Refusal :=
  .next (rampUp (modBoot s fun b => { b with vinOk := true }))

/-! ### Boot (R16, R396, R397, R441 to R443) -/

/-- Whether the boot sequence goes on: powered, out of reset, not tripped. -/
def booting (s : State) : Bool := canReset s && !s.boot.held

/-- DIE_TEST_DONE: the die test ends; dies and stacks not fitted read 0; a failed hub, net or control die makes the state FAILED (R16, R180, R443).
DEDUCED (log 35); DESIGN CHOICE (log 46). -/
def execDieTestDone (r : DieTest) (s : State) : Host.Outcome State Fault Refusal :=
  .next <|
    if !booting s || on s HST_DIE_STATUS_test_done then s
    else
      let s := wrs s [(HST_DIE_STATUS_compute_ok, r.computeOk.toNat % 2 ^ s.part.dies), (HST_DIE_STATUS_hub_ok, r.hubOk.toNat),
        (HST_DIE_STATUS_net_ok, r.netOk.toNat), (HST_DIE_STATUS_control_ok, b2n r.controlOk),
        (HST_DIE_STATUS_lpd_stack_ok, r.lpdOk.toNat % 2 ^ s.part.stacksFitted), (HST_DIE_STATUS_test_done, 1), (LPD_STATUS_rate, r.rate.toNat)]
      let s := evalFailed s
      if r.hubOk.toNat ≠ 15 ∨ r.netOk.toNat ≠ 3 ∨ r.controlOk = false then setBoot s 7 else s

/-- MEMORY_PREP_DONE: memory is zero-filled after a power-up; after a module reset the seal-tagged pages are (R441). -/
def execMemoryPrepDone (ms : Nat) (s : State) : Host.Outcome State Fault Refusal :=
  .next <|
    if !booting s || on s HST_BOOT_prep_done then s
    else
      let s := if s.boot.cold then { s with mem := [] } else s.boot.tags.foldl (fun s p => zeroSpan s p.1 p.2) s
      wrs (modBoot s fun b => { b with cold := false, tags := [] }) [(HST_BOOT_prep_done, 1), (HST_BOOT_prep_ms, min ms 0xFFFF)]

/-- A firmware load begun: the image is read (R442). -/
def beginLoad (s : State) : State :=
  let s := setBoot (wr (bump s HST_BOOT_loads 1) SEC_STATUS_boot 0) 2
  emitOut (modBoot s fun b => { b with fwWait := false }) (.hostRead 0 (4096 * rd s HST_FW_ADDR_addr) (rd s HST_FW_LEN_len))

/-- Whether a firmware load can begin: state WAIT_FW or BOOT_FAILED (R442). -/
def mayLoad (s : State) : Bool := booting s && (rd s HST_BOOT_state == 1 || rd s HST_BOOT_state == 6)

/-- FW_LOAD: a write of HST_FW_CTL.load: the load begins, or waits for Bus Master Enable; after a success it is ignored
(R442). -/
def execFwLoad (fn : Nat) (s : State) : Host.Outcome State Fault Refusal :=
  .next <|
    if !fnPhys s fn || !mayLoad s then s
    else if s.boot.bme then beginLoad s
    else modBoot s fun b => { b with fwWait := true }

/-- BUS_MASTER_ENABLE: Bus Master Enable is set: a load that waits begins (R442). -/
def execBusMasterEnable (s : State) : Host.Outcome State Fault Refusal :=
  let s := modBoot s fun b => { b with bme := true }
  .next (if s.boot.fwWait && mayLoad s then beginLoad s else s)

/-- The SEC_STATUS.boot code of a firmware image: the first check of R396 that fails, or OK. DEDUCED (log 35). -/
def fwCheck (s : State) (b : Bytes) : Nat :=
  let f := fieldLE b
  let reserved := allZero (sliceB b 7 1) && allZero (sliceB b 0xC 4) && allZero (sliceB b 0x18 8) && allZero (sliceB b 0x1D0 48)
    && allZero (sliceB b 0x42E0 32)
  let msg := sliceB b 0 0x200 ++ b.drop 0x4300
  let modulus := sliceB b 0x20 384
  let slhKey := sliceB b 0x1A0 48
  if f 0 4 ≠ 0x4957464F ∨ f 4 2 ≠ 1 ∨ !reserved ∨ b.length ≠ 0x4300 + f 0x10 8 ∨ 2 ^ 26 < b.length then 2
  else if 1 < f 6 1 ∨ (Config.fwKeyHash (f 6 1)).isNone then 3
  else if Config.fwKeyHash (f 6 1) ≠ some (sha384 (modulus ++ slhKey)) then 4
  else if !Config.rsaVerify modulus msg (sliceB b 0x200 384) then 5
  else if !Config.slhVerify slhKey msg (sliceB b 0x380 16224) then 6
  else if f 8 4 < rd s SEC_STATUS_fuse_svn then 7
  else 1

/-- FW_VERIFIED: the checks of the image read end: the supervisor cores start, or the state is BOOT_FAILED (R396, R442). -/
def execFwVerified (image : Bytes) (s : State) : Host.Outcome State Fault Refusal :=
  .next <|
    if !booting s || !(rd s HST_BOOT_state == 2 || rd s HST_BOOT_state == 3) then s
    else
      let b := sliceB image 0 (rd s HST_FW_LEN_len)
      let c := fwCheck s b
      let s := wr s SEC_STATUS_boot c
      if c = 1 then
        let digest := sha384 (sliceB b 0 0x200 ++ b.drop 0x4300)
        setBoot (modBoot (wr s SEC_STATUS_fw_svn (fieldLE b 8 4)) fun x => { x with fwDigest := digest }) 4
      else setBoot s 6

/-- BOOT_READY: firmware, die test, memory and session keys are all done (R443). DEDUCED (log 35). -/
def execBootReady (s : State) : Host.Outcome State Fault Refusal :=
  .next <|
    if booting s && rd s HST_BOOT_state == 4 && rd s SEC_STATUS_boot == 1 && on s HST_DIE_STATUS_test_done && on s HST_BOOT_prep_done
        && on s SEC_STATUS_session_ready then
      if on s REL_STATUS_failed then setBoot s 7 else setBoot { s with readyAt := some s.now } 5
    else s

/-! ### The sideband bus (R461) -/

/-- I3C_ENTRY: the first I3C broadcast: the sideband bus stays in I3C mode until the host die restarts (R461). -/
def execI3cEntry (s : State) : Host.Outcome State Fault Refusal :=
  .next (if booting s then modBoot s fun b => { b with i3c := true } else s)

/-- SMBUS_TIMEOUT: the module releases the bus and abandons the transaction; no message of it has been taken, so nothing else
changes (R461). DEDUCED (log 35). -/
def execSmbusTimeout (s : State) : Host.Outcome State Fault Refusal := .next s

/-- MCTP_TIMEOUT: the message whose packets came too far apart is discarded; nothing of it has been taken (R461). -/
def execMctpTimeout (s : State) : Host.Outcome State Fault Refusal := .next s

/-! ### Host reads and the link (R420, R429) -/

/-- A failed read made for a descriptor counted (R275, R420). -/
def readFailed (s : State) : State := raise (raise s HST_CAUSE_cause 5) HQ_CAUSE_cause 32

/-- Whether a descriptor reads host memory as it starts: a load, an unseal, a substitution with a reload. -/
def Desc.reads (d : Desc) : Bool := d.type == 1 || d.type == 2 || (d.type == 7 && fieldLE d.bytes 0x11 1 == 1)

/-- A descriptor whose own bytes could not be read: free bytes, and DESCRIPTOR in its turn. DEDUCED (log 36). -/
def lostDesc (s : State) (sq off : Nat) : State :=
  let b : Bytes := (List.range 64).map fun i => BitVec.ofNat 8 (Config.freeValue (s.freeCtr + i))
  let d : Desc := ⟨s.submNext, sq, rd s (HQ_SQ_CFG_cq sq), rd s (HQ_SQ_CFG_partition sq), tod s, b, false, false, some (stDescriptor, off)⟩
  let s := wr (takeFree s 64) (HQ_DEPTH_head sq) ((rd s (HQ_DEPTH_head sq) + 1) % sqLen s sq)
  pumpAll { s with descs := s.descs ++ [d], submNext := s.submNext + 1 }

/-- HOST_READ_TIMEOUT: a read of host memory fails: of a firmware image, of the stream that is unsealed, of what the next
descriptor of the queue reads, or of a descriptor (R420, R442). DEDUCED (log 36). -/
def execHostReadTimeout (sq off : Nat) (s : State) : Host.Outcome State Fault Refusal :=
  .next <|
    if booting s && rd s HST_BOOT_state == 2 then setBoot s 1
    else if !isReady s then s
    else
      let streaming := (s.sec.unseals.head?.bind fun u => descOf s u.subm).filter fun d => d.sq == sq
      let starting := (nextDesc s sq).filter fun d => d.reads && (d.refusal s).isNone && mayStart s d
      match streaming, starting with
      | some d, _ => turnStreams (failStream (readFailed s) d stDescriptor off)
      | none, some d => wakeGraphs (finishDesc (readFailed s) d stDescriptor off) d.job
      | none, none => if on s (HQ_SQ_CFG_en sq) && outstanding s sq != 0 then lostDesc (readFailed s) sq off else s

/-- LINK_CHANGE: the PCIe link retrains, or its rate or width changes (R429). DESIGN CHOICE (log 46). -/
def execLinkChange (gen width : Nat) (flit reversed : Bool) (s : State) : Host.Outcome State Fault Refusal :=
  .next <|
    if !booting s then s
    else
      let s := wrs s [(HST_LINK_gen, gen), (HST_LINK_width, width), (HST_LINK_flit, b2n flit), (HST_LINK_reversed, b2n reversed)]
      raise (bump s HST_LINK_retrains 1) HST_CAUSE_cause 6

/-- IDE_FAULT: an IDE stream fails an integrity check and leaves the secure state (R429). -/
def execIdeFault (s : State) : Host.Outcome State Fault Refusal :=
  .next (if booting s then raise (wr s HST_LINK_ide_streams (rd s HST_LINK_ide_streams - 1)) HST_CAUSE_cause 4 else s)

end Sys2Proof.Machine
end

