-- ==== Sys2Proof/Machine/Signing.lean ====
section
/-! DEFINITION. Signatures of the audit chain (13_determinism_and_audit.md, R343, R345). -/

namespace Sys2Proof.Machine

/-- SIGN_NOW: a SIGN record is formed, or deferred while a SIG is pending; the descriptor completes once its SIG is written,
or with AUD_OFF where audit is disabled (R343, R345). DEDUCED (log 38). -/
def execSignNow (sq : Nat) (s : State) : Host.Outcome State Fault Refusal :=
  .next <| match ready s sq 9 with
    | none => s
    | some d =>
      if (Store.get? s.jobs d.job).isNone then finishDesc s d stNoJob 0
      else if !auditOn s d.part then finishDesc s d 0x30 0
      else
        let s := modAud (startDesc s d.subm) d.part fun a => { a with signNow := a.signNow ++ [(d.subm, none)] }
        pumpAll (signDue s d.part)

/-- A SIG put behind the records held, or discarded and counted where it does not fit (R341, R343). -/
def putSig (s : State) (q num : Nat) (b : Bytes) : State :=
  let r := sigRecord s q num b
  let s := takeFree s 1
  if fitsHeld s q r.length then
    let s := raise (bump s (AUD_STATS_signs q) 1) AUD_CAUSE_cause 0
    drainAll (modAud (wr s (AUD_SIGNED_signed_num q) num) q fun a => { a with heldRecs := a.heldRecs ++ [r] }) q
  else raise (bump s (AUD_STATS_overruns q) 1) AUD_CAUSE_cause 1

/-- SIG_WRITTEN: the SIG record of the pending SIGN is appended, the SIGN_NOWs of that SIGN complete, and a deferred SIGN is
formed (R343, R345). DEDUCED (log 38). -/
def execSigWritten (q : Nat) (s : State) : Host.Outcome State Fault Refusal :=
  .next <| match (audOf s q).signing with
    | none => s
    | some (num, b) =>
      let s := putSig s q num b
      let late := (audOf s q).signLate
      let due := (audOf s q).signNow.filter fun p => p.2 == some num
      let s := modAud s q fun a => { a with signing := none, signNow := a.signNow.filter fun p => p.2 != some num }
      let s := due.foldl (fun s p => complete s p.1 stOk num) s
      pumpAll (if late then formSign s q else s)

end Sys2Proof.Machine
end

