-- ==== Sys2Proof/Machine/HostRegs.lean ====
section
/-! DEFINITION. Host accesses: register writes and reads, cause registers, refused accesses, the BAR4 window
(00_scope.md, R5 to R11; 02, R41; 07, R202; 16, R411; 17, R421, R424 to R429). -/

namespace Sys2Proof.Machine

/-! ### Plain register writes (R8, R9, R411) -/

/-- Whether the partition of a virtual function may write a register that has no command of its own (R411). -/
def vfWrites (s : State) (q off w : Nat) : Bool :=
  if 0x40000 ≤ off ∧ off < 0x40400 then
    let k := (off - 0x40000) / 0x40
    if off % 0x40 < 0x18 then rd s (HQ_SQ_CFG_partition k) == q else cqBelongs s k q
  else if 0x50000 ≤ off ∧ off < 0x50600 then ownsPort s q ((off - 0x50000) / 0x80)
  else if 0x51000 ≤ off ∧ off < 0x55000 then ownsPort s q (rd s (NET_ASSOC_CFG_port ((off - 0x51000) / 0x20)))
  else if 0x70000 ≤ off ∧ off < 0x70020 then ownsGrd s q
  else if 0x80000 ≤ off ∧ off < 0x80400 then (off - 0x80000) / 0x80 == q
  else if 0x90600 ≤ off ∧ off < 0x90680 then (off - 0x90600) / 0x10 == q
  else if off = SEC_MSA_SEL then ownsPort s q (w % 2 ^ 4)
  else if 0xC0800 ≤ off ∧ off ≤ 0xC0848 then ownsPort s q (rd s SEC_MSA_SEL_port)
  else false

/-- Whether a write of a value to a field is dropped, or leaves it at its value, in the state the module is in: queues and
associations in use (R251, R305), a port's mode (R304), armed engines (R308), an audited chain (R346), maps and wear under a
loaded image (R374), the mask of group 3 (R432), values that a description reserves (R9). DEDUCED (log 36). -/
def fieldLocked (s : State) (f : Fld) (v : Nat) : Bool :=
  let o := f.off
  if 0x40000 ≤ o ∧ o < 0x40400 then
    let k := (o - 0x40000) / 0x40
    if o = HQ_SQ_BASE k then on s (HQ_SQ_CFG_en k) else if o = HQ_CQ_BASE k then on s (HQ_CQ_CFG_en k) else false
  else if 0x50000 ≤ o ∧ o < 0x50600 then
    let p := (o - 0x50000) / 0x80
    f == NET_PORT_CFG_mode p && (on s (NET_PORT_CFG_en p) || v == 3)
  else if 0x51000 ≤ o ∧ o < 0x55000 then
    let a := (o - 0x51000) / 0x20
    (f == NET_ASSOC_IP_HI_ip_hi a || f == NET_ASSOC_IP_LO_ip_lo a) && on s (NET_ASSOC_CFG_valid a)
  else if o = GRD_TABLE ∨ o = GRD_RING ∨ o = GRD_RING_OFF then on s GRD_JOB_en
  else if 0x80000 ≤ o ∧ o < 0x80400 then
    let q := (o - 0x80000) / 0x80
    auditOn s q && (o == AUD_NEXT_NUM q || o == AUD_HEAD_NUM q || (decide (AUD_HEAD_HASH q 0 ≤ o) && decide (o ≤ AUD_HEAD_HASH q 5)))
  else if 0x90100 ≤ o ∧ o < 0x90600 then
    !s.jobs.isEmpty && (decide (o < 0x90500) || f.lo != (REL_STACK_WEAR_faults 0).lo)
  else if 0x1000000 ≤ o ∧ 0xB00 ≤ o % 0x10000 ∧ o % 0x10000 < 0xD00 then
    !s.jobs.isEmpty && f != REL_WEAR_faults ((o - 0x1000000) / 0x10000)
  else o == CTL_IRQ_GRP_MASK 3

/-- Whether a write-only field holds what is written to it until another write uses it: keys and salts (R414, R415). -/
def Fld.staged (f : Fld) : Bool :=
  f.acc == .wo && ((decide (0xC0808 ≤ f.off) && decide (f.off ≤ 0xC0838)) || (decide (0xC0900 ≤ f.off) && decide (f.off ≤ 0xC0918)))

/-- A 64-bit value written to a register whose fields have no behaviour of their own: RW fields take their bits (R8, R9);
clearing the enable of a pair link takes it down (R303); the spares of a tile give its shadow width (R122).
DESIGN CHOICE (log 10, 39, 42). -/
def plainWrite (s : State) (off w : Nat) : State :=
  let t := (off - 0x1000000) / 0x10000
  let ended : State → State := fun s => if 0x1000000 ≤ off ∧ off = REL_DPU t ∧ t < s.part.tiles then syncShadow s t else s
  let fs := (fieldsAt s.part off).filter fun f => f.acc == .rw || f.staged
  let s' := fs.foldl (fun t f =>
    let v := w / 2 ^ f.lo % 2 ^ f.w
    if fieldLocked s f v then t else wr t f v) s
  ended <| [0, 1].foldl (fun t l =>
    if off = NET_PAIR_CFG l ∧ on t (NET_PAIR_STATUS_up l) ∧ !on t (NET_PAIR_CFG_en l) then dropPair t l else t) s'

/-! ### Cause registers (R10, R11, R424) -/

/-- A record released as the cause that holds it is cleared. -/
def releaseIf (s : State) (b : Bool) (l : List (Fld × Nat)) : State := if b then wrs s l else s

/-- The records that the clearing of cause bits releases (R142, R202, R226, R229, R249, R306, R328, R371, R429; TIM_XOVR_INFO).
DEDUCED (log 36). -/
def releaseRecords (s : State) (off cleared : Nat) : State :=
  let c := bitOf cleared
  if 0x1000000 ≤ off then
    let t := (off - 0x1000000) / 0x10000
    let s := releaseIf s (c 0) [(TIL_ERR_valid t, 0)]
    if c 5 then releaseStall s t else s
  else if off = CTL_DISP_CAUSE then releaseIf s (c 0) [(SYN_STALE_INFO_valid, 0)]
  else if off = NET_SPU_CAUSE then releaseIf s (c (rd s NET_SPU_ERR_INFO_reason + 1)) [(NET_SPU_ERR_INFO_valid, 0)]
  else if off = TIM_CAUSE then
    releaseIf s (c 9 || c 10) [(TIM_XOVR_INFO_tile, 0), (TIM_XOVR_INFO_link, 0), (TIM_XOVR_INFO_underrun, 0), (TIM_XOVR_INFO_overrun, 0),
      (TIM_XOVR_INFO_window, 0)]
  else if off = NET_CAUSE then
    releaseIf s ((c 8 && rd s NET_COLL_ERR_cause == 1) || (c 7 && rd s NET_COLL_ERR_cause == 2))
      [(NET_COLL_ERR_cause, 0), (NET_COLL_ERR_valid, 0)]
  else if off = GRD_CAUSE then
    let k := rd s GRD_ERR_cause
    releaseIf s ((c 0 && decide (1 ≤ k) && decide (k ≤ 3)) || (c 1 && k == 4) || (c 2 && k == 5)) [(GRD_ERR_cause, 0), (GRD_ERR_valid, 0)]
  else if off = DBL_CAUSE then releaseIf s (c 5) [(DBL_SPLIT_INFO_valid, 0)]
  else if off = HST_CAUSE then
    let s := releaseIf s (c 0 || c 3) [(HST_BAR0_LOG_valid, 0)]
    releaseIf s (if on s HST_BAR4_LOG_sealed then c 2 else c 1) [(HST_BAR4_LOG_valid, 0)]
  else s

/-- The bits of a cause register that a function may clear: all through the physical function, of HQ_CAUSE those of its own
CQs through a virtual one (R411, R424). -/
def clearable (s : State) (fn off : Nat) : Nat :=
  if fn = 0 then 2 ^ 64 - 1 else if off = HQ_CAUSE then cqBits s (fn - 1) else 0

/-- A write of ones to a W1C register: the bits written clear, but for those whose event falls in the same clock, and the
records they hold are released (R8, R10). DEDUCED (log 53). -/
def clearCause (s : State) (fn off v coincident : Nat) : State :=
  match (fieldsAt s.part off).find? (·.acc == .w1c) with
  | none => s
  | some f =>
    let old := rd s f
    let mask := v &&& clearable s fn off
    let cleared := old &&& mask &&& ((2 ^ 64 - 1) ^^^ coincident)
    releaseRecords (wr s f ((old ^^^ (old &&& mask)) ||| coincident)) off cleared

/-- CAUSE_CLEAR: a write of a W1C cause register (R8, R10, R424). -/
def execCauseClear (fn off : Nat) (v coincident : Word64) (s : State) : Host.Outcome State Fault Refusal :=
  .next (if fnUp s fn then clearCause s fn off v.toNat coincident.toNat else s)

/-! ### Reads (R8, R11, R41) -/

/-- Whether a read through a function reaches the register, so that its RC fields clear. -/
def readReaches (s : State) (fn off : Nat) : Bool :=
  fnUp s fn && (fn == 0 || vfReads s (fn - 1) off || off == PWR_BUBBLES (fn - 1))

/-- Whether a field is one of TIM_XFILL, which a read resets to the fill at the read (R54). -/
def Fld.isFill (f : Fld) : Bool := decide (0x1000000 ≤ f.off) && f.off % 0x10000 == 0x208

/-- The fill of the crossing buffer that a TIM_XFILL field tells of, at present; 4, its reset value, on a link that is absent or not
enabled: DESIGN CHOICE (log 58). -/
def fillOf (s : State) (f : Fld) : Nat :=
  let t := (f.off - 0x1000000) / 0x10000
  match neighbourTile t (f.lo / 16) with
  | some w => if linkEnabled s t (f.lo / 16) then fillNow s t w else 4
  | none => 4

/-- What a read leaves in an RC field when an event of amount `e` falls in its clock, or none does: a counter what the event adds
to 0; a lowest or highest fill that of the present and the event's (R11, R12, R54). -/
def keptAfter (s : State) (f : Fld) (hit : Bool) (e : Nat) : Nat :=
  if f.isFill then
    let now := fillOf s f
    if !hit then now else if f.lo % 16 = 0 then min now e else max now e
  else if hit then e else 0

/-- The RC fields of a register cleared by a read; the events of the same clock are kept: `hits` has the lowest bit of each
field one falls in, `amounts` each event at its field's place (R11, R12). DEDUCED (log 53). -/
def clearRead (s : State) (off hits amounts : Nat) : State :=
  ((fieldsAt s.part off).filter (·.acc == .rc)).foldl (fun t f =>
    wr t f (keptAfter s f (bitOf hits f.lo) (amounts / 2 ^ f.lo % 2 ^ f.w))) s

/-- TIM_WIN_TOD latched by a read of TIM_WINDOW (R41). -/
def latchWindow (s : State) : State := wr s TIM_WIN_TOD_win_tod s.time.winTod

/-- READ_CLEAR: a read of a register: its value is given out, then its RC fields clear (R8, R11); a field that is undefined
until the die test is done gives a fresh free value (R16). DEDUCED (log 36); DESIGN CHOICE (log 47). -/
def execReadClear (fn off : Nat) (hits amounts : Word64) (s : State) : Host.Outcome State Fault Refusal :=
  .next <|
    if off % 8 ≠ 0 then s
    else
      let t := answerRead s fn (readReg s fn off)
      if !readReaches s fn off then t
      else if off = HST_DIE_STATUS then takeFree t 1
      else if off = TIM_WINDOW then latchWindow t
      else clearRead t off hits.toNat amounts.toNat

/-- TIM_WINDOW_READ: a read of TIM_WINDOW latches the start of the window it returns (R41). -/
def execTimWindowRead (fn : Nat) (s : State) : Host.Outcome State Fault Refusal :=
  let t := answerRead s fn (readReg s fn TIM_WINDOW)
  .next (if fnUp s fn then latchWindow t else t)

/-! ### Refused accesses (R5, R425, R426) -/

/-- A narrow or misaligned access through BAR0 or BAR2: all-ones for a read, nothing for a write; recorded. -/
def refuseAccess (s : State) (fn off size : Nat) (bar2 write : Bool) : State :=
  let t := if write then s
    else if (fnOf s fn).d3 || s.boot.held then emitOut s .ur
    else emitOut s (.readData (2 ^ (8 * size) - 1))
  if fnUp s fn then logBad t off bar2 write (Nat.log2 size) fn 0 else t

/-- BAR0_BAD_ACCESS: an access that is not an aligned 64-bit one (R5). -/
def execBar0BadAccess (fn off size : Nat) (write : Bool) (s : State) : Host.Outcome State Fault Refusal :=
  .next (if size = 8 ∧ off % 8 = 0 then s else refuseAccess s fn off size false write)

/-- BAR2_BAD_ACCESS: an access that is neither an aligned 32-bit nor an aligned 64-bit one (R425). -/
def execBar2BadAccess (fn off size : Nat) (write : Bool) (s : State) : Host.Outcome State Fault Refusal :=
  .next (if (size = 8 ∧ off % 8 = 0) ∨ (size = 4 ∧ off % 4 = 0) then s else refuseAccess s fn off size true write)

/-! ### The BAR4 window (R21, R188, R202, R427, R428, R441) -/

/-- The window base of a function (R427). -/
def bar4Base (s : State) (fn : Nat) : Nat :=
  2 ^ 30 * (if fn = 0 then rd s HST_BAR4_BASE_base else rd s (HST_VF_BAR4_BASE_base (fn - 1)))

/-- Whether every byte of a span holds memory that a function's window reaches: a virtual function's only its partition's
(R21, R427). -/
def bar4Reaches (s : State) (fn a n : Nat) : Bool :=
  decide (a + n ≤ 2 ^ 48) && (rangeFrom a n).all (fun b => placeOf s b != .nothing) && (fn == 0 || partOwns s (fn - 1) a n)

/-- A refused BAR4 access recorded, the first kept, and its cause raised (R202, R427). -/
def logBar4 (s : State) (a : Nat) (write : Bool) (sealer : Option Nat) : State :=
  let s := if on s HST_BAR4_LOG_valid then s else
    wrs s [(HST_BAR4_LOG_addr, a), (HST_BAR4_LOG_write, b2n write), (HST_BAR4_LOG_sealed, b2n sealer.isSome),
      (HST_BAR4_LOG_partition, sealer.getD 0), (HST_BAR4_LOG_valid, 1)]
  raise s HST_CAUSE_cause (if sealer.isSome then 2 else 1)

/-- The partition of the job whose sealed region a span meets (R188, R202). -/
def sealOwner (s : State) (a n : Nat) : Option Nat :=
  (sealedOver s a n).head?.map fun j => ((Store.get? s.jobs j).map (·.part)).getD 0

/-- The number of bytes of an access. -/
def bar4Len : Bar4Op → Nat
  | .read n => n
  | .write b => b.length

/-- Whether an access is a write. -/
def bar4IsWrite : Bar4Op → Bool
  | .read _ => false
  | .write _ => true

/-- A refused read answered with all-ones; a refused write is dropped. -/
def bar4Refused (s : State) : Bar4Op → State
  | .read n => emitOut s (.readBytes (List.replicate n 0xFF))
  | .write _ => s

/-- BAR4_ACCESS: a host access to module memory at the window base plus the offset (R427); refused without memory, in a sealed
region, or before memory is prepared, which is not logged (R21, R188, R202, R441). DEDUCED (log 36). -/
def execBar4Access (fn off : Nat) (op : Bar4Op) (s : State) : Host.Outcome State Fault Refusal :=
  let a := bar4Base s fn + off
  let n := bar4Len op
  .next <|
    if 2 ^ 36 < off + n then s
    else if (fnOf s fn).d3 || s.boot.held then (if bar4IsWrite op then s else emitOut s .ur)
    else if !fnUp s fn then bar4Refused s op
    else if !on s HST_BOOT_prep_done then raise (bar4Refused s op) HST_CAUSE_cause 1
    else if !bar4Reaches s fn a n then logBar4 (bar4Refused s op) (a % 2 ^ 48) (bar4IsWrite op) none
    else match sealOwner s a n, op with
      | some q, _ => logBar4 (bar4Refused s op) a (bar4IsWrite op) (some q)
      | none, .read n => emitOut s (.readBytes (readBytes s a n))
      | none, .write b => noteOther (writeMasked s a b) a n

/-- BAR4_BASE_WRITE: a write of HST_BAR4_BASE or HST_VF_BAR4_BASE through the physical function (R427, R428). -/
def execBar4BaseWrite (fn off : Nat) (v : Word64) (s : State) : Host.Outcome State Fault Refusal :=
  let base := v.toNat / 2 ^ 30
  .next <|
    if !fnPhys s fn then s
    else if off = HST_BAR4_BASE then wr s HST_BAR4_BASE_base base
    else if 0x100 ≤ off ∧ off < 0x140 ∧ off % 8 = 0 then wr s (HST_VF_BAR4_BASE_base ((off - 0x100) / 8)) base
    else s

/-! ### Register writes (R8, R9) -/

/-- A write of HST_RESET_CTL: the widest class set acts (R438). -/
def writeResetCtl (fn w : Nat) (s : State) : Host.Outcome State Fault Refusal :=
  if bitOf w 0 ∧ fn = 0 then execModuleReset fn s
  else if bitOf w 1 then execPartitionReset fn (bitsOf w 8 3) s
  else if bitOf w 2 then execJobReset fn (bitsOf w 16 16) s
  else .next s

/-- A write of TIM_ADJ: phase and rate as their valid bits say, and the PTP mark once (R34, R35). DESIGN CHOICE (log 10). -/
def writeTimAdj (fn w : Nat) (s : State) : Host.Outcome State Fault Refusal :=
  let mark := bitOf w 61
  let phase := BitVec.ofNat 32 w
  let rate := BitVec.ofNat 24 (w / 2 ^ 32)
  if bitOf w 63 then
    (if bitOf w 62 then
      match execTimAdjPhase fn phase false s with
      | .next t => execTimAdjRate fn rate mark t
      | o => o
    else execTimAdjPhase fn phase mark s)
  else if bitOf w 62 then execTimAdjRate fn rate mark s
  else .next (if fnPhys s fn then ptpMark s mark else s)

/-- A write of SEC_MSA_CTL: the association selected is installed or deleted, or the window alone is written (R414).
DESIGN CHOICE (log 10). -/
def writeMsaCtl (fn : Nat) (v : Word64) (s : State) : Host.Outcome State Fault Refusal :=
  if bitOf v.toNat 1 then execMsaDelete fn v s
  else if bitOf v.toNat 0 then execMsaInstall fn v s
  else .next (if fnMsa s fn then wr s SEC_MSA_CTL_replay_window (v.toNat / 2 ^ 4) else s)

/-- A write of DBL_CTL (R371). -/
def writeDblCtl (fn w : Nat) (s : State) : Host.Outcome State Fault Refusal :=
  if w % 4 = 1 then execDblResume fn s
  else if w % 4 = 2 then execDblKeep fn s
  else if w % 4 = 3 then execDblLeave fn s
  else .next s

/-- The effect of a write of a register that acts beyond its fields; none for every other register.
DESIGN CHOICE (log 10). -/
def actingWrite (fn off : Nat) (v : Word64) (s : State) : Option (Host.Outcome State Fault Refusal) :=
  let w := v.toNat
  if off = TIM_TOD_SET then some (execTimTodSet fn v s)
  else if off = TIM_ADJ then some (writeTimAdj fn w s)
  else if off = TIM_SRC_CFG then some (execTimeSourceConfig fn v s)
  else if off = TIM_FREQ_CTL then some (execFreqTargetWrite fn (BitVec.ofNat 2 w) s)
  else if 0x60100 ≤ off ∧ off < 0x60200 then some (execLksRegisterWrite fn off v s)
  else if 0x90600 ≤ off ∧ off < 0x90680 ∧ off % 0x10 = 8 then some (execUndoLogEnable fn ((off - 0x90600) / 0x10) v s)
  else if off = REL_MAP_CTL then some (if bitOf w 0 then execMapCommit fn s else .next s)
  else if off = HST_BAR4_BASE ∨ (0x100 ≤ off ∧ off < 0x140) then some (execBar4BaseWrite fn off v s)
  else if (hqCfgAt off).isSome then some (if bitOf w 5 then execQueueEnable fn off v s else execQueueDisable fn off v s)
  else if 0x51000 ≤ off ∧ off < 0x55000 ∧ off % 0x20 = 0x10 then some (execAssocWrite fn ((off - 0x51000) / 0x20) v s)
  else if off = GRD_JOB then some (if bitOf w 16 then execGrdArm fn v s else execGrdDisarm fn v s)
  else if 0x80000 ≤ off ∧ off < 0x80400 ∧ off % 0x80 = 0 then some (execAuditEnable fn ((off - 0x80000) / 0x80) v s)
  else if 0x80000 ≤ off ∧ off < 0x80400 ∧ off % 0x80 = 0x20 then some (execLogHeadAdvance fn ((off - 0x80000) / 0x80) v s)
  else if off = DBL_CFG then some (execDoublesEnable fn v s)
  else if off = DBL_CTL then some (writeDblCtl fn w s)
  else if off = CTL_IRQ_CTL then some (execIrqRearm fn v s)
  else if off = SEC_SVN_CTL then some (execSvnRaise fn (BitVec.ofNat 8 w) s)
  else if off = SEC_PART_CTL then some (if bitOf w 0 then execPartitionCommit fn s else .next s)
  else if off = SEC_KEY_CTL then some (execKeySlotClear fn v s)
  else if off = SEC_MSA_CTL then some (writeMsaCtl fn v s)
  else if off = SEC_PAIR_CTL then some (if bitOf w 0 then execPairKeySet fn s else .next s)
  else if off = HST_RESET_CTL then some (writeResetCtl fn w s)
  else if off = HST_FW_CTL then some (if bitOf w 0 then execFwLoad fn s else .next s)
  else none

/-- REGISTER_WRITE: an aligned 64-bit write of a register: the write acts as the register's own rule gives, W1C bits clear, RW
fields take their bits and every other field ignores them; a function's rights are those of R411 (R6, R8, R9).
DESIGN CHOICE (log 10). -/
def execRegisterWrite (fn off : Nat) (v : Word64) (s : State) : Host.Outcome State Fault Refusal :=
  if !fnUp s fn ∨ off % 8 ≠ 0 then .next s
  else match actingWrite fn off v s with
    | some o => o
    | none =>
      .next <|
        if (fieldsAt s.part off).any (·.acc == .w1c) then clearCause s fn off v.toNat 0
        else if fn = 0 ∨ vfWrites s (fn - 1) off v.toNat then plainWrite s off v.toNat
        else s

end Sys2Proof.Machine
end

