-- ==== Sys2Proof/Machine/Dispatch.lean ====
section
/-! DEFINITION. The effect of a command on everything but the queue: one arm per constructor, each one direct call of
its meaning. -/

namespace Sys2Proof.Machine

def exec (i : Instr) (s : State) : Host.Outcome State Fault Refusal :=
  match i with
  | .registerWrite fn off v => Sys2Proof.Machine.execRegisterWrite fn off v s
  | .causeClear fn off v coincident => Sys2Proof.Machine.execCauseClear fn off v coincident s
  | .readClear fn off hits amounts => Sys2Proof.Machine.execReadClear fn off hits amounts s
  | .bar0BadAccess fn off size write => Sys2Proof.Machine.execBar0BadAccess fn off size write s
  | .bar2BadAccess fn off size write => Sys2Proof.Machine.execBar2BadAccess fn off size write s
  | .bar4Access fn off op => Sys2Proof.Machine.execBar4Access fn off op s
  | .bar4BaseWrite fn off v => Sys2Proof.Machine.execBar4BaseWrite fn off v s
  | .timWindowRead fn => Sys2Proof.Machine.execTimWindowRead fn s
  | .timTodSet fn v => Sys2Proof.Machine.execTimTodSet fn v s
  | .timAdjPhase fn phase mark => Sys2Proof.Machine.execTimAdjPhase fn phase mark s
  | .timAdjRate fn rate mark => Sys2Proof.Machine.execTimAdjRate fn rate mark s
  | .timeSourceConfig fn v => Sys2Proof.Machine.execTimeSourceConfig fn v s
  | .refLost => Sys2Proof.Machine.execRefLost s
  | .refRestored => Sys2Proof.Machine.execRefRestored s
  | .ppsEdge falling widthNs => Sys2Proof.Machine.execPpsEdge falling widthNs s
  | .ppsHoldover => Sys2Proof.Machine.execPpsHoldover s
  | .ptpLost => Sys2Proof.Machine.execPtpLost s
  | .ppsOutAssert => Sys2Proof.Machine.execPpsOutAssert s
  | .ppsOutRelease => Sys2Proof.Machine.execPpsOutRelease s
  | .startBell q => Sys2Proof.Machine.execStartBell q s
  | .markBell q m => Sys2Proof.Machine.execMarkBell q m s
  | .bellAct q m => Sys2Proof.Machine.execBellAct q m s
  | .deadlineBell req => Sys2Proof.Machine.execDeadlineBell req s
  | .kickoff run => Sys2Proof.Machine.execKickoff run s
  | .taskStart run task => Sys2Proof.Machine.execTaskStart run task s
  | .windowEnd => Sys2Proof.Machine.execWindowEnd s
  | .droopStretch t => Sys2Proof.Machine.execDroopStretch t s
  | .timingMarginFault t => Sys2Proof.Machine.execTimingMarginFault t s
  | .xovr t link overrun => Sys2Proof.Machine.execXovr t link overrun s
  | .rollCallFail t link => Sys2Proof.Machine.execRollCallFail t link s
  | .rollCallDone offsets => Sys2Proof.Machine.execRollCallDone offsets s
  | .freqTargetWrite fn target => Sys2Proof.Machine.execFreqTargetWrite fn target s
  | .pllRelock => Sys2Proof.Machine.execPllRelock s
  | .relockDone => Sys2Proof.Machine.execRelockDone s
  | .nop t slot => Sys2Proof.Machine.execNop t slot s
  | .setlim t c limit => Sys2Proof.Machine.execSetlim t c limit s
  | .loop t c endPc => Sys2Proof.Machine.execLoop t c endPc s
  | .jump t target => Sys2Proof.Machine.execJump t target s
  | .brc t k sense target => Sys2Proof.Machine.execBrc t k sense target s
  | .setcmp t k c cond imm => Sys2Proof.Machine.execSetcmp t k c cond imm s
  | .waitbell t mark => Sys2Proof.Machine.execWaitbell t mark s
  | .waittick t tick => Sys2Proof.Machine.execWaittick t tick s
  | .waittickRelease t => Sys2Proof.Machine.execWaittickRelease t s
  | .hint t level lead length => Sys2Proof.Machine.execHint t level lead length s
  | .refr t rowGroup => Sys2Proof.Machine.execRefr t rowGroup s
  | .fence t slots lp => Sys2Proof.Machine.execFence t slots lp s
  | .fenceRelease t tick => Sys2Proof.Machine.execFenceRelease t tick s
  | .digest t layer => Sys2Proof.Machine.execDigest t layer s
  | .trap t code => Sys2Proof.Machine.execTrap t code s
  | .halt t code => Sys2Proof.Machine.execHalt t code s
  | .tileComplete t => Sys2Proof.Machine.execTileComplete t s
  | .mma o => Sys2Proof.Machine.execMma o s
  | .wload o => Sys2Proof.Machine.execWload o s
  | .emit o => Sys2Proof.Machine.execEmit o s
  | .azero o => Sys2Proof.Machine.execAzero o s
  | .anchor o => Sys2Proof.Machine.execAnchor o s
  | .vchain t chain src sdesc soff ddesc doff => Sys2Proof.Machine.execVchain t chain src sdesc soff ddesc doff s
  | .vpop t => Sys2Proof.Machine.execVpop t s
  | .vldk t k sdesc soff => Sys2Proof.Machine.execVldk t k sdesc soff s
  | .add a => Sys2Proof.Machine.execAdd a s
  | .sub a => Sys2Proof.Machine.execSub a s
  | .and a => Sys2Proof.Machine.execAnd a s
  | .or a => Sys2Proof.Machine.execOr a s
  | .xor a => Sys2Proof.Machine.execXor a s
  | .addi a => Sys2Proof.Machine.execAddi a s
  | .andi a => Sys2Proof.Machine.execAndi a s
  | .ori a => Sys2Proof.Machine.execOri a s
  | .xori a => Sys2Proof.Machine.execXori a s
  | .lih a => Sys2Proof.Machine.execLih a s
  | .min a => Sys2Proof.Machine.execMin a s
  | .max a => Sys2Proof.Machine.execMax a s
  | .minu a => Sys2Proof.Machine.execMinu a s
  | .maxu a => Sys2Proof.Machine.execMaxu a s
  | .aidx a => Sys2Proof.Machine.execAidx a s
  | .mul a => Sys2Proof.Machine.execMul a s
  | .mulhu a => Sys2Proof.Machine.execMulhu a s
  | .mulhs a => Sys2Proof.Machine.execMulhs a s
  | .clmul a => Sys2Proof.Machine.execClmul a s
  | .muli a => Sys2Proof.Machine.execMuli a s
  | .sll a => Sys2Proof.Machine.execSll a s
  | .srl a => Sys2Proof.Machine.execSrl a s
  | .sra a => Sys2Proof.Machine.execSra a s
  | .rotr a => Sys2Proof.Machine.execRotr a s
  | .sel a => Sys2Proof.Machine.execSel a s
  | .slt a => Sys2Proof.Machine.execSlt a s
  | .sltu a => Sys2Proof.Machine.execSltu a s
  | .ext a => Sys2Proof.Machine.execExt a s
  | .ld8 a => Sys2Proof.Machine.execLd8 a s
  | .ld16 a => Sys2Proof.Machine.execLd16 a s
  | .ld32 a => Sys2Proof.Machine.execLd32 a s
  | .ld64 a => Sys2Proof.Machine.execLd64 a s
  | .ld8s a => Sys2Proof.Machine.execLd8s a s
  | .ld16s a => Sys2Proof.Machine.execLd16s a s
  | .ld32s a => Sys2Proof.Machine.execLd32s a s
  | .st8 a => Sys2Proof.Machine.execSt8 a s
  | .st16 a => Sys2Proof.Machine.execSt16 a s
  | .st32 a => Sys2Proof.Machine.execSt32 a s
  | .st64 a => Sys2Proof.Machine.execSt64 a s
  | .gld32 a => Sys2Proof.Machine.execGld32 a s
  | .gld64 a => Sys2Proof.Machine.execGld64 a s
  | .gst32 a => Sys2Proof.Machine.execGst32 a s
  | .gst64 a => Sys2Proof.Machine.execGst64 a s
  | .lkfetch a => Sys2Proof.Machine.execLkfetch a s
  | .lkstore a => Sys2Proof.Machine.execLkstore a s
  | .lkappend a => Sys2Proof.Machine.execLkappend a s
  | .lockerOpDone hub => Sys2Proof.Machine.execLockerOpDone hub s
  | .decf a => Sys2Proof.Machine.execDecf a s
  | .deca a => Sys2Proof.Machine.execDeca a s
  | .hash a => Sys2Proof.Machine.execHash a s
  | .peq a => Sys2Proof.Machine.execPeq a s
  | .pne a => Sys2Proof.Machine.execPne a s
  | .plt a => Sys2Proof.Machine.execPlt a s
  | .pltu a => Sys2Proof.Machine.execPltu a s
  | .pge a => Sys2Proof.Machine.execPge a s
  | .pgeu a => Sys2Proof.Machine.execPgeu a s
  | .peqi a => Sys2Proof.Machine.execPeqi a s
  | .plti a => Sys2Proof.Machine.execPlti a s
  | .pand a => Sys2Proof.Machine.execPand a s
  | .por a => Sys2Proof.Machine.execPor a s
  | .pxor a => Sys2Proof.Machine.execPxor a s
  | .pany a => Sys2Proof.Machine.execPany a s
  | .pall a => Sys2Proof.Machine.execPall a s
  | .route a => Sys2Proof.Machine.execRoute a s
  | .lpass t eng tmpl ctr => Sys2Proof.Machine.execLpass t eng tmpl ctr s
  | .lpassReport t eng => Sys2Proof.Machine.execLpassReport t eng s
  | .xferRange t eng => Sys2Proof.Machine.execXferRange t eng s
  | .spass t sdesc soff ddesc doff len => Sys2Proof.Machine.execSpass t sdesc soff ddesc doff len s
  | .fill t ddesc doff lines byte => Sys2Proof.Machine.execFill t ddesc doff lines byte s
  | .copy t sdesc soff ddesc doff lines => Sys2Proof.Machine.execCopy t sdesc soff ddesc doff lines s
  | .dload t mdesc moff sdesc soff lines => Sys2Proof.Machine.execDload t mdesc moff sdesc soff lines s
  | .dstore t mdesc moff sdesc soff lines => Sys2Proof.Machine.execDstore t mdesc moff sdesc soff lines s
  | .sinc t ctr amt => Sys2Proof.Machine.execSinc t ctr amt s
  | .swait t ctr consume => Sys2Proof.Machine.execSwait t ctr consume s
  | .counterIncrement src ctr => Sys2Proof.Machine.execCounterIncrement src ctr s
  | .swaitRelease t u => Sys2Proof.Machine.execSwaitRelease t u s
  | .csend t ep sdesc soff => Sys2Proof.Machine.execCsend t ep sdesc soff s
  | .crecv t q ddesc doff => Sys2Proof.Machine.execCrecv t q ddesc doff s
  | .qopen t q => Sys2Proof.Machine.execQopen t q s
  | .qclose t q => Sys2Proof.Machine.execQclose t q s
  | .lineArrival t ep => Sys2Proof.Machine.execLineArrival t ep s
  | .creditReturn t ep => Sys2Proof.Machine.execCreditReturn t ep s
  | .queueToken t ep => Sys2Proof.Machine.execQueueToken t ep s
  | .fabricDiscard item => Sys2Proof.Machine.execFabricDiscard item s
  | .watchdog tiles => Sys2Proof.Machine.execWatchdog tiles s
  | .jobStop job => Sys2Proof.Machine.execJobStop job s
  | .runAbortComplete run => Sys2Proof.Machine.execRunAbortComplete run s
  | .hardwareFault code tile idx => Sys2Proof.Machine.execHardwareFault code tile idx s
  | .retakePrepare run => Sys2Proof.Machine.execRetakePrepare run s
  | .retake run attempt fault => Sys2Proof.Machine.execRetake run attempt fault s
  | .refreshLate t rowGroup => Sys2Proof.Machine.execRefreshLate t rowGroup s
  | .controllerRefresh t rowGroup => Sys2Proof.Machine.execControllerRefresh t rowGroup s
  | .patrolScrub addr uncorrectable deviceLost passEnd => Sys2Proof.Machine.execPatrolScrub addr uncorrectable deviceLost passEnd s
  | .lksRegisterWrite fn off v => Sys2Proof.Machine.execLksRegisterWrite fn off v s
  | .routeEntry t => Sys2Proof.Machine.execRouteEntry t s
  | .fillBell plan => Sys2Proof.Machine.execFillBell plan s
  | .spuFillDone => Sys2Proof.Machine.execSpuFillDone s
  | .descriptorFetch sq bytes => Sys2Proof.Machine.execDescriptorFetch sq bytes s
  | .loadImage sq image tileMap => Sys2Proof.Machine.execLoadImage sq image tileMap s
  | .unseal sq blob header => Sys2Proof.Machine.execUnseal sq blob header s
  | .unsealComplete stream => Sys2Proof.Machine.execUnsealComplete stream s
  | .runGraph sq => Sys2Proof.Machine.execRunGraph sq s
  | .bindPeriod sq => Sys2Proof.Machine.execBindPeriod sq s
  | .unbindPeriod sq => Sys2Proof.Machine.execUnbindPeriod sq s
  | .setStep sq => Sys2Proof.Machine.execSetStep sq s
  | .setFallback sq => Sys2Proof.Machine.execSetFallback sq s
  | .substitute sq imageDigest => Sys2Proof.Machine.execSubstitute sq imageDigest s
  | .scrub sq => Sys2Proof.Machine.execScrub sq s
  | .signNow sq => Sys2Proof.Machine.execSignNow sq s
  | .unload sq => Sys2Proof.Machine.execUnload sq s
  | .hqSqDb fn q v => Sys2Proof.Machine.execHqSqDb fn q v s
  | .hqCqDb fn q v => Sys2Proof.Machine.execHqCqDb fn q v s
  | .queueEnable fn off v => Sys2Proof.Machine.execQueueEnable fn off v s
  | .queueDisable fn off v => Sys2Proof.Machine.execQueueDisable fn off v s
  | .mapCommit fn => Sys2Proof.Machine.execMapCommit fn s
  | .frameReceive port sub frame fecCorrected fecUncorrected => Sys2Proof.Machine.execFrameReceive port sub frame fecCorrected fecUncorrected s
  | .ptpMessage port sub k => Sys2Proof.Machine.execPtpMessage port sub k s
  | .req assoc msg => Sys2Proof.Machine.execReq assoc msg s
  | .coll assoc msg => Sys2Proof.Machine.execColl assoc msg s
  | .miobelHello assoc msg => Sys2Proof.Machine.execMiobelHello assoc msg s
  | .ack assoc msg => Sys2Proof.Machine.execAck assoc msg s
  | .ackTimer assoc => Sys2Proof.Machine.execAckTimer assoc s
  | .collRetransmit assoc seq => Sys2Proof.Machine.execCollRetransmit assoc seq s
  | .linkDown port sub => Sys2Proof.Machine.execLinkDown port sub s
  | .linkUp port sub => Sys2Proof.Machine.execLinkUp port sub s
  | .assocWrite fn a v => Sys2Proof.Machine.execAssocWrite fn a v s
  | .seatPeriod q n => Sys2Proof.Machine.execSeatPeriod q n s
  | .replyScan q => Sys2Proof.Machine.execReplyScan q s
  | .pairFrame link header sealed => Sys2Proof.Machine.execPairFrame link header sealed s
  | .pairResend link seq => Sys2Proof.Machine.execPairResend link seq s
  | .pairHeartbeat link => Sys2Proof.Machine.execPairHeartbeat link s
  | .pairDown link => Sys2Proof.Machine.execPairDown link s
  | .pairUp link => Sys2Proof.Machine.execPairUp link s
  | .grdArm fn v => Sys2Proof.Machine.execGrdArm fn v s
  | .grdDisarm fn v => Sys2Proof.Machine.execGrdDisarm fn v s
  | .postRead => Sys2Proof.Machine.execPostRead s
  | .segmentApply layer seg => Sys2Proof.Machine.execSegmentApply layer seg s
  | .trustPhaseTwo layer => Sys2Proof.Machine.execTrustPhaseTwo layer s
  | .layerClose layer => Sys2Proof.Machine.execLayerClose layer s
  | .runRecord run => Sys2Proof.Machine.execRunRecord run s
  | .logHeadAdvance fn q v => Sys2Proof.Machine.execLogHeadAdvance fn q v s
  | .signTimer q => Sys2Proof.Machine.execSignTimer q s
  | .sigWritten q => Sys2Proof.Machine.execSigWritten q s
  | .auditEnable fn q v => Sys2Proof.Machine.execAuditEnable fn q v s
  | .undoLogEnable fn q v => Sys2Proof.Machine.execUndoLogEnable fn q v s
  | .autoSubstitute t kind idx => Sys2Proof.Machine.execAutoSubstitute t kind idx s
  | .unitReplaceDone t => Sys2Proof.Machine.execUnitReplaceDone t s
  | .siteCopyStart t => Sys2Proof.Machine.execSiteCopyStart t s
  | .siteCopyDone t => Sys2Proof.Machine.execSiteCopyDone t s
  | .stackCopyDone poisoned => Sys2Proof.Machine.execStackCopyDone poisoned s
  | .siteTestDone sq fault => Sys2Proof.Machine.execSiteTestDone sq fault s
  | .memoryScrubDone sq uncorrectable => Sys2Proof.Machine.execMemoryScrubDone sq uncorrectable s
  | .wearSample sites stackRates linkMargins => Sys2Proof.Machine.execWearSample sites stackRates linkMargins s
  | .doublesHello h => Sys2Proof.Machine.execDoublesHello h s
  | .doublesHelloTimer => Sys2Proof.Machine.execDoublesHelloTimer s
  | .pairEstablish => Sys2Proof.Machine.execPairEstablish s
  | .seating q n seats => Sys2Proof.Machine.execSeating q n seats s
  | .reqFill seat body => Sys2Proof.Machine.execReqFill seat body s
  | .seatLost q => Sys2Proof.Machine.execSeatLost q s
  | .candidateDrop req => Sys2Proof.Machine.execCandidateDrop req s
  | .result run kind idx item => Sys2Proof.Machine.execResult run kind idx item s
  | .sent run kind idx status payload => Sys2Proof.Machine.execSent run kind idx status payload s
  | .runDigest run attempt d => Sys2Proof.Machine.execRunDigest run attempt d s
  | .leave reason => Sys2Proof.Machine.execLeave reason s
  | .singles => Sys2Proof.Machine.execSingles s
  | .dblResume fn => Sys2Proof.Machine.execDblResume fn s
  | .dblKeep fn => Sys2Proof.Machine.execDblKeep fn s
  | .dblLeave fn => Sys2Proof.Machine.execDblLeave fn s
  | .powerInterval base tiles traffic grading service => Sys2Proof.Machine.execPowerInterval base tiles traffic grading service s
  | .inputSample watts => Sys2Proof.Machine.execInputSample watts s
  | .calibration measuredUj estimatedUj => Sys2Proof.Machine.execCalibration measuredUj estimatedUj s
  | .tempSample readings => Sys2Proof.Machine.execTempSample readings s
  | .thermStep die => Sys2Proof.Machine.execThermStep die s
  | .sessionKeysReady sessionId => Sys2Proof.Machine.execSessionKeysReady sessionId s
  | .getVersion session => Sys2Proof.Machine.execGetVersion session s
  | .getCapabilities session => Sys2Proof.Machine.execGetCapabilities session s
  | .negotiateAlgorithms session => Sys2Proof.Machine.execNegotiateAlgorithms session s
  | .getDigests session => Sys2Proof.Machine.execGetDigests session s
  | .getCertificate session slot offset len => Sys2Proof.Machine.execGetCertificate session slot offset len s
  | .challenge session slot nonce => Sys2Proof.Machine.execChallenge session slot nonce s
  | .getMeasurements session idx sign nonce => Sys2Proof.Machine.execGetMeasurements session idx sign nonce s
  | .keyExchange session mcTp exchange => Sys2Proof.Machine.execKeyExchange session mcTp exchange s
  | .finish session leafKeyHash authOk => Sys2Proof.Machine.execFinish session leafKeyHash authOk s
  | .chunkSend session chunk last => Sys2Proof.Machine.execChunkSend session chunk last s
  | .chunkGet session idx => Sys2Proof.Machine.execChunkGet session idx s
  | .pldmRequest session sensor => Sys2Proof.Machine.execPldmRequest session sensor s
  | .partitionCommit fn => Sys2Proof.Machine.execPartitionCommit fn s
  | .partDone => Sys2Proof.Machine.execPartDone s
  | .keySlotClear fn v => Sys2Proof.Machine.execKeySlotClear fn v s
  | .msaInstall fn v => Sys2Proof.Machine.execMsaInstall fn v s
  | .msaDelete fn v => Sys2Proof.Machine.execMsaDelete fn v s
  | .pairKeySet fn => Sys2Proof.Machine.execPairKeySet fn s
  | .svnRaise fn raiseTo => Sys2Proof.Machine.execSvnRaise fn raiseTo s
  | .irqRearm fn v => Sys2Proof.Machine.execIrqRearm fn v s
  | .vfRearm fn => Sys2Proof.Machine.execVfRearm fn s
  | .msixSend fn => Sys2Proof.Machine.execMsixSend fn s
  | .msixConfigWrite fn c => Sys2Proof.Machine.execMsixConfigWrite fn c s
  | .hostReadTimeout sq off => Sys2Proof.Machine.execHostReadTimeout sq off s
  | .linkChange gen width flit reversed => Sys2Proof.Machine.execLinkChange gen width flit reversed s
  | .ideFault => Sys2Proof.Machine.execIdeFault s
  | .powerStateChange fn d3 => Sys2Proof.Machine.execPowerStateChange fn d3 s
  | .vfFlr q => Sys2Proof.Machine.execVfFlr q s
  | .pfFlr => Sys2Proof.Machine.execPfFlr s
  | .perstAssert => Sys2Proof.Machine.execPerstAssert s
  | .perstRelease => Sys2Proof.Machine.execPerstRelease s
  | .hotReset => Sys2Proof.Machine.execHotReset s
  | .pcieLinkDown => Sys2Proof.Machine.execPcieLinkDown s
  | .moduleReset fn => Sys2Proof.Machine.execModuleReset fn s
  | .partitionReset fn part => Sys2Proof.Machine.execPartitionReset fn part s
  | .jobReset fn job => Sys2Proof.Machine.execJobReset fn job s
  | .powerUp => Sys2Proof.Machine.execPowerUp s
  | .railsGood dblId boardId => Sys2Proof.Machine.execRailsGood dblId boardId s
  | .powerDown => Sys2Proof.Machine.execPowerDown s
  | .vinLeaveWindow => Sys2Proof.Machine.execVinLeaveWindow s
  | .vinReturn => Sys2Proof.Machine.execVinReturn s
  | .dieTestDone r => Sys2Proof.Machine.execDieTestDone r s
  | .memoryPrepDone ms => Sys2Proof.Machine.execMemoryPrepDone ms s
  | .busMasterEnable => Sys2Proof.Machine.execBusMasterEnable s
  | .fwLoad fn => Sys2Proof.Machine.execFwLoad fn s
  | .fwVerified image => Sys2Proof.Machine.execFwVerified image s
  | .bootReady => Sys2Proof.Machine.execBootReady s
  | .i3cEntry => Sys2Proof.Machine.execI3cEntry s
  | .smbusTimeout => Sys2Proof.Machine.execSmbusTimeout s
  | .mctpTimeout => Sys2Proof.Machine.execMctpTimeout s
  | .resetPulseEnd => Sys2Proof.Machine.execResetPulseEnd s
  | .deferredPerstRelease => Sys2Proof.Machine.execDeferredPerstRelease s
  | .pwrEnHoldEnd => Sys2Proof.Machine.execPwrEnHoldEnd s
  | .slewComplete => Sys2Proof.Machine.execSlewComplete s
  | .ppsMissing => Sys2Proof.Machine.execPpsMissing s
  | .startTodBell run => Sys2Proof.Machine.execStartTodBell run s
  | .guardedLinePresent t addr => Sys2Proof.Machine.execGuardedLinePresent t addr s
  | .doublesEnable fn v => Sys2Proof.Machine.execDoublesEnable fn v s

end Sys2Proof.Machine
end

