-- ==== Sys2Proof/Machine/Step.lean ====
section
/-! DEFINITION. One step of the block: the command at the front of the queue, or one time-clock cycle. -/

namespace Sys2Proof.Machine

/-- Take the oldest waiting command and run it on the state with the rest of the queue; with none waiting, one cycle of
the time clock passes. DESIGN CHOICE (log 1). -/
def step (s : State) : Host.Outcome State Fault Refusal :=
  match s.pending with
  | [] => .next (idle s)
  | c :: r => exec c { s with pending := r }

/-- The state with the command a table word spells put at the front of the queue; unchanged where the word spells none.
DESIGN CHOICE (log 1). -/
def State.withFetchWord (s : State) (nbits w : Nat) : State :=
  match decodeTableWord nbits w with
  | some c => { s with pending := c :: s.pending }
  | none => s

end Sys2Proof.Machine
end

