-- ==== Sys2Proof/Safety.lean ====
section
/-! DEFINITION. The words the statements are made in: what a command answers, which register fields, tiles and bytes of
memory it leaves alone, and when a tile, a descriptor queue or an SPDM session is ready for its command. -/

namespace Sys2Proof.Machine

/-- The command answers a next state, and `P` holds of it. -/
def Gives (c : Instr) (s : State) (P : State → Prop) : Prop := ∃ t, exec c s = .next t ∧ P t

/-- Every register field but those listed reads as before. -/
def FieldsKept (s t : State) (l : List Fld) : Prop := ∀ f : Fld, (∀ g ∈ l, f.key ≠ g.key) → rd t f = rd s f

/-- The fields listed hold the values listed, every other field reads as before, and nothing beside the registers has
changed. -/
def Writes (s t : State) (l : List (Fld × Nat)) : Prop :=
  t = { s with regs := t.regs } ∧ (∀ p ∈ l, rd t p.1 = p.2) ∧ FieldsKept s t (l.map (·.1))

/-- Every byte of memory reads as before. -/
def MemKept (s t : State) : Prop := ∀ a, readByte t a = readByte s a

/-- Every byte of memory outside `[a, a + n)` reads as before. -/
def MemKeptBut (s t : State) (a n : Nat) : Prop := ∀ b, b < a ∨ a + n ≤ b → readByte t b = readByte s b

/-- The hidden state of every tile but one is as before. -/
def TilesKeptBut (s t : State) (u : Nat) : Prop := ∀ v, v ≠ u → tileOf t v = tileOf s v

/-- Every tile is as before, but that its outstanding transfers note what has been written since their issue (R24, R195). -/
def TilesNoted (s t : State) : Prop :=
  ∀ u, ∃ l, tileOf t u = { tileOf s u with xfers := l } ∧
    l.map (fun f => { f with foreign := [] }) = (tileOf s u).xfers.map fun f => { f with foreign := [] }

/-- The value of a cause field with one more bit set. -/
def withBit (s : State) (f : Fld) (b : Nat) : Nat := (rd s f ||| 2 ^ b) % 2 ^ f.w

/-- The value of a counter advanced by `n`, saturating at all-ones (R12). -/
def upBy (s : State) (f : Fld) (n : Nat) : Nat := min (rd s f + n) (2 ^ f.w - 1)

/-- An operation of tile `t` issues on its own terms: its bundle has been found able to issue as a whole on this tick, or has no
operation but that of SEQ, and no reserved bit set (R56, R57). -/
def Alone (s : State) (t : Nat) : Prop :=
  isCleared s t = true ∨ (reservedSlot (bundleWord s t) = none ∧ bundleWord s t < 2 ^ 32)

/-- The tile stands at a bundle of its program that can issue, in no bubble (R41, R56, R57, R73). -/
def TileReady (s : State) (t : Nat) : Prop :=
  issuing s t = true ∧ bubbled s t = false ∧ pcOut s t = false ∧ Alone s t

/-- The tile stands at a bundle whose SEQ operation can issue now, with no wait left over (R57, R60, R73). -/
def SeqReady (s : State) (t : Nat) : Prop :=
  TileReady s t ∧ slotHold (tileOf s t) (tickOf s t) 0 = [] ∧ (tileOf s t).waits = []

/-- The register fields that the end of a bundle of tile `t` may change (R69, R94, R164, R224). -/
def bundleFields (t : Nat) : List Fld :=
  [TIL_SEQ_STATUS_pc t, TIL_SEQ_STATUS_state t, TIL_SEQ_STATUS_loops_active t, TIL_TICK_tick t, CH_WDOG_stalled t,
    VE_TRAY_entries t, VE_TRAY_free_lines t, VE_TRAY_head_long t, VE_TRAY_head_visible t, VE_TRAY_peak_lines t]

/-- Tile `t` has issued the SEQ operation that ends its bundle and goes on (R64, R69, R80). `x` is the tile with the
operation's own effect; the next pc is the branch target, or what the loops of `x` give under the limits the bundle began
with; the tick has advanced by `cost`. Beside the tile and its registers only the accesses of earlier operations that fall due
up to the reads of the new tick touch anything. -/
structure Moved (s u : State) (t : Nat) (x : Tile) (target : Option Nat) (cost : Nat) : Prop where
  pc : pcOf u t = target.getD (loopNext (tileOf s t).lims (pcOf s t) x.loops x.cnts).2.2 % 2 ^ 14
  loops : (tileOf u t).loops = (loopNext (tileOf s t).lims (pcOf s t) x.loops x.cnts).1
  cnts : (tileOf u t).cnts = (loopNext (tileOf s t).lims (pcOf s t) x.loops x.cnts).2.1
  past : (tileOf u t).pcOver = decide (2 ^ 14 ≤ target.getD (loopNext (tileOf s t).lims (pcOf s t) x.loops x.cnts).2.2)
  tick : tickOf u t = min (tickOf s t + cost) (2 ^ 48 - 1)
  runs : seqState u t = 1
  tile : ∃ hold stall cur long marks uses micros wbuf aregs freeing,
    tileOf u t = { x with
      loops := (tileOf u t).loops, cnts := (tileOf u t).cnts, pcOver := (tileOf u t).pcOver, hold := hold, stall := stall, firstIsCur := cur, longIsCur := long
      marks := marks, uses := uses, micros := micros, wbuf := wbuf, aregs := aregs, freeing := freeing, newMsg := 0, newAid := 0 }
  kept : FieldsKept s u (bundleFields t)
  others : TilesKeptBut s u t
  quiet : (∀ m ∈ (tileOf s t).micros, tickOf s t + cost < m.tick) → u.mem = s.mem ∧ u.fabric = s.fabric
  rest : { u with regs := s.regs, tiles := s.tiles, mem := s.mem, fabric := s.fabric } = s

/-- Tile `t` has issued a SEQ operation and is held by what it waits for: `x` is the tile with the wait noted (R67, R68,
R72); its tick stands, its pc is that of the next bundle, and the accesses of earlier operations up to the reads of the next
tick have run (R207, R218). -/
structure HeldBy (s u : State) (t : Nat) (x : Tile) : Prop where
  pc : pcOf u t = (loopNext (tileOf s t).lims (pcOf s t) x.loops x.cnts).2.2 % 2 ^ 14
  tick : tickOf u t = tickOf s t
  state : seqState u t = 2
  waits : (tileOf u t).waits = x.waits
  kept : FieldsKept s u (bundleFields t)
  others : TilesKeptBut s u t
  quiet : (∀ m ∈ (tileOf s t).micros, tickOf s t + 1 < m.tick) → u.mem = s.mem ∧ u.fabric = s.fabric
  rest : { u with regs := s.regs, tiles := s.tiles, mem := s.mem, fabric := s.fabric } = s

/-- An operation of a slot other than 0 can issue on tile `t` now: the slot is free and none of the results it meets is in
flight (R57, R60, R235). -/
def OpReady (s : State) (t slot : Nat) (rs : List Res) : Prop :=
  TileReady s t ∧ slotHold (tileOf s t) (tickOf s t) slot = [] ∧ flightKinds (tileOf s t) (tickOf s t) rs = []

/-- An operation of a slot other than 0 has issued on tile `t`: beside the tile, the fields listed and the counter of the free
values, nothing has changed. -/
structure Issued (s u : State) (t : Nat) (l : List Fld) : Prop where
  runs : seqState u t = 1
  kept : FieldsKept s u (TIL_SEQ_STATUS_state t :: l)
  others : TilesKeptBut s u t
  rest : { u with regs := s.regs, tiles := s.tiles, freeCtr := s.freeCtr } = s

/-- The registers of a tile's tray (R164). -/
def trayRegs (t : Nat) : List Fld :=
  [VE_TRAY_entries t, VE_TRAY_free_lines t, VE_TRAY_head_long t, VE_TRAY_head_visible t, VE_TRAY_peak_lines t]

/-- What an aide operation leaves: in every aide that runs it, register rd holds `f` of the tile as it was, present `lat`
ticks after issue; x0 and every other register read as before (R157, R158, R159). -/
structure AideWrote (s u : State) (a : AidOp) (lat : Nat) (f : Tile → Nat → Nat) : Prop where
  result : ∀ i ∈ aidesRun (tileOf s a.t) a, a.rd ≠ 0 → (tileOf u a.t).reg i a.rd.toNat = f (tileOf s a.t) i
  regs : ∀ i r, i < 16 → r < 32 → i ∉ aidesRun (tileOf s a.t) a ∨ r ≠ a.rd.toNat ∨ r = 0 →
    (tileOf u a.t).reg i r = (tileOf s a.t).reg i r
  marks : (tileOf u a.t).marks = (if a.rd = 0 then [] else
    [⟨.reg a.rd.toNat, 3, tickOf s a.t, tickOf s a.t + lat, tickOf s a.t + lat, false, 1⟩]) ++ (tileOf s a.t).marks
  tile : ∃ g m us, tileOf u a.t = { tileOf s a.t with aregs := g, marks := m, uses := us }
  issued : Issued s u a.t []

/-- Command `c` runs wherever its aide slot is free, its encoding is none reserved and nothing it meets is in flight, and
leaves `f` in rd. -/
def AideWrites (c : AidOp → Instr) (use : AidUse) (extra : AidOp → List Res) (lat : Nat) (f : AidOp → Tile → Nat → Nat) : Prop :=
  ∀ (s : State) (a : AidOp), aidBad use a = false → OpReady s a.t 3 (aidRes use a ++ extra a) →
    Gives (c a) s fun u => AideWrote s u a lat (f a)

/-- As `AideWrites` for an operation that writes predicate rd, which p0 is not; it is present at once (R158, R159). -/
def AideSets (c : AidOp → Instr) (use : AidUse) (f : AidOp → Tile → Nat → Bool) : Prop :=
  ∀ (s : State) (a : AidOp), aidBad use a = false → OpReady s a.t 3 (aidRes use a) → Gives (c a) s fun u =>
    (∀ i ∈ aidesRun (tileOf s a.t) a, (tileOf u a.t).pred i a.rd.toNat = f a (tileOf s a.t) i) ∧
    (∀ i p, i < 16 → p < 8 → i ∉ aidesRun (tileOf s a.t) a ∨ p ≠ a.rd.toNat →
      (tileOf u a.t).pred i p = (tileOf s a.t).pred i p) ∧
    (∃ g us, tileOf u a.t = { tileOf s a.t with apreds := g, uses := us }) ∧ Issued s u a.t []

/-- Command `c` is a load of `n` bytes per aide: with every access good, the registers hold what memory holds once the
accesses of the next tick have run, extended as `sext` says; no byte of memory changes, and no correctable error is found
(R160, R168, R171). -/
def AideLoads (c : AidOp → Instr) (n : Nat) (sext : Bool) (acc : Nat → Nat → Nat → Nat → Nat ⊕ Nat) : Prop :=
  ∀ (s : State) (a : AidOp), s.upsets = [] → aidBad { rs2 := false, immBits := 32 } a = false → (tileOf s a.t).micros = [] →
    firstBad (aidAccesses (tileOf s a.t) a n acc) = none →
    OpReady s a.t 3 (aidRes { rs2 := false, immBits := 32 } a ++
      (goodOnes (aidAccesses (tileOf s a.t) a n acc)).map fun p => Res.bytes p.2 n) →
    Gives (c a) s fun u => Issued s u a.t [] ∧
      (∀ p ∈ goodOnes (aidAccesses (tileOf s a.t) a n acc), a.rd ≠ 0 →
        (tileOf (runDue u a.t (tickOf s a.t + 2)) a.t).reg p.1 a.rd.toNat = loadValue (readBytes s p.2 n) sext) ∧
      (∀ i r, i < 16 → r < 32 → i ∉ aidesRun (tileOf s a.t) a ∨ r ≠ a.rd.toNat ∨ r = 0 →
        (tileOf (runDue u a.t (tickOf s a.t + 2)) a.t).reg i r = (tileOf s a.t).reg i r) ∧
      MemKept s (runDue u a.t (tickOf s a.t + 2))

/-- Command `c` is a store of `n` bytes per aide: with every access good, memory holds the low bytes of rs2 at the address of
each aide that runs it once the accesses of the next tick have run, the higher aide kept where two meet; every other byte
reads as before, and no aide register changes (R160, R168). -/
def AideStores (c : AidOp → Instr) (n : Nat) (acc : Nat → Nat → Nat → Nat → Nat ⊕ Nat) : Prop :=
  ∀ (s : State) (a : AidOp), aidBad { rd := false, immBits := 32 } a = false → (tileOf s a.t).micros = [] →
    firstBad (aidAccesses (tileOf s a.t) a n acc) = none →
    OpReady s a.t 3 (aidRes { rd := false, immBits := 32 } a ++
      (goodOnes (aidAccesses (tileOf s a.t) a n acc)).map fun p => Res.bytes p.2 n) →
    Gives (c a) s fun u => Issued s u a.t [] ∧ (tileOf u a.t).aregs = (tileOf s a.t).aregs ∧ u.mem = s.mem ∧
      (∀ p ∈ goodOnes (aidAccesses (tileOf s a.t) a n acc), ∀ k, k < n →
        (∀ q ∈ goodOnes (aidAccesses (tileOf s a.t) a n acc), p.1 < q.1 → p.2 + k < q.2 ∨ q.2 + n ≤ p.2 + k) →
        readByte (runDue u a.t (tickOf s a.t + 2)) (p.2 + k) = (toLE n ((tileOf s a.t).v2 a p.1)).getD k 0) ∧
      (∀ b, (∀ p ∈ goodOnes (aidAccesses (tileOf s a.t) a n acc), b < p.2 ∨ p.2 + n ≤ b) →
        readByte (runDue u a.t (tickOf s a.t + 2)) b = readByte s b)

/-- The locker operations that the aides running an instruction put to the hubs, in aide order (R161, R187). -/
def lockerOps (s : State) (a : AidOp) (k : LkKind) : List LockerOp :=
  (aidesRun (tileOf s a.t) a).zipIdx.map fun p =>
    ⟨k, a.t, p.1, pcOf s a.t, tilePart s a.t, (tileOf s a.t).v1 a p.1, (tileOf s a.t).v2 a p.1, a.imm.toNat, jobOfTile s a.t,
      epochOfTile s a.t, (tileOf s a.t).lkIssued + p.2⟩

/-- Command `c` puts its locker operations, of `span` bytes each, at the ends of the queues of their home hubs, where every
one passes R161; it moves no byte itself. -/
def LockerQueues (c : AidOp → Instr) (k : LkKind) (span : State → Nat → Nat) : Prop :=
  ∀ (s : State) (a : AidOp), aidBad { rd := false, immBits := 16 } a = false →
    OpReady s a.t 3 (aidRes { rd := false, immBits := 16 } a ++ lockerSpans s (tileOf s a.t) a k) →
    (∀ i ∈ aidesRun (tileOf s a.t) a, lockerFault s a.t ((tileOf s a.t).v1 a i) ((tileOf s a.t).v2 a i)
      (span s (tilePart s a.t)) a.imm.toNat = none) →
    Gives (c a) s fun u =>
      (∀ h, Store.getD u.lockerQ h [] = Store.getD s.lockerQ h [] ++
        (lockerOps s a k).filter fun o => homeHub s (tilePart s a.t) o.locker == h) ∧
      (tileOf u a.t).aidOut = (tileOf s a.t).aidOut + (aidesRun (tileOf s a.t) a).length ∧
      (tileOf u a.t).lkIssued = (tileOf s a.t).lkIssued + (aidesRun (tileOf s a.t) a).length ∧
      (tileOf u a.t).aregs = (tileOf s a.t).aregs ∧ seqState u a.t = 1 ∧ FieldsKept s u [TIL_SEQ_STATUS_state a.t] ∧
      TilesKeptBut s u a.t ∧ { u with regs := s.regs, tiles := s.tiles, lockerQ := s.lockerQ } = s

/-- The increment of one that an operation of tile `t` in a slot sends to a counter (R161, R193, R218). -/
def incrItem (s : State) (t ctr amt slot pc : Nat) : Item :=
  ⟨.incr ctr amt slot pc false, t, 0xFFF, jobOfTile s t, epochOfTile s t, s.now⟩

/-- A frame without its frame check sequence. -/
def noFcs (f : Bytes) : Bytes := f.take (f.length - 4)

/-- The FEC counts of port `p` after a frame of `fc` corrected and `fu` uncorrected codewords (R304). -/
def fecCounts (s : State) (p fc fu : Nat) : List (Fld × Nat) :=
  [(NET_PORT_STATUS_fec_corrected p, upBy s (NET_PORT_STATUS_fec_corrected p) fc),
    (NET_PORT_STATUS_fec_uncorrected p, upBy s (NET_PORT_STATUS_fec_uncorrected p) fu)]

/-- A frame received whole on an enabled port comes to its classification: without a SecTAG where none is required, or opened by its
association; `g` is the frame without FCS and SecTAG, `u` the state with the replay window moved on (R278, R280). -/
def FrameReaches (s : State) (p sub : Nat) (fr : Bytes) (u : State) (g : Bytes) : Prop :=
  p < 16 ∧ on s (NET_PORT_CFG_en p) = true ∧ fcsGood fr = true ∧ 64 ≤ fr.length ∧ fr.length ≤ 9216 ∧
    ((hasSecTag (noFcs fr) = false ∧ on s (NET_PORT_CFG_macsec_req p) = false ∧ u = s ∧ g = noFcs fr) ∨
      (hasSecTag (noFcs fr) = true ∧ openFrame s p sub (noFcs fr) = some (u, g)))

/-- The descriptor of opcode `op` that `sq` starts next (R252); submission numbers tell descriptors apart. -/
def Starts (s : State) (sq op : Nat) (d : Desc) : Prop := ready s sq op = some d ∧ descOf s d.subm = some d

/-- A completion entry is out: still held for its queue, or written to host memory with a phase bit (R253). -/
def EntryOut (t : State) (cq : Nat) (e : Bytes) : Prop :=
  (∃ irq, (e, irq) ∈ (cqOf t (cq % 16)).held) ∨
    ∃ (fn addr : Nat) (p : Bool), Out.hostWrite fn addr (patchB e 0x1D (toLE 1 (fieldLE e 0x1D 1 + 128 * b2n p))) ∈ t.out

/-- Every register field but those that completions move reads as before: the tails of the completion queues, HQ_CAUSE and
SEC_CAUSE (R253, R417). -/
def QueueFieldsKept (s t : State) : Prop :=
  ∀ f : Fld, (∀ c, c < 16 → f.key ≠ (HQ_CQ_STATUS_tail c).key) → f.key ≠ HQ_CAUSE_cause.key → f.key ≠ SEC_CAUSE_cause.key →
    rd t f = rd s f

/-- Descriptor `d` has completed with a status and a detail, and nothing but the host queues has changed (R252, R253). -/
structure Completed (s t : State) (d : Desc) (status detail : Nat) : Prop where
  gone : descOf t d.subm = none
  entry : EntryOut t d.cq (entryBytes d (tod s) status detail 0 0 true)
  kept : QueueFieldsKept s t
  rest : t = { s with regs := t.regs, out := t.out, descs := t.descs, cqs := t.cqs }

/-- Module B has built its copy of period `n` from a SEATING, one seat per name in order, and its waiting run has its
boundary (R43, R368). -/
structure SeatsBuilt (s t : State) (p : Period) (n : Nat) (seats : List SeatRef) : Prop where
  copy : ∃ c : Copy, c ∈ t.copies ∧ c.bind = p.subm ∧ c.part = p.part ∧ c.period = n ∧ c.seats.length = seats.length ∧
    ∀ (k : Nat) (x : SeatRef), seats[k]? = some x → ∃ y : Seat, c.seats[k]? = some y ∧ y.req.ip = x.ip.toNat ∧ y.req.udp = x.udp.toNat ∧
      y.req.seqn = x.seq.toNat ∧ y.req.ts = x.ts ∧ y.req.port = x.port ∧ y.req.sub = x.sub ∧ y.status = none
  cands : ∀ r ∈ t.cands, r.bind = p.subm → ∀ x ∈ seats, ¬(r.ip = x.ip.toNat ∧ r.udp = x.udp.toNat ∧ r.seqn = x.seq.toNat)
  wait : t.dbl.seatWait = none
  seated : rd t NET_INGEST_STATUS_seated_last = seats.length % 2 ^ NET_INGEST_STATUS_seated_last.w
  woken : ∀ r x, Store.get? s.runs r = some x → x.subm = p.subm → x.kind = .period n → x.phase = .pending → x.kickWin = none →
    Store.get? t.runs r = some { x with kickWin := some (actWindow s) }
  others : ∀ r x, Store.get? s.runs r = some x → x.subm ≠ p.subm ∨ x.kind ≠ .period n → Store.get? t.runs r = some x
  tiles : TilesNoted s t
  jobs : t.jobs = s.jobs

/-- Connection `k` has been answered and stands as `x`; every other connection, and everything beside the connections and the
counter of the free values, is as before (R398). -/
structure Answered (s t : State) (k code : Nat) (body : Bytes) (x : SpdmSt) : Prop where
  out : t.out = .response k code body :: s.out
  conn : spdmOf t k = x
  others : ∀ j, j ≠ k → spdmOf t j = spdmOf s j
  rest : { t with out := s.out, freeCtr := s.freeCtr, sec := { t.sec with spdm := s.sec.spdm } } = s

/-- The dies have been restarted: no work, no images, no keys, one partition, every register at its reset value but those of
HST_RESET_STATUS and HST_LINK, the fused svn and the strap (R433, R434). -/
structure Bare (s t : State) : Prop where
  work : t.jobs = [] ∧ t.runs = [] ∧ t.periods = [] ∧ t.descs = [] ∧ t.cqs = [] ∧ t.cands = [] ∧ t.copies = [] ∧ t.tiles = [] ∧
    t.fabric = [] ∧ t.waiters = [] ∧ t.lockerQ = [] ∧ t.assocs = [] ∧ t.plans = [] ∧ t.fns = [] ∧ t.neighbours = [] ∧ t.cleared = []
  units : t.sec = SecSt.init ∧ t.time = TimeSt.init ∧ t.dbl = DblSt.init ∧ t.pwr = PwrSt.init ∧ t.grd.layers = []
  parts : t.parts = [(0, PartRes.whole s.part)]
  regs : ∀ f : Fld, f.key / 64 ≠ HST_RESET_STATUS → f.key / 64 ≠ HST_LINK → f.key ∉ [SEC_STATUS_fuse_svn.key, DBL_STATUS_id.key,
    HST_BOOT_state.key, HST_CAUSE_cause.key] → rd t f = f.reset s.part
  fuses : rd t SEC_STATUS_fuse_svn = rd s SEC_STATUS_fuse_svn % 2 ^ 8 ∧ rd t DBL_STATUS_id = rd s DBL_STATUS_id % 2
  same : t.part = s.part ∧ t.now = s.now ∧ t.pending = s.pending

/-- A module reset of a cause has begun: the dies are held in reset, and HST_RESET_STATUS says what was lost; with no locker
operation under way and the grading engine not armed, no byte behind the tiers has changed (R433 to R435, R453). -/
structure ResetBegun (s t : State) (cause : Nat) : Prop where
  bare : Bare s t
  held : t.boot.held = true ∧ t.boot.pulseFrom = s.now ∧ t.boot.bme = false ∧ t.boot.fwWait = false ∧ t.boot.rails = 2
  cause : rd t HST_RESET_STATUS_cause = cause
  count : rd t HST_RESET_STATUS_module_resets = upBy s HST_RESET_STATUS_module_resets 1
  lost : rd t HST_RESET_STATUS_unseal_lost = b2n (!s.sec.unseals.isEmpty) ∧
    rd t HST_RESET_STATUS_grading_armed = rd s GRD_JOB_en % 2 ∧ rd t HST_RESET_STATUS_mem_kept = b2n (!s.boot.cold)
  mem : s.lockerQ = [] → on s GRD_JOB_en = false → ∀ a, a < windowBase → Memory.read t.mem a = Memory.read s.mem a
  pins : .pin "READY" false ∈ t.out ∧ .pin "IRQ_N" true ∈ t.out

/-- The dies have restarted and the boot ROM waits for firmware; FLR_DONE is raised where an FLR had reset them (R421, R439,
R452). -/
structure Restarted (s t : State) : Prop where
  bare : Bare s t
  boot : t.boot.held = false ∧ t.boot.deferred = false ∧ rd t HST_BOOT_state = 1
  status : ∀ f : Fld, f.key / 64 = HST_RESET_STATUS → rd t f = rd s f
  done : flag t HST_CAUSE_cause 7 = (rd s HST_RESET_STATUS_cause == 5)
  mem : ∀ a, a < windowBase → Memory.read t.mem a = Memory.read s.mem a

end Sys2Proof.Machine
end

