-- ==== Sys2Proof/Certificates/Slice0/Obligations.lean ====
section
/-! DEFINITION. The statements for the provers, one definition each. -/

open Sys2Proof Sys2Proof.Machine

/-- A step runs the oldest waiting command. The block takes its commands first in, first out (log 1: the queue is the model's own). -/
def Obligations.StepRunsTheFrontCommand : Prop :=
    ∀ (s : State) (c : Instr) (r : List Instr), s.pending = c :: r → step s = exec c { s with pending := r }

/-- With no command waiting, a step is one cycle of the time clock. R30: each time-clock cycle adds 1 ns multiplied by (1 + rate). The tick on an empty queue is the model's choice (log 1). -/
def Obligations.IdleStepAdvancesTheTimeClock : Prop :=
    ∀ s : State, s.pending = [] → ∃ t, step s = .next t ∧ t.now = s.now + 1 ∧
    todFine t = ((todFine s : Int) + 2 ^ 32 + todRate s.time).toNat % 2 ^ 96 ∧
    t.mem = s.mem ∧ t.tiles = s.tiles ∧ t.jobs = s.jobs ∧ t.runs = s.runs ∧ t.periods = s.periods ∧ t.descs = s.descs ∧
    t.pending = [] ∧ FieldsKept s t [TIM_TOD_tod, TIM_STATUS_pps_ok, TIM_STATUS_holdover_s]

/-- Memory after reset has its canonical form. The invariant of StepKeepsMemoryCanonical holds at reset. -/
def Obligations.ResetMemoryIsCanonical : Prop :=
    Memory.wf State.reset.mem = true

/-- Every step keeps the canonical form of memory. An invariant that every step keeps: memory in canonical form (log 3 for the default byte). -/
def Obligations.StepKeepsMemoryCanonical : Prop :=
    ∀ s t : State, Memory.wf s.mem = true → step s = .next t → Memory.wf t.mem = true

/-- No step changes the part. The part of the family (R1) is fixed. -/
def Obligations.PartNeverChanges : Prop :=
    ∀ s t : State, step s = .next t → t.part = s.part

/-- A write of a plain register sets its RW fields and no other. R8 and R9 for RW, RO and RC fields; R411 for a virtual function. -/
def Obligations.HostRegisterWriteSetsFields : Prop :=
    (∀ (s : State) (off : Nat) (v : Word64), fnUp s 0 = true → off % 8 = 0 → actingWrite 0 off v s = none →
      (fieldsAt s.part off).any (·.acc == .w1c) = false → off ≠ NET_PAIR_CFG 0 → off ≠ NET_PAIR_CFG 1 →
      (∀ u, off ≠ REL_DPU u) →
      Gives (.registerWrite 0 off v) s fun t =>
        (∀ f ∈ fieldsAt s.part off, f.acc = .rw → fieldLocked s f (v.toNat / 2 ^ f.lo % 2 ^ f.w) = false →
          rd t f = v.toNat / 2 ^ f.lo % 2 ^ f.w) ∧
        (∀ f ∈ fieldsAt s.part off, f.acc = .ro ∨ f.acc = .rc → rd t f = rd s f) ∧
        FieldsKept s t (fieldsAt s.part off) ∧ t = { s with regs := t.regs }) ∧
    (∀ (s : State) (fn off : Nat) (v : Word64), fn ≠ 0 → fnUp s fn = true → off % 8 = 0 → actingWrite fn off v s = none →
      (fieldsAt s.part off).any (·.acc == .w1c) = false → vfWrites s (fn - 1) off v.toNat = false →
      exec (.registerWrite fn off v) s = .next s)

/-- Reads give the register out and clear RC fields; writes of ones clear causes. R8 (RC, W1C), R10, R11 and R41. -/
def Obligations.HostReadsAndCauseClears : Prop :=
    (∀ (s : State) (off : Nat) (hits amt : Word64), fnUp s 0 = true → off % 8 = 0 → off ≠ HST_DIE_STATUS → off ≠ TIM_WINDOW →
      (∀ u, off ≠ TIM_XFILL u) →
      Gives (.readClear 0 off hits amt) s fun t =>
        t.out = .readData (readReg s 0 off) :: s.out ∧
        (∀ f ∈ fieldsAt s.part off, f.acc = .rc → rd t f = if bitOf hits.toNat f.lo then amt.toNat / 2 ^ f.lo % 2 ^ f.w else 0) ∧
        (∀ f ∈ fieldsAt s.part off, f.acc ≠ .rc → rd t f = rd s f) ∧
        FieldsKept s t (fieldsAt s.part off) ∧ t = { s with regs := t.regs, out := t.out }) ∧
    (∀ s : State, fnUp s 0 = true → Gives (.timWindowRead 0) s fun t =>
      t.out = .readData (readReg s 0 TIM_WINDOW) :: s.out ∧ rd t TIM_WIN_TOD_win_tod = s.time.winTod % 2 ^ 64 ∧
      FieldsKept s t [TIM_WIN_TOD_win_tod] ∧ t = { s with regs := t.regs, out := t.out }) ∧
    (∀ (s : State) (v co : Word64) (f : Fld), fnUp s 0 = true →
      f ∈ [TIM_CAUSE_cause, LPD_CAUSE_cause, HQ_CAUSE_cause, CTL_DISP_CAUSE_cause, NET_CAUSE_cause, NET_SPU_CAUSE_cause, GRD_CAUSE_cause,
        AUD_CAUSE_cause, REL_CAUSE_cause, DBL_CAUSE_cause, PWR_CAUSE_cause, SEC_CAUSE_cause, HST_CAUSE_cause] →
      Gives (.causeClear 0 f.off v co) s fun t =>
        rd t f = ((rd s f ^^^ (rd s f &&& v.toNat)) ||| co.toNat) % 2 ^ f.w ∧ t = { s with regs := t.regs })

/-- A misaligned or narrow access is refused and recorded. R5 for BAR0, R425 for BAR2. -/
def Obligations.RefusedHostAccessesAreLogged : Prop :=
    (∀ (s : State) (fn off size : Nat) (w : Bool), fnUp s fn = true → ¬ (size = 8 ∧ off % 8 = 0) → rd s HST_BAR0_LOG_valid = 0 →
      Gives (.bar0BadAccess fn off size w) s fun t =>
        t.out = (if w then s.out else .readData (2 ^ (8 * size) - 1) :: s.out) ∧
        Writes s { t with out := s.out } [(HST_BAR0_LOG_offset, off % 2 ^ HST_BAR0_LOG_offset.w), (HST_BAR0_LOG_bar2, 0), (HST_BAR0_LOG_write, b2n w),
          (HST_BAR0_LOG_bytes_log2, Nat.log2 size % 2 ^ HST_BAR0_LOG_bytes_log2.w), (HST_BAR0_LOG_function, fn % 2 ^ HST_BAR0_LOG_function.w),
          (HST_BAR0_LOG_valid, 1), (HST_CAUSE_cause, withBit s HST_CAUSE_cause 0)]) ∧
    (∀ (s : State) (fn off size : Nat) (w : Bool), fnUp s fn = true → ¬ (size = 8 ∧ off % 8 = 0) → ¬ (size = 4 ∧ off % 4 = 0) →
      rd s HST_BAR0_LOG_valid = 0 →
      Gives (.bar2BadAccess fn off size w) s fun t =>
        t.out = (if w then s.out else .readData (2 ^ (8 * size) - 1) :: s.out) ∧
        Writes s { t with out := s.out } [(HST_BAR0_LOG_offset, off % 2 ^ HST_BAR0_LOG_offset.w), (HST_BAR0_LOG_bar2, 1), (HST_BAR0_LOG_write, b2n w),
          (HST_BAR0_LOG_bytes_log2, Nat.log2 size % 2 ^ HST_BAR0_LOG_bytes_log2.w), (HST_BAR0_LOG_function, fn % 2 ^ HST_BAR0_LOG_function.w),
          (HST_BAR0_LOG_valid, 1), (HST_CAUSE_cause, withBit s HST_CAUSE_cause 0)])

/-- The BAR4 window reads and writes module memory at its base, is refused in a sealed region and outside memory, and takes its base. R427 with R188 and R202 for a sealed region. -/
def Obligations.Bar4ReachesMemory : Prop :=
    (∀ (s : State) (fn off n : Nat), off + n ≤ 2 ^ 36 → fnUp s fn = true → on s HST_BOOT_prep_done = true →
      bar4Reaches s fn (bar4Base s fn + off) n = true → sealOwner s (bar4Base s fn + off) n = none →
      exec (.bar4Access fn off (.read n)) s = .next { s with out := .readBytes (readBytes s (bar4Base s fn + off) n) :: s.out }) ∧
    (∀ (s : State) (fn off : Nat) (b : List (Option Byte)), off + b.length ≤ 2 ^ 36 → fnUp s fn = true → on s HST_BOOT_prep_done = true →
      bar4Reaches s fn (bar4Base s fn + off) b.length = true → sealOwner s (bar4Base s fn + off) b.length = none →
      Gives (.bar4Access fn off (.write b)) s fun t =>
        (∀ i, i < b.length → readByte t (bar4Base s fn + off + i) = ((b.getD i none).getD (readByte s (bar4Base s fn + off + i)))) ∧
        MemKeptBut s t (bar4Base s fn + off) b.length ∧ t = { s with mem := t.mem, tiles := t.tiles } ∧
        ∀ v, tileOf t v = { tileOf s v with xfers := (tileOf t v).xfers }) ∧
    (∀ (s : State) (fn off n q : Nat), off + n ≤ 2 ^ 36 → fnUp s fn = true → on s HST_BOOT_prep_done = true →
      bar4Reaches s fn (bar4Base s fn + off) n = true → sealOwner s (bar4Base s fn + off) n = some q →
      Gives (.bar4Access fn off (.read n)) s fun t =>
        t.out = .readBytes (List.replicate n 0xFF) :: s.out ∧ rd t HST_CAUSE_cause = withBit s HST_CAUSE_cause 2 ∧
        t = { s with regs := t.regs, out := t.out }) ∧
    (∀ (s : State) (fn off q : Nat) (b : List (Option Byte)), off + b.length ≤ 2 ^ 36 → fnUp s fn = true →
      on s HST_BOOT_prep_done = true → bar4Reaches s fn (bar4Base s fn + off) b.length = true →
      sealOwner s (bar4Base s fn + off) b.length = some q →
      Gives (.bar4Access fn off (.write b)) s fun t =>
        rd t HST_CAUSE_cause = withBit s HST_CAUSE_cause 2 ∧ t = { s with regs := t.regs }) ∧
    (∀ (s : State) (fn off : Nat) (op : Bar4Op), off + bar4Len op ≤ 2 ^ 36 → fnUp s fn = true → on s HST_BOOT_prep_done = true →
      bar4Reaches s fn (bar4Base s fn + off) (bar4Len op) = false →
      Gives (.bar4Access fn off op) s fun t =>
        t.out = (match op with | .read n => [.readBytes (List.replicate n 0xFF)] | .write _ => []) ++ s.out ∧
        rd t HST_CAUSE_cause = withBit s HST_CAUSE_cause 1 ∧ t = { s with regs := t.regs, out := t.out }) ∧
    (∀ (s : State) (v : Word64), fnUp s 0 = true →
      Gives (.bar4BaseWrite 0 HST_BAR4_BASE v) s fun t =>
        Writes s t [(HST_BAR4_BASE_base, v.toNat / 2 ^ 30 % 2 ^ HST_BAR4_BASE_base.w)]) ∧
    (∀ (s : State) (q : Nat) (v : Word64), fnUp s 0 = true → q < 8 →
      Gives (.bar4BaseWrite 0 (0x100 + 8 * q) v) s fun t =>
        Writes s t [(HST_VF_BAR4_BASE_base q, v.toNat / 2 ^ 30 % 2 ^ (HST_VF_BAR4_BASE_base q).w)])

/-- REF_10M_IN lost and restored. R28 and R29. -/
def Obligations.ReferenceLossAndReturn : Prop :=
    (∀ s : State, on s TIM_STATUS_ref_ok = true → Gives .refLost s fun t =>
      rd t TIM_STATUS_ref_ok = 0 ∧ rd t TIM_STATUS_ref_in_use = 0 ∧
      rd t TIM_REF_STATS_lost_events = upBy s TIM_REF_STATS_lost_events 1 ∧ rd t TIM_CAUSE_cause = withBit s TIM_CAUSE_cause 0 ∧
      FieldsKept s t [TIM_STATUS_ref_ok, TIM_STATUS_ref_in_use, TIM_REF_STATS_lost_events, TIM_REF_STATS_ref_err_ppb, TIM_CAUSE_cause] ∧
      t = { s with regs := t.regs, freeCtr := t.freeCtr }) ∧
    (∀ s : State, on s TIM_STATUS_ref_ok = false → Gives .refRestored s fun t =>
      rd t TIM_STATUS_ref_ok = 1 ∧ rd t TIM_STATUS_ref_in_use = b2n (!on s TIM_SRC_CFG_ref_sel) ∧
      rd t TIM_CAUSE_cause = withBit s TIM_CAUSE_cause 1 ∧
      FieldsKept s t [TIM_STATUS_ref_ok, TIM_STATUS_ref_in_use, TIM_REF_STATS_ref_err_ppb, TIM_CAUSE_cause] ∧
      t = { s with regs := t.regs, freeCtr := t.freeCtr })

/-- TIM_TOD_SET and TIM_ADJ set and correct time of day. R35 for corrections, R34 and the TIM_ADJ table for the rate. -/
def Obligations.TimeOfDayIsSetAndCorrected : Prop :=
    (∀ (s : State) (v : Word64), fnUp s 0 = true → on s TIM_STATUS_tod_valid = false → names s 1 = false →
      Gives (.timTodSet 0 v) s fun t => tod t = v.toNat ∧ rd t TIM_STATUS_tod_valid = 1 ∧ rd t TIM_STATUS_step_pending = b2n s.time.heldCorr.isSome ∧
        t.mem = s.mem ∧ t.tiles = s.tiles ∧ t.periods = s.periods ∧ t.runs = s.runs) ∧
    (∀ (s : State) (v : Word64), fnUp s 0 = true → on s TIM_STATUS_tod_valid = false → names s 1 = true →
      Gives (.timTodSet 0 v) s fun t => t.time = { s.time with setPend := some v.toNat } ∧
        Writes s { t with time := s.time } [(TIM_STATUS_step_pending, 1)]) ∧
    (∀ (s : State) (p : BitVec 32), fnUp s 0 = true → (signed 32 p.toNat).natAbs ≤ 1000 * rd s TIM_SRC_CFG_step_thresh →
      Gives (.timAdjPhase 0 p false) s fun t => t.time.slew = signed 32 p.toNat * 2 ^ 32 ∧ t.time.heldCorr = none ∧
        Writes s { t with time := s.time } [(TIM_STATUS_slewing, b2n (signed 32 p.toNat * 2 ^ 32 != 0)), (TIM_STATUS_step_pending, b2n s.time.setPend.isSome)]) ∧
    (∀ (s : State) (p : BitVec 32), fnUp s 0 = true → 1000 * rd s TIM_SRC_CFG_step_thresh < (signed 32 p.toNat).natAbs →
      on s TIM_SRC_CFG_step_allowed = true → s.periods = [] → s.cands = [] → s.copies = [] → s.carries = [] →
      Gives (.timAdjPhase 0 p false) s fun t =>
        todFine t = unsigned 96 ((todFine s : Int) + signed 32 p.toNat * 2 ^ 32) ∧ rd t TIM_CAUSE_cause = withBit s TIM_CAUSE_cause 6 ∧
        rd t TIM_STATUS_step_pending = b2n s.time.setPend.isSome ∧ rd t TIM_STATUS_slewing = 0 ∧ MemKept s t) ∧
    (∀ (s : State) (p : BitVec 32), fnUp s 0 = true → 1000 * rd s TIM_SRC_CFG_step_thresh < (signed 32 p.toNat).natAbs →
      on s TIM_SRC_CFG_step_allowed = false →
      Gives (.timAdjPhase 0 p false) s fun t => t.time.heldCorr = some (signed 32 p.toNat * 2 ^ 32) ∧ todFine t = todFine s ∧
        Writes s { t with time := s.time } [(TIM_STATUS_slewing, 0), (TIM_STATUS_step_pending, 1),
          (TIM_CAUSE_cause, withBit s TIM_CAUSE_cause 7)]) ∧
    (∀ (s : State) (r : BitVec 24), fnUp s 0 = true →
      exec (.timAdjRate 0 r false) s = .next { s with time := { s.time with servo := clampRate (signed 24 r.toNat) } })

/-- TIM_SRC_CFG takes its fields; naming 1PPS begins to acquire it; a finished slew ends. R31 and the TIM_SRC_CFG table of R53; TIM_STATUS.slewing. -/
def Obligations.TimeSourcesAreConfigured : Prop :=
    (∀ (s : State) (v : Word64), fnUp s 0 = true → s.time.setPend = none → s.time.heldCorr = none → s.time.pulse = false →
      Gives (.timeSourceConfig 0 v) s fun t =>
        rd t TIM_SRC_CFG_primary = (if bitsOf v.toNat 0 2 = 3 then rd s TIM_SRC_CFG_primary % 2 ^ 2 else bitsOf v.toNat 0 2) ∧
        rd t TIM_SRC_CFG_secondary = (if bitsOf v.toNat 2 2 = 3 then rd s TIM_SRC_CFG_secondary % 2 ^ 2 else bitsOf v.toNat 2 2) ∧
        rd t TIM_SRC_CFG_ptp_port = bitsOf v.toNat 4 4 ∧ rd t TIM_SRC_CFG_ref_sel = bitsOf v.toNat 8 1 ∧
        rd t TIM_SRC_CFG_pps_edge = bitsOf v.toNat 9 1 ∧ rd t TIM_SRC_CFG_step_allowed = bitsOf v.toNat 10 1 ∧
        rd t TIM_SRC_CFG_step_while_bound = bitsOf v.toNat 11 1 ∧ rd t TIM_SRC_CFG_pps_out_en = bitsOf v.toNat 12 1 ∧
        rd t TIM_SRC_CFG_pps_out_width = bitsOf v.toNat 16 8 ∧ rd t TIM_SRC_CFG_step_thresh = bitsOf v.toNat 24 16 ∧
        (names t 1 = true → names s 1 = false → t.time.pps = 2 ∧ t.time.lastEdge = some s.now) ∧
        (names t 1 = false → t.time.pps = 0) ∧
        tod t = tod s ∧ t.mem = s.mem ∧ t.tiles = s.tiles ∧ t.runs = s.runs) ∧
    (∀ s : State, on s TIM_STATUS_slewing = true → s.time.slew = 0 → Gives .slewComplete s fun t =>
      Writes s { t with time := s.time } [(TIM_STATUS_slewing, 0)] ∧ t.time.slew = 0)

/-- 1PPS edges are accepted, rejected by width or window, and missed. R31 to R34 and TIM_PPS_STATS; that a missed second is counted once per command is the model's choice (log 24). -/
def Obligations.PulsePerSecondEdges : Prop :=
    (∀ (s : State) (falling : Bool) (w : Nat), s.time.pps ≠ 0 → on s TIM_SRC_CFG_pps_edge = falling → w < 100 ∨ 500000000 < w →
      Gives (.ppsEdge falling w) s fun t => Writes s t [(TIM_PPS_STATS_width_rejects, upBy s TIM_PPS_STATS_width_rejects 1)]) ∧
    (∀ (s : State) (falling : Bool) (w : Nat), s.time.pps = 3 → on s TIM_SRC_CFG_pps_edge = falling → 100 ≤ w → w ≤ 500000000 →
      (nearSecond (tod s - ppsCentre s)).natAbs ≤ 1000 → s.time.setPend = none →
      Gives (.ppsEdge falling w) s fun t =>
        rd t TIM_PPS_STATS_accepted = upBy s TIM_PPS_STATS_accepted 1 ∧ rd t TIM_STATUS_pps_ok = 1 ∧
        rd t TIM_PHASE_ERR_phase_err = unsigned 32 (nearSecond (tod s - ppsCentre s)) ∧ t.time.lastEdge = some s.now ∧
        tod t = tod s ∧ t.mem = s.mem ∧ t.tiles = s.tiles) ∧
    (∀ (s : State) (falling : Bool) (w : Nat), s.time.pps = 3 → on s TIM_SRC_CFG_pps_edge = falling → 100 ≤ w → w ≤ 500000000 →
      1000 < (nearSecond (tod s - ppsCentre s)).natAbs → s.time.outside.length < 3 →
      Gives (.ppsEdge falling w) s fun t =>
        Writes s { t with time := s.time } [(TIM_PPS_STATS_window_rejects, upBy s TIM_PPS_STATS_window_rejects 1)] ∧
        t.time.lastEdge = s.time.lastEdge) ∧
    (∀ (s : State) (e : Nat), s.time.lastEdge = some e → s.time.pps = 2 ∨ s.time.pps = 3 → e + 1500000000 ≤ s.now →
      Gives .ppsHoldover s fun t => t.time.pps = 4 ∧ t.time.servo = s.time.servo ∧ rd t TIM_STATUS_pps_ok = 0 ∧
        flag t TIM_CAUSE_cause 2 = true ∧ tod t = tod s) ∧
    (∀ (s : State) (e : Nat), s.time.lastPtp = some e → on s TIM_STATUS_ptp_ok = true → e + 4000000000 ≤ s.now →
      Gives .ptpLost s fun t => rd t TIM_STATUS_ptp_ok = 0 ∧ flag t TIM_CAUSE_cause 4 = true ∧ tod t = tod s) ∧
    (∀ s : State, s.time.pps = 3 → s.time.lastMissing < (tod s - 1001) / 1000000000 →
      Gives .ppsMissing s fun t => Writes s { t with time := s.time } [(TIM_PPS_STATS_missing, upBy s TIM_PPS_STATS_missing 1)] ∧
        t.time.lastMissing = (tod s - 1001) / 1000000000)

/-- TIME_1PPS_OUT is asserted at a whole second and released after its width. R38; pps_out_width 0 is treated as 1 (R53). -/
def Obligations.PulseOutFollowsWholeSeconds : Prop :=
    (∀ s : State, on s TIM_SRC_CFG_pps_out_en = true → on s TIM_STATUS_tod_valid = true → s.time.pulse = false →
      (nearSecond (tod s)).natAbs ≤ 5 →
      exec .ppsOutAssert s = .next { s with time := { s.time with pulse := true, pulseFrom := s.now }, out := .pin "TIME_1PPS_OUT" true :: s.out }) ∧
    (∀ s : State, on s TIM_SRC_CFG_pps_out_en = false ∨ on s TIM_STATUS_tod_valid = false → exec .ppsOutAssert s = .next s) ∧
    (∀ s : State, s.time.pulse = true → s.time.pulseFrom + 1000000 * max 1 (rd s TIM_SRC_CFG_pps_out_width) ≤ s.now →
      exec .ppsOutRelease s = .next { s with time := { s.time with pulse := false }, out := .pin "TIME_1PPS_OUT" false :: s.out })

/-- A frequency step relocks, runs roll call and clears busy; a roll call starts the window grid anew; a link that fails is reported. R41, R47 and R52; log 24 for busy after a failed step. -/
def Obligations.FrequencyStepsAndRollCall : Prop :=
    (∀ (s : State) (g : BitVec 2), fnUp s 0 = true → g.toNat ≠ rd s TIM_FREQ_CTL_current →
      Gives (.freqTargetWrite 0 g) s fun t => Writes s t [(TIM_FREQ_CTL_target, g.toNat), (TIM_FREQ_CTL_busy, 1)]) ∧
    (∀ (s : State) (g : BitVec 2), fnUp s 0 = true → g.toNat = rd s TIM_FREQ_CTL_current → s.time.relock = false → s.time.rollCall ≠ 2 →
      Gives (.freqTargetWrite 0 g) s fun t => Writes s t [(TIM_FREQ_CTL_target, g.toNat), (TIM_FREQ_CTL_busy, 0)]) ∧
    (∀ s : State, on s TIM_FREQ_CTL_busy = true → gridStopped s = false → (∀ p ∈ s.runs, p.2.live = false) →
      (∀ p ∈ s.periods, tod s + 25000 ≤ p.2.bellAt p.2.nextStart) →
      exec .pllRelock s = .next { s with time := { s.time with relock := true, relockTo := rd s TIM_FREQ_CTL_target } }) ∧
    (∀ s : State, s.time.relock = true →
      Gives .relockDone s fun t => t.time = { s.time with relock := false, rollCall := 2, rollRun := none } ∧
        Writes s { t with time := s.time } [(TIM_FREQ_CTL_current, s.time.relockTo % 2 ^ 2)]) ∧
    (∀ (s : State) (l : List (Nat × Nat × Nat)), s.time.rollCall ≠ 0 → (l.map fun o => (o.1, o.2.1)).Nodup →
      Gives (.rollCallDone l) s fun t => rd t TIM_WINDOW_window = 0 ∧ t.time.winTod = tod s ∧ t.time.rollCall = 0 ∧
        t.time.rollDue = false ∧ t.time.rolled = true ∧ t.bubbleNow = [] ∧
        (∀ u, tileOf t u = { tileOf s u with stretch := (tileOf t u).stretch, bubbleReq := (tileOf t u).bubbleReq }) ∧
        (∀ p ∈ t.tiles, p.2.stretch = 0 ∧ p.2.bubbleReq = false) ∧
        (∀ o ∈ l, linkEnabled s o.1 o.2.1 = true →
          rd t (TIM_XOFS_offset o.1 o.2.1) = o.2.2 % 2 ^ (TIM_XOFS_offset o.1 o.2.1).w) ∧
        (s.time.rollCall = 2 → rd t TIM_FREQ_CTL_busy = b2n (rd s TIM_FREQ_CTL_target != rd s TIM_FREQ_CTL_current) ∧
          rd t TIM_CAUSE_cause = withBit s TIM_CAUSE_cause 11) ∧
        FieldsKept s t ((l.map fun o => TIM_XOFS_offset o.1 o.2.1) ++ (if s.time.rollCall = 2 then [TIM_FREQ_CTL_busy, TIM_CAUSE_cause]
          else []) ++ [TIM_WINDOW_window]) ∧ t.mem = s.mem) ∧
    (∀ (s : State) (u l : Nat), s.time.rollCall ≠ 0 → s.time.rollRun = none →
      Gives (.rollCallFail u l) s fun t => flag t TIM_CAUSE_cause 9 = true ∧ flag t REL_CAUSE_cause 0 = true ∧
        rd t TIM_WINDOW_window = 0 ∧ t.time.rollCall = 0 ∧ t.time.rollDue = true ∧
        (s.time.rollCall = 2 → rd t TIM_FREQ_CTL_busy = 0) ∧ t.mem = s.mem)

/-- A tile stretches at most three times in a window; a window end counts windows. R41, R48, R51; the table of R351 for codes 0x09 and 0x0B. -/
def Obligations.DroopAndWindows : Prop :=
    (∀ (s : State) (u : Nat), tileOn s u = true → gridStopped s = false → bubbled s u = false → (tileOf s u).stretch < 3 →
      Gives (.droopStretch u) s fun t => (tileOf t u).stretch = (tileOf s u).stretch + 1 ∧ (tileOf t u).bubbleReq = (tileOf s u).bubbleReq ∧
        rd t (TIM_STRETCH_own u) = upBy s (TIM_STRETCH_own u) 1 ∧ t.mem = s.mem) ∧
    (∀ (s : State) (u : Nat), tileOn s u = true → gridStopped s = false → bubbled s u = false → 3 ≤ (tileOf s u).stretch →
      Gives (.droopStretch u) s fun t => tileOf t u = { tileOf s u with bubbleReq := true } ∧ TilesKeptBut s t u ∧
        Writes s { t with tiles := s.tiles } [(TIM_STRETCH_bubble_req u, upBy s (TIM_STRETCH_bubble_req u) 1)]) ∧
    (∀ s : State, gridStopped s = false → s.time.rolled = true →
      Gives .windowEnd s fun t => rd t TIM_WINDOW_window = upBy s TIM_WINDOW_window 1 ∧ t.windows = s.windows + 1 ∧
        (∀ p ∈ t.tiles, p.2.stretch = 0 ∧ p.2.bubbleReq = false) ∧ t.time.winTod = tod s ∧ tod t = tod s ∧ t.mem = s.mem) ∧
    (∀ s : State, gridStopped s = true → exec .windowEnd s = .next s) ∧
    (∀ (s : State) (u : Nat), (tileOf s u).bubbleReq = true → Gives (.timingMarginFault u) s fun t => flag t REL_CAUSE_cause 0 = true) ∧
    (∀ (s : State) (u : Nat), (tileOf s u).bubbleReq = false → exec (.timingMarginFault u) s = .next s) ∧
    (∀ (s : State) (u l : Nat) (o : Bool), Gives (.xovr u l o) s fun t => flag t REL_CAUSE_cause 0 = true ∧ flag t TIM_CAUSE_cause 10 = true)

/-- NOP, SETLIM, LOOP, SETCMP, HINT and HALT end their bundle. R56, R64, R66, R69, R70, R73 and the latencies of R80. -/
def Obligations.SequencerMovesOn : Prop :=
    (∀ (s : State) (t : Nat), SeqReady s t → Gives (.nop t 0) s fun u => Moved s u t (tileOf s t) none 1) ∧
    (∀ (s : State) (t k : Nat), k ≠ 0 → TileReady s t →
      Gives (.nop t k) s fun u => Writes s u [(TIL_SEQ_STATUS_state t, 1)]) ∧
    (∀ (s : State) (t : Nat) (c : BitVec 3) (n : BitVec 20), SeqReady s t → Gives (.setlim t c n) s fun u =>
      Moved s u t { tileOf s t with lims := Store.put (tileOf s t).lims c.toNat 1 (n.toNat + 1) } none 1) ∧
    (∀ (s : State) (t : Nat) (c : BitVec 3) (e : BitVec 14), SeqReady s t → Gives (.loop t c e) s fun u =>
      Moved s u t { tileOf s t with
        cnts := Store.erase (tileOf s t).cnts c.toNat
        loops := ⟨c.toNat, pcOf s t + 1, e.toNat⟩ :: (tileOf s t).loops.filter fun l => l.c != c.toNat } none 1) ∧
    (∀ (s : State) (t : Nat) (k : BitVec 2) (c : BitVec 3) (cond : BitVec 2) (v : BitVec 16), SeqReady s t →
      Gives (.setcmp t k c cond v) s fun u =>
        Moved s u t { tileOf s t with cmps := Store.set (tileOf s t).cmps k.toNat ⟨c.toNat, cond.toNat, v.toNat⟩ } none 1) ∧
    (∀ (s : State) (t : Nat) (level : BitVec 4) (lead : BitVec 6) (len : BitVec 10), SeqReady s t →
      Gives (.hint t level lead len) s fun u => Moved s u t { tileOf s t with
        hints := (tileOf s t).hints ++ [(s.windows + (lead.toNat + 1), len.toNat + 1, level.toNat)] } none 1) ∧
    (∀ (s : State) (t : Nat) (code : BitVec 8), SeqReady s t → Gives (.halt t code) s fun u =>
      seqState u t = 4 ∧ rd u (TIL_SEQ_STATUS_halt_code t) = code.toNat ∧
      (∃ m w r, tileOf u t = { tileOf s t with
        hold := none, haltTick := some (max (tickOf s t + 1) (deliveredTick (tileOf s t) 31 (tickOf s t + 1)))
        micros := m, wbuf := w, aregs := r }) ∧
      ((∀ m ∈ (tileOf s t).micros, tickOf s t + 1 < m.tick) → u.mem = s.mem ∧ u.fabric = s.fabric) ∧
      FieldsKept s u [TIL_SEQ_STATUS_halt_code t, TIL_SEQ_STATUS_state t, CH_WDOG_stalled t] ∧ TilesKeptBut s u t ∧
      pcOf u t = pcOf s t ∧ tickOf u t = tickOf s t ∧
      u = { s with regs := u.regs, tiles := u.tiles, mem := u.mem, fabric := u.fabric })

/-- JUMP and BRC move the pc at their cost; waits hold the tile and end at their tick. R63, R66, R67, R68, R72 and R80. -/
def Obligations.BranchesAndWaits : Prop :=
    (∀ (s : State) (t : Nat) (g : BitVec 14), SeqReady s t →
      Gives (.jump t g) s fun u => Moved s u t (tileOf s t) (some g.toNat) 3) ∧
    (∀ (s : State) (t : Nat) (k : BitVec 2) (sense : Bool) (g : BitVec 14), SeqReady s t → Gives (.brc t k sense g) s fun u =>
      if cmpHolds (tileOf s t) k.toNat = !sense then Moved s u t (tileOf s t) (some g.toNat) 3 else Moved s u t (tileOf s t) none 1) ∧
    (∀ (s : State) (t : Nat) (n : BitVec 26), SeqReady s t → Gives (.waittick t n) s fun u =>
      if n.toNat ≤ tickOf s t + 1 then Moved s u t (tileOf s t) none 1
      else HeldBy s u t { tileOf s t with waits := [.tick n.toNat] }) ∧
    (∀ (s : State) (t q : Nat) (p : Period) (j : Job) (m : BitVec 4), SeqReady s t → periodOfJob s (jobOfTile s t) = some (q, p) →
      jobRec s t = some j → m.toNat < j.marks.length → Gives (.waitbell t m) s fun u =>
        (p.acted.find? (·.1 == m.toNat) = none → HeldBy s u t { tileOf s t with waits := [.bell m.toNat (tickOf s t)] }) ∧
        (∀ g, p.acted.find? (·.1 == m.toNat) = some (m.toNat, g) → tickOf s t ≤ localTick (tileOf s t) g →
          Moved s u t (tileOf s t) none 1)) ∧
    (∀ (s : State) (t : Nat) (slots : BitVec 5) (lp : Bool), SeqReady s t → Gives (.fence t slots lp) s fun u =>
      if fenceSettled (tileOf s t) slots.toNat lp (tickOf s t) (tileOf s t).newMsg (tileOf s t).newAid = true ∧
          deliveredTick (tileOf s t) slots.toNat (tickOf s t) ≤ tickOf s t + 1 then Moved s u t (tileOf s t) none 1
      else HeldBy s u t { tileOf s t with
        waits := [.fence slots.toNat lp (tickOf s t) (tileOf s t).newMsg (tileOf s t).newAid] }) ∧
    (∀ (s : State) (t k : Nat), seqState s t = 2 → (tileOf s t).waits = [.tick k] → (tileOf s t).haltTick = none → Gives (.waittickRelease t) s fun u =>
      seqState u t = 1 ∧ tickOf u t = min (max (tickOf s t) k) (2 ^ 48 - 1) ∧ pcOf u t = pcOf s t ∧ (tileOf u t).waits = [] ∧ TilesKeptBut s u t) ∧
    (∀ (s : State) (t k slots issued m a : Nat) (lp : Bool), seqState s t = 2 → (tileOf s t).waits = [.fence slots lp issued m a] →
      fenceSettled (tileOf s t) slots lp issued m a = true → (tileOf s t).haltTick = none → Gives (.fenceRelease t k) s fun u =>
        seqState u t = 1 ∧ pcOf u t = pcOf s t ∧ (tileOf u t).waits = [] ∧ TilesKeptBut s u t ∧
        tickOf u t = min (max (tickOf s t) (max (tickOf s t + 1) (max k (deliveredTick (tileOf s t) slots issued)))) (2 ^ 48 - 1))

/-- TRAP stops its tile; REFR refreshes a row group; DIGEST closes a segment. R71, R72, R178, R239, R334 and R336. -/
def Obligations.TrapsRefreshesAndDigests : Prop :=
    (∀ (s : State) (t : Nat) (code : BitVec 8), SeqReady s t → rd s (TIL_ERR_valid t) = 0 → Gives (.trap t code) s fun u =>
      seqState u t = 5 ∧ rd u (TIL_SEQ_STATUS_halt_code t) = code.toNat ∧ rd u (TIL_ERR_code t) = 4 ∧ rd u (TIL_ERR_slot t) = 0 ∧
      rd u (TIL_ERR_pc t) = pcOf s t % 2 ^ 14 ∧ rd u (TIL_ERR_valid t) = 1 ∧ rd u (TIL_ERR_TICK_tick t) = tickOf s t % 2 ^ 48 ∧
      rd u (TIL_CAUSE_cause t) = withBit s (TIL_CAUSE_cause t) 0 ∧ (tileOf u t).waits = [] ∧ (tileOf u t).hold = none ∧
      pcOf u t = pcOf s t ∧ tickOf u t = tickOf s t ∧ TilesKeptBut s u t ∧
      FieldsKept s u [TIL_SEQ_STATUS_halt_code t, TIL_SEQ_STATUS_state t, TIL_ERR_code t, TIL_ERR_slot t, TIL_ERR_pc t, TIL_ERR_valid t,
        TIL_ERR_TICK_tick t, TIL_CAUSE_cause t, CH_WDOG_stalled t]) ∧
    (∀ (s : State) (t : Nat) (g : BitVec 12), SeqReady s t → Gives (.refr t g) s fun u =>
      Store.get? (tileOf u t).refreshed g.toNat = some s.now ∧ (tileOf u t).refrBusy = tickOf s t + 9 ∧
      rd u (BDR_REFRESH_refr t) = upBy s (BDR_REFRESH_refr t) 1 ∧ tickOf u t = min (tickOf s t + 1) (2 ^ 48 - 1) ∧ seqState u t = 1 ∧
      pcOf u t = (loopNext (tileOf s t).lims (pcOf s t) (tileOf s t).loops (tileOf s t).cnts).2.2 % 2 ^ 14 ∧
      (∀ c ∈ s.claims, c.region ≠ t → c ∈ u.claims) ∧ u.jobs = s.jobs ∧ u.runs = s.runs) ∧
    (∀ (s : State) (t : Nat) (l : BitVec 16), SeqReady s t → auditOn s (tilePart s t) = false →
      Gives (.digest t l) s fun u => Moved s u t (tileOf s t) none 1) ∧
    (∀ (s : State) (t : Nat) (l : BitVec 16), SeqReady s t → auditOn s (tilePart s t) = true →
      (tileOf s t).layers.find? (·.layer == l.toNat) = none → (tileOf s t).layers.length < 256 →
      Gives (.digest t l) s fun u => Moved s u t { tileOf s t with
        segTags := [], layers := insertBy (·.layer) ⟨l.toNat, 1, sha384 (List.replicate 48 0 ++ sha384 (tileOf s t).segTags.flatten)⟩
          (tileOf s t).layers } none 1) ∧
    (∀ (s : State) (t : Nat) (l : BitVec 16) (d : LayerDig), SeqReady s t → auditOn s (tilePart s t) = true →
      (tileOf s t).layers.find? (·.layer == l.toNat) = some d →
      Gives (.digest t l) s fun u => Moved s u t { tileOf s t with
        segTags := [], layers := (tileOf s t).layers.map fun e => if e.layer = d.layer then
          ⟨d.layer, d.closes + 1, sha384 (d.digest ++ sha384 (tileOf s t).segTags.flatten)⟩ else e } none 1)

/-- The integer, logic and multiply operations of the aides compute their results. R158 for operands and predication, R159 for results, R80 for latencies. -/
def Obligations.AideArithmetic : Prop :=
    AideWrites .add use3 (fun _ => []) 1 (fun a x i => (x.v1 a i + x.v2 a i) % 2 ^ 64) ∧
    AideWrites .sub use3 (fun _ => []) 1 (fun a x i => (x.v1 a i + (2 ^ 64 - x.v2 a i)) % 2 ^ 64) ∧
    AideWrites .and use3 (fun _ => []) 1 (fun a x i => x.v1 a i &&& x.v2 a i) ∧
    AideWrites .or use3 (fun _ => []) 1 (fun a x i => x.v1 a i ||| x.v2 a i) ∧
    AideWrites .xor use3 (fun _ => []) 1 (fun a x i => x.v1 a i ^^^ x.v2 a i) ∧
    AideWrites .addi useImm (fun _ => []) 1 (fun a x i => (x.v1 a i + unsigned 64 (signed 32 a.imm.toNat)) % 2 ^ 64) ∧
    AideWrites .andi useImm (fun _ => []) 1 (fun a x i => x.v1 a i &&& a.imm.toNat) ∧
    AideWrites .ori useImm (fun _ => []) 1 (fun a x i => x.v1 a i ||| a.imm.toNat) ∧
    AideWrites .xori useImm (fun _ => []) 1 (fun a x i => x.v1 a i ^^^ a.imm.toNat) ∧
    AideWrites .lih useImm (fun _ => []) 1 (fun a x i => a.imm.toNat * 2 ^ 32 + x.v1 a i % 2 ^ 32) ∧
    AideWrites .min use3 (fun _ => []) 1 (fun a x i =>
      if signed 64 (x.v2 a i) < signed 64 (x.v1 a i) then x.v2 a i else x.v1 a i) ∧
    AideWrites .max use3 (fun _ => []) 1 (fun a x i =>
      if signed 64 (x.v1 a i) < signed 64 (x.v2 a i) then x.v2 a i else x.v1 a i) ∧
    AideWrites .minu use3 (fun _ => []) 1 (fun a x i => min (x.v1 a i) (x.v2 a i)) ∧
    AideWrites .maxu use3 (fun _ => []) 1 (fun a x i => max (x.v1 a i) (x.v2 a i)) ∧
    AideWrites .aidx { rs1 := false, rs2 := false } (fun _ => []) 1 (fun _ _ i => i) ∧
    AideWrites .mul use3 (fun _ => []) 3 (fun a x i => x.v1 a i * x.v2 a i % 2 ^ 64) ∧
    AideWrites .mulhu use3 (fun _ => []) 3 (fun a x i => x.v1 a i * x.v2 a i / 2 ^ 64) ∧
    AideWrites .mulhs use3 (fun _ => []) 3 (fun a x i =>
      unsigned 64 (signed 64 (x.v1 a i) * signed 64 (x.v2 a i) / 2 ^ 64)) ∧
    AideWrites .clmul use3 (fun _ => []) 3 (fun a x i => clmulAux (x.v1 a i) (x.v2 a i) 64 % 2 ^ 64) ∧
    AideWrites .muli useImm (fun _ => []) 3 (fun a x i => x.v1 a i * unsigned 64 (signed 32 a.imm.toNat) % 2 ^ 64)

/-- Shifts, SEL, SLT, SLTU, EXT and HASH of the aides compute their results. R158 and R159, R80 for latencies. -/
def Obligations.AideShiftsComparesAndHash : Prop :=
    AideWrites .sll useSh (fun _ => []) 1 (fun a x i => x.v1 a i * 2 ^ ((x.v2 a i + a.imm.toNat) % 64) % 2 ^ 64) ∧
    AideWrites .srl useSh (fun _ => []) 1 (fun a x i => x.v1 a i / 2 ^ ((x.v2 a i + a.imm.toNat) % 64)) ∧
    AideWrites .sra useSh (fun _ => []) 1 (fun a x i =>
      unsigned 64 (signed 64 (x.v1 a i) / 2 ^ ((x.v2 a i + a.imm.toNat) % 64))) ∧
    AideWrites .rotr useSh (fun _ => []) 1 (fun a x i => rotl64 (x.v1 a i) (64 - (x.v2 a i + a.imm.toNat) % 64)) ∧
    AideWrites .sel { immBits := 3 } (fun a => if a.imm.toNat % 8 = 0 then [] else [.pred (a.imm.toNat % 8)]) 1
      (fun a x i => if x.pred i (a.imm.toNat % 8) then x.v1 a i else x.v2 a i) ∧
    AideWrites .slt use3 (fun _ => []) 1 (fun a x i => if signed 64 (x.v1 a i) < signed 64 (x.v2 a i) then 1 else 0) ∧
    AideWrites .sltu use3 (fun _ => []) 1 (fun a x i => if x.v1 a i < x.v2 a i then 1 else 0) ∧
    AideWrites .ext { rs2 := false, immBits := 12 } (fun _ => []) 1 (fun a x i =>
      x.v1 a i / 2 ^ (a.imm.toNat % 64) % 2 ^ (a.imm.toNat / 64 % 64 + 1)) ∧
    AideWrites .hash useSh (fun _ => []) 6 (fun a x i => hashH (x.v1 a i ^^^ rotl64 (x.v2 a i) 29 ^^^ a.imm.toNat))

/-- The predicate operations of the aides set predicate rd. R157, R158 and R159. -/
def Obligations.AidePredicates : Prop :=
    AideSets .peq usePred (fun a x i => x.v1 a i == x.v2 a i) ∧
    AideSets .pne usePred (fun a x i => x.v1 a i != x.v2 a i) ∧
    AideSets .plt usePred (fun a x i => decide (signed 64 (x.v1 a i) < signed 64 (x.v2 a i))) ∧
    AideSets .pltu usePred (fun a x i => decide (x.v1 a i < x.v2 a i)) ∧
    AideSets .pge usePred (fun a x i => decide (signed 64 (x.v2 a i) ≤ signed 64 (x.v1 a i))) ∧
    AideSets .pgeu usePred (fun a x i => decide (x.v2 a i ≤ x.v1 a i)) ∧
    AideSets .peqi usePredI (fun a x i => x.v1 a i == unsigned 64 (signed 32 a.imm.toNat)) ∧
    AideSets .plti usePredI (fun a x i => decide (signed 64 (x.v1 a i) < signed 32 a.imm.toNat)) ∧
    AideSets .pand usePred2 (fun a x i => x.pred i a.rs1.toNat && x.pred i a.rs2.toNat) ∧
    AideSets .por usePred2 (fun a x i => x.pred i a.rs1.toNat || x.pred i a.rs2.toNat) ∧
    AideSets .pxor usePred2 (fun a x i => x.pred i a.rs1.toNat != x.pred i a.rs2.toNat) ∧
    AideSets .pany usePred1 (fun a x _ => (List.range 16).any fun i => x.pred i a.rs1.toNat) ∧
    AideSets .pall usePred1 (fun a x _ => (List.range 16).all fun i => x.pred i a.rs1.toNat)

/-- Aide loads, gathers, stores and scatters move the bytes they address. R159, R160 and R168; R80 for latencies. -/
def Obligations.AideLoadsAndStores : Prop :=
    AideLoads .ld8 1 false ownAccess ∧ AideLoads .ld16 2 false ownAccess ∧ AideLoads .ld32 4 false ownAccess ∧
    AideLoads .ld64 8 false ownAccess ∧ AideLoads .ld8s 1 true ownAccess ∧ AideLoads .ld16s 2 true ownAccess ∧
    AideLoads .ld32s 4 true ownAccess ∧ AideLoads .gld32 4 false tileAccess ∧ AideLoads .gld64 8 false tileAccess ∧
    AideStores .st8 1 ownAccess ∧ AideStores .st16 2 ownAccess ∧ AideStores .st32 4 ownAccess ∧ AideStores .st64 8 ownAccess ∧
    AideStores .gst32 4 tileAccess ∧ AideStores .gst64 8 tileAccess ∧
    (∀ (s : State) (a : AidOp), s.upsets = [] → aidBad { rs2 := false, immBits := 8 } a = false → a.imm.toNat < formFields s a.t →
      (∀ i ∈ aidesRun (tileOf s a.t) a, (tileOf s a.t).v1 a i + (0x20 + 8 * a.imm.toNat) + 8 ≤ 0x40000 ∧
        ((tileOf s a.t).v1 a i + (0x20 + 8 * a.imm.toNat)) % 8 = 0) →
      OpReady s a.t 3 (aidRes { rs2 := false, immBits := 8 } a ++ (aidesRun (tileOf s a.t) a).map fun i =>
        Res.bytes (aideBase a.t i + ((tileOf s a.t).v1 a i + (0x20 + 8 * a.imm.toNat))) 8) →
      Gives (.decf a) s fun u => AideWrote s u a 6 (fun x i =>
        leNat (readBytes s (aideBase a.t i + (x.v1 a i + (0x20 + 8 * a.imm.toNat))) 8)) ∨ aidesRun (tileOf s a.t) a = []) ∧
    (∀ (s : State) (a : AidOp), s.upsets = [] → aidBad { rs2 := false, immBits := 8 } a = false → a.imm.toNat < formFields s a.t →
      (∀ i ∈ aidesRun (tileOf s a.t) a, (tileOf s a.t).v1 a i + 0x18 + 4 ≤ 0x40000 ∧ ((tileOf s a.t).v1 a i + 0x18) % 4 = 0) →
      OpReady s a.t 3 (aidRes { rs2 := false, immBits := 8 } a ++ (aidesRun (tileOf s a.t) a).map fun i =>
        Res.bytes (aideBase a.t i + ((tileOf s a.t).v1 a i + 0x18)) 4) →
      Gives (.deca a) s fun u => AideWrote s u a 6 (fun x i =>
        leNat (readBytes s (aideBase a.t i + (x.v1 a i + 0x18)) 4) / 2 ^ a.imm.toNat % 2) ∨ aidesRun (tileOf s a.t) a = []) ∧
    (∀ (s : State) (a : AidOp) (i c : Nat), aidBad { rs2 := false, immBits := 32 } a = false →
      firstBad (aidAccesses (tileOf s a.t) a 8 ownAccess) = some (i, c) → rd s (TIL_ERR_valid a.t) = 0 →
      OpReady s a.t 3 (aidRes { rs2 := false, immBits := 32 } a ++
        (goodOnes (aidAccesses (tileOf s a.t) a 8 ownAccess)).map fun p => Res.bytes p.2 8) →
      Gives (.ld64 a) s fun u => seqState u a.t = 5 ∧ rd u (TIL_ERR_code a.t) = 1 ∧ rd u (TIL_ERR_slot a.t) = 3)

/-- AZERO, ANCHOR and EMIT act on the accumulator tile they name; WLOAD fills a weight buffer. R95, R96, R97, R106, R108, R111 and R114. -/
def Obligations.AccumulatorsAndTray : Prop :=
    (∀ (s : State) (o : MeOp) (i : Nat), accOpBad o = false → i = accIndex (tileOf s o.t) o.acc.toNat o.acnt.toNat → i < accLimit o.exam →
      OpReady s o.t 1 (accRes o.exam i) → Gives (.azero o) s fun u =>
        (o.exam = false → Store.get? (tileOf u o.t).acc i = some (List.replicate 256 0) ∧
          (∀ j, j ≠ i → Store.get? (tileOf u o.t).acc j = Store.get? (tileOf s o.t).acc j) ∧
          (i < 240 → Store.get? (tileOf u o.t).exam (i / 5) = none) ∧
          (∀ e, 240 ≤ i ∨ e ≠ i / 5 → Store.get? (tileOf u o.t).exam e = Store.get? (tileOf s o.t).exam e)) ∧
        (o.exam = true → Store.get? (tileOf u o.t).exam i = some (List.replicate 256 0) ∧
          (∀ e, e ≠ i → Store.get? (tileOf u o.t).exam e = Store.get? (tileOf s o.t).exam e) ∧
          (∀ j, j / 5 = i → j < 240 → Store.get? (tileOf u o.t).acc j = none) ∧
          (∀ j, 240 ≤ j ∨ j / 5 ≠ i → Store.get? (tileOf u o.t).acc j = Store.get? (tileOf s o.t).acc j)) ∧
        (tileOf u o.t).anchors = (tileOf s o.t).anchors ∧ (tileOf u o.t).wbuf = (tileOf s o.t).wbuf ∧
        (tileOf u o.t).tray = (tileOf s o.t).tray ∧ Issued s u o.t []) ∧
    (∀ (s : State) (o : MeOp) (i : Nat), anchorBad o = false → i = accIndex (tileOf s o.t) o.acc.toNat o.acnt.toNat → i < 48 →
      OpReady s o.t 1 (accRes true i) → Gives (.anchor o) s fun u =>
        Store.getD (tileOf u o.t).anchors i 0 = signed 10 o.aoff.toNat ∧
        (∀ e, e ≠ i → Store.getD (tileOf u o.t).anchors e 0 = Store.getD (tileOf s o.t).anchors e 0) ∧
        Store.get? (tileOf u o.t).exam i = some (List.replicate 256 0) ∧
        (∀ e, e ≠ i → Store.get? (tileOf u o.t).exam e = Store.get? (tileOf s o.t).exam e) ∧
        (∀ j, j / 5 = i → j < 240 → Store.get? (tileOf u o.t).acc j = none) ∧
        (∀ j, 240 ≤ j ∨ j / 5 ≠ i → Store.get? (tileOf u o.t).acc j = Store.get? (tileOf s o.t).acc j) ∧ Issued s u o.t []) ∧
    (∀ (s : State) (o : MeOp) (i n : Nat), accOpBad o = false → i = accIndex (tileOf s o.t) o.acc.toNat o.acnt.toNat →
      i < accLimit o.exam → n = (if o.exam then 10 else 2) → OpReady s o.t 1 (accRes o.exam i) →
      trayPortHold (tileOf s o.t) (tickOf s o.t + 1) n = [] → trayShort (tileOf s o.t) (tickOf s o.t) n = false →
      Gives (.emit o) s fun u =>
        (tileOf u o.t).tray = insertBy TrayEntry.first ⟨o.exam,
          if o.exam then examVals (tileOf s o.t) i else (openVals (tileOf s o.t) i).map fun k => (k : Int),
          if o.exam then Store.getD (tileOf s o.t).anchors i 0 else 0, tickOf s o.t + 1, tickOf s o.t⟩ (tileOf s o.t).tray ∧
        (tileOf u o.t).acc = (tileOf s o.t).acc ∧ (tileOf u o.t).exam = (tileOf s o.t).exam ∧ Issued s u o.t (trayRegs o.t)) ∧
    (∀ (s : State) (o : MeOp) (n a : Nat), s.upsets = [] → wloadBad o = false → n = imgLines o.fmt.toNat o.sparse →
      a = effAddr (tileOf s o.t) o.adesc.toNat o.aoff.toNat → a % 512 = 0 → ownScratch s o.t 0 a (512 * n) = true →
      (tileOf s o.t).micros = [] → portBusy (tileOf s o.t) 1 .weight (rangeFrom (tickOf s o.t) n) = false →
      OpReady s o.t 1 (.wbuf (b2n o.wbuf) :: spanOf a (512 * n)) → Gives (.wload o) s fun u =>
        wbufTag u o.t o.wbuf = (1, o.fmt.toNat, b2n o.sparse) ∧ wbufTag u o.t (!o.wbuf) = wbufTag s o.t (!o.wbuf) ∧
        (∀ i, i < n → Store.get? (tileOf (runDue u o.t (tickOf s o.t + n)) o.t).wbuf (128 * b2n o.wbuf + i) =
          some (readBytes s (a + 512 * i) 512)) ∧
        (runDue u o.t (tickOf s o.t + n)).mem = s.mem ∧
        Issued s u o.t (if o.wbuf then [ME_STATUS_wbuf1_fmt o.t, ME_STATUS_wbuf1_sparse o.t, ME_STATUS_wbuf1_valid o.t]
          else [ME_STATUS_wbuf0_fmt o.t, ME_STATUS_wbuf0_sparse o.t, ME_STATUS_wbuf0_valid o.t]))

/-- MMA leaves the 256 dot results in its accumulator tile. R100, R101, R105 and R107; R114 for the tray, R122 for the count. -/
def Obligations.MatrixMultiply : Prop :=
    (∀ (s : State) (o : MeOp) (i a n : Nat) (vec : Bytes) (prods : List (List FVal)) (v : List Nat), s.upsets = [] → mmaBad o = false → o.exam = false →
      i = accIndex (tileOf s o.t) o.acc.toNat o.acnt.toNat → i < 256 → a = effAddr (tileOf s o.t) o.adesc.toNat o.aoff.toNat →
      n = vecBytes o.fmt.toNat o.sparse + (if o.amask then 32 else 0) → a % 32 = 0 → ownScratch s o.t 0 a n = true →
      wbufTag s o.t o.wbuf = (1, o.fmt.toNat, b2n o.sparse) → vec = readBytes s a n →
      prods = (List.range 256).map (outputProducts o.fmt.toNat o.sparse o.wus o.pshift.toNat
        (wbufImage (tileOf s o.t) o.wbuf (imgLines o.fmt.toNat o.sparse))
        (rowVals o.fmt.toNat o.aus (fmtK o.fmt.toNat o.sparse) vec (vec.drop (fmtK o.fmt.toNat o.sparse * fmtBits o.fmt.toNat / 8)))
        (fun g => o.amask && bitOf (leNat (vec.drop (vecBytes o.fmt.toNat o.sparse))) g)) →
      v = (if o.accmode = 0 then prods.map dotOpen else List.zipWith add32 (openVals (tileOf s o.t) i) (prods.map dotOpen)) →
      OpReady s o.t 1 (accRes false i ++ [.wbuf (b2n o.wbuf)] ++ spanOf a n) →
      (o.accmode = 2 → trayPortHold (tileOf s o.t) (tickOf s o.t + (10 + b2n o.sparse) + 1) 2 = [] ∧
        trayShort (tileOf s o.t) (tickOf s o.t) 2 = false) →
      Gives (.mma o) s fun u =>
        Store.get? (tileOf u o.t).acc i = some v ∧
        (∀ j, j ≠ i → Store.get? (tileOf u o.t).acc j = Store.get? (tileOf s o.t).acc j) ∧
        (tileOf u o.t).tray = (if o.accmode = 2 then insertBy TrayEntry.first ⟨false, v.map fun k => (k : Int), 0,
          tickOf s o.t + (10 + b2n o.sparse) + 1, tickOf s o.t⟩ (tileOf s o.t).tray else (tileOf s o.t).tray) ∧
        rd u (ME_MMA_COUNT_mma o.t) = (rd s (ME_MMA_COUNT_mma o.t) + 1) % 2 ^ (ME_MMA_COUNT_mma o.t).w ∧
        Issued s u o.t ([ME_MMA_COUNT_mma o.t, ME_GATE_gated_groups o.t, ME_GATE_gated_mma o.t, ME_SHADOW_compares o.t,
          ME_STATUS_shadow_next o.t] ++ trayRegs o.t)) ∧
    (∀ (s : State) (o : MeOp) (i a n : Nat) (vec : Bytes) (res : List ExamRes), s.upsets = [] → mmaBad o = false → o.exam = true →
      i = accIndex (tileOf s o.t) o.acc.toNat o.acnt.toNat → i < 48 → a = effAddr (tileOf s o.t) o.adesc.toNat o.aoff.toNat →
      n = vecBytes o.fmt.toNat o.sparse + (if o.amask then 32 else 0) → a % 32 = 0 → ownScratch s o.t 0 a n = true →
      wbufTag s o.t o.wbuf = (1, o.fmt.toNat, b2n o.sparse) → vec = readBytes s a n →
      res = List.zipWith (examOut (Store.getD (tileOf s o.t).anchors i 0))
        (if o.accmode = 0 then List.replicate 256 (some 0) else if (Store.get? (tileOf s o.t).exam i).isSome then
          (examVals (tileOf s o.t) i).map some else List.replicate 256 none)
        ((List.range 256).map (outputProducts o.fmt.toNat o.sparse o.wus o.pshift.toNat
          (wbufImage (tileOf s o.t) o.wbuf (imgLines o.fmt.toNat o.sparse))
          (rowVals o.fmt.toNat o.aus (fmtK o.fmt.toNat o.sparse) vec (vec.drop (fmtK o.fmt.toNat o.sparse * fmtBits o.fmt.toNat / 8)))
          (fun g => o.amask && bitOf (leNat (vec.drop (vecBytes o.fmt.toNat o.sparse))) g))) →
      OpReady s o.t 1 (accRes true i ++ [.wbuf (b2n o.wbuf)] ++ spanOf a n) →
      (o.accmode = 2 → trayPortHold (tileOf s o.t) (tickOf s o.t + (14 + b2n o.sparse) + 1) 10 = [] ∧
        trayShort (tileOf s o.t) (tickOf s o.t) 10 = false) →
      Gives (.mma o) s fun u =>
        (∀ l : List Int, res = l.map ExamRes.ok → o.accmode = 0 ∨ (Store.get? (tileOf s o.t).exam i).isSome = true →
          Store.get? (tileOf u o.t).exam i = some l ∧
          (tileOf u o.t).tray = (if o.accmode = 2 then insertBy TrayEntry.first ⟨true, l, Store.getD (tileOf s o.t).anchors i 0,
            tickOf s o.t + (14 + b2n o.sparse) + 1, tickOf s o.t⟩ (tileOf s o.t).tray else (tileOf s o.t).tray) ∧
          (∀ e, e ≠ i → Store.get? (tileOf u o.t).exam e = Store.get? (tileOf s o.t).exam e) ∧
          (tileOf u o.t).anchors = (tileOf s o.t).anchors ∧
          Issued s u o.t ([ME_MMA_COUNT_mma o.t, ME_GATE_gated_groups o.t, ME_GATE_gated_mma o.t, ME_SHADOW_compares o.t,
            ME_STATUS_shadow_next o.t] ++ trayRegs o.t)) ∧
        (o.accmode ≠ 0 → Store.get? (tileOf s o.t).exam i = none → examFail res = none →
          seqState u o.t = 1 ∧ Store.get? (tileOf u o.t).exam i = none) ∧
        (∀ f, examFail res = some f → rd s (TIL_ERR_valid o.t) = 0 →
          seqState u o.t = 5 ∧ rd u (TIL_ERR_code o.t) = 7 ∧ rd u (TIL_ERR_slot o.t) = 1))

/-- VCHAIN writes its converted row; VPOP and VLDK act on the tray and a bank. R144, R145, R148, R151, R154 to R156. -/
def Obligations.VectorChainsAndTray : Prop :=
    (∀ (s : State) (t da : Nat) (k : BitVec 8) (sdesc ddesc : BitVec 6) (soff doff : BitVec 10) (c : Chain) (e : TrayEntry),
      s.upsets = [] → (tileOf s t).chains[k.toNat]? = some c → (tileOf s t).tray.head? = some e → c.aux = false → srcMismatch c e.long = false →
      da = effAddr (tileOf s t) ddesc.toNat doff.toNat → da % (if c.outFmt = 0x12 then 512 else 32) = 0 →
      (ownScratch s t 1 da (destBytes c) = true ∨ ownScratch s t 0 da (destBytes c) = true) → sdesc = 0 → soff = 0 →
      headHold (tileOf s t) (tickOf s t) true = [] → (tileOf s t).micros = [] →
      portBusy (tileOf s t) 1 .veWrite [tickOf s t + (4 + 2 * c.stages.length)] = false →
      OpReady s t 2 ((c.stages.flatMap stageBanks).map .bank ++ spanOf da (destBytes c)) →
      Gives (.vchain t k 0 sdesc soff ddesc doff) s fun u =>
        (runDue u t (tickOf s t + (4 + 2 * c.stages.length) + 1)).mem = (writeBits s da (destRow c (runChain s t c (some e) [] []).1
          (runChain s t c (some e) [] []).2.1 (runChain s t c (some e) [] []).2.2)).mem ∧
        rd u (VE_COUNT_chains t) = upBy s (VE_COUNT_chains t) 1 ∧
        (tileOf u t).tray = (if c.pop then (tileOf s t).tray.tail else (tileOf s t).tray) ∧
        rd u (VE_COUNT_pops t) = (if c.pop then upBy s (VE_COUNT_pops t) 1 else rd s (VE_COUNT_pops t)) ∧
        Issued s u t ([VE_COUNT_chains t, VE_COUNT_pops t] ++ trayRegs t)) ∧
    (∀ (s : State) (t sa da : Nat) (k : BitVec 8) (sdesc ddesc : BitVec 6) (soff doff : BitVec 10) (c : Chain),
      s.upsets = [] → (tileOf s t).chains[k.toNat]? = some c → c.aux = false → srcMismatch c false = false →
      sa = effAddr (tileOf s t) sdesc.toNat soff.toNat → sa % 32 = 0 → ownScratch s t 1 sa (packedBytes c.inFmt) = true →
      da = effAddr (tileOf s t) ddesc.toNat doff.toNat → da % (if c.outFmt = 0x12 then 512 else 32) = 0 →
      (ownScratch s t 1 da (destBytes c) = true ∨ ownScratch s t 0 da (destBytes c) = true) → (tileOf s t).micros = [] →
      portBusy (tileOf s t) 1 .veWrite [tickOf s t + (4 + 2 * c.stages.length)] = false →
      OpReady s t 2 ((c.stages.flatMap stageBanks).map .bank ++ (spanOf sa (packedBytes c.inFmt) ++ spanOf da (destBytes c))) →
      Gives (.vchain t k 1 sdesc soff ddesc doff) s fun u =>
        (runDue u t (tickOf s t + (4 + 2 * c.stages.length) + 1)).mem = (writeBits s da (destRow c
          (runChain s t c none (readBytes s sa (packedBytes c.inFmt)) []).1
          (runChain s t c none (readBytes s sa (packedBytes c.inFmt)) []).2.1
          (runChain s t c none (readBytes s sa (packedBytes c.inFmt)) []).2.2)).mem ∧
        rd u (VE_COUNT_chains t) = upBy s (VE_COUNT_chains t) 1 ∧ (tileOf u t).tray = (tileOf s t).tray ∧
        Issued s u t [VE_COUNT_chains t]) ∧
    (∀ (s : State) (a : Nat) (l : List (Byte × Byte)) (b : Nat), b < a ∨ a + l.length ≤ b → readByte (writeBits s a l) b = readByte s b) ∧
    (∀ (s : State) (t : Nat) (e : TrayEntry) (r : List TrayEntry), (tileOf s t).tray = e :: r →
      headHold (tileOf s t) (tickOf s t) false = [] → OpReady s t 2 [] → Gives (.vpop t) s fun u =>
        (tileOf u t).tray = r ∧ rd u (VE_COUNT_pops t) = upBy s (VE_COUNT_pops t) 1 ∧ u.mem = s.mem ∧
        Issued s u t (VE_COUNT_pops t :: trayRegs t)) ∧
    (∀ (s : State) (t a : Nat) (k : BitVec 4) (sdesc : BitVec 6) (soff : BitVec 10),
      s.upsets = [] → a = effAddr (tileOf s t) sdesc.toNat soff.toNat → a % 32 = 0 → ownScratch s t 1 a 1024 = true →
      OpReady s t 2 (.bank k.toNat :: spanOf a 1024) → Gives (.vldk t k sdesc soff) s fun u =>
        Store.get? (tileOf u t).banks k.toNat = some ((List.range 256).map fun j => leNat (readBytes s (a + 4 * j) 4)) ∧
        (∀ b, b ≠ k.toNat → Store.get? (tileOf u t).banks b = Store.get? (tileOf s t).banks b) ∧ Issued s u t [])

/-- Locker operations queue at their hubs and complete there; ROUTE sends entries. R134, R161 and R185 to R187; without an undo log for the writes (R355 adds its entry). -/
def Obligations.LockerOperationsAndRoutes : Prop :=
    LockerQueues .lkfetch .fetch lockerBytes ∧ LockerQueues .lkstore .store lockerBytes ∧ LockerQueues .lkappend .append eventBytes ∧
    (∀ (s : State) (hub : Nat) (o : LockerOp) (r : List LockerOp) (lb head : Nat), Store.getD s.lockerQ hub [] = o :: r → o.kind = .fetch →
      lb = lockerBytes s o.part → head = (readByte s (headAddr s o.part o.locker)).toNat → head < lb / eventBytes s o.part →
      Gives (.lockerOpDone hub) s fun u =>
        readBytes u o.addr lb = logicalLocker s o.part o.locker head ∧ MemKeptBut s u o.addr lb ∧
        Store.getD u.lockerQ hub [] = r ∧
        u.fabric = s.fabric ++ [⟨.incr o.ctr 1 3 o.pc false, o.tile, 0xFFF, o.job, o.epoch, s.now⟩] ∧
        rd u (AID_LOCKER_fetches o.tile) = upBy s (AID_LOCKER_fetches o.tile) 1 ∧ FieldsKept s u [AID_LOCKER_fetches o.tile]) ∧
    (∀ (s : State) (hub : Nat) (o : LockerOp) (r : List LockerOp) (lb : Nat), Store.getD s.lockerQ hub [] = o :: r → o.kind = .store →
      lb = lockerBytes s o.part → on s (REL_UNDO_CFG_en o.part) = false → Gives (.lockerOpDone hub) s fun u =>
        readByte u (headAddr s o.part o.locker) = 0 ∧
        (∀ i, i < lb → lockerAddr s o.part o.locker + i ≠ headAddr s o.part o.locker →
          readByte u (lockerAddr s o.part o.locker + i) = readByte s (o.addr + i)) ∧
        (∀ b, b < lockerAddr s o.part o.locker ∨ lockerAddr s o.part o.locker + lb ≤ b → b ≠ headAddr s o.part o.locker →
          readByte u b = readByte s b) ∧
        u.fabric = s.fabric ++ [⟨.incr o.ctr 1 3 o.pc false, o.tile, 0xFFF, o.job, o.epoch, s.now⟩] ∧
        rd u (AID_LOCKER_writes o.tile) = upBy s (AID_LOCKER_writes o.tile) 1 ∧ Store.getD u.lockerQ hub [] = r) ∧
    (∀ (s : State) (hub : Nat) (o : LockerOp) (r : List LockerOp) (lb eb head a : Nat), Store.getD s.lockerQ hub [] = o :: r →
      o.kind = .append → lb = lockerBytes s o.part → eb = eventBytes s o.part →
      head = (readByte s (headAddr s o.part o.locker)).toNat → head < lb / eb → a = lockerAddr s o.part o.locker + head * eb →
      on s (REL_UNDO_CFG_en o.part) = false → Gives (.lockerOpDone hub) s fun u =>
        readByte u (headAddr s o.part o.locker) = BitVec.ofNat 8 ((head + 1) % (lb / eb)) ∧
        (∀ i, i < eb → a + i ≠ headAddr s o.part o.locker → readByte u (a + i) = readByte s (o.addr + i)) ∧
        (∀ b, b < a ∨ a + eb ≤ b → b ≠ headAddr s o.part o.locker → readByte u b = readByte s b) ∧
        u.fabric = s.fabric ++ [⟨.incr o.ctr 1 3 o.pc false, o.tile, 0xFFF, o.job, o.epoch, s.now⟩] ∧
        rd u (AID_LOCKER_writes o.tile) = upBy s (AID_LOCKER_writes o.tile) 1) ∧
    (∀ (s : State) (a : AidOp), aidBad { rd := false, rs2 := false } a = false → OpReady s a.t 3 (aidRes { rd := false, rs2 := false } a) →
      Gives (.route a) s fun u =>
        u.fabric = s.fabric ++ (aidesRun (tileOf s a.t) a).map (fun i =>
          (⟨.route ((tileOf s a.t).v1 a i % 2 ^ 32), a.t, 0xFFF, jobOfTile s a.t, epochOfTile s a.t, s.now⟩ : Item)) ∧
        (tileOf u a.t).aidOut = (tileOf s a.t).aidOut + (aidesRun (tileOf s a.t) a).length ∧ TilesKeptBut s u a.t ∧
        FieldsKept s u [TIL_SEQ_STATUS_state a.t] ∧ u.mem = s.mem)

/-- FILL, COPY, DLOAD, DSTORE and SPASS move their lines and nothing else. R78, R80, R168, R169, R172, R173, R197 and R233. -/
def Obligations.StaticTransfers : Prop :=
    (∀ (s : State) (t n da w : Nat) (dd : BitVec 6) (doff : BitVec 12) (k : BitVec 8) (b : Byte), n = k.toNat + 1 →
      da = effAddr (tileOf s t) dd.toNat doff.toNat → da % 512 = 0 → ownUnit s t da (512 * n) = some w →
      tileSpanOk s t da (512 * n) = true → (tileOf s t).micros = [] →
      portBusy (tileOf s t) 1 (.xferWrite w) (rangeFrom (tickOf s t + 1) n) = false → OpReady s t 4 (spanOf da (512 * n)) →
      Gives (.fill t dd doff k b) s fun u => Issued s u t [] ∧ u.mem = s.mem ∧
        (∀ i, i < 512 * n → readByte (runDue u t (tickOf s t + n + 1)) (da + i) = b) ∧
        MemKeptBut s (runDue u t (tickOf s t + n + 1)) da (512 * n)) ∧
    (∀ (s : State) (t n sa da w : Nat) (sd dd : BitVec 6) (soff doff : BitVec 8) (k : BitVec 7), n = k.toNat + 1 →
      sa = effAddr (tileOf s t) sd.toNat soff.toNat → da = effAddr (tileOf s t) dd.toNat doff.toNat → sa % 512 = 0 → da % 512 = 0 →
      ownUnit s t da (512 * n) = some w → ownUnit s t sa (512 * n) = some w → tileSpanOk s t sa (512 * n) = true →
      tileSpanOk s t da (512 * n) = true → sa + 512 * n ≤ da ∨ da + 512 * n ≤ sa → (tileOf s t).micros = [] →
      s.upsets = [] → readBusy (tileOf s t) (.xferRead w) (tickOf s t + 1) (rangeFrom (sa / 512) n) = false →
      portBusy (tileOf s t) 1 (.xferWrite w) (rangeFrom (tickOf s t + 2) n) = false →
      OpReady s t 4 (spanOf sa (512 * n) ++ spanOf da (512 * n)) →
      Gives (.copy t sd soff dd doff k) s fun u => Issued s u t [] ∧ u.mem = s.mem ∧
        readBytes (runDue u t (tickOf s t + n + 2)) da (512 * n) = readBytes s sa (512 * n) ∧
        MemKeptBut s (runDue u t (tickOf s t + n + 2)) da (512 * n)) ∧
    (∀ (s : State) (t n ma sa w r lat : Nat) (md sd : BitVec 6) (moff : BitVec 12) (soff : BitVec 8) (k : BitVec 3), n = k.toNat + 1 →
      ma = effAddr (tileOf s t) md.toNat moff.toNat → sa = effAddr (tileOf s t) sd.toNat soff.toNat → ma % 512 = 0 → sa % 512 = 0 →
      staticRegion s t ma (512 * n) = some r → ownUnit s t sa (512 * n) = some w → tileSpanOk s t ma (512 * n) = true →
      tileSpanOk s t sa (512 * n) = true → lat = dramLatency (t % 8) (r % 8) → (tileOf s t).micros = [] →
      s.upsets = [] → (∀ c ∈ s.claims, c.region ≠ r) → (tileOf s r).refrBusy = 0 →
      OpReady s t 4 (spanOf ma (512 * n) ++ spanOf sa (512 * n)) →
      (portBusy (tileOf s t) 1 (.xferWrite w) (rangeFrom (tickOf s t + lat) n) = false →
        storeHold s t ((slotTicks (tickOf s t) lat n).map (gridTick (tileOf s t))) (rangeFrom (ma / 512) n) = [] →
        Gives (.dload t md moff sd soff k) s fun u => seqState u t = 1 ∧ TilesKeptBut s u t ∧
          { u with regs := s.regs, tiles := s.tiles, claims := s.claims } = s ∧
          FieldsKept s u [TIL_SEQ_STATUS_state t] ∧ (∀ c ∈ s.claims, c ∈ u.claims) ∧
          readBytes (runDue u t (tickOf s t + lat + n)) sa (512 * n) = readBytes s ma (512 * n) ∧
          MemKeptBut s (runDue u t (tickOf s t + lat + n)) sa (512 * n)) ∧
      (readBusy (tileOf s t) (.xferRead w) (tickOf s t) (rangeFrom (sa / 512) n) = false →
        Gives (.dstore t md moff sd soff k) s fun u => seqState u t = 1 ∧ TilesKeptBut s u t ∧
          { u with regs := s.regs, tiles := s.tiles, claims := s.claims } = s ∧
          FieldsKept s u [TIL_SEQ_STATUS_state t] ∧ (∀ c ∈ s.claims, c ∈ u.claims) ∧
          readBytes (runDue u t (tickOf s t + lat + n)) ma (512 * n) = readBytes s sa (512 * n) ∧
          MemKeptBut s (runDue u t (tickOf s t + lat + n)) ma (512 * n))) ∧
    (∀ (s : State) (t n sa da st su dt du land : Nat) (sd dd : BitVec 6) (soff doff : BitVec 8) (k : BitVec 3), n = 32 * (k.toNat + 1) →
      sa = effAddr (tileOf s t) sd.toNat soff.toNat → da = effAddr (tileOf s t) dd.toNat doff.toNat → sa % 32 = 0 → da % 32 = 0 →
      scratchSpan s sa n = some (st, su) → scratchSpan s da n = some (dt, du) → t / 8 = st / 8 → t / 8 = dt / 8 →
      tileSpanOk s t sa n = true → tileSpanOk s t da n = true → sa % 512 + n ≤ 512 → (tileOf s t).micros = [] → s.upsets = [] →
      land = (if dt = t then tickOf s t + 5 else tickOf s t + 23) →
      usesOf (tileOf s dt) (.shortWrite du) (if dt = t then land else localTick (tileOf s dt) (gridTick (tileOf s t) land)) +
        (linesOf da n).length ≤ 2 →
      readBusy (tileOf s st) (.xferRead su) (if st = t then tickOf s t else
        localTick (tileOf s st) (gridTick (tileOf s t) (tickOf s t))) (linesOf sa n) = false →
      farFlight s t st (tickOf s t) (spanOf sa n) = [] →
      OpReady s t 4 (spanOf sa n ++ (if dt = t then spanOf da n else [])) →
      Gives (.spass t sd soff dd doff k) s fun u => seqState u t = 1 ∧ { u with regs := s.regs, tiles := s.tiles } = s ∧ FieldsKept s u [TIL_SEQ_STATUS_state t] ∧
        (∀ v, v ≠ t → v ≠ st → v ≠ dt → tileOf u v = tileOf s v) ∧
        readBytes (runDue u t (land + 1)) da n = readBytes s sa n ∧ MemKeptBut s (runDue u t (land + 1)) da n) ∧
    (∀ (s : State) (t a : Nat), Gives (.guardedLinePresent t a) s fun u => TilesKeptBut s u t ∧ { u with tiles := s.tiles } = s ∧
      tileOf u t = { tileOf s t with
        marks := (tileOf s t).marks.map fun m => if m.waits ∧ m.res = .bytes (512 * (a / 512)) 512 then
          { m with waits := false, present := max m.due (nowTick s t) } else m
        haltTick := if seqState s t = 4 then (tileOf s t).haltTick.map fun k => max k (nowTick s t) else (tileOf s t).haltTick })

/-- LPASS queues a transfer; its report moves the pieces and increments its counter. R190, R191, R193 to R196. -/
def Obligations.LongPass : Prop :=
    (∀ (s : State) (t d src dst idx : Nat) (eng : Bool) (k : BitVec 10) (c : BitVec 16), (tileOf s t).tmpls[k.toNat]? = some d →
      src = effAddr (tileOf s t) (bitsOf d 128 8) (bitsOf d 160 16) →
      dst = (if tDstRel d then (effAddr (tileOf s t) (bitsOf d 136 8) (bitsOf d 176 16) + bitsOf d 416 16 * nearBytes) % 2 ^ 64
        else effAddr (tileOf s t) (bitsOf d 136 8) (bitsOf d 176 16)) →
      idx = effAddr (tileOf s t) (bitsOf d 144 8) (bitsOf d 192 16) →
      (tMode d ≠ 1 → ∀ i, i < tPieces d → strided d src 256 i % 32 = 0 ∧ tileSpanOk s t (strided d src 256 i) (tPiece d) = true) →
      (tMode d ≠ 2 → ∀ i, i < tPieces d → strided d dst 320 i % 32 = 0 ∧ tileSpanOk s t (strided d dst 320 i) (tPiece d) = true) →
      (tMode d = 1 → src % 32 = 0 ∧ tileSpanOk s t src 1 = true) → (tMode d = 2 → dst % 32 = 0 ∧ tileSpanOk s t dst 1 = true) →
      (tMode d ≠ 0 → idx % 32 = 0 ∧ tileSpanOk s t idx (4 * tPieces d) = true) → ctrOk s t c.toNat = true →
      (engXfers (tileOf s t) (b2n eng)).length < 6 → OpReady s t 4 [] → Gives (.lpass t eng k c) s fun u =>
        (tileOf u t).xfers = (tileOf s t).xfers ++
          [⟨b2n eng, k.toNat, pcOf s t, d, src, dst, idx, c.toNat, tickOf s t, s.mem, 0, s.freeCtr, []⟩] ∧
        rd u (TIL_LPASS_issued t) = upBy s (TIL_LPASS_issued t) 1 ∧ u.mem = s.mem ∧
        Issued s u t [TIL_LPASS_issued t, TIL_LPASS_outstanding0 t, TIL_LPASS_outstanding1 t]) ∧
    (∀ (s : State) (t : Nat) (eng : Bool) (f : Transfer) (r : List Transfer), (tileOf s t).xfers = f :: r → f.eng = b2n eng →
      s.upsets = [] → (∀ i, f.donePieces ≤ i → i < nextReport f → pieceOk s t f i = true) → Gives (.lpassReport t eng) s fun u =>
        u.fabric = s.fabric ++ [incrItem s t f.ctr (tAmt f.tdata) 4 f.pc] ∧
        (tileOf u t).xfers = (if nextReport f = tPieces f.tdata then r else { f with donePieces := nextReport f } :: r) ∧
        TilesKeptBut s u t ∧ FieldsKept s u [TIL_LPASS_outstanding0 t, TIL_LPASS_outstanding1 t, TIL_LPASS_BYTES_bytes t] ∧
        u.mem = ((rangeFrom f.donePieces (nextReport f - f.donePieces)).foldl (fun s k => movePiece s t f k) s).mem ∧
        (tMode f.tdata ≠ 2 → ∀ b, (∀ i, f.donePieces ≤ i → i < nextReport f →
          b < strided f.tdata f.dst 320 i ∨ strided f.tdata f.dst 320 i + tPiece f.tdata ≤ b) → readByte u b = readByte s b) ∧
        (tMode f.tdata = 0 → f.donePieces = 0 → tPieces f.tdata = 1 → nextReport f = 1 → f.snap = s.mem →
          f.src + tPiece f.tdata ≤ 2 ^ 64 → f.src < 2 ^ 64 → f.dst < 2 ^ 64 →
          readBytes u f.dst (tPiece f.tdata) = readBytes s f.src (tPiece f.tdata))) ∧
    (∀ (s : State) (t i : Nat) (eng : Bool) (f : Transfer) (r : List Transfer), (tileOf s t).xfers = f :: r → f.eng = b2n eng →
      (rangeFrom f.donePieces (tPieces f.tdata - f.donePieces)).find? (fun j => !pieceOk s t f j) = some i →
      rd s (TIL_ERR_valid t) = 0 → Gives (.xferRange t eng) s fun u =>
        seqState u t = 5 ∧ rd u (TIL_ERR_code t) = 0x0D ∧ rd u (TIL_ERR_slot t) = 4 ∧ rd u (TIL_ERR_pc t) = f.pc % 2 ^ 14 ∧
        (tileOf u t).xfers = r)

/-- CSEND and CRECV move a line against a credit; QOPEN and QCLOSE open and close a queue. R204, R207, R208 and R210 to R213. -/
def Obligations.ChannelSendAndReceive : Prop :=
    (∀ (s : State) (t a w : Nat) (e : BitVec 4) (sd : BitVec 6) (soff : BitVec 9), (∀ i ∈ s.fabric, crossed s t i = false) →
      a = effAddr (tileOf s t) sd.toNat soff.toNat → a % 512 = 0 → ownUnit s t a 512 = some w → tileSpanOk s t a 512 = true →
      rd s (CH_ROUTE_path t e.toNat) ≠ 0 → on s (CH_EPSTAT_open t e.toNat) = true → 0 < rd s (CH_EPSTAT_credits t e.toNat) →
      (tileOf s t).micros = [] → s.upsets = [] → readBusy (tileOf s t) (.xferRead w) (tickOf s t + 1) [a / 512] = false →
      OpReady s t 5 (spanOf a 512) → Gives (.csend t e sd soff) s fun u =>
        rd u (CH_EPSTAT_credits t e.toNat) = (rd s (CH_EPSTAT_credits t e.toNat) - 1) % 2 ^ (CH_EPSTAT_credits t e.toNat).w ∧
        Issued s u t [CH_EPSTAT_credits t e.toNat] ∧ (tileOf u t).unsettled = (tileOf s t).unsettled + 1 ∧
        (runDue u t (tickOf s t + 2)).mem = s.mem ∧
        ∃ p, (runDue u t (tickOf s t + 2)).fabric = s.fabric ++ [⟨.line e.toNat (rd s (CH_ROUTE_dst_q t e.toNat))
          (Store.getD (tileOf s t).epInc e.toNat 0) (pcOf s t) (readBytes s a 512) p, t, rd s (CH_ROUTE_dst_tile t e.toNat),
          jobOfTile s t, epochOfTile s t, s.now⟩]) ∧
    (∀ (s : State) (t a w : Nat) (e : BitVec 4) (sd : BitVec 6) (soff : BitVec 9), (∀ i ∈ s.fabric, crossed s t i = false) →
      a = effAddr (tileOf s t) sd.toNat soff.toNat → a % 512 = 0 → ownUnit s t a 512 = some w → tileSpanOk s t a 512 = true →
      rd s (CH_ROUTE_path t e.toNat) ≠ 0 → on s (CH_EPSTAT_open t e.toNat) = false → OpReady s t 5 [] →
      Gives (.csend t e sd soff) s fun u =>
        rd u (CH_EPSTAT_orphan_sends t e.toNat) = upBy s (CH_EPSTAT_orphan_sends t e.toNat) 1 ∧
        rd u (TIL_CAUSE_cause t) = withBit s (TIL_CAUSE_cause t) 3 ∧ u.fabric = s.fabric ∧ u.mem = s.mem ∧ seqState u t = 1) ∧
    (∀ (s : State) (t a w : Nat) (q : BitVec 4) (dd : BitVec 6) (doff : BitVec 9) (l : QLine) (r : List QLine),
      (∀ i ∈ s.fabric, crossed s t i = false) → a = effAddr (tileOf s t) dd.toNat doff.toNat → a % 512 = 0 →
      ownUnit s t a 512 = some w → tileSpanOk s t a 512 = true → on s (CH_QSTAT_open t q.toNat) = true →
      Store.getD (tileOf s t).queues q.toNat [] = l :: r → l.present ≤ tickOf s t → (tileOf s t).micros = [] →
      portBusy (tileOf s t) 1 (.xferWrite w) [tickOf s t + 2] = false → OpReady s t 5 (spanOf a 512) →
      Gives (.crecv t q dd doff) s fun u =>
        Store.getD (tileOf u t).queues q.toNat [] = r ∧ rd u (CH_QSTAT_fill t q.toNat) = r.length % 2 ^ (CH_QSTAT_fill t q.toNat).w ∧
        seqState u t = 1 ∧ FieldsKept s u [TIL_SEQ_STATUS_state t, CH_QSTAT_fill t q.toNat] ∧ TilesKeptBut s u t ∧ u.mem = s.mem ∧
        (∃ p, u.fabric = s.fabric ++ [⟨.credit (rd s (CH_QSTAT_writer_ep t q.toNat)) (pcOf s t) p, t,
          rd s (CH_QSTAT_writer_tile t q.toNat), jobOfTile s t, epochOfTile s t, s.now⟩]) ∧
        (∀ i, i < l.data.length → readByte (runDue u t (tickOf s t + 3)) (a + i) = l.data.getD i 0) ∧
        MemKeptBut s (runDue u t (tickOf s t + 3)) a l.data.length) ∧
    (∀ (s : State) (t : Nat) (q : BitVec 4), (∀ i ∈ s.fabric, crossed s t i = false) → on s (CH_QSTAT_open t q.toNat) = false →
      rd s (CH_QSTAT_depth t q.toNat) ≠ 0 → Store.getD (tileOf s t).qOpened q.toNat 0 + 4000 ≤ s.now → OpReady s t 5 [] →
      Gives (.qopen t q) s fun u => rd u (CH_QSTAT_open t q.toNat) = 1 ∧ rd u (CH_QSTAT_fill t q.toNat) = 0 ∧
        rd u (CH_QSTAT_incarnation t q.toNat) = (rd s (CH_QSTAT_incarnation t q.toNat) + 1) % 256 ∧
        Store.getD (tileOf u t).queues q.toNat [] = [] ∧
        (∃ p, u.fabric = s.fabric ++ [⟨.token (rd s (CH_QSTAT_writer_ep t q.toNat)) true
          ((rd s (CH_QSTAT_incarnation t q.toNat) + 1) % 256) p, t, rd s (CH_QSTAT_writer_tile t q.toNat), jobOfTile s t,
          epochOfTile s t, s.now⟩]) ∧ u.mem = s.mem ∧ seqState u t = 1) ∧
    (∀ (s : State) (t : Nat) (q : BitVec 4), (∀ i ∈ s.fabric, crossed s t i = false) → OpReady s t 5 [] → Gives (.qclose t q) s fun u =>
        seqState u t = 1 ∧ u.mem = s.mem ∧ rd u (CH_QSTAT_open t q.toNat) = 0 ∧
        (on s (CH_QSTAT_open t q.toNat) = false → Issued s u t [] ∧ u.fabric = s.fabric) ∧
        (on s (CH_QSTAT_open t q.toNat) = true →
          rd u (CH_QSTAT_unread t q.toNat) = upBy s (CH_QSTAT_unread t q.toNat) (Store.getD (tileOf s t).queues q.toNat []).length ∧
          rd u (CH_QSTAT_fill t q.toNat) = 0 ∧ Store.getD (tileOf u t).queues q.toNat [] = [] ∧
          ∃ p, u.fabric = s.fabric ++ [⟨.token (rd s (CH_QSTAT_writer_ep t q.toNat)) false 0 p, t,
            rd s (CH_QSTAT_writer_tile t q.toNat), jobOfTile s t, epochOfTile s t, s.now⟩]))

/-- Lines, credits and tokens that arrive act on their queue or endpoint. R208, R209 and R211 to R214; R219 and R223 for an item discarded. -/
def Obligations.ArrivalsAtQueuesAndEndpoints : Prop :=
    (∀ (s : State) (t e q inc pc d : Nat) (data : Bytes) (i : Item) (r : List Item), s.fabric = i :: r →
      i.cargo = .line e q inc pc data none → i.src = t → i.dst = d → q < 16 →
      Gives (.lineArrival t e) s fun u => u.mem = s.mem ∧
        (fresh s i = true → inc = rd s (CH_QSTAT_incarnation d q) → on s (CH_QSTAT_open d q) = true → on s (CH_ROUTE_arr_en t e) = false →
          u.fabric = r ∧ Store.getD (tileOf u d).queues q [] = Store.getD (tileOf s d).queues q [] ++ [⟨data, 0⟩] ∧
          FieldsKept s u [CH_QSTAT_fill d q]) ∧
        (fresh s i = true → inc = rd s (CH_QSTAT_incarnation d q) → on s (CH_QSTAT_open d q) = false →
          u.fabric = r ∧ rd u (CH_QSTAT_orphans d q) = upBy s (CH_QSTAT_orphans d q) 1 ∧
          rd u (TIL_CAUSE_cause d) = withBit s (TIL_CAUSE_cause d) 3) ∧
        (fresh s i = false ∨ inc ≠ rd s (CH_QSTAT_incarnation d q) → u.fabric = r ∧
          rd u (CH_STALE_lines d) = upBy s (CH_STALE_lines d) 1 ∧ rd u (TIL_CAUSE_cause d) = withBit s (TIL_CAUSE_cause d) 4 ∧
          FieldsKept s u [CH_STALE_lines d, TIL_CAUSE_cause d])) ∧
    (∀ (s : State) (t e pc : Nat) (i : Item) (r : List Item), s.fabric = i :: r → i.cargo = .credit e pc none → i.dst = t →
      fresh s i = true → on s (CH_EPSTAT_open t e) = true → on s (CH_ROUTE_cred_en t e) = false →
      Gives (.creditReturn t e) s fun u => u.fabric = r ∧
        Writes s { u with fabric := s.fabric } [(CH_EPSTAT_credits t e, (rd s (CH_EPSTAT_credits t e) + 1) % 2 ^ (CH_EPSTAT_credits t e).w)]) ∧
    (∀ (s : State) (t e inc : Nat) (opens : Bool) (i : Item) (r : List Item), s.fabric = i :: r → i.cargo = .token e opens inc none →
      i.dst = t → fresh s i = true → Gives (.queueToken t e) s fun u => u.fabric = r ∧ u.mem = s.mem ∧
        rd u (CH_EPSTAT_open t e) = b2n opens ∧
        rd u (CH_EPSTAT_credits t e) = (if opens then rd s (CH_ROUTE_depth t e) % 2 ^ (CH_EPSTAT_credits t e).w else 0) ∧
        FieldsKept s u [CH_EPSTAT_open t e, CH_EPSTAT_credits t e]) ∧
    (∀ (s : State) (k ctr amt sl pc : Nat) (b : Bool) (i : Item), s.fabric[k]? = some i → i.cargo = .incr ctr amt sl pc b →
      i.issued + 1000000 ≤ s.now → runningRun s i.job = none → Gives (.fabricDiscard k) s fun u =>
        u.fabric = s.fabric.eraseIdx k ∧ rd u SYN_STATS_stale = upBy s SYN_STATS_stale 1 ∧
        rd u CTL_DISP_CAUSE_cause = withBit s CTL_DISP_CAUSE_cause 0 ∧ u.mem = s.mem ∧ u.tiles = s.tiles)

/-- SINC, SWAIT, increments and releases act on the counter they name. R217 to R222; R224 and R226 for the watchdog. -/
def Obligations.SyncCounters : Prop :=
    (∀ (s : State) (t : Nat) (c : BitVec 16) (n : BitVec 3), ctrOk s t c.toNat = true → (tileOf s t).micros = [] → OpReady s t 5 [] →
      Gives (.sinc t c n) s fun u => Issued s u t [] ∧ (tileOf u t).unsettled = (tileOf s t).unsettled + 1 ∧
        (runDue u t (tickOf s t + 2)).fabric = s.fabric ++ [⟨.incr c.toNat (n.toNat + 1) 5 (pcOf s t) true, t, 0xFFF, jobOfTile s t,
          epochOfTile s t, s.now⟩] ∧ (runDue u t (tickOf s t + 2)).mem = s.mem) ∧
    (∀ (s : State) (t v h : Nat) (c : BitVec 16) (take : Bool), ctrOk s t c.toNat = true → OpReady s t 5 [] →
      v = rd s (SYN_CTR_value c.toNat) → h = rd s (SYN_CTR_threshold c.toNat) → Gives (.swait t c take) s fun u =>
        (h ≤ v → (tileOf u t).waits = .swait (tickOf s t) true :: (tileOf s t).waits ∧ u.waiters = s.waiters ∧
          rd u (SYN_CTR_value c.toNat) = (if take then (v - h) % 2 ^ (SYN_CTR_value c.toNat).w else v)) ∧
        (v < h → (tileOf u t).waits = .swait (tickOf s t) false :: (tileOf s t).waits ∧
          u.waiters = addWaiter s.waiters ⟨s.now, t, c.toNat, take⟩ ∧ rd u (SYN_CTR_value c.toNat) = v) ∧
        seqState u t = 1 ∧ FieldsKept s u [TIL_SEQ_STATUS_state t, SYN_CTR_value c.toNat] ∧ TilesKeptBut s u t ∧
        { u with regs := s.regs, tiles := s.tiles, waiters := s.waiters } = s) ∧
    (∀ (s : State) (src c amt sl pc : Nat) (i : Item) (r : List Item), s.fabric = i :: r → i.cargo = .incr c amt sl pc false →
      i.src = src → c < 4096 → Gives (.counterIncrement src c) s fun u =>
        ((runningRun s i.job).isSome = true → rd s (SYN_CTR_threshold c) ≠ 0 → rd s (SYN_CTR_job_id c) = i.job →
          rd s (SYN_CTR_epoch c) = i.epoch → postCounter s i.job ≠ some c → rd s (SYN_CTR_value c) + amt ≤ 0xFFFFFF →
          (∀ w ∈ s.waiters, w.ctr ≠ c) → rd u (SYN_CTR_value c) = rd s (SYN_CTR_value c) + amt ∧ u.tiles = s.tiles ∧
            u.fabric = r ∧ u.mem = s.mem ∧ FieldsKept s u [SYN_CTR_value c]) ∧
        (rd s (SYN_CTR_job_id c) ≠ i.job ∨ rd s (SYN_CTR_epoch c) ≠ i.epoch ∨ (runningRun s i.job).isNone = true →
          rd u SYN_STATS_stale = upBy s SYN_STATS_stale 1 ∧ rd u CTL_DISP_CAUSE_cause = withBit s CTL_DISP_CAUSE_cause 0 ∧
          rd u (SYN_CTR_value c) = rd s (SYN_CTR_value c) ∧ u.fabric = r ∧ u.mem = s.mem ∧ u.tiles = s.tiles)) ∧
    (∀ (s : State) (src c amt sl pc : Nat) (i : Item) (r : List Item) (w : Waiter), s.fabric = i :: r → i.cargo = .incr c amt sl pc false →
      i.src = src → (runningRun s i.job).isSome = true → rd s (SYN_CTR_threshold c) ≠ 0 → rd s (SYN_CTR_job_id c) = i.job →
      rd s (SYN_CTR_epoch c) = i.epoch → postCounter s i.job ≠ some c → rd s (SYN_CTR_value c) + amt ≤ 0xFFFFFF →
      s.waiters = [w] → w.ctr = c → rd s (SYN_CTR_threshold c) ≤ rd s (SYN_CTR_value c) + amt →
      Gives (.counterIncrement src c) s fun u => u.waiters = [] ∧
        (∀ x ∈ (tileOf u w.tile).waits, ∀ k, x ≠ .swait k false) ∧
        rd u (SYN_CTR_value c) = (if w.consume then rd s (SYN_CTR_value c) + amt - rd s (SYN_CTR_threshold c)
          else rd s (SYN_CTR_value c) + amt)) ∧
    (∀ (s : State) (t u0 k : Nat), seqState s t = 2 → (tileOf s t).waits = [.swait k true] → (tileOf s t).haltTick = none → Gives (.swaitRelease t u0) s fun u =>
      seqState u t = 1 ∧ tickOf u t = min (max (tickOf s t) (max (k + 4) (u0 + 1))) (2 ^ 48 - 1) ∧ pcOf u t = pcOf s t ∧ (tileOf u t).waits = [] ∧
      TilesKeptBut s u t) ∧
    (∀ (s : State) (t kind obj pc : Nat), stalledOn s t = some (kind, obj, pc) → rd s (TIL_ERR_valid t) = 0 →
      Gives (.watchdog [t]) s fun u => seqState u t = 5 ∧ rd u (TIL_ERR_code t) = (if kind = 3 then 0x12 else 0x11) ∧
        rd u (TIL_ERR_slot t) = 5 ∧ rd u (TIL_ERR_pc t) = pc % 2 ^ 14 ∧ rd u CH_STALL_A_valid = 1)

/-- Bells begin periods, release waiters and answer what is late. R43, R44, R67, R257, R266, R270, R272 and R331. -/
def Obligations.BellsActAtBoundaries : Prop :=
    (∀ (s : State) (q : Nat) (p : Period), Store.get? s.periods q = some p → tod s < p.bellAt p.nextStart → exec (.startBell q) s = .next s) ∧
    (∀ (s : State) (q : Nat) (p : Period), q < 8 → Store.get? s.periods q = some p → p.bellAt p.nextStart ≤ tod s → p.unbind = none →
      follows s p.part = false → (∀ k ∈ plansOf s p.job, ∀ y, Store.get? s.plans k = some y → y.replay = true ∨ y.begun = true) →
      Gives (.startBell q) s fun t =>
        Store.get? t.periods q = some { p with nextStart := p.nextStart + 1, current := some p.nextStart, acting := [], acted := [] } ∧
        (∃ x, Store.get? t.runs s.runNext = some x ∧ x.job = p.job ∧ x.kind = .period p.nextStart ∧ x.phase = .pending ∧
          x.seed = p.seed ^^^ (p.nextStart % 2 ^ 32 * 2 ^ 96) ∧ x.kickWin = some (windowNow s + 2) ∧ x.strict = p.strict) ∧
        t.runNext = s.runNext + 1 ∧ rd t (CTL_PERIOD_NUM_period q) = p.nextStart % 2 ^ (CTL_PERIOD_NUM_period q).w ∧
        FieldsKept s t [CTL_PERIOD_NUM_period q] ∧
        t = { s with regs := t.regs, periods := t.periods, runs := t.runs, runNext := t.runNext }) ∧
    (∀ (s : State) (q d : Nat) (p : Period), Store.get? s.periods q = some p → p.bellAt p.nextStart ≤ tod s → p.unbind = some d →
      Gives (.startBell q) s fun t => Store.get? t.periods q = none ∧ t.runNext = s.runNext ∧ t.mem = s.mem ∧ t.tiles = s.tiles) ∧
    (∀ (s : State) (q m k : Nat) (p : Period), Store.get? s.periods q = some p → markAt s p m = some k → k ≤ tod s →
      (∀ a ∈ p.acting ++ p.acted, a.1 ≠ m) →
      exec (.markBell q m) s = .next (setPeriod s q { p with acting := p.acting ++ [(m, windowNow s + 2)] })) ∧
    (∀ (s : State) (q m w : Nat) (p : Period), Store.get? s.periods q = some p → p.acting.find? (·.1 == m) = some (m, w) →
      boundaryCome s w = true → inBubble s q = false → Gives (.bellAct q m) s fun t =>
        Store.get? t.periods q = some { p with
          acting := p.acting.filter (fun a => a.1 != m)
          acted := p.acted ++ [(m, 256 * (s.windows - Store.getD s.bubbles q 0))] } ∧
        (∀ u, u ∉ bellWaiters s p.job m → tileOf t u = tileOf s u) ∧ t.runs = s.runs ∧ t.jobs = s.jobs ∧
        (∀ u k, bellWaiters s p.job m = [u] → (tileOf s u).waits = [.bell m k] → (tileOf s u).haltTick = none →
          seqState t u = 1 ∧ (tileOf t u).waits = [] ∧ tickOf t u = min (max (tickOf s u)
            (localTick (tileOf s u) (256 * (s.windows - Store.getD s.bubbles q 0)))) (2 ^ 48 - 1))) ∧
    (∀ (s : State) (q m w : Nat) (p : Period), Store.get? s.periods q = some p → p.acting.find? (·.1 == m) = some (m, w) →
      boundaryCome s w = true → inBubble s q = true → Gives (.bellAct q m) s fun t =>
        rd t TIM_CAUSE_cause = withBit s TIM_CAUSE_cause 12 ∧ FieldsKept s t [TIM_CAUSE_cause] ∧
        t = { s with regs := t.regs, periods := t.periods }) ∧
    (∀ (s : State) (r : Nat) (x : Run), Store.get? s.runs r = some x → x.phase = .pending → x.kind = .graph → x.kickWin = none →
      x.bell ≤ tod s → exec (.startTodBell r) s = .next (setRun s r { x with kickWin := some (windowNow s + 2) })) ∧
    (∀ (s : State) (k i mac : Nat) (r : Request), (dueReqs s)[k]? = some (.cand i) → s.cands[i]? = some r → muted s r.part = false →
      linkUp s r.port r.sub = true → neighbourOf s r.port r.sub r.ip = some mac → txMsa s r.port r.sub = none →
      Gives (.deadlineBell k) s fun t => t.cands = s.cands.eraseIdx i ∧ t.mem = s.mem ∧ t.tiles = s.tiles ∧
        .frame r.port r.sub (withFcs (udpFrame s r.port r.sub mac r.ip r.udp (mkMsg mtRep 0 r.job (rd s (NET_ASSOC_CFG_epoch r.assoc))
          r.seqn (repBody r.tag 1 0 0xFFFF 0 (List.replicate 16 0) (fallbackOf s r.bind))))) ∈ t.out)

/-- A run kicks off at its boundary; its tasks start their tiles; a halted tile reports. R43, R46, R73, R217, R222, R248, R264 and R265. -/
def Obligations.RunsKickOffAndTasksStart : Prop :=
    (∀ (s : State) (r : Nat) (x : Run) (j : Job), Store.get? s.runs r = some x → Store.get? s.jobs x.job = some j → kickBlocked s r x = false →
      s.time.rollDue = false → boundaryCome s (x.kickWin.getD 0) = true → inBubble s j.part = false →
      (∀ t ∈ j.tiles, replacing s t (decide (0 < x.retakes)) = false) →
      (∀ e, Store.get? s.epochAt x.job = some e → e + 4000 ≤ s.now) →
      (x.kind = .graph → unfilled j = none ∧ planHolder s x.job j = none) → Gives (.kickoff r) s fun t =>
        (∃ y, Store.get? t.runs r = some y ∧ y.phase = .running ∧ y.epoch = (Store.getD s.epochs x.job 0 + 1) % 256 ∧ y.kickTod = s.time.winTod ∧
          y.job = x.job ∧ y.kind = x.kind ∧ y.seed = x.seed) ∧
        Store.getD t.epochs x.job 0 = (Store.getD s.epochs x.job 0 + 1) % 256 ∧ Store.get? t.epochAt x.job = some s.now ∧
        t.mem = s.mem ∧ t.jobs = s.jobs ∧ t.fabric = s.fabric) ∧
    (∀ (s : State) (r : Nat) (x : Run) (j : Job), Store.get? s.runs r = some x → Store.get? s.jobs x.job = some j → kickBlocked s r x = false →
      s.time.rollDue = true → exec (.kickoff r) s = .next { s with time := { s.time with rollCall := 1, rollRun := some r } }) ∧
    (∀ (s : State) (r : Nat) (x : Run), Store.get? s.runs r = some x → kickBlocked s r x = true → exec (.kickoff r) s = .next s) ∧
    (∀ (s : State) (r k w : Nat) (x : Run) (j : Job) (a : TaskRec), Store.get? s.runs r = some x → Store.get? s.jobs x.job = some j →
      j.tasks[k]? = some a → x.phase = .running → x.ready.find? (fun p => p.1 == k) = some (k, w) → boundaryCome s w = true →
      inBubble s (partOfRun s x) = false → Gives (.taskStart r k) s fun t =>
        (∃ y, Store.get? t.runs r = some y ∧ k ∈ y.started ∧ y.phase = .running ∧ y.epoch = x.epoch) ∧
        (∀ u ∈ a.span, ∀ v, v = j.tiles.getD u 0xFFF → pcOf t v = a.entryPc % 2 ^ 14 ∧ seqState t v = 1 ∧ tickOf t v = 0 ∧
          (tileOf t v).task = some (r, k) ∧ (tileOf t v).waits = [] ∧ (tileOf t v).marks = [] ∧ (tileOf t v).loops = [] ∧
          (tileOf t v).tray = [] ∧ (tileOf t v).aregs = [] ∧ (tileOf t v).apreds = []) ∧
        (∀ v, (∀ u ∈ a.span, v ≠ j.tiles.getD u 0xFFF) → tileOf t v = tileOf s v) ∧
        t.mem = s.mem ∧ t.fabric = s.fabric ∧ t.jobs = s.jobs) ∧
    (∀ (s : State) (t r k : Nat) (x : Run) (j : Job), (tileOf s t).task = some (r, k) → mayComplete s t = true →
      Store.get? s.runs r = some x → Store.get? s.jobs x.job = some j → Gives (.tileComplete t) s fun u =>
        (tileOf u t).task = none ∧ (tileOf u t).haltTick = none ∧ (tileOf u t).micros = [] ∧ seqState u t = 4 ∧
        (∃ y, Store.get? u.runs r = some y ∧ y.tilesDone = t :: x.tilesDone ∧
          (x.phase = .running → (∀ v ∈ (((j.tasks[k]?).map (·.span)).getD []), j.tiles.getD v 0xFFF ≠ t →
            ((tileOf s (j.tiles.getD v 0xFFF)).task).map (·.2) ≠ some k) → k ∈ y.done)) ∧
        ((∀ i ∈ s.fabric, crossedBy s t (max (tickOf s t) (((tileOf s t).haltTick).getD 0)) i = false) → TilesKeptBut s u t))

/-- A stopping run is aborted at its boundary, ends or waits for its retake, and is prepared again. R240, R241, R273, R353 and R354. -/
def Obligations.RunsStopAbortAndRetake : Prop :=
    (∀ (s : State) (r : Nat) (x : Run), s.runs.find? (fun p => p.2.job == x.job && (p.2.live || (p.2.phase == .pending && decide (0 < p.2.retakes)))) =
        some (r, x) → Store.get? s.runs r = some x → x.phase = .stopping → overrunNow s r x = false →
      (x.stop.bind StopCause.window ≠ some (windowNow s) ∨ ∀ t ∈ tilesOfRun s x, tileActive s t = false) →
      Gives (.jobStop x.job) s fun t =>
        (∃ y, Store.get? t.runs r = some y ∧ y.phase = .aborting ∧ y.ready = [] ∧ y.retakes = x.retakes) ∧
        (∀ v ∈ tilesOfRun s x, (tileOf t v).task = none ∧ (tileOf t v).xfers = [] ∧ (tileOf t v).hints = []) ∧
        ((∀ i ∈ s.fabric, i.due ≠ none → i.src ∈ tilesOfRun s x) → ∀ v, v ∉ tilesOfRun s x → tileOf t v = tileOf s v) ∧
        t.jobs = s.jobs) ∧
    (∀ (s : State) (r d w : Nat) (x : Run), Store.get? s.runs r = some x → x.phase = .aborting → lockersDone s x = true →
      x.stop = some (.fault d w) → mayRetake x d = true → waitingUnload s x.job = none →
      exec (.runAbortComplete r) s = .next (setRun s r { x with phase := .retakeWait })) ∧
    (∀ (s : State) (r : Nat) (x : Run) (c : StopCause), Store.get? s.runs r = some x → x.phase = .aborting → lockersDone s x = true →
      x.stop = some c → (∀ d w, c = .fault d w → mayRetake x d = false) → Gives (.runAbortComplete r) s fun t =>
        ∃ y, Store.get? t.runs r = some y ∧ y.phase = .ended ∧ y.outcome = (stopStatus s c).1 ∧ y.retakes = x.retakes) ∧
    (∀ (s : State) (r : Nat) (x : Run), Store.get? s.runs r = some x → x.phase = .aborting → lockersDone s x = false →
      exec (.runAbortComplete r) s = .next s) ∧
    (∀ (s : State) (r : Nat) (x : Run), Store.get? s.runs r = some x → x.phase = .retakeWait → partOfRun s x < 8 →
      Gives (.retakePrepare r) s fun t =>
        (∃ y, Store.get? t.runs r = some y ∧ y.phase = .pending ∧ y.retakes = x.retakes + 1 ∧ y.kickWin = some (windowNow s + 2) ∧
          y.done = [] ∧ y.started = [] ∧ y.stop = none ∧ y.job = x.job ∧ y.seed = x.seed) ∧
        flag t CTL_DISP_CAUSE_cause 5 = true ∧ TilesNoted s t ∧ t.jobs = s.jobs ∧ t.periods = s.periods)

/-- A seating places candidates in order; a reply scan answers the scores it finds. R292 to R294, R297 and R368. -/
def Obligations.SeatsAndReplies : Prop :=
    (∀ (s : State) (q n close d : Nat) (p : Period) (j : Job) (f : Form) (placed kept : List Request), Store.get? s.periods q = some p →
      Store.get? s.jobs p.job = some j → j.form = some f → seatDue s p n = true → follows s q = false →
      (∀ c ∈ s.copies, c.bind = p.subm → c.skipped = false) → close = p.firstStart + n * p.periodNs - 2000 →
      (placed, kept, d) = seatLoop s.part.seats close (s.cands.filter fun r => r.bind == p.subm) []
        ((s.carries.filter fun c => c.bind == p.subm && c.outPeriod + 1 == n).map (·.locker)) [] 0 →
      Gives (.seatPeriod q n) s fun t =>
        t.copies.getLast? = some ⟨p.subm, p.part, n, close, placed.map Seat.fresh, false, false⟩ ∧
        t.cands = (s.cands.filter fun r => r.bind != p.subm).foldl insertReq kept ∧
        readBytes t (((j.regions[f.seatRegion]?).map (·.addr)).getD 0) 8 = toLE 8 (n % 2 + n % 2 ^ 32 * 2 ^ 32) ∧
        TilesNoted s t ∧ t.runs = s.runs) ∧
    (∀ (s : State) (q : Nat) (p : Period) (j : Job) (f : Form) (c : Copy) (x : Seat) (e : Bytes),
      ((s.periods.map (·.2)) ++ s.closings).filter (fun p => p.part == q) = [p] → Store.get? s.jobs p.job = some j → j.form = some f →
      f.replyCtr ∈ s.netNotes → s.copies = [c] → c.seats = [x] → s.carries = [] → copyLive s p c = true → c.part = q →
      x.waits = true → e = readBytes s (replyAddr s j f c.period 0) 64 → entryBad e = false → fieldLE e 0 1 = 1 →
      tod s < x.req.deadline → dblPart s q = false → Gives (.replyScan q) s fun t =>
        t.netNotes = s.netNotes.erase f.replyCtr ∧
        (∃ d, t.copies = [d] ∧ d.seats = [{ x with status := some 0, payload := sliceB e 0x20 (fieldLE e 1 1) }] ∧ d.period = c.period) ∧
        (muted s q = false → linkUp s x.req.port x.req.sub = true → (neighbourOf s x.req.port x.req.sub x.req.ip).isSome = true →
          rd t NET_REPLY_STATS_sent = upBy s NET_REPLY_STATS_sent 1) ∧
        t.mem = s.mem ∧ t.tiles = s.tiles) ∧
    (∀ (s : State) (k i : Nat), ((s.cands.zipIdx.filter fun p => follows s p.1.part && decide (p.1.deadline + 1000000 ≤ tod s)).map (·.2))[k]? =
        some i → Gives (.candidateDrop k) s fun t => t.cands = s.cands.eraseIdx i ∧ t.mem = s.mem ∧ t.copies = s.copies ∧
          rd t NET_INGEST_STATUS_candidates = (s.cands.eraseIdx i).length % 2 ^ NET_INGEST_STATUS_candidates.w)

/-- Routing entries join their plan, a fill begins at its bell, and its table is written. R134 to R137 and R140 to R142. -/
def Obligations.SeatingPlanUnitFills : Prop :=
    (∀ (s : State) (t w p : Nat) (i : Item) (r : List Item) (x : PlanSt), s.fabric = i :: r → i.cargo = .route w → i.src = t →
      Store.getD s.epochs i.job 0 = i.epoch → p = bitsOf w 24 2 → Store.get? s.plans p = some x → w < 2 ^ 28 → bitOf w 26 = false →
      t ∈ x.senders → t ∉ x.ended → x.begun = false → bitsOf w 27 1 = x.period % 2 → bitsOf w 0 16 < s.part.seats →
      seatTaken s x (bitsOf w 0 16) = true → bitsOf w 16 8 < x.bins →
      (∀ e ∈ x.held, e.1 = bitsOf w 0 16 → e.2.1 ≠ bitsOf w 16 8) → Gives (.routeEntry t) s fun u =>
        u.fabric = r ∧ Store.get? u.plans p = some { x with held := (bitsOf w 0 16, bitsOf w 16 8, t) :: x.held } ∧
        u.regs = s.regs ∧ u.mem = s.mem ∧ TilesKeptBut s u t) ∧
    (∀ (s : State) (k off : Nat) (x : PlanSt) (q : Nat) (p : Period) (j : Job), k < 4 → Store.get? s.plans k = some x → x.begun = false →
      s.periods.find? (fun p => p.2.job == x.job) = some (q, p) → Store.get? s.jobs x.job = some j → j.marks[x.fillBell]? = some off →
      x.replay = false → p.firstStart + x.period * p.periodNs + off ≤ tod s → Gives (.fillBell k) s fun t =>
        (∃ f, t.spuFills = s.spuFills ++ [f] ∧ f.plan = k ∧ f.forced = true ∧ f.period = x.period ∧
          f.held = (keepLowest x.maxRoutes x.held).1) ∧
        Store.get? t.plans k = some { x with begun := true } ∧ rd t (NET_SPU_MISC_forced k) = upBy s (NET_SPU_MISC_forced k) 1 ∧
        flag t NET_SPU_CAUSE_cause 0 = true ∧ t.mem = s.mem ∧ t.tiles = s.tiles) ∧
    (∀ (s : State) (q k : Nat) (x : PlanSt) (p : Period), k < 4 → Store.get? s.periods q = some p → p.bellAt p.nextStart ≤ tod s →
      p.unbind = none → plansOf s p.job = [k] → Store.get? s.plans k = some x → x.replay = false → x.begun = false →
      Gives (.startBell q) s fun t =>
        (∃ f, t.spuFills = s.spuFills ++ [f] ∧ f.plan = k ∧ f.forced = true ∧ f.period = x.period ∧
          f.held = (keepLowest x.maxRoutes x.held).1) ∧
        Store.get? t.plans k = some { x with begun := true } ∧ rd t (NET_SPU_MISC_forced k) = upBy s (NET_SPU_MISC_forced k) 1 ∧
        flag t NET_SPU_CAUSE_cause 0 = true ∧ t.mem = s.mem ∧ t.tiles = s.tiles) ∧
    (∀ (s : State) (f : Fill) (rest : List Fill) (x : PlanSt) (tb : Bytes) (size : Nat), s.spuFills = f :: rest → f.plan < 4 →
      Store.get? s.plans f.plan = some x → tb = binTable s x f (fillBins s x f) → size = (tb.length + 511) / 512 * 512 →
      Gives .spuFillDone s fun t => t.spuFills = rest ∧
        readBytes t (x.regionAddr + 512 + x.fills % 2 * size) tb.length = tb ∧
        readBytes t x.regionAddr 8 = toLE 8 (x.fills % 2 + x.fills % 2 ^ 32 * 2 ^ 32) ∧
        (∀ b, b < x.regionAddr ∨ x.regionAddr + 8 ≤ b → b < x.regionAddr + 512 + x.fills % 2 * size ∨
          x.regionAddr + 512 + x.fills % 2 * size + tb.length ≤ b → readByte t b = readByte s b) ∧
        t.fabric = s.fabric ++ [⟨.incr x.doneCtr 1 0 0 false, 0xFFF, 0xFFF, x.job, Store.getD s.epochs x.job 0, s.now⟩] ∧
        Store.get? t.plans f.plan = some { x with fills := x.fills + 1, carryLost := false } ∧ TilesNoted s t)

/-- Doorbells move a queue on, its configuration enables it, and descriptors are accepted. R251 to R254, R426 and R443. -/
def Obligations.HostQueues : Prop :=
    (∀ (s : State) (fn q : Nat) (v : Word64), fnSq s fn q = true → on s (HQ_SQ_CFG_en q) = true → v.toNat % 2 ^ 17 < sqLen s q →
      outstanding s q + (v.toNat % 2 ^ 17 + sqLen s q - rd s (HQ_SQ_DB_tail q) % sqLen s q) % sqLen s q < sqLen s q →
      Gives (.hqSqDb fn q v) s fun t => Writes s t [(HQ_SQ_DB_tail q, v.toNat % 2 ^ 17)]) ∧
    (∀ (s : State) (fn q : Nat) (v : Word64), fnSq s fn q = true → rd s HST_BAR0_LOG_valid = 0 →
      on s (HQ_SQ_CFG_en q) = false ∨ (v.toNat % 2 ^ 17 ≠ rd s (HQ_SQ_DB_tail q) ∧ sqLen s q ≤ v.toNat % 2 ^ 17) →
      Gives (.hqSqDb fn q v) s fun t => Writes s t [(HST_BAR0_LOG_offset, 0x1000 * q % 2 ^ HST_BAR0_LOG_offset.w), (HST_BAR0_LOG_bar2, 1),
        (HST_BAR0_LOG_write, 1), (HST_BAR0_LOG_bytes_log2, 3), (HST_BAR0_LOG_function, fn % 2 ^ HST_BAR0_LOG_function.w),
        (HST_BAR0_LOG_valid, 1), (HST_CAUSE_cause, withBit s HST_CAUSE_cause 3)]) ∧
    (∀ (s : State) (fn q : Nat) (v : Word64), q < 16 → fnCq s fn q = true → on s (HQ_CQ_CFG_en q) = true → v.toNat % 2 ^ 17 < cqLen s q →
      (v.toNat % 2 ^ 17 + cqLen s q - rd s (HQ_CQ_DB_head q) % cqLen s q) % cqLen s q ≤ cqUsed s q →
      Gives (.hqCqDb fn q v) s fun t => QueueFieldsKept (wr s (HQ_CQ_DB_head q) (v.toNat % 2 ^ 17)) t ∧
        rd t (HQ_CQ_DB_head q) = v.toNat % 2 ^ 17 ∧ ((∀ d ∈ s.descs, d.refusal s = none) → t.descs = s.descs) ∧
        t = { s with regs := t.regs, out := t.out, descs := t.descs, cqs := t.cqs }) ∧
    (∀ (s : State) (fn q : Nat) (v : Word64), q < 16 → fnSq s fn q = true → bitOf v.toNat 5 = true → on s (HQ_SQ_CFG_en q) = false →
      Gives (.queueEnable fn (HQ_SQ_CFG q) v) s fun t => Writes s t ([(HQ_SQ_CFG_log2_entries q, bitsOf v.toNat 0 5),
        (HQ_SQ_CFG_cq q, bitsOf v.toNat 6 4), (HQ_SQ_CFG_en q, 1), (HQ_DEPTH_head q, 0), (HQ_SQ_DB_tail q, 0)] ++
        if fn = 0 then [(HQ_SQ_CFG_partition q, bitsOf v.toNat 10 3)] else [])) ∧
    (∀ (s : State) (fn q : Nat) (v : Word64), q < 16 → fnCq s fn q = true → bitOf v.toNat 5 = true → on s (HQ_CQ_CFG_en q) = false →
      (cqOf s q).held = [] → (∀ d ∈ s.descs, d.refusal s = none) →
      Gives (.queueEnable fn (HQ_CQ_CFG q) v) s fun t => Writes s { t with cqs := s.cqs } [(HQ_CQ_CFG_log2_entries q, bitsOf v.toNat 0 5),
        (HQ_CQ_CFG_en q, 1), (HQ_CQ_STATUS_tail q, 0), (HQ_CQ_DB_head q, 0)] ∧ cqOf t q = ⟨true, []⟩) ∧
    (∀ (s : State) (fn q : Nat) (v : Word64), q < 16 → fnSq s fn q = true → bitOf v.toNat 5 = false → on s (HQ_SQ_CFG_en q) = true →
      Gives (.queueDisable fn (HQ_SQ_CFG q) v) s fun t => Writes s t [(HQ_SQ_CFG_en q, 0)]) ∧
    (∀ (s : State) (fn q : Nat) (v : Word64), q < 16 → fnCq s fn q = true → bitOf v.toNat 5 = false → on s (HQ_CQ_CFG_en q) = true →
      Gives (.queueDisable fn (HQ_CQ_CFG q) v) s fun t => Writes s t [(HQ_CQ_CFG_en q, 0)]) ∧
    (∀ (s : State) (q : Nat) (b : Bytes), isReady s = true → on s (HQ_SQ_CFG_en q) = true → outstanding s q ≠ 0 →
      partOn s (rd s (HQ_SQ_CFG_partition q)) = true → badField (sliceB b 0 64) = none →
      otherPart s (fieldLE (sliceB b 0 64) 2 2) (rd s (HQ_SQ_CFG_partition q)) = false → (∀ d ∈ s.descs, d.refusal s = none) →
      Gives (.descriptorFetch q b) s fun t =>
        t.descs = s.descs ++ [⟨s.submNext, q, rd s (HQ_SQ_CFG_cq q), rd s (HQ_SQ_CFG_partition q), tod s, sliceB b 0 64, false, false, none⟩] ∧
        Writes s { t with descs := s.descs, submNext := s.submNext } [(HQ_DEPTH_head q, (rd s (HQ_DEPTH_head q) + 1) % sqLen s q % 2 ^ 17)] ∧
        t.submNext = s.submNext + 1) ∧
    (∀ (s : State) (q : Nat) (b : Bytes), isReady s = false ∨ on s (HQ_SQ_CFG_en q) = false ∨ outstanding s q = 0 →
      exec (.descriptorFetch q b) s = .next s) ∧
    (∀ (s : State) (q o : Nat) (b : Bytes) (d : Desc), isReady s = true → on s (HQ_SQ_CFG_en q) = true → outstanding s q ≠ 0 →
      partOn s (rd s (HQ_SQ_CFG_partition q)) = true → badField (sliceB b 0 64) = some o → s.descs = [] →
      d = ⟨s.submNext, q, rd s (HQ_SQ_CFG_cq q), rd s (HQ_SQ_CFG_partition q), tod s, sliceB b 0 64, false, false, some (stDescriptor, o)⟩ →
      mayStart { s with descs := [d] } d = true →
      Gives (.descriptorFetch q b) s fun t => t.descs = [] ∧ EntryOut t d.cq (entryBytes d (tod t) stDescriptor o 0 0 true) ∧
        t.submNext = s.submNext + 1 ∧ t.mem = s.mem ∧ t.jobs = s.jobs)

/-- LOAD_IMAGE, RUN_GRAPH, BIND_PERIOD, SET_FALLBACK and UNLOAD complete with what their checks find. R255 to R259, R261 and R272. -/
def Obligations.DescriptorsOfJobs : Prop :=
    (∀ (s : State) (sq : Nat) (img : Bytes) (map : List Nat) (d : Desc) (m : Bytes) (st dt : Nat), Starts s sq 1 d →
      m = img.take (fieldLE d.bytes 0x18 8) → (∀ e ∈ s.descs, e.type = 3 → e.job ≠ d.job) →
      loadRefused s d m = some (st, dt) ∨ (loadRefused s d m = none ∧ loadResult s d m map = .error (st, dt)) →
      Gives (.loadImage sq img map) s fun t => Completed s t d st dt) ∧
    (∀ (s u : State) (sq : Nat) (img : Bytes) (map : List Nat) (d : Desc) (m : Bytes), Starts s sq 1 d →
      m = img.take (fieldLE d.bytes 0x18 8) → (∀ e ∈ s.descs, e.type = 3 → e.job ≠ d.job) → loadRefused s d m = none →
      loadResult s d m map = .ok u → Gives (.loadImage sq img map) s fun t => Completed u t d stOk 0 ∧
        (∃ j, Store.get? t.jobs d.job = some j ∧ j.part = d.part ∧ j.sq = d.sq ∧ j.digest = imageDigest m ∧
          j.tiles = bindTiles d map (hdrTaskTiles m) ∧ j.tasks = taskRows m ∧ j.edges = edgeRows m ∧ j.ctrs = ctrsOf m) ∧
        (∀ j, j ≠ d.job → Store.get? t.jobs j = Store.get? s.jobs j) ∧ t.runs = s.runs ∧ t.periods = s.periods ∧
        ∀ x, x ∉ bindTiles d map (hdrTaskTiles m) → tileOf t x = tileOf s x) ∧
    (∀ (s : State) (sq : Nat) (d : Desc) (j : Job), Starts s sq 3 d → (dblPart s d.part = false ∨ d.exam = true) →
      (∀ p ∈ s.periods, p.2.job ≠ d.job) → Store.get? s.jobs d.job = some j →
      Gives (.runGraph sq) s fun t => (contractBad s j d.contract = true → Completed s t d stContract d.contract) ∧
        (contractBad s j d.contract = false → t.runNext = s.runNext + 1 ∧ t.jobs = s.jobs ∧ t.mem = s.mem ∧ t.tiles = s.tiles ∧
          ∃ x, t.runs = Store.set s.runs s.runNext x ∧ x.job = d.job ∧ x.kind = .graph ∧ x.phase = .pending ∧ x.subm = d.subm ∧
            x.strict = bitOf d.contract 0 ∧ x.slipFatal = bitOf d.contract 1 ∧ x.prio = fieldLE d.bytes 0x12 1 ∧
            x.seed = fieldLE d.bytes 0x20 16 ∧ x.exam = d.exam ∧ x.retakes = 0 ∧
            (x.kickWin = some (windowNow s + 2) ↔ fieldLE d.bytes 0x18 8 ≤ tod s))) ∧
    (∀ (s : State) (sq : Nat) (d : Desc), Starts s sq 3 d → (dblPart s d.part = false ∨ d.exam = true) →
      (∃ p ∈ s.periods, p.2.job = d.job) ∨ (Store.get? s.jobs d.job = none ∧ loadAhead s d = false) →
      Gives (.runGraph sq) s fun t => Completed s t d (if s.periods.any (fun p => p.2.job == d.job) then stJobBound else stNoJob)
        (if s.periods.any (fun p => p.2.job == d.job) then d.job else 0)) ∧
    (∀ (s : State) (sq st dt : Nat) (d : Desc), Starts s sq 4 d → d.binds = true → bindFault s d = some (st, dt) →
      Gives (.bindPeriod sq) s fun t => Completed s t d st dt) ∧
    (∀ (s : State) (sq : Nat) (d : Desc) (j : Job), Starts s sq 4 d → d.binds = true → bindFault s d = none → Store.get? s.jobs d.job = some j →
      Gives (.bindPeriod sq) s fun t => Store.get? t.periods d.part = some (bindingOfDesc d) ∧
        EntryOut t d.cq (entryBytes d (tod t) stOk 0 0 0 false) ∧ t.jobs = s.jobs ∧ t.runs = s.runs ∧ t.mem = s.mem ∧ t.tiles = s.tiles) ∧
    (∀ (s : State) (sq : Nat) (d : Desc), Starts s sq 4 d → d.binds = false → Gives (.unbindPeriod sq) s fun t =>
      (∀ p, Store.get? s.periods d.part = some p → p.job = d.job →
        Store.get? t.periods d.part = some { p with unbind := some d.subm } ∧ t.runs = s.runs ∧ t.jobs = s.jobs) ∧
      ((∀ p, Store.get? s.periods d.part = some p → p.job ≠ d.job) → Completed s t d stOk 0)) ∧
    (∀ (s : State) (sq : Nat) (d : Desc), Starts s sq 6 d → Gives (.setFallback sq) s fun t =>
      (Store.get? s.jobs d.job = none → Completed s t d stNoJob 0) ∧
      (∀ j, Store.get? s.jobs d.job = some j →
        Completed (setJob s d.job { j with fallback := sliceB d.bytes 0x18 (fieldLE d.bytes 0x10 1) }) t d stOk 0)) ∧
    (∀ (s : State) (sq : Nat) (d : Desc), Starts s sq 10 d → Store.get? s.jobs d.job = none →
      Gives (.unload sq) s fun t => Completed s t d stNoJob 0) ∧
    (∀ (s : State) (sq : Nat) (d : Desc) (j : Job), Starts s sq 10 d → Store.get? s.jobs d.job = some j → fieldLE d.bytes 0x10 1 = 0 →
      jobBusy s d.job = true ∨ (∃ p ∈ s.periods, p.2.job = d.job) → Gives (.unload sq) s fun t => Completed s t d stJobBusy 0) ∧
    (∀ (s : State) (sq : Nat) (d : Desc) (j : Job), Starts s sq 10 d → Store.get? s.jobs d.job = some j → jobBusy s d.job = false →
      (∀ p ∈ s.periods, p.2.job ≠ d.job) → (∀ e ∈ s.descs, e.type = 10 → e.started = false) →
      Gives (.unload sq) s fun t => Store.get? t.jobs d.job = none ∧ (∀ k, k ≠ d.job → Store.get? t.jobs k = Store.get? s.jobs k) ∧
        descOf t d.subm = none ∧ EntryOut t d.cq (entryBytes d (tod t) stOk 0 0 0 true) ∧
        (∀ g ∈ j.regions, g.isSealed = true → ∀ i, i < g.size → readByte t (g.addr + i) = 0) ∧
        (∀ a, (∀ g ∈ j.regions, g.isSealed = true → a < g.addr ∨ g.addr + g.size ≤ a) → readByte t a = readByte s a))

/-- UNSEAL takes a key and a stream; a good stream fills its region, a bad one leaves it zero. R404 to R406 and R417. -/
def Obligations.SealedRegionsAreFilled : Prop :=
    (∀ (s : State) (sq : Nat) (blob hdr : Bytes) (d : Desc), Starts s sq 2 d → Store.get? s.jobs d.job = none →
      Gives (.unseal sq blob hdr) s fun t => Completed s t d stNoJob 0) ∧
    (∀ (s : State) (sq : Nat) (blob hdr : Bytes) (d : Desc) (j : Job), Starts s sq 2 d → Store.get? s.jobs d.job = some j →
      (∀ g, j.regions[d.region]? = some g → g.isSealed = false ∨ g.filled = true ∨ fieldLE hdr 8 8 ≠ g.size) →
      Gives (.unseal sq blob hdr) s fun t => Completed s t d stSealRegion d.region) ∧
    (∀ (s : State) (sq o : Nat) (blob hdr : Bytes) (d : Desc) (j : Job) (g : Region), Starts s sq 2 d → Store.get? s.jobs d.job = some j →
      j.regions[d.region]? = some g → g.isSealed = true → g.filled = false → fieldLE hdr 8 8 = g.size → fieldLE d.bytes 0x23 1 = 1 →
      blobBad (sliceB blob 0 2128) = some o → Gives (.unseal sq blob hdr) s fun t => Completed (zeroRegion s d) t d stKeyFormat o) ∧
    (∀ (s : State) (sq : Nat) (blob hdr : Bytes) (d : Desc) (j : Job) (g : Region), Starts s sq 2 d → Store.get? s.jobs d.job = some j →
      j.regions[d.region]? = some g → g.isSealed = true → g.filled = false → fieldLE hdr 8 8 = g.size → fieldLE d.bytes 0x23 1 = 1 →
      blobBad (sliceB blob 0 2128) = none → Gives (.unseal sq blob hdr) s fun t =>
        (blobUnbound s d j (sliceB blob 0 2128) = true → Completed (zeroRegion s d) t d stKeyBinding 0) ∧
        (blobUnbound s d j (sliceB blob 0 2128) = false → unwrapKey s.sec.sessionId (sliceB blob 0 2128) = none →
          Completed (zeroRegion s d) t d stKeyUnwrap 0)) ∧
    (∀ (s : State) (sq : Nat) (blob hdr : Bytes) (d : Desc) (j : Job) (g : Region), Starts s sq 2 d → Store.get? s.jobs d.job = some j →
      j.regions[d.region]? = some g → g.isSealed = true → g.filled = false → fieldLE hdr 8 8 = g.size → fieldLE d.bytes 0x23 1 = 0 →
      Gives (.unseal sq blob hdr) s fun t => (on s SEC_STATUS_session_ready = false → Completed (zeroRegion s d) t d stKeyBinding 0) ∧
        (on s SEC_STATUS_session_ready = true → Store.get? s.sec.slots d.slot = none →
          Completed (zeroRegion s d) t d stKeyEmpty (fieldLE d.bytes 0x22 1))) ∧
    (∀ (s : State) (sq : Nat) (blob hdr : Bytes) (d : Desc) (j : Job) (g : Region) (k : KeySlot), Starts s sq 2 d →
      Store.get? s.jobs d.job = some j → j.regions[d.region]? = some g → g.isSealed = true → g.filled = false → fieldLE hdr 8 8 = g.size →
      fieldLE d.bytes 0x23 1 = 0 → on s SEC_STATUS_session_ready = true → Store.get? s.sec.slots d.slot = some k → k.bound = none → s.sec.unseals ≠ [] →
      Gives (.unseal sq blob hdr) s fun t => t.sec = { s.sec with unseals := s.sec.unseals ++ [⟨d.subm, sliceB hdr 0 128, d.slot, k.key⟩] } ∧
        t.jobs = s.jobs ∧ t.mem = s.mem) ∧
    (∀ (s : State) (stream p : Bytes) (u : Unsealing) (d : Desc) (j : Job) (g : Region), s.sec.unseals = [u] → descOf s u.subm = some d →
      Store.get? s.jobs d.job = some j → j.regions[d.region]? = some g → openStream u stream g.size = .inl p → p.length = g.size →
      sha384 p = sliceB u.header 0x20 48 → Gives (.unsealComplete stream) s fun t => readBytes t g.addr g.size = p ∧
        MemKeptBut s t g.addr g.size ∧ descOf t u.subm = none ∧ EntryOut t d.cq (entryBytes d (tod s) stOk 0 0 0 true) ∧
        (∃ k, Store.get? t.jobs d.job = some k ∧ k.regions[d.region]? = some { g with filled := true } ∧
          Store.get? k.regionDigs d.region = some (sha384 p)) ∧ t.sec.unseals = []) ∧
    (∀ (s : State) (stream : Bytes) (u : Unsealing) (d : Desc) (g : Region), s.sec.unseals = [u] → descOf s u.subm = some d →
      regionOf s d.job d.region = some g → (∃ c, openStream u stream g.size = .inr c) ∨
        (∃ p, openStream u stream g.size = .inl p ∧ sha384 p ≠ sliceB u.header 0x20 48) → Gives (.unsealComplete stream) s fun t =>
        (∀ i, i < g.size → readByte t (g.addr + i) = 0) ∧ MemKeptBut s t g.addr g.size ∧ descOf t u.subm = none ∧
        t.jobs = s.jobs ∧ t.sec.unseals = [] ∧ ∃ st dt, (st = stSealTag ∨ (st = stSealDigest ∧ dt = 0)) ∧
          EntryOut t d.cq (entryBytes d (tod s) st dt 0 0 true))

/-- Hardware faults stop their runs and condemn at the limit; refreshes, patrol scrub and wear are counted. R177, R178, R183, R351 to R353, R356 and R363. That patrol scrub of a block with neither flag is a corrected block is the model's reading (log 31). -/
def Obligations.FaultsWearAndRefresh : Prop :=
    (∀ (s : State) (code tile idx : Nat), 1 ≤ code → code ≤ 14 → Gives (.hardwareFault code tile idx) s fun t =>
      flag t REL_CAUSE_cause 0 = true ∧ rd t REL_FAULT_AT_tod = tod t % 2 ^ 64 ∧
      (∃ c, rd t REL_FAULT_fault = faultDetail code (if code = 8 ∨ s.part.tiles ≤ tile then 0xFFF else tile) idx c) ∧
      (∀ r ∈ faultRuns s code tile, ∃ y, Store.get? t.runs r = some y ∧ y.fault = code ∧ y.stop.isSome = true) ∧
      (∀ r, r ∉ faultRuns s code tile → Store.get? t.runs r = Store.get? s.runs r) ∧
      t.mem = s.mem ∧ t.tiles = s.tiles ∧ t.jobs = s.jobs ∧ t.periods = s.periods) ∧
    (∀ (s : State) (code tile idx : Nat), code ∈ [2, 3, 5, 9, 0xA, 0xB] → tile < s.part.tiles → faultRuns s code tile = [] →
      Gives (.hardwareFault code tile idx) s fun t => if rd s (REL_WEAR_faults tile) + 1 < max 1 (rd s REL_CFG_fault_limit) then
          Writes s t [(REL_WEAR_faults tile, (rd s (REL_WEAR_faults tile) + 1) % 2 ^ 4), (REL_FAULT_fault, faultDetail code tile idx false),
            (REL_FAULT_AT_tod, tod s % 2 ^ 64), (REL_CAUSE_cause, withBit s REL_CAUSE_cause 0)]
        else rd t (REL_WEAR_faults tile) = 0 ∧ rd t (REL_TILE_MAP_condemned tile) = 1 ∧ flag t REL_CAUSE_cause 1 = true ∧
          rd t REL_FAULT_fault = faultDetail code tile idx true ∧
          FieldsKept s t [REL_WEAR_faults tile, REL_TILE_MAP_condemned tile, REL_FAULT_fault, REL_FAULT_AT_tod, REL_CAUSE_cause]) ∧
    (∀ (s : State) (t g : Nat), Gives (.refreshLate t g) s fun u =>
      if tileActive s t = true ∧ Store.getD (tileOf s t).refreshed g 0 + 16000000 ≤ s.now then
        Store.getD (tileOf u t).refreshed g 0 = s.now ∧ flag u (TIL_CAUSE_cause t) 6 = true ∧
        rd u (BDR_REFRESH_late t) = upBy s (BDR_REFRESH_late t) 1 ∧ u.mem = s.mem ∧ u.runs = s.runs
      else u = s) ∧
    (∀ (s : State) (t g : Nat), Gives (.controllerRefresh t g) s fun u =>
      if (tileActive s t = false ∨ on s (TIL_MODE_strict t) = false) ∧ g < 4096 ∧ oldestRow s t g = true ∧ slotSoon s t = false then
        tileOf u t = { tileOf s t with refreshed := Store.set (tileOf s t).refreshed g s.now } ∧ TilesKeptBut s u t ∧
        Writes s { u with tiles := s.tiles } [(BDR_REFRESH_controller t, upBy s (BDR_REFRESH_controller t) 1)]
      else u = s) ∧
    (∀ (s : State) (a : Nat), on s LPD_SCRUB_en = true → placeOf s a = .lpd →
      Gives (.patrolScrub a false false false) s (fun t => Writes s t [(LPD_ECC_corrected, upBy s LPD_ECC_corrected 1)]) ∧
      Gives (.patrolScrub a false true false) s (fun t => Writes s t [(LPD_ECC_device_corrected, upBy s LPD_ECC_device_corrected 1),
        (LPD_CAUSE_cause, withBit s LPD_CAUSE_cause 1)]) ∧
      Gives (.patrolScrub a false false true) s (fun t => Writes s t [(LPD_ECC_corrected, upBy s LPD_ECC_corrected 1),
        (LPD_SCRUB_passes, upBy s LPD_SCRUB_passes 1), (LPD_CAUSE_cause, withBit s LPD_CAUSE_cause 4)]) ∧
      Gives (.patrolScrub a true false false) s (fun t => flag t LPD_CAUSE_cause 0 = true ∧ flag t REL_CAUSE_cause 0 = true ∧
        rd t LPD_ECC_uncorrectable = upBy s LPD_ECC_uncorrectable 1 ∧ t.mem = s.mem)) ∧
    (∀ (s : State) (w : SiteWear), w.t < s.part.tiles → Gives (.wearSample [w] [] []) s fun t =>
      rd t (REL_WEAR_ageing w.t) = min w.ageing 0xFFFF ∧ rd t (REL_WEAR_ce_rate w.t) = min w.ceRate 0xFFFF ∧
      (rd s REL_CFG_age_limit ≤ w.ageing ∨ rd s REL_CFG_ce_limit ≤ w.ceRate → rd t (REL_WEAR_alert w.t) = 1 ∧
        (rd s (REL_WEAR_alert w.t) = 0 → rd s (REL_TILE_MAP_condemned w.t) = 0 → rd t (REL_TILE_MAP_condemned w.t) = 1 ∧
          flag t REL_CAUSE_cause 3 = true ∧ flag t REL_CAUSE_cause 1 = true)) ∧
      FieldsKept s t [REL_WEAR_ageing w.t, REL_WEAR_ce_rate w.t, REL_WEAR_alert w.t, REL_TILE_MAP_condemned w.t, REL_CAUSE_cause] ∧
      t = { s with regs := t.regs }) ∧
    (∀ (s : State) (u m : Nat), u < 60 → Gives (.wearSample [] [] [(u, m)]) s fun t => rd t (REL_MARGIN_margin u) = min m 255 ∧
      rd t (REL_MARGIN_alert u) = b2n (decide (m < rd s REL_CFG_margin_limit)) ∧
      FieldsKept s t [REL_MARGIN_margin u, REL_MARGIN_alert u, REL_CAUSE_cause] ∧ t = { s with regs := t.regs })

/-- SUBSTITUTE is checked and queued; units, sites and stacks are replaced by their spares. R358 to R361. -/
def Obligations.SparesTakeTheirPlace : Prop :=
    (∀ (s : State) (sq : Nat) (dg : Bytes) (d : Desc), Starts s sq 7 d → Store.get? s.jobs d.job = none →
      Gives (.substitute sq dg) s fun t => Completed s t d stNoJob 0) ∧
    (∀ (s : State) (sq tl k i : Nat) (dg : Bytes) (d : Desc) (j : Job), Starts s sq 7 d → Store.get? s.jobs d.job = some j →
      k = fieldLE d.bytes 0x10 1 → tl = fieldLE d.bytes 0x12 2 → i = fieldLE d.bytes 0x14 2 → k = 3 ∨ k = 4 ∨ k = 5 → tl < s.part.tiles →
      tileOfPart s tl d.part = true → tileOn s tl = true → Gives (.substitute sq dg) s fun t =>
        if (if k = 3 then 256 else if k = 4 then 16 else 4096) ≤ i then Completed s t d stBadTarget 0
        else if spareLeft s tl k = false then Completed s t d stNoBench 0
        else (∃ u ∈ t.unitSubs, u.tile = tl ∧ u.kind = k ∧ u.idx = i ∧ u.subm = some d.subm) ∧ t.mem = s.mem ∧ t.tiles = s.tiles) ∧
    (∀ (s : State) (sq tl : Nat) (dg : Bytes) (d : Desc) (j : Job), Starts s sq 7 d → Store.get? s.jobs d.job = some j →
      fieldLE d.bytes 0x10 1 = 1 → fieldLE d.bytes 0x11 1 = 0 → tl = fieldLE d.bytes 0x12 2 → tl < s.part.tiles →
      tileOfPart s tl d.part = true → tileOn s tl = true → Gives (.substitute sq dg) s fun t =>
        (benchFree s (siteOf s tl).die = false → Completed s t d stNoBench 0) ∧
        (benchFree s (siteOf s tl).die = true → s.siteSubs = [] → t.siteSubs = [⟨tl, false, false, d.subm⟩] ∧ t.siteMap = s.siteMap)) ∧
    (∀ (s : State) (sq k : Nat) (dg : Bytes) (d : Desc) (j : Job), Starts s sq 7 d → Store.get? s.jobs d.job = some j →
      fieldLE d.bytes 0x10 1 = 2 → k = fieldLE d.bytes 0x12 2 → d.part = 0 → k < s.part.stacks → s.stackCopy = none →
      Gives (.substitute sq dg) s fun t => (freeStacks s = [] → Completed s t d stNoBench 0) ∧
        (∀ p l, freeStacks s = p :: l → t.stackCopy = some ⟨k, p, d.subm, s.now⟩ ∧ rd t REL_STATUS_copy_active = 1 ∧
          rd t REL_STACK_COPY_logical = k % 2 ^ 5 ∧ rd t REL_STACK_COPY_dest = p % 2 ^ 5 ∧ t.stackMap = s.stackMap)) ∧
    (∀ (s : State) (t k i n : Nat), atBoundary s t = true → (∀ u ∈ s.unitSubs, u.begun = false) → (∀ u ∈ s.siteSubs, u.begun = false) →
      s.unitSubs.findIdx? (fun u => u.tile == t && u.kind == k && u.idx == i && (on s REL_CFG_auto_en || u.subm.isSome)) = some n →
      exec (.autoSubstitute t k i) s = .next { s with unitSubs := s.unitSubs.modify n fun u => { u with begun := true } }) ∧
    (∀ (s : State) (t n : Nat), atBoundary s t = true → (∀ u ∈ s.unitSubs, u.begun = false) → (∀ u ∈ s.siteSubs, u.begun = false) →
      s.siteSubs.findIdx? (fun u => u.tile == t) = some n →
      exec (.siteCopyStart t) s = .next { s with siteSubs := s.siteSubs.modify n fun u => { u with begun := true } }) ∧
    (∀ (s : State) (t k : Nat), atBoundary s t = false → exec (.autoSubstitute t k 0) s = .next s ∧ exec (.siteCopyStart t) s = .next s) ∧
    (∀ (s : State) (t : Nat) (u : UnitSub), t < s.part.tiles → s.unitSubs = [u] → u.tile = t → u.begun = true → u.subm = none →
      Gives (.unitReplaceDone t) s fun v => v.unitSubs = [] ∧ v.tiles = s.tiles ∧ v.mem = s.mem ∧
        (∀ p l, u.kind = 3 → freeDpus s t = p :: l → bitOf (rd v (REL_DPU_used t)) p = true ∧
          rd v (REL_DPU_POS_pos t p) = u.idx % 2 ^ 8 ∧ flag v REL_CAUSE_cause 2 = true) ∧
        (u.kind = 4 → spareLeft s t 4 = true → rd v (REL_AIDE_serves t) = u.idx % 2 ^ 4 ∧ rd v (REL_AIDE_used t) = 1 ∧
          flag v REL_CAUSE_cause 2 = true) ∧
        (∀ p l, u.kind = 5 → freeRows s t = p :: l → rd v (REL_ROW_row_group t p) = u.idx % 2 ^ 12 ∧ rd v (REL_ROW_used t p) = 1 ∧
          flag v REL_CAUSE_cause 2 = true) ∧
        (u.kind = 4 → spareLeft s t 4 = false → rd v (REL_TILE_MAP_condemned t) = 1 ∧ flag v REL_CAUSE_cause 1 = true ∧
          FieldsKept s v [REL_TILE_MAP_condemned t, REL_CAUSE_cause])) ∧
    (∀ (s : State) (t : Nat) (u : SiteSub) (d : Desc), t < s.part.tiles → s.siteSubs = [u] → u.tile = t → u.begun = true →
      u.reload = false → descOf s u.subm = some d → Gives (.siteCopyDone t) s fun v =>
        siteOf v t = { siteOf s t with site := 8 } ∧ v.time.rollDue = true ∧ v.siteSubs = [] ∧ v.mem = s.mem ∧ v.tiles = s.tiles ∧
        16 * (siteOf s t).die + (siteOf s t).site ∈ v.badSites ∧ rd v (REL_TILE_MAP_site t) = 8 ∧ rd v (REL_WEAR_faults t) = 0 ∧
        flag v REL_CAUSE_cause 2 = true ∧ descOf v u.subm = none ∧
        EntryOut v d.cq (entryBytes d (tod s) stOk (16 * (siteOf s t).die + 8) 0 0 true)) ∧
    (∀ (s : State) (n old : Nat) (c : StackCopy) (d : Desc), s.stackCopy = some c → descOf s c.subm = some d →
      c.logical < s.part.stacks → c.dest < s.part.stacksFitted → old = Store.getD s.stackMap c.logical c.logical → old ≠ c.dest →
      old < s.part.stacksFitted → Gives (.stackCopyDone n) s fun v =>
        v.stackCopy = none ∧ Store.getD v.stackMap c.logical c.logical = c.dest ∧ rd v (REL_STACK_MAP_phys c.logical) = c.dest % 2 ^ 5 ∧
        rd v (REL_STACK_WEAR_in_service old) = 0 ∧ rd v (REL_STACK_WEAR_in_service c.dest) = 1 ∧ rd v REL_STATUS_copy_active = 0 ∧
        flag v REL_CAUSE_cause 5 = true ∧ v.mem = s.mem ∧ EntryOut v d.cq (entryBytes d (tod s) stOk c.dest 0 0 true))

/-- Map commits, SCRUB, the undo log and the locker store registers act as their checks find. R27, R184, R355, R362 and R364. -/
def Obligations.MapsScrubsAndStores : Prop :=
    (∀ s : State, fnPhys s 0 = true → Gives (.mapCommit 0) s fun t => if mapReason s = 0 then
        (∀ k, k < s.part.tiles → siteOf t k = stagedSite s k) ∧ rd t REL_STATUS_committed = 1 ∧ rd t REL_MAP_CTL_rejected = 0 ∧
        t.time.rollDue = true ∧ t.mem = s.mem ∧ t.tiles = s.tiles
      else rd t REL_MAP_CTL_rejected = 1 ∧ rd t REL_MAP_CTL_reason = mapReason s ∧ flag t REL_CAUSE_cause 4 = true ∧
        (∀ k, k < s.part.tiles → rd t (REL_TILE_MAP_site k) = (siteOf s k).site % 2 ^ 4) ∧ t = { s with regs := t.regs }) ∧
    (∀ (s : State) (sq : Nat) (d : Desc), Starts s sq 8 d → fieldLE d.bytes 0x10 1 = 2 → Gives (.scrub sq) s fun t =>
      if spanOk s d.part d.job (fieldLE d.bytes 0x18 8) (fieldLE d.bytes 0x20 8) = true then t = pumpAll (startDesc s d.subm)
      else Completed s t d stDescriptor 0x18) ∧
    (∀ (s : State) (sq k : Nat) (d : Desc), Starts s sq 8 d → fieldLE d.bytes 0x10 1 = 1 → fieldLE d.bytes 0x11 1 = 0 →
      k = fieldLE d.bytes 0x12 2 → k < s.part.tiles → tileOfPart s k d.part = true → tileOn s k = true → Gives (.scrub sq) s fun t =>
        if on s (TIL_MODE_bound k) = true then Completed s t d stUnitBusy 0 else t = pumpAll (startDesc s d.subm)) ∧
    (∀ (s : State) (sq k : Nat) (d : Desc), scrubOf s sq 1 = some d → descOf s d.subm = some d → scrubTile s d = some k →
      Gives (.siteTestDone sq none) s fun t => descOf t d.subm = none ∧ EntryOut t d.cq (entryBytes d (tod s) stOk 0 0 0 true) ∧
        QueueFieldsKept s t ∧ MemKeptBut s t (windowOf k + 0x100000) 0x700000 ∧ t.jobs = s.jobs ∧ t.runs = s.runs) ∧
    (∀ (s : State) (sq k c i : Nat) (d : Desc), scrubOf s sq 1 = some d → descOf s d.subm = some d → scrubTile s d = some k →
      1 ≤ c → c ≤ 14 → Gives (.siteTestDone sq (some (c, i))) s fun t => descOf t d.subm = none ∧ flag t REL_CAUSE_cause 0 = true ∧
        EntryOut t d.cq (entryBytes d (tod t) stTestFailed (rd t REL_FAULT_fault) 0 0 true)) ∧
    (∀ (s : State) (sq n : Nat) (d : Desc), scrubOf s sq 2 = some d → descOf s d.subm = some d →
      Gives (.memoryScrubDone sq n) s fun t => Completed s t d stOk n) ∧
    (∀ (s : State) (fn q : Nat) (v : Word64), q < 8 → fnOwns s fn q = true → Gives (.undoLogEnable fn q v) s fun t =>
      rd t (REL_UNDO_CFG_log2_bytes q) = bitsOf v.toNat 0 5 ∧ rd t (REL_UNDO_CFG_en q) = bitsOf v.toNat 5 1 ∧ rd t (REL_UNDO_CFG_used q) = 0 ∧
      Store.get? t.undoRun q = none ∧ (bitOf v.toNat 5 = false → rd t (REL_UNDO_CFG_valid q) = 0) ∧
      (bitOf v.toNat 5 = true → (rd t (REL_UNDO_CFG_valid q) = 1 ∨ (rd t (REL_UNDO_CFG_valid q) = 0 ∧ flag t REL_CAUSE_cause 6 = true)) ∧
        (rd t (REL_UNDO_CFG_valid q) = 1 → lpdSpanOk s q (undoBase s q) (undoBytes t q) = true)) ∧
      FieldsKept s t [REL_UNDO_CFG_log2_bytes q, REL_UNDO_CFG_en q, REL_UNDO_CFG_used q, REL_UNDO_CFG_valid q, REL_CAUSE_cause] ∧
      t = { s with regs := t.regs, undoRun := t.undoRun }) ∧
    (∀ (s : State) (fn q : Nat) (v : Word64), q < 8 → fnOwns s fn q = true → Gives (.lksRegisterWrite fn (LPD_LKS_BASE q) v) s fun t =>
      if partLoaded s q = true then Writes s t [(LPD_CAUSE_cause, withBit s LPD_CAUSE_cause 3)]
      else rd t (LPD_LKS_BASE_base q) = v.toNat % 2 ^ (LPD_LKS_BASE_base q).w ∧ rd t (LPD_LKS_SHAPE_valid q) = b2n (lockerValid t q) ∧
        FieldsKept s t [LPD_LKS_BASE_base q, LPD_LKS_SHAPE_valid q, LPD_CAUSE_cause] ∧ t = { s with regs := t.regs })

/-- The grading engines arm, read posts, apply segments, take the second phase and close layers. R308, R314, R318, R321, R322, R325 and R326. -/
def Obligations.GradingEnginesWork : Prop :=
    (∀ (s : State) (fn j : Nat) (v : Word64), j = v.toNat % 65536 → bitOf v.toNat 16 = true → fnGrdJob s fn j = true → on s GRD_JOB_en = false →
      armFault (wr s GRD_JOB_job_id j) j = none → Gives (.grdArm fn v) s fun t =>
        Writes s { t with grd := s.grd } [(GRD_JOB_job_id, j), (GRD_JOB_en, 1)] ∧ t.grd = ⟨[], []⟩) ∧
    (∀ (s : State) (fn j c l : Nat) (v : Word64), j = v.toNat % 65536 → bitOf v.toNat 16 = true → fnGrdJob s fn j = true →
      on s GRD_JOB_en = false → armFault (wr s GRD_JOB_job_id j) j = some (c, l) → rd s GRD_ERR_valid = 0 → Gives (.grdArm fn v) s fun t =>
        Writes s t [(GRD_JOB_job_id, j), (GRD_ERR_cause, c % 2 ^ 4), (GRD_ERR_layer, l % 2 ^ 13), (GRD_ERR_tile, 0), (GRD_ERR_valid, 1),
          (GRD_CAUSE_cause, withBit s GRD_CAUSE_cause 0)]) ∧
    (∀ (s : State) (fn : Nat) (v : Word64), bitOf v.toNat 16 = false → fnGrdJob s fn (v.toNat % 65536) = true → on s GRD_JOB_en = true →
      (∀ p ∈ s.runs, p.2.job = grdJob s → p.2.phase = .ended) → Gives (.grdDisarm fn v) s fun t =>
        Writes s { t with grd := s.grd } [(GRD_JOB_job_id, v.toNat % 65536), (GRD_JOB_en, 0), (GRD_STATUS_open, 0)] ∧ t.grd = ⟨[], []⟩) ∧
    (∀ (s : State) (fn : Nat) (v : Word64), on s GRD_JOB_en = true → (∃ p ∈ s.runs, p.2.job = grdJob s ∧ p.2.phase ≠ .ended) →
      exec (.grdDisarm fn v) s = .next s) ∧
    (∀ (s : State) (sq : Nat) (d : Desc), Starts s sq 5 d → Gives (.setStep sq) s fun t =>
      if grdArmed s d.job = false then Completed s t d stGrdNotArmed 0
      else if 64 < fieldLE d.bytes 0x10 1 + fieldLE d.bytes 0x11 1 ∨
          ∃ i < fieldLE d.bytes 0x11 1, badStep (fieldLE d.bytes (0x18 + 4 * i) 4) = true then Completed s t d stGrdBadStep 0
      else (∀ i, i < fieldLE d.bytes 0x11 1 → rd t (GRD_STEP_step (fieldLE d.bytes 0x10 1 + i)) = fieldLE d.bytes (0x18 + 4 * i) 4) ∧
        descOf t d.subm = none ∧ EntryOut t d.cq (entryBytes d (tod s) stOk 0 0 0 true) ∧ t.mem = s.mem ∧ t.grd = s.grd) ∧
    (∀ (s : State) (c r n l addr : Nat) (z : Run) (x : Job) (b : Bytes), postCounter s (grdJob s) = some c → c ∈ s.netNotes →
      grdRun s = some (r, z) → z.stop = none → Store.get? s.jobs (grdJob s) = some x → ranks s = 1 → allDone s r = false →
      1 ≤ rd s GRD_RING_log2_entries → n = Store.getD s.grd.readIdx 0 0 → addr = postAddr s x 0 n → b = readBytes s addr 16 →
      b = toLE 4 n ++ toLE 2 l ++ [1, 0] ++ toLE 8 0 → l < rd s GRD_TABLE_layer_count → l < 2 ^ 16 → n < 2 ^ 32 →
      (layerOf s l).isOpen = true → (layerOf s l).ended = [] → fieldLE (readBytes s (postAddr s x 0 (n + 1)) 16) 0 4 ≠ n + 1 →
      Gives .postRead s fun t => t.netNotes = s.netNotes.filter (· != c) ∧ Store.getD t.grd.readIdx 0 0 = n + 1 ∧
        (layerOf t l).ended = [0] ∧ readBytes t addr 4 = toLE 4 0xFFFFFFFF ∧ MemKeptBut s t addr 4 ∧ t.jobs = s.jobs) ∧
    (∀ (s : State) (l k : Nat) (g : List Nat) (x : Job), Store.get? (layerOf s l).finals k = some g → Store.get? s.jobs (grdJob s) = some x →
      on s GRD_JOB_en = true → gFrozen (layerOf s l).desc = true → gExport (layerOf s l).desc = false →
      Gives (.segmentApply l k) s fun t => t.mem = s.mem ∧ k ∈ (layerOf t l).applied ∧
        Writes s { t with grd := s.grd } [(GRD_FROZEN_HITS_hits, upBy s GRD_FROZEN_HITS_hits 1), (GRD_FROZEN_HITS_last_layer, l % 2 ^ 13),
          (GRD_CAUSE_cause, withBit s GRD_CAUSE_cause 3)]) ∧
    (∀ (s : State) (l k g a : Nat) (x : Job) (d : Bytes), d = (layerOf s l).desc → Store.get? (layerOf s l).finals k = some [g] →
      Store.get? s.jobs (grdJob s) = some x → on s GRD_JOB_en = true → gFrozen d = false → gExport d = false → gRule d = 0 →
      gWork d = 0xFF → a = elemAddr x d 0x10 0x18 (k * gSeg d) 4 → areaHas x d 0x10 0x18 (k * gSeg d) = true → Gives (.segmentApply l k) s fun t =>
        readBytes t a 4 = toLE 4 (sub32 (leNat (readBytes s a 4)) (mul32 (layerOf s l).e (add32 g (mul32 (fieldLE d 0x5C 4) (leNat (readBytes s a 4)))))) ∧
        MemKeptBut s t a 4 ∧ rd t GRD_COUNT_segments = upBy s GRD_COUNT_segments 1 ∧ k ∈ (layerOf t l).applied ∧
        (∃ j, Store.get? t.jobs (grdJob s) = some j ∧ j.weightsWritten = true)) ∧
    (∀ (s u : State) (l k w : Nat) (x : Job) (y : GrdLayer) (d : Bytes), y = layerOf s l → d = y.desc → Store.get? s.jobs (grdJob s) = some x →
      on s GRD_JOB_en = true → layerComplete s y = true → gRule d = 3 → y.phase2 = false → gSparse d = true → gFrozen d = false →
      gWork d = 0xFF → y.applied = [k] → segLen d k = 1 → u = writeByte s (journalAddr s x l) 2 →
      w = elemAddr x d 0x10 0x18 (k * gSeg d) 4 → areaHas x d 0x10 0x18 (k * gSeg d) = true →
      areaHas x d 0x12 0x20 (k * gSeg d) = true → areaHas x d 0x14 0x28 (k * gSeg d) = true → Gives (.trustPhaseTwo l) s fun t => (layerOf t l).phase2 = true ∧
        readBytes t w 4 = toLE 4 (sub32 (leNat (readBytes u w 4)) (mul32 (mul32 y.e (trustRatio y))
          (adaptU y (leNat (readBytes u (elemAddr x d 0x12 0x20 (k * gSeg d) 4) 4)) (leNat (readBytes u (elemAddr x d 0x14 0x28 (k * gSeg d) 4) 4))
            (leNat (readBytes u w 4))))) ∧
        MemKeptBut u t w 4) ∧
    (∀ (s : State) (l : Nat) (x : Job) (y : GrdLayer), y = layerOf s l → Store.get? s.jobs (grdJob s) = some x → on s GRD_JOB_en = true →
      grdRun s = none → layerComplete s y = true → gRule y.desc = 3 → y.phase2 = true → gFrozen y.desc = false →
      fieldLE y.desc 0x3A 2 < x.ctrs.length → Gives (.layerClose l) s fun t => (∀ z ∈ t.grd.layers, z.layer ≠ l) ∧ rd t GRD_COUNT_closes = upBy s GRD_COUNT_closes 1 ∧
        rd t GRD_STATUS_last_closed = l % 2 ^ 13 ∧ rd t GRD_STATUS_last_valid = 1 ∧
        t.fabric = s.fabric ++ [⟨.incr (x.ctrFirst + fieldLE y.desc 0x3A 2) 1 0 0 false, 0xFFF, 0xFFF, grdJob s, Store.getD s.epochs (grdJob s) 0, s.now⟩] ∧
        readBytes t (journalAddr s x l) 16 =
          toLE 1 0 ++ toLE 3 0 ++ toLE 4 y.t ++ toLE 1 (Store.getD s.epochs (grdJob s) 0) ++ toLE 7 0 ∧
        (descAddr s x y.layer + 0x7C ≤ journalAddr s x l ∨ journalAddr s x l + 16 ≤ descAddr s x y.layer + 0x70 →
          readBytes t (descAddr s x y.layer + 0x70) 12 = toLE 4 y.t ++ toLE 4 y.p1 ++ toLE 4 y.p2) ∧
        (∀ a, a < journalAddr s x l ∨ journalAddr s x l + 16 ≤ a → a < descAddr s x y.layer + 0x70 ∨ descAddr s x y.layer + 0x7C ≤ a →
          readByte t a = readByte s a))

/-- COLL messages are taken, held back, counted as duplicates or dropped; ACKs release them; a timeout resends or fails them. R285, R286 and R299 to R302. -/
def Obligations.CollectiveMessages : Prop :=
    (∀ (s : State) (a r l k : Nat) (m : Bytes) (z : Run) (j : Job), on s (NET_ASSOC_CFG_valid a) = true → on s (NET_ASSOC_CFG_kind a) = true →
      msgType m = mtColl → msgEpoch m = rd s (NET_ASSOC_CFG_epoch a) → (assocOf s a).rxAhead.contains (msgSeq m) = false →
      behind (((assocOf s a).rxNext + 2 ^ 32 - 1) % 2 ^ 32) (msgSeq m) = none → grdRun s = some (r, z) →
      Store.get? s.jobs (grdJob s) = some j → msgJob m = grdJob s → collBad s a m j z.exam = false → l = collLayer m →
      k = collSeg m → k < segPartEnd → k % groupM s ≠ groupIdx s → (assocOf s a).heldEnds = [] → (assocOf s a).rxPend < 15 →
      nextStep (layerOf s l) (collSrc m) k (k % groupM s) (groupIdx s) = false → k ∉ (layerOf s l).arrived →
      Gives (.coll a m) s fun t => k ∈ (layerOf t l).arrived ∧
        Store.get? (layerOf t l).finals k = some ((collVals (fieldBE m 0x18 1 == 0x12) (fieldBE m 0x1A 2) m).map (·.toNat)) ∧
        rd t NET_COLL_STATS_segments = upBy s NET_COLL_STATS_segments 1 ∧ FieldsKept s t [NET_COLL_STATS_segments] ∧
        t.mem = s.mem ∧ t.tiles = s.tiles ∧ t.runs = s.runs) ∧
    (∀ (s : State) (a r l : Nat) (m : Bytes) (z : Run) (j : Job), on s (NET_ASSOC_CFG_valid a) = true → on s (NET_ASSOC_CFG_kind a) = true →
      msgType m = mtColl → msgEpoch m = rd s (NET_ASSOC_CFG_epoch a) → (assocOf s a).rxAhead.contains (msgSeq m) = false →
      behind (((assocOf s a).rxNext + 2 ^ 32 - 1) % 2 ^ 32) (msgSeq m) = none → grdRun s = some (r, z) →
      Store.get? s.jobs (grdJob s) = some j → msgJob m = grdJob s → collBad s a m j z.exam = false → l = collLayer m →
      segPartEnd ≤ collSeg m → (assocOf s a).heldEnds = [] → (assocOf s a).rxPend < 15 → (assocOf s a).rxNext ∉ (assocOf s a).rxAhead →
      msgSeq m ≠ (assocOf s a).rxNext → behind (assocOf s a).rxNext (msgSeq m) = none →
      nextStep (layerOf s l) (collSrc m) (collSeg m) (collSeg m % groupM s) (groupIdx s) = false →
      Gives (.coll a m) s fun t => (assocOf t a).heldEnds = [(msgSeq m, m)] ∧ msgSeq m ∈ (assocOf t a).rxAhead ∧
        (∀ b, b ≠ a → assocOf t b = assocOf s b) ∧ t = { s with assocs := t.assocs }) ∧
    (∀ (s : State) (a : Nat) (m : Bytes), a < 512 → on s (NET_ASSOC_CFG_valid a) = true → on s (NET_ASSOC_CFG_kind a) = true →
      msgType m = mtColl → msgEpoch m = rd s (NET_ASSOC_CFG_epoch a) → (assocOf s a).rxAhead.contains (msgSeq m) = true →
      (assocOf s a).rxPend < 15 → Gives (.coll a m) s fun t => Writes s { t with assocs := s.assocs }
        [(NET_ASSOC_STAT_dup a, upBy s (NET_ASSOC_STAT_dup a) 1), (NET_COLL_STATS_dup, upBy s NET_COLL_STATS_dup 1)]) ∧
    (∀ (s : State) (a r : Nat) (m : Bytes) (z : Run) (j : Job), on s (NET_ASSOC_CFG_valid a) = true → on s (NET_ASSOC_CFG_kind a) = true →
      msgType m = mtColl → msgEpoch m = rd s (NET_ASSOC_CFG_epoch a) → (assocOf s a).rxAhead.contains (msgSeq m) = false →
      behind (((assocOf s a).rxNext + 2 ^ 32 - 1) % 2 ^ 32) (msgSeq m) = none → grdRun s = some (r, z) →
      Store.get? s.jobs (grdJob s) = some j → msgJob m = grdJob s → collBad s a m j z.exam = true → Gives (.coll a m) s fun t =>
        Writes s t [(NET_PORT_DROP_header (rd s (NET_ASSOC_CFG_port a)), upBy s (NET_PORT_DROP_header (rd s (NET_ASSOC_CFG_port a))) 1)]) ∧
    (∀ (s : State) (a p sub : Nat), p = rd s (NET_ASSOC_CFG_port a) → sub = rd s (NET_ASSOC_CFG_subport a) → txMsa s p sub = none →
      Gives (.ackTimer a) s fun t =>
      if 0 < (assocOf s a).rxPend ∧ (assocOf s a).rxSince + 2000 ≤ s.now then
        (assocOf t a).rxPend = 0 ∧ (assocOf t a).rxNext = (assocOf s a).rxNext ∧ t = { s with out := t.out, assocs := t.assocs } ∧
        (linkUp s p sub = false ∨ neighbourOf s p sub (assocIp s a) = none → t.out = s.out) ∧
        (∀ mac, linkUp s p sub = true → neighbourOf s p sub (assocIp s a) = some mac →
          t.out = .frame p sub (withFcs (udpFrame s p sub mac (assocIp s a) (rd s (NET_ASSOC_CFG_peer_udp a))
            (mkMsg mtCtrl 0 0 (rd s (NET_ASSOC_CFG_epoch a)) (assocOf s a).txSeq
              ([3, 0, 0, 0] ++ toBE 4 (ackOf (assocOf s a)).1 ++ toBE 8 (ackOf (assocOf s a)).2)))) :: s.out)
      else t = s) ∧
    (∀ (s : State) (a : Nat) (m : Bytes), on s (NET_ASSOC_CFG_valid a) = true → msgType m = mtCtrl → fieldBE m 0x10 1 = 3 →
      msgEpoch m = rd s (NET_ASSOC_CFG_epoch a) → (assocOf s a).waiting = [] →
      (∀ c ∈ (assocOf s a).unacked, acked (fieldBE m 0x14 4) (fieldBE m 0x18 8) c.seqn = false →
        laterMarked (fieldBE m 0x14 4) (fieldBE m 0x18 8) c.seqn < 3) → Gives (.ack a m) s fun t =>
        (assocOf t a).unacked = (assocOf s a).unacked.filter (fun c => !acked (fieldBE m 0x14 4) (fieldBE m 0x18 8) c.seqn) ∧
        (∀ b, b ≠ a → assocOf t b = assocOf s b) ∧ t = { s with assocs := t.assocs }) ∧
    (∀ (s : State) (a q p sub : Nat) (c : CollSent), (assocOf s a).unacked = [c] → c.seqn = q → p = rd s (NET_ASSOC_CFG_port a) →
      sub = rd s (NET_ASSOC_CFG_subport a) → txMsa s p sub = none → Gives (.collRetransmit a q) s fun t =>
      if s.now < c.sentAt + 1000 * max 1 (rd s NET_COLL_CFG_rto_us) then t = s
      else if c.resends < 8 then (assocOf t a).unacked = [{ c with resends := c.resends + 1, sentAt := s.now }] ∧
        Writes s { t with out := s.out, assocs := s.assocs } [(NET_COLL_STATS_retransmits, upBy s NET_COLL_STATS_retransmits 1)] ∧
        (linkUp s p sub = false ∨ neighbourOf s p sub (assocIp s a) = none → t.out = s.out) ∧
        (∀ mac, linkUp s p sub = true → neighbourOf s p sub (assocIp s a) = some mac →
          t.out = .frame p sub (withFcs (udpFrame s p sub mac (assocIp s a) (rd s (NET_ASSOC_CFG_peer_udp a)) (asResend c.msg))) :: s.out)
      else flag t NET_CAUSE_cause 7 = true ∧ flag t REL_CAUSE_cause 0 = true ∧ (assocOf t a).unacked = [] ∧
        rd t REL_FAULT_fault % 256 = 0x0D ∧ t.mem = s.mem)

/-- Records are chained, written to the ring while it has room, and signed. R339 and R341 to R346. -/
def Obligations.AuditChainGrows : Prop :=
    (∀ (s : State) (fn q : Nat) (v : Word64), q < 8 → fnOwns s fn q = true → (audOf s q).heldRecs = [] →
      Gives (.logHeadAdvance fn q v) s fun t => Writes s t [(AUD_LOG_HEAD_head q, v.toNat % 2 ^ (AUD_LOG_HEAD_head q).w)]) ∧
    (∀ (s u : State) (fn q : Nat) (v : Word64) (b : Bytes), q < 8 → fnOwns s fn q = true → (audOf s q).heldRecs = [b] →
      u = wr s (AUD_LOG_HEAD_head q) v.toNat → ringUsed u q + b.length < ringBytes s q → rd s (AUD_LOG_TAIL_tail q) + b.length ≤ ringBytes s q →
      Gives (.logHeadAdvance fn q v) s fun t => (audOf t q).heldRecs = [] ∧
        t.out = .hostWrite 0 (4096 * rd s (AUD_LOG_BASE_base q) + rd s (AUD_LOG_TAIL_tail q)) b :: s.out ∧
        rd t (AUD_LOG_TAIL_tail q) = (rd s (AUD_LOG_TAIL_tail q) + b.length) % ringBytes s q % 2 ^ (AUD_LOG_TAIL_tail q).w ∧
        FieldsKept s t [AUD_LOG_HEAD_head q, AUD_LOG_TAIL_tail q, AUD_CAUSE_cause]) ∧
    (∀ (s : State) (q : Nat), q < 8 → auditOn s q = true → rd s (AUD_CFG_sign_ms q) ≠ 0 →
      (audOf s q).signFrom + rd s (AUD_CFG_sign_ms q) * 1000000 ≤ s.now → Gives (.signTimer q) s fun t =>
        ((audOf s q).signing ≠ none → (audOf t q).signLate = true ∧
          Writes s { t with aud := s.aud } [(AUD_CAUSE_cause, withBit s AUD_CAUSE_cause 4)]) ∧
        ((audOf s q).signing = none → (audOf s q).lost = none → fitsHeld s q 128 = true →
          rd t (AUD_NEXT_NUM_next_num q) = (rd s (AUD_NEXT_NUM_next_num q) + 1) % 2 ^ 48 ∧
          rd t (AUD_HEAD_NUM_head_num q) = rd s (AUD_NEXT_NUM_next_num q) % 2 ^ 48 ∧
          (audOf t q).lastSign = some (rd s (AUD_NEXT_NUM_next_num q)) ∧ (audOf t q).signFrom = s.now ∧
          (∃ b, (audOf t q).signing = some (rd s (AUD_NEXT_NUM_next_num q), b) ∧ b.length = 128 ∧ headHash t q = sha384 b) ∧
          t.mem = s.mem ∧ t.runs = s.runs)) ∧
    (∀ (s : State) (q : Nat), auditOn s q = false ∨ rd s (AUD_CFG_sign_ms q) = 0 ∨
      s.now < (audOf s q).signFrom + rd s (AUD_CFG_sign_ms q) * 1000000 → exec (.signTimer q) s = .next s) ∧
    (∀ (s : State) (sq : Nat) (d : Desc), Starts s sq 9 d → d.part < 8 → Gives (.signNow sq) s fun t =>
      (Store.get? s.jobs d.job = none → Completed s t d stNoJob 0) ∧
      (Store.get? s.jobs d.job ≠ none → auditOn s d.part = false → Completed s t d 0x30 0) ∧
      (Store.get? s.jobs d.job ≠ none → auditOn s d.part = true → (audOf s d.part).signing = none → (audOf s d.part).lost = none →
        fitsHeld s d.part 128 = true → (audOf s d.part).signNow = [] →
        (audOf t d.part).signNow = [(d.subm, some (rd s (AUD_NEXT_NUM_next_num d.part)))] ∧ t.jobs = s.jobs)) ∧
    (∀ (s : State) (q n : Nat) (b : Bytes), q < 8 → (audOf s q).signing = some (n, b) → (audOf s q).signNow = [] → (audOf s q).signLate = false →
      (audOf s q).heldRecs = [] → ringUsed s q + 36160 < ringBytes s q → rd s (AUD_LOG_TAIL_tail q) + 36160 ≤ ringBytes s q →
      Gives (.sigWritten q) s fun t => (audOf t q).signing = none ∧ (audOf t q).heldRecs = [] ∧ rd t (AUD_SIGNED_signed_num q) = n % 2 ^ 48 ∧
        rd t (AUD_STATS_signs q) = upBy s (AUD_STATS_signs q) 1 ∧ flag t AUD_CAUSE_cause 0 = true ∧
        (.hostWrite 0 (4096 * rd s (AUD_LOG_BASE_base q) + rd s (AUD_LOG_TAIL_tail q)) (sigRecord s q n b)) ∈ t.out ∧
        (sigRecord s q n b).length = 36160 ∧ t.mem = s.mem ∧ t.jobs = s.jobs) ∧
    (∀ (s : State) (fn q : Nat) (v : Word64), q < 8 → fnOwns s fn q = true → auditOn s q = false →
      rd s (AUD_NEXT_NUM_next_num q) ≤ rd s (AUD_HEAD_NUM_head_num q) + 1 → Gives (.auditEnable fn q v) s fun t =>
        Writes s { t with aud := s.aud } [(AUD_CFG_en q, bitsOf v.toNat 0 1), (AUD_CFG_lines q, bitsOf v.toNat 1 1),
          (AUD_CFG_records q, bitsOf v.toNat 2 1), (AUD_CFG_tile_entries q, bitsOf v.toNat 3 1), (AUD_CFG_sign_ms q, bitsOf v.toNat 8 16)] ∧
        (bitOf v.toNat 0 = true → (audOf t q).signFrom = s.now)) ∧
    (∀ (s : State) (r : Nat) (x : Run), Store.get? s.runs r = some x → x.phase = .ended → x.recorded = false → x.serial = none →
      linesFormed s x = true → s.dbl.myDig = [] →
      exec (.runRecord r) s = .next (setRun s r { x with recorded := true })) ∧
    (∀ (s : State) (r n : Nat) (x : Run), Store.get? s.runs r = some x → x.phase = .ended → x.recorded = false → x.serial = some n →
      linesFormed s x = true → s.dbl.myDig = [] → x.name = none → partOfRun s x < 8 → (audOf s (partOfRun s x)).lost = none →
      Gives (.runRecord r) s fun t => (∃ y, Store.get? t.runs r = some y ∧ y = { x with recorded := true }) ∧
        rd t (AUD_NEXT_NUM_next_num (partOfRun s x)) = (rd s (AUD_NEXT_NUM_next_num (partOfRun s x)) + 1) % 2 ^ 48 ∧
        t.mem = s.mem ∧ t.jobs = s.jobs ∧ t.tiles = s.tiles)

/-- Frames are checked and classified in order, associations are written, requests become candidates or are rejected. R278 to R281, R284, R285, R287, R290, R292, R304, R307 and R449. When an association may first be written is a reading of the model (log 26), and so are which length class and neighbour table (logs 40, 59). -/
def Obligations.FramesAndRequests : Prop :=
    (∀ (s : State) (p sub fc fu : Nat) (fr : Bytes), p < 16 → on s (NET_PORT_CFG_en p) = true →
      (fcsGood fr = false → Gives (.frameReceive p sub fr fc fu) s fun t =>
        Writes s t ((NET_PORT_DROP_fcs p, upBy s (NET_PORT_DROP_fcs p) 1) :: fecCounts s p fc fu)) ∧
      (fcsGood fr = true → fr.length < 64 ∨ 9216 < fr.length → Gives (.frameReceive p sub fr fc fu) s fun t =>
        Writes s t ((NET_PORT_DROP_other p, upBy s (NET_PORT_DROP_other p) 1) :: fecCounts s p fc fu)) ∧
      (fcsGood fr = true → 64 ≤ fr.length → fr.length ≤ 9216 →
        (if hasSecTag (noFcs fr) = true then openFrame s p sub (noFcs fr) = none else on s (NET_PORT_CFG_macsec_req p) = true ∧
          ¬ (classifyFrame s p sub (noFcs fr) = .ptp ∧ on s (NET_PORT_CFG_ptp_clear p) = true)) →
        Gives (.frameReceive p sub fr fc fu) s fun t =>
        Writes s t ((NET_PORT_DROP_macsec p, upBy s (NET_PORT_DROP_macsec p) 1) :: fecCounts s p fc fu))) ∧
    (∀ (s : State) (p sub fc fu : Nat) (fr : Bytes), on s (NET_PORT_CFG_en p) = false →
      exec (.frameReceive p sub fr fc fu) s = .next s) ∧
    (∀ (s u : State) (p sub fc fu : Nat) (fr g : Bytes), FrameReaches s p sub fr u g →
      (vlanOk u p g = false ∨ classifyFrame u p sub g = .other → Gives (.frameReceive p sub fr fc fu) s fun t =>
        Writes u t ((NET_PORT_DROP_other p, upBy s (NET_PORT_DROP_other p) 1) :: fecCounts s p fc fu)) ∧
      (vlanOk u p g = true → classifyFrame u p sub g = .ptp → Gives (.frameReceive p sub fr fc fu) s fun t =>
        if sub = 0 ∧ rd s TIM_SRC_CFG_ptp_port = p then
          Writes u t ((NET_PORT_RX_ptp p, upBy s (NET_PORT_RX_ptp p) 1) :: fecCounts s p fc fu)
        else Writes u t ((NET_PORT_DROP_other p, upBy s (NET_PORT_DROP_other p) 1) :: fecCounts s p fc fu)) ∧
      (∀ l, vlanOk u p g = true → classifyFrame u p sub g = .firmware l → Store.get? s.fwRate (4 * p + sub) = none →
        Gives (.frameReceive p sub fr fc fu) s fun t => t.out = .toFirmware p sub :: s.out ∧
          (∀ ip mac, l = some (ip, mac) → neighbourOf t p sub ip = some mac) ∧ (l = none → t.neighbours = s.neighbours) ∧
          Writes u { t with out := u.out, fwRate := u.fwRate, neighbours := u.neighbours }
            ((NET_PORT_RX_firmware p, upBy s (NET_PORT_RX_firmware p) 1) :: fecCounts s p fc fu)) ∧
      (∀ src udp m, vlanOk u p g = true → classifyFrame u p sub g = .miobel true src udp m →
        Gives (.frameReceive p sub fr fc fu) s fun t =>
          Writes u t ((NET_PORT_DROP_header p, upBy s (NET_PORT_DROP_header p) 1) :: fecCounts s p fc fu)) ∧
      (∀ src udp m a, vlanOk u p g = true → classifyFrame u p sub g = .miobel false src udp m → msgOk m = true →
        findAssoc s src udp p sub = some a → msgEpoch m = rd s (NET_ASSOC_CFG_epoch a) →
        Gives (.frameReceive p sub fr fc fu) s fun t => Writes u t ((NET_PORT_RX_miobel p, upBy s (NET_PORT_RX_miobel p) 1) ::
          (NET_ASSOC_STAT_rx a, upBy s (NET_ASSOC_STAT_rx a) 1) :: fecCounts s p fc fu))) ∧
    (∀ (s : State) (p fc fu : Nat) (fr : Bytes), p < 16 → on s (NET_PORT_CFG_en p) = true → fcsGood fr = true → 64 ≤ fr.length →
      fr.length ≤ 9216 → hasSecTag (noFcs fr) = false → on s (NET_PORT_CFG_macsec_req p) = true →
      on s (NET_PORT_CFG_ptp_clear p) = true → classifyFrame s p 0 (noFcs fr) = .ptp → vlanOk s p (noFcs fr) = true →
      rd s TIM_SRC_CFG_ptp_port = p → Gives (.frameReceive p 0 fr fc fu) s fun t =>
        Writes s t ((NET_PORT_RX_ptp p, upBy s (NET_PORT_RX_ptp p) 1) :: fecCounts s p fc fu)) ∧
    (∀ (s : State) (fn a : Nat) (v : Word64), a < 512 → fnPort s fn (rd s (NET_ASSOC_CFG_port a)) = true →
      fnPort s fn (bitsOf v.toNat 16 4) = true → Gives (.assocWrite fn a v) s fun t =>
        (∀ w, (assocOf s a).lastWrite = some w → s.now < w + 1000000000 →
          Writes s t [(NET_CAUSE_cause, withBit s NET_CAUSE_cause 11)]) ∧
        ((assocOf s a).lastWrite = none → (∀ r, s.readyAt = some r → s.now < r + 1000000000) →
          Writes s t [(NET_CAUSE_cause, withBit s NET_CAUSE_cause 11)]) ∧
        (∀ r, (assocOf s a).lastWrite.or s.readyAt = some r → r + 1000000000 ≤ s.now → bitOf v.toNat 22 = true → bitOf v.toNat 23 = false →
          findAssoc (wr s (NET_ASSOC_CFG_valid a) 0) (assocIp s a) (bitsOf v.toNat 0 16) (bitsOf v.toNat 16 4) (bitsOf v.toNat 20 2) = none →
          assocOf t a = { AssocSt.init with lastWrite := some s.now } ∧
          Writes s { t with assocs := s.assocs, freeCtr := s.freeCtr } [(NET_ASSOC_CFG_peer_udp a, bitsOf v.toNat 0 16), (NET_ASSOC_CFG_port a, bitsOf v.toNat 16 4),
            (NET_ASSOC_CFG_subport a, bitsOf v.toNat 20 2), (NET_ASSOC_CFG_valid a, 1), (NET_ASSOC_CFG_kind a, 0),
            (NET_ASSOC_CFG_coll_module a, bitsOf v.toNat 24 4), (NET_ASSOC_CFG_epoch a,
              (if (assocOf s a).lastWrite.isNone then Config.freeValue s.freeCtr else rd s (NET_ASSOC_CFG_epoch a) + 1) % 2 ^ 8)])) ∧
    (∀ (s : State) (a p sub : Nat) (m : Bytes), on s (NET_ASSOC_CFG_valid a) = true → msgType m = mtCtrl → fieldBE m 16 1 = 1 →
      p = rd s (NET_ASSOC_CFG_port a) → sub = rd s (NET_ASSOC_CFG_subport a) → txMsa s p sub = none →
      (∀ mac, linkUp s p sub = true → neighbourOf s p sub (assocIp s a) = some mac →
        exec (.miobelHello a m) s = .next (emitOut s (.frame p sub (withFcs (udpFrame s p sub mac (assocIp s a) (rd s (NET_ASSOC_CFG_peer_udp a))
          (mkMsg mtCtrl 0 0 (rd s (NET_ASSOC_CFG_epoch a)) (assocOf s a).txSeq
            ([2, 0] ++ toBE 2 (((partOfPort s p).bind (boundJob s)).getD 0)))))))) ∧
      (linkUp s p sub = false ∨ neighbourOf s p sub (assocIp s a) = none → exec (.miobelHello a m) s = .next s)) ∧
    (∀ (s : State) (p : Nat), on s (NET_PORT_CFG_en p) = true → rd s TIM_SRC_CFG_ptp_port = p →
      exec (.ptpMessage p 0 .sync) s = .next (emitOut s (.ptp p (some (unsigned 64 ((tod s : Int) + signed 16 (rd s (NET_PTP_ASYM_asym_ns p))))) false)) ∧
      exec (.ptpMessage p 0 .pdelayReq) s =
        .next (emitOut s (.ptp p (some (unsigned 64 ((tod s : Int) + signed 16 (rd s (NET_PTP_ASYM_asym_ns p))))) true)) ∧
      exec (.ptpMessage p 0 .followUp) s = .next (emitOut s (.ptp p none false)) ∧
      (linkUp s p 0 = true → exec (.ptpMessage p 0 .sendDelayReq) s = .next (emitOut s (.ptpSent p 1 (tod s))) ∧
        exec (.ptpMessage p 0 .sendPdelayReq) s = .next (emitOut s (.ptpSent p 2 (tod s))))) ∧
    (∀ (s : State) (a q : Nat) (m : Bytes) (b : Period) (j : Job) (f : Form), on s (NET_ASSOC_CFG_valid a) = true →
      on s (NET_ASSOC_CFG_kind a) = false → msgType m = mtReq → msgEpoch m = rd s (NET_ASSOC_CFG_epoch a) → (assocOf s a).top = none →
      msgSeq m ∉ (assocOf s a).seen → partOfPort s (rd s (NET_ASSOC_CFG_port a)) = some q → Store.get? s.periods q = some b →
      Store.get? s.jobs b.job = some j → j.form = some f → reqCheck s q m = none → Gives (.req a m) s fun t =>
        (∃ r, t.cands = insertReq s.cands r ∧ r.assoc = a ∧ r.seqn = msgSeq m ∧ r.tag = fieldBE m 0x10 8 ∧ r.ts = tod s ∧ r.part = q ∧
          r.bind = b.subm ∧ r.deadline = tod s + 1000 * b.deadlineUs ∧
          r.record = decodedRecord f m (tod s) (rd s (NET_ASSOC_CFG_port a)) (rd s (NET_ASSOC_CFG_subport a))) ∧
        (assocOf t a).top = some (msgSeq m) ∧ msgSeq m ∈ (assocOf t a).seen ∧
        Writes s { t with cands := s.cands, assocs := s.assocs } [(NET_INGEST_STATUS_candidates, (s.cands.length + 1) % 2 ^ NET_INGEST_STATUS_candidates.w)]) ∧
    (∀ (s : State) (a p sub : Nat) (m : Bytes), on s (NET_ASSOC_CFG_valid a) = true → on s (NET_ASSOC_CFG_kind a) = false →
      msgType m = mtReq → msgEpoch m = rd s (NET_ASSOC_CFG_epoch a) → (assocOf s a).top = none → msgSeq m ∉ (assocOf s a).seen →
      p = rd s (NET_ASSOC_CFG_port a) → sub = rd s (NET_ASSOC_CFG_subport a) → (partOfPort s p = none ∨
        ∃ q, partOfPort s p = some q ∧ Store.get? s.periods q = none ∧ muted s q = false) → Gives (.req a m) s fun t =>
        rd t NET_INGEST_REJECT_not_bound = upBy s NET_INGEST_REJECT_not_bound 1 ∧ flag t NET_CAUSE_cause 4 = true ∧ t.cands = s.cands ∧
        (∀ mac, linkUp s p sub = true → neighbourOf s p sub (assocIp s a) = some mac → txMsa s p sub = none →
          t.out = .frame p sub (withFcs (udpFrame s p sub mac (assocIp s a) (rd s (NET_ASSOC_CFG_peer_udp a))
            (mkMsg mtRep 0 (msgJob m) (rd s (NET_ASSOC_CFG_epoch a)) (msgSeq m)
              (repBody (fieldBE m 0x10 8) rpNotBound 0 0xFFFF 0 (List.replicate 16 0) [])))) :: s.out) ∧
        (linkUp s p sub = false ∨ neighbourOf s p sub (assocIp s a) = none → t.out = s.out ∧ flag t NET_CAUSE_cause 6 = true ∧
          rd t NET_REPLY_STATS_lost = upBy s NET_REPLY_STATS_lost 1)) ∧
    (∀ (s : State) (p k : Nat), k < 4 → linkUp s p k = true → Gives (.linkDown p k) s fun t => linkUp t p k = false ∧
      (∀ i, i < 4 → i ≠ k → linkUp t p i = linkUp s p i) ∧ flag t NET_CAUSE_cause 0 = true ∧
      FieldsKept s t [NET_PORT_STATUS_link_up p, NET_CAUSE_cause] ∧ t = { s with regs := t.regs }) ∧
    (∀ (s : State) (p k : Nat), k < 4 → on s (NET_PORT_CFG_en p) = true → k < subPorts s p → linkUp s p k = false →
      Gives (.linkUp p k) s fun t => linkUp t p k = true ∧ (∀ i, i < 4 → i ≠ k → linkUp t p i = linkUp s p i) ∧
      flag t NET_CAUSE_cause 1 = true ∧ FieldsKept s t [NET_PORT_STATUS_link_up p, NET_CAUSE_cause] ∧ t = { s with regs := t.regs })

/-- Frames in sequence are taken, a missed one is resent from there on; heartbeats keep a pair link up. R303, R372 and R415. The layout inside a pair frame is the model's choice (log 42). -/
def Obligations.PairLinkCarriesTheDoublesMessages : Prop :=
    (∀ (s : State) (l : Nat) (h b : Bytes), l < 2 → on s (NET_PAIR_STATUS_up l) = true → Gives (.pairFrame l h b) s fun t =>
      match openPair s l (h ++ b) with
      | none => t = s
      | some (k, q, a, b) =>
        if q ≠ (pairOf s l).rxNext then t = s
        else t = { s with pairs := t.pairs, out := t.out } ∧ (∃ e, pairOf t l =
            { pairOf s l with rxNext := (q + 1) % 2 ^ 24, heard := s.now, txAck := ackedTo s l a, early := e }) ∧
          (k = 0 → t.out = s.out ∧ pairOf t (1 - l) = pairOf s (1 - l) ∧ (pairOf t l).early = (pairOf s l).early) ∧
          (k ≠ 0 → b ∈ (pairOf s (1 - l)).early → t.out = s.out ∧ (pairOf t l).early = (pairOf s l).early ∧
            pairOf t (1 - l) = { pairOf s (1 - l) with early := (pairOf s (1 - l)).early.erase b }) ∧
          (k ≠ 0 → b ∉ (pairOf s (1 - l)).early → t.out = .pairTaken k b :: s.out ∧ pairOf t (1 - l) = pairOf s (1 - l) ∧
            (pairOf t l).early = (pairOf s l).early ++ (if on s (NET_PAIR_STATUS_up (1 - l)) = true then [b] else []))) ∧
    (∀ (s : State) (l q sent n : Nat) (key : Bytes), l < 2 → on s (NET_PAIR_STATUS_up l) = true → s.sec.pairKey = some key →
      sent = framesSent s l - (pairOf s l).txBase → n = (sent % 2 ^ 24 + 2 ^ 24 - q) % 2 ^ 24 → Gives (.pairResend l q) s fun t =>
      if n = 0 ∨ sent - (pairOf s l).txAck < n then t = s
      else t.out = (((framesOn s l).drop ((pairOf s l).txBase + (sent - n))).zipIdx.map fun f =>
          Out.pairAgain l (pairBytes s key l (sent - n + f.2) f.1)).reverse ++ s.out ∧
        Writes s { t with out := s.out } [(NET_PAIR_STATUS_resends l, upBy s (NET_PAIR_STATUS_resends l) n)]) ∧
    (∀ (s : State) (l : Nat), l < 2 → on s (NET_PAIR_CFG_en l) = true → s.sec.pairKey.isSome = true →
      exec (.pairHeartbeat l) s = .next (emitOut s (.pairMsg 0 (toBE 1 l)))) ∧
    (∀ (s : State) (l : Nat), l < 2 → on s (NET_PAIR_STATUS_up l) = true → Gives (.pairDown l) s fun t =>
      if (pairOf s l).heard + 3 * heartbeatNs s l ≤ s.now then (∀ k, pairOf t k = { pairOf s k with early := [] }) ∧
        (on s (NET_PAIR_STATUS_up (1 - l)) = true → Writes s { t with pairs := s.pairs } [(NET_PAIR_STATUS_down_events l, upBy s (NET_PAIR_STATUS_down_events l) 1),
          (NET_PAIR_STATUS_up l, 0), (NET_PAIR_STATUS_lanes_ok l, 0), (NET_CAUSE_cause, withBit s NET_CAUSE_cause 9)]) ∧
        (on s (NET_PAIR_STATUS_up (1 - l)) = false → paired s = false ∨ isB s = true →
          t.dbl = { s.dbl with downAt := some s.now } ∧ Writes s { t with dbl := s.dbl, pairs := s.pairs } [
            (NET_PAIR_STATUS_down_events l, upBy s (NET_PAIR_STATUS_down_events l) 1), (NET_PAIR_STATUS_up l, 0),
            (NET_PAIR_STATUS_lanes_ok l, 0), (NET_CAUSE_cause, withBit s NET_CAUSE_cause 9)]) ∧
        (on s (NET_PAIR_STATUS_up (1 - l)) = false → paired s = true → isB s = false → s.dbl.mine = [] →
          rd t DBL_STATUS_state = 3 ∧ rd t DBL_CAUSE_cause = (rd s DBL_CAUSE_cause ||| 2 ^ 2 ||| 2 ^ 3) % 2 ^ DBL_CAUSE_cause.w ∧
          rd t (NET_PAIR_STATUS_up l) = 0 ∧ t.dbl.theirs = [] ∧ t.dbl.seatWait = none ∧ t.dbl.downAt = some s.now ∧
          t = { s with regs := t.regs, dbl := t.dbl, pairs := t.pairs } ∧ FieldsKept s t [NET_PAIR_STATUS_down_events l, NET_PAIR_STATUS_up l,
            NET_PAIR_STATUS_lanes_ok l, NET_CAUSE_cause, DBL_STATUS_state, DBL_CAUSE_cause])
      else t = s) ∧
    (∀ (s : State) (l : Nat), l < 2 → on s (NET_PAIR_STATUS_up l) = false → Gives (.pairUp l) s fun t =>
      if on s (NET_PAIR_CFG_en l) = true ∧ s.sec.pairKey.isSome = true then
        pairOf t l = ⟨0, s.now, framesSent s l, 0, []⟩ ∧ (∀ k, k ≠ l → pairOf t k = pairOf s k) ∧ t.dbl.downAt = none ∧
        t.dbl.mine = s.dbl.mine ∧ t.dbl.theirs = s.dbl.theirs ∧
        (linksUp s = true → t.dbl.partner = s.dbl.partner) ∧ (linksUp s = false → t.dbl.partner = none) ∧
        Writes s { t with pairs := s.pairs, dbl := s.dbl } [(NET_PAIR_STATUS_up l, 1), (NET_PAIR_STATUS_lanes_ok l, 255),
          (NET_CAUSE_cause, withBit s NET_CAUSE_cause 10)]
      else t = s)

/-- HELLOs pair two modules; a lost partner makes singles; DBL_CTL ends a split. R366, R371 to R373 and R377. That DBL_CTL keep raises SINGLES only is the reading of the model (log 32). -/
def Obligations.ModulesPairAndPart : Prop :=
    (∀ (s : State) (v : Word64), fnPhys s 0 = true → Gives (.doublesEnable 0 v) s fun t =>
      rd t DBL_CFG_en = bitsOf v.toNat 0 1 ∧ rd t DBL_CFG_part_mask = bitsOf v.toNat 8 8 ∧ rd t DBL_CFG_singles_wait = bitsOf v.toNat 16 8 ∧
      t = { s with regs := t.regs, dbl := t.dbl } ∧
      FieldsKept s t [DBL_CFG_en, DBL_CFG_part_mask, DBL_CFG_singles_wait, DBL_STATUS_state] ∧
      (bitOf v.toNat 0 = true → on s DBL_CFG_en = false → rd t DBL_STATUS_state = 1 ∧ t.dbl.mine = [] ∧ t.dbl.count = [] ∧
        t.dbl.partner = s.dbl.partner ∧ t.dbl.helloAt = s.now) ∧
      (bitOf v.toNat 0 = false → on s DBL_CFG_en = true → rd t DBL_STATUS_state = 0 ∧ t.dbl.mine = []) ∧
      (bitOf v.toNat 0 = on s DBL_CFG_en → rd t DBL_STATUS_state = rd s DBL_STATUS_state ∧ t.dbl = s.dbl)) ∧
    (∀ s : State, on s DBL_CFG_en = true → linksUp s = true → exec .doublesHelloTimer s = .next
      (if rd s DBL_STATUS_state ≠ 2 ∧ s.dbl.helloAt + 1000000 ≤ s.now then
        { s with
          dbl := { s.dbl with helloAt := s.now }
          out := .pairMsg 1 (helloBytes (myHello s)) :: s.out }
      else s)) ∧
    (∀ (s : State) (h : Hello), linksUp s = true → Gives (.doublesHello h) s fun t => t.dbl.partner = some h ∧ t.mem = s.mem ∧
      (paired s = false → rd s DBL_STATUS_state = 1 → (h.dblId = isB s ∨ h.failed = true ∨ on s REL_STATUS_failed = true ∨
          h.partMask ≠ rd s DBL_CFG_part_mask ∨ h.partCode ≠ rd s HST_PART_INFO_part_code ∨ h.tilesUsable ≠ tilesUsable s) →
        Writes s { t with dbl := s.dbl } [(DBL_CAUSE_cause, withBit s DBL_CAUSE_cause 1)]) ∧
      (paired s = false → hellosMatch (myHello s) h = true → t = { s with dbl := t.dbl }) ∧
      (paired s = true → h.failed = false → t = { s with dbl := t.dbl }) ∧
      (paired s = true → h.failed = true → s.dbl.mine = [] → t.dbl.theirs = [] ∧ Writes s { t with dbl := s.dbl } [
        (DBL_STATUS_state, 3), (DBL_CAUSE_cause, (rd s DBL_CAUSE_cause ||| 2 ^ 2 ||| 2 ^ 3) % 2 ^ DBL_CAUSE_cause.w)])) ∧
    (∀ (s : State) (h : Hello), rd s DBL_STATUS_state = 1 → on s DBL_CFG_en = true → linksUp s = true → s.dbl.partner = some h →
      Gives .pairEstablish s fun t => if hellosMatch (myHello s) h = true ∧ doublesBusy s = false then
          t.dbl.partner = some h ∧ t.dbl.count = [] ∧ t.dbl.mine = [] ∧ t.dbl.theirs = [] ∧ Writes s { t with dbl := s.dbl } [
            (DBL_STATUS_state, 2), (DBL_CAUSE_cause, withBit s DBL_CAUSE_cause 0)]
        else t = s) ∧
    (∀ s : State, paired s = true → Gives (.leave 1) s (fun t => rd t DBL_STATUS_state = 5 ∧ FieldsKept s t [DBL_STATUS_state] ∧
        t = { s with regs := t.regs, periods := t.periods } ∧ ∀ q p, Store.get? s.periods q = some p →
          Store.get? t.periods q = some (if bitOf (rd s DBL_CFG_part_mask) q = true ∧ p.unbind = none then { p with unbind := some p.subm } else p)) ∧
      (s.dbl.mine = [] → Gives (.leave 2) s fun t => Writes s { t with dbl := s.dbl } [(DBL_STATUS_state, 3),
        (DBL_CAUSE_cause, (rd s DBL_CAUSE_cause ||| 2 ^ 2 ||| 2 ^ 3) % 2 ^ DBL_CAUSE_cause.w)])) ∧
    (∀ (s : State) (d : Nat), s.dbl.downAt = some d → paired s = true → isB s = true → s.dbl.mine = [] → Gives .singles s fun t =>
      if d + 100000 * max 1 (rd s DBL_CFG_singles_wait) ≤ s.now then Writes s { t with dbl := s.dbl } [(DBL_STATUS_state, 3),
        (DBL_CAUSE_cause, (rd s DBL_CAUSE_cause ||| 2 ^ 2 ||| 2 ^ 3) % 2 ^ DBL_CAUSE_cause.w)] else t = s) ∧
    (∀ (s : State) (x : DblItem) (r : ReqRef), s.dbl.downAt = some 0 → paired s = true → isB s = true → s.dbl.mine = [x] →
      100000 * max 1 (rd s DBL_CFG_singles_wait) ≤ s.now → itemsDiffer s x = false → x.run ∉ s.dbl.broken →
      refOf s x.run x.kind x.idx = some r → tod s < refDeadline s r → Gives .singles s fun t =>
        ∃ u, u = wrs s [(DBL_CAUSE_cause, rd s DBL_CAUSE_cause ||| 2 ^ 2), (DBL_STATUS_state, 3), (DBL_CAUSE_cause, rd s DBL_CAUSE_cause ||| 2 ^ 2 ||| 2 ^ 3)] ∧
          t = { answer u r rpScored x.payload with dbl := t.dbl } ∧ t.dbl.mine = []) ∧
    (∀ (s : State) (fn : Nat), fnPhys s fn = true → rd s DBL_STATUS_state = 4 →
      Gives (.dblResume fn) s (fun t => Writes s t [(DBL_STATUS_state, 2)]) ∧
      (s.dbl.mine = [] → Gives (.dblKeep fn) s fun t => t.out = .pairMsg 8 [1] :: s.out ∧
        Writes s { t with dbl := s.dbl, out := s.out } [(DBL_STATUS_state, 3), (DBL_CAUSE_cause, withBit s DBL_CAUSE_cause 3)]) ∧
      Gives (.dblLeave fn) s (fun t => Writes s { t with periods := s.periods } [(DBL_STATUS_state, 5)])) ∧
    (∀ (s : State) (fn : Nat), rd s DBL_STATUS_state ≠ 4 → exec (.dblResume fn) s = .next s ∧ exec (.dblKeep fn) s = .next s ∧
      exec (.dblLeave fn) s = .next s)

/-- B seats from SEATING and answers from SENT; A releases equal results; digests agree, part or split. R43, R354 and R367 to R371. -/
def Obligations.DoublesRunsAgreeOrAreRetaken : Prop :=
    (∀ (s : State) (q n : Nat) (l : List SeatRef) (p : Period) (j : Job) (f : Form), Store.get? s.periods q = some p → follows s q = true →
      (∀ m, p.lastSeat = some m → m < n) → Store.get? s.jobs p.job = some j → j.form = some f →
      (∀ c ∈ s.copies, c.bind = p.subm → c.skipped = false) → s.dbl.sents = [] → Gives (.seating q n l) s fun t =>
        if ∀ x ∈ l, (namedCand s p.subm x).isSome = true then SeatsBuilt s t p n l
        else t.dbl.seatWait = some (q, n, l) ∧ t.dbl.fills = [] ∧ t.copies = s.copies ∧ t.cands = s.cands ∧ t.runs = s.runs ∧ t.mem = s.mem) ∧
    (∀ (s : State) (q n k : Nat) (body : Bytes) (l : List SeatRef) (p : Period) (j : Job) (f : Form), s.dbl.seatWait = some (q, n, l) →
      Store.get? s.periods q = some p → Store.get? s.jobs p.job = some j → j.form = some f →
      (∀ c ∈ s.copies, c.bind = p.subm → c.skipped = false) → s.dbl.sents = [] → Gives (.reqFill k body) s fun t =>
        ((∀ i x, l[i]? = some x → (namedCand s p.subm x).isSome = true ∨ i = k ∨ (Store.get? s.dbl.fills i).isSome = true) →
          SeatsBuilt s t p n l) ∧
        ((∃ i x, l[i]? = some x ∧ namedCand s p.subm x = none ∧ i ≠ k ∧ Store.get? s.dbl.fills i = none) →
          t.dbl.seatWait = some (q, n, l) ∧ Store.get? t.dbl.fills k = some body ∧ t.copies = s.copies ∧ t.runs = s.runs ∧ t.mem = s.mem)) ∧
    (∀ (s : State) (q n r : Nat) (p : Period) (x : Run), Store.get? s.periods q = some p → p.current = some n → s.dbl.seatWait = none →
      follows s q = true → Store.get? s.runs r = some x → x.subm = p.subm → x.kind = .period n → x.phase = .pending → x.kickWin = none →
      (∀ c ∈ s.copies, c.bind = p.subm → c.period ≠ n) → Gives (.seatLost q) s fun t =>
        if p.bellAt n + 20000 ≤ tod s then t.dbl.broken = ⟨p.job, n⟩ :: s.dbl.broken ∧ flag t DBL_CAUSE_cause 7 = true ∧
          Store.get? t.runs r = some { x with kickWin := some (actWindow s) } ∧ TilesNoted s t ∧ t.jobs = s.jobs
        else t = s) ∧
    (∀ (s : State) (run : RunName) (k i : Nat) (item : Bytes) (a : DblItem), paired s = true → s.dbl.theirs.any (·.is run k i) = false →
      s.dbl.mine.find? (·.is run k i) = some a → Gives (.result run k i item) s fun t =>
        ∃ d, d = { s.dbl with theirs := s.dbl.theirs ++ [⟨run, k, i, sliceB item 0 16, []⟩] } ∧
        (a.item ≠ sliceB item 0 16 → t = { s with dbl := t.dbl } ∧ run ∈ t.dbl.disagreed ∧ t.dbl.theirs = d.theirs) ∧
        (a.item = sliceB item 0 16 → isB s = true → t = { s with dbl := d }) ∧
        (∀ r, a.item = sliceB item 0 16 → isB s = false → run ∉ s.dbl.broken → refOf s run k i = some r → tod s < refDeadline s r →
          t = answer { s with dbl := d } r rpScored a.payload) ∧
        (a.item = sliceB item 0 16 → isB s = false → run ∈ s.dbl.broken → rd t DBL_STATS_withheld = upBy s DBL_STATS_withheld 1)) ∧
    (∀ (s : State) (run : RunName) (k i : Nat) (item : Bytes), paired s = true → s.dbl.mine.find? (·.is run k i) = none →
      s.dbl.theirs.any (·.is run k i) = false → exec (.result run k i item) s =
        .next { s with dbl := { s.dbl with theirs := s.dbl.theirs ++ [⟨run, k, i, sliceB item 0 16, []⟩] } }) ∧
    (∀ (s : State) (run : RunName) (k i st : Nat) (pay : Bytes), paired s = true → isB s = true → s.dbl.sents = [] →
      (sentKnown s run k i = false →
        exec (.sent run k i st pay) s = .next { s with dbl := { s.dbl with sents := [(run, k, i, st, pay)] } }) ∧
      (∀ r, sentKnown s run k i = true → refOf s run k i = some r → exec (.sent run k i st pay) s = .next (answer s r st pay))) ∧
    (∀ (s : State) (run : RunName) (n : Nat) (b : RunDigests), paired s = true → s.dbl.myDig = [] → s.dbl.theirDig = [] →
      exec (.runDigest run n b) s = .next { s with dbl := { s.dbl with theirDig := [(run, n, b)] } }) ∧
    (∀ (s : State) (run : RunName) (n : Nat) (a b : RunDigests), paired s = true → s.dbl.myDig = [(run, n, a)] → s.dbl.theirDig = [] →
      Gives (.runDigest run n b) s fun t => t.dbl.myDig = [] ∧ t.dbl.theirDig = [] ∧
        (a = b → run ∉ s.dbl.disagreed → run ∉ s.dbl.broken → t.dbl = { s.dbl with myDig := [] } ∧
          Writes s { t with dbl := s.dbl } [(DBL_STATS_agreed, upBy s DBL_STATS_agreed 1)]) ∧
        (a.program ≠ b.program ∨ a.seed ≠ b.seed ∨ a.exam ≠ b.exam → run ∈ t.dbl.broken ∧ t.runs = s.runs ∧ t.mem = s.mem ∧
          rd t DBL_CAUSE_cause = (rd s DBL_CAUSE_cause ||| 2 ^ 6 ||| 2 ^ 4) % 2 ^ DBL_CAUSE_cause.w ∧
          FieldsKept s t [DBL_CAUSE_cause, DBL_STATS_withheld]) ∧
        (∀ r x, a.program = b.program → a.weights = b.weights → a.seed = b.seed → a.exam = b.exam → a.inputs ≠ b.inputs →
          runNamed s run = some (r, x) → 0 < x.disagreed → rd t DBL_STATUS_state = 4 ∧ run ∈ t.dbl.broken ∧ t.runs = s.runs ∧ t.mem = s.mem ∧
          rd t DBL_CAUSE_cause = (rd s DBL_CAUSE_cause ||| 2 ^ 4 ||| 2 ^ 5) % 2 ^ DBL_CAUSE_cause.w ∧
          rd t DBL_STATS_splits = upBy s DBL_STATS_splits 1 ∧
          (on s DBL_SPLIT_INFO_valid = false → rd t DBL_SPLIT_INFO_first = 3 ∧ rd t DBL_SPLIT_INFO_valid = 1 ∧
            rd t DBL_SPLIT_INFO_job_id = run.job % 2 ^ DBL_SPLIT_INFO_job_id.w)) ∧
        (∀ r x, a.program = b.program → a.weights ≠ b.weights → a.seed = b.seed → a.exam = b.exam → runNamed s run = some (r, x) →
          Store.get? s.runs r = some x → x.disagreed = 0 → x.phase = .pending → mayRetake x (partnerDetail disagreement) = true →
          Store.get? t.runs r = some { x with retakes := x.retakes + 1 } ∧ flag t DBL_CAUSE_cause 4 = true ∧ t.mem = s.mem ∧
          .pairMsg 7 (runBytes run ++ toBE 1 (x.retakes + 1) ++ toBE 1 255) ∈ t.out)) ∧
    (∀ (s : State) (run : RunName) (n c r : Nat) (x : Run), paired s = true → runNamed s run = some (r, x) → Store.get? s.runs r = some x →
      n ≤ 2 → c ≠ 0x0A → c ≠ 0x0E → x.retakes < n → (x.phase = .pending → mayRetake x (partnerDetail c) = true →
          exec (.retake run n c) s = .next (setRun s r { x with retakes := x.retakes + 1 })) ∧
        (x.phase = .ended → canRetake s r x (partnerDetail c) = true → Gives (.retake run n c) s fun t => t = { s with runs := t.runs } ∧
          ∃ y, Store.get? t.runs r = some y ∧ y.phase = .retakeWait ∧ y.outcome = 2 ∧ y.stop = some (.fault (partnerDetail c) (windowNow s))) ∧
        (x.phase = .running → mayRetake x (partnerDetail c) = true → Gives (.retake run n c) s fun t =>
          ∃ y, Store.get? t.runs r = some y ∧ y.phase = .aborting ∧ y.retakes = x.retakes) ∧
        (x.phase = .ended → canRetake s r x (partnerDetail c) = false → Gives (.retake run n c) s fun t =>
          (∃ y, Store.get? t.runs r = some y ∧ y.phase = .ended ∧ y.outcome = 3) ∧
          .pairMsg 7 (runBytes run ++ toBE 1 3 ++ toBE 1 c) ∈ t.out)) ∧
    (∀ (s : State) (run : RunName) (c r : Nat) (x : Run), paired s = true → runNamed s run = some (r, x) → Store.get? s.runs r = some x →
      x.phase = .running → s.dbl.mine = [] → Gives (.retake run 3 c) s fun t => Store.get? t.runs r = some { x with barred := true } ∧
        run ∈ t.dbl.solo ∧ Writes s { t with dbl := s.dbl, runs := s.runs } [(DBL_STATS_splits, upBy s DBL_STATS_splits 1),
          (DBL_CAUSE_cause, withBit s DBL_CAUSE_cause 5)])

/-- Intervals estimate power and bound it, samples hold the overpower limit, calibration slews, sensors throttle and trip. R378 to R380, R382, R384 to R386 and R388. The rounding of the clamp, the handling of ties and what a trip keeps are choices of the model (log 33). -/
def Obligations.PowerAndTemperatureAreKept : Prop :=
    (∀ (s : State) (b g : Nat) (l : List TileTerm) (terms : Store Nat), terms = l.foldl (fun m x => if x.t < s.part.tiles then
        Store.put m x.t 0 (calibrated s x.cw) else m) [] → Gives (.powerInterval b l [] g []) s fun t =>
      rd t PWR_STATUS_est_w = min 0xFFF ((calibrated s b + calibrated s g + sumL (terms.map (·.2))) / 100) ∧
      (∀ u, u < s.part.tiles → rd t (PWR_TILE_power_cw u) = min 0xFFFF (Store.getD terms u 0)) ∧
      t.pwr.terms = terms ∧ t.pwr.base = calibrated s b ∧ t.pwr.traffic = calibrated s g ∧
      t = { s with regs := t.regs, pwr := t.pwr } ∧
      (∀ (q : Nat) (pr : PartRes), s.parts = [(q, pr)] → q < 8 → domainTiles s q ≠ [] → gradingOwner s = none → chargedTiles s = [] →
        rd t (PWR_ENERGY_PART_energy_uj q) = (rd s (PWR_ENERGY_PART_energy_uj q) + (Store.getD s.pwr.frac q 0 + calibrated s b +
          sumL ((domainTiles s q).map fun u => Store.getD terms u 0)) / 100) % 2 ^ 64) ∧
      (∀ (q pd e : Nat) (pr : PartRes), s.parts = [(q, pr)] → on s PWR_STATUS_overpower = false → on s PWR_CAP_CFG_hints_en = false →
        rd s (PWR_PART_CAP_part_cap_w q) = 0 → pwrIso s = false → q < 8 →
        pd = sumL ((domainTiles s q).map fun u => Store.getD terms u 0) →
        e = calibrated s b + calibrated s g + sumL ((List.range s.part.tiles).map fun u => Store.getD terms u 0) - moduleCap s →
        (e = 0 ∨ pd = 0 → Store.getD t.pwr.capF q 0 = 0) ∧ (0 < e → 0 < pd → pd ≤ e → Store.getD t.pwr.capF q 0 = maxRatio s) ∧
        (0 < e → e < pd → Store.getD t.pwr.capF q 0 = min (maxRatio s) ((256 * e + (pd - e) - 1) / (pd - e)))) ∧
      (∀ (q : Nat) (pr : PartRes), s.parts = [(q, pr)] → ratioOf s q = maxRatio s → Store.getD s.pwr.sat q 0 = 999 →
        flag t PWR_CAUSE_cause 1 = true)) ∧
    (∀ (s : State) (w : Nat), Gives (.inputSample w) s fun t => rd t PWR_STATUS_meas_w = min 0xFFF w ∧
      rd t PWR_ENERGY_MOD_energy_uj = (rd s PWR_ENERGY_MOD_energy_uj + 100 * w) % 2 ^ 64 ∧ t = { s with regs := t.regs, pwr := t.pwr } ∧
      (2750 < w → rd t PWR_STATUS_overpower = if on s PWR_STATUS_overpower = true then rd s PWR_STATUS_overpower else 1) ∧
      (2750 < w → on s PWR_STATUS_overpower = false → flag t PWR_CAUSE_cause 5 = true ∧
        ∀ p ∈ s.parts, Store.getD t.pwr.capF p.1 0 = maxRatio s) ∧
      (w ≤ 2750 → on s PWR_STATUS_overpower = false → rd t PWR_STATUS_overpower = 0 ∧ rd t PWR_CAUSE_cause = rd s PWR_CAUSE_cause) ∧
      (2600 ≤ w → w ≤ 2750 → rd t PWR_STATUS_overpower = rd s PWR_STATUS_overpower) ∧
      (w < 2600 → 9 ≤ s.pwr.cool → rd t PWR_STATUS_overpower = 0) ∧
      (w < 2600 → s.pwr.cool < 9 → rd t PWR_STATUS_overpower = rd s PWR_STATUS_overpower)) ∧
    (∀ (s : State) (m e : Nat), Gives (.calibration m e) s fun t => 13108 ≤ rd t PWR_CAL_gain ∧ rd t PWR_CAL_gain ≤ 20480 ∧
      (13108 ≤ rd s PWR_CAL_gain → rd s PWR_CAL_gain ≤ 20480 → rd t PWR_CAL_gain ≤ rd s PWR_CAL_gain + rd s PWR_CAL_gain / 100 ∧
        rd s PWR_CAL_gain ≤ rd t PWR_CAL_gain + rd s PWR_CAL_gain / 100) ∧
      (0 < e → rd s PWR_CAL_gain - rd s PWR_CAL_gain / 100 ≤ m * 2 ^ 14 / e → m * 2 ^ 14 / e ≤ rd s PWR_CAL_gain + rd s PWR_CAL_gain / 100 →
        13108 ≤ m * 2 ^ 14 / e → m * 2 ^ 14 / e ≤ 20480 → rd t PWR_CAL_gain = m * 2 ^ 14 / e) ∧
      (rd t PWR_CAL_clamped = if rd t PWR_CAL_gain = 13108 ∨ rd t PWR_CAL_gain = 20480 then 1 else 0) ∧
      (0 < e → 4 * e ≤ 5 * m → 4 * m ≤ 5 * e → t.pwr.calOut = 0 ∧ rd t PWR_CAUSE_cause = rd s PWR_CAUSE_cause) ∧
      (5 * m < 4 * e ∨ 5 * e < 4 * m → t.pwr.calOut = s.pwr.calOut + 1 ∧ (s.pwr.calOut = 9 → flag t PWR_CAUSE_cause 2 = true)) ∧
      FieldsKept s t [PWR_CAL_gain, PWR_CAL_clamped, PWR_CAUSE_cause] ∧ t = { s with regs := t.regs, pwr := { s.pwr with calOut := t.pwr.calOut } }) ∧
    (∀ (s : State) (i : Nat) (c : Int), on s PWR_STATUS_tripped = false → i < 44 → -128 ≤ c → c ≤ 127 →
      Gives (.tempSample [⟨i, c⟩]) s fun t =>
        if atTrip ⟨i, c⟩ = true ∧ i ∈ s.pwr.trip then rd t PWR_STATUS_tripped = 1 ∧ rd t HST_BOOT_state = 8 ∧ t.runs = [] ∧ t.jobs = [] ∧
          t.tiles = [] ∧ t.mem = [] ∧ .pin "THERMTRIP_N" false ∈ t.out ∧ (s.time.pulse = true → .pin "TIME_1PPS_OUT" false ∈ t.out)
        else tempOf t i = c ∧ signed 8 (rd t (PWR_TEMP_max_c i)) = max c (signed 8 (rd s (PWR_TEMP_max_c i))) ∧
          (∀ k, k < 44 → k ≠ i → tempOf t k = tempOf s k) ∧ (∀ k, k < 44 → tempOf t k ≤ signed 8 (rd t PWR_STATUS_hottest_c)) ∧
          (∀ p ∈ s.parts, Store.getD t.pwr.thF p.1 0 = thermalRatio t p.1) ∧ (i ∈ t.pwr.trip ↔ atTrip ⟨i, c⟩ = true) ∧
          t = { s with regs := t.regs, pwr := t.pwr }) ∧
    (∀ (s : State) (l : List TempReading), on s PWR_STATUS_tripped = true → exec (.tempSample l) s = .next s) ∧
    (∀ (s : State) (d u : Nat), Store.get? s.pwr.hot d = some u → d < 12 → Gives (.thermStep d) s fun t =>
      if on s PWR_THERM_CFG_auto_step = true ∧ u + 10000000 ≤ s.now ∧ rd s TIM_FREQ_CTL_target < 3 then
        rd t TIM_FREQ_CTL_target = rd s TIM_FREQ_CTL_target + 1 ∧ flag t PWR_CAUSE_cause 4 = true ∧
        FieldsKept s t [TIM_FREQ_CTL_target, TIM_FREQ_CTL_busy, PWR_CAUSE_cause] ∧ t = { s with regs := t.regs, pwr := t.pwr } ∧
        (rd s TIM_FREQ_CTL_target + 1 ≠ rd s TIM_FREQ_CTL_current → rd t TIM_FREQ_CTL_busy = 1)
      else t = s)

/-- SPDM requests are answered in the order of their negotiation; sessions are authorised or fail; PLDM gives sensors. R390, R394, R398 to R401 and R413. The codes of the SPDM messages and the numbering of the PLDM sensors are presumed (log 55). -/
def Obligations.SessionsAreServed : Prop :=
    (∀ (s : State) (k : Nat), spdmUp s = true →
      Gives (.getVersion k) s (fun t => Answered s t k 4 [0x12, 0x13] ⟨1, false, false, [], none⟩) ∧
      (1 ≤ (spdmOf s k).phase → Gives (.getCapabilities k) s fun t =>
        Answered s t k 0x61 [] { spdmOf s k with phase := max (spdmOf s k).phase 2 }) ∧
      (2 ≤ (spdmOf s k).phase → Gives (.negotiateAlgorithms k) s fun t => Answered s t k 0x63 [] { spdmOf s k with phase := 3 }) ∧
      (3 ≤ (spdmOf s k).phase → Gives (.getDigests k) s fun t =>
        Answered s t k 1 (sha384 (Config.certChain 0) ++ sha384 (Config.certChain 1)) (spdmOf s k)) ∧
      ((spdmOf s k).phase = 0 → Gives (.getCapabilities k) s fun t => Answered s t k 0x7F [4] (spdmOf s k))) ∧
    (∀ (s : State) (k slot o n : Nat), spdmUp s = true → 3 ≤ (spdmOf s k).phase → slot < 2 → n ≤ 65000 →
      Gives (.getCertificate k slot o n) s fun t => ∃ p r, p = ((Config.certChain slot).drop o).take n ∧
        r = (Config.certChain slot).length - o - p.length ∧ Answered s t k 2 (toLE 2 p.length ++ toLE 2 r ++ p) (spdmOf s k)) ∧
    (∀ (s : State) (k slot : Nat) (nonce : Bytes), spdmUp s = true → 3 ≤ (spdmOf s k).phase → slot < 2 →
      Gives (.challenge k slot nonce) s fun t => ∃ b, b = sha384 (Config.certChain slot) ++ sliceB nonce 0 32 ∧
        Answered s t k 3 (b ++ sliceB (Config.rsaSign b s.freeCtr) 0 384) (spdmOf s k) ∧ t.freeCtr = s.freeCtr + 1) ∧
    (∀ (s : State) (k i : Nat) (sign : Bool) (nonce : Bytes), spdmUp s = true → 3 ≤ (spdmOf s k).phase →
      (on s SEC_STATUS_session_ready = false → Gives (.getMeasurements k i sign nonce) s fun t => Answered s t k 0x7F [3] (spdmOf s k)) ∧
      (on s SEC_STATUS_session_ready = true → i = 0 → Gives (.getMeasurements k i false nonce) s fun t =>
        Answered s t k 0x60 [11] (spdmOf s k)) ∧
      (on s SEC_STATUS_session_ready = true → i = 5 → Gives (.getMeasurements k i false nonce) s fun t =>
        Answered s t k 0x60 ([5, 1, 51, 0, 0, 48, 0] ++ sliceB s.sec.sessionId 0 48) (spdmOf s k)) ∧
      (on s SEC_STATUS_session_ready = true → i = 3 → Gives (.getMeasurements k i true nonce) s fun t =>
        ∃ b, b = [3, 1, 11, 0, 128, 8, 0] ++ toLE 4 (rd s SEC_STATUS_fw_svn) ++ toLE 4 (rd s SEC_STATUS_fuse_svn) ∧
          t.out = .response k 0x60 (b ++ sliceB (Config.rsaSign (b ++ sliceB nonce 0 32) s.freeCtr) 0 384) :: s.out ∧
          flag t SEC_CAUSE_cause 6 = true ∧ spdmOf t k = spdmOf s k) ∧
      (on s SEC_STATUS_session_ready = true → 10 < i → i < 255 → Gives (.getMeasurements k i sign nonce) s fun t =>
        Answered s t k 0x7F [1] (spdmOf s k)) ∧
      (∀ b c, on s SEC_STATUS_session_ready = true → s.jobs = [] → measureAll s 255 false nonce = some b →
        measureAll s 255 true nonce = some c → c = b ++ measureBlock 0x7F true (sliceB (Config.slhSign (sha384 (sliceB nonce 0 32 ++ b))) 0 35664) ∧
        Gives (.getMeasurements k 255 true nonce) s fun t =>
          t.out = .response k 0x60 (c ++ sliceB (Config.rsaSign (c ++ sliceB nonce 0 32) s.freeCtr) 0 384) :: s.out)) ∧
    (∀ (s : State) (k : Nat) (x : Bytes), spdmUp s = true → 3 ≤ (spdmOf s k).phase →
      Gives (.keyExchange k true x) s (fun t => (spdmOf t k).exchange = true ∧ (spdmOf t k).authorised = false ∧ t.freeCtr = s.freeCtr + 1 ∧
        t.out = (if (Config.keyExchange x s.freeCtr).length ≤ 65536 then .response k 0x64 (Config.keyExchange x s.freeCtr)
          else .response k 0x7F [0x0F]) :: s.out ∧ ∀ j, j ≠ k → spdmOf t j = spdmOf s j) ∧
      Gives (.keyExchange k false x) s (fun t => Answered s t k 0x7F [7] (spdmOf s k))) ∧
    (∀ (s : State) (k : Nat) (h : Bytes) (ok : Bool), spdmUp s = true → 3 ≤ (spdmOf s k).phase →
      ((spdmOf s k).exchange = false → Gives (.finish k h ok) s fun t => Answered s t k 0x7F [4] (spdmOf s k)) ∧
      ((spdmOf s k).exchange = true → (if ok = true ∧ sbKnown s (sliceB h 0 48) = true then
          Gives (.finish k h ok) s fun t => Answered s t k 0x65 [] { spdmOf s k with
            exchange := false
            authorised := true }
        else Gives (.finish k h ok) s fun t => Answered { s with regs := t.regs } t k 0x7F [6] { spdmOf s k with
            exchange := false
            authorised := false } ∧ Writes s { s with regs := t.regs } [(SEC_CAUSE_cause, withBit s SEC_CAUSE_cause 5)]))) ∧
    (∀ (s : State) (k : Nat) (c : Bytes) (last : Bool), spdmUp s = true → 2 ≤ (spdmOf s k).phase → Gives (.chunkSend k c last) s fun t =>
      Answered s t k 5 [] { spdmOf s k with chunks := if last = true then [] else (spdmOf s k).chunks ++ c }) ∧
    (∀ (s : State) (k i code : Nat) (b : Bytes), spdmUp s = true → 2 ≤ (spdmOf s k).phase → (spdmOf s k).large = some (code, b) →
      chunkBytes * i < b.length → Gives (.chunkGet k i) s fun t => Answered s t k 6 (toLE 2 i ++ (b.drop (chunkBytes * i)).take chunkBytes)
        { spdmOf s k with large := if b.length ≤ chunkBytes * (i + 1) then none else some (code, b) }) ∧
    (∀ (s : State) (k : Nat), spdmUp s = true → ((spdmOf s k).authorised = true →
        exec (.pldmRequest k 0) s = .next (emitOut s (.response k 0 (toLE 8 (rd s PWR_STATUS_est_w)))) ∧
        ∀ i, i < 44 → exec (.pldmRequest k (4 + i)) s = .next (emitOut s (.response k 0 (toLE 8 (rd s (PWR_TEMP_temp_c i)))))) ∧
      ((spdmOf s k).authorised = false → exec (.pldmRequest k 0) s = .next (emitOut s (.response k 0 (toLE 8 s.pwr.cEst))) ∧
        exec (.pldmRequest k 2) s = .next (emitOut s (.response k 0 (toLE 8 s.pwr.cMod))) ∧
        ∀ i, i < 44 → exec (.pldmRequest k (4 + i)) s = .next (emitOut s (.response k 0 (toLE 8 s.pwr.cTemp))))) ∧
    (∀ (s : State) (x : Bytes), s.boot.held = false → Gives (.sessionKeysReady x) s fun t =>
      if on s SEC_STATUS_session_ready = true then t = s
      else t.sec = { s.sec with sessionId := sliceB x 0 48 } ∧ Writes s { t with sec := s.sec } [(SEC_STATUS_session_ready, 1)])

/-- A commit checks and moves partitions; keys are cleared, installed and deleted where R411 lets them be written. R397, R404, R407 to R409, R411, R414 and R415. -/
def Obligations.PartitionsAndKeysAreSet : Prop :=
    (∀ (s : State) (r : Nat), fnPhys s 0 = true → on s SEC_PART_CTL_busy = false → commitReason s = some r →
      Gives (.partitionCommit 0) s fun t => 1 ≤ r ∧ r ≤ 5 ∧ Writes s t [(SEC_PART_CTL_rejected, 1), (SEC_PART_CTL_reason, r),
        (SEC_CAUSE_cause, withBit s SEC_CAUSE_cause 2)]) ∧
    (∀ s : State, fnPhys s 0 = true → on s SEC_PART_CTL_busy = false → commitReason s = none → Gives (.partitionCommit 0) s fun t =>
      t.parts = partsWanted s ∧ rd t SEC_PART_CTL_busy = 1 ∧ rd t SEC_PART_CTL_rejected = 0 ∧ rd t SEC_PART_CTL_reason = 0 ∧
      (∀ q, q < 8 → (bitOf (rd t SEC_PART_CTL_enabled) q = true ↔ on s (SEC_PART_CFG_en q) = true)) ∧
      (∀ u ∈ tilesMoved s (partsWanted s), tileOf t u = Tile.init) ∧ (∀ u, u ∉ tilesMoved s (partsWanted s) → tileOf t u = tileOf s u) ∧
      (∀ a, ownerOfAddr s s.parts a ≠ ownerOfAddr s (partsWanted s) a → Memory.read t.mem a = Memory.read [] a) ∧
      (∀ a, ownerOfAddr s s.parts a = ownerOfAddr s (partsWanted s) a → Memory.read t.mem a = Memory.read s.mem a) ∧
      (∀ c, c < 4096 → ownerOfCtr s.parts c = ownerOfCtr (partsWanted s) c → rd t (SYN_CTR_value c) = rd s (SYN_CTR_value c)) ∧
      (∀ q k, k < 8 → q ∈ partsChanged s → Store.get? t.sec.slots (8 * q + k) = none) ∧
      (∀ q k, q < 8 → k < 8 → q ∉ partsChanged s → Store.get? t.sec.slots (8 * q + k) = Store.get? s.sec.slots (8 * q + k)) ∧
      t.zeroing = partsChanged s ∧ t.jobs = s.jobs ∧ t.runs = s.runs ∧
      (t.time.rollDue = true ↔ s.time.rollDue = true ∨ tilesMoved s (partsWanted s) ≠ [])) ∧
    (∀ s : State, on s SEC_PART_CTL_busy = true → Gives .partDone s fun t => rd t SEC_PART_CTL_busy = 0 ∧ flag t SEC_CAUSE_cause 3 = true ∧
      t.zeroing = [] ∧ t.parts = s.parts ∧ t.mem = s.mem ∧ t.tiles = s.tiles ∧ t.jobs = s.jobs ∧ t.runs = s.runs) ∧
    (∀ s : State, on s SEC_PART_CTL_busy = false → exec .partDone s = .next s) ∧
    (∀ (s : State) (fn : Nat) (v : Word64), fnUp s fn = true → Gives (.keySlotClear fn v) s fun t =>
      (∀ k, k < 64 → Store.get? t.sec.slots k =
        if bitOf v.toNat k = true ∧ (fn = 0 ∨ k / 8 + 1 = fn) then none else Store.get? s.sec.slots k) ∧
      t.sec.msas = s.sec.msas ∧ t.sec.pairKey = s.sec.pairKey ∧ t = { s with
        regs := t.regs
        sec := t.sec }) ∧
    (∀ (s : State) (fn : Nat) (v : Word64), fnMsa s fn = true →
      Gives (.msaInstall fn v) s (fun t => (∃ m, Store.get? t.sec.msas (msaSel s) = some m ∧
          m.key = toLE 8 (rd s (SEC_MSA_KEY_key 0)) ++ toLE 8 (rd s (SEC_MSA_KEY_key 1)) ++ toLE 8 (rd s (SEC_MSA_KEY_key 2)) ++
            toLE 8 (rd s (SEC_MSA_KEY_key 3)) ∧ m.ssci = rd s SEC_MSA_SALT1_ssci ∧ m.sci = rd s SEC_MSA_SCI_sci ∧
          m.salt = rd s SEC_MSA_SALT0_salt + 2 ^ 64 * rd s SEC_MSA_SALT1_salt ∧ m.window ≤ 2 ^ 30 ∧ m.pn = rd s SEC_MSA_PN_pn) ∧
        (∀ k, k ≠ msaSel s → Store.get? t.sec.msas k = Store.get? s.sec.msas k) ∧ FieldsKept s t [SEC_MSA_CTL_replay_window] ∧
        { t with regs := s.regs, sec := { t.sec with msas := s.sec.msas, msaOrder := s.sec.msaOrder } } = s) ∧
      Gives (.msaDelete fn v) s (fun t => Store.get? t.sec.msas (msaSel s) = none ∧
        (∀ k, k ≠ msaSel s → Store.get? t.sec.msas k = Store.get? s.sec.msas k) ∧ FieldsKept s t [SEC_MSA_CTL_replay_window] ∧
        { t with regs := s.regs, sec := { t.sec with msas := s.sec.msas } } = s)) ∧
    (∀ (s : State) (q : Nat) (v : Word64), ownsPort s q (rd s SEC_MSA_SEL_port) = false →
      exec (.msaInstall (q + 1) v) s = .next s ∧ exec (.msaDelete (q + 1) v) s = .next s) ∧
    (∀ s : State, fnPhys s 0 = true → Gives (.pairKeySet 0) s fun t =>
      if on s (NET_PAIR_CFG_en 0) = false ∧ on s (NET_PAIR_CFG_en 1) = false then
        t.sec = { s.sec with pairKey := some (toLE 8 (rd s (SEC_PAIR_KEY_key 0)) ++ toLE 8 (rd s (SEC_PAIR_KEY_key 1)) ++
          toLE 8 (rd s (SEC_PAIR_KEY_key 2)) ++ toLE 8 (rd s (SEC_PAIR_KEY_key 3))) } ∧
        Writes s { t with sec := s.sec } [(SEC_PAIR_CTL_key_set, 1)]
      else Writes s t [(SEC_CAUSE_cause, withBit s SEC_CAUSE_cause 4)]) ∧
    (∀ (s : State) (v : BitVec 8), fnPhys s 0 = true → exec (.svnRaise 0 v) s = .next (
      if rd s SEC_STATUS_fuse_svn < v.toNat ∧ v.toNat ≤ 64 ∧ v.toNat ≤ rd s SEC_STATUS_fw_svn then
        { s with boot := { s.boot with svnNext := some v.toNat } } else s)) ∧
    (∀ (s : State) (q : Nat) (v : BitVec 8), exec (.svnRaise (q + 1) v) s = .next s ∧ exec (.pairKeySet (q + 1)) s = .next s ∧
      exec (.partitionCommit (q + 1)) s = .next s)

/-- An offset that holds no register reads zero and drops writes. R6. That an access is an aligned one is R5's; other accesses are BAR0_BAD_ACCESS. -/
def Obligations.OffsetsWithoutARegister : Prop :=
    (∀ (s : State) (fn off : Nat) (v : Word64), fnUp s fn = true → fn ≤ 8 → off % 8 = 0 → regAt s.part off = none →
      (∀ hits amt, exec (.readClear fn off hits amt) s = .next { s with out := .readData 0 :: s.out }) ∧ exec (.registerWrite fn off v) s = .next s) ∧
    (∀ (p : Part) (t o : Nat), p.tiles ≤ t → o < 0x10000 → regAt p (0x1000000 + 0x10000 * t + o) = none)

/-- An event in the clock of a read that clears is kept for the next read. R11. The events are operands of READ_CLEAR: which fields they meet, and by how much. -/
def Obligations.CoincidentEventsSurviveAReadThatClears : Prop :=
    ∀ (s : State) (off : Nat) (hits amt : Word64) (f : Fld), fnUp s 0 = true → off % 8 = 0 → f ∈ fieldsAt s.part off → f.acc = .rc →
    Gives (.readClear 0 off hits amt) s fun t => t.out = .readData (readReg s 0 off) :: s.out ∧
      ((∀ u, off ≠ TIM_XFILL u) → rd t f = if bitOf hits.toNat f.lo then amt.toNat / 2 ^ f.lo % 2 ^ f.w else 0) ∧
      (∀ u e, off = TIM_XFILL u → e = amt.toNat / 2 ^ f.lo % 2 ^ f.w → rd t f = (if bitOf hits.toNat f.lo = false then fillOf s f
        else if f.lo % 16 = 0 then min (fillOf s f) e else max (fillOf s f) e) % 2 ^ f.w) ∧
      (∀ g ∈ fieldsAt s.part off, g.acc ≠ .rc → rd t g = rd s g) ∧ t = { s with regs := t.regs, out := t.out }

/-- Rearm, masks and power state decide when a message is sent; failed reads, link changes and IDE faults are recorded. R420, R421, R429, R431, R432 and R442. That D3hot sets the PBA bit as a mask does, and which read a timeout meets, are choices of the model (log 36). -/
def Obligations.HostInterruptsAndLink : Prop :=
    (∀ (s : State) (v : Word64), fnPhys s 0 = true → Gives (.irqRearm 0 v) s fun t =>
      (bitOf v.toNat 1 = false → Writes s t [(CTL_IRQ_CTL_pin_en, bitsOf v.toNat 0 1), (CTL_IRQ_CTL_holdoff_us, bitsOf v.toNat 8 8)]) ∧
      (bitOf v.toNat 1 = true → (fnOf s 0).enabled = false →
        Writes s t [(CTL_IRQ_CTL_pin_en, bitsOf v.toNat 0 1), (CTL_IRQ_CTL_holdoff_us, bitsOf v.toNat 8 8), (CTL_IRQ_CTL_armed, 1)]) ∧
      (bitOf v.toNat 1 = true → (fnOf s 0).enabled = true → maskedSummary s 0 ≠ 0 → (fnOf s 0).fnMask = false → (fnOf s 0).vecMask = false →
        (∀ i, (fnOf s 0).lastMsg = some i → i + 1000 * bitsOf v.toNat 8 8 ≤ s.now) → t.out = .msix 0 0 :: s.out ∧
          fnOf t 0 = { fnOf s 0 with pba := false, lastMsg := some s.now } ∧ Writes s { t with out := s.out, fns := s.fns } [
            (CTL_IRQ_CTL_pin_en, bitsOf v.toNat 0 1), (CTL_IRQ_CTL_holdoff_us, bitsOf v.toNat 8 8), (CTL_IRQ_CTL_armed, 0),
            (CTL_IRQ_STATS_messages, upBy s CTL_IRQ_STATS_messages 1), (CTL_IRQ_STATS_rearm_sends, upBy s CTL_IRQ_STATS_rearm_sends 1)])) ∧
    (∀ (s : State) (fn : Nat), fnUp s fn = true → fn ≠ 0 → Gives (.vfRearm fn) s fun t => t.regs = s.regs ∧ t.mem = s.mem ∧ t.jobs = s.jobs ∧
      ((fnOf s fn).enabled = false → t.out = s.out ∧ fnOf t fn = { fnOf s fn with armed := true }) ∧
      ((fnOf s fn).enabled = true → maskedSummary s fn ≠ 0 → (fnOf s fn).fnMask = false → (fnOf s fn).vecMask = false →
        (fnOf s fn).lastMsg = none → t.out = .msix fn 0 :: s.out ∧
          fnOf t fn = { fnOf s fn with armed := false, pba := false, lastMsg := some s.now })) ∧
    (∀ (s : State) (fn : Nat), Gives (.msixSend fn) s fun t =>
      ((fnOf s fn).enabled = false → t = s) ∧
      ((fnOf s fn).enabled = true → maskedSummary s fn = 0 → fnOf t fn = { fnOf s fn with pba := false } ∧ t.out = s.out ∧ t.regs = s.regs) ∧
      ((fnOf s fn).enabled = true → maskedSummary s fn ≠ 0 → armed s fn = true → holdoffOver s fn = true →
        if (fnOf s fn).fnMask = true ∨ (fnOf s fn).vecMask = true ∨ (fnOf s fn).d3 = true then
          fnOf t fn = { fnOf s fn with pba := true } ∧ t.out = s.out ∧ t.regs = s.regs
        else t.out = .msix fn 0 :: s.out ∧ armed t fn = false ∧ (fnOf t fn).pba = false ∧ (fnOf t fn).lastMsg = some s.now)) ∧
    (∀ (s : State) (fn : Nat) (b : Bool),
      Gives (.msixConfigWrite fn (.enable b)) s (fun t => (fnOf t fn).enabled = b ∧ (b = false → (fnOf t fn).pba = false ∧ t.out = s.out) ∧
        (b = true → maskedSummary s fn ≠ 0 → armed s fn = true → (fnOf s fn).lastMsg = none → (fnOf s fn).fnMask = false →
          (fnOf s fn).vecMask = false → (fnOf s fn).d3 = false → t.out = .msix fn 0 :: s.out)) ∧
      Gives (.msixConfigWrite fn (.fnMask b)) s (fun t => (fnOf t fn).fnMask = b ∧ (fnOf t fn).vecMask = (fnOf s fn).vecMask) ∧
      Gives (.msixConfigWrite fn (.vecMask b)) s (fun t => (fnOf t fn).vecMask = b ∧ (fnOf t fn).fnMask = (fnOf s fn).fnMask)) ∧
    (∀ (s : State) (fn : Nat), Gives (.powerStateChange fn true) s (fun t => (fnOf t fn).d3 = true ∧ t.out = s.out ∧ t.regs = s.regs ∧
        t.mem = s.mem ∧ t.jobs = s.jobs ∧ t.tiles = s.tiles ∧ ((fnOf s fn).enabled = true → maskedSummary s fn ≠ 0 → armed s fn = true →
          holdoffOver s fn = true → (fnOf t fn).pba = true)) ∧
      Gives (.powerStateChange fn false) s (fun t => (fnOf t fn).d3 = false ∧ t.mem = s.mem ∧ t.jobs = s.jobs ∧ t.tiles = s.tiles ∧
        ((fnOf s fn).enabled = true → maskedSummary s fn ≠ 0 → armed s fn = true → holdoffOver s fn = true → (fnOf s fn).fnMask = false →
          (fnOf s fn).vecMask = false → t.out = .msix fn 0 :: s.out))) ∧
    (∀ (s : State) (sq o : Nat), booting s = true → rd s HST_BOOT_state = 2 → Gives (.hostReadTimeout sq o) s fun t =>
      rd t HST_BOOT_state = 1 ∧ FieldsKept s t [HST_BOOT_state] ∧ t = { s with regs := t.regs, out := t.out }) ∧
    (∀ (s : State) (sq o : Nat) (d : Desc), isReady s = true → s.sec.unseals = [] → Starts s sq d.type d → d.reads = true →
      waitingGraphs s d.job = [] →
      Gives (.hostReadTimeout sq o) s fun t => Completed (raise s HST_CAUSE_cause 5) t d stDescriptor o ∧
        flag t HST_CAUSE_cause 5 = true ∧ flag t HQ_CAUSE_cause 32 = true) ∧
    (∀ (s : State) (sq o : Nat), isReady s = true → s.sec.unseals = [] → nextDesc s sq = none → sq < 16 → on s (HQ_SQ_CFG_en sq) = true →
      outstanding s sq ≠ 0 → Gives (.hostReadTimeout sq o) s fun t => flag t HST_CAUSE_cause 5 = true ∧ flag t HQ_CAUSE_cause 32 = true ∧
        rd t (HQ_DEPTH_head sq) = (rd s (HQ_DEPTH_head sq) + 1) % sqLen s sq % 2 ^ 17 ∧ t.submNext = s.submNext + 1 ∧ t.mem = s.mem ∧
        t.jobs = s.jobs ∧ t.runs = s.runs) ∧
    (∀ (s : State) (g w : Nat) (fl rv : Bool), booting s = true → Gives (.linkChange g w fl rv) s fun t => Writes s t [
      (HST_LINK_gen, g % 2 ^ 3), (HST_LINK_width, w % 2 ^ 5), (HST_LINK_flit, b2n fl), (HST_LINK_reversed, b2n rv),
      (HST_LINK_retrains, upBy s HST_LINK_retrains 1), (HST_CAUSE_cause, withBit s HST_CAUSE_cause 6)]) ∧
    (∀ s : State, booting s = true → Gives .ideFault s fun t => Writes s t [
      (HST_LINK_ide_streams, (rd s HST_LINK_ide_streams - 1) % 2 ^ 2), (HST_CAUSE_cause, withBit s HST_CAUSE_cause 4)])

/-- PERST_N, hot reset, link down, FLR and HST_RESET_CTL.module hold the dies; they restart when the pulse is over. R421, R433 to R435, R438, R439, R452, R453 and R457. What a reset that arrives while one is held does, and what mem_kept says, are choices of the model (log 35). -/
def Obligations.ModuleResetsRestartEveryDie : Prop :=
    (∀ s : State, canReset s = true → s.boot.held = false → Gives .perstAssert s (fun t => ResetBegun s t 2 ∧ t.boot.perst = true) ∧
      Gives .hotReset s (fun t => ResetBegun s t 3) ∧ Gives .pcieLinkDown s (fun t => ResetBegun s t 4) ∧
      Gives .pfFlr s (fun t => ResetBegun s t 5 ∧ rd t HST_LINK_gen = rd s HST_LINK_gen % 2 ^ 3) ∧
      (fnPhys s 0 = true → Gives (.moduleReset 0) s fun t => ResetBegun s t 6 ∧ rd t HST_LINK_gen = rd s HST_LINK_gen % 2 ^ 3)) ∧
    (∀ s : State, s.boot.held = true ∨ canReset s = false → exec .hotReset s = .next s ∧ exec .pcieLinkDown s = .next s ∧ exec .pfFlr s = .next s ∧
      Gives .perstAssert s fun t => t.boot.perst = true ∧ t.boot.deferred = false ∧ t = { s with boot := t.boot }) ∧
    (∀ (s : State) (q : Nat), exec (.moduleReset (q + 1)) s = .next s) ∧
    (∀ s : State, canReset s = true → s.boot.held = true → Gives .perstRelease s fun t =>
      (s.now < s.boot.goodAt + 100000000 → t = { s with boot := { s.boot with perst := false, deferred := true } }) ∧
      (s.boot.goodAt + 100000000 ≤ s.now → s.boot.pulseFrom + 100000 ≤ s.now → Restarted s t ∧ t.boot.perst = false) ∧
      (s.boot.goodAt + 100000000 ≤ s.now → s.now < s.boot.pulseFrom + 100000 → t = { s with boot := { s.boot with perst := false } })) ∧
    (∀ s : State, canReset s = true → s.boot.held = true → s.boot.deferred = false → s.boot.goodAt + 100000000 ≤ s.now →
      Gives .resetPulseEnd s fun t => (s.boot.perst = true ∨ s.now < s.boot.pulseFrom + 100000 → t = s) ∧
        (s.boot.perst = false → s.boot.pulseFrom + 100000 ≤ s.now → Restarted s t)) ∧
    (∀ s : State, canReset s = true → s.boot.held = true → s.boot.deferred = true → Gives .deferredPerstRelease s fun t =>
      (s.now < s.boot.goodAt + 100000000 → t = s) ∧ (s.boot.goodAt + 100000000 ≤ s.now → Restarted s t))

/-- A partition reset unloads the partition and resets its tiles, counters and queues; a job reset stops the runs of its job. R421, R433, R434 and R436 to R438. -/
def Obligations.PartitionsAndJobsAreReset : Prop :=
    (∀ (s : State) (q : Nat) (r : PartRes), fnUp s 0 = true → q < 8 → Store.get? s.parts q = some r → r.synBase + r.synCount ≤ 4096 →
      Gives (.partitionReset 0 q) s fun t =>
        (∀ j x, Store.get? s.jobs j = some x → x.part = q → Store.get? t.jobs j = none) ∧
        (∀ u, u < s.part.tiles → bitOf r.tiles u = true → tileOf t u = { Tile.init with
          refreshed := (tileOf s u).refreshed
          stretch := (tileOf s u).stretch } ∧ rd t (TIL_TICK_tick u) = 0 ∧ rd t (TIL_CAUSE_cause u) = 0) ∧
        (∀ c, r.synBase ≤ c → c < r.synBase + r.synCount → rd t (SYN_CTR_value c) = 0) ∧
        (∀ k, k < 16 → rd s (HQ_SQ_CFG_partition k) = q → rd t (HQ_SQ_CFG_en k) = 0) ∧
        (∀ d ∈ t.descs, d.sq < 16 → rd s (HQ_SQ_CFG_partition d.sq) ≠ q) ∧
        rd t HST_RESET_STATUS_partition_resets = upBy s HST_RESET_STATUS_partition_resets 1 ∧
        ((∀ p ∈ s.jobs, p.2.part ≠ q) → s.sec.unseals = [] → t.mem = s.mem ∧ t.jobs = s.jobs ∧ t.runs = s.runs ∧
          ∀ u, bitOf r.tiles u = false → tileOf t u = tileOf s u)) ∧
    (∀ (s : State) (q p : Nat), fnUp s 0 = true → fnUp s (q + 1) = true → q < 8 →
      exec (.partitionReset (q + 1) p) s = exec (.partitionReset 0 q) s) ∧
    (∀ (s : State) (q : Nat), canReset s = true → s.boot.held = false → q < 8 → Gives (.vfFlr q) s fun t =>
      flag t HST_CAUSE_cause 7 = true ∧ fnOf t (q + 1) = { HostFn.init with d3 := (fnOf s (q + 1)).d3 } ∧
      (∀ j x, Store.get? s.jobs j = some x → x.part = q → Store.get? t.jobs j = none) ∧
      (∀ k, k < 16 → rd s (HQ_SQ_CFG_partition k) = q → rd t (HQ_SQ_CFG_en k) = 0)) ∧
    (∀ (s : State) (j r : Nat) (x : Run), fnUp s 0 = true → (Store.get? s.jobs j).isSome = true → (∀ p ∈ s.periods, p.2.job ≠ j) →
      (∀ p ∈ s.runs, p.2.job = j → p.1 = r ∧ p.2 = x) → Store.get? s.runs r = some x → x.job = j → Gives (.jobReset 0 j) s fun t =>
        (x.phase = .running ∨ x.phase = .stopping → ∃ y, Store.get? t.runs r = some y ∧ y.phase = .aborting ∧ y.stop = some .reset) ∧
        (x.phase = .aborting → Store.get? t.runs r = some { x with stop := some .reset }) ∧
        (x.phase = .retakeWait ∨ (x.phase = .pending ∧ x.kind = .graph) →
          ∃ y, Store.get? t.runs r = some y ∧ y.phase = .ended ∧ y.outcome = 5) ∧
        (x.phase = .pending ∨ x.phase = .aborting → t.mem = s.mem ∧ t.jobs = s.jobs ∧ t.tiles = s.tiles)) ∧
    (∀ (s : State) (j q : Nat), fnUp s (q + 1) = true → (∀ x, Store.get? s.jobs j = some x → x.part ≠ q) →
      Gives (.jobReset (q + 1) j) s fun t => Writes s t [(HST_CAUSE_cause, withBit s HST_CAUSE_cause 0)]) ∧
    (∀ (s : State) (j : Nat), fnUp s 0 = true → Store.get? s.jobs j = none → Gives (.jobReset 0 j) s fun t =>
      Writes s t [(HST_CAUSE_cause, withBit s HST_CAUSE_cause 0)])

/-- Power comes up and goes down with PWR_EN and Vin; memory, die test, firmware and keys make the module READY. R16, R396, R397, R433, R434, R439 to R443, R456 and R461. What the sideband timeouts leave, and when a fuse is burned, are the readings of the model (log 35). -/
def Obligations.PowerUpBootsToReady : Prop :=
    (∀ s : State, s.boot.pwrEn = false → s.boot.vinOk = true → s.boot.rails = 0 →
      ((∀ i, s.boot.enOff = some i → i + 100000000 ≤ s.now) → exec .powerUp s = .next { s with boot := { s.boot with
          pwrEn := true
          enHeld := false
          rails := 1 } } ∧
        (s.boot.enHeld = true → exec .pwrEnHoldEnd s = exec .powerUp s)) ∧
      (∀ i, s.boot.enOff = some i → s.now < i + 100000000 → exec .powerUp s = .next { s with boot := { s.boot with enHeld := true } } ∧
        exec .pwrEnHoldEnd s = .next s)) ∧
    (∀ (s : State) (d : Bool) (b : BitVec 4), s.boot.rails = 1 → Gives (.railsGood d b) s fun t =>
      rd t SEC_STATUS_fuse_svn = max (rd s SEC_STATUS_fuse_svn) (s.boot.svnNext.getD 0) % 2 ^ 8 ∧ rd t DBL_STATUS_id = b2n d ∧
      rd t HST_RESET_STATUS_board_id = b.toNat ∧ t.boot.rails = 2 ∧ t.boot.goodAt = s.now ∧ t.boot.held = true ∧
      t.boot.deferred = !s.boot.perst ∧ t.boot.svnNext = none ∧ t.mem = [] ∧ t.jobs = [] ∧ .pin "PWR_GOOD" true ∈ t.out) ∧
    (∀ s : State, s.boot.rails ≠ 0 →
      (s.boot.pwrEn = true → Gives .powerDown s fun t => t.boot.pwrEn = false ∧ t.boot.enOff = some s.now ∧ t.boot.rails = 0 ∧ t.mem = [] ∧
        t.jobs = [] ∧ t.tiles = [] ∧ t.sec = SecSt.init ∧ rd t SEC_STATUS_fuse_svn = rd s SEC_STATUS_fuse_svn % 2 ^ 8 ∧
        .pin "PWR_GOOD" false ∈ t.out) ∧
      Gives .vinLeaveWindow s (fun t => t.boot.vinOk = false ∧ t.boot.rails = 0 ∧ t.mem = [] ∧ t.jobs = [] ∧ t.tiles = [] ∧
        t.boot.pwrEn = s.boot.pwrEn ∧ .pin "PWR_GOOD" false ∈ t.out)) ∧
    (∀ s : State, exec .vinReturn s = .next { s with boot := { s.boot with
        vinOk := true
        rails := if s.boot.pwrEn = true ∧ s.boot.rails = 0 then 1 else s.boot.rails } }) ∧
    (∀ (s : State) (r : DieTest), booting s = true → on s HST_DIE_STATUS_test_done = false → Gives (.dieTestDone r) s fun t =>
      rd t HST_DIE_STATUS_test_done = 1 ∧ rd t HST_DIE_STATUS_compute_ok = r.computeOk.toNat % 2 ^ s.part.dies ∧ rd t HST_DIE_STATUS_hub_ok = r.hubOk.toNat ∧
      rd t HST_DIE_STATUS_net_ok = r.netOk.toNat ∧ rd t HST_DIE_STATUS_lpd_stack_ok = r.lpdOk.toNat % 2 ^ s.part.stacksFitted ∧ rd t LPD_STATUS_rate = r.rate.toNat ∧
      (r.hubOk.toNat ≠ 15 ∨ r.netOk.toNat ≠ 3 ∨ r.controlOk = false → rd t HST_BOOT_state = 7) ∧ t.mem = s.mem ∧ t.jobs = s.jobs) ∧
    (∀ (s : State) (ms : Nat), booting s = true → on s HST_BOOT_prep_done = false → Gives (.memoryPrepDone ms) s fun t =>
      (∀ a, if s.boot.cold = true ∨ (∃ p ∈ s.boot.tags, p.1 ≤ a ∧ a < p.1 + p.2) then Memory.read t.mem a = Memory.read [] a
        else Memory.read t.mem a = Memory.read s.mem a) ∧ t.boot = { s.boot with cold := false, tags := [] } ∧
      Writes s { t with boot := s.boot, mem := s.mem } [(HST_BOOT_prep_done, 1), (HST_BOOT_prep_ms, min ms 0xFFFF)]) ∧
    (∀ s : State, booting s = true → rd s HST_BOOT_state = 1 ∨ rd s HST_BOOT_state = 6 →
      (fnPhys s 0 = true → s.boot.bme = true → Gives (.fwLoad 0) s fun t => rd t HST_BOOT_state = 2 ∧ rd t SEC_STATUS_boot = 0 ∧
        rd t HST_BOOT_loads = upBy s HST_BOOT_loads 1 ∧ .hostRead 0 (4096 * rd s HST_FW_ADDR_addr) (rd s HST_FW_LEN_len) ∈ t.out) ∧
      (fnPhys s 0 = true → s.boot.bme = false → exec (.fwLoad 0) s = .next { s with boot := { s.boot with fwWait := true } }) ∧
      (s.boot.fwWait = true → Gives .busMasterEnable s fun t => rd t HST_BOOT_state = 2 ∧ t.boot.bme = true ∧ t.boot.fwWait = false ∧
        .hostRead 0 (4096 * rd s HST_FW_ADDR_addr) (rd s HST_FW_LEN_len) ∈ t.out) ∧
      (s.boot.fwWait = false → exec .busMasterEnable s = .next { s with boot := { s.boot with bme := true } })) ∧
    (∀ (s : State) (b img : Bytes), booting s = true → rd s HST_BOOT_state = 2 → b = sliceB img 0 (rd s HST_FW_LEN_len) →
      Gives (.fwVerified img) s fun t => rd t SEC_STATUS_boot = fwCheck s b ∧ rd t HST_BOOT_state = (if fwCheck s b = 1 then 4 else 6) ∧
        (fwCheck s b = 1 → rd t SEC_STATUS_fw_svn = fieldLE b 8 4 ∧ t.boot.fwDigest = sha384 (sliceB b 0 0x200 ++ b.drop 0x4300)) ∧
        (fieldLE b 0 4 ≠ 0x4957464F → rd t SEC_STATUS_boot = 2) ∧
        (Config.fwKeyHash (fieldLE b 6 1) = none → rd t SEC_STATUS_boot = 2 ∨ rd t SEC_STATUS_boot = 3) ∧ t.mem = s.mem) ∧
    (∀ s : State, booting s = true → rd s HST_BOOT_state = 4 → Gives .bootReady s fun t =>
      if rd s SEC_STATUS_boot = 1 ∧ on s HST_DIE_STATUS_test_done = true ∧ on s HST_BOOT_prep_done = true ∧ on s SEC_STATUS_session_ready = true
      then rd t HST_BOOT_state = (if on s REL_STATUS_failed = true then 7 else 5) ∧ FieldsKept s t [HST_BOOT_state] ∧
        t = { s with regs := t.regs, out := t.out, readyAt := t.readyAt } ∧
        (on s REL_STATUS_failed = false → .pin "READY" true ∈ t.out ∧ t.readyAt = some s.now)
      else t = s) ∧
    (∀ s : State, booting s = true → exec .i3cEntry s = .next { s with boot := { s.boot with i3c := true } }) ∧
    (∀ s : State, exec .smbusTimeout s = .next s ∧ exec .mctpTimeout s = .next s)

/-- A bundle word names its six operations; they issue together, are held together, or none issues. R55 to R58, R60, R63, R74, R76 to R79 and R239. The issue of a bundle by its commands is the model's choice (log 6). -/
def Obligations.BundlesIssueAsAWhole : Prop :=
    (∀ (t a b c d e f : Nat), a < 2 ^ 32 → b < 2 ^ 48 → c < 2 ^ 48 → d < 2 ^ 64 → e < 2 ^ 40 → f < 2 ^ 24 →
      bundleOps t (a + 2 ^ 32 * b + 2 ^ 80 * c + 2 ^ 128 * d + 2 ^ 192 * e + 2 ^ 232 * f) =
        [seqOp t a, meOp t b, veOp t c, aidOp t d, xferOp t e, chnOp t f]) ∧
    (∀ (t : Nat) (c : BitVec 3) (l : BitVec 20) (e : BitVec 14) (k d : BitVec 2) (b : Bool) (h : BitVec 16) (m : BitVec 4) (w : BitVec 26)
      (n : BitVec 6) (g : BitVec 10) (r : BitVec 12) (f : BitVec 5) (x : BitVec 8),
      (seqOp t (0x01 + 2 ^ 6 * c.toNat + 2 ^ 9 * l.toNat)).cmd = .setlim t c l ∧
      (seqOp t (0x02 + 2 ^ 6 * c.toNat + 2 ^ 9 * e.toNat)).cmd = .loop t c e ∧
      (seqOp t (0x03 + 2 ^ 6 * e.toNat)).cmd = .jump t e ∧
      (seqOp t (0x04 + 2 ^ 6 * k.toNat + 2 ^ 8 * b2n b + 2 ^ 9 * e.toNat)).cmd = .brc t k b e ∧
      (seqOp t (0x05 + 2 ^ 6 * k.toNat + 2 ^ 8 * c.toNat + 2 ^ 11 * d.toNat + 2 ^ 13 * h.toNat)).cmd = .setcmp t k c d h ∧
      (seqOp t (0x06 + 2 ^ 6 * m.toNat)).cmd = .waitbell t m ∧ (seqOp t (0x07 + 2 ^ 6 * w.toNat)).cmd = .waittick t w ∧
      (seqOp t (0x08 + 2 ^ 6 * m.toNat + 2 ^ 10 * n.toNat + 2 ^ 16 * g.toNat)).cmd = .hint t m n g ∧
      (seqOp t (0x09 + 2 ^ 6 * r.toNat)).cmd = .refr t r ∧ (seqOp t (0x0A + 2 ^ 7 * f.toNat + 2 ^ 12 * b2n b)).cmd = .fence t f b ∧
      (seqOp t (0x0B + 2 ^ 6 * h.toNat)).cmd = .digest t h ∧ (seqOp t (0x0C + 2 ^ 6 * x.toNat)).cmd = .trap t x ∧
      (seqOp t (0x0D + 2 ^ 6 * x.toNat)).cmd = .halt t x) ∧
    (∀ (o : MeOp) (v : Nat), v = 2 ^ 5 * o.fmt.toNat + 2 ^ 9 * b2n o.wbuf + 2 ^ 10 * o.adesc.toNat + 2 ^ 16 * o.aoff.toNat + 2 ^ 26 * o.acc.toNat +
        2 ^ 34 * o.acnt.toNat + 2 ^ 38 * o.accmode.toNat + 2 ^ 40 * b2n o.sparse + 2 ^ 41 * b2n o.amask + 2 ^ 42 * b2n o.exam +
        2 ^ 43 * b2n o.aus + 2 ^ 44 * b2n o.wus + 2 ^ 45 * o.pshift.toNat →
      (meOp o.t (0x01 + v)).cmd = .mma o ∧ (meOp o.t (0x02 + v)).cmd = .wload o ∧ (meOp o.t (0x03 + v)).cmd = .emit o ∧
      (meOp o.t (0x04 + v)).cmd = .azero o ∧ (meOp o.t (0x05 + v)).cmd = .anchor o) ∧
    (∀ (t : Nat) (x : BitVec 8) (k : BitVec 2) (a b : BitVec 6) (m n : BitVec 10) (c : BitVec 4),
      (veOp t (0x01 + 2 ^ 6 * x.toNat + 2 ^ 14 * k.toNat + 2 ^ 16 * a.toNat + 2 ^ 22 * m.toNat + 2 ^ 32 * b.toNat + 2 ^ 38 * n.toNat)).cmd =
        .vchain t x k a m b n ∧ (veOp t 0x02).cmd = .vpop t ∧
      (veOp t (0x03 + 2 ^ 6 * c.toNat + 2 ^ 10 * a.toNat + 2 ^ 16 * m.toNat)).cmd = .vldk t c a m) ∧
    (∀ (a : AidOp), ∀ p ∈ aidOps, (aidOp a.t (p.1 + 2 ^ 7 * a.rd.toNat + 2 ^ 12 * a.rs1.toNat + 2 ^ 17 * a.rs2.toNat + 2 ^ 22 * a.pred.toNat +
      2 ^ 25 * b2n a.pneg + 2 ^ 32 * a.imm.toNat)).cmd = p.2.1 a) ∧
    (∀ (t : Nat) (b : Bool) (n : BitVec 10) (h : BitVec 16) (a d : BitVec 6) (x y : BitVec 8) (c : BitVec 3) (r : BitVec 12) (z : BitVec 7),
      (xferOp t (0x01 + 2 ^ 5 * b2n b + 2 ^ 6 * n.toNat + 2 ^ 16 * h.toNat)).cmd = .lpass t b n h ∧
      (xferOp t (0x02 + 2 ^ 5 * a.toNat + 2 ^ 11 * x.toNat + 2 ^ 19 * d.toNat + 2 ^ 25 * y.toNat + 2 ^ 33 * c.toNat)).cmd = .spass t a x d y c ∧
      (xferOp t (0x03 + 2 ^ 5 * a.toNat + 2 ^ 11 * r.toNat + 2 ^ 23 * x.toNat + 2 ^ 31 * y.toNat)).cmd = .fill t a r x y ∧
      (xferOp t (0x04 + 2 ^ 5 * a.toNat + 2 ^ 11 * x.toNat + 2 ^ 19 * d.toNat + 2 ^ 25 * y.toNat + 2 ^ 33 * z.toNat)).cmd = .copy t a x d y z ∧
      (xferOp t (0x05 + 2 ^ 5 * a.toNat + 2 ^ 11 * r.toNat + 2 ^ 23 * d.toNat + 2 ^ 29 * x.toNat + 2 ^ 37 * c.toNat)).cmd = .dload t a r d x c ∧
      (xferOp t (0x06 + 2 ^ 5 * a.toNat + 2 ^ 11 * r.toNat + 2 ^ 23 * d.toNat + 2 ^ 29 * x.toNat + 2 ^ 37 * c.toNat)).cmd = .dstore t a r d x c) ∧
    (∀ (t : Nat) (h : BitVec 16) (c : BitVec 3) (b : Bool) (q : BitVec 4) (a : BitVec 6) (o : BitVec 9),
      (chnOp t (0x01 + 2 ^ 5 * h.toNat + 2 ^ 21 * c.toNat)).cmd = .sinc t h c ∧ (chnOp t (0x02 + 2 ^ 5 * h.toNat + 2 ^ 21 * b2n b)).cmd = .swait t h b ∧
      (chnOp t (0x03 + 2 ^ 5 * q.toNat + 2 ^ 9 * a.toNat + 2 ^ 15 * o.toNat)).cmd = .csend t q a o ∧
      (chnOp t (0x04 + 2 ^ 5 * q.toNat + 2 ^ 9 * a.toNat + 2 ^ 15 * o.toNat)).cmd = .crecv t q a o ∧
      (chnOp t (0x05 + 2 ^ 5 * q.toNat)).cmd = .qopen t q ∧ (chnOp t (0x06 + 2 ^ 5 * q.toNat)).cmd = .qclose t q) ∧
    (∀ (t v : Nat), (v % 64 = 0 ∨ 0x0D < v % 64 → (seqOp t v).cmd = .nop t 0) ∧ (v % 32 = 0 ∨ 0x05 < v % 32 → (meOp t v).cmd = .nop t 1) ∧
      (v % 64 = 0 ∨ 0x03 < v % 64 → (veOp t v).cmd = .nop t 2) ∧ ((∀ p ∈ aidOps, p.1 ≠ v % 128) → (aidOp t v).cmd = .nop t 3) ∧
      (v % 32 = 0 ∨ 0x06 < v % 32 → (xferOp t v).cmd = .nop t 4) ∧ (v % 32 = 0 ∨ 0x06 < v % 32 → (chnOp t v).cmd = .nop t 5)) ∧
    (∀ (s : State) (t v : Nat) (p : SlotOp), TileReady s t → p ∈ bundleOps t v → exec p.cmd s = p.run s) ∧
    (∀ (s : State) (t v k : Nat) (p : SlotOp), issuing s t = true → bubbled s t = false → pcOut s t = false → isCleared s t = false →
      reservedSlot (bundleWord s t) = some k → p ∈ bundleOps t v → exec p.cmd s = .next (progErr s t errReserved k)) ∧
    (∀ (s : State) (t : Nat) (p : SlotOp), issuing s t = true → bubbled s t = false → pcOut s t = false → isCleared s t = false →
      reservedSlot (bundleWord s t) = none → 2 ^ 32 ≤ bundleWord s t → p ∈ bundleOps t (bundleWord s t) →
      (∀ k n b, holdOf ((bundleOps t (bundleWord s t)).map (verdict s t)) = some (k, n, b) → exec p.cmd s = .next (holdTick s t k n b)) ∧
      (∀ q, holdOf ((bundleOps t (bundleWord s t)).map (verdict s t)) = none →
        (bundleOps t (bundleWord s t)).find? (fun o => (verdict s t o).isError) = some q → exec p.cmd s = q.run s) ∧
      (holdOf ((bundleOps t (bundleWord s t)).map (verdict s t)) = none →
        (bundleOps t (bundleWord s t)).find? (fun o => (verdict s t o).isError) = none →
        exec p.cmd s = p.run { s with cleared := Store.set s.cleared t (pcOf s t, tickOf s t) }))
end

