-- ==== Sys2Proof/Laws/Memory.lean ====
section
/-! SUPPORT. Memory: a read after a write, and the canonical form that every operation on memory keeps (R20). -/

namespace Sys2Proof.Machine

theorem Memory.read_put (m : List Host.Cell) (a b : Nat) (x : Byte) :
    Memory.read (Memory.put m a x) b = if b = a then x else Memory.read m b := by
  induction m with
  | nil => simp [Memory.put, Memory.read]
  | cons p r ih =>
    obtain ⟨k, v⟩ := p
    simp only [Memory.put]
    split
    · simp [Memory.read]
    · split
      · rename_i h1 h2
        subst h2
        by_cases hb : b = a <;> simp [Memory.read, hb]
      · rename_i h1 h2
        simp only [Memory.read, ih]
        by_cases hb : b = a
        · simp [hb, h2]
        · simp [hb]

theorem Memory.read_drop (m : List Host.Cell) (a b : Nat) :
    Memory.read (Memory.drop m a) b = if b = a then Memory.dflt else Memory.read m b := by
  induction m with
  | nil => simp [Memory.drop, Memory.read]
  | cons p r ih =>
    obtain ⟨k, v⟩ := p
    simp only [Memory.drop, List.filter_cons] at *
    by_cases hk : k = a
    · subst hk
      by_cases hb : b = k
      · subst hb
        simpa using ih
      · simp [Memory.read, hb, ih]
    · by_cases hb : b = k
      · subst hb
        simp [Memory.read, hk]
      · simp [Memory.read, hk, hb, ih]

/-- A read after a write of one byte. -/
theorem Memory.read_write (m : List Host.Cell) (a b : Nat) (x : Byte) :
    Memory.read (Memory.write m a x) b = if b = a then x else Memory.read m b := by
  unfold Memory.write
  by_cases hx : x = Memory.dflt
  · simp [hx, Memory.read_drop]
  · simp [hx, Memory.read_put]

theorem Memory.wfFrom_mono {m : List Host.Cell} {lo hi : Nat} (h : lo ≤ hi) (w : Memory.wfFrom hi m = true) :
    Memory.wfFrom lo m = true := by
  cases m with
  | nil => rfl
  | cons p r =>
    obtain ⟨k, v⟩ := p
    simp only [Memory.wfFrom, Bool.and_eq_true, decide_eq_true_eq] at *
    exact ⟨⟨by omega, w.1.2⟩, w.2⟩

theorem Memory.wfFrom_filter (f : Host.Cell → Bool) {m : List Host.Cell} {lo : Nat} (w : Memory.wfFrom lo m = true) :
    Memory.wfFrom lo (m.filter f) = true := by
  induction m generalizing lo with
  | nil => rfl
  | cons p r ih =>
    obtain ⟨k, v⟩ := p
    simp only [Memory.wfFrom, Bool.and_eq_true, decide_eq_true_eq] at w
    simp only [List.filter_cons]
    split
    · simp only [Memory.wfFrom, Bool.and_eq_true, decide_eq_true_eq]
      exact ⟨w.1, ih w.2⟩
    · exact ih (Memory.wfFrom_mono (by omega) w.2)

theorem Memory.wfFrom_put {m : List Host.Cell} {lo a : Nat} {x : Byte} (hx : x ≠ Memory.dflt) (ha : lo ≤ a)
    (w : Memory.wfFrom lo m = true) : Memory.wfFrom lo (Memory.put m a x) = true := by
  induction m generalizing lo with
  | nil => simp [Memory.put, Memory.wfFrom, ha, hx]
  | cons p r ih =>
    obtain ⟨k, v⟩ := p
    simp only [Memory.wfFrom, Bool.and_eq_true, decide_eq_true_eq] at w
    simp only [Memory.put]
    split
    · simp only [Memory.wfFrom, Bool.and_eq_true, decide_eq_true_eq, bne_iff_ne]
      exact ⟨⟨ha, hx⟩, ⟨by omega, by simpa using w.1.2⟩, w.2⟩
    · split
      · rename_i h1 h2
        subst h2
        simp only [Memory.wfFrom, Bool.and_eq_true, decide_eq_true_eq, bne_iff_ne]
        exact ⟨⟨ha, hx⟩, w.2⟩
      · simp only [Memory.wfFrom, Bool.and_eq_true, decide_eq_true_eq]
        exact ⟨w.1, ih (by omega) w.2⟩

/-- Writing a byte keeps the canonical form. -/
theorem Memory.wf_write {m : List Host.Cell} (a : Nat) (x : Byte) (w : Memory.wf m = true) :
    Memory.wf (Memory.write m a x) = true := by
  unfold Memory.write
  split
  · exact Memory.wfFrom_filter _ w
  · exact Memory.wfFrom_put ‹_› (Nat.zero_le _) w

/-- Clearing a span keeps the canonical form. -/
theorem Memory.wf_zeroSpan {s : State} (a n : Nat) (w : Memory.wf s.mem = true) : Memory.wf (zeroSpan s a n).mem = true :=
  Memory.wfFrom_filter _ w

theorem Memory.wf_writeByte {s : State} (a : Nat) (x : Byte) (w : Memory.wf s.mem = true) :
    Memory.wf (writeByte s a x).mem = true := Memory.wf_write a x w

theorem Memory.wf_writeBytes {s : State} (bs : Bytes) (a : Nat) (w : Memory.wf s.mem = true) :
    Memory.wf (writeBytes s a bs).mem = true := by
  induction bs generalizing s a with
  | nil => exact w
  | cons b r ih => exact ih _ (Memory.wf_writeByte a b w)

theorem Memory.wf_writeMasked {s : State} (bs : List (Option Byte)) (a : Nat) (w : Memory.wf s.mem = true) :
    Memory.wf (writeMasked s a bs).mem = true := by
  induction bs generalizing s a with
  | nil => exact w
  | cons b r ih =>
    cases b with
    | none => exact ih _ w
    | some b => exact ih _ (Memory.wf_writeByte a b w)

theorem Memory.wf_writeBits {s : State} (bs : List (Byte × Byte)) (a : Nat) (w : Memory.wf s.mem = true) :
    Memory.wf (writeBits s a bs).mem = true := by
  induction bs generalizing s a with
  | nil => exact w
  | cons p r ih =>
    obtain ⟨b, m⟩ := p
    simp only [writeBits]
    apply ih
    split
    · exact w
    · exact Memory.wf_writeByte _ _ w

theorem readByte_writeByte (s : State) (a b : Nat) (x : Byte) :
    readByte (writeByte s a x) b = if b = a then x else readByte s b := Memory.read_write s.mem a b x

/-- A byte after a string is written: the string's where it was written, the old one elsewhere. -/
theorem readByte_writeBytes (s : State) (bs : Bytes) (a b : Nat) :
    readByte (writeBytes s a bs) b = if a ≤ b ∧ b < a + bs.length then bs.getD (b - a) 0 else readByte s b := by
  induction bs generalizing s a with
  | nil =>
    simp only [writeBytes, List.length_nil, Nat.add_zero]
    rw [if_neg (by omega)]
  | cons x r ih =>
    simp only [writeBytes, ih, readByte_writeByte, List.length_cons]
    by_cases h : b = a
    · subst h
      rw [if_neg (by omega), if_pos (by omega)]
      simp
    · by_cases h2 : a + 1 ≤ b ∧ b < a + 1 + r.length
      · have e : b - a = (b - (a + 1)) + 1 := by omega
        rw [if_pos h2, if_pos (by omega), e]
        simp
      · rw [if_neg h2, if_neg h, if_neg (by omega)]

/-- Bytes read back where they were written. -/
theorem readBytes_length (s : State) (a n : Nat) : (readBytes s a n).length = n := by
  induction n generalizing a with
  | zero => rfl
  | succ n ih => simp [readBytes, ih]

end Sys2Proof.Machine
end

