-- ==== Sys2Proof/Laws/Store.lean ====
section
/-! SUPPORT. Reading a finite map after an update of it. -/

namespace Sys2Proof.Machine

variable {α : Type}

@[simp] theorem Store.get?_nil (a : Nat) : Store.get? ([] : Store α) a = none := rfl

@[simp] theorem Store.get?_set_self (m : Store α) (a : Nat) (x : α) : Store.get? (Store.set m a x) a = some x := by
  induction m with
  | nil => simp [Store.set, Store.get?]
  | cons p r ih =>
    obtain ⟨k, v⟩ := p
    simp only [Store.set]
    split
    · simp [Store.get?]
    · split
      · simp [Store.get?]
      · simp [Store.get?, *]

theorem Store.get?_set_ne (m : Store α) {a b : Nat} (x : α) (h : b ≠ a) :
    Store.get? (Store.set m a x) b = Store.get? m b := by
  induction m with
  | nil => simp [Store.set, Store.get?, h]
  | cons p r ih =>
    obtain ⟨k, v⟩ := p
    simp only [Store.set]
    split
    · simp [Store.get?, h]
    · split
      · rename_i h1 h2
        subst h2
        simp [Store.get?, h]
      · simp only [Store.get?]
        split
        · rfl
        · exact ih

theorem Store.get?_set (m : Store α) (a b : Nat) (x : α) :
    Store.get? (Store.set m a x) b = if b = a then some x else Store.get? m b := by
  split
  · subst_vars; simp
  · exact Store.get?_set_ne m x ‹_›

@[simp] theorem Store.get?_erase_self (m : Store α) (a : Nat) : Store.get? (Store.erase m a) a = none := by
  induction m with
  | nil => rfl
  | cons p r ih =>
    obtain ⟨k, v⟩ := p
    simp only [Store.erase, List.filter_cons] at *
    by_cases h : k = a
    · simp [h, ih]
    · have h' : ¬ a = k := fun e => h e.symm
      simp [h, h', Store.get?, ih]

theorem Store.get?_erase_ne (m : Store α) {a b : Nat} (h : b ≠ a) : Store.get? (Store.erase m a) b = Store.get? m b := by
  induction m with
  | nil => rfl
  | cons p r ih =>
    obtain ⟨k, v⟩ := p
    simp only [Store.erase, List.filter_cons] at *
    by_cases hk : k = a
    · subst hk
      simp [Store.get?, h, ih]
    · by_cases hb : b = k
      · simp [Store.get?, hk, hb]
      · simp [Store.get?, hk, hb, ih]

/-- The value behind a key, the default where none is held, after a `put`. -/
theorem Store.getD_put [DecidableEq α] (m : Store α) (a b : Nat) (d x : α) :
    (Store.get? (Store.put m a d x) b).getD d = if b = a then x else (Store.get? m b).getD d := by
  unfold Store.put
  by_cases hb : b = a
  · subst hb
    by_cases hx : x = d <;> simp [hx]
  · by_cases hx : x = d
    · simp [hx, hb, Store.get?_erase_ne m hb]
    · simp [hx, hb, Store.get?_set_ne m x hb]

theorem Store.get?_put_ne [DecidableEq α] (m : Store α) {a b : Nat} (d x : α) (h : b ≠ a) :
    Store.get? (Store.put m a d x) b = Store.get? m b := by
  unfold Store.put
  split
  · exact Store.get?_erase_ne m h
  · exact Store.get?_set_ne m x h

@[simp] theorem Store.getD_put_self [DecidableEq α] (m : Store α) (a : Nat) (d x : α) :
    Store.getD (Store.put m a d x) a d = x := by
  simp [Store.getD, Store.getD_put]

@[simp] theorem Store.getD_set_self (m : Store α) (a : Nat) (d x : α) : Store.getD (Store.set m a x) a d = x := by
  simp [Store.getD]

end Sys2Proof.Machine
end

