-- ==== Sys2Proof/Laws/State.lean ====
section
/-! SUPPORT. What each update of the state leaves alone: one lemma per update and field, true by unfolding; and what a
register field, a tile or a memory byte reads as after an update. -/

namespace Sys2Proof.Machine

/-! ### wr -/

@[simp] theorem wr_part (s : State) (f : Fld) (v : Nat) : (wr s f v).part = s.part := rfl
@[simp] theorem wr_mem (s : State) (f : Fld) (v : Nat) : (wr s f v).mem = s.mem := rfl
@[simp] theorem wr_out (s : State) (f : Fld) (v : Nat) : (wr s f v).out = s.out := rfl
@[simp] theorem wr_freeCtr (s : State) (f : Fld) (v : Nat) : (wr s f v).freeCtr = s.freeCtr := rfl
@[simp] theorem wr_now (s : State) (f : Fld) (v : Nat) : (wr s f v).now = s.now := rfl
@[simp] theorem wr_todFrac (s : State) (f : Fld) (v : Nat) : (wr s f v).todFrac = s.todFrac := rfl
@[simp] theorem wr_tiles (s : State) (f : Fld) (v : Nat) : (wr s f v).tiles = s.tiles := rfl
@[simp] theorem wr_fabric (s : State) (f : Fld) (v : Nat) : (wr s f v).fabric = s.fabric := rfl
@[simp] theorem wr_waiters (s : State) (f : Fld) (v : Nat) : (wr s f v).waiters = s.waiters := rfl
@[simp] theorem wr_lockerQ (s : State) (f : Fld) (v : Nat) : (wr s f v).lockerQ = s.lockerQ := rfl
@[simp] theorem wr_claims (s : State) (f : Fld) (v : Nat) : (wr s f v).claims = s.claims := rfl
@[simp] theorem wr_jobs (s : State) (f : Fld) (v : Nat) : (wr s f v).jobs = s.jobs := rfl
@[simp] theorem wr_epochs (s : State) (f : Fld) (v : Nat) : (wr s f v).epochs = s.epochs := rfl
@[simp] theorem wr_epochAt (s : State) (f : Fld) (v : Nat) : (wr s f v).epochAt = s.epochAt := rfl
@[simp] theorem wr_runs (s : State) (f : Fld) (v : Nat) : (wr s f v).runs = s.runs := rfl
@[simp] theorem wr_runNext (s : State) (f : Fld) (v : Nat) : (wr s f v).runNext = s.runNext := rfl
@[simp] theorem wr_submNext (s : State) (f : Fld) (v : Nat) : (wr s f v).submNext = s.submNext := rfl
@[simp] theorem wr_periods (s : State) (f : Fld) (v : Nat) : (wr s f v).periods = s.periods := rfl
@[simp] theorem wr_siteMap (s : State) (f : Fld) (v : Nat) : (wr s f v).siteMap = s.siteMap := rfl
@[simp] theorem wr_stackMap (s : State) (f : Fld) (v : Nat) : (wr s f v).stackMap = s.stackMap := rfl
@[simp] theorem wr_parts (s : State) (f : Fld) (v : Nat) : (wr s f v).parts = s.parts := rfl
@[simp] theorem wr_bubbles (s : State) (f : Fld) (v : Nat) : (wr s f v).bubbles = s.bubbles := rfl
@[simp] theorem wr_descs (s : State) (f : Fld) (v : Nat) : (wr s f v).descs = s.descs := rfl
@[simp] theorem wr_cqs (s : State) (f : Fld) (v : Nat) : (wr s f v).cqs = s.cqs := rfl
@[simp] theorem wr_cands (s : State) (f : Fld) (v : Nat) : (wr s f v).cands = s.cands := rfl
@[simp] theorem wr_copies (s : State) (f : Fld) (v : Nat) : (wr s f v).copies = s.copies := rfl
@[simp] theorem wr_carries (s : State) (f : Fld) (v : Nat) : (wr s f v).carries = s.carries := rfl
@[simp] theorem wr_heldReps (s : State) (f : Fld) (v : Nat) : (wr s f v).heldReps = s.heldReps := rfl
@[simp] theorem wr_assocs (s : State) (f : Fld) (v : Nat) : (wr s f v).assocs = s.assocs := rfl
@[simp] theorem wr_plans (s : State) (f : Fld) (v : Nat) : (wr s f v).plans = s.plans := rfl
@[simp] theorem wr_spuFills (s : State) (f : Fld) (v : Nat) : (wr s f v).spuFills = s.spuFills := rfl
@[simp] theorem wr_aud (s : State) (f : Fld) (v : Nat) : (wr s f v).aud = s.aud := rfl
@[simp] theorem wr_undoRun (s : State) (f : Fld) (v : Nat) : (wr s f v).undoRun = s.undoRun := rfl
@[simp] theorem wr_unitSubs (s : State) (f : Fld) (v : Nat) : (wr s f v).unitSubs = s.unitSubs := rfl
@[simp] theorem wr_siteSubs (s : State) (f : Fld) (v : Nat) : (wr s f v).siteSubs = s.siteSubs := rfl
@[simp] theorem wr_stackCopy (s : State) (f : Fld) (v : Nat) : (wr s f v).stackCopy = s.stackCopy := rfl
@[simp] theorem wr_dbl (s : State) (f : Fld) (v : Nat) : (wr s f v).dbl = s.dbl := rfl
@[simp] theorem wr_time (s : State) (f : Fld) (v : Nat) : (wr s f v).time = s.time := rfl
@[simp] theorem wr_fns (s : State) (f : Fld) (v : Nat) : (wr s f v).fns = s.fns := rfl
@[simp] theorem wr_zeroing (s : State) (f : Fld) (v : Nat) : (wr s f v).zeroing = s.zeroing := rfl
@[simp] theorem wr_closings (s : State) (f : Fld) (v : Nat) : (wr s f v).closings = s.closings := rfl
@[simp] theorem wr_netNotes (s : State) (f : Fld) (v : Nat) : (wr s f v).netNotes = s.netNotes := rfl
@[simp] theorem wr_fwRate (s : State) (f : Fld) (v : Nat) : (wr s f v).fwRate = s.fwRate := rfl
@[simp] theorem wr_windows (s : State) (f : Fld) (v : Nat) : (wr s f v).windows = s.windows := rfl
@[simp] theorem wr_bubbleNow (s : State) (f : Fld) (v : Nat) : (wr s f v).bubbleNow = s.bubbleNow := rfl
@[simp] theorem wr_grd (s : State) (f : Fld) (v : Nat) : (wr s f v).grd = s.grd := rfl
@[simp] theorem wr_badSites (s : State) (f : Fld) (v : Nat) : (wr s f v).badSites = s.badSites := rfl
@[simp] theorem wr_winMax (s : State) (f : Fld) (v : Nat) : (wr s f v).winMax = s.winMax := rfl
@[simp] theorem wr_pwr (s : State) (f : Fld) (v : Nat) : (wr s f v).pwr = s.pwr := rfl
@[simp] theorem wr_boot (s : State) (f : Fld) (v : Nat) : (wr s f v).boot = s.boot := rfl
@[simp] theorem wr_readyAt (s : State) (f : Fld) (v : Nat) : (wr s f v).readyAt = s.readyAt := rfl
@[simp] theorem wr_sec (s : State) (f : Fld) (v : Nat) : (wr s f v).sec = s.sec := rfl
@[simp] theorem wr_pairs (s : State) (f : Fld) (v : Nat) : (wr s f v).pairs = s.pairs := rfl
@[simp] theorem wr_neighbours (s : State) (f : Fld) (v : Nat) : (wr s f v).neighbours = s.neighbours := rfl
@[simp] theorem wr_lostCarry (s : State) (f : Fld) (v : Nat) : (wr s f v).lostCarry = s.lostCarry := rfl
@[simp] theorem wr_cleared (s : State) (f : Fld) (v : Nat) : (wr s f v).cleared = s.cleared := rfl
@[simp] theorem wr_upsets (s : State) (f : Fld) (v : Nat) : (wr s f v).upsets = s.upsets := rfl
@[simp] theorem wr_pending (s : State) (f : Fld) (v : Nat) : (wr s f v).pending = s.pending := rfl

/-! ### bump -/

@[simp] theorem bump_part (s : State) (f : Fld) (n : Nat) : (bump s f n).part = s.part := rfl
@[simp] theorem bump_mem (s : State) (f : Fld) (n : Nat) : (bump s f n).mem = s.mem := rfl
@[simp] theorem bump_out (s : State) (f : Fld) (n : Nat) : (bump s f n).out = s.out := rfl
@[simp] theorem bump_freeCtr (s : State) (f : Fld) (n : Nat) : (bump s f n).freeCtr = s.freeCtr := rfl
@[simp] theorem bump_now (s : State) (f : Fld) (n : Nat) : (bump s f n).now = s.now := rfl
@[simp] theorem bump_todFrac (s : State) (f : Fld) (n : Nat) : (bump s f n).todFrac = s.todFrac := rfl
@[simp] theorem bump_tiles (s : State) (f : Fld) (n : Nat) : (bump s f n).tiles = s.tiles := rfl
@[simp] theorem bump_fabric (s : State) (f : Fld) (n : Nat) : (bump s f n).fabric = s.fabric := rfl
@[simp] theorem bump_waiters (s : State) (f : Fld) (n : Nat) : (bump s f n).waiters = s.waiters := rfl
@[simp] theorem bump_lockerQ (s : State) (f : Fld) (n : Nat) : (bump s f n).lockerQ = s.lockerQ := rfl
@[simp] theorem bump_claims (s : State) (f : Fld) (n : Nat) : (bump s f n).claims = s.claims := rfl
@[simp] theorem bump_jobs (s : State) (f : Fld) (n : Nat) : (bump s f n).jobs = s.jobs := rfl
@[simp] theorem bump_epochs (s : State) (f : Fld) (n : Nat) : (bump s f n).epochs = s.epochs := rfl
@[simp] theorem bump_epochAt (s : State) (f : Fld) (n : Nat) : (bump s f n).epochAt = s.epochAt := rfl
@[simp] theorem bump_runs (s : State) (f : Fld) (n : Nat) : (bump s f n).runs = s.runs := rfl
@[simp] theorem bump_runNext (s : State) (f : Fld) (n : Nat) : (bump s f n).runNext = s.runNext := rfl
@[simp] theorem bump_submNext (s : State) (f : Fld) (n : Nat) : (bump s f n).submNext = s.submNext := rfl
@[simp] theorem bump_periods (s : State) (f : Fld) (n : Nat) : (bump s f n).periods = s.periods := rfl
@[simp] theorem bump_siteMap (s : State) (f : Fld) (n : Nat) : (bump s f n).siteMap = s.siteMap := rfl
@[simp] theorem bump_stackMap (s : State) (f : Fld) (n : Nat) : (bump s f n).stackMap = s.stackMap := rfl
@[simp] theorem bump_parts (s : State) (f : Fld) (n : Nat) : (bump s f n).parts = s.parts := rfl
@[simp] theorem bump_bubbles (s : State) (f : Fld) (n : Nat) : (bump s f n).bubbles = s.bubbles := rfl
@[simp] theorem bump_descs (s : State) (f : Fld) (n : Nat) : (bump s f n).descs = s.descs := rfl
@[simp] theorem bump_cqs (s : State) (f : Fld) (n : Nat) : (bump s f n).cqs = s.cqs := rfl
@[simp] theorem bump_cands (s : State) (f : Fld) (n : Nat) : (bump s f n).cands = s.cands := rfl
@[simp] theorem bump_copies (s : State) (f : Fld) (n : Nat) : (bump s f n).copies = s.copies := rfl
@[simp] theorem bump_carries (s : State) (f : Fld) (n : Nat) : (bump s f n).carries = s.carries := rfl
@[simp] theorem bump_heldReps (s : State) (f : Fld) (n : Nat) : (bump s f n).heldReps = s.heldReps := rfl
@[simp] theorem bump_assocs (s : State) (f : Fld) (n : Nat) : (bump s f n).assocs = s.assocs := rfl
@[simp] theorem bump_plans (s : State) (f : Fld) (n : Nat) : (bump s f n).plans = s.plans := rfl
@[simp] theorem bump_spuFills (s : State) (f : Fld) (n : Nat) : (bump s f n).spuFills = s.spuFills := rfl
@[simp] theorem bump_aud (s : State) (f : Fld) (n : Nat) : (bump s f n).aud = s.aud := rfl
@[simp] theorem bump_undoRun (s : State) (f : Fld) (n : Nat) : (bump s f n).undoRun = s.undoRun := rfl
@[simp] theorem bump_unitSubs (s : State) (f : Fld) (n : Nat) : (bump s f n).unitSubs = s.unitSubs := rfl
@[simp] theorem bump_siteSubs (s : State) (f : Fld) (n : Nat) : (bump s f n).siteSubs = s.siteSubs := rfl
@[simp] theorem bump_stackCopy (s : State) (f : Fld) (n : Nat) : (bump s f n).stackCopy = s.stackCopy := rfl
@[simp] theorem bump_dbl (s : State) (f : Fld) (n : Nat) : (bump s f n).dbl = s.dbl := rfl
@[simp] theorem bump_time (s : State) (f : Fld) (n : Nat) : (bump s f n).time = s.time := rfl
@[simp] theorem bump_fns (s : State) (f : Fld) (n : Nat) : (bump s f n).fns = s.fns := rfl
@[simp] theorem bump_zeroing (s : State) (f : Fld) (n : Nat) : (bump s f n).zeroing = s.zeroing := rfl
@[simp] theorem bump_closings (s : State) (f : Fld) (n : Nat) : (bump s f n).closings = s.closings := rfl
@[simp] theorem bump_netNotes (s : State) (f : Fld) (n : Nat) : (bump s f n).netNotes = s.netNotes := rfl
@[simp] theorem bump_fwRate (s : State) (f : Fld) (n : Nat) : (bump s f n).fwRate = s.fwRate := rfl
@[simp] theorem bump_windows (s : State) (f : Fld) (n : Nat) : (bump s f n).windows = s.windows := rfl
@[simp] theorem bump_bubbleNow (s : State) (f : Fld) (n : Nat) : (bump s f n).bubbleNow = s.bubbleNow := rfl
@[simp] theorem bump_grd (s : State) (f : Fld) (n : Nat) : (bump s f n).grd = s.grd := rfl
@[simp] theorem bump_badSites (s : State) (f : Fld) (n : Nat) : (bump s f n).badSites = s.badSites := rfl
@[simp] theorem bump_winMax (s : State) (f : Fld) (n : Nat) : (bump s f n).winMax = s.winMax := rfl
@[simp] theorem bump_pwr (s : State) (f : Fld) (n : Nat) : (bump s f n).pwr = s.pwr := rfl
@[simp] theorem bump_boot (s : State) (f : Fld) (n : Nat) : (bump s f n).boot = s.boot := rfl
@[simp] theorem bump_readyAt (s : State) (f : Fld) (n : Nat) : (bump s f n).readyAt = s.readyAt := rfl
@[simp] theorem bump_sec (s : State) (f : Fld) (n : Nat) : (bump s f n).sec = s.sec := rfl
@[simp] theorem bump_pairs (s : State) (f : Fld) (n : Nat) : (bump s f n).pairs = s.pairs := rfl
@[simp] theorem bump_neighbours (s : State) (f : Fld) (n : Nat) : (bump s f n).neighbours = s.neighbours := rfl
@[simp] theorem bump_lostCarry (s : State) (f : Fld) (n : Nat) : (bump s f n).lostCarry = s.lostCarry := rfl
@[simp] theorem bump_cleared (s : State) (f : Fld) (n : Nat) : (bump s f n).cleared = s.cleared := rfl
@[simp] theorem bump_upsets (s : State) (f : Fld) (n : Nat) : (bump s f n).upsets = s.upsets := rfl
@[simp] theorem bump_pending (s : State) (f : Fld) (n : Nat) : (bump s f n).pending = s.pending := rfl

/-! ### raise -/

@[simp] theorem raise_part (s : State) (f : Fld) (b : Nat) : (raise s f b).part = s.part := rfl
@[simp] theorem raise_mem (s : State) (f : Fld) (b : Nat) : (raise s f b).mem = s.mem := rfl
@[simp] theorem raise_out (s : State) (f : Fld) (b : Nat) : (raise s f b).out = s.out := rfl
@[simp] theorem raise_freeCtr (s : State) (f : Fld) (b : Nat) : (raise s f b).freeCtr = s.freeCtr := rfl
@[simp] theorem raise_now (s : State) (f : Fld) (b : Nat) : (raise s f b).now = s.now := rfl
@[simp] theorem raise_todFrac (s : State) (f : Fld) (b : Nat) : (raise s f b).todFrac = s.todFrac := rfl
@[simp] theorem raise_tiles (s : State) (f : Fld) (b : Nat) : (raise s f b).tiles = s.tiles := rfl
@[simp] theorem raise_fabric (s : State) (f : Fld) (b : Nat) : (raise s f b).fabric = s.fabric := rfl
@[simp] theorem raise_waiters (s : State) (f : Fld) (b : Nat) : (raise s f b).waiters = s.waiters := rfl
@[simp] theorem raise_lockerQ (s : State) (f : Fld) (b : Nat) : (raise s f b).lockerQ = s.lockerQ := rfl
@[simp] theorem raise_claims (s : State) (f : Fld) (b : Nat) : (raise s f b).claims = s.claims := rfl
@[simp] theorem raise_jobs (s : State) (f : Fld) (b : Nat) : (raise s f b).jobs = s.jobs := rfl
@[simp] theorem raise_epochs (s : State) (f : Fld) (b : Nat) : (raise s f b).epochs = s.epochs := rfl
@[simp] theorem raise_epochAt (s : State) (f : Fld) (b : Nat) : (raise s f b).epochAt = s.epochAt := rfl
@[simp] theorem raise_runs (s : State) (f : Fld) (b : Nat) : (raise s f b).runs = s.runs := rfl
@[simp] theorem raise_runNext (s : State) (f : Fld) (b : Nat) : (raise s f b).runNext = s.runNext := rfl
@[simp] theorem raise_submNext (s : State) (f : Fld) (b : Nat) : (raise s f b).submNext = s.submNext := rfl
@[simp] theorem raise_periods (s : State) (f : Fld) (b : Nat) : (raise s f b).periods = s.periods := rfl
@[simp] theorem raise_siteMap (s : State) (f : Fld) (b : Nat) : (raise s f b).siteMap = s.siteMap := rfl
@[simp] theorem raise_stackMap (s : State) (f : Fld) (b : Nat) : (raise s f b).stackMap = s.stackMap := rfl
@[simp] theorem raise_parts (s : State) (f : Fld) (b : Nat) : (raise s f b).parts = s.parts := rfl
@[simp] theorem raise_bubbles (s : State) (f : Fld) (b : Nat) : (raise s f b).bubbles = s.bubbles := rfl
@[simp] theorem raise_descs (s : State) (f : Fld) (b : Nat) : (raise s f b).descs = s.descs := rfl
@[simp] theorem raise_cqs (s : State) (f : Fld) (b : Nat) : (raise s f b).cqs = s.cqs := rfl
@[simp] theorem raise_cands (s : State) (f : Fld) (b : Nat) : (raise s f b).cands = s.cands := rfl
@[simp] theorem raise_copies (s : State) (f : Fld) (b : Nat) : (raise s f b).copies = s.copies := rfl
@[simp] theorem raise_carries (s : State) (f : Fld) (b : Nat) : (raise s f b).carries = s.carries := rfl
@[simp] theorem raise_heldReps (s : State) (f : Fld) (b : Nat) : (raise s f b).heldReps = s.heldReps := rfl
@[simp] theorem raise_assocs (s : State) (f : Fld) (b : Nat) : (raise s f b).assocs = s.assocs := rfl
@[simp] theorem raise_plans (s : State) (f : Fld) (b : Nat) : (raise s f b).plans = s.plans := rfl
@[simp] theorem raise_spuFills (s : State) (f : Fld) (b : Nat) : (raise s f b).spuFills = s.spuFills := rfl
@[simp] theorem raise_aud (s : State) (f : Fld) (b : Nat) : (raise s f b).aud = s.aud := rfl
@[simp] theorem raise_undoRun (s : State) (f : Fld) (b : Nat) : (raise s f b).undoRun = s.undoRun := rfl
@[simp] theorem raise_unitSubs (s : State) (f : Fld) (b : Nat) : (raise s f b).unitSubs = s.unitSubs := rfl
@[simp] theorem raise_siteSubs (s : State) (f : Fld) (b : Nat) : (raise s f b).siteSubs = s.siteSubs := rfl
@[simp] theorem raise_stackCopy (s : State) (f : Fld) (b : Nat) : (raise s f b).stackCopy = s.stackCopy := rfl
@[simp] theorem raise_dbl (s : State) (f : Fld) (b : Nat) : (raise s f b).dbl = s.dbl := rfl
@[simp] theorem raise_time (s : State) (f : Fld) (b : Nat) : (raise s f b).time = s.time := rfl
@[simp] theorem raise_fns (s : State) (f : Fld) (b : Nat) : (raise s f b).fns = s.fns := rfl
@[simp] theorem raise_zeroing (s : State) (f : Fld) (b : Nat) : (raise s f b).zeroing = s.zeroing := rfl
@[simp] theorem raise_closings (s : State) (f : Fld) (b : Nat) : (raise s f b).closings = s.closings := rfl
@[simp] theorem raise_netNotes (s : State) (f : Fld) (b : Nat) : (raise s f b).netNotes = s.netNotes := rfl
@[simp] theorem raise_fwRate (s : State) (f : Fld) (b : Nat) : (raise s f b).fwRate = s.fwRate := rfl
@[simp] theorem raise_windows (s : State) (f : Fld) (b : Nat) : (raise s f b).windows = s.windows := rfl
@[simp] theorem raise_bubbleNow (s : State) (f : Fld) (b : Nat) : (raise s f b).bubbleNow = s.bubbleNow := rfl
@[simp] theorem raise_grd (s : State) (f : Fld) (b : Nat) : (raise s f b).grd = s.grd := rfl
@[simp] theorem raise_badSites (s : State) (f : Fld) (b : Nat) : (raise s f b).badSites = s.badSites := rfl
@[simp] theorem raise_winMax (s : State) (f : Fld) (b : Nat) : (raise s f b).winMax = s.winMax := rfl
@[simp] theorem raise_pwr (s : State) (f : Fld) (b : Nat) : (raise s f b).pwr = s.pwr := rfl
@[simp] theorem raise_boot (s : State) (f : Fld) (b : Nat) : (raise s f b).boot = s.boot := rfl
@[simp] theorem raise_readyAt (s : State) (f : Fld) (b : Nat) : (raise s f b).readyAt = s.readyAt := rfl
@[simp] theorem raise_sec (s : State) (f : Fld) (b : Nat) : (raise s f b).sec = s.sec := rfl
@[simp] theorem raise_pairs (s : State) (f : Fld) (b : Nat) : (raise s f b).pairs = s.pairs := rfl
@[simp] theorem raise_neighbours (s : State) (f : Fld) (b : Nat) : (raise s f b).neighbours = s.neighbours := rfl
@[simp] theorem raise_lostCarry (s : State) (f : Fld) (b : Nat) : (raise s f b).lostCarry = s.lostCarry := rfl
@[simp] theorem raise_cleared (s : State) (f : Fld) (b : Nat) : (raise s f b).cleared = s.cleared := rfl
@[simp] theorem raise_upsets (s : State) (f : Fld) (b : Nat) : (raise s f b).upsets = s.upsets := rfl
@[simp] theorem raise_pending (s : State) (f : Fld) (b : Nat) : (raise s f b).pending = s.pending := rfl

/-! ### emitOut -/

@[simp] theorem emitOut_part (s : State) (o : Out) : (emitOut s o).part = s.part := rfl
@[simp] theorem emitOut_regs (s : State) (o : Out) : (emitOut s o).regs = s.regs := rfl
@[simp] theorem emitOut_mem (s : State) (o : Out) : (emitOut s o).mem = s.mem := rfl
@[simp] theorem emitOut_freeCtr (s : State) (o : Out) : (emitOut s o).freeCtr = s.freeCtr := rfl
@[simp] theorem emitOut_now (s : State) (o : Out) : (emitOut s o).now = s.now := rfl
@[simp] theorem emitOut_todFrac (s : State) (o : Out) : (emitOut s o).todFrac = s.todFrac := rfl
@[simp] theorem emitOut_tiles (s : State) (o : Out) : (emitOut s o).tiles = s.tiles := rfl
@[simp] theorem emitOut_fabric (s : State) (o : Out) : (emitOut s o).fabric = s.fabric := rfl
@[simp] theorem emitOut_waiters (s : State) (o : Out) : (emitOut s o).waiters = s.waiters := rfl
@[simp] theorem emitOut_lockerQ (s : State) (o : Out) : (emitOut s o).lockerQ = s.lockerQ := rfl
@[simp] theorem emitOut_claims (s : State) (o : Out) : (emitOut s o).claims = s.claims := rfl
@[simp] theorem emitOut_jobs (s : State) (o : Out) : (emitOut s o).jobs = s.jobs := rfl
@[simp] theorem emitOut_epochs (s : State) (o : Out) : (emitOut s o).epochs = s.epochs := rfl
@[simp] theorem emitOut_epochAt (s : State) (o : Out) : (emitOut s o).epochAt = s.epochAt := rfl
@[simp] theorem emitOut_runs (s : State) (o : Out) : (emitOut s o).runs = s.runs := rfl
@[simp] theorem emitOut_runNext (s : State) (o : Out) : (emitOut s o).runNext = s.runNext := rfl
@[simp] theorem emitOut_submNext (s : State) (o : Out) : (emitOut s o).submNext = s.submNext := rfl
@[simp] theorem emitOut_periods (s : State) (o : Out) : (emitOut s o).periods = s.periods := rfl
@[simp] theorem emitOut_siteMap (s : State) (o : Out) : (emitOut s o).siteMap = s.siteMap := rfl
@[simp] theorem emitOut_stackMap (s : State) (o : Out) : (emitOut s o).stackMap = s.stackMap := rfl
@[simp] theorem emitOut_parts (s : State) (o : Out) : (emitOut s o).parts = s.parts := rfl
@[simp] theorem emitOut_bubbles (s : State) (o : Out) : (emitOut s o).bubbles = s.bubbles := rfl
@[simp] theorem emitOut_descs (s : State) (o : Out) : (emitOut s o).descs = s.descs := rfl
@[simp] theorem emitOut_cqs (s : State) (o : Out) : (emitOut s o).cqs = s.cqs := rfl
@[simp] theorem emitOut_cands (s : State) (o : Out) : (emitOut s o).cands = s.cands := rfl
@[simp] theorem emitOut_copies (s : State) (o : Out) : (emitOut s o).copies = s.copies := rfl
@[simp] theorem emitOut_carries (s : State) (o : Out) : (emitOut s o).carries = s.carries := rfl
@[simp] theorem emitOut_heldReps (s : State) (o : Out) : (emitOut s o).heldReps = s.heldReps := rfl
@[simp] theorem emitOut_assocs (s : State) (o : Out) : (emitOut s o).assocs = s.assocs := rfl
@[simp] theorem emitOut_plans (s : State) (o : Out) : (emitOut s o).plans = s.plans := rfl
@[simp] theorem emitOut_spuFills (s : State) (o : Out) : (emitOut s o).spuFills = s.spuFills := rfl
@[simp] theorem emitOut_aud (s : State) (o : Out) : (emitOut s o).aud = s.aud := rfl
@[simp] theorem emitOut_undoRun (s : State) (o : Out) : (emitOut s o).undoRun = s.undoRun := rfl
@[simp] theorem emitOut_unitSubs (s : State) (o : Out) : (emitOut s o).unitSubs = s.unitSubs := rfl
@[simp] theorem emitOut_siteSubs (s : State) (o : Out) : (emitOut s o).siteSubs = s.siteSubs := rfl
@[simp] theorem emitOut_stackCopy (s : State) (o : Out) : (emitOut s o).stackCopy = s.stackCopy := rfl
@[simp] theorem emitOut_dbl (s : State) (o : Out) : (emitOut s o).dbl = s.dbl := rfl
@[simp] theorem emitOut_time (s : State) (o : Out) : (emitOut s o).time = s.time := rfl
@[simp] theorem emitOut_fns (s : State) (o : Out) : (emitOut s o).fns = s.fns := rfl
@[simp] theorem emitOut_zeroing (s : State) (o : Out) : (emitOut s o).zeroing = s.zeroing := rfl
@[simp] theorem emitOut_closings (s : State) (o : Out) : (emitOut s o).closings = s.closings := rfl
@[simp] theorem emitOut_netNotes (s : State) (o : Out) : (emitOut s o).netNotes = s.netNotes := rfl
@[simp] theorem emitOut_fwRate (s : State) (o : Out) : (emitOut s o).fwRate = s.fwRate := rfl
@[simp] theorem emitOut_windows (s : State) (o : Out) : (emitOut s o).windows = s.windows := rfl
@[simp] theorem emitOut_bubbleNow (s : State) (o : Out) : (emitOut s o).bubbleNow = s.bubbleNow := rfl
@[simp] theorem emitOut_grd (s : State) (o : Out) : (emitOut s o).grd = s.grd := rfl
@[simp] theorem emitOut_badSites (s : State) (o : Out) : (emitOut s o).badSites = s.badSites := rfl
@[simp] theorem emitOut_winMax (s : State) (o : Out) : (emitOut s o).winMax = s.winMax := rfl
@[simp] theorem emitOut_pwr (s : State) (o : Out) : (emitOut s o).pwr = s.pwr := rfl
@[simp] theorem emitOut_boot (s : State) (o : Out) : (emitOut s o).boot = s.boot := rfl
@[simp] theorem emitOut_readyAt (s : State) (o : Out) : (emitOut s o).readyAt = s.readyAt := rfl
@[simp] theorem emitOut_sec (s : State) (o : Out) : (emitOut s o).sec = s.sec := rfl
@[simp] theorem emitOut_pairs (s : State) (o : Out) : (emitOut s o).pairs = s.pairs := rfl
@[simp] theorem emitOut_neighbours (s : State) (o : Out) : (emitOut s o).neighbours = s.neighbours := rfl
@[simp] theorem emitOut_lostCarry (s : State) (o : Out) : (emitOut s o).lostCarry = s.lostCarry := rfl
@[simp] theorem emitOut_cleared (s : State) (o : Out) : (emitOut s o).cleared = s.cleared := rfl
@[simp] theorem emitOut_upsets (s : State) (o : Out) : (emitOut s o).upsets = s.upsets := rfl
@[simp] theorem emitOut_pending (s : State) (o : Out) : (emitOut s o).pending = s.pending := rfl

/-! ### takeFree -/

@[simp] theorem takeFree_part (s : State) (n : Nat) : (takeFree s n).part = s.part := rfl
@[simp] theorem takeFree_regs (s : State) (n : Nat) : (takeFree s n).regs = s.regs := rfl
@[simp] theorem takeFree_mem (s : State) (n : Nat) : (takeFree s n).mem = s.mem := rfl
@[simp] theorem takeFree_out (s : State) (n : Nat) : (takeFree s n).out = s.out := rfl
@[simp] theorem takeFree_now (s : State) (n : Nat) : (takeFree s n).now = s.now := rfl
@[simp] theorem takeFree_todFrac (s : State) (n : Nat) : (takeFree s n).todFrac = s.todFrac := rfl
@[simp] theorem takeFree_tiles (s : State) (n : Nat) : (takeFree s n).tiles = s.tiles := rfl
@[simp] theorem takeFree_fabric (s : State) (n : Nat) : (takeFree s n).fabric = s.fabric := rfl
@[simp] theorem takeFree_waiters (s : State) (n : Nat) : (takeFree s n).waiters = s.waiters := rfl
@[simp] theorem takeFree_lockerQ (s : State) (n : Nat) : (takeFree s n).lockerQ = s.lockerQ := rfl
@[simp] theorem takeFree_claims (s : State) (n : Nat) : (takeFree s n).claims = s.claims := rfl
@[simp] theorem takeFree_jobs (s : State) (n : Nat) : (takeFree s n).jobs = s.jobs := rfl
@[simp] theorem takeFree_epochs (s : State) (n : Nat) : (takeFree s n).epochs = s.epochs := rfl
@[simp] theorem takeFree_epochAt (s : State) (n : Nat) : (takeFree s n).epochAt = s.epochAt := rfl
@[simp] theorem takeFree_runs (s : State) (n : Nat) : (takeFree s n).runs = s.runs := rfl
@[simp] theorem takeFree_runNext (s : State) (n : Nat) : (takeFree s n).runNext = s.runNext := rfl
@[simp] theorem takeFree_submNext (s : State) (n : Nat) : (takeFree s n).submNext = s.submNext := rfl
@[simp] theorem takeFree_periods (s : State) (n : Nat) : (takeFree s n).periods = s.periods := rfl
@[simp] theorem takeFree_siteMap (s : State) (n : Nat) : (takeFree s n).siteMap = s.siteMap := rfl
@[simp] theorem takeFree_stackMap (s : State) (n : Nat) : (takeFree s n).stackMap = s.stackMap := rfl
@[simp] theorem takeFree_parts (s : State) (n : Nat) : (takeFree s n).parts = s.parts := rfl
@[simp] theorem takeFree_bubbles (s : State) (n : Nat) : (takeFree s n).bubbles = s.bubbles := rfl
@[simp] theorem takeFree_descs (s : State) (n : Nat) : (takeFree s n).descs = s.descs := rfl
@[simp] theorem takeFree_cqs (s : State) (n : Nat) : (takeFree s n).cqs = s.cqs := rfl
@[simp] theorem takeFree_cands (s : State) (n : Nat) : (takeFree s n).cands = s.cands := rfl
@[simp] theorem takeFree_copies (s : State) (n : Nat) : (takeFree s n).copies = s.copies := rfl
@[simp] theorem takeFree_carries (s : State) (n : Nat) : (takeFree s n).carries = s.carries := rfl
@[simp] theorem takeFree_heldReps (s : State) (n : Nat) : (takeFree s n).heldReps = s.heldReps := rfl
@[simp] theorem takeFree_assocs (s : State) (n : Nat) : (takeFree s n).assocs = s.assocs := rfl
@[simp] theorem takeFree_plans (s : State) (n : Nat) : (takeFree s n).plans = s.plans := rfl
@[simp] theorem takeFree_spuFills (s : State) (n : Nat) : (takeFree s n).spuFills = s.spuFills := rfl
@[simp] theorem takeFree_aud (s : State) (n : Nat) : (takeFree s n).aud = s.aud := rfl
@[simp] theorem takeFree_undoRun (s : State) (n : Nat) : (takeFree s n).undoRun = s.undoRun := rfl
@[simp] theorem takeFree_unitSubs (s : State) (n : Nat) : (takeFree s n).unitSubs = s.unitSubs := rfl
@[simp] theorem takeFree_siteSubs (s : State) (n : Nat) : (takeFree s n).siteSubs = s.siteSubs := rfl
@[simp] theorem takeFree_stackCopy (s : State) (n : Nat) : (takeFree s n).stackCopy = s.stackCopy := rfl
@[simp] theorem takeFree_dbl (s : State) (n : Nat) : (takeFree s n).dbl = s.dbl := rfl
@[simp] theorem takeFree_time (s : State) (n : Nat) : (takeFree s n).time = s.time := rfl
@[simp] theorem takeFree_fns (s : State) (n : Nat) : (takeFree s n).fns = s.fns := rfl
@[simp] theorem takeFree_zeroing (s : State) (n : Nat) : (takeFree s n).zeroing = s.zeroing := rfl
@[simp] theorem takeFree_closings (s : State) (n : Nat) : (takeFree s n).closings = s.closings := rfl
@[simp] theorem takeFree_netNotes (s : State) (n : Nat) : (takeFree s n).netNotes = s.netNotes := rfl
@[simp] theorem takeFree_fwRate (s : State) (n : Nat) : (takeFree s n).fwRate = s.fwRate := rfl
@[simp] theorem takeFree_windows (s : State) (n : Nat) : (takeFree s n).windows = s.windows := rfl
@[simp] theorem takeFree_bubbleNow (s : State) (n : Nat) : (takeFree s n).bubbleNow = s.bubbleNow := rfl
@[simp] theorem takeFree_grd (s : State) (n : Nat) : (takeFree s n).grd = s.grd := rfl
@[simp] theorem takeFree_badSites (s : State) (n : Nat) : (takeFree s n).badSites = s.badSites := rfl
@[simp] theorem takeFree_winMax (s : State) (n : Nat) : (takeFree s n).winMax = s.winMax := rfl
@[simp] theorem takeFree_pwr (s : State) (n : Nat) : (takeFree s n).pwr = s.pwr := rfl
@[simp] theorem takeFree_boot (s : State) (n : Nat) : (takeFree s n).boot = s.boot := rfl
@[simp] theorem takeFree_readyAt (s : State) (n : Nat) : (takeFree s n).readyAt = s.readyAt := rfl
@[simp] theorem takeFree_sec (s : State) (n : Nat) : (takeFree s n).sec = s.sec := rfl
@[simp] theorem takeFree_pairs (s : State) (n : Nat) : (takeFree s n).pairs = s.pairs := rfl
@[simp] theorem takeFree_neighbours (s : State) (n : Nat) : (takeFree s n).neighbours = s.neighbours := rfl
@[simp] theorem takeFree_lostCarry (s : State) (n : Nat) : (takeFree s n).lostCarry = s.lostCarry := rfl
@[simp] theorem takeFree_cleared (s : State) (n : Nat) : (takeFree s n).cleared = s.cleared := rfl
@[simp] theorem takeFree_upsets (s : State) (n : Nat) : (takeFree s n).upsets = s.upsets := rfl
@[simp] theorem takeFree_pending (s : State) (n : Nat) : (takeFree s n).pending = s.pending := rfl

/-! ### setTile -/

@[simp] theorem setTile_part (s : State) (t : Nat) (x : Tile) : (setTile s t x).part = s.part := rfl
@[simp] theorem setTile_regs (s : State) (t : Nat) (x : Tile) : (setTile s t x).regs = s.regs := rfl
@[simp] theorem setTile_mem (s : State) (t : Nat) (x : Tile) : (setTile s t x).mem = s.mem := rfl
@[simp] theorem setTile_out (s : State) (t : Nat) (x : Tile) : (setTile s t x).out = s.out := rfl
@[simp] theorem setTile_freeCtr (s : State) (t : Nat) (x : Tile) : (setTile s t x).freeCtr = s.freeCtr := rfl
@[simp] theorem setTile_now (s : State) (t : Nat) (x : Tile) : (setTile s t x).now = s.now := rfl
@[simp] theorem setTile_todFrac (s : State) (t : Nat) (x : Tile) : (setTile s t x).todFrac = s.todFrac := rfl
@[simp] theorem setTile_fabric (s : State) (t : Nat) (x : Tile) : (setTile s t x).fabric = s.fabric := rfl
@[simp] theorem setTile_waiters (s : State) (t : Nat) (x : Tile) : (setTile s t x).waiters = s.waiters := rfl
@[simp] theorem setTile_lockerQ (s : State) (t : Nat) (x : Tile) : (setTile s t x).lockerQ = s.lockerQ := rfl
@[simp] theorem setTile_claims (s : State) (t : Nat) (x : Tile) : (setTile s t x).claims = s.claims := rfl
@[simp] theorem setTile_jobs (s : State) (t : Nat) (x : Tile) : (setTile s t x).jobs = s.jobs := rfl
@[simp] theorem setTile_epochs (s : State) (t : Nat) (x : Tile) : (setTile s t x).epochs = s.epochs := rfl
@[simp] theorem setTile_epochAt (s : State) (t : Nat) (x : Tile) : (setTile s t x).epochAt = s.epochAt := rfl
@[simp] theorem setTile_runs (s : State) (t : Nat) (x : Tile) : (setTile s t x).runs = s.runs := rfl
@[simp] theorem setTile_runNext (s : State) (t : Nat) (x : Tile) : (setTile s t x).runNext = s.runNext := rfl
@[simp] theorem setTile_submNext (s : State) (t : Nat) (x : Tile) : (setTile s t x).submNext = s.submNext := rfl
@[simp] theorem setTile_periods (s : State) (t : Nat) (x : Tile) : (setTile s t x).periods = s.periods := rfl
@[simp] theorem setTile_siteMap (s : State) (t : Nat) (x : Tile) : (setTile s t x).siteMap = s.siteMap := rfl
@[simp] theorem setTile_stackMap (s : State) (t : Nat) (x : Tile) : (setTile s t x).stackMap = s.stackMap := rfl
@[simp] theorem setTile_parts (s : State) (t : Nat) (x : Tile) : (setTile s t x).parts = s.parts := rfl
@[simp] theorem setTile_bubbles (s : State) (t : Nat) (x : Tile) : (setTile s t x).bubbles = s.bubbles := rfl
@[simp] theorem setTile_descs (s : State) (t : Nat) (x : Tile) : (setTile s t x).descs = s.descs := rfl
@[simp] theorem setTile_cqs (s : State) (t : Nat) (x : Tile) : (setTile s t x).cqs = s.cqs := rfl
@[simp] theorem setTile_cands (s : State) (t : Nat) (x : Tile) : (setTile s t x).cands = s.cands := rfl
@[simp] theorem setTile_copies (s : State) (t : Nat) (x : Tile) : (setTile s t x).copies = s.copies := rfl
@[simp] theorem setTile_carries (s : State) (t : Nat) (x : Tile) : (setTile s t x).carries = s.carries := rfl
@[simp] theorem setTile_heldReps (s : State) (t : Nat) (x : Tile) : (setTile s t x).heldReps = s.heldReps := rfl
@[simp] theorem setTile_assocs (s : State) (t : Nat) (x : Tile) : (setTile s t x).assocs = s.assocs := rfl
@[simp] theorem setTile_plans (s : State) (t : Nat) (x : Tile) : (setTile s t x).plans = s.plans := rfl
@[simp] theorem setTile_spuFills (s : State) (t : Nat) (x : Tile) : (setTile s t x).spuFills = s.spuFills := rfl
@[simp] theorem setTile_aud (s : State) (t : Nat) (x : Tile) : (setTile s t x).aud = s.aud := rfl
@[simp] theorem setTile_undoRun (s : State) (t : Nat) (x : Tile) : (setTile s t x).undoRun = s.undoRun := rfl
@[simp] theorem setTile_unitSubs (s : State) (t : Nat) (x : Tile) : (setTile s t x).unitSubs = s.unitSubs := rfl
@[simp] theorem setTile_siteSubs (s : State) (t : Nat) (x : Tile) : (setTile s t x).siteSubs = s.siteSubs := rfl
@[simp] theorem setTile_stackCopy (s : State) (t : Nat) (x : Tile) : (setTile s t x).stackCopy = s.stackCopy := rfl
@[simp] theorem setTile_dbl (s : State) (t : Nat) (x : Tile) : (setTile s t x).dbl = s.dbl := rfl
@[simp] theorem setTile_time (s : State) (t : Nat) (x : Tile) : (setTile s t x).time = s.time := rfl
@[simp] theorem setTile_fns (s : State) (t : Nat) (x : Tile) : (setTile s t x).fns = s.fns := rfl
@[simp] theorem setTile_zeroing (s : State) (t : Nat) (x : Tile) : (setTile s t x).zeroing = s.zeroing := rfl
@[simp] theorem setTile_closings (s : State) (t : Nat) (x : Tile) : (setTile s t x).closings = s.closings := rfl
@[simp] theorem setTile_netNotes (s : State) (t : Nat) (x : Tile) : (setTile s t x).netNotes = s.netNotes := rfl
@[simp] theorem setTile_fwRate (s : State) (t : Nat) (x : Tile) : (setTile s t x).fwRate = s.fwRate := rfl
@[simp] theorem setTile_windows (s : State) (t : Nat) (x : Tile) : (setTile s t x).windows = s.windows := rfl
@[simp] theorem setTile_bubbleNow (s : State) (t : Nat) (x : Tile) : (setTile s t x).bubbleNow = s.bubbleNow := rfl
@[simp] theorem setTile_grd (s : State) (t : Nat) (x : Tile) : (setTile s t x).grd = s.grd := rfl
@[simp] theorem setTile_badSites (s : State) (t : Nat) (x : Tile) : (setTile s t x).badSites = s.badSites := rfl
@[simp] theorem setTile_winMax (s : State) (t : Nat) (x : Tile) : (setTile s t x).winMax = s.winMax := rfl
@[simp] theorem setTile_pwr (s : State) (t : Nat) (x : Tile) : (setTile s t x).pwr = s.pwr := rfl
@[simp] theorem setTile_boot (s : State) (t : Nat) (x : Tile) : (setTile s t x).boot = s.boot := rfl
@[simp] theorem setTile_readyAt (s : State) (t : Nat) (x : Tile) : (setTile s t x).readyAt = s.readyAt := rfl
@[simp] theorem setTile_sec (s : State) (t : Nat) (x : Tile) : (setTile s t x).sec = s.sec := rfl
@[simp] theorem setTile_pairs (s : State) (t : Nat) (x : Tile) : (setTile s t x).pairs = s.pairs := rfl
@[simp] theorem setTile_neighbours (s : State) (t : Nat) (x : Tile) : (setTile s t x).neighbours = s.neighbours := rfl
@[simp] theorem setTile_lostCarry (s : State) (t : Nat) (x : Tile) : (setTile s t x).lostCarry = s.lostCarry := rfl
@[simp] theorem setTile_cleared (s : State) (t : Nat) (x : Tile) : (setTile s t x).cleared = s.cleared := rfl
@[simp] theorem setTile_upsets (s : State) (t : Nat) (x : Tile) : (setTile s t x).upsets = s.upsets := rfl
@[simp] theorem setTile_pending (s : State) (t : Nat) (x : Tile) : (setTile s t x).pending = s.pending := rfl

/-! ### modTile -/

@[simp] theorem modTile_part (s : State) (t : Nat) (f : Tile → Tile) : (modTile s t f).part = s.part := rfl
@[simp] theorem modTile_regs (s : State) (t : Nat) (f : Tile → Tile) : (modTile s t f).regs = s.regs := rfl
@[simp] theorem modTile_mem (s : State) (t : Nat) (f : Tile → Tile) : (modTile s t f).mem = s.mem := rfl
@[simp] theorem modTile_out (s : State) (t : Nat) (f : Tile → Tile) : (modTile s t f).out = s.out := rfl
@[simp] theorem modTile_freeCtr (s : State) (t : Nat) (f : Tile → Tile) : (modTile s t f).freeCtr = s.freeCtr := rfl
@[simp] theorem modTile_now (s : State) (t : Nat) (f : Tile → Tile) : (modTile s t f).now = s.now := rfl
@[simp] theorem modTile_todFrac (s : State) (t : Nat) (f : Tile → Tile) : (modTile s t f).todFrac = s.todFrac := rfl
@[simp] theorem modTile_fabric (s : State) (t : Nat) (f : Tile → Tile) : (modTile s t f).fabric = s.fabric := rfl
@[simp] theorem modTile_waiters (s : State) (t : Nat) (f : Tile → Tile) : (modTile s t f).waiters = s.waiters := rfl
@[simp] theorem modTile_lockerQ (s : State) (t : Nat) (f : Tile → Tile) : (modTile s t f).lockerQ = s.lockerQ := rfl
@[simp] theorem modTile_claims (s : State) (t : Nat) (f : Tile → Tile) : (modTile s t f).claims = s.claims := rfl
@[simp] theorem modTile_jobs (s : State) (t : Nat) (f : Tile → Tile) : (modTile s t f).jobs = s.jobs := rfl
@[simp] theorem modTile_epochs (s : State) (t : Nat) (f : Tile → Tile) : (modTile s t f).epochs = s.epochs := rfl
@[simp] theorem modTile_epochAt (s : State) (t : Nat) (f : Tile → Tile) : (modTile s t f).epochAt = s.epochAt := rfl
@[simp] theorem modTile_runs (s : State) (t : Nat) (f : Tile → Tile) : (modTile s t f).runs = s.runs := rfl
@[simp] theorem modTile_runNext (s : State) (t : Nat) (f : Tile → Tile) : (modTile s t f).runNext = s.runNext := rfl
@[simp] theorem modTile_submNext (s : State) (t : Nat) (f : Tile → Tile) : (modTile s t f).submNext = s.submNext := rfl
@[simp] theorem modTile_periods (s : State) (t : Nat) (f : Tile → Tile) : (modTile s t f).periods = s.periods := rfl
@[simp] theorem modTile_siteMap (s : State) (t : Nat) (f : Tile → Tile) : (modTile s t f).siteMap = s.siteMap := rfl
@[simp] theorem modTile_stackMap (s : State) (t : Nat) (f : Tile → Tile) : (modTile s t f).stackMap = s.stackMap := rfl
@[simp] theorem modTile_parts (s : State) (t : Nat) (f : Tile → Tile) : (modTile s t f).parts = s.parts := rfl
@[simp] theorem modTile_bubbles (s : State) (t : Nat) (f : Tile → Tile) : (modTile s t f).bubbles = s.bubbles := rfl
@[simp] theorem modTile_descs (s : State) (t : Nat) (f : Tile → Tile) : (modTile s t f).descs = s.descs := rfl
@[simp] theorem modTile_cqs (s : State) (t : Nat) (f : Tile → Tile) : (modTile s t f).cqs = s.cqs := rfl
@[simp] theorem modTile_cands (s : State) (t : Nat) (f : Tile → Tile) : (modTile s t f).cands = s.cands := rfl
@[simp] theorem modTile_copies (s : State) (t : Nat) (f : Tile → Tile) : (modTile s t f).copies = s.copies := rfl
@[simp] theorem modTile_carries (s : State) (t : Nat) (f : Tile → Tile) : (modTile s t f).carries = s.carries := rfl
@[simp] theorem modTile_heldReps (s : State) (t : Nat) (f : Tile → Tile) : (modTile s t f).heldReps = s.heldReps := rfl
@[simp] theorem modTile_assocs (s : State) (t : Nat) (f : Tile → Tile) : (modTile s t f).assocs = s.assocs := rfl
@[simp] theorem modTile_plans (s : State) (t : Nat) (f : Tile → Tile) : (modTile s t f).plans = s.plans := rfl
@[simp] theorem modTile_spuFills (s : State) (t : Nat) (f : Tile → Tile) : (modTile s t f).spuFills = s.spuFills := rfl
@[simp] theorem modTile_aud (s : State) (t : Nat) (f : Tile → Tile) : (modTile s t f).aud = s.aud := rfl
@[simp] theorem modTile_undoRun (s : State) (t : Nat) (f : Tile → Tile) : (modTile s t f).undoRun = s.undoRun := rfl
@[simp] theorem modTile_unitSubs (s : State) (t : Nat) (f : Tile → Tile) : (modTile s t f).unitSubs = s.unitSubs := rfl
@[simp] theorem modTile_siteSubs (s : State) (t : Nat) (f : Tile → Tile) : (modTile s t f).siteSubs = s.siteSubs := rfl
@[simp] theorem modTile_stackCopy (s : State) (t : Nat) (f : Tile → Tile) : (modTile s t f).stackCopy = s.stackCopy := rfl
@[simp] theorem modTile_dbl (s : State) (t : Nat) (f : Tile → Tile) : (modTile s t f).dbl = s.dbl := rfl
@[simp] theorem modTile_time (s : State) (t : Nat) (f : Tile → Tile) : (modTile s t f).time = s.time := rfl
@[simp] theorem modTile_fns (s : State) (t : Nat) (f : Tile → Tile) : (modTile s t f).fns = s.fns := rfl
@[simp] theorem modTile_zeroing (s : State) (t : Nat) (f : Tile → Tile) : (modTile s t f).zeroing = s.zeroing := rfl
@[simp] theorem modTile_closings (s : State) (t : Nat) (f : Tile → Tile) : (modTile s t f).closings = s.closings := rfl
@[simp] theorem modTile_netNotes (s : State) (t : Nat) (f : Tile → Tile) : (modTile s t f).netNotes = s.netNotes := rfl
@[simp] theorem modTile_fwRate (s : State) (t : Nat) (f : Tile → Tile) : (modTile s t f).fwRate = s.fwRate := rfl
@[simp] theorem modTile_windows (s : State) (t : Nat) (f : Tile → Tile) : (modTile s t f).windows = s.windows := rfl
@[simp] theorem modTile_bubbleNow (s : State) (t : Nat) (f : Tile → Tile) : (modTile s t f).bubbleNow = s.bubbleNow := rfl
@[simp] theorem modTile_grd (s : State) (t : Nat) (f : Tile → Tile) : (modTile s t f).grd = s.grd := rfl
@[simp] theorem modTile_badSites (s : State) (t : Nat) (f : Tile → Tile) : (modTile s t f).badSites = s.badSites := rfl
@[simp] theorem modTile_winMax (s : State) (t : Nat) (f : Tile → Tile) : (modTile s t f).winMax = s.winMax := rfl
@[simp] theorem modTile_pwr (s : State) (t : Nat) (f : Tile → Tile) : (modTile s t f).pwr = s.pwr := rfl
@[simp] theorem modTile_boot (s : State) (t : Nat) (f : Tile → Tile) : (modTile s t f).boot = s.boot := rfl
@[simp] theorem modTile_readyAt (s : State) (t : Nat) (f : Tile → Tile) : (modTile s t f).readyAt = s.readyAt := rfl
@[simp] theorem modTile_sec (s : State) (t : Nat) (f : Tile → Tile) : (modTile s t f).sec = s.sec := rfl
@[simp] theorem modTile_pairs (s : State) (t : Nat) (f : Tile → Tile) : (modTile s t f).pairs = s.pairs := rfl
@[simp] theorem modTile_neighbours (s : State) (t : Nat) (f : Tile → Tile) : (modTile s t f).neighbours = s.neighbours := rfl
@[simp] theorem modTile_lostCarry (s : State) (t : Nat) (f : Tile → Tile) : (modTile s t f).lostCarry = s.lostCarry := rfl
@[simp] theorem modTile_cleared (s : State) (t : Nat) (f : Tile → Tile) : (modTile s t f).cleared = s.cleared := rfl
@[simp] theorem modTile_upsets (s : State) (t : Nat) (f : Tile → Tile) : (modTile s t f).upsets = s.upsets := rfl
@[simp] theorem modTile_pending (s : State) (t : Nat) (f : Tile → Tile) : (modTile s t f).pending = s.pending := rfl

/-! ### setRun -/

@[simp] theorem setRun_part (s : State) (r : Nat) (x : Run) : (setRun s r x).part = s.part := rfl
@[simp] theorem setRun_regs (s : State) (r : Nat) (x : Run) : (setRun s r x).regs = s.regs := rfl
@[simp] theorem setRun_mem (s : State) (r : Nat) (x : Run) : (setRun s r x).mem = s.mem := rfl
@[simp] theorem setRun_out (s : State) (r : Nat) (x : Run) : (setRun s r x).out = s.out := rfl
@[simp] theorem setRun_freeCtr (s : State) (r : Nat) (x : Run) : (setRun s r x).freeCtr = s.freeCtr := rfl
@[simp] theorem setRun_now (s : State) (r : Nat) (x : Run) : (setRun s r x).now = s.now := rfl
@[simp] theorem setRun_todFrac (s : State) (r : Nat) (x : Run) : (setRun s r x).todFrac = s.todFrac := rfl
@[simp] theorem setRun_tiles (s : State) (r : Nat) (x : Run) : (setRun s r x).tiles = s.tiles := rfl
@[simp] theorem setRun_fabric (s : State) (r : Nat) (x : Run) : (setRun s r x).fabric = s.fabric := rfl
@[simp] theorem setRun_waiters (s : State) (r : Nat) (x : Run) : (setRun s r x).waiters = s.waiters := rfl
@[simp] theorem setRun_lockerQ (s : State) (r : Nat) (x : Run) : (setRun s r x).lockerQ = s.lockerQ := rfl
@[simp] theorem setRun_claims (s : State) (r : Nat) (x : Run) : (setRun s r x).claims = s.claims := rfl
@[simp] theorem setRun_jobs (s : State) (r : Nat) (x : Run) : (setRun s r x).jobs = s.jobs := rfl
@[simp] theorem setRun_epochs (s : State) (r : Nat) (x : Run) : (setRun s r x).epochs = s.epochs := rfl
@[simp] theorem setRun_epochAt (s : State) (r : Nat) (x : Run) : (setRun s r x).epochAt = s.epochAt := rfl
@[simp] theorem setRun_runNext (s : State) (r : Nat) (x : Run) : (setRun s r x).runNext = s.runNext := rfl
@[simp] theorem setRun_submNext (s : State) (r : Nat) (x : Run) : (setRun s r x).submNext = s.submNext := rfl
@[simp] theorem setRun_periods (s : State) (r : Nat) (x : Run) : (setRun s r x).periods = s.periods := rfl
@[simp] theorem setRun_siteMap (s : State) (r : Nat) (x : Run) : (setRun s r x).siteMap = s.siteMap := rfl
@[simp] theorem setRun_stackMap (s : State) (r : Nat) (x : Run) : (setRun s r x).stackMap = s.stackMap := rfl
@[simp] theorem setRun_parts (s : State) (r : Nat) (x : Run) : (setRun s r x).parts = s.parts := rfl
@[simp] theorem setRun_bubbles (s : State) (r : Nat) (x : Run) : (setRun s r x).bubbles = s.bubbles := rfl
@[simp] theorem setRun_descs (s : State) (r : Nat) (x : Run) : (setRun s r x).descs = s.descs := rfl
@[simp] theorem setRun_cqs (s : State) (r : Nat) (x : Run) : (setRun s r x).cqs = s.cqs := rfl
@[simp] theorem setRun_cands (s : State) (r : Nat) (x : Run) : (setRun s r x).cands = s.cands := rfl
@[simp] theorem setRun_copies (s : State) (r : Nat) (x : Run) : (setRun s r x).copies = s.copies := rfl
@[simp] theorem setRun_carries (s : State) (r : Nat) (x : Run) : (setRun s r x).carries = s.carries := rfl
@[simp] theorem setRun_heldReps (s : State) (r : Nat) (x : Run) : (setRun s r x).heldReps = s.heldReps := rfl
@[simp] theorem setRun_assocs (s : State) (r : Nat) (x : Run) : (setRun s r x).assocs = s.assocs := rfl
@[simp] theorem setRun_plans (s : State) (r : Nat) (x : Run) : (setRun s r x).plans = s.plans := rfl
@[simp] theorem setRun_spuFills (s : State) (r : Nat) (x : Run) : (setRun s r x).spuFills = s.spuFills := rfl
@[simp] theorem setRun_aud (s : State) (r : Nat) (x : Run) : (setRun s r x).aud = s.aud := rfl
@[simp] theorem setRun_undoRun (s : State) (r : Nat) (x : Run) : (setRun s r x).undoRun = s.undoRun := rfl
@[simp] theorem setRun_unitSubs (s : State) (r : Nat) (x : Run) : (setRun s r x).unitSubs = s.unitSubs := rfl
@[simp] theorem setRun_siteSubs (s : State) (r : Nat) (x : Run) : (setRun s r x).siteSubs = s.siteSubs := rfl
@[simp] theorem setRun_stackCopy (s : State) (r : Nat) (x : Run) : (setRun s r x).stackCopy = s.stackCopy := rfl
@[simp] theorem setRun_dbl (s : State) (r : Nat) (x : Run) : (setRun s r x).dbl = s.dbl := rfl
@[simp] theorem setRun_time (s : State) (r : Nat) (x : Run) : (setRun s r x).time = s.time := rfl
@[simp] theorem setRun_fns (s : State) (r : Nat) (x : Run) : (setRun s r x).fns = s.fns := rfl
@[simp] theorem setRun_zeroing (s : State) (r : Nat) (x : Run) : (setRun s r x).zeroing = s.zeroing := rfl
@[simp] theorem setRun_closings (s : State) (r : Nat) (x : Run) : (setRun s r x).closings = s.closings := rfl
@[simp] theorem setRun_netNotes (s : State) (r : Nat) (x : Run) : (setRun s r x).netNotes = s.netNotes := rfl
@[simp] theorem setRun_fwRate (s : State) (r : Nat) (x : Run) : (setRun s r x).fwRate = s.fwRate := rfl
@[simp] theorem setRun_windows (s : State) (r : Nat) (x : Run) : (setRun s r x).windows = s.windows := rfl
@[simp] theorem setRun_bubbleNow (s : State) (r : Nat) (x : Run) : (setRun s r x).bubbleNow = s.bubbleNow := rfl
@[simp] theorem setRun_grd (s : State) (r : Nat) (x : Run) : (setRun s r x).grd = s.grd := rfl
@[simp] theorem setRun_badSites (s : State) (r : Nat) (x : Run) : (setRun s r x).badSites = s.badSites := rfl
@[simp] theorem setRun_winMax (s : State) (r : Nat) (x : Run) : (setRun s r x).winMax = s.winMax := rfl
@[simp] theorem setRun_pwr (s : State) (r : Nat) (x : Run) : (setRun s r x).pwr = s.pwr := rfl
@[simp] theorem setRun_boot (s : State) (r : Nat) (x : Run) : (setRun s r x).boot = s.boot := rfl
@[simp] theorem setRun_readyAt (s : State) (r : Nat) (x : Run) : (setRun s r x).readyAt = s.readyAt := rfl
@[simp] theorem setRun_sec (s : State) (r : Nat) (x : Run) : (setRun s r x).sec = s.sec := rfl
@[simp] theorem setRun_pairs (s : State) (r : Nat) (x : Run) : (setRun s r x).pairs = s.pairs := rfl
@[simp] theorem setRun_neighbours (s : State) (r : Nat) (x : Run) : (setRun s r x).neighbours = s.neighbours := rfl
@[simp] theorem setRun_lostCarry (s : State) (r : Nat) (x : Run) : (setRun s r x).lostCarry = s.lostCarry := rfl
@[simp] theorem setRun_cleared (s : State) (r : Nat) (x : Run) : (setRun s r x).cleared = s.cleared := rfl
@[simp] theorem setRun_upsets (s : State) (r : Nat) (x : Run) : (setRun s r x).upsets = s.upsets := rfl
@[simp] theorem setRun_pending (s : State) (r : Nat) (x : Run) : (setRun s r x).pending = s.pending := rfl

/-! ### setJob -/

@[simp] theorem setJob_part (s : State) (j : Nat) (x : Job) : (setJob s j x).part = s.part := rfl
@[simp] theorem setJob_regs (s : State) (j : Nat) (x : Job) : (setJob s j x).regs = s.regs := rfl
@[simp] theorem setJob_mem (s : State) (j : Nat) (x : Job) : (setJob s j x).mem = s.mem := rfl
@[simp] theorem setJob_out (s : State) (j : Nat) (x : Job) : (setJob s j x).out = s.out := rfl
@[simp] theorem setJob_freeCtr (s : State) (j : Nat) (x : Job) : (setJob s j x).freeCtr = s.freeCtr := rfl
@[simp] theorem setJob_now (s : State) (j : Nat) (x : Job) : (setJob s j x).now = s.now := rfl
@[simp] theorem setJob_todFrac (s : State) (j : Nat) (x : Job) : (setJob s j x).todFrac = s.todFrac := rfl
@[simp] theorem setJob_tiles (s : State) (j : Nat) (x : Job) : (setJob s j x).tiles = s.tiles := rfl
@[simp] theorem setJob_fabric (s : State) (j : Nat) (x : Job) : (setJob s j x).fabric = s.fabric := rfl
@[simp] theorem setJob_waiters (s : State) (j : Nat) (x : Job) : (setJob s j x).waiters = s.waiters := rfl
@[simp] theorem setJob_lockerQ (s : State) (j : Nat) (x : Job) : (setJob s j x).lockerQ = s.lockerQ := rfl
@[simp] theorem setJob_claims (s : State) (j : Nat) (x : Job) : (setJob s j x).claims = s.claims := rfl
@[simp] theorem setJob_epochs (s : State) (j : Nat) (x : Job) : (setJob s j x).epochs = s.epochs := rfl
@[simp] theorem setJob_epochAt (s : State) (j : Nat) (x : Job) : (setJob s j x).epochAt = s.epochAt := rfl
@[simp] theorem setJob_runs (s : State) (j : Nat) (x : Job) : (setJob s j x).runs = s.runs := rfl
@[simp] theorem setJob_runNext (s : State) (j : Nat) (x : Job) : (setJob s j x).runNext = s.runNext := rfl
@[simp] theorem setJob_submNext (s : State) (j : Nat) (x : Job) : (setJob s j x).submNext = s.submNext := rfl
@[simp] theorem setJob_periods (s : State) (j : Nat) (x : Job) : (setJob s j x).periods = s.periods := rfl
@[simp] theorem setJob_siteMap (s : State) (j : Nat) (x : Job) : (setJob s j x).siteMap = s.siteMap := rfl
@[simp] theorem setJob_stackMap (s : State) (j : Nat) (x : Job) : (setJob s j x).stackMap = s.stackMap := rfl
@[simp] theorem setJob_parts (s : State) (j : Nat) (x : Job) : (setJob s j x).parts = s.parts := rfl
@[simp] theorem setJob_bubbles (s : State) (j : Nat) (x : Job) : (setJob s j x).bubbles = s.bubbles := rfl
@[simp] theorem setJob_descs (s : State) (j : Nat) (x : Job) : (setJob s j x).descs = s.descs := rfl
@[simp] theorem setJob_cqs (s : State) (j : Nat) (x : Job) : (setJob s j x).cqs = s.cqs := rfl
@[simp] theorem setJob_cands (s : State) (j : Nat) (x : Job) : (setJob s j x).cands = s.cands := rfl
@[simp] theorem setJob_copies (s : State) (j : Nat) (x : Job) : (setJob s j x).copies = s.copies := rfl
@[simp] theorem setJob_carries (s : State) (j : Nat) (x : Job) : (setJob s j x).carries = s.carries := rfl
@[simp] theorem setJob_heldReps (s : State) (j : Nat) (x : Job) : (setJob s j x).heldReps = s.heldReps := rfl
@[simp] theorem setJob_assocs (s : State) (j : Nat) (x : Job) : (setJob s j x).assocs = s.assocs := rfl
@[simp] theorem setJob_plans (s : State) (j : Nat) (x : Job) : (setJob s j x).plans = s.plans := rfl
@[simp] theorem setJob_spuFills (s : State) (j : Nat) (x : Job) : (setJob s j x).spuFills = s.spuFills := rfl
@[simp] theorem setJob_aud (s : State) (j : Nat) (x : Job) : (setJob s j x).aud = s.aud := rfl
@[simp] theorem setJob_undoRun (s : State) (j : Nat) (x : Job) : (setJob s j x).undoRun = s.undoRun := rfl
@[simp] theorem setJob_unitSubs (s : State) (j : Nat) (x : Job) : (setJob s j x).unitSubs = s.unitSubs := rfl
@[simp] theorem setJob_siteSubs (s : State) (j : Nat) (x : Job) : (setJob s j x).siteSubs = s.siteSubs := rfl
@[simp] theorem setJob_stackCopy (s : State) (j : Nat) (x : Job) : (setJob s j x).stackCopy = s.stackCopy := rfl
@[simp] theorem setJob_dbl (s : State) (j : Nat) (x : Job) : (setJob s j x).dbl = s.dbl := rfl
@[simp] theorem setJob_time (s : State) (j : Nat) (x : Job) : (setJob s j x).time = s.time := rfl
@[simp] theorem setJob_fns (s : State) (j : Nat) (x : Job) : (setJob s j x).fns = s.fns := rfl
@[simp] theorem setJob_zeroing (s : State) (j : Nat) (x : Job) : (setJob s j x).zeroing = s.zeroing := rfl
@[simp] theorem setJob_closings (s : State) (j : Nat) (x : Job) : (setJob s j x).closings = s.closings := rfl
@[simp] theorem setJob_netNotes (s : State) (j : Nat) (x : Job) : (setJob s j x).netNotes = s.netNotes := rfl
@[simp] theorem setJob_fwRate (s : State) (j : Nat) (x : Job) : (setJob s j x).fwRate = s.fwRate := rfl
@[simp] theorem setJob_windows (s : State) (j : Nat) (x : Job) : (setJob s j x).windows = s.windows := rfl
@[simp] theorem setJob_bubbleNow (s : State) (j : Nat) (x : Job) : (setJob s j x).bubbleNow = s.bubbleNow := rfl
@[simp] theorem setJob_grd (s : State) (j : Nat) (x : Job) : (setJob s j x).grd = s.grd := rfl
@[simp] theorem setJob_badSites (s : State) (j : Nat) (x : Job) : (setJob s j x).badSites = s.badSites := rfl
@[simp] theorem setJob_winMax (s : State) (j : Nat) (x : Job) : (setJob s j x).winMax = s.winMax := rfl
@[simp] theorem setJob_pwr (s : State) (j : Nat) (x : Job) : (setJob s j x).pwr = s.pwr := rfl
@[simp] theorem setJob_boot (s : State) (j : Nat) (x : Job) : (setJob s j x).boot = s.boot := rfl
@[simp] theorem setJob_readyAt (s : State) (j : Nat) (x : Job) : (setJob s j x).readyAt = s.readyAt := rfl
@[simp] theorem setJob_sec (s : State) (j : Nat) (x : Job) : (setJob s j x).sec = s.sec := rfl
@[simp] theorem setJob_pairs (s : State) (j : Nat) (x : Job) : (setJob s j x).pairs = s.pairs := rfl
@[simp] theorem setJob_neighbours (s : State) (j : Nat) (x : Job) : (setJob s j x).neighbours = s.neighbours := rfl
@[simp] theorem setJob_lostCarry (s : State) (j : Nat) (x : Job) : (setJob s j x).lostCarry = s.lostCarry := rfl
@[simp] theorem setJob_cleared (s : State) (j : Nat) (x : Job) : (setJob s j x).cleared = s.cleared := rfl
@[simp] theorem setJob_upsets (s : State) (j : Nat) (x : Job) : (setJob s j x).upsets = s.upsets := rfl
@[simp] theorem setJob_pending (s : State) (j : Nat) (x : Job) : (setJob s j x).pending = s.pending := rfl

/-! ### setPeriod -/

@[simp] theorem setPeriod_part (s : State) (q : Nat) (x : Period) : (setPeriod s q x).part = s.part := rfl
@[simp] theorem setPeriod_regs (s : State) (q : Nat) (x : Period) : (setPeriod s q x).regs = s.regs := rfl
@[simp] theorem setPeriod_mem (s : State) (q : Nat) (x : Period) : (setPeriod s q x).mem = s.mem := rfl
@[simp] theorem setPeriod_out (s : State) (q : Nat) (x : Period) : (setPeriod s q x).out = s.out := rfl
@[simp] theorem setPeriod_freeCtr (s : State) (q : Nat) (x : Period) : (setPeriod s q x).freeCtr = s.freeCtr := rfl
@[simp] theorem setPeriod_now (s : State) (q : Nat) (x : Period) : (setPeriod s q x).now = s.now := rfl
@[simp] theorem setPeriod_todFrac (s : State) (q : Nat) (x : Period) : (setPeriod s q x).todFrac = s.todFrac := rfl
@[simp] theorem setPeriod_tiles (s : State) (q : Nat) (x : Period) : (setPeriod s q x).tiles = s.tiles := rfl
@[simp] theorem setPeriod_fabric (s : State) (q : Nat) (x : Period) : (setPeriod s q x).fabric = s.fabric := rfl
@[simp] theorem setPeriod_waiters (s : State) (q : Nat) (x : Period) : (setPeriod s q x).waiters = s.waiters := rfl
@[simp] theorem setPeriod_lockerQ (s : State) (q : Nat) (x : Period) : (setPeriod s q x).lockerQ = s.lockerQ := rfl
@[simp] theorem setPeriod_claims (s : State) (q : Nat) (x : Period) : (setPeriod s q x).claims = s.claims := rfl
@[simp] theorem setPeriod_jobs (s : State) (q : Nat) (x : Period) : (setPeriod s q x).jobs = s.jobs := rfl
@[simp] theorem setPeriod_epochs (s : State) (q : Nat) (x : Period) : (setPeriod s q x).epochs = s.epochs := rfl
@[simp] theorem setPeriod_epochAt (s : State) (q : Nat) (x : Period) : (setPeriod s q x).epochAt = s.epochAt := rfl
@[simp] theorem setPeriod_runs (s : State) (q : Nat) (x : Period) : (setPeriod s q x).runs = s.runs := rfl
@[simp] theorem setPeriod_runNext (s : State) (q : Nat) (x : Period) : (setPeriod s q x).runNext = s.runNext := rfl
@[simp] theorem setPeriod_submNext (s : State) (q : Nat) (x : Period) : (setPeriod s q x).submNext = s.submNext := rfl
@[simp] theorem setPeriod_siteMap (s : State) (q : Nat) (x : Period) : (setPeriod s q x).siteMap = s.siteMap := rfl
@[simp] theorem setPeriod_stackMap (s : State) (q : Nat) (x : Period) : (setPeriod s q x).stackMap = s.stackMap := rfl
@[simp] theorem setPeriod_parts (s : State) (q : Nat) (x : Period) : (setPeriod s q x).parts = s.parts := rfl
@[simp] theorem setPeriod_bubbles (s : State) (q : Nat) (x : Period) : (setPeriod s q x).bubbles = s.bubbles := rfl
@[simp] theorem setPeriod_descs (s : State) (q : Nat) (x : Period) : (setPeriod s q x).descs = s.descs := rfl
@[simp] theorem setPeriod_cqs (s : State) (q : Nat) (x : Period) : (setPeriod s q x).cqs = s.cqs := rfl
@[simp] theorem setPeriod_cands (s : State) (q : Nat) (x : Period) : (setPeriod s q x).cands = s.cands := rfl
@[simp] theorem setPeriod_copies (s : State) (q : Nat) (x : Period) : (setPeriod s q x).copies = s.copies := rfl
@[simp] theorem setPeriod_carries (s : State) (q : Nat) (x : Period) : (setPeriod s q x).carries = s.carries := rfl
@[simp] theorem setPeriod_heldReps (s : State) (q : Nat) (x : Period) : (setPeriod s q x).heldReps = s.heldReps := rfl
@[simp] theorem setPeriod_assocs (s : State) (q : Nat) (x : Period) : (setPeriod s q x).assocs = s.assocs := rfl
@[simp] theorem setPeriod_plans (s : State) (q : Nat) (x : Period) : (setPeriod s q x).plans = s.plans := rfl
@[simp] theorem setPeriod_spuFills (s : State) (q : Nat) (x : Period) : (setPeriod s q x).spuFills = s.spuFills := rfl
@[simp] theorem setPeriod_aud (s : State) (q : Nat) (x : Period) : (setPeriod s q x).aud = s.aud := rfl
@[simp] theorem setPeriod_undoRun (s : State) (q : Nat) (x : Period) : (setPeriod s q x).undoRun = s.undoRun := rfl
@[simp] theorem setPeriod_unitSubs (s : State) (q : Nat) (x : Period) : (setPeriod s q x).unitSubs = s.unitSubs := rfl
@[simp] theorem setPeriod_siteSubs (s : State) (q : Nat) (x : Period) : (setPeriod s q x).siteSubs = s.siteSubs := rfl
@[simp] theorem setPeriod_stackCopy (s : State) (q : Nat) (x : Period) : (setPeriod s q x).stackCopy = s.stackCopy := rfl
@[simp] theorem setPeriod_dbl (s : State) (q : Nat) (x : Period) : (setPeriod s q x).dbl = s.dbl := rfl
@[simp] theorem setPeriod_time (s : State) (q : Nat) (x : Period) : (setPeriod s q x).time = s.time := rfl
@[simp] theorem setPeriod_fns (s : State) (q : Nat) (x : Period) : (setPeriod s q x).fns = s.fns := rfl
@[simp] theorem setPeriod_zeroing (s : State) (q : Nat) (x : Period) : (setPeriod s q x).zeroing = s.zeroing := rfl
@[simp] theorem setPeriod_closings (s : State) (q : Nat) (x : Period) : (setPeriod s q x).closings = s.closings := rfl
@[simp] theorem setPeriod_netNotes (s : State) (q : Nat) (x : Period) : (setPeriod s q x).netNotes = s.netNotes := rfl
@[simp] theorem setPeriod_fwRate (s : State) (q : Nat) (x : Period) : (setPeriod s q x).fwRate = s.fwRate := rfl
@[simp] theorem setPeriod_windows (s : State) (q : Nat) (x : Period) : (setPeriod s q x).windows = s.windows := rfl
@[simp] theorem setPeriod_bubbleNow (s : State) (q : Nat) (x : Period) : (setPeriod s q x).bubbleNow = s.bubbleNow := rfl
@[simp] theorem setPeriod_grd (s : State) (q : Nat) (x : Period) : (setPeriod s q x).grd = s.grd := rfl
@[simp] theorem setPeriod_badSites (s : State) (q : Nat) (x : Period) : (setPeriod s q x).badSites = s.badSites := rfl
@[simp] theorem setPeriod_winMax (s : State) (q : Nat) (x : Period) : (setPeriod s q x).winMax = s.winMax := rfl
@[simp] theorem setPeriod_pwr (s : State) (q : Nat) (x : Period) : (setPeriod s q x).pwr = s.pwr := rfl
@[simp] theorem setPeriod_boot (s : State) (q : Nat) (x : Period) : (setPeriod s q x).boot = s.boot := rfl
@[simp] theorem setPeriod_readyAt (s : State) (q : Nat) (x : Period) : (setPeriod s q x).readyAt = s.readyAt := rfl
@[simp] theorem setPeriod_sec (s : State) (q : Nat) (x : Period) : (setPeriod s q x).sec = s.sec := rfl
@[simp] theorem setPeriod_pairs (s : State) (q : Nat) (x : Period) : (setPeriod s q x).pairs = s.pairs := rfl
@[simp] theorem setPeriod_neighbours (s : State) (q : Nat) (x : Period) : (setPeriod s q x).neighbours = s.neighbours := rfl
@[simp] theorem setPeriod_lostCarry (s : State) (q : Nat) (x : Period) : (setPeriod s q x).lostCarry = s.lostCarry := rfl
@[simp] theorem setPeriod_cleared (s : State) (q : Nat) (x : Period) : (setPeriod s q x).cleared = s.cleared := rfl
@[simp] theorem setPeriod_upsets (s : State) (q : Nat) (x : Period) : (setPeriod s q x).upsets = s.upsets := rfl
@[simp] theorem setPeriod_pending (s : State) (q : Nat) (x : Period) : (setPeriod s q x).pending = s.pending := rfl

/-! ### modFn -/

@[simp] theorem modFn_part (s : State) (n : Nat) (f : HostFn → HostFn) : (modFn s n f).part = s.part := rfl
@[simp] theorem modFn_regs (s : State) (n : Nat) (f : HostFn → HostFn) : (modFn s n f).regs = s.regs := rfl
@[simp] theorem modFn_mem (s : State) (n : Nat) (f : HostFn → HostFn) : (modFn s n f).mem = s.mem := rfl
@[simp] theorem modFn_out (s : State) (n : Nat) (f : HostFn → HostFn) : (modFn s n f).out = s.out := rfl
@[simp] theorem modFn_freeCtr (s : State) (n : Nat) (f : HostFn → HostFn) : (modFn s n f).freeCtr = s.freeCtr := rfl
@[simp] theorem modFn_now (s : State) (n : Nat) (f : HostFn → HostFn) : (modFn s n f).now = s.now := rfl
@[simp] theorem modFn_todFrac (s : State) (n : Nat) (f : HostFn → HostFn) : (modFn s n f).todFrac = s.todFrac := rfl
@[simp] theorem modFn_tiles (s : State) (n : Nat) (f : HostFn → HostFn) : (modFn s n f).tiles = s.tiles := rfl
@[simp] theorem modFn_fabric (s : State) (n : Nat) (f : HostFn → HostFn) : (modFn s n f).fabric = s.fabric := rfl
@[simp] theorem modFn_waiters (s : State) (n : Nat) (f : HostFn → HostFn) : (modFn s n f).waiters = s.waiters := rfl
@[simp] theorem modFn_lockerQ (s : State) (n : Nat) (f : HostFn → HostFn) : (modFn s n f).lockerQ = s.lockerQ := rfl
@[simp] theorem modFn_claims (s : State) (n : Nat) (f : HostFn → HostFn) : (modFn s n f).claims = s.claims := rfl
@[simp] theorem modFn_jobs (s : State) (n : Nat) (f : HostFn → HostFn) : (modFn s n f).jobs = s.jobs := rfl
@[simp] theorem modFn_epochs (s : State) (n : Nat) (f : HostFn → HostFn) : (modFn s n f).epochs = s.epochs := rfl
@[simp] theorem modFn_epochAt (s : State) (n : Nat) (f : HostFn → HostFn) : (modFn s n f).epochAt = s.epochAt := rfl
@[simp] theorem modFn_runs (s : State) (n : Nat) (f : HostFn → HostFn) : (modFn s n f).runs = s.runs := rfl
@[simp] theorem modFn_runNext (s : State) (n : Nat) (f : HostFn → HostFn) : (modFn s n f).runNext = s.runNext := rfl
@[simp] theorem modFn_submNext (s : State) (n : Nat) (f : HostFn → HostFn) : (modFn s n f).submNext = s.submNext := rfl
@[simp] theorem modFn_periods (s : State) (n : Nat) (f : HostFn → HostFn) : (modFn s n f).periods = s.periods := rfl
@[simp] theorem modFn_siteMap (s : State) (n : Nat) (f : HostFn → HostFn) : (modFn s n f).siteMap = s.siteMap := rfl
@[simp] theorem modFn_stackMap (s : State) (n : Nat) (f : HostFn → HostFn) : (modFn s n f).stackMap = s.stackMap := rfl
@[simp] theorem modFn_parts (s : State) (n : Nat) (f : HostFn → HostFn) : (modFn s n f).parts = s.parts := rfl
@[simp] theorem modFn_bubbles (s : State) (n : Nat) (f : HostFn → HostFn) : (modFn s n f).bubbles = s.bubbles := rfl
@[simp] theorem modFn_descs (s : State) (n : Nat) (f : HostFn → HostFn) : (modFn s n f).descs = s.descs := rfl
@[simp] theorem modFn_cqs (s : State) (n : Nat) (f : HostFn → HostFn) : (modFn s n f).cqs = s.cqs := rfl
@[simp] theorem modFn_cands (s : State) (n : Nat) (f : HostFn → HostFn) : (modFn s n f).cands = s.cands := rfl
@[simp] theorem modFn_copies (s : State) (n : Nat) (f : HostFn → HostFn) : (modFn s n f).copies = s.copies := rfl
@[simp] theorem modFn_carries (s : State) (n : Nat) (f : HostFn → HostFn) : (modFn s n f).carries = s.carries := rfl
@[simp] theorem modFn_heldReps (s : State) (n : Nat) (f : HostFn → HostFn) : (modFn s n f).heldReps = s.heldReps := rfl
@[simp] theorem modFn_assocs (s : State) (n : Nat) (f : HostFn → HostFn) : (modFn s n f).assocs = s.assocs := rfl
@[simp] theorem modFn_plans (s : State) (n : Nat) (f : HostFn → HostFn) : (modFn s n f).plans = s.plans := rfl
@[simp] theorem modFn_spuFills (s : State) (n : Nat) (f : HostFn → HostFn) : (modFn s n f).spuFills = s.spuFills := rfl
@[simp] theorem modFn_aud (s : State) (n : Nat) (f : HostFn → HostFn) : (modFn s n f).aud = s.aud := rfl
@[simp] theorem modFn_undoRun (s : State) (n : Nat) (f : HostFn → HostFn) : (modFn s n f).undoRun = s.undoRun := rfl
@[simp] theorem modFn_unitSubs (s : State) (n : Nat) (f : HostFn → HostFn) : (modFn s n f).unitSubs = s.unitSubs := rfl
@[simp] theorem modFn_siteSubs (s : State) (n : Nat) (f : HostFn → HostFn) : (modFn s n f).siteSubs = s.siteSubs := rfl
@[simp] theorem modFn_stackCopy (s : State) (n : Nat) (f : HostFn → HostFn) : (modFn s n f).stackCopy = s.stackCopy := rfl
@[simp] theorem modFn_dbl (s : State) (n : Nat) (f : HostFn → HostFn) : (modFn s n f).dbl = s.dbl := rfl
@[simp] theorem modFn_time (s : State) (n : Nat) (f : HostFn → HostFn) : (modFn s n f).time = s.time := rfl
@[simp] theorem modFn_zeroing (s : State) (n : Nat) (f : HostFn → HostFn) : (modFn s n f).zeroing = s.zeroing := rfl
@[simp] theorem modFn_closings (s : State) (n : Nat) (f : HostFn → HostFn) : (modFn s n f).closings = s.closings := rfl
@[simp] theorem modFn_netNotes (s : State) (n : Nat) (f : HostFn → HostFn) : (modFn s n f).netNotes = s.netNotes := rfl
@[simp] theorem modFn_fwRate (s : State) (n : Nat) (f : HostFn → HostFn) : (modFn s n f).fwRate = s.fwRate := rfl
@[simp] theorem modFn_windows (s : State) (n : Nat) (f : HostFn → HostFn) : (modFn s n f).windows = s.windows := rfl
@[simp] theorem modFn_bubbleNow (s : State) (n : Nat) (f : HostFn → HostFn) : (modFn s n f).bubbleNow = s.bubbleNow := rfl
@[simp] theorem modFn_grd (s : State) (n : Nat) (f : HostFn → HostFn) : (modFn s n f).grd = s.grd := rfl
@[simp] theorem modFn_badSites (s : State) (n : Nat) (f : HostFn → HostFn) : (modFn s n f).badSites = s.badSites := rfl
@[simp] theorem modFn_winMax (s : State) (n : Nat) (f : HostFn → HostFn) : (modFn s n f).winMax = s.winMax := rfl
@[simp] theorem modFn_pwr (s : State) (n : Nat) (f : HostFn → HostFn) : (modFn s n f).pwr = s.pwr := rfl
@[simp] theorem modFn_boot (s : State) (n : Nat) (f : HostFn → HostFn) : (modFn s n f).boot = s.boot := rfl
@[simp] theorem modFn_readyAt (s : State) (n : Nat) (f : HostFn → HostFn) : (modFn s n f).readyAt = s.readyAt := rfl
@[simp] theorem modFn_sec (s : State) (n : Nat) (f : HostFn → HostFn) : (modFn s n f).sec = s.sec := rfl
@[simp] theorem modFn_pairs (s : State) (n : Nat) (f : HostFn → HostFn) : (modFn s n f).pairs = s.pairs := rfl
@[simp] theorem modFn_neighbours (s : State) (n : Nat) (f : HostFn → HostFn) : (modFn s n f).neighbours = s.neighbours := rfl
@[simp] theorem modFn_lostCarry (s : State) (n : Nat) (f : HostFn → HostFn) : (modFn s n f).lostCarry = s.lostCarry := rfl
@[simp] theorem modFn_cleared (s : State) (n : Nat) (f : HostFn → HostFn) : (modFn s n f).cleared = s.cleared := rfl
@[simp] theorem modFn_upsets (s : State) (n : Nat) (f : HostFn → HostFn) : (modFn s n f).upsets = s.upsets := rfl
@[simp] theorem modFn_pending (s : State) (n : Nat) (f : HostFn → HostFn) : (modFn s n f).pending = s.pending := rfl

/-! ### setBoot -/

@[simp] theorem setBoot_part (s : State) (n : Nat) : (setBoot s n).part = s.part := rfl
@[simp] theorem setBoot_mem (s : State) (n : Nat) : (setBoot s n).mem = s.mem := rfl
@[simp] theorem setBoot_freeCtr (s : State) (n : Nat) : (setBoot s n).freeCtr = s.freeCtr := rfl
@[simp] theorem setBoot_now (s : State) (n : Nat) : (setBoot s n).now = s.now := rfl
@[simp] theorem setBoot_todFrac (s : State) (n : Nat) : (setBoot s n).todFrac = s.todFrac := rfl
@[simp] theorem setBoot_tiles (s : State) (n : Nat) : (setBoot s n).tiles = s.tiles := rfl
@[simp] theorem setBoot_fabric (s : State) (n : Nat) : (setBoot s n).fabric = s.fabric := rfl
@[simp] theorem setBoot_waiters (s : State) (n : Nat) : (setBoot s n).waiters = s.waiters := rfl
@[simp] theorem setBoot_lockerQ (s : State) (n : Nat) : (setBoot s n).lockerQ = s.lockerQ := rfl
@[simp] theorem setBoot_claims (s : State) (n : Nat) : (setBoot s n).claims = s.claims := rfl
@[simp] theorem setBoot_jobs (s : State) (n : Nat) : (setBoot s n).jobs = s.jobs := rfl
@[simp] theorem setBoot_epochs (s : State) (n : Nat) : (setBoot s n).epochs = s.epochs := rfl
@[simp] theorem setBoot_epochAt (s : State) (n : Nat) : (setBoot s n).epochAt = s.epochAt := rfl
@[simp] theorem setBoot_runs (s : State) (n : Nat) : (setBoot s n).runs = s.runs := rfl
@[simp] theorem setBoot_runNext (s : State) (n : Nat) : (setBoot s n).runNext = s.runNext := rfl
@[simp] theorem setBoot_submNext (s : State) (n : Nat) : (setBoot s n).submNext = s.submNext := rfl
@[simp] theorem setBoot_periods (s : State) (n : Nat) : (setBoot s n).periods = s.periods := rfl
@[simp] theorem setBoot_siteMap (s : State) (n : Nat) : (setBoot s n).siteMap = s.siteMap := rfl
@[simp] theorem setBoot_stackMap (s : State) (n : Nat) : (setBoot s n).stackMap = s.stackMap := rfl
@[simp] theorem setBoot_parts (s : State) (n : Nat) : (setBoot s n).parts = s.parts := rfl
@[simp] theorem setBoot_bubbles (s : State) (n : Nat) : (setBoot s n).bubbles = s.bubbles := rfl
@[simp] theorem setBoot_descs (s : State) (n : Nat) : (setBoot s n).descs = s.descs := rfl
@[simp] theorem setBoot_cqs (s : State) (n : Nat) : (setBoot s n).cqs = s.cqs := rfl
@[simp] theorem setBoot_cands (s : State) (n : Nat) : (setBoot s n).cands = s.cands := rfl
@[simp] theorem setBoot_copies (s : State) (n : Nat) : (setBoot s n).copies = s.copies := rfl
@[simp] theorem setBoot_carries (s : State) (n : Nat) : (setBoot s n).carries = s.carries := rfl
@[simp] theorem setBoot_heldReps (s : State) (n : Nat) : (setBoot s n).heldReps = s.heldReps := rfl
@[simp] theorem setBoot_assocs (s : State) (n : Nat) : (setBoot s n).assocs = s.assocs := rfl
@[simp] theorem setBoot_plans (s : State) (n : Nat) : (setBoot s n).plans = s.plans := rfl
@[simp] theorem setBoot_spuFills (s : State) (n : Nat) : (setBoot s n).spuFills = s.spuFills := rfl
@[simp] theorem setBoot_aud (s : State) (n : Nat) : (setBoot s n).aud = s.aud := rfl
@[simp] theorem setBoot_undoRun (s : State) (n : Nat) : (setBoot s n).undoRun = s.undoRun := rfl
@[simp] theorem setBoot_unitSubs (s : State) (n : Nat) : (setBoot s n).unitSubs = s.unitSubs := rfl
@[simp] theorem setBoot_siteSubs (s : State) (n : Nat) : (setBoot s n).siteSubs = s.siteSubs := rfl
@[simp] theorem setBoot_stackCopy (s : State) (n : Nat) : (setBoot s n).stackCopy = s.stackCopy := rfl
@[simp] theorem setBoot_dbl (s : State) (n : Nat) : (setBoot s n).dbl = s.dbl := rfl
@[simp] theorem setBoot_time (s : State) (n : Nat) : (setBoot s n).time = s.time := rfl
@[simp] theorem setBoot_fns (s : State) (n : Nat) : (setBoot s n).fns = s.fns := rfl
@[simp] theorem setBoot_zeroing (s : State) (n : Nat) : (setBoot s n).zeroing = s.zeroing := rfl
@[simp] theorem setBoot_closings (s : State) (n : Nat) : (setBoot s n).closings = s.closings := rfl
@[simp] theorem setBoot_netNotes (s : State) (n : Nat) : (setBoot s n).netNotes = s.netNotes := rfl
@[simp] theorem setBoot_fwRate (s : State) (n : Nat) : (setBoot s n).fwRate = s.fwRate := rfl
@[simp] theorem setBoot_windows (s : State) (n : Nat) : (setBoot s n).windows = s.windows := rfl
@[simp] theorem setBoot_bubbleNow (s : State) (n : Nat) : (setBoot s n).bubbleNow = s.bubbleNow := rfl
@[simp] theorem setBoot_grd (s : State) (n : Nat) : (setBoot s n).grd = s.grd := rfl
@[simp] theorem setBoot_badSites (s : State) (n : Nat) : (setBoot s n).badSites = s.badSites := rfl
@[simp] theorem setBoot_winMax (s : State) (n : Nat) : (setBoot s n).winMax = s.winMax := rfl
@[simp] theorem setBoot_pwr (s : State) (n : Nat) : (setBoot s n).pwr = s.pwr := rfl
@[simp] theorem setBoot_boot (s : State) (n : Nat) : (setBoot s n).boot = s.boot := rfl
@[simp] theorem setBoot_readyAt (s : State) (n : Nat) : (setBoot s n).readyAt = s.readyAt := rfl
@[simp] theorem setBoot_sec (s : State) (n : Nat) : (setBoot s n).sec = s.sec := rfl
@[simp] theorem setBoot_pairs (s : State) (n : Nat) : (setBoot s n).pairs = s.pairs := rfl
@[simp] theorem setBoot_neighbours (s : State) (n : Nat) : (setBoot s n).neighbours = s.neighbours := rfl
@[simp] theorem setBoot_lostCarry (s : State) (n : Nat) : (setBoot s n).lostCarry = s.lostCarry := rfl
@[simp] theorem setBoot_cleared (s : State) (n : Nat) : (setBoot s n).cleared = s.cleared := rfl
@[simp] theorem setBoot_upsets (s : State) (n : Nat) : (setBoot s n).upsets = s.upsets := rfl
@[simp] theorem setBoot_pending (s : State) (n : Nat) : (setBoot s n).pending = s.pending := rfl

/-! ### writeByte -/

@[simp] theorem writeByte_part (s : State) (a : Nat) (b : Byte) : (writeByte s a b).part = s.part := rfl
@[simp] theorem writeByte_regs (s : State) (a : Nat) (b : Byte) : (writeByte s a b).regs = s.regs := rfl
@[simp] theorem writeByte_out (s : State) (a : Nat) (b : Byte) : (writeByte s a b).out = s.out := rfl
@[simp] theorem writeByte_freeCtr (s : State) (a : Nat) (b : Byte) : (writeByte s a b).freeCtr = s.freeCtr := rfl
@[simp] theorem writeByte_now (s : State) (a : Nat) (b : Byte) : (writeByte s a b).now = s.now := rfl
@[simp] theorem writeByte_todFrac (s : State) (a : Nat) (b : Byte) : (writeByte s a b).todFrac = s.todFrac := rfl
@[simp] theorem writeByte_tiles (s : State) (a : Nat) (b : Byte) : (writeByte s a b).tiles = s.tiles := rfl
@[simp] theorem writeByte_fabric (s : State) (a : Nat) (b : Byte) : (writeByte s a b).fabric = s.fabric := rfl
@[simp] theorem writeByte_waiters (s : State) (a : Nat) (b : Byte) : (writeByte s a b).waiters = s.waiters := rfl
@[simp] theorem writeByte_lockerQ (s : State) (a : Nat) (b : Byte) : (writeByte s a b).lockerQ = s.lockerQ := rfl
@[simp] theorem writeByte_claims (s : State) (a : Nat) (b : Byte) : (writeByte s a b).claims = s.claims := rfl
@[simp] theorem writeByte_jobs (s : State) (a : Nat) (b : Byte) : (writeByte s a b).jobs = s.jobs := rfl
@[simp] theorem writeByte_epochs (s : State) (a : Nat) (b : Byte) : (writeByte s a b).epochs = s.epochs := rfl
@[simp] theorem writeByte_epochAt (s : State) (a : Nat) (b : Byte) : (writeByte s a b).epochAt = s.epochAt := rfl
@[simp] theorem writeByte_runs (s : State) (a : Nat) (b : Byte) : (writeByte s a b).runs = s.runs := rfl
@[simp] theorem writeByte_runNext (s : State) (a : Nat) (b : Byte) : (writeByte s a b).runNext = s.runNext := rfl
@[simp] theorem writeByte_submNext (s : State) (a : Nat) (b : Byte) : (writeByte s a b).submNext = s.submNext := rfl
@[simp] theorem writeByte_periods (s : State) (a : Nat) (b : Byte) : (writeByte s a b).periods = s.periods := rfl
@[simp] theorem writeByte_siteMap (s : State) (a : Nat) (b : Byte) : (writeByte s a b).siteMap = s.siteMap := rfl
@[simp] theorem writeByte_stackMap (s : State) (a : Nat) (b : Byte) : (writeByte s a b).stackMap = s.stackMap := rfl
@[simp] theorem writeByte_parts (s : State) (a : Nat) (b : Byte) : (writeByte s a b).parts = s.parts := rfl
@[simp] theorem writeByte_bubbles (s : State) (a : Nat) (b : Byte) : (writeByte s a b).bubbles = s.bubbles := rfl
@[simp] theorem writeByte_descs (s : State) (a : Nat) (b : Byte) : (writeByte s a b).descs = s.descs := rfl
@[simp] theorem writeByte_cqs (s : State) (a : Nat) (b : Byte) : (writeByte s a b).cqs = s.cqs := rfl
@[simp] theorem writeByte_cands (s : State) (a : Nat) (b : Byte) : (writeByte s a b).cands = s.cands := rfl
@[simp] theorem writeByte_copies (s : State) (a : Nat) (b : Byte) : (writeByte s a b).copies = s.copies := rfl
@[simp] theorem writeByte_carries (s : State) (a : Nat) (b : Byte) : (writeByte s a b).carries = s.carries := rfl
@[simp] theorem writeByte_heldReps (s : State) (a : Nat) (b : Byte) : (writeByte s a b).heldReps = s.heldReps := rfl
@[simp] theorem writeByte_assocs (s : State) (a : Nat) (b : Byte) : (writeByte s a b).assocs = s.assocs := rfl
@[simp] theorem writeByte_plans (s : State) (a : Nat) (b : Byte) : (writeByte s a b).plans = s.plans := rfl
@[simp] theorem writeByte_spuFills (s : State) (a : Nat) (b : Byte) : (writeByte s a b).spuFills = s.spuFills := rfl
@[simp] theorem writeByte_aud (s : State) (a : Nat) (b : Byte) : (writeByte s a b).aud = s.aud := rfl
@[simp] theorem writeByte_undoRun (s : State) (a : Nat) (b : Byte) : (writeByte s a b).undoRun = s.undoRun := rfl
@[simp] theorem writeByte_unitSubs (s : State) (a : Nat) (b : Byte) : (writeByte s a b).unitSubs = s.unitSubs := rfl
@[simp] theorem writeByte_siteSubs (s : State) (a : Nat) (b : Byte) : (writeByte s a b).siteSubs = s.siteSubs := rfl
@[simp] theorem writeByte_stackCopy (s : State) (a : Nat) (b : Byte) : (writeByte s a b).stackCopy = s.stackCopy := rfl
@[simp] theorem writeByte_dbl (s : State) (a : Nat) (b : Byte) : (writeByte s a b).dbl = s.dbl := rfl
@[simp] theorem writeByte_time (s : State) (a : Nat) (b : Byte) : (writeByte s a b).time = s.time := rfl
@[simp] theorem writeByte_fns (s : State) (a : Nat) (b : Byte) : (writeByte s a b).fns = s.fns := rfl
@[simp] theorem writeByte_zeroing (s : State) (a : Nat) (b : Byte) : (writeByte s a b).zeroing = s.zeroing := rfl
@[simp] theorem writeByte_closings (s : State) (a : Nat) (b : Byte) : (writeByte s a b).closings = s.closings := rfl
@[simp] theorem writeByte_netNotes (s : State) (a : Nat) (b : Byte) : (writeByte s a b).netNotes = s.netNotes := rfl
@[simp] theorem writeByte_fwRate (s : State) (a : Nat) (b : Byte) : (writeByte s a b).fwRate = s.fwRate := rfl
@[simp] theorem writeByte_windows (s : State) (a : Nat) (b : Byte) : (writeByte s a b).windows = s.windows := rfl
@[simp] theorem writeByte_bubbleNow (s : State) (a : Nat) (b : Byte) : (writeByte s a b).bubbleNow = s.bubbleNow := rfl
@[simp] theorem writeByte_grd (s : State) (a : Nat) (b : Byte) : (writeByte s a b).grd = s.grd := rfl
@[simp] theorem writeByte_badSites (s : State) (a : Nat) (b : Byte) : (writeByte s a b).badSites = s.badSites := rfl
@[simp] theorem writeByte_winMax (s : State) (a : Nat) (b : Byte) : (writeByte s a b).winMax = s.winMax := rfl
@[simp] theorem writeByte_pwr (s : State) (a : Nat) (b : Byte) : (writeByte s a b).pwr = s.pwr := rfl
@[simp] theorem writeByte_boot (s : State) (a : Nat) (b : Byte) : (writeByte s a b).boot = s.boot := rfl
@[simp] theorem writeByte_readyAt (s : State) (a : Nat) (b : Byte) : (writeByte s a b).readyAt = s.readyAt := rfl
@[simp] theorem writeByte_sec (s : State) (a : Nat) (b : Byte) : (writeByte s a b).sec = s.sec := rfl
@[simp] theorem writeByte_pairs (s : State) (a : Nat) (b : Byte) : (writeByte s a b).pairs = s.pairs := rfl
@[simp] theorem writeByte_neighbours (s : State) (a : Nat) (b : Byte) : (writeByte s a b).neighbours = s.neighbours := rfl
@[simp] theorem writeByte_lostCarry (s : State) (a : Nat) (b : Byte) : (writeByte s a b).lostCarry = s.lostCarry := rfl
@[simp] theorem writeByte_cleared (s : State) (a : Nat) (b : Byte) : (writeByte s a b).cleared = s.cleared := rfl
@[simp] theorem writeByte_upsets (s : State) (a : Nat) (b : Byte) : (writeByte s a b).upsets = s.upsets := rfl
@[simp] theorem writeByte_pending (s : State) (a : Nat) (b : Byte) : (writeByte s a b).pending = s.pending := rfl

/-! ### zeroSpan -/

@[simp] theorem zeroSpan_part (s : State) (a n : Nat) : (zeroSpan s a n).part = s.part := rfl
@[simp] theorem zeroSpan_regs (s : State) (a n : Nat) : (zeroSpan s a n).regs = s.regs := rfl
@[simp] theorem zeroSpan_out (s : State) (a n : Nat) : (zeroSpan s a n).out = s.out := rfl
@[simp] theorem zeroSpan_freeCtr (s : State) (a n : Nat) : (zeroSpan s a n).freeCtr = s.freeCtr := rfl
@[simp] theorem zeroSpan_now (s : State) (a n : Nat) : (zeroSpan s a n).now = s.now := rfl
@[simp] theorem zeroSpan_todFrac (s : State) (a n : Nat) : (zeroSpan s a n).todFrac = s.todFrac := rfl
@[simp] theorem zeroSpan_tiles (s : State) (a n : Nat) : (zeroSpan s a n).tiles = s.tiles := rfl
@[simp] theorem zeroSpan_fabric (s : State) (a n : Nat) : (zeroSpan s a n).fabric = s.fabric := rfl
@[simp] theorem zeroSpan_waiters (s : State) (a n : Nat) : (zeroSpan s a n).waiters = s.waiters := rfl
@[simp] theorem zeroSpan_lockerQ (s : State) (a n : Nat) : (zeroSpan s a n).lockerQ = s.lockerQ := rfl
@[simp] theorem zeroSpan_claims (s : State) (a n : Nat) : (zeroSpan s a n).claims = s.claims := rfl
@[simp] theorem zeroSpan_jobs (s : State) (a n : Nat) : (zeroSpan s a n).jobs = s.jobs := rfl
@[simp] theorem zeroSpan_epochs (s : State) (a n : Nat) : (zeroSpan s a n).epochs = s.epochs := rfl
@[simp] theorem zeroSpan_epochAt (s : State) (a n : Nat) : (zeroSpan s a n).epochAt = s.epochAt := rfl
@[simp] theorem zeroSpan_runs (s : State) (a n : Nat) : (zeroSpan s a n).runs = s.runs := rfl
@[simp] theorem zeroSpan_runNext (s : State) (a n : Nat) : (zeroSpan s a n).runNext = s.runNext := rfl
@[simp] theorem zeroSpan_submNext (s : State) (a n : Nat) : (zeroSpan s a n).submNext = s.submNext := rfl
@[simp] theorem zeroSpan_periods (s : State) (a n : Nat) : (zeroSpan s a n).periods = s.periods := rfl
@[simp] theorem zeroSpan_siteMap (s : State) (a n : Nat) : (zeroSpan s a n).siteMap = s.siteMap := rfl
@[simp] theorem zeroSpan_stackMap (s : State) (a n : Nat) : (zeroSpan s a n).stackMap = s.stackMap := rfl
@[simp] theorem zeroSpan_parts (s : State) (a n : Nat) : (zeroSpan s a n).parts = s.parts := rfl
@[simp] theorem zeroSpan_bubbles (s : State) (a n : Nat) : (zeroSpan s a n).bubbles = s.bubbles := rfl
@[simp] theorem zeroSpan_descs (s : State) (a n : Nat) : (zeroSpan s a n).descs = s.descs := rfl
@[simp] theorem zeroSpan_cqs (s : State) (a n : Nat) : (zeroSpan s a n).cqs = s.cqs := rfl
@[simp] theorem zeroSpan_cands (s : State) (a n : Nat) : (zeroSpan s a n).cands = s.cands := rfl
@[simp] theorem zeroSpan_copies (s : State) (a n : Nat) : (zeroSpan s a n).copies = s.copies := rfl
@[simp] theorem zeroSpan_carries (s : State) (a n : Nat) : (zeroSpan s a n).carries = s.carries := rfl
@[simp] theorem zeroSpan_heldReps (s : State) (a n : Nat) : (zeroSpan s a n).heldReps = s.heldReps := rfl
@[simp] theorem zeroSpan_assocs (s : State) (a n : Nat) : (zeroSpan s a n).assocs = s.assocs := rfl
@[simp] theorem zeroSpan_plans (s : State) (a n : Nat) : (zeroSpan s a n).plans = s.plans := rfl
@[simp] theorem zeroSpan_spuFills (s : State) (a n : Nat) : (zeroSpan s a n).spuFills = s.spuFills := rfl
@[simp] theorem zeroSpan_aud (s : State) (a n : Nat) : (zeroSpan s a n).aud = s.aud := rfl
@[simp] theorem zeroSpan_undoRun (s : State) (a n : Nat) : (zeroSpan s a n).undoRun = s.undoRun := rfl
@[simp] theorem zeroSpan_unitSubs (s : State) (a n : Nat) : (zeroSpan s a n).unitSubs = s.unitSubs := rfl
@[simp] theorem zeroSpan_siteSubs (s : State) (a n : Nat) : (zeroSpan s a n).siteSubs = s.siteSubs := rfl
@[simp] theorem zeroSpan_stackCopy (s : State) (a n : Nat) : (zeroSpan s a n).stackCopy = s.stackCopy := rfl
@[simp] theorem zeroSpan_dbl (s : State) (a n : Nat) : (zeroSpan s a n).dbl = s.dbl := rfl
@[simp] theorem zeroSpan_time (s : State) (a n : Nat) : (zeroSpan s a n).time = s.time := rfl
@[simp] theorem zeroSpan_fns (s : State) (a n : Nat) : (zeroSpan s a n).fns = s.fns := rfl
@[simp] theorem zeroSpan_zeroing (s : State) (a n : Nat) : (zeroSpan s a n).zeroing = s.zeroing := rfl
@[simp] theorem zeroSpan_closings (s : State) (a n : Nat) : (zeroSpan s a n).closings = s.closings := rfl
@[simp] theorem zeroSpan_netNotes (s : State) (a n : Nat) : (zeroSpan s a n).netNotes = s.netNotes := rfl
@[simp] theorem zeroSpan_fwRate (s : State) (a n : Nat) : (zeroSpan s a n).fwRate = s.fwRate := rfl
@[simp] theorem zeroSpan_windows (s : State) (a n : Nat) : (zeroSpan s a n).windows = s.windows := rfl
@[simp] theorem zeroSpan_bubbleNow (s : State) (a n : Nat) : (zeroSpan s a n).bubbleNow = s.bubbleNow := rfl
@[simp] theorem zeroSpan_grd (s : State) (a n : Nat) : (zeroSpan s a n).grd = s.grd := rfl
@[simp] theorem zeroSpan_badSites (s : State) (a n : Nat) : (zeroSpan s a n).badSites = s.badSites := rfl
@[simp] theorem zeroSpan_winMax (s : State) (a n : Nat) : (zeroSpan s a n).winMax = s.winMax := rfl
@[simp] theorem zeroSpan_pwr (s : State) (a n : Nat) : (zeroSpan s a n).pwr = s.pwr := rfl
@[simp] theorem zeroSpan_boot (s : State) (a n : Nat) : (zeroSpan s a n).boot = s.boot := rfl
@[simp] theorem zeroSpan_readyAt (s : State) (a n : Nat) : (zeroSpan s a n).readyAt = s.readyAt := rfl
@[simp] theorem zeroSpan_sec (s : State) (a n : Nat) : (zeroSpan s a n).sec = s.sec := rfl
@[simp] theorem zeroSpan_pairs (s : State) (a n : Nat) : (zeroSpan s a n).pairs = s.pairs := rfl
@[simp] theorem zeroSpan_neighbours (s : State) (a n : Nat) : (zeroSpan s a n).neighbours = s.neighbours := rfl
@[simp] theorem zeroSpan_lostCarry (s : State) (a n : Nat) : (zeroSpan s a n).lostCarry = s.lostCarry := rfl
@[simp] theorem zeroSpan_cleared (s : State) (a n : Nat) : (zeroSpan s a n).cleared = s.cleared := rfl
@[simp] theorem zeroSpan_upsets (s : State) (a n : Nat) : (zeroSpan s a n).upsets = s.upsets := rfl
@[simp] theorem zeroSpan_pending (s : State) (a n : Nat) : (zeroSpan s a n).pending = s.pending := rfl

/-! ### sendItem -/

@[simp] theorem sendItem_part (s : State) (i : Item) : (sendItem s i).part = s.part := rfl
@[simp] theorem sendItem_regs (s : State) (i : Item) : (sendItem s i).regs = s.regs := rfl
@[simp] theorem sendItem_mem (s : State) (i : Item) : (sendItem s i).mem = s.mem := rfl
@[simp] theorem sendItem_out (s : State) (i : Item) : (sendItem s i).out = s.out := rfl
@[simp] theorem sendItem_freeCtr (s : State) (i : Item) : (sendItem s i).freeCtr = s.freeCtr := rfl
@[simp] theorem sendItem_now (s : State) (i : Item) : (sendItem s i).now = s.now := rfl
@[simp] theorem sendItem_todFrac (s : State) (i : Item) : (sendItem s i).todFrac = s.todFrac := rfl
@[simp] theorem sendItem_tiles (s : State) (i : Item) : (sendItem s i).tiles = s.tiles := rfl
@[simp] theorem sendItem_waiters (s : State) (i : Item) : (sendItem s i).waiters = s.waiters := rfl
@[simp] theorem sendItem_lockerQ (s : State) (i : Item) : (sendItem s i).lockerQ = s.lockerQ := rfl
@[simp] theorem sendItem_claims (s : State) (i : Item) : (sendItem s i).claims = s.claims := rfl
@[simp] theorem sendItem_jobs (s : State) (i : Item) : (sendItem s i).jobs = s.jobs := rfl
@[simp] theorem sendItem_epochs (s : State) (i : Item) : (sendItem s i).epochs = s.epochs := rfl
@[simp] theorem sendItem_epochAt (s : State) (i : Item) : (sendItem s i).epochAt = s.epochAt := rfl
@[simp] theorem sendItem_runs (s : State) (i : Item) : (sendItem s i).runs = s.runs := rfl
@[simp] theorem sendItem_runNext (s : State) (i : Item) : (sendItem s i).runNext = s.runNext := rfl
@[simp] theorem sendItem_submNext (s : State) (i : Item) : (sendItem s i).submNext = s.submNext := rfl
@[simp] theorem sendItem_periods (s : State) (i : Item) : (sendItem s i).periods = s.periods := rfl
@[simp] theorem sendItem_siteMap (s : State) (i : Item) : (sendItem s i).siteMap = s.siteMap := rfl
@[simp] theorem sendItem_stackMap (s : State) (i : Item) : (sendItem s i).stackMap = s.stackMap := rfl
@[simp] theorem sendItem_parts (s : State) (i : Item) : (sendItem s i).parts = s.parts := rfl
@[simp] theorem sendItem_bubbles (s : State) (i : Item) : (sendItem s i).bubbles = s.bubbles := rfl
@[simp] theorem sendItem_descs (s : State) (i : Item) : (sendItem s i).descs = s.descs := rfl
@[simp] theorem sendItem_cqs (s : State) (i : Item) : (sendItem s i).cqs = s.cqs := rfl
@[simp] theorem sendItem_cands (s : State) (i : Item) : (sendItem s i).cands = s.cands := rfl
@[simp] theorem sendItem_copies (s : State) (i : Item) : (sendItem s i).copies = s.copies := rfl
@[simp] theorem sendItem_carries (s : State) (i : Item) : (sendItem s i).carries = s.carries := rfl
@[simp] theorem sendItem_heldReps (s : State) (i : Item) : (sendItem s i).heldReps = s.heldReps := rfl
@[simp] theorem sendItem_assocs (s : State) (i : Item) : (sendItem s i).assocs = s.assocs := rfl
@[simp] theorem sendItem_plans (s : State) (i : Item) : (sendItem s i).plans = s.plans := rfl
@[simp] theorem sendItem_spuFills (s : State) (i : Item) : (sendItem s i).spuFills = s.spuFills := rfl
@[simp] theorem sendItem_aud (s : State) (i : Item) : (sendItem s i).aud = s.aud := rfl
@[simp] theorem sendItem_undoRun (s : State) (i : Item) : (sendItem s i).undoRun = s.undoRun := rfl
@[simp] theorem sendItem_unitSubs (s : State) (i : Item) : (sendItem s i).unitSubs = s.unitSubs := rfl
@[simp] theorem sendItem_siteSubs (s : State) (i : Item) : (sendItem s i).siteSubs = s.siteSubs := rfl
@[simp] theorem sendItem_stackCopy (s : State) (i : Item) : (sendItem s i).stackCopy = s.stackCopy := rfl
@[simp] theorem sendItem_dbl (s : State) (i : Item) : (sendItem s i).dbl = s.dbl := rfl
@[simp] theorem sendItem_time (s : State) (i : Item) : (sendItem s i).time = s.time := rfl
@[simp] theorem sendItem_fns (s : State) (i : Item) : (sendItem s i).fns = s.fns := rfl
@[simp] theorem sendItem_zeroing (s : State) (i : Item) : (sendItem s i).zeroing = s.zeroing := rfl
@[simp] theorem sendItem_closings (s : State) (i : Item) : (sendItem s i).closings = s.closings := rfl
@[simp] theorem sendItem_netNotes (s : State) (i : Item) : (sendItem s i).netNotes = s.netNotes := rfl
@[simp] theorem sendItem_fwRate (s : State) (i : Item) : (sendItem s i).fwRate = s.fwRate := rfl
@[simp] theorem sendItem_windows (s : State) (i : Item) : (sendItem s i).windows = s.windows := rfl
@[simp] theorem sendItem_bubbleNow (s : State) (i : Item) : (sendItem s i).bubbleNow = s.bubbleNow := rfl
@[simp] theorem sendItem_grd (s : State) (i : Item) : (sendItem s i).grd = s.grd := rfl
@[simp] theorem sendItem_badSites (s : State) (i : Item) : (sendItem s i).badSites = s.badSites := rfl
@[simp] theorem sendItem_winMax (s : State) (i : Item) : (sendItem s i).winMax = s.winMax := rfl
@[simp] theorem sendItem_pwr (s : State) (i : Item) : (sendItem s i).pwr = s.pwr := rfl
@[simp] theorem sendItem_boot (s : State) (i : Item) : (sendItem s i).boot = s.boot := rfl
@[simp] theorem sendItem_readyAt (s : State) (i : Item) : (sendItem s i).readyAt = s.readyAt := rfl
@[simp] theorem sendItem_sec (s : State) (i : Item) : (sendItem s i).sec = s.sec := rfl
@[simp] theorem sendItem_pairs (s : State) (i : Item) : (sendItem s i).pairs = s.pairs := rfl
@[simp] theorem sendItem_neighbours (s : State) (i : Item) : (sendItem s i).neighbours = s.neighbours := rfl
@[simp] theorem sendItem_lostCarry (s : State) (i : Item) : (sendItem s i).lostCarry = s.lostCarry := rfl
@[simp] theorem sendItem_cleared (s : State) (i : Item) : (sendItem s i).cleared = s.cleared := rfl
@[simp] theorem sendItem_upsets (s : State) (i : Item) : (sendItem s i).upsets = s.upsets := rfl
@[simp] theorem sendItem_pending (s : State) (i : Item) : (sendItem s i).pending = s.pending := rfl

/-! ### modTime -/

@[simp] theorem modTime_part (s : State) (f : TimeSt → TimeSt) : (modTime s f).part = s.part := rfl
@[simp] theorem modTime_regs (s : State) (f : TimeSt → TimeSt) : (modTime s f).regs = s.regs := rfl
@[simp] theorem modTime_mem (s : State) (f : TimeSt → TimeSt) : (modTime s f).mem = s.mem := rfl
@[simp] theorem modTime_out (s : State) (f : TimeSt → TimeSt) : (modTime s f).out = s.out := rfl
@[simp] theorem modTime_freeCtr (s : State) (f : TimeSt → TimeSt) : (modTime s f).freeCtr = s.freeCtr := rfl
@[simp] theorem modTime_now (s : State) (f : TimeSt → TimeSt) : (modTime s f).now = s.now := rfl
@[simp] theorem modTime_todFrac (s : State) (f : TimeSt → TimeSt) : (modTime s f).todFrac = s.todFrac := rfl
@[simp] theorem modTime_tiles (s : State) (f : TimeSt → TimeSt) : (modTime s f).tiles = s.tiles := rfl
@[simp] theorem modTime_fabric (s : State) (f : TimeSt → TimeSt) : (modTime s f).fabric = s.fabric := rfl
@[simp] theorem modTime_waiters (s : State) (f : TimeSt → TimeSt) : (modTime s f).waiters = s.waiters := rfl
@[simp] theorem modTime_lockerQ (s : State) (f : TimeSt → TimeSt) : (modTime s f).lockerQ = s.lockerQ := rfl
@[simp] theorem modTime_claims (s : State) (f : TimeSt → TimeSt) : (modTime s f).claims = s.claims := rfl
@[simp] theorem modTime_jobs (s : State) (f : TimeSt → TimeSt) : (modTime s f).jobs = s.jobs := rfl
@[simp] theorem modTime_epochs (s : State) (f : TimeSt → TimeSt) : (modTime s f).epochs = s.epochs := rfl
@[simp] theorem modTime_epochAt (s : State) (f : TimeSt → TimeSt) : (modTime s f).epochAt = s.epochAt := rfl
@[simp] theorem modTime_runs (s : State) (f : TimeSt → TimeSt) : (modTime s f).runs = s.runs := rfl
@[simp] theorem modTime_runNext (s : State) (f : TimeSt → TimeSt) : (modTime s f).runNext = s.runNext := rfl
@[simp] theorem modTime_submNext (s : State) (f : TimeSt → TimeSt) : (modTime s f).submNext = s.submNext := rfl
@[simp] theorem modTime_periods (s : State) (f : TimeSt → TimeSt) : (modTime s f).periods = s.periods := rfl
@[simp] theorem modTime_siteMap (s : State) (f : TimeSt → TimeSt) : (modTime s f).siteMap = s.siteMap := rfl
@[simp] theorem modTime_stackMap (s : State) (f : TimeSt → TimeSt) : (modTime s f).stackMap = s.stackMap := rfl
@[simp] theorem modTime_parts (s : State) (f : TimeSt → TimeSt) : (modTime s f).parts = s.parts := rfl
@[simp] theorem modTime_bubbles (s : State) (f : TimeSt → TimeSt) : (modTime s f).bubbles = s.bubbles := rfl
@[simp] theorem modTime_descs (s : State) (f : TimeSt → TimeSt) : (modTime s f).descs = s.descs := rfl
@[simp] theorem modTime_cqs (s : State) (f : TimeSt → TimeSt) : (modTime s f).cqs = s.cqs := rfl
@[simp] theorem modTime_cands (s : State) (f : TimeSt → TimeSt) : (modTime s f).cands = s.cands := rfl
@[simp] theorem modTime_copies (s : State) (f : TimeSt → TimeSt) : (modTime s f).copies = s.copies := rfl
@[simp] theorem modTime_carries (s : State) (f : TimeSt → TimeSt) : (modTime s f).carries = s.carries := rfl
@[simp] theorem modTime_heldReps (s : State) (f : TimeSt → TimeSt) : (modTime s f).heldReps = s.heldReps := rfl
@[simp] theorem modTime_assocs (s : State) (f : TimeSt → TimeSt) : (modTime s f).assocs = s.assocs := rfl
@[simp] theorem modTime_plans (s : State) (f : TimeSt → TimeSt) : (modTime s f).plans = s.plans := rfl
@[simp] theorem modTime_spuFills (s : State) (f : TimeSt → TimeSt) : (modTime s f).spuFills = s.spuFills := rfl
@[simp] theorem modTime_aud (s : State) (f : TimeSt → TimeSt) : (modTime s f).aud = s.aud := rfl
@[simp] theorem modTime_undoRun (s : State) (f : TimeSt → TimeSt) : (modTime s f).undoRun = s.undoRun := rfl
@[simp] theorem modTime_unitSubs (s : State) (f : TimeSt → TimeSt) : (modTime s f).unitSubs = s.unitSubs := rfl
@[simp] theorem modTime_siteSubs (s : State) (f : TimeSt → TimeSt) : (modTime s f).siteSubs = s.siteSubs := rfl
@[simp] theorem modTime_stackCopy (s : State) (f : TimeSt → TimeSt) : (modTime s f).stackCopy = s.stackCopy := rfl
@[simp] theorem modTime_dbl (s : State) (f : TimeSt → TimeSt) : (modTime s f).dbl = s.dbl := rfl
@[simp] theorem modTime_fns (s : State) (f : TimeSt → TimeSt) : (modTime s f).fns = s.fns := rfl
@[simp] theorem modTime_zeroing (s : State) (f : TimeSt → TimeSt) : (modTime s f).zeroing = s.zeroing := rfl
@[simp] theorem modTime_closings (s : State) (f : TimeSt → TimeSt) : (modTime s f).closings = s.closings := rfl
@[simp] theorem modTime_netNotes (s : State) (f : TimeSt → TimeSt) : (modTime s f).netNotes = s.netNotes := rfl
@[simp] theorem modTime_fwRate (s : State) (f : TimeSt → TimeSt) : (modTime s f).fwRate = s.fwRate := rfl
@[simp] theorem modTime_windows (s : State) (f : TimeSt → TimeSt) : (modTime s f).windows = s.windows := rfl
@[simp] theorem modTime_bubbleNow (s : State) (f : TimeSt → TimeSt) : (modTime s f).bubbleNow = s.bubbleNow := rfl
@[simp] theorem modTime_grd (s : State) (f : TimeSt → TimeSt) : (modTime s f).grd = s.grd := rfl
@[simp] theorem modTime_badSites (s : State) (f : TimeSt → TimeSt) : (modTime s f).badSites = s.badSites := rfl
@[simp] theorem modTime_winMax (s : State) (f : TimeSt → TimeSt) : (modTime s f).winMax = s.winMax := rfl
@[simp] theorem modTime_pwr (s : State) (f : TimeSt → TimeSt) : (modTime s f).pwr = s.pwr := rfl
@[simp] theorem modTime_boot (s : State) (f : TimeSt → TimeSt) : (modTime s f).boot = s.boot := rfl
@[simp] theorem modTime_readyAt (s : State) (f : TimeSt → TimeSt) : (modTime s f).readyAt = s.readyAt := rfl
@[simp] theorem modTime_sec (s : State) (f : TimeSt → TimeSt) : (modTime s f).sec = s.sec := rfl
@[simp] theorem modTime_pairs (s : State) (f : TimeSt → TimeSt) : (modTime s f).pairs = s.pairs := rfl
@[simp] theorem modTime_neighbours (s : State) (f : TimeSt → TimeSt) : (modTime s f).neighbours = s.neighbours := rfl
@[simp] theorem modTime_lostCarry (s : State) (f : TimeSt → TimeSt) : (modTime s f).lostCarry = s.lostCarry := rfl
@[simp] theorem modTime_cleared (s : State) (f : TimeSt → TimeSt) : (modTime s f).cleared = s.cleared := rfl
@[simp] theorem modTime_upsets (s : State) (f : TimeSt → TimeSt) : (modTime s f).upsets = s.upsets := rfl
@[simp] theorem modTime_pending (s : State) (f : TimeSt → TimeSt) : (modTime s f).pending = s.pending := rfl

/-! ### modBoot -/

@[simp] theorem modBoot_part (s : State) (f : BootSt → BootSt) : (modBoot s f).part = s.part := rfl
@[simp] theorem modBoot_regs (s : State) (f : BootSt → BootSt) : (modBoot s f).regs = s.regs := rfl
@[simp] theorem modBoot_mem (s : State) (f : BootSt → BootSt) : (modBoot s f).mem = s.mem := rfl
@[simp] theorem modBoot_out (s : State) (f : BootSt → BootSt) : (modBoot s f).out = s.out := rfl
@[simp] theorem modBoot_freeCtr (s : State) (f : BootSt → BootSt) : (modBoot s f).freeCtr = s.freeCtr := rfl
@[simp] theorem modBoot_now (s : State) (f : BootSt → BootSt) : (modBoot s f).now = s.now := rfl
@[simp] theorem modBoot_todFrac (s : State) (f : BootSt → BootSt) : (modBoot s f).todFrac = s.todFrac := rfl
@[simp] theorem modBoot_tiles (s : State) (f : BootSt → BootSt) : (modBoot s f).tiles = s.tiles := rfl
@[simp] theorem modBoot_fabric (s : State) (f : BootSt → BootSt) : (modBoot s f).fabric = s.fabric := rfl
@[simp] theorem modBoot_waiters (s : State) (f : BootSt → BootSt) : (modBoot s f).waiters = s.waiters := rfl
@[simp] theorem modBoot_lockerQ (s : State) (f : BootSt → BootSt) : (modBoot s f).lockerQ = s.lockerQ := rfl
@[simp] theorem modBoot_claims (s : State) (f : BootSt → BootSt) : (modBoot s f).claims = s.claims := rfl
@[simp] theorem modBoot_jobs (s : State) (f : BootSt → BootSt) : (modBoot s f).jobs = s.jobs := rfl
@[simp] theorem modBoot_epochs (s : State) (f : BootSt → BootSt) : (modBoot s f).epochs = s.epochs := rfl
@[simp] theorem modBoot_epochAt (s : State) (f : BootSt → BootSt) : (modBoot s f).epochAt = s.epochAt := rfl
@[simp] theorem modBoot_runs (s : State) (f : BootSt → BootSt) : (modBoot s f).runs = s.runs := rfl
@[simp] theorem modBoot_runNext (s : State) (f : BootSt → BootSt) : (modBoot s f).runNext = s.runNext := rfl
@[simp] theorem modBoot_submNext (s : State) (f : BootSt → BootSt) : (modBoot s f).submNext = s.submNext := rfl
@[simp] theorem modBoot_periods (s : State) (f : BootSt → BootSt) : (modBoot s f).periods = s.periods := rfl
@[simp] theorem modBoot_siteMap (s : State) (f : BootSt → BootSt) : (modBoot s f).siteMap = s.siteMap := rfl
@[simp] theorem modBoot_stackMap (s : State) (f : BootSt → BootSt) : (modBoot s f).stackMap = s.stackMap := rfl
@[simp] theorem modBoot_parts (s : State) (f : BootSt → BootSt) : (modBoot s f).parts = s.parts := rfl
@[simp] theorem modBoot_bubbles (s : State) (f : BootSt → BootSt) : (modBoot s f).bubbles = s.bubbles := rfl
@[simp] theorem modBoot_descs (s : State) (f : BootSt → BootSt) : (modBoot s f).descs = s.descs := rfl
@[simp] theorem modBoot_cqs (s : State) (f : BootSt → BootSt) : (modBoot s f).cqs = s.cqs := rfl
@[simp] theorem modBoot_cands (s : State) (f : BootSt → BootSt) : (modBoot s f).cands = s.cands := rfl
@[simp] theorem modBoot_copies (s : State) (f : BootSt → BootSt) : (modBoot s f).copies = s.copies := rfl
@[simp] theorem modBoot_carries (s : State) (f : BootSt → BootSt) : (modBoot s f).carries = s.carries := rfl
@[simp] theorem modBoot_heldReps (s : State) (f : BootSt → BootSt) : (modBoot s f).heldReps = s.heldReps := rfl
@[simp] theorem modBoot_assocs (s : State) (f : BootSt → BootSt) : (modBoot s f).assocs = s.assocs := rfl
@[simp] theorem modBoot_plans (s : State) (f : BootSt → BootSt) : (modBoot s f).plans = s.plans := rfl
@[simp] theorem modBoot_spuFills (s : State) (f : BootSt → BootSt) : (modBoot s f).spuFills = s.spuFills := rfl
@[simp] theorem modBoot_aud (s : State) (f : BootSt → BootSt) : (modBoot s f).aud = s.aud := rfl
@[simp] theorem modBoot_undoRun (s : State) (f : BootSt → BootSt) : (modBoot s f).undoRun = s.undoRun := rfl
@[simp] theorem modBoot_unitSubs (s : State) (f : BootSt → BootSt) : (modBoot s f).unitSubs = s.unitSubs := rfl
@[simp] theorem modBoot_siteSubs (s : State) (f : BootSt → BootSt) : (modBoot s f).siteSubs = s.siteSubs := rfl
@[simp] theorem modBoot_stackCopy (s : State) (f : BootSt → BootSt) : (modBoot s f).stackCopy = s.stackCopy := rfl
@[simp] theorem modBoot_dbl (s : State) (f : BootSt → BootSt) : (modBoot s f).dbl = s.dbl := rfl
@[simp] theorem modBoot_time (s : State) (f : BootSt → BootSt) : (modBoot s f).time = s.time := rfl
@[simp] theorem modBoot_fns (s : State) (f : BootSt → BootSt) : (modBoot s f).fns = s.fns := rfl
@[simp] theorem modBoot_zeroing (s : State) (f : BootSt → BootSt) : (modBoot s f).zeroing = s.zeroing := rfl
@[simp] theorem modBoot_closings (s : State) (f : BootSt → BootSt) : (modBoot s f).closings = s.closings := rfl
@[simp] theorem modBoot_netNotes (s : State) (f : BootSt → BootSt) : (modBoot s f).netNotes = s.netNotes := rfl
@[simp] theorem modBoot_fwRate (s : State) (f : BootSt → BootSt) : (modBoot s f).fwRate = s.fwRate := rfl
@[simp] theorem modBoot_windows (s : State) (f : BootSt → BootSt) : (modBoot s f).windows = s.windows := rfl
@[simp] theorem modBoot_bubbleNow (s : State) (f : BootSt → BootSt) : (modBoot s f).bubbleNow = s.bubbleNow := rfl
@[simp] theorem modBoot_grd (s : State) (f : BootSt → BootSt) : (modBoot s f).grd = s.grd := rfl
@[simp] theorem modBoot_badSites (s : State) (f : BootSt → BootSt) : (modBoot s f).badSites = s.badSites := rfl
@[simp] theorem modBoot_winMax (s : State) (f : BootSt → BootSt) : (modBoot s f).winMax = s.winMax := rfl
@[simp] theorem modBoot_pwr (s : State) (f : BootSt → BootSt) : (modBoot s f).pwr = s.pwr := rfl
@[simp] theorem modBoot_readyAt (s : State) (f : BootSt → BootSt) : (modBoot s f).readyAt = s.readyAt := rfl
@[simp] theorem modBoot_sec (s : State) (f : BootSt → BootSt) : (modBoot s f).sec = s.sec := rfl
@[simp] theorem modBoot_pairs (s : State) (f : BootSt → BootSt) : (modBoot s f).pairs = s.pairs := rfl
@[simp] theorem modBoot_neighbours (s : State) (f : BootSt → BootSt) : (modBoot s f).neighbours = s.neighbours := rfl
@[simp] theorem modBoot_lostCarry (s : State) (f : BootSt → BootSt) : (modBoot s f).lostCarry = s.lostCarry := rfl
@[simp] theorem modBoot_cleared (s : State) (f : BootSt → BootSt) : (modBoot s f).cleared = s.cleared := rfl
@[simp] theorem modBoot_upsets (s : State) (f : BootSt → BootSt) : (modBoot s f).upsets = s.upsets := rfl
@[simp] theorem modBoot_pending (s : State) (f : BootSt → BootSt) : (modBoot s f).pending = s.pending := rfl

/-! ### modAssoc -/

@[simp] theorem modAssoc_part (s : State) (a : Nat) (f : AssocSt → AssocSt) : (modAssoc s a f).part = s.part := rfl
@[simp] theorem modAssoc_regs (s : State) (a : Nat) (f : AssocSt → AssocSt) : (modAssoc s a f).regs = s.regs := rfl
@[simp] theorem modAssoc_mem (s : State) (a : Nat) (f : AssocSt → AssocSt) : (modAssoc s a f).mem = s.mem := rfl
@[simp] theorem modAssoc_out (s : State) (a : Nat) (f : AssocSt → AssocSt) : (modAssoc s a f).out = s.out := rfl
@[simp] theorem modAssoc_freeCtr (s : State) (a : Nat) (f : AssocSt → AssocSt) : (modAssoc s a f).freeCtr = s.freeCtr := rfl
@[simp] theorem modAssoc_now (s : State) (a : Nat) (f : AssocSt → AssocSt) : (modAssoc s a f).now = s.now := rfl
@[simp] theorem modAssoc_todFrac (s : State) (a : Nat) (f : AssocSt → AssocSt) : (modAssoc s a f).todFrac = s.todFrac := rfl
@[simp] theorem modAssoc_tiles (s : State) (a : Nat) (f : AssocSt → AssocSt) : (modAssoc s a f).tiles = s.tiles := rfl
@[simp] theorem modAssoc_fabric (s : State) (a : Nat) (f : AssocSt → AssocSt) : (modAssoc s a f).fabric = s.fabric := rfl
@[simp] theorem modAssoc_waiters (s : State) (a : Nat) (f : AssocSt → AssocSt) : (modAssoc s a f).waiters = s.waiters := rfl
@[simp] theorem modAssoc_lockerQ (s : State) (a : Nat) (f : AssocSt → AssocSt) : (modAssoc s a f).lockerQ = s.lockerQ := rfl
@[simp] theorem modAssoc_claims (s : State) (a : Nat) (f : AssocSt → AssocSt) : (modAssoc s a f).claims = s.claims := rfl
@[simp] theorem modAssoc_jobs (s : State) (a : Nat) (f : AssocSt → AssocSt) : (modAssoc s a f).jobs = s.jobs := rfl
@[simp] theorem modAssoc_epochs (s : State) (a : Nat) (f : AssocSt → AssocSt) : (modAssoc s a f).epochs = s.epochs := rfl
@[simp] theorem modAssoc_epochAt (s : State) (a : Nat) (f : AssocSt → AssocSt) : (modAssoc s a f).epochAt = s.epochAt := rfl
@[simp] theorem modAssoc_runs (s : State) (a : Nat) (f : AssocSt → AssocSt) : (modAssoc s a f).runs = s.runs := rfl
@[simp] theorem modAssoc_runNext (s : State) (a : Nat) (f : AssocSt → AssocSt) : (modAssoc s a f).runNext = s.runNext := rfl
@[simp] theorem modAssoc_submNext (s : State) (a : Nat) (f : AssocSt → AssocSt) : (modAssoc s a f).submNext = s.submNext := rfl
@[simp] theorem modAssoc_periods (s : State) (a : Nat) (f : AssocSt → AssocSt) : (modAssoc s a f).periods = s.periods := rfl
@[simp] theorem modAssoc_siteMap (s : State) (a : Nat) (f : AssocSt → AssocSt) : (modAssoc s a f).siteMap = s.siteMap := rfl
@[simp] theorem modAssoc_stackMap (s : State) (a : Nat) (f : AssocSt → AssocSt) : (modAssoc s a f).stackMap = s.stackMap := rfl
@[simp] theorem modAssoc_parts (s : State) (a : Nat) (f : AssocSt → AssocSt) : (modAssoc s a f).parts = s.parts := rfl
@[simp] theorem modAssoc_bubbles (s : State) (a : Nat) (f : AssocSt → AssocSt) : (modAssoc s a f).bubbles = s.bubbles := rfl
@[simp] theorem modAssoc_descs (s : State) (a : Nat) (f : AssocSt → AssocSt) : (modAssoc s a f).descs = s.descs := rfl
@[simp] theorem modAssoc_cqs (s : State) (a : Nat) (f : AssocSt → AssocSt) : (modAssoc s a f).cqs = s.cqs := rfl
@[simp] theorem modAssoc_cands (s : State) (a : Nat) (f : AssocSt → AssocSt) : (modAssoc s a f).cands = s.cands := rfl
@[simp] theorem modAssoc_copies (s : State) (a : Nat) (f : AssocSt → AssocSt) : (modAssoc s a f).copies = s.copies := rfl
@[simp] theorem modAssoc_carries (s : State) (a : Nat) (f : AssocSt → AssocSt) : (modAssoc s a f).carries = s.carries := rfl
@[simp] theorem modAssoc_heldReps (s : State) (a : Nat) (f : AssocSt → AssocSt) : (modAssoc s a f).heldReps = s.heldReps := rfl
@[simp] theorem modAssoc_plans (s : State) (a : Nat) (f : AssocSt → AssocSt) : (modAssoc s a f).plans = s.plans := rfl
@[simp] theorem modAssoc_spuFills (s : State) (a : Nat) (f : AssocSt → AssocSt) : (modAssoc s a f).spuFills = s.spuFills := rfl
@[simp] theorem modAssoc_aud (s : State) (a : Nat) (f : AssocSt → AssocSt) : (modAssoc s a f).aud = s.aud := rfl
@[simp] theorem modAssoc_undoRun (s : State) (a : Nat) (f : AssocSt → AssocSt) : (modAssoc s a f).undoRun = s.undoRun := rfl
@[simp] theorem modAssoc_unitSubs (s : State) (a : Nat) (f : AssocSt → AssocSt) : (modAssoc s a f).unitSubs = s.unitSubs := rfl
@[simp] theorem modAssoc_siteSubs (s : State) (a : Nat) (f : AssocSt → AssocSt) : (modAssoc s a f).siteSubs = s.siteSubs := rfl
@[simp] theorem modAssoc_stackCopy (s : State) (a : Nat) (f : AssocSt → AssocSt) : (modAssoc s a f).stackCopy = s.stackCopy := rfl
@[simp] theorem modAssoc_dbl (s : State) (a : Nat) (f : AssocSt → AssocSt) : (modAssoc s a f).dbl = s.dbl := rfl
@[simp] theorem modAssoc_time (s : State) (a : Nat) (f : AssocSt → AssocSt) : (modAssoc s a f).time = s.time := rfl
@[simp] theorem modAssoc_fns (s : State) (a : Nat) (f : AssocSt → AssocSt) : (modAssoc s a f).fns = s.fns := rfl
@[simp] theorem modAssoc_zeroing (s : State) (a : Nat) (f : AssocSt → AssocSt) : (modAssoc s a f).zeroing = s.zeroing := rfl
@[simp] theorem modAssoc_closings (s : State) (a : Nat) (f : AssocSt → AssocSt) : (modAssoc s a f).closings = s.closings := rfl
@[simp] theorem modAssoc_netNotes (s : State) (a : Nat) (f : AssocSt → AssocSt) : (modAssoc s a f).netNotes = s.netNotes := rfl
@[simp] theorem modAssoc_fwRate (s : State) (a : Nat) (f : AssocSt → AssocSt) : (modAssoc s a f).fwRate = s.fwRate := rfl
@[simp] theorem modAssoc_windows (s : State) (a : Nat) (f : AssocSt → AssocSt) : (modAssoc s a f).windows = s.windows := rfl
@[simp] theorem modAssoc_bubbleNow (s : State) (a : Nat) (f : AssocSt → AssocSt) : (modAssoc s a f).bubbleNow = s.bubbleNow := rfl
@[simp] theorem modAssoc_grd (s : State) (a : Nat) (f : AssocSt → AssocSt) : (modAssoc s a f).grd = s.grd := rfl
@[simp] theorem modAssoc_badSites (s : State) (a : Nat) (f : AssocSt → AssocSt) : (modAssoc s a f).badSites = s.badSites := rfl
@[simp] theorem modAssoc_winMax (s : State) (a : Nat) (f : AssocSt → AssocSt) : (modAssoc s a f).winMax = s.winMax := rfl
@[simp] theorem modAssoc_pwr (s : State) (a : Nat) (f : AssocSt → AssocSt) : (modAssoc s a f).pwr = s.pwr := rfl
@[simp] theorem modAssoc_boot (s : State) (a : Nat) (f : AssocSt → AssocSt) : (modAssoc s a f).boot = s.boot := rfl
@[simp] theorem modAssoc_readyAt (s : State) (a : Nat) (f : AssocSt → AssocSt) : (modAssoc s a f).readyAt = s.readyAt := rfl
@[simp] theorem modAssoc_sec (s : State) (a : Nat) (f : AssocSt → AssocSt) : (modAssoc s a f).sec = s.sec := rfl
@[simp] theorem modAssoc_pairs (s : State) (a : Nat) (f : AssocSt → AssocSt) : (modAssoc s a f).pairs = s.pairs := rfl
@[simp] theorem modAssoc_neighbours (s : State) (a : Nat) (f : AssocSt → AssocSt) : (modAssoc s a f).neighbours = s.neighbours := rfl
@[simp] theorem modAssoc_lostCarry (s : State) (a : Nat) (f : AssocSt → AssocSt) : (modAssoc s a f).lostCarry = s.lostCarry := rfl
@[simp] theorem modAssoc_cleared (s : State) (a : Nat) (f : AssocSt → AssocSt) : (modAssoc s a f).cleared = s.cleared := rfl
@[simp] theorem modAssoc_upsets (s : State) (a : Nat) (f : AssocSt → AssocSt) : (modAssoc s a f).upsets = s.upsets := rfl
@[simp] theorem modAssoc_pending (s : State) (a : Nat) (f : AssocSt → AssocSt) : (modAssoc s a f).pending = s.pending := rfl

/-! ### modAud -/

@[simp] theorem modAud_part (s : State) (q : Nat) (f : AudSt → AudSt) : (modAud s q f).part = s.part := rfl
@[simp] theorem modAud_regs (s : State) (q : Nat) (f : AudSt → AudSt) : (modAud s q f).regs = s.regs := rfl
@[simp] theorem modAud_mem (s : State) (q : Nat) (f : AudSt → AudSt) : (modAud s q f).mem = s.mem := rfl
@[simp] theorem modAud_out (s : State) (q : Nat) (f : AudSt → AudSt) : (modAud s q f).out = s.out := rfl
@[simp] theorem modAud_freeCtr (s : State) (q : Nat) (f : AudSt → AudSt) : (modAud s q f).freeCtr = s.freeCtr := rfl
@[simp] theorem modAud_now (s : State) (q : Nat) (f : AudSt → AudSt) : (modAud s q f).now = s.now := rfl
@[simp] theorem modAud_todFrac (s : State) (q : Nat) (f : AudSt → AudSt) : (modAud s q f).todFrac = s.todFrac := rfl
@[simp] theorem modAud_tiles (s : State) (q : Nat) (f : AudSt → AudSt) : (modAud s q f).tiles = s.tiles := rfl
@[simp] theorem modAud_fabric (s : State) (q : Nat) (f : AudSt → AudSt) : (modAud s q f).fabric = s.fabric := rfl
@[simp] theorem modAud_waiters (s : State) (q : Nat) (f : AudSt → AudSt) : (modAud s q f).waiters = s.waiters := rfl
@[simp] theorem modAud_lockerQ (s : State) (q : Nat) (f : AudSt → AudSt) : (modAud s q f).lockerQ = s.lockerQ := rfl
@[simp] theorem modAud_claims (s : State) (q : Nat) (f : AudSt → AudSt) : (modAud s q f).claims = s.claims := rfl
@[simp] theorem modAud_jobs (s : State) (q : Nat) (f : AudSt → AudSt) : (modAud s q f).jobs = s.jobs := rfl
@[simp] theorem modAud_epochs (s : State) (q : Nat) (f : AudSt → AudSt) : (modAud s q f).epochs = s.epochs := rfl
@[simp] theorem modAud_epochAt (s : State) (q : Nat) (f : AudSt → AudSt) : (modAud s q f).epochAt = s.epochAt := rfl
@[simp] theorem modAud_runs (s : State) (q : Nat) (f : AudSt → AudSt) : (modAud s q f).runs = s.runs := rfl
@[simp] theorem modAud_runNext (s : State) (q : Nat) (f : AudSt → AudSt) : (modAud s q f).runNext = s.runNext := rfl
@[simp] theorem modAud_submNext (s : State) (q : Nat) (f : AudSt → AudSt) : (modAud s q f).submNext = s.submNext := rfl
@[simp] theorem modAud_periods (s : State) (q : Nat) (f : AudSt → AudSt) : (modAud s q f).periods = s.periods := rfl
@[simp] theorem modAud_siteMap (s : State) (q : Nat) (f : AudSt → AudSt) : (modAud s q f).siteMap = s.siteMap := rfl
@[simp] theorem modAud_stackMap (s : State) (q : Nat) (f : AudSt → AudSt) : (modAud s q f).stackMap = s.stackMap := rfl
@[simp] theorem modAud_parts (s : State) (q : Nat) (f : AudSt → AudSt) : (modAud s q f).parts = s.parts := rfl
@[simp] theorem modAud_bubbles (s : State) (q : Nat) (f : AudSt → AudSt) : (modAud s q f).bubbles = s.bubbles := rfl
@[simp] theorem modAud_descs (s : State) (q : Nat) (f : AudSt → AudSt) : (modAud s q f).descs = s.descs := rfl
@[simp] theorem modAud_cqs (s : State) (q : Nat) (f : AudSt → AudSt) : (modAud s q f).cqs = s.cqs := rfl
@[simp] theorem modAud_cands (s : State) (q : Nat) (f : AudSt → AudSt) : (modAud s q f).cands = s.cands := rfl
@[simp] theorem modAud_copies (s : State) (q : Nat) (f : AudSt → AudSt) : (modAud s q f).copies = s.copies := rfl
@[simp] theorem modAud_carries (s : State) (q : Nat) (f : AudSt → AudSt) : (modAud s q f).carries = s.carries := rfl
@[simp] theorem modAud_heldReps (s : State) (q : Nat) (f : AudSt → AudSt) : (modAud s q f).heldReps = s.heldReps := rfl
@[simp] theorem modAud_assocs (s : State) (q : Nat) (f : AudSt → AudSt) : (modAud s q f).assocs = s.assocs := rfl
@[simp] theorem modAud_plans (s : State) (q : Nat) (f : AudSt → AudSt) : (modAud s q f).plans = s.plans := rfl
@[simp] theorem modAud_spuFills (s : State) (q : Nat) (f : AudSt → AudSt) : (modAud s q f).spuFills = s.spuFills := rfl
@[simp] theorem modAud_undoRun (s : State) (q : Nat) (f : AudSt → AudSt) : (modAud s q f).undoRun = s.undoRun := rfl
@[simp] theorem modAud_unitSubs (s : State) (q : Nat) (f : AudSt → AudSt) : (modAud s q f).unitSubs = s.unitSubs := rfl
@[simp] theorem modAud_siteSubs (s : State) (q : Nat) (f : AudSt → AudSt) : (modAud s q f).siteSubs = s.siteSubs := rfl
@[simp] theorem modAud_stackCopy (s : State) (q : Nat) (f : AudSt → AudSt) : (modAud s q f).stackCopy = s.stackCopy := rfl
@[simp] theorem modAud_dbl (s : State) (q : Nat) (f : AudSt → AudSt) : (modAud s q f).dbl = s.dbl := rfl
@[simp] theorem modAud_time (s : State) (q : Nat) (f : AudSt → AudSt) : (modAud s q f).time = s.time := rfl
@[simp] theorem modAud_fns (s : State) (q : Nat) (f : AudSt → AudSt) : (modAud s q f).fns = s.fns := rfl
@[simp] theorem modAud_zeroing (s : State) (q : Nat) (f : AudSt → AudSt) : (modAud s q f).zeroing = s.zeroing := rfl
@[simp] theorem modAud_closings (s : State) (q : Nat) (f : AudSt → AudSt) : (modAud s q f).closings = s.closings := rfl
@[simp] theorem modAud_netNotes (s : State) (q : Nat) (f : AudSt → AudSt) : (modAud s q f).netNotes = s.netNotes := rfl
@[simp] theorem modAud_fwRate (s : State) (q : Nat) (f : AudSt → AudSt) : (modAud s q f).fwRate = s.fwRate := rfl
@[simp] theorem modAud_windows (s : State) (q : Nat) (f : AudSt → AudSt) : (modAud s q f).windows = s.windows := rfl
@[simp] theorem modAud_bubbleNow (s : State) (q : Nat) (f : AudSt → AudSt) : (modAud s q f).bubbleNow = s.bubbleNow := rfl
@[simp] theorem modAud_grd (s : State) (q : Nat) (f : AudSt → AudSt) : (modAud s q f).grd = s.grd := rfl
@[simp] theorem modAud_badSites (s : State) (q : Nat) (f : AudSt → AudSt) : (modAud s q f).badSites = s.badSites := rfl
@[simp] theorem modAud_winMax (s : State) (q : Nat) (f : AudSt → AudSt) : (modAud s q f).winMax = s.winMax := rfl
@[simp] theorem modAud_pwr (s : State) (q : Nat) (f : AudSt → AudSt) : (modAud s q f).pwr = s.pwr := rfl
@[simp] theorem modAud_boot (s : State) (q : Nat) (f : AudSt → AudSt) : (modAud s q f).boot = s.boot := rfl
@[simp] theorem modAud_readyAt (s : State) (q : Nat) (f : AudSt → AudSt) : (modAud s q f).readyAt = s.readyAt := rfl
@[simp] theorem modAud_sec (s : State) (q : Nat) (f : AudSt → AudSt) : (modAud s q f).sec = s.sec := rfl
@[simp] theorem modAud_pairs (s : State) (q : Nat) (f : AudSt → AudSt) : (modAud s q f).pairs = s.pairs := rfl
@[simp] theorem modAud_neighbours (s : State) (q : Nat) (f : AudSt → AudSt) : (modAud s q f).neighbours = s.neighbours := rfl
@[simp] theorem modAud_lostCarry (s : State) (q : Nat) (f : AudSt → AudSt) : (modAud s q f).lostCarry = s.lostCarry := rfl
@[simp] theorem modAud_cleared (s : State) (q : Nat) (f : AudSt → AudSt) : (modAud s q f).cleared = s.cleared := rfl
@[simp] theorem modAud_upsets (s : State) (q : Nat) (f : AudSt → AudSt) : (modAud s q f).upsets = s.upsets := rfl
@[simp] theorem modAud_pending (s : State) (q : Nat) (f : AudSt → AudSt) : (modAud s q f).pending = s.pending := rfl

/-! ### modSpdm -/

@[simp] theorem modSpdm_part (s : State) (k : Nat) (f : SpdmSt → SpdmSt) : (modSpdm s k f).part = s.part := rfl
@[simp] theorem modSpdm_regs (s : State) (k : Nat) (f : SpdmSt → SpdmSt) : (modSpdm s k f).regs = s.regs := rfl
@[simp] theorem modSpdm_mem (s : State) (k : Nat) (f : SpdmSt → SpdmSt) : (modSpdm s k f).mem = s.mem := rfl
@[simp] theorem modSpdm_out (s : State) (k : Nat) (f : SpdmSt → SpdmSt) : (modSpdm s k f).out = s.out := rfl
@[simp] theorem modSpdm_freeCtr (s : State) (k : Nat) (f : SpdmSt → SpdmSt) : (modSpdm s k f).freeCtr = s.freeCtr := rfl
@[simp] theorem modSpdm_now (s : State) (k : Nat) (f : SpdmSt → SpdmSt) : (modSpdm s k f).now = s.now := rfl
@[simp] theorem modSpdm_todFrac (s : State) (k : Nat) (f : SpdmSt → SpdmSt) : (modSpdm s k f).todFrac = s.todFrac := rfl
@[simp] theorem modSpdm_tiles (s : State) (k : Nat) (f : SpdmSt → SpdmSt) : (modSpdm s k f).tiles = s.tiles := rfl
@[simp] theorem modSpdm_fabric (s : State) (k : Nat) (f : SpdmSt → SpdmSt) : (modSpdm s k f).fabric = s.fabric := rfl
@[simp] theorem modSpdm_waiters (s : State) (k : Nat) (f : SpdmSt → SpdmSt) : (modSpdm s k f).waiters = s.waiters := rfl
@[simp] theorem modSpdm_lockerQ (s : State) (k : Nat) (f : SpdmSt → SpdmSt) : (modSpdm s k f).lockerQ = s.lockerQ := rfl
@[simp] theorem modSpdm_claims (s : State) (k : Nat) (f : SpdmSt → SpdmSt) : (modSpdm s k f).claims = s.claims := rfl
@[simp] theorem modSpdm_jobs (s : State) (k : Nat) (f : SpdmSt → SpdmSt) : (modSpdm s k f).jobs = s.jobs := rfl
@[simp] theorem modSpdm_epochs (s : State) (k : Nat) (f : SpdmSt → SpdmSt) : (modSpdm s k f).epochs = s.epochs := rfl
@[simp] theorem modSpdm_epochAt (s : State) (k : Nat) (f : SpdmSt → SpdmSt) : (modSpdm s k f).epochAt = s.epochAt := rfl
@[simp] theorem modSpdm_runs (s : State) (k : Nat) (f : SpdmSt → SpdmSt) : (modSpdm s k f).runs = s.runs := rfl
@[simp] theorem modSpdm_runNext (s : State) (k : Nat) (f : SpdmSt → SpdmSt) : (modSpdm s k f).runNext = s.runNext := rfl
@[simp] theorem modSpdm_submNext (s : State) (k : Nat) (f : SpdmSt → SpdmSt) : (modSpdm s k f).submNext = s.submNext := rfl
@[simp] theorem modSpdm_periods (s : State) (k : Nat) (f : SpdmSt → SpdmSt) : (modSpdm s k f).periods = s.periods := rfl
@[simp] theorem modSpdm_siteMap (s : State) (k : Nat) (f : SpdmSt → SpdmSt) : (modSpdm s k f).siteMap = s.siteMap := rfl
@[simp] theorem modSpdm_stackMap (s : State) (k : Nat) (f : SpdmSt → SpdmSt) : (modSpdm s k f).stackMap = s.stackMap := rfl
@[simp] theorem modSpdm_parts (s : State) (k : Nat) (f : SpdmSt → SpdmSt) : (modSpdm s k f).parts = s.parts := rfl
@[simp] theorem modSpdm_bubbles (s : State) (k : Nat) (f : SpdmSt → SpdmSt) : (modSpdm s k f).bubbles = s.bubbles := rfl
@[simp] theorem modSpdm_descs (s : State) (k : Nat) (f : SpdmSt → SpdmSt) : (modSpdm s k f).descs = s.descs := rfl
@[simp] theorem modSpdm_cqs (s : State) (k : Nat) (f : SpdmSt → SpdmSt) : (modSpdm s k f).cqs = s.cqs := rfl
@[simp] theorem modSpdm_cands (s : State) (k : Nat) (f : SpdmSt → SpdmSt) : (modSpdm s k f).cands = s.cands := rfl
@[simp] theorem modSpdm_copies (s : State) (k : Nat) (f : SpdmSt → SpdmSt) : (modSpdm s k f).copies = s.copies := rfl
@[simp] theorem modSpdm_carries (s : State) (k : Nat) (f : SpdmSt → SpdmSt) : (modSpdm s k f).carries = s.carries := rfl
@[simp] theorem modSpdm_heldReps (s : State) (k : Nat) (f : SpdmSt → SpdmSt) : (modSpdm s k f).heldReps = s.heldReps := rfl
@[simp] theorem modSpdm_assocs (s : State) (k : Nat) (f : SpdmSt → SpdmSt) : (modSpdm s k f).assocs = s.assocs := rfl
@[simp] theorem modSpdm_plans (s : State) (k : Nat) (f : SpdmSt → SpdmSt) : (modSpdm s k f).plans = s.plans := rfl
@[simp] theorem modSpdm_spuFills (s : State) (k : Nat) (f : SpdmSt → SpdmSt) : (modSpdm s k f).spuFills = s.spuFills := rfl
@[simp] theorem modSpdm_aud (s : State) (k : Nat) (f : SpdmSt → SpdmSt) : (modSpdm s k f).aud = s.aud := rfl
@[simp] theorem modSpdm_undoRun (s : State) (k : Nat) (f : SpdmSt → SpdmSt) : (modSpdm s k f).undoRun = s.undoRun := rfl
@[simp] theorem modSpdm_unitSubs (s : State) (k : Nat) (f : SpdmSt → SpdmSt) : (modSpdm s k f).unitSubs = s.unitSubs := rfl
@[simp] theorem modSpdm_siteSubs (s : State) (k : Nat) (f : SpdmSt → SpdmSt) : (modSpdm s k f).siteSubs = s.siteSubs := rfl
@[simp] theorem modSpdm_stackCopy (s : State) (k : Nat) (f : SpdmSt → SpdmSt) : (modSpdm s k f).stackCopy = s.stackCopy := rfl
@[simp] theorem modSpdm_dbl (s : State) (k : Nat) (f : SpdmSt → SpdmSt) : (modSpdm s k f).dbl = s.dbl := rfl
@[simp] theorem modSpdm_time (s : State) (k : Nat) (f : SpdmSt → SpdmSt) : (modSpdm s k f).time = s.time := rfl
@[simp] theorem modSpdm_fns (s : State) (k : Nat) (f : SpdmSt → SpdmSt) : (modSpdm s k f).fns = s.fns := rfl
@[simp] theorem modSpdm_zeroing (s : State) (k : Nat) (f : SpdmSt → SpdmSt) : (modSpdm s k f).zeroing = s.zeroing := rfl
@[simp] theorem modSpdm_closings (s : State) (k : Nat) (f : SpdmSt → SpdmSt) : (modSpdm s k f).closings = s.closings := rfl
@[simp] theorem modSpdm_netNotes (s : State) (k : Nat) (f : SpdmSt → SpdmSt) : (modSpdm s k f).netNotes = s.netNotes := rfl
@[simp] theorem modSpdm_fwRate (s : State) (k : Nat) (f : SpdmSt → SpdmSt) : (modSpdm s k f).fwRate = s.fwRate := rfl
@[simp] theorem modSpdm_windows (s : State) (k : Nat) (f : SpdmSt → SpdmSt) : (modSpdm s k f).windows = s.windows := rfl
@[simp] theorem modSpdm_bubbleNow (s : State) (k : Nat) (f : SpdmSt → SpdmSt) : (modSpdm s k f).bubbleNow = s.bubbleNow := rfl
@[simp] theorem modSpdm_grd (s : State) (k : Nat) (f : SpdmSt → SpdmSt) : (modSpdm s k f).grd = s.grd := rfl
@[simp] theorem modSpdm_badSites (s : State) (k : Nat) (f : SpdmSt → SpdmSt) : (modSpdm s k f).badSites = s.badSites := rfl
@[simp] theorem modSpdm_winMax (s : State) (k : Nat) (f : SpdmSt → SpdmSt) : (modSpdm s k f).winMax = s.winMax := rfl
@[simp] theorem modSpdm_pwr (s : State) (k : Nat) (f : SpdmSt → SpdmSt) : (modSpdm s k f).pwr = s.pwr := rfl
@[simp] theorem modSpdm_boot (s : State) (k : Nat) (f : SpdmSt → SpdmSt) : (modSpdm s k f).boot = s.boot := rfl
@[simp] theorem modSpdm_readyAt (s : State) (k : Nat) (f : SpdmSt → SpdmSt) : (modSpdm s k f).readyAt = s.readyAt := rfl
@[simp] theorem modSpdm_pairs (s : State) (k : Nat) (f : SpdmSt → SpdmSt) : (modSpdm s k f).pairs = s.pairs := rfl
@[simp] theorem modSpdm_neighbours (s : State) (k : Nat) (f : SpdmSt → SpdmSt) : (modSpdm s k f).neighbours = s.neighbours := rfl
@[simp] theorem modSpdm_lostCarry (s : State) (k : Nat) (f : SpdmSt → SpdmSt) : (modSpdm s k f).lostCarry = s.lostCarry := rfl
@[simp] theorem modSpdm_cleared (s : State) (k : Nat) (f : SpdmSt → SpdmSt) : (modSpdm s k f).cleared = s.cleared := rfl
@[simp] theorem modSpdm_upsets (s : State) (k : Nat) (f : SpdmSt → SpdmSt) : (modSpdm s k f).upsets = s.upsets := rfl
@[simp] theorem modSpdm_pending (s : State) (k : Nat) (f : SpdmSt → SpdmSt) : (modSpdm s k f).pending = s.pending := rfl

/-! ### setTodFine -/

@[simp] theorem setTodFine_part (s : State) (v : Nat) : (setTodFine s v).part = s.part := rfl
@[simp] theorem setTodFine_mem (s : State) (v : Nat) : (setTodFine s v).mem = s.mem := rfl
@[simp] theorem setTodFine_out (s : State) (v : Nat) : (setTodFine s v).out = s.out := rfl
@[simp] theorem setTodFine_freeCtr (s : State) (v : Nat) : (setTodFine s v).freeCtr = s.freeCtr := rfl
@[simp] theorem setTodFine_now (s : State) (v : Nat) : (setTodFine s v).now = s.now := rfl
@[simp] theorem setTodFine_tiles (s : State) (v : Nat) : (setTodFine s v).tiles = s.tiles := rfl
@[simp] theorem setTodFine_fabric (s : State) (v : Nat) : (setTodFine s v).fabric = s.fabric := rfl
@[simp] theorem setTodFine_waiters (s : State) (v : Nat) : (setTodFine s v).waiters = s.waiters := rfl
@[simp] theorem setTodFine_lockerQ (s : State) (v : Nat) : (setTodFine s v).lockerQ = s.lockerQ := rfl
@[simp] theorem setTodFine_claims (s : State) (v : Nat) : (setTodFine s v).claims = s.claims := rfl
@[simp] theorem setTodFine_jobs (s : State) (v : Nat) : (setTodFine s v).jobs = s.jobs := rfl
@[simp] theorem setTodFine_epochs (s : State) (v : Nat) : (setTodFine s v).epochs = s.epochs := rfl
@[simp] theorem setTodFine_epochAt (s : State) (v : Nat) : (setTodFine s v).epochAt = s.epochAt := rfl
@[simp] theorem setTodFine_runs (s : State) (v : Nat) : (setTodFine s v).runs = s.runs := rfl
@[simp] theorem setTodFine_runNext (s : State) (v : Nat) : (setTodFine s v).runNext = s.runNext := rfl
@[simp] theorem setTodFine_submNext (s : State) (v : Nat) : (setTodFine s v).submNext = s.submNext := rfl
@[simp] theorem setTodFine_periods (s : State) (v : Nat) : (setTodFine s v).periods = s.periods := rfl
@[simp] theorem setTodFine_siteMap (s : State) (v : Nat) : (setTodFine s v).siteMap = s.siteMap := rfl
@[simp] theorem setTodFine_stackMap (s : State) (v : Nat) : (setTodFine s v).stackMap = s.stackMap := rfl
@[simp] theorem setTodFine_parts (s : State) (v : Nat) : (setTodFine s v).parts = s.parts := rfl
@[simp] theorem setTodFine_bubbles (s : State) (v : Nat) : (setTodFine s v).bubbles = s.bubbles := rfl
@[simp] theorem setTodFine_descs (s : State) (v : Nat) : (setTodFine s v).descs = s.descs := rfl
@[simp] theorem setTodFine_cqs (s : State) (v : Nat) : (setTodFine s v).cqs = s.cqs := rfl
@[simp] theorem setTodFine_cands (s : State) (v : Nat) : (setTodFine s v).cands = s.cands := rfl
@[simp] theorem setTodFine_copies (s : State) (v : Nat) : (setTodFine s v).copies = s.copies := rfl
@[simp] theorem setTodFine_carries (s : State) (v : Nat) : (setTodFine s v).carries = s.carries := rfl
@[simp] theorem setTodFine_heldReps (s : State) (v : Nat) : (setTodFine s v).heldReps = s.heldReps := rfl
@[simp] theorem setTodFine_assocs (s : State) (v : Nat) : (setTodFine s v).assocs = s.assocs := rfl
@[simp] theorem setTodFine_plans (s : State) (v : Nat) : (setTodFine s v).plans = s.plans := rfl
@[simp] theorem setTodFine_spuFills (s : State) (v : Nat) : (setTodFine s v).spuFills = s.spuFills := rfl
@[simp] theorem setTodFine_aud (s : State) (v : Nat) : (setTodFine s v).aud = s.aud := rfl
@[simp] theorem setTodFine_undoRun (s : State) (v : Nat) : (setTodFine s v).undoRun = s.undoRun := rfl
@[simp] theorem setTodFine_unitSubs (s : State) (v : Nat) : (setTodFine s v).unitSubs = s.unitSubs := rfl
@[simp] theorem setTodFine_siteSubs (s : State) (v : Nat) : (setTodFine s v).siteSubs = s.siteSubs := rfl
@[simp] theorem setTodFine_stackCopy (s : State) (v : Nat) : (setTodFine s v).stackCopy = s.stackCopy := rfl
@[simp] theorem setTodFine_dbl (s : State) (v : Nat) : (setTodFine s v).dbl = s.dbl := rfl
@[simp] theorem setTodFine_time (s : State) (v : Nat) : (setTodFine s v).time = s.time := rfl
@[simp] theorem setTodFine_fns (s : State) (v : Nat) : (setTodFine s v).fns = s.fns := rfl
@[simp] theorem setTodFine_zeroing (s : State) (v : Nat) : (setTodFine s v).zeroing = s.zeroing := rfl
@[simp] theorem setTodFine_closings (s : State) (v : Nat) : (setTodFine s v).closings = s.closings := rfl
@[simp] theorem setTodFine_netNotes (s : State) (v : Nat) : (setTodFine s v).netNotes = s.netNotes := rfl
@[simp] theorem setTodFine_fwRate (s : State) (v : Nat) : (setTodFine s v).fwRate = s.fwRate := rfl
@[simp] theorem setTodFine_windows (s : State) (v : Nat) : (setTodFine s v).windows = s.windows := rfl
@[simp] theorem setTodFine_bubbleNow (s : State) (v : Nat) : (setTodFine s v).bubbleNow = s.bubbleNow := rfl
@[simp] theorem setTodFine_grd (s : State) (v : Nat) : (setTodFine s v).grd = s.grd := rfl
@[simp] theorem setTodFine_badSites (s : State) (v : Nat) : (setTodFine s v).badSites = s.badSites := rfl
@[simp] theorem setTodFine_winMax (s : State) (v : Nat) : (setTodFine s v).winMax = s.winMax := rfl
@[simp] theorem setTodFine_pwr (s : State) (v : Nat) : (setTodFine s v).pwr = s.pwr := rfl
@[simp] theorem setTodFine_boot (s : State) (v : Nat) : (setTodFine s v).boot = s.boot := rfl
@[simp] theorem setTodFine_readyAt (s : State) (v : Nat) : (setTodFine s v).readyAt = s.readyAt := rfl
@[simp] theorem setTodFine_sec (s : State) (v : Nat) : (setTodFine s v).sec = s.sec := rfl
@[simp] theorem setTodFine_pairs (s : State) (v : Nat) : (setTodFine s v).pairs = s.pairs := rfl
@[simp] theorem setTodFine_neighbours (s : State) (v : Nat) : (setTodFine s v).neighbours = s.neighbours := rfl
@[simp] theorem setTodFine_lostCarry (s : State) (v : Nat) : (setTodFine s v).lostCarry = s.lostCarry := rfl
@[simp] theorem setTodFine_cleared (s : State) (v : Nat) : (setTodFine s v).cleared = s.cleared := rfl
@[simp] theorem setTodFine_upsets (s : State) (v : Nat) : (setTodFine s v).upsets = s.upsets := rfl
@[simp] theorem setTodFine_pending (s : State) (v : Nat) : (setTodFine s v).pending = s.pending := rfl

/-! ### wrs -/

theorem wrs_eq (s : State) (l : List (Fld × Nat)) : wrs s l = { s with regs := (wrs s l).regs } := by
  induction l generalizing s with
  | nil => rfl
  | cons p r ih => exact ih (wr s p.1 p.2)

@[simp] theorem wrs_part (s : State) (l : List (Fld × Nat)) : (wrs s l).part = s.part := by rw [wrs_eq]
@[simp] theorem wrs_mem (s : State) (l : List (Fld × Nat)) : (wrs s l).mem = s.mem := by rw [wrs_eq]
@[simp] theorem wrs_out (s : State) (l : List (Fld × Nat)) : (wrs s l).out = s.out := by rw [wrs_eq]
@[simp] theorem wrs_freeCtr (s : State) (l : List (Fld × Nat)) : (wrs s l).freeCtr = s.freeCtr := by rw [wrs_eq]
@[simp] theorem wrs_now (s : State) (l : List (Fld × Nat)) : (wrs s l).now = s.now := by rw [wrs_eq]
@[simp] theorem wrs_todFrac (s : State) (l : List (Fld × Nat)) : (wrs s l).todFrac = s.todFrac := by rw [wrs_eq]
@[simp] theorem wrs_tiles (s : State) (l : List (Fld × Nat)) : (wrs s l).tiles = s.tiles := by rw [wrs_eq]
@[simp] theorem wrs_fabric (s : State) (l : List (Fld × Nat)) : (wrs s l).fabric = s.fabric := by rw [wrs_eq]
@[simp] theorem wrs_waiters (s : State) (l : List (Fld × Nat)) : (wrs s l).waiters = s.waiters := by rw [wrs_eq]
@[simp] theorem wrs_lockerQ (s : State) (l : List (Fld × Nat)) : (wrs s l).lockerQ = s.lockerQ := by rw [wrs_eq]
@[simp] theorem wrs_claims (s : State) (l : List (Fld × Nat)) : (wrs s l).claims = s.claims := by rw [wrs_eq]
@[simp] theorem wrs_jobs (s : State) (l : List (Fld × Nat)) : (wrs s l).jobs = s.jobs := by rw [wrs_eq]
@[simp] theorem wrs_epochs (s : State) (l : List (Fld × Nat)) : (wrs s l).epochs = s.epochs := by rw [wrs_eq]
@[simp] theorem wrs_epochAt (s : State) (l : List (Fld × Nat)) : (wrs s l).epochAt = s.epochAt := by rw [wrs_eq]
@[simp] theorem wrs_runs (s : State) (l : List (Fld × Nat)) : (wrs s l).runs = s.runs := by rw [wrs_eq]
@[simp] theorem wrs_runNext (s : State) (l : List (Fld × Nat)) : (wrs s l).runNext = s.runNext := by rw [wrs_eq]
@[simp] theorem wrs_submNext (s : State) (l : List (Fld × Nat)) : (wrs s l).submNext = s.submNext := by rw [wrs_eq]
@[simp] theorem wrs_periods (s : State) (l : List (Fld × Nat)) : (wrs s l).periods = s.periods := by rw [wrs_eq]
@[simp] theorem wrs_siteMap (s : State) (l : List (Fld × Nat)) : (wrs s l).siteMap = s.siteMap := by rw [wrs_eq]
@[simp] theorem wrs_stackMap (s : State) (l : List (Fld × Nat)) : (wrs s l).stackMap = s.stackMap := by rw [wrs_eq]
@[simp] theorem wrs_parts (s : State) (l : List (Fld × Nat)) : (wrs s l).parts = s.parts := by rw [wrs_eq]
@[simp] theorem wrs_bubbles (s : State) (l : List (Fld × Nat)) : (wrs s l).bubbles = s.bubbles := by rw [wrs_eq]
@[simp] theorem wrs_descs (s : State) (l : List (Fld × Nat)) : (wrs s l).descs = s.descs := by rw [wrs_eq]
@[simp] theorem wrs_cqs (s : State) (l : List (Fld × Nat)) : (wrs s l).cqs = s.cqs := by rw [wrs_eq]
@[simp] theorem wrs_cands (s : State) (l : List (Fld × Nat)) : (wrs s l).cands = s.cands := by rw [wrs_eq]
@[simp] theorem wrs_copies (s : State) (l : List (Fld × Nat)) : (wrs s l).copies = s.copies := by rw [wrs_eq]
@[simp] theorem wrs_carries (s : State) (l : List (Fld × Nat)) : (wrs s l).carries = s.carries := by rw [wrs_eq]
@[simp] theorem wrs_heldReps (s : State) (l : List (Fld × Nat)) : (wrs s l).heldReps = s.heldReps := by rw [wrs_eq]
@[simp] theorem wrs_assocs (s : State) (l : List (Fld × Nat)) : (wrs s l).assocs = s.assocs := by rw [wrs_eq]
@[simp] theorem wrs_plans (s : State) (l : List (Fld × Nat)) : (wrs s l).plans = s.plans := by rw [wrs_eq]
@[simp] theorem wrs_spuFills (s : State) (l : List (Fld × Nat)) : (wrs s l).spuFills = s.spuFills := by rw [wrs_eq]
@[simp] theorem wrs_aud (s : State) (l : List (Fld × Nat)) : (wrs s l).aud = s.aud := by rw [wrs_eq]
@[simp] theorem wrs_undoRun (s : State) (l : List (Fld × Nat)) : (wrs s l).undoRun = s.undoRun := by rw [wrs_eq]
@[simp] theorem wrs_unitSubs (s : State) (l : List (Fld × Nat)) : (wrs s l).unitSubs = s.unitSubs := by rw [wrs_eq]
@[simp] theorem wrs_siteSubs (s : State) (l : List (Fld × Nat)) : (wrs s l).siteSubs = s.siteSubs := by rw [wrs_eq]
@[simp] theorem wrs_stackCopy (s : State) (l : List (Fld × Nat)) : (wrs s l).stackCopy = s.stackCopy := by rw [wrs_eq]
@[simp] theorem wrs_dbl (s : State) (l : List (Fld × Nat)) : (wrs s l).dbl = s.dbl := by rw [wrs_eq]
@[simp] theorem wrs_time (s : State) (l : List (Fld × Nat)) : (wrs s l).time = s.time := by rw [wrs_eq]
@[simp] theorem wrs_fns (s : State) (l : List (Fld × Nat)) : (wrs s l).fns = s.fns := by rw [wrs_eq]
@[simp] theorem wrs_zeroing (s : State) (l : List (Fld × Nat)) : (wrs s l).zeroing = s.zeroing := by rw [wrs_eq]
@[simp] theorem wrs_closings (s : State) (l : List (Fld × Nat)) : (wrs s l).closings = s.closings := by rw [wrs_eq]
@[simp] theorem wrs_netNotes (s : State) (l : List (Fld × Nat)) : (wrs s l).netNotes = s.netNotes := by rw [wrs_eq]
@[simp] theorem wrs_fwRate (s : State) (l : List (Fld × Nat)) : (wrs s l).fwRate = s.fwRate := by rw [wrs_eq]
@[simp] theorem wrs_windows (s : State) (l : List (Fld × Nat)) : (wrs s l).windows = s.windows := by rw [wrs_eq]
@[simp] theorem wrs_bubbleNow (s : State) (l : List (Fld × Nat)) : (wrs s l).bubbleNow = s.bubbleNow := by rw [wrs_eq]
@[simp] theorem wrs_grd (s : State) (l : List (Fld × Nat)) : (wrs s l).grd = s.grd := by rw [wrs_eq]
@[simp] theorem wrs_badSites (s : State) (l : List (Fld × Nat)) : (wrs s l).badSites = s.badSites := by rw [wrs_eq]
@[simp] theorem wrs_winMax (s : State) (l : List (Fld × Nat)) : (wrs s l).winMax = s.winMax := by rw [wrs_eq]
@[simp] theorem wrs_pwr (s : State) (l : List (Fld × Nat)) : (wrs s l).pwr = s.pwr := by rw [wrs_eq]
@[simp] theorem wrs_boot (s : State) (l : List (Fld × Nat)) : (wrs s l).boot = s.boot := by rw [wrs_eq]
@[simp] theorem wrs_readyAt (s : State) (l : List (Fld × Nat)) : (wrs s l).readyAt = s.readyAt := by rw [wrs_eq]
@[simp] theorem wrs_sec (s : State) (l : List (Fld × Nat)) : (wrs s l).sec = s.sec := by rw [wrs_eq]
@[simp] theorem wrs_pairs (s : State) (l : List (Fld × Nat)) : (wrs s l).pairs = s.pairs := by rw [wrs_eq]
@[simp] theorem wrs_neighbours (s : State) (l : List (Fld × Nat)) : (wrs s l).neighbours = s.neighbours := by rw [wrs_eq]
@[simp] theorem wrs_lostCarry (s : State) (l : List (Fld × Nat)) : (wrs s l).lostCarry = s.lostCarry := by rw [wrs_eq]
@[simp] theorem wrs_cleared (s : State) (l : List (Fld × Nat)) : (wrs s l).cleared = s.cleared := by rw [wrs_eq]
@[simp] theorem wrs_upsets (s : State) (l : List (Fld × Nat)) : (wrs s l).upsets = s.upsets := by rw [wrs_eq]
@[simp] theorem wrs_pending (s : State) (l : List (Fld × Nat)) : (wrs s l).pending = s.pending := by rw [wrs_eq]

/-! ### modRun -/

theorem modRun_eq (s : State) (r : Nat) (f : Run → Run) : modRun s r f = { s with runs := (modRun s r f).runs } := by
  unfold modRun
  split <;> rfl

@[simp] theorem modRun_part (s : State) (r : Nat) (f : Run → Run) : (modRun s r f).part = s.part := by rw [modRun_eq]
@[simp] theorem modRun_regs (s : State) (r : Nat) (f : Run → Run) : (modRun s r f).regs = s.regs := by rw [modRun_eq]
@[simp] theorem modRun_mem (s : State) (r : Nat) (f : Run → Run) : (modRun s r f).mem = s.mem := by rw [modRun_eq]
@[simp] theorem modRun_out (s : State) (r : Nat) (f : Run → Run) : (modRun s r f).out = s.out := by rw [modRun_eq]
@[simp] theorem modRun_freeCtr (s : State) (r : Nat) (f : Run → Run) : (modRun s r f).freeCtr = s.freeCtr := by rw [modRun_eq]
@[simp] theorem modRun_now (s : State) (r : Nat) (f : Run → Run) : (modRun s r f).now = s.now := by rw [modRun_eq]
@[simp] theorem modRun_todFrac (s : State) (r : Nat) (f : Run → Run) : (modRun s r f).todFrac = s.todFrac := by rw [modRun_eq]
@[simp] theorem modRun_tiles (s : State) (r : Nat) (f : Run → Run) : (modRun s r f).tiles = s.tiles := by rw [modRun_eq]
@[simp] theorem modRun_fabric (s : State) (r : Nat) (f : Run → Run) : (modRun s r f).fabric = s.fabric := by rw [modRun_eq]
@[simp] theorem modRun_waiters (s : State) (r : Nat) (f : Run → Run) : (modRun s r f).waiters = s.waiters := by rw [modRun_eq]
@[simp] theorem modRun_lockerQ (s : State) (r : Nat) (f : Run → Run) : (modRun s r f).lockerQ = s.lockerQ := by rw [modRun_eq]
@[simp] theorem modRun_claims (s : State) (r : Nat) (f : Run → Run) : (modRun s r f).claims = s.claims := by rw [modRun_eq]
@[simp] theorem modRun_jobs (s : State) (r : Nat) (f : Run → Run) : (modRun s r f).jobs = s.jobs := by rw [modRun_eq]
@[simp] theorem modRun_epochs (s : State) (r : Nat) (f : Run → Run) : (modRun s r f).epochs = s.epochs := by rw [modRun_eq]
@[simp] theorem modRun_epochAt (s : State) (r : Nat) (f : Run → Run) : (modRun s r f).epochAt = s.epochAt := by rw [modRun_eq]
@[simp] theorem modRun_runNext (s : State) (r : Nat) (f : Run → Run) : (modRun s r f).runNext = s.runNext := by rw [modRun_eq]
@[simp] theorem modRun_submNext (s : State) (r : Nat) (f : Run → Run) : (modRun s r f).submNext = s.submNext := by rw [modRun_eq]
@[simp] theorem modRun_periods (s : State) (r : Nat) (f : Run → Run) : (modRun s r f).periods = s.periods := by rw [modRun_eq]
@[simp] theorem modRun_siteMap (s : State) (r : Nat) (f : Run → Run) : (modRun s r f).siteMap = s.siteMap := by rw [modRun_eq]
@[simp] theorem modRun_stackMap (s : State) (r : Nat) (f : Run → Run) : (modRun s r f).stackMap = s.stackMap := by rw [modRun_eq]
@[simp] theorem modRun_parts (s : State) (r : Nat) (f : Run → Run) : (modRun s r f).parts = s.parts := by rw [modRun_eq]
@[simp] theorem modRun_bubbles (s : State) (r : Nat) (f : Run → Run) : (modRun s r f).bubbles = s.bubbles := by rw [modRun_eq]
@[simp] theorem modRun_descs (s : State) (r : Nat) (f : Run → Run) : (modRun s r f).descs = s.descs := by rw [modRun_eq]
@[simp] theorem modRun_cqs (s : State) (r : Nat) (f : Run → Run) : (modRun s r f).cqs = s.cqs := by rw [modRun_eq]
@[simp] theorem modRun_cands (s : State) (r : Nat) (f : Run → Run) : (modRun s r f).cands = s.cands := by rw [modRun_eq]
@[simp] theorem modRun_copies (s : State) (r : Nat) (f : Run → Run) : (modRun s r f).copies = s.copies := by rw [modRun_eq]
@[simp] theorem modRun_carries (s : State) (r : Nat) (f : Run → Run) : (modRun s r f).carries = s.carries := by rw [modRun_eq]
@[simp] theorem modRun_heldReps (s : State) (r : Nat) (f : Run → Run) : (modRun s r f).heldReps = s.heldReps := by rw [modRun_eq]
@[simp] theorem modRun_assocs (s : State) (r : Nat) (f : Run → Run) : (modRun s r f).assocs = s.assocs := by rw [modRun_eq]
@[simp] theorem modRun_plans (s : State) (r : Nat) (f : Run → Run) : (modRun s r f).plans = s.plans := by rw [modRun_eq]
@[simp] theorem modRun_spuFills (s : State) (r : Nat) (f : Run → Run) : (modRun s r f).spuFills = s.spuFills := by rw [modRun_eq]
@[simp] theorem modRun_aud (s : State) (r : Nat) (f : Run → Run) : (modRun s r f).aud = s.aud := by rw [modRun_eq]
@[simp] theorem modRun_undoRun (s : State) (r : Nat) (f : Run → Run) : (modRun s r f).undoRun = s.undoRun := by rw [modRun_eq]
@[simp] theorem modRun_unitSubs (s : State) (r : Nat) (f : Run → Run) : (modRun s r f).unitSubs = s.unitSubs := by rw [modRun_eq]
@[simp] theorem modRun_siteSubs (s : State) (r : Nat) (f : Run → Run) : (modRun s r f).siteSubs = s.siteSubs := by rw [modRun_eq]
@[simp] theorem modRun_stackCopy (s : State) (r : Nat) (f : Run → Run) : (modRun s r f).stackCopy = s.stackCopy := by rw [modRun_eq]
@[simp] theorem modRun_dbl (s : State) (r : Nat) (f : Run → Run) : (modRun s r f).dbl = s.dbl := by rw [modRun_eq]
@[simp] theorem modRun_time (s : State) (r : Nat) (f : Run → Run) : (modRun s r f).time = s.time := by rw [modRun_eq]
@[simp] theorem modRun_fns (s : State) (r : Nat) (f : Run → Run) : (modRun s r f).fns = s.fns := by rw [modRun_eq]
@[simp] theorem modRun_zeroing (s : State) (r : Nat) (f : Run → Run) : (modRun s r f).zeroing = s.zeroing := by rw [modRun_eq]
@[simp] theorem modRun_closings (s : State) (r : Nat) (f : Run → Run) : (modRun s r f).closings = s.closings := by rw [modRun_eq]
@[simp] theorem modRun_netNotes (s : State) (r : Nat) (f : Run → Run) : (modRun s r f).netNotes = s.netNotes := by rw [modRun_eq]
@[simp] theorem modRun_fwRate (s : State) (r : Nat) (f : Run → Run) : (modRun s r f).fwRate = s.fwRate := by rw [modRun_eq]
@[simp] theorem modRun_windows (s : State) (r : Nat) (f : Run → Run) : (modRun s r f).windows = s.windows := by rw [modRun_eq]
@[simp] theorem modRun_bubbleNow (s : State) (r : Nat) (f : Run → Run) : (modRun s r f).bubbleNow = s.bubbleNow := by rw [modRun_eq]
@[simp] theorem modRun_grd (s : State) (r : Nat) (f : Run → Run) : (modRun s r f).grd = s.grd := by rw [modRun_eq]
@[simp] theorem modRun_badSites (s : State) (r : Nat) (f : Run → Run) : (modRun s r f).badSites = s.badSites := by rw [modRun_eq]
@[simp] theorem modRun_winMax (s : State) (r : Nat) (f : Run → Run) : (modRun s r f).winMax = s.winMax := by rw [modRun_eq]
@[simp] theorem modRun_pwr (s : State) (r : Nat) (f : Run → Run) : (modRun s r f).pwr = s.pwr := by rw [modRun_eq]
@[simp] theorem modRun_boot (s : State) (r : Nat) (f : Run → Run) : (modRun s r f).boot = s.boot := by rw [modRun_eq]
@[simp] theorem modRun_readyAt (s : State) (r : Nat) (f : Run → Run) : (modRun s r f).readyAt = s.readyAt := by rw [modRun_eq]
@[simp] theorem modRun_sec (s : State) (r : Nat) (f : Run → Run) : (modRun s r f).sec = s.sec := by rw [modRun_eq]
@[simp] theorem modRun_pairs (s : State) (r : Nat) (f : Run → Run) : (modRun s r f).pairs = s.pairs := by rw [modRun_eq]
@[simp] theorem modRun_neighbours (s : State) (r : Nat) (f : Run → Run) : (modRun s r f).neighbours = s.neighbours := by rw [modRun_eq]
@[simp] theorem modRun_lostCarry (s : State) (r : Nat) (f : Run → Run) : (modRun s r f).lostCarry = s.lostCarry := by rw [modRun_eq]
@[simp] theorem modRun_cleared (s : State) (r : Nat) (f : Run → Run) : (modRun s r f).cleared = s.cleared := by rw [modRun_eq]
@[simp] theorem modRun_upsets (s : State) (r : Nat) (f : Run → Run) : (modRun s r f).upsets = s.upsets := by rw [modRun_eq]
@[simp] theorem modRun_pending (s : State) (r : Nat) (f : Run → Run) : (modRun s r f).pending = s.pending := by rw [modRun_eq]

/-! ### Register fields -/

@[simp] theorem rd_wr_self (s : State) (f : Fld) (v : Nat) : rd (wr s f v) f = v % 2 ^ f.w := by
  simp [rd, wr, Store.getD_put]

theorem rd_wr_ne (s : State) {f g : Fld} (v : Nat) (h : g.key ≠ f.key) : rd (wr s f v) g = rd s g := by
  simp [rd, wr, Store.get?_put_ne _ _ _ h]

@[simp] theorem rd_bump_self (s : State) (f : Fld) (n : Nat) : rd (bump s f n) f = min (rd s f + n) (2 ^ f.w - 1) := by
  have h : 0 < 2 ^ f.w := by positivity
  rw [bump, rd_wr_self, Nat.mod_eq_of_lt (by omega)]

theorem rd_bump_ne (s : State) {f g : Fld} (n : Nat) (h : g.key ≠ f.key) : rd (bump s f n) g = rd s g := rd_wr_ne s _ h

@[simp] theorem rd_raise_self (s : State) (f : Fld) (b : Nat) : rd (raise s f b) f = (rd s f ||| 2 ^ b) % 2 ^ f.w := rd_wr_self s f _

theorem rd_raise_ne (s : State) {f g : Fld} (b : Nat) (h : g.key ≠ f.key) : rd (raise s f b) g = rd s g := rd_wr_ne s _ h

theorem rd_wrs_ne (s : State) (l : List (Fld × Nat)) (g : Fld) (h : ∀ p ∈ l, g.key ≠ p.1.key) : rd (wrs s l) g = rd s g := by
  induction l generalizing s with
  | nil => rfl
  | cons p r ih =>
    have e : wrs s (p :: r) = wrs (wr s p.1 p.2) r := rfl
    rw [e, ih _ fun q hq => h q (List.mem_cons_of_mem _ hq), rd_wr_ne _ _ (h p List.mem_cons_self)]

/-- A field reads the same where the registers and the part are the same. -/
theorem rd_congr {s t : State} (f : Fld) (hr : t.regs = s.regs) (hp : t.part = s.part) : rd t f = rd s f := by
  simp [rd, hr, hp]

@[simp] theorem rd_emitOut (s : State) (o : Out) (g : Fld) : rd (emitOut s o) g = rd s g := rfl
@[simp] theorem rd_takeFree (s : State) (n : Nat) (g : Fld) : rd (takeFree s n) g = rd s g := rfl
@[simp] theorem rd_setTile (s : State) (t : Nat) (x : Tile) (g : Fld) : rd (setTile s t x) g = rd s g := rfl
@[simp] theorem rd_modTile (s : State) (t : Nat) (f : Tile → Tile) (g : Fld) : rd (modTile s t f) g = rd s g := rfl
@[simp] theorem rd_setRun (s : State) (r : Nat) (x : Run) (g : Fld) : rd (setRun s r x) g = rd s g := rfl
@[simp] theorem rd_setJob (s : State) (j : Nat) (x : Job) (g : Fld) : rd (setJob s j x) g = rd s g := rfl
@[simp] theorem rd_setPeriod (s : State) (q : Nat) (x : Period) (g : Fld) : rd (setPeriod s q x) g = rd s g := rfl
@[simp] theorem rd_modFn (s : State) (n : Nat) (f : HostFn → HostFn) (g : Fld) : rd (modFn s n f) g = rd s g := rfl
@[simp] theorem rd_writeByte (s : State) (a : Nat) (b : Byte) (g : Fld) : rd (writeByte s a b) g = rd s g := rfl
@[simp] theorem rd_zeroSpan (s : State) (a n : Nat) (g : Fld) : rd (zeroSpan s a n) g = rd s g := rfl
@[simp] theorem rd_sendItem (s : State) (i : Item) (g : Fld) : rd (sendItem s i) g = rd s g := rfl
@[simp] theorem rd_modTime (s : State) (f : TimeSt → TimeSt) (g : Fld) : rd (modTime s f) g = rd s g := rfl
@[simp] theorem rd_modBoot (s : State) (f : BootSt → BootSt) (g : Fld) : rd (modBoot s f) g = rd s g := rfl
@[simp] theorem rd_modAssoc (s : State) (a : Nat) (f : AssocSt → AssocSt) (g : Fld) : rd (modAssoc s a f) g = rd s g := rfl
@[simp] theorem rd_modAud (s : State) (q : Nat) (f : AudSt → AudSt) (g : Fld) : rd (modAud s q f) g = rd s g := rfl
@[simp] theorem rd_modSpdm (s : State) (k : Nat) (f : SpdmSt → SpdmSt) (g : Fld) : rd (modSpdm s k f) g = rd s g := rfl
@[simp] theorem rd_modRun (s : State) (r : Nat) (f : Run → Run) (g : Fld) : rd (modRun s r f) g = rd s g := rd_congr g (by simp) (by simp)
@[simp] theorem tileOf_wr (s : State) (f : Fld) (v : Nat) (u : Nat) : tileOf (wr s f v) u = tileOf s u := rfl
@[simp] theorem tileOf_bump (s : State) (f : Fld) (n : Nat) (u : Nat) : tileOf (bump s f n) u = tileOf s u := rfl
@[simp] theorem tileOf_raise (s : State) (f : Fld) (b : Nat) (u : Nat) : tileOf (raise s f b) u = tileOf s u := rfl
@[simp] theorem tileOf_emitOut (s : State) (o : Out) (u : Nat) : tileOf (emitOut s o) u = tileOf s u := rfl
@[simp] theorem tileOf_takeFree (s : State) (n : Nat) (u : Nat) : tileOf (takeFree s n) u = tileOf s u := rfl
@[simp] theorem tileOf_setRun (s : State) (r : Nat) (x : Run) (u : Nat) : tileOf (setRun s r x) u = tileOf s u := rfl
@[simp] theorem tileOf_setJob (s : State) (j : Nat) (x : Job) (u : Nat) : tileOf (setJob s j x) u = tileOf s u := rfl
@[simp] theorem tileOf_setPeriod (s : State) (q : Nat) (x : Period) (u : Nat) : tileOf (setPeriod s q x) u = tileOf s u := rfl
@[simp] theorem tileOf_modFn (s : State) (n : Nat) (f : HostFn → HostFn) (u : Nat) : tileOf (modFn s n f) u = tileOf s u := rfl
@[simp] theorem tileOf_setBoot (s : State) (n : Nat) (u : Nat) : tileOf (setBoot s n) u = tileOf s u := rfl
@[simp] theorem tileOf_writeByte (s : State) (a : Nat) (b : Byte) (u : Nat) : tileOf (writeByte s a b) u = tileOf s u := rfl
@[simp] theorem tileOf_zeroSpan (s : State) (a n : Nat) (u : Nat) : tileOf (zeroSpan s a n) u = tileOf s u := rfl
@[simp] theorem tileOf_sendItem (s : State) (i : Item) (u : Nat) : tileOf (sendItem s i) u = tileOf s u := rfl
@[simp] theorem tileOf_modTime (s : State) (f : TimeSt → TimeSt) (u : Nat) : tileOf (modTime s f) u = tileOf s u := rfl
@[simp] theorem tileOf_modBoot (s : State) (f : BootSt → BootSt) (u : Nat) : tileOf (modBoot s f) u = tileOf s u := rfl
@[simp] theorem tileOf_modAssoc (s : State) (a : Nat) (f : AssocSt → AssocSt) (u : Nat) : tileOf (modAssoc s a f) u = tileOf s u := rfl
@[simp] theorem tileOf_modAud (s : State) (q : Nat) (f : AudSt → AudSt) (u : Nat) : tileOf (modAud s q f) u = tileOf s u := rfl
@[simp] theorem tileOf_modSpdm (s : State) (k : Nat) (f : SpdmSt → SpdmSt) (u : Nat) : tileOf (modSpdm s k f) u = tileOf s u := rfl
@[simp] theorem tileOf_setTodFine (s : State) (v : Nat) (u : Nat) : tileOf (setTodFine s v) u = tileOf s u := rfl
@[simp] theorem tileOf_wrs (s : State) (l : List (Fld × Nat)) (u : Nat) : tileOf (wrs s l) u = tileOf s u := by rw [wrs_eq]; rfl
@[simp] theorem tileOf_modRun (s : State) (r : Nat) (f : Run → Run) (u : Nat) : tileOf (modRun s r f) u = tileOf s u := by rw [modRun_eq]; rfl

/-! ### Tiles -/

@[simp] theorem tileOf_setTile_self (s : State) (t : Nat) (x : Tile) : tileOf (setTile s t x) t = x := by
  simp [tileOf, setTile]

theorem tileOf_setTile_ne (s : State) {t u : Nat} (x : Tile) (h : u ≠ t) : tileOf (setTile s t x) u = tileOf s u := by
  simp [tileOf, setTile, Store.get?_set_ne _ _ h]

@[simp] theorem tileOf_modTile_self (s : State) (t : Nat) (f : Tile → Tile) : tileOf (modTile s t f) t = f (tileOf s t) := by
  simp [modTile]

theorem tileOf_modTile_ne (s : State) {t u : Nat} (f : Tile → Tile) (h : u ≠ t) : tileOf (modTile s t f) u = tileOf s u :=
  tileOf_setTile_ne s _ h

/-- A tile is the same where the tiles are the same. -/
theorem tileOf_congr {s t : State} (u : Nat) (h : t.tiles = s.tiles) : tileOf t u = tileOf s u := by
  simp [tileOf, h]

end Sys2Proof.Machine
end

