-- ==== Sys2Proof/Laws/Tiles.lean ====
section
/-! SUPPORT. What the shared operations of a tile can do: a scheduled access, a tick, a bundle's end, the issue of an
operation (03, R56 to R73). -/

namespace Sys2Proof.Machine

theorem TilesKeptBut.trans {s t u : State} {k : Nat} (h : TilesKeptBut s t k) (g : TilesKeptBut t u k) : TilesKeptBut s u k :=
  fun v hv => (g v hv).trans (h v hv)

theorem TilesKeptBut.of_eq {s t : State} {k : Nat} (h : t.tiles = s.tiles) : TilesKeptBut s t k := fun v _ => tileOf_congr v h

theorem tilesKept_modTile (s : State) (t : Nat) (f : Tile → Tile) : TilesKeptBut s (modTile s t f) t :=
  fun _ hv => tileOf_modTile_ne s f hv

theorem FieldsKept.trans {s t u : State} {l : List Fld} (h : FieldsKept s t l) (g : FieldsKept t u l) : FieldsKept s u l :=
  fun f hf => (g f hf).trans (h f hf)

theorem FieldsKept.mono {s t : State} {l m : List Fld} (h : FieldsKept s t l) (hs : ∀ f ∈ l, f ∈ m) : FieldsKept s t m :=
  fun f hf => h f fun g hg => hf g (hs g hg)

theorem FieldsKept.of_eq {s t : State} {l : List Fld} (hr : t.regs = s.regs) (hp : t.part = s.part) : FieldsKept s t l :=
  fun f _ => rd_congr f hr hp

theorem fieldsKept_wr (s : State) (f : Fld) (v : Nat) : FieldsKept s (wr s f v) [f] :=
  fun g hg => rd_wr_ne s v (hg f (by simp))

theorem writeBytes_eq (s : State) (a : Nat) (b : Bytes) : writeBytes s a b = { s with mem := (writeBytes s a b).mem } := by
  induction b generalizing s a with
  | nil => rfl
  | cons x r ih => exact ih (writeByte s a x) (a + 1)

theorem writeBits_eq (s : State) (a : Nat) (b : List (Byte × Byte)) :
    writeBits s a b = { s with mem := (writeBits s a b).mem } := by
  induction b generalizing s a with
  | nil => rfl
  | cons x r ih =>
    obtain ⟨b, m⟩ := x
    simp only [writeBits]
    split
    · exact ih s (a + 1)
    · exact ih _ (a + 1)

/-- What accesses of a tile leave alone: everything but memory, the fabric and the tile itself, whose scheduled accesses,
weight buffers and aide registers alone may change. -/
structure AccessFrame (s s' : State) (t : Nat) : Prop where
  rest : { s' with tiles := s.tiles, mem := s.mem, fabric := s.fabric } = s
  others : TilesKeptBut s s' t
  own : ∃ m w r, tileOf s' t = { tileOf s t with micros := m, wbuf := w, aregs := r }

theorem AccessFrame.refl (s : State) (t : Nat) : AccessFrame s s t :=
  ⟨rfl, fun _ _ => rfl, ⟨_, _, _, rfl⟩⟩

theorem AccessFrame.trans {a b c : State} {t : Nat} (h : AccessFrame a b t) (g : AccessFrame b c t) : AccessFrame a c t := by
  refine ⟨?_, h.others.trans g.others, ?_⟩
  · have h1 := h.rest
    have g1 := g.rest
    rw [← h1]
    rw [← h1, ← g1] at *
  · obtain ⟨m, w, r, e⟩ := h.own
    obtain ⟨m', w', r', e'⟩ := g.own
    exact ⟨m', w', r', by rw [e', e]⟩

theorem AccessFrame.regs {s s' : State} {t : Nat} (h : AccessFrame s s' t) : s'.regs = s.regs := by
  have e : ({ s' with tiles := s.tiles, mem := s.mem, fabric := s.fabric } : State).regs = s.regs := by rw [h.rest]
  exact e

theorem AccessFrame.part {s s' : State} {t : Nat} (h : AccessFrame s s' t) : s'.part = s.part := by
  have e : ({ s' with tiles := s.tiles, mem := s.mem, fabric := s.fabric } : State).part = s.part := by rw [h.rest]
  exact e

theorem AccessFrame.rd {s s' : State} {t : Nat} (h : AccessFrame s s' t) (f : Fld) : rd s' f = rd s f :=
  rd_congr f h.regs h.part

theorem accessFrame_tile (s : State) (t : Nat) (f : Tile → Tile)
    (h : ∃ m w r, f (tileOf s t) = { tileOf s t with micros := m, wbuf := w, aregs := r }) : AccessFrame s (modTile s t f) t :=
  ⟨rfl, tilesKept_modTile s t f, by simpa using h⟩

theorem accessFrame_mem (s : State) (t : Nat) (m : List Host.Cell) : AccessFrame s { s with mem := m } t :=
  ⟨rfl, fun _ _ => rfl, ⟨_, _, _, rfl⟩⟩

theorem accessFrame_fabric (s : State) (t : Nat) (l : List Item) : AccessFrame s { s with fabric := l } t :=
  ⟨rfl, fun _ _ => rfl, ⟨_, _, _, rfl⟩⟩

theorem runAct_frame (s : State) (t tick slot : Nat) (a : Act) : AccessFrame s (runAct s t tick slot a) t := by
  cases a with
  | weightLine buf idx src =>
    simp only [runAct]
    apply accessFrame_tile
    exact ⟨_, _, _, rfl⟩
  | storeLine src dst =>
    simp only [runAct]
    rw [writeBytes_eq]
    exact accessFrame_mem s t _
  | moveLine src n dst d =>
    simp only [runAct]
    apply accessFrame_tile
    exact ⟨_, _, _, rfl⟩
  | write addr data =>
    simp only [runAct]
    rw [writeBits_eq]
    exact accessFrame_mem s t _
  | sendLine ep inc pc src => exact accessFrame_fabric s t _
  | sendIncr ctr amt pc => exact accessFrame_fabric s t _
  | aideRead a r addr n sext =>
    simp only [runAct]
    apply accessFrame_tile
    simp only [Tile.setReg]
    split
    · exact ⟨_, _, _, rfl⟩
    · exact ⟨_, _, _, rfl⟩

theorem runMicros_frame (n : Nat) (s : State) (t bound : Nat) : AccessFrame s (runMicros n s t bound) t := by
  induction n generalizing s with
  | zero => exact AccessFrame.refl s t
  | succ n ih =>
    simp only [runMicros]
    split
    · exact AccessFrame.refl s t
    · split
      · refine AccessFrame.trans ?_ (ih _)
        refine AccessFrame.trans ?_ (runAct_frame _ _ _ _ _)
        apply accessFrame_tile
        exact ⟨_, _, _, rfl⟩
      · exact AccessFrame.refl s t

theorem runDue_frame (s : State) (t bound : Nat) : AccessFrame s (runDue s t bound) t := runMicros_frame _ s t bound

/-- With no scheduled access up to the bound, none runs. -/
theorem runDue_none {s : State} {t bound : Nat} (h : ∀ m ∈ (tileOf s t).micros, bound < m.tick) : runDue s t bound = s := by
  unfold runDue
  cases hm : (tileOf s t).micros with
  | nil => simp [runMicros]
  | cons m r =>
    have hb := h m (by simp [hm])
    have e : 2 * (m :: r).length = (2 * r.length + 1) + 1 := by simp; omega
    rw [e, runMicros, hm]
    simp only
    rw [if_neg (by simp only [Micro.order]; omega)]

theorem flushMicros_frame (s : State) (t : Nat) : AccessFrame s (flushMicros s t) t := runDue_frame s t _

/-- The fields of VE_TRAY (R164). -/
def trayFields (t : Nat) : List Fld :=
  [VE_TRAY_entries t, VE_TRAY_free_lines t, VE_TRAY_head_long t, VE_TRAY_head_visible t, VE_TRAY_peak_lines t]

/-- Only registers change, and of them only those listed. -/
structure RegFrame (s s' : State) (l : List Fld) : Prop where
  rest : { s' with regs := s.regs } = s
  kept : FieldsKept s s' l

theorem RegFrame.refl (s : State) (l : List Fld) : RegFrame s s l := ⟨rfl, fun _ _ => rfl⟩

theorem RegFrame.trans {a b c : State} {l : List Fld} (h : RegFrame a b l) (g : RegFrame b c l) : RegFrame a c l := by
  refine ⟨?_, h.kept.trans g.kept⟩
  have h1 := h.rest
  have g1 := g.rest
  rw [← h1]
  rw [← h1, ← g1] at *

theorem RegFrame.mono {a b : State} {l m : List Fld} (h : RegFrame a b l) (hs : ∀ f ∈ l, f ∈ m) : RegFrame a b m :=
  ⟨h.rest, h.kept.mono hs⟩

theorem regFrame_wr (s : State) (f : Fld) (v : Nat) : RegFrame s (wr s f v) [f] := ⟨rfl, fieldsKept_wr s f v⟩

theorem regFrame_wrs (s : State) (l : List (Fld × Nat)) : RegFrame s (wrs s l) (l.map (·.1)) := by
  refine ⟨by rw [wrs_eq], fun f hf => rd_wrs_ne s l f ?_⟩
  intro p hp
  exact hf p.1 (List.mem_map_of_mem hp)

theorem RegFrame.tiles {a b : State} {l : List Fld} (h : RegFrame a b l) : b.tiles = a.tiles := by
  have e : ({ b with regs := a.regs } : State).tiles = a.tiles := by rw [h.rest]
  exact e
theorem RegFrame.mem {a b : State} {l : List Fld} (h : RegFrame a b l) : b.mem = a.mem := by
  have e : ({ b with regs := a.regs } : State).mem = a.mem := by rw [h.rest]
  exact e
theorem RegFrame.tileOf {a b : State} {l : List Fld} (h : RegFrame a b l) (u : Nat) : tileOf b u = tileOf a u :=
  tileOf_congr u h.tiles

theorem syncTray_frame (s : State) (t : Nat) : RegFrame s (syncTray s t) (trayFields t) := by
  have w : ∀ (a : State) (f : Fld) (v : Nat), f ∈ trayFields t → RegFrame a (wr a f v) (trayFields t) := fun a f v hf =>
    (regFrame_wr a f v).mono (by simpa using hf)
  unfold syncTray
  extract_lets x tick held s1 s2 s3 s4
  have h4 : RegFrame s s4 (trayFields t) :=
    (((w s _ _ (by simp [trayFields])).trans (w _ _ _ (by simp [trayFields]))).trans (w _ _ _ (by simp [trayFields]))).trans
      (w _ _ _ (by simp [trayFields]))
  split
  · exact h4.trans (w _ _ _ (by simp [trayFields]))
  · exact h4

/-- What a tick leaves alone (R59, R69): beside the accesses that fall due, TIL_TICK and VE_TRAY of the tile, and the tile's
marks, port ticks and tray lines that lie behind. -/
structure TickFrame (s s' : State) (t k : Nat) : Prop where
  rest : { s' with regs := s.regs, tiles := s.tiles, mem := s.mem, fabric := s.fabric } = s
  kept : FieldsKept s s' (TIL_TICK_tick t :: trayFields t)
  tick : tickOf s' t = min k (2 ^ 48 - 1)
  others : TilesKeptBut s s' t
  own : ∃ m w r mk us fr, tileOf s' t =
    { tileOf s t with micros := m, wbuf := w, aregs := r, marks := mk, uses := us, freeing := fr, newMsg := 0, newAid := 0 }
  quiet : (∀ m ∈ (tileOf s t).micros, k < m.tick) → s'.mem = s.mem ∧ s'.fabric = s.fabric ∧
    (tileOf s' t).micros = (tileOf s t).micros ∧ (tileOf s' t).wbuf = (tileOf s t).wbuf ∧ (tileOf s' t).aregs = (tileOf s t).aregs

theorem setTick_frame (s : State) (t k : Nat) : TickFrame s (setTick s t k) t k := by
  unfold setTick
  extract_lets s1 s2
  have h1 : AccessFrame s s1 t := runDue_frame s t k
  have h3 := syncTray_frame (wr s2 (TIL_TICK_tick t) (min k (2 ^ 48 - 1))) t
  have e2 : tileOf s2 t = { tileOf s1 t with
      marks := (tileOf s1 t).marks.filter (fun m => m.waits || decide (k < m.present))
      uses := (tileOf s1 t).uses.filter (fun u => decide (k ≤ u.tick))
      freeing := (tileOf s1 t).freeing.filter (fun p => decide (k < p.1))
      newMsg := 0, newAid := 0 } := by simp [s2]
  have e4 : tileOf (syncTray (wr s2 (TIL_TICK_tick t) (min k (2 ^ 48 - 1))) t) t = tileOf s2 t := h3.tileOf t
  refine ⟨?_, ?_, ?_, ?_, ?_, ?_⟩
  · have r3 := h3.rest
    have r1 := h1.rest
    rw [← r1]
    rw [← r1] at *
    have : ∀ (a b c : State), { a with regs := b.regs } = b → b = { c with regs := b.regs, tiles := b.tiles } →
        ({ a with regs := c.regs, tiles := c.tiles } : State) = c := by
      intro a b c h g
      have e1 : ({ a with regs := c.regs, tiles := c.tiles } : State) =
          { ({ a with regs := b.regs } : State) with regs := c.regs, tiles := c.tiles } := rfl
      rw [e1, h, g]
    have e := this (syncTray (wr s2 (TIL_TICK_tick t) (min k (2 ^ 48 - 1))) t) (wr s2 (TIL_TICK_tick t) (min k (2 ^ 48 - 1))) s1 r3 rfl
    rw [← e]
  · intro f hf
    have a1 := h3.kept f (fun g hg => hf g (List.mem_cons_of_mem _ hg))
    have a2 : rd (wr s2 (TIL_TICK_tick t) (min k (2 ^ 48 - 1))) f = rd s2 f := rd_wr_ne _ _ (hf _ List.mem_cons_self)
    have a3 : rd s2 f = rd s1 f := rfl
    rw [a1, a2, a3, h1.rd f]
  · have a1 : rd (syncTray (wr s2 (TIL_TICK_tick t) (min k (2 ^ 48 - 1))) t) (TIL_TICK_tick t) = rd (wr s2 (TIL_TICK_tick t) (min k (2 ^ 48 - 1))) (TIL_TICK_tick t) := by
      refine h3.kept _ ?_
      intro g hg
      simp only [trayFields, List.mem_cons, List.not_mem_nil, or_false] at hg
      rcases hg with rfl | rfl | rfl | rfl | rfl <;>
        simp only [Fld.key, TIL_TICK_tick, TIL_TICK, VE_TRAY_entries, VE_TRAY_free_lines, VE_TRAY_head_long, VE_TRAY_head_visible,
          VE_TRAY_peak_lines, VE_TRAY] <;> omega
    show rd _ _ = _
    rw [a1, rd_wr_self]
    exact Nat.mod_eq_of_lt (by show min k (2 ^ 48 - 1) < 2 ^ 48; omega)
  · intro v hv
    rw [h3.tileOf v]
    show tileOf s2 v = _
    rw [show tileOf s2 v = tileOf s1 v from tileOf_modTile_ne s1 _ hv]
    exact h1.others v hv
  · obtain ⟨m, w, r, e⟩ := h1.own
    rw [e4, e2, e]
    exact ⟨_, _, _, _, _, _, rfl⟩
  · intro hq
    have e1 : s1 = s := runDue_none hq
    rw [e4, e2, e1]
    refine ⟨?_, ?_, rfl, rfl, rfl⟩
    · have := congrArg State.mem h3.rest
      exact this.trans (by show s2.mem = _; simp [s2, e1])
    · have := congrArg State.fabric h3.rest
      exact this.trans (by show s2.fabric = _; simp [s2, e1])

/-- The end of a bundle whose SEQ operation leaves no wait. -/
theorem endBundle_moved (s : State) (t : Nat) (f : Tile → Tile) (target : Option Nat) (cost : Nat)
    (hw : (f (tileOf s t)).waits = []) (hm : (f (tileOf s t)).micros = (tileOf s t).micros) :
    Moved s (endBundle (modTile (wr s (TIL_SEQ_STATUS_state t) 1) t f) t (tileOf s t).lims target cost) t (f (tileOf s t)) target
      cost := by
  have ht : tileOf (modTile (wr s (TIL_SEQ_STATUS_state t) 1) t f) t = f (tileOf s t) := tileOf_modTile_self _ _ _
  have hp : pcOf (modTile (wr s (TIL_SEQ_STATUS_state t) 1) t f) t = pcOf s t := by
    show rd (wr s (TIL_SEQ_STATUS_state t) 1) (TIL_SEQ_STATUS_pc t) = rd s (TIL_SEQ_STATUS_pc t)
    refine rd_wr_ne _ _ ?_
    simp only [Fld.key, TIL_SEQ_STATUS_pc, TIL_SEQ_STATUS_state]
    omega
  unfold endBundle
  simp only [ht, hp, hw, List.isEmpty_nil, if_true]
  generalize hL : loopNext (tileOf s t).lims (pcOf s t) (f (tileOf s t)).loops (f (tileOf s t)).cnts = L
  obtain ⟨loops, cnts, seqNext⟩ := L
  simp only
  generalize hx : modTile (modTile (wr s (TIL_SEQ_STATUS_state t) 1) t f) t _ = s2
  generalize ha : loops.foldl _ 0 = act
  generalize h6 : wr (wr (wr (wr s2 (TIL_SEQ_STATUS_pc t) (target.getD seqNext)) (TIL_SEQ_STATUS_loops_active t) act)
    (CH_WDOG_stalled t) 0) (TIL_SEQ_STATUS_state t) 1 = s6
  have hk2 : tileOf s2 t = { f (tileOf s t) with
      loops := loops, cnts := cnts, pcOver := decide (2 ^ 14 ≤ target.getD seqNext), hold := none, stall := none,
      firstIsCur := false, longIsCur := false } := by
    rw [← hx, tileOf_modTile_self, ht]
    simp [hw]
  have hk6 : tileOf s6 t = tileOf s2 t := by rw [← h6]; rfl
  have hr2 : ∀ g : Fld, g.key ≠ (TIL_SEQ_STATUS_state t).key → rd s2 g = rd s g := by
    intro g hg
    rw [← hx, rd_modTile, rd_modTile]
    exact rd_wr_ne s 1 hg
  have hkeep : ∀ g : Fld, g.key ≠ (TIL_SEQ_STATUS_state t).key → g.key ≠ (TIL_SEQ_STATUS_pc t).key →
      g.key ≠ (TIL_SEQ_STATUS_loops_active t).key → g.key ≠ (CH_WDOG_stalled t).key → rd s6 g = rd s g := by
    intro g h1 h2 h3 h4
    rw [← h6, rd_wr_ne _ _ h1, rd_wr_ne _ _ h4, rd_wr_ne _ _ h3, rd_wr_ne _ _ h2, hr2 g h1]
  have htick : tickOf s6 t = tickOf s t := by
    refine hkeep _ ?_ ?_ ?_ ?_ <;>
      simp only [Fld.key, TIL_TICK_tick, TIL_TICK, TIL_SEQ_STATUS_pc, TIL_SEQ_STATUS_state, TIL_SEQ_STATUS_loops_active,
        TIL_SEQ_STATUS, CH_WDOG_stalled, CH_WDOG] <;> omega
  have hT := setTick_frame s6 t (tickOf s t + cost)
  have e : tickOf (wr (wr (wr s2 (TIL_SEQ_STATUS_pc t) (target.getD seqNext)) (TIL_SEQ_STATUS_loops_active t) act)
    (CH_WDOG_stalled t) 0) t = tickOf s t := by
    rw [← htick, ← h6]
    refine (rd_wr_ne _ _ ?_).symm
    simp only [Fld.key, TIL_TICK_tick, TIL_TICK, TIL_SEQ_STATUS_state, TIL_SEQ_STATUS]
    omega
  rw [e]
  have hne : ∀ g : Fld, g.key = (TIL_SEQ_STATUS_pc t).key ∨ g.key = (TIL_SEQ_STATUS_state t).key →
      rd (setTick s6 t (tickOf s t + cost)) g = rd s6 g := by
    intro g hg
    refine hT.kept g ?_
    intro y hy
    simp only [trayFields, List.mem_cons, List.not_mem_nil, or_false] at hy
    rcases hg with hg | hg <;> rw [hg] <;> rcases hy with rfl | rfl | rfl | rfl | rfl | rfl <;>
      simp only [Fld.key, TIL_TICK_tick, TIL_TICK, VE_TRAY_entries, VE_TRAY_free_lines, VE_TRAY_head_long, VE_TRAY_head_visible,
        VE_TRAY_peak_lines, VE_TRAY, TIL_SEQ_STATUS_pc, TIL_SEQ_STATUS_state, TIL_SEQ_STATUS] <;> omega
  obtain ⟨m, w, r, mk, us, fr, ho⟩ := hT.own
  rw [hk6, hk2] at ho
  refine ⟨?_, ?_, ?_, by rw [ho, hL], hT.tick, ?_, ?_, ?_, ?_, ?_, ?_⟩
  · show rd _ _ = _
    rw [hne _ (.inl rfl), ← h6, rd_wr_ne, rd_wr_ne, rd_wr_ne, rd_wr_self, hL]
    · rfl
    all_goals
      simp only [Fld.key, TIL_SEQ_STATUS_pc, TIL_SEQ_STATUS_state, TIL_SEQ_STATUS_loops_active,
        TIL_SEQ_STATUS, CH_WDOG_stalled, CH_WDOG]
      omega
  · rw [ho, hL]
  · rw [ho, hL]
  · show rd _ _ = _
    rw [hne _ (.inr rfl), ← h6, rd_wr_self]
    rfl
  · exact ⟨none, none, false, false, mk, us, m, w, r, fr, by rw [ho]⟩
  · intro g hg
    rw [hT.kept g, hkeep g]
    · exact hg _ (by simp [bundleFields])
    · exact hg _ (by simp [bundleFields])
    · exact hg _ (by simp [bundleFields])
    · exact hg _ (by simp [bundleFields])
    · intro y hy
      exact hg y (by simp [trayFields] at hy; rcases hy with h | h | h | h | h | h <;> simp [bundleFields, h])
  · intro v hv
    rw [hT.others v hv, ← h6]
    show tileOf s2 v = _
    rw [← hx, tileOf_modTile_ne _ _ hv, tileOf_modTile_ne _ _ hv]
    rfl
  · intro hq
    have := hT.quiet (by rw [hk6, hk2]; simpa [hm] using hq)
    refine ⟨this.1.trans ?_, this.2.1.trans ?_⟩ <;> rw [← h6, ← hx] <;> rfl
  · have e1 : ({ (setTick s6 t (tickOf s t + cost)) with regs := s6.regs, tiles := s6.tiles, mem := s6.mem, fabric := s6.fabric } : State)
        = s6 := hT.rest
    have e2 : s6 = { s with regs := s6.regs, tiles := s6.tiles } := by rw [← h6, ← hx]; rfl
    have e3 : s6.mem = s.mem := by rw [e2]
    have e4 : s6.fabric = s.fabric := by rw [e2]
    have : ({ (setTick s6 t (tickOf s t + cost)) with regs := s.regs, tiles := s.tiles, mem := s.mem, fabric := s.fabric } : State)
        = { s6 with regs := s.regs, tiles := s.tiles, mem := s.mem, fabric := s.fabric } := by
      conv_rhs => rw [← e1]
    rw [this]
    conv_lhs => rw [e2]

/-- The issue of an operation whose bundle holds nothing else to judge is its own meaning (R56). -/
theorem issueBundle_alone {s : State} {t : Nat} (o : SlotOp) (h : Alone s t) : issueBundle t o s = o.run s := by
  unfold issueBundle
  split
  · rfl
  · next hn =>
    rcases h with h | ⟨h, hw⟩
    · simp [h] at hn
    · simp only [h]
      rw [if_pos (by rw [decide_eq_true hw, Bool.true_or])]

/-- The first operation of a bundle every one of whose slots can issue is its meaning with the bundle marked (R56). -/
theorem issueBundle_clear {s : State} {t : Nat} (o : SlotOp) (hi : issuing s t = true) (hb : bubbled s t = false)
    (hp : pcOut s t = false) (hc : isCleared s t = false) (hr : reservedSlot (bundleWord s t) = none)
    (hw : 2 ^ 32 ≤ bundleWord s t) (hn : (bundleOps t (bundleWord s t)).any (·.cmd == o.cmd) = true)
    (hv : ∀ p ∈ bundleOps t (bundleWord s t), verdict s t p = .clear) :
    issueBundle t o s = o.run { s with cleared := Store.set s.cleared t (pcOf s t, tickOf s t) } := by
  have h1 : holdOf (((bundleOps t (bundleWord s t)).map fun p => (p, verdict s t p)).map (·.2)) = none := by
    rw [List.map_map]
    have e : (bundleOps t (bundleWord s t)).map ((·.2) ∘ fun p => (p, verdict s t p)) =
        (bundleOps t (bundleWord s t)).map fun _ => Verdict.clear := List.map_congr_left hv
    rw [e]
    simp [bundleOps, holdOf]
  have h2 : (((bundleOps t (bundleWord s t)).map fun p => (p, verdict s t p)).find? (·.2.isError)) = none := by
    rw [List.find?_eq_none]
    intro p hp
    obtain ⟨q, hq, rfl⟩ := List.mem_map.1 hp
    simp [hv q hq, Verdict.isError]
  unfold issueBundle
  simp only [hi, hb, hp, hc, hr, Bool.not_true, Bool.or_self, Bool.false_eq_true, if_false, hn,
    show ¬ bundleWord s t < 2 ^ 32 from Nat.not_lt.2 hw, decide_false]
  rw [h1]
  simp only
  rw [h2]

end Sys2Proof.Machine
end

