-- ==== Sys2Proof/WellFormed.lean ====
section
/-! DEFINITION. Which terms of `Instr` stand for a command a part can receive: tiles, partitions, queues, functions and
other numbers within the part's counts (R1, R7, R251, R407, R424). -/

namespace Sys2Proof

open Sys2Proof.Machine (Part)

/-- A logical tile of the part. -/
def tileWf (p : Part) (t : Nat) : Bool := decide (t < p.tiles)

/-- The physical function (0) or a virtual function (1 to 8). -/
def fnWf (fn : Nat) : Bool := decide (fn ≤ 8)

/-- A sub-port of a port of the part. -/
def subPortWf (p : Part) (port sub : Nat) : Bool := decide (port < p.ports) && decide (sub < 4)

/-- The numbers of a command lie within the part's counts. -/
def Instr.wf (p : Part) : Instr → Bool
  | .registerWrite fn off _ | .causeClear fn off _ _ | .readClear fn off _ _ => fnWf fn && off % 8 == 0
  | .bar0BadAccess fn off size _ => fnWf fn && (size != 8 || off % 8 != 0)
  | .bar2BadAccess fn off size _ => fnWf fn && ((size != 4 && size != 8) || off % size != 0)
  | .bar4Access fn _ _ | .bar4BaseWrite fn _ _ | .timWindowRead fn | .timTodSet fn _ | .timAdjPhase fn _ _
  | .timAdjRate fn _ _ | .timeSourceConfig fn _ | .freqTargetWrite fn _ | .mapCommit fn | .grdArm fn _ | .dblResume fn
  | .dblKeep fn | .dblLeave fn | .partitionCommit fn | .keySlotClear fn _ | .msaInstall fn _ | .msaDelete fn _
  | .pairKeySet fn | .svnRaise fn _ | .irqRearm fn _ | .msixSend fn | .msixConfigWrite fn _ | .powerStateChange fn _
  | .moduleReset fn | .fwLoad fn | .doublesEnable fn _ => fnWf fn
  | .vfRearm fn => decide (1 ≤ fn) && fnWf fn
  | .startBell q | .seatPeriod q _ | .replyScan q | .signTimer q | .sigWritten q | .seatLost q | .vfFlr q
  | .seating q _ _ => decide (q < 8)
  | .markBell q m | .bellAct q m => decide (q < 8) && decide (m < 16)
  | .logHeadAdvance fn q _ | .auditEnable fn q _ | .undoLogEnable fn q _ => fnWf fn && decide (q < 8)
  | .partitionReset fn q => fnWf fn && decide (q < 8)
  | .hqSqDb fn q _ | .hqCqDb fn q _ => fnWf fn && decide (q < 16)
  | .queueEnable fn off _ | .queueDisable fn off _ | .lksRegisterWrite fn off _ => fnWf fn && off % 8 == 0
  | .assocWrite fn a _ => fnWf fn && decide (a < 512)
  | .req a _ | .coll a _ | .miobelHello a _ | .ack a _ | .ackTimer a | .collRetransmit a _ => decide (a < 512)
  | .descriptorFetch q b => decide (q < 16) && b.length == 64
  | .loadImage q _ _ | .unseal q _ _ | .runGraph q | .bindPeriod q | .unbindPeriod q | .setStep q | .setFallback q
  | .substitute q _ | .scrub q | .signNow q | .unload q | .siteTestDone q _ | .memoryScrubDone q _
  | .hostReadTimeout q _ => decide (q < 16)
  | .frameReceive po sp _ _ _ | .ptpMessage po sp _ | .linkDown po sp | .linkUp po sp => subPortWf p po sp
  | .pairFrame l _ _ | .pairHeartbeat l | .pairDown l | .pairUp l => decide (l < 2)
  | .pairResend l q => decide (l < 2) && decide (q < 2 ^ 24)
  | .lockerOpDone hub => decide (hub < 4)
  | .fillBell pl => decide (pl < 4)
  | .thermStep d => decide (d < p.dies)
  | .nop t slot => tileWf p t && decide (slot < 6)
  | .droopStretch t | .timingMarginFault t | .waittickRelease t | .fenceRelease t _ | .tileComplete t | .vpop t
  | .lpassReport t _ | .xferRange t _ | .swaitRelease t _ | .refreshLate t _ | .controllerRefresh t _ | .routeEntry t
  | .unitReplaceDone t | .siteCopyStart t | .siteCopyDone t | .guardedLinePresent t _ | .setlim t _ _ | .loop t _ _
  | .jump t _ | .brc t _ _ _ | .setcmp t _ _ _ _ | .waitbell t _ | .waittick t _ | .hint t _ _ _ | .refr t _
  | .fence t _ _ | .digest t _ | .trap t _ | .halt t _ | .vchain t _ _ _ _ _ _ | .vldk t _ _ _ | .lpass t _ _ _
  | .spass t _ _ _ _ _ | .fill t _ _ _ _ | .copy t _ _ _ _ _ | .dload t _ _ _ _ _ | .dstore t _ _ _ _ _ | .sinc t _ _
  | .swait t _ _ | .csend t _ _ _ | .crecv t _ _ _ | .qopen t _ | .qclose t _ => tileWf p t
  | .xovr t l _ | .rollCallFail t l => tileWf p t && decide (l < 4)
  | .autoSubstitute t k _ => tileWf p t && decide (3 ≤ k) && decide (k ≤ 6)
  | .lineArrival t ep | .creditReturn t ep | .queueToken t ep => tileWf p t && decide (ep < 16)
  | .mma o | .wload o | .emit o | .azero o | .anchor o => tileWf p o.t
  | .add a | .sub a | .and a | .or a | .xor a | .addi a | .andi a | .ori a | .xori a | .lih a | .min a | .max a
  | .minu a | .maxu a | .aidx a | .mul a | .mulhu a | .mulhs a | .clmul a | .muli a | .sll a | .srl a | .sra a
  | .rotr a | .sel a | .slt a | .sltu a | .ext a | .ld8 a | .ld16 a | .ld32 a | .ld64 a | .ld8s a | .ld16s a
  | .ld32s a | .st8 a | .st16 a | .st32 a | .st64 a | .gld32 a | .gld64 a | .gst32 a | .gst64 a | .lkfetch a
  | .lkstore a | .lkappend a | .decf a | .deca a | .hash a | .peq a | .pne a | .plt a | .pltu a | .pge a | .pgeu a
  | .peqi a | .plti a | .pand a | .por a | .pxor a | .pany a | .pall a | .route a => tileWf p a.t
  | .watchdog l => l.all (tileWf p) && !l.isEmpty
  | .counterIncrement _ c => decide (c < 4096)
  | .jobStop j | .jobReset _ j => decide (0 < j) && decide (j < 65536)
  | _ => true

end Sys2Proof
end

