-- ==== Sys2Proof/Tests/Slice0.lean ====
section
/-! SUPPORT. Small tests of single commands, the refusals of `Instr.wf`, and, for each statement, states and operands that
meet the hypotheses of its clauses. -/

namespace Sys2Proof.Machine

set_option Elab.async false

/-! ### Small states -/

/-- The state after reset with register fields set. -/
def fieldsAt0 (l : List (Fld × Nat)) : State := wrs State.reset l

/-- An image of one tile: task 0 on tile 0, counters 1 to 4, a mark 1000 ns after the start bell. -/
def oneJob : Job where
  part := 0
  digest := List.replicate 48 0
  strict := false
  timing := 0
  isaMinor := 0
  sizeClass := 0
  tiles := [0]
  regions := []
  regionDigs := []
  weightsWritten := false
  ctrFirst := 1
  ctrs := [(1, 4), (1, 1), (1, 1), (1, 1)]
  tasks := [⟨0, 0, 1, 0⟩]
  edges := []
  needTicks := 1000
  marks := [1000]
  plans := []
  form := none
  fallback := []
  sq := 0

/-- A GRAPH run of job 1 that has not begun. -/
def oneRun : Run where
  job := 1
  kind := .graph
  phase := .pending
  strict := false
  slipFatal := false
  wdog := 0
  prio := 0
  exam := false
  seed := 0
  bell := 0
  subm := 7
  kickWin := none
  started := []
  ready := []
  done := []
  tilesDone := []
  stop := none
  epoch := 0
  kickTod := 0
  endTod := 0
  retakes := 0
  disagreed := 0
  units := []
  fault := 0
  barred := false
  undoBroken := false
  wrote := false
  opened := false
  serial := none
  lines := []
  fetches := []
  layersAt := []
  heldTicks := 0
  slipRecs := 0
  digestOver := false
  forcedFill := false
  carryLost := false
  outcome := 0
  recorded := false
  replay := []
  carryIn := []
  name := none
  snap := none

/-- A binding of job 1 in partition 0, its first bell at 0, a period of 1 ms. -/
def onePeriod : Period where
  part := 0
  job := 1
  subm := 7
  periodNs := 1000000
  firstStart := 0
  seed := 0
  strict := false
  slipFatal := false
  wdog := 0
  exam := false
  missLog := 0
  missEntries := 0
  missCount := 0
  deadlineUs := 0
  slackUs := 0
  nextStart := 0
  current := none
  acting := []
  acted := []
  lastSeat := none
  unbind := none
  closing := none
  gone := false
  seatFrom := 0
  fallback := []

/-- Tile 0 at a bundle of job 1 that can issue. -/
def readyTile (x : Tile) (l : List (Fld × Nat)) : State :=
  { fieldsAt0 ([(TIL_MODE_bound 0, 1), (TIL_MODE_job_id 0, 1), (TIL_SEQ_STATUS_state 0, 1)] ++ l) with
    tiles := [(0, { x with bundles := 8 })], jobs := [(1, oneJob)] }

/-- Tile 0 with nothing but its program. -/
def plainTile : State := readyTile Tile.init []

/-- The state with a 1PPS source in a phase of its acquisition. -/
def ppsState (k : Nat) : State :=
  { State.reset with time := { TimeSt.init with pps := k, lastEdge := some 0, lastPtp := some 0 } }

/-- Tile 0 whose aides hold a few values: x1 the number of the aide, in 8-byte steps. -/
def aideTile : State :=
  readyTile { Tile.init with
    aregs := (List.range 16).flatMap fun i => if i = 0 then [] else [(32 * i + 1, 8 * i)]
    apreds := [(8 * 0 + 1, true), (8 * 3 + 1, true)] } []

/-- An aide operation on x1 and x2 into x3. -/
def anAid : AidOp := { t := 0, rd := 3, rs1 := 1, rs2 := 2, pred := 0, pneg := false, imm := 0 }

/-- A form of one field. -/
def oneForm : Form := ⟨1, 0, 64, 0, 2, [⟨2, 0, false, 0, 255, 0⟩]⟩

/-- A ME operation of format 0 on accumulator 0. -/
def aMeOp : MeOp where
  t := 0
  fmt := 0
  wbuf := false
  adesc := 0
  aoff := 0
  acc := 0
  acnt := 0
  accmode := 0
  sparse := false
  amask := false
  exam := false
  aus := false
  wus := false
  pshift := 0

/-- Tile 0 with address descriptors: 1 its ME scratchpad, 2 its VE scratchpad, 3 its near region. -/
def memTile (x : Tile) (l : List (Fld × Nat)) : State :=
  readyTile { x with descs := [(1, windowOf 0 + 0x100000), (2, windowOf 0 + 0x200000)] } l

/-- A chain of one stage, FP32 to FP32. -/
def aChain : Chain where
  inFmt := 0x10
  outFmt := 0x10
  layout := 0
  pop := true
  aux := false
  outSr := false
  vecSparse := false
  wmask := 0
  wneg := false
  outStream := 0
  auxFmt := 0
  auxDesc := 0
  auxOff := 0
  stages := [⟨0, 0, 0, 0, false, 0, 0, 0⟩]

/-- Partition 0 with a locker store, tile 0's aides with locker numbers in x1 and addresses in x2. -/
def lockerTile : State :=
  memTile { Tile.init with
    aregs := [(1, 5), (2, windowOf 0 + 0x100000), (32 * 3 + 1, 7), (32 * 3 + 2, windowOf 0 + 0x100000)]
    apreds := [(1, true), (8 * 3 + 1, true)] }
    [(LPD_LKS_SHAPE_valid 0, 1), (LPD_LKS_SHAPE_locker_units 0, 8), (LPD_LKS_SHAPE_event_units 0, 2),
      (LPD_LKS_COUNT_count 0, 1024), (LPD_LKS_BASE_base 0, lpdBase), (LPD_LKS_HEAD_head_base 0, lpdBase + 0x100000)]

/-- A template: one piece of 32 bytes from the address of descriptor 2 to that of descriptor 2. -/
def aTmpl : Nat := 2 ^ 32 + 2 ^ 64 + 2 ^ 96 + 2 * 2 ^ 128 + 2 * 2 ^ 136

/-- Its transfer, issued. -/
def aTransfer : Transfer where
  eng := 0
  tmpl := 0
  pc := 0
  tdata := aTmpl
  src := windowOf 0 + 0x200000
  dst := windowOf 0 + 0x200000
  idx := 0
  ctr := 1
  issued := 0
  snap := []
  free := 0
  foreign := []
  donePieces := 0

/-- A request admitted for locker 5. -/
def aReq : Request where
  assoc := 0
  port := 0
  sub := 0
  ip := 0
  udp := 0
  seqn := 0
  tag := 0
  ts := 0
  locker := 5
  job := 1
  part := 0
  bind := 7
  deadline := 0
  deferred := false
  record := []
  body := []

/-- The same with a deadline 1 ns after the epoch. -/
def dueReq : Request := { aReq with deadline := 1 }

/-- Job 1 with a form and a region for its seats. -/
def formJob : Job :=
  { oneJob with form := some oneForm, regions := [⟨1, false, false, none, lpdBase, 0x100000, false⟩] }

/-- A seat of period 0 whose reply entry says that a payload of 0 bytes is there. -/
def replyState : State :=
  writeByte { State.reset with
    jobs := [(1, formJob)]
    periods := [(0, onePeriod)]
    runs := [(0, { oneRun with kind := .period 0, phase := .running })]
    netNotes := [2]
    copies := [⟨7, 0, 0, 0, [Seat.fresh dueReq], false, false⟩] } (lpdBase + 1024 + 2048 * 64) 1

/-- A plan of one bin of one slot, filled at mark 0 from sender 3. -/
def aPlan : PlanSt where
  job := 1
  bins := 1
  capacity := 1
  carryCap := 0
  senders := [3]
  maxRoutes := 2
  fillBell := 0
  regionAddr := lpdBase
  doneCtr := 1
  replay := false
  fills := 0
  period := 0
  held := []
  ended := []
  begun := false
  rejected := 0
  rejSeats := []
  carryLost := false

/-- A descriptor's bytes: its type, its job, and bytes of its body. -/
def descBytes (ty job : Nat) (l : List (Nat × Nat)) : Bytes :=
  l.foldl (fun b p => patchB b p.1 [BitVec.ofNat 8 p.2]) (toLE 1 ty ++ [0] ++ toLE 2 job ++ List.replicate 60 0)

/-- A descriptor of submission 7 in queue 0. -/
def aDesc (ty job : Nat) (l : List (Nat × Nat)) : Desc := ⟨7, 0, 0, 0, 0, descBytes ty job l, false, false, none⟩

/-- A sealed region of no bytes, not filled, and job 1 with it. -/
def sealedRegion : Region := ⟨1, false, true, none, lpdBase, 0, false⟩
def sealedJob : Job := { oneJob with regions := [sealedRegion] }

theorem sha384_length (b : Bytes) : (sha384 b).length = 48 := by simp [sha384, firstBytes]

theorem slice_of_header (b : Bytes) (h : b.length = 48) : sliceB (List.replicate 32 0 ++ b) 0x20 48 = b := by
  simp [sliceB, h]

/-- A header whose digest is not that of the empty region. -/
def otherHeader : Bytes := List.replicate 32 0 ++ (sha384 []).map (· + 1)

theorem otherHeader_differs : sha384 [] ≠ sliceB otherHeader 0x20 48 := by
  intro h
  unfold otherHeader at h
  rw [slice_of_header _ (by simp [sha384_length])] at h
  have l := sha384_length []
  generalize sha384 [] = x at h l
  cases x with
  | nil => simp at l
  | cons a r =>
    simp only [List.map_cons, List.cons.injEq] at h
    exact absurd h.1 (by bv_omega)

/-- A layer descriptor with the bytes given. -/
def gradeDesc (l : List (Nat × Nat)) : Bytes :=
  l.foldl (fun b p => patchB b p.1 [BitVec.ofNat 8 p.2]) (List.replicate 128 0)

/-- Job 1 with two regions for its tables. -/
def gradeJob : Job :=
  { oneJob with regions := [⟨1, false, false, none, lpdBase, 0x100000, false⟩, ⟨1, false, false, none, lpdBase + 0x100000, 512, false⟩] }

/-- Job 1 with a table of one layer of one element, in segments of one. -/
def gradeState : State :=
  { writeBytes { State.reset with jobs := [(1, gradeJob)] } lpdBase (gradeDesc ([(4, 0xFF), (8, 1), (0x0E, 1)] ++
      [0x12, 0x13, 0x14, 0x15, 0x16, 0x17, 0x3C, 0x3D].map fun k => (k, 0xFF))) with runs := [] }

/-- A COLL message of segment 0 of layer 0, from module 0. -/
def collMsg : Bytes :=
  [0x13, 0, 0, 1, 0, 0, 0, 20, 0, 0, 0, 0, 0, 0, 0, 0] ++ [0, 0, 0, 0, 0, 0, 0, 0, 0x10, 0, 0, 1, 0, 0, 0, 0] ++ [0, 0, 0, 0]

/-- The end of the partials of layer 0 from module 0, of sequence number 5. -/
def endMsg : Bytes :=
  [0x13, 0, 0, 1, 0, 0, 0, 16, 0, 0, 0, 5, 0, 0, 0, 0] ++ [0, 0, 0, 0, 0xFF, 0xFF, 0xFF, 0xFE, 0x10, 0, 0, 0, 0, 0, 0, 0]

/-- A message of type 4 with no body and its check word. -/
def ctrlMsg : Bytes :=
  patchB ([0x14] ++ List.replicate 15 0) 12 (toBE 4 (crc32c ([0x14] ++ List.replicate 15 0)))

/-- A REQ of job 1, form version 1, no fields present. -/
def reqMsg : Bytes :=
  [0x11, 0, 0, 1, 0, 0, 0, 16, 0, 0, 0, 5, 0, 0, 0, 0] ++ [0, 0, 0, 0, 0, 0, 0, 0, 0, 1, 0, 0, 0, 0, 0, 0]

/-- A partner's HELLO. -/
def aHello : Hello := ⟨1, 0, 0, 0, 96, 1, false, false⟩

/-- An item of seat 0 of period 0 of job 1, waiting for the partner's. -/
def anItem : DblItem := ⟨⟨1, 0⟩, 0, 0, [], []⟩

/-- Module B, its pair links down since instant 0, with an item that waits for the partner's. -/
def singlesState : State :=
  { fieldsAt0 [(DBL_STATUS_state, 2), (DBL_STATUS_id, 1)] with
    now := 100000000000
    copies := [⟨7, 0, 0, 0, [Seat.fresh dueReq], false, false⟩]
    dbl := { DblSt.init with downAt := some 0, mine := [anItem] } }

/-- An image of one task on one tile, of one bundle, before its digest is put in (R81, R82, R262). -/
def bareImage : Bytes :=
  ([(0, 0x53), (1, 0x4E), (2, 0x4C), (3, 0x49), (5, 1), (8, 1), (0x0C, 8), (0x0E, 1), (0x18, 0xC0), (0x19, 1), (0x20, 2), (0x29, 1),
    (0x100, 1), (0x108, 0x40), (0x109, 1), (0x110, 32),
    (0x120, 10), (0x128, 0x60), (0x129, 1), (0x130, 84),
    (0x160, 1), (0x170, 64), (0x180, 80), (0x1A4, 1)] : List (Nat × Nat)).foldl
    (fun b p => patchB b p.1 [BitVec.ofNat 8 p.2]) (List.replicate 448 0)

/-- The image with its digest. -/
def oneImage : Bytes := patchB bareImage 0x80 (sha384 bareImage)

/-- The part with its maps committed and a LOAD_IMAGE of it waiting, for tile 0 on. -/
def loadState : State := { fieldsAt0 [(REL_STATUS_committed, 1)] with descs := [aDesc 1 1 [(0x18, 0xC0), (0x19, 1)]] }

theorem patchB_patchB (b x y : Bytes) (n : Nat) (hn : n ≤ b.length) (h : y.length = x.length) :
    patchB (patchB b n x) n y = patchB b n y := by
  have l : (b.take n).length = n := by simp [hn]
  have e : (b.take n ++ x ++ b.drop (n + x.length)).drop (n + y.length) = b.drop (n + y.length) := by
    rw [h, List.append_assoc, ← List.drop_drop, List.drop_left' l, List.drop_left' rfl]
  unfold patchB
  rw [e, List.append_assoc (b.take n), List.take_left' l]

theorem leNat_append (a b : Bytes) : leNat (a ++ b) = leNat a + 256 ^ a.length * leNat b := by
  induction a with
  | nil => simp [leNat]
  | cons x r ih => simp only [List.cons_append, leNat, ih, List.length_cons, Nat.pow_succ]; ring

theorem leNat_lt (a : Bytes) : leNat a < 256 ^ a.length := by
  induction a with
  | nil => simp [leNat]
  | cons x r ih =>
    simp only [leNat, List.length_cons, Nat.pow_succ]
    have := x.isLt
    omega

theorem oneImage_digest : imageDigest oneImage = formedDigest oneImage := by
  have h : patchB oneImage 0x80 (List.replicate 48 0) = bareImage :=
    (patchB_patchB _ _ _ _ (by decide +kernel) (by rw [sha384_length]; rfl)).trans (by decide +kernel)
  unfold formedDigest imageDigest oneImage
  rw [show patchB (patchB bareImage 128 (sha384 bareImage)) 128 (List.replicate 48 0) = bareImage from h]
  have l := sha384_length bareImage
  generalize sha384 bareImage = d at l
  unfold sliceB patchB
  rw [List.append_assoc, List.drop_left' (by decide +kernel), ← l, List.take_left' rfl]
  simp

theorem oneImage_head : leNat (oneImage.take 256) = leNat (bareImage.take 128) + 2 ^ 1024 * leNat (sha384 bareImage) := by
  have l := sha384_length bareImage
  have e : oneImage.take 256 = bareImage.take 128 ++ (sha384 bareImage ++ List.replicate 80 0) := by
    unfold oneImage
    generalize sha384 bareImage = d at l
    unfold patchB
    have k := List.take_length_add_append (l₁ := d) (l₂ := bareImage.drop 176) 80
    rw [l] at k
    rw [l, List.append_assoc, show 256 = (bareImage.take 128).length + 128 by decide +kernel, List.take_length_add_append, k,
      show (bareImage.drop 176).take 80 = List.replicate 80 0 by decide +kernel]
  rw [e, leNat_append, leNat_append]
  have z : leNat (List.replicate 80 0) = 0 := by decide +kernel
  have t : (bareImage.take 128).length = 128 := by decide +kernel
  rw [z, t, Nat.mul_zero, Nat.add_zero, show 256 = 2 ^ 8 from rfl, ← pow_mul]

theorem bitsOf_below (a d lo w n : Nat) (h : lo + w ≤ n) : bitsOf (a + 2 ^ n * d) lo w = bitsOf a lo w := by
  unfold bitsOf
  obtain ⟨k, rfl⟩ := Nat.exists_eq_add_of_le h
  rw [pow_add, pow_add, mul_assoc, mul_assoc, Nat.add_mul_div_left _ _ (Nat.two_pow_pos lo), Nat.add_mul_mod_self_left]

theorem bitsOf_above (v lo w : Nat) (h : v < 2 ^ lo) : bitsOf v lo w = 0 := by
  simp [bitsOf, Nat.div_eq_of_lt h]

theorem oneImage_reserved : checkReserved oneImage = none := by
  have b := leNat_lt (sha384 bareImage)
  rw [sha384_length, show 256 = 2 ^ 8 from rfl, ← pow_mul] at b
  have c := leNat_lt (bareImage.take 128)
  rw [show (bareImage.take 128).length = 128 by decide +kernel, show 256 = 2 ^ 8 from rfl, ← pow_mul] at c
  have k : mustZero (leNat (oneImage.take 256)) [(51, 13), (88, 8), (448, 576), (1408, 640)] =
      [(51, false), (88, false), (448, false), (1408, false)] := by
    rw [oneImage_head]
    have hi : leNat (bareImage.take 128) + 2 ^ 1024 * leNat (sha384 bareImage) < 2 ^ 1408 := by
      calc _ < 2 ^ 1024 + 2 ^ 1024 * leNat (sha384 bareImage) := Nat.add_lt_add_right c _
        _ = 2 ^ 1024 * (leNat (sha384 bareImage) + 1) := by ring
        _ ≤ 2 ^ 1024 * 2 ^ (8 * 48) := Nat.mul_le_mul_left _ b
        _ = 2 ^ 1408 := by rw [← pow_add]
    simp only [mustZero, List.map_cons, List.map_nil]
    rw [bitsOf_below _ _ _ _ _ (by decide), bitsOf_below _ _ _ _ _ (by decide), bitsOf_below _ _ _ _ _ (by decide),
      bitsOf_above _ _ _ hi]
    decide +kernel
  unfold checkReserved
  rw [k]
  decide +kernel

theorem oneImage_loads : ∃ u, loadResult loadState (aDesc 1 1 [(0x18, 0xC0), (0x19, 1)]) oneImage [] = .ok u := by
  have h : firstErr [checkHeader oneImage loadState] = none := by
    unfold checkHeader
    rw [oneImage_digest, bne_self_eq_false]
    decide +kernel
  have k : (match loadResult loadState (aDesc 1 1 [(0x18, 0xC0), (0x19, 1)]) oneImage [] with
      | .ok _ => true
      | .error _ => false) = true := by
    unfold loadResult
    rw [h, oneImage_reserved]
    decide +kernel
  cases e : loadResult loadState (aDesc 1 1 [(0x18, 0xC0), (0x19, 1)]) oneImage [] with
  | ok u => exact ⟨u, rfl⟩
  | error x =>
    rw [e] at k
    cases k


theorem witness_step_runs_the_front_command :
    (∃ (s : State) (c : Instr) (r : List Instr), s.pending = c :: r) :=
  ⟨{ State.reset with pending := [.refLost] }, .refLost, [], by decide +kernel⟩

theorem witness_idle_step_advances_the_time_clock :
    (∃ (s : State), s.pending = []) :=
  ⟨State.reset, by decide +kernel⟩

theorem witness_step_keeps_memory_canonical :
    (∃ (s t : State), Memory.wf s.mem = true ∧ step s = .next t) :=
  ⟨State.reset, idle State.reset, by decide +kernel, rfl⟩

theorem witness_part_never_changes :
    (∃ (s t : State), step s = .next t) :=
  ⟨State.reset, idle State.reset, rfl⟩

theorem witness_host_register_write_sets_fields :
    (∃ (s : State) (off : Nat) (v : Word64), fnUp s 0 = true ∧ off % 8 = 0 ∧ actingWrite 0 off v s = none ∧ (fieldsAt s.part
      off).any (·.acc == .w1c) = false ∧ off ≠ NET_PAIR_CFG 0 ∧ off ≠ NET_PAIR_CFG 1 ∧ (∀ u, off ≠ REL_DPU u)) ∧
    (∃ (s : State) (fn off : Nat) (v : Word64), fn ≠ 0 ∧ fnUp s fn = true ∧ off % 8 = 0 ∧ actingWrite fn off v s = none ∧
      (fieldsAt s.part off).any (·.acc == .w1c) = false ∧ vfWrites s (fn - 1) off v.toNat = false) :=
  ⟨⟨State.reset, LPD_SCRUB, 5, by decide +kernel, by decide +kernel, by decide +kernel, by decide +kernel, by decide +kernel,
      by decide +kernel, fun u h => absurd h (by unfold REL_DPU LPD_SCRUB; omega)⟩,
    ⟨State.reset, 1, LPD_SCRUB, 5, by decide +kernel⟩⟩

theorem witness_host_reads_and_cause_clears :
    (∃ (s : State) (off : Nat) (_hits _amt : Word64), fnUp s 0 = true ∧ off % 8 = 0 ∧ off ≠ HST_DIE_STATUS ∧ off ≠ TIM_WINDOW ∧
      (∀ u, off ≠ TIM_XFILL u)) ∧
    (∃ (s : State), fnUp s 0 = true) ∧
    (∃ (s : State) (_v _co : Word64) (f : Fld), fnUp s 0 = true ∧ f ∈ [TIM_CAUSE_cause, LPD_CAUSE_cause, HQ_CAUSE_cause,
      CTL_DISP_CAUSE_cause, NET_CAUSE_cause, NET_SPU_CAUSE_cause, GRD_CAUSE_cause, AUD_CAUSE_cause, REL_CAUSE_cause,
      DBL_CAUSE_cause, PWR_CAUSE_cause, SEC_CAUSE_cause, HST_CAUSE_cause]) :=
  ⟨⟨State.reset, TIM_STATUS, 0, 0, by decide +kernel, by decide +kernel, by decide +kernel, by decide +kernel,
      fun u h => absurd h (by unfold TIM_XFILL TIM_STATUS; omega)⟩,
    ⟨State.reset, by decide +kernel⟩,
    ⟨fieldsAt0 [(TIM_CAUSE_cause, 3)], 1, 2, TIM_CAUSE_cause, by decide +kernel⟩⟩

theorem witness_refused_host_accesses_are_logged :
    (∃ (s : State) (fn off size : Nat) (_w : Bool), fnUp s fn = true ∧ (¬ (size = 8 ∧ off % 8 = 0)) ∧ rd s HST_BAR0_LOG_valid =
      0) ∧
    (∃ (s : State) (fn off size : Nat) (_w : Bool), fnUp s fn = true ∧ (¬ (size = 8 ∧ off % 8 = 0)) ∧ (¬ (size = 4 ∧ off % 4 =
      0)) ∧ rd s HST_BAR0_LOG_valid = 0) :=
  ⟨⟨State.reset, 0, 4, 4, true, by decide +kernel⟩,
    ⟨State.reset, 1, 6, 8, false, by decide +kernel⟩⟩

theorem witness_bar4_reaches_memory :
    (∃ (s : State) (fn off n : Nat), off + n ≤ 2 ^ 36 ∧ fnUp s fn = true ∧ on s HST_BOOT_prep_done = true ∧ bar4Reaches s fn
      (bar4Base s fn + off) n = true ∧ sealOwner s (bar4Base s fn + off) n = none) ∧
    (∃ (s : State) (fn off : Nat) (b : List (Option Byte)), off + b.length ≤ 2 ^ 36 ∧ fnUp s fn = true ∧ on s HST_BOOT_prep_done
      = true ∧ bar4Reaches s fn (bar4Base s fn + off) b.length = true ∧ sealOwner s (bar4Base s fn + off) b.length = none) ∧
    (∃ (s : State) (fn off n q : Nat), off + n ≤ 2 ^ 36 ∧ fnUp s fn = true ∧ on s HST_BOOT_prep_done = true ∧ bar4Reaches s fn
      (bar4Base s fn + off) n = true ∧ sealOwner s (bar4Base s fn + off) n = some q) ∧
    (∃ (s : State) (fn off q : Nat) (b : List (Option Byte)), off + b.length ≤ 2 ^ 36 ∧ fnUp s fn = true ∧ on s
      HST_BOOT_prep_done = true ∧ bar4Reaches s fn (bar4Base s fn + off) b.length = true ∧ sealOwner s (bar4Base s fn + off)
      b.length = some q) ∧
    (∃ (s : State) (fn off : Nat) (op : Bar4Op), off + bar4Len op ≤ 2 ^ 36 ∧ fnUp s fn = true ∧ on s HST_BOOT_prep_done = true ∧
      bar4Reaches s fn (bar4Base s fn + off) (bar4Len op) = false) ∧
    (∃ (s : State) (_v : Word64), fnUp s 0 = true) ∧
    (∃ (s : State) (q : Nat) (_v : Word64), fnUp s 0 = true ∧ q < 8) :=
  ⟨⟨fieldsAt0 [(HST_BOOT_prep_done, 1), (HST_BAR4_BASE_base, lpdBase / 2 ^ 30)], 0, 0, 2, by decide +kernel⟩,
    ⟨fieldsAt0 [(HST_BOOT_prep_done, 1), (HST_BAR4_BASE_base, lpdBase / 2 ^ 30)], 0, 0, [some 1, none], by decide +kernel⟩,
    ⟨{ fieldsAt0 [(HST_BOOT_prep_done, 1), (HST_BAR4_BASE_base, lpdBase / 2 ^ 30)] with jobs := [(1, { oneJob with regions := [⟨1, true, true, none, lpdBase, 512, true⟩] })] },
      0, 0, 2, 0, by decide +kernel⟩,
    ⟨{ fieldsAt0 [(HST_BOOT_prep_done, 1), (HST_BAR4_BASE_base, lpdBase / 2 ^ 30)] with jobs := [(1, { oneJob with regions := [⟨1, true, true, none, lpdBase, 512, true⟩] })] },
      0, 0, 0, [some 1], by decide +kernel⟩,
    ⟨fieldsAt0 [(HST_BOOT_prep_done, 1), (HST_BAR4_BASE_base, 0x3FFFF)], 0, 0, .read 2, by decide +kernel⟩,
    ⟨State.reset, 3, by decide +kernel⟩,
    ⟨State.reset, 7, 3, by decide +kernel⟩⟩

theorem witness_reference_loss_and_return :
    (∃ (s : State), on s TIM_STATUS_ref_ok = true) ∧
    (∃ (s : State), on s TIM_STATUS_ref_ok = false) :=
  ⟨⟨fieldsAt0 [(TIM_STATUS_ref_ok, 1)], by decide +kernel⟩,
    ⟨fieldsAt0 [(TIM_STATUS_ref_ok, 0)], by decide +kernel⟩⟩

theorem witness_time_of_day_is_set_and_corrected :
    (∃ (s : State) (_v : Word64), fnUp s 0 = true ∧ on s TIM_STATUS_tod_valid = false ∧ names s 1 = false) ∧
    (∃ (s : State) (_v : Word64), fnUp s 0 = true ∧ on s TIM_STATUS_tod_valid = false ∧ names s 1 = true) ∧
    (∃ (s : State) (p : BitVec 32), fnUp s 0 = true ∧ (signed 32 p.toNat).natAbs ≤ 1000 * rd s TIM_SRC_CFG_step_thresh) ∧
    (∃ (s : State) (p : BitVec 32), fnUp s 0 = true ∧ 1000 * rd s TIM_SRC_CFG_step_thresh < (signed 32 p.toNat).natAbs ∧ on s
      TIM_SRC_CFG_step_allowed = true ∧ s.periods = [] ∧ s.cands = [] ∧ s.copies = [] ∧ s.carries = []) ∧
    (∃ (s : State) (p : BitVec 32), fnUp s 0 = true ∧ 1000 * rd s TIM_SRC_CFG_step_thresh < (signed 32 p.toNat).natAbs ∧ on s
      TIM_SRC_CFG_step_allowed = false) ∧
    (∃ (s : State) (_r : BitVec 24), fnUp s 0 = true) :=
  ⟨⟨State.reset, 5, by decide +kernel⟩,
    ⟨fieldsAt0 [(TIM_SRC_CFG_primary, 1)], 5, by decide +kernel⟩,
    ⟨fieldsAt0 [(TIM_SRC_CFG_step_thresh, 1)], 1000, by decide +kernel⟩,
    ⟨fieldsAt0 [(TIM_SRC_CFG_step_thresh, 1), (TIM_SRC_CFG_step_allowed, 1)], 1001, by decide +kernel⟩,
    ⟨fieldsAt0 [(TIM_SRC_CFG_step_thresh, 1), (TIM_SRC_CFG_step_allowed, 0)], 1001, by decide +kernel⟩,
    ⟨State.reset, 5, by decide +kernel⟩⟩

theorem witness_time_sources_are_configured :
    (∃ (s : State) (_v : Word64), fnUp s 0 = true ∧ s.time.setPend = none ∧ s.time.heldCorr = none ∧ s.time.pulse = false) ∧
    (∃ (s : State), on s TIM_STATUS_slewing = true ∧ s.time.slew = 0) :=
  ⟨⟨State.reset, 1, by decide +kernel⟩,
    ⟨fieldsAt0 [(TIM_STATUS_slewing, 1)], by decide +kernel⟩⟩

theorem witness_pulse_per_second_edges :
    (∃ (s : State) (falling : Bool) (w : Nat), s.time.pps ≠ 0 ∧ on s TIM_SRC_CFG_pps_edge = falling ∧ (w < 100 ∨ 500000000 < w)) ∧
    (∃ (s : State) (falling : Bool) (w : Nat), s.time.pps = 3 ∧ on s TIM_SRC_CFG_pps_edge = falling ∧ 100 ≤ w ∧ w ≤ 500000000 ∧
      (nearSecond (tod s - ppsCentre s)).natAbs ≤ 1000 ∧ s.time.setPend = none) ∧
    (∃ (s : State) (falling : Bool) (w : Nat), s.time.pps = 3 ∧ on s TIM_SRC_CFG_pps_edge = falling ∧ 100 ≤ w ∧ w ≤ 500000000 ∧
      1000 < (nearSecond (tod s - ppsCentre s)).natAbs ∧ s.time.outside.length < 3) ∧
    (∃ (s : State) (e : Nat), s.time.lastEdge = some e ∧ (s.time.pps = 2 ∨ s.time.pps = 3) ∧ e + 1500000000 ≤ s.now) ∧
    (∃ (s : State) (e : Nat), s.time.lastPtp = some e ∧ on s TIM_STATUS_ptp_ok = true ∧ e + 4000000000 ≤ s.now) ∧
    (∃ (s : State), s.time.pps = 3 ∧ s.time.lastMissing < (tod s - 1001) / 1000000000) :=
  ⟨⟨ppsState 3, false, 99, by decide +kernel⟩,
    ⟨ppsState 3, false, 100, by decide +kernel⟩,
    ⟨{ ppsState 3 with regs := (fieldsAt0 [(TIM_TOD_tod, 1001)]).regs }, false, 500000000, by decide +kernel⟩,
    ⟨{ ppsState 3 with now := 1500000000 }, 0, by decide +kernel⟩,
    ⟨{ ppsState 3 with now := 4000000000, regs := (fieldsAt0 [(TIM_STATUS_ptp_ok, 1)]).regs }, 0, by decide +kernel⟩,
    ⟨{ ppsState 3 with regs := (fieldsAt0 [(TIM_TOD_tod, 1000001001)]).regs }, by decide +kernel⟩⟩

theorem witness_pulse_out_follows_whole_seconds :
    (∃ (s : State), on s TIM_SRC_CFG_pps_out_en = true ∧ on s TIM_STATUS_tod_valid = true ∧ s.time.pulse = false ∧ (nearSecond
      (tod s)).natAbs ≤ 5) ∧
    (∃ (s : State), (on s TIM_SRC_CFG_pps_out_en = false ∨ on s TIM_STATUS_tod_valid = false)) ∧
    (∃ (s : State), s.time.pulse = true ∧ s.time.pulseFrom + 1000000 * max 1 (rd s TIM_SRC_CFG_pps_out_width) ≤ s.now) :=
  ⟨⟨fieldsAt0 [(TIM_SRC_CFG_pps_out_en, 1), (TIM_STATUS_tod_valid, 1), (TIM_TOD_tod, 1000000005)], by decide +kernel⟩,
    ⟨State.reset, by decide +kernel⟩,
    ⟨{ State.reset with now := 100000000, time := { TimeSt.init with pulse := true } }, by decide +kernel⟩⟩

theorem witness_frequency_steps_and_roll_call :
    (∃ (s : State) (g : BitVec 2), fnUp s 0 = true ∧ g.toNat ≠ rd s TIM_FREQ_CTL_current) ∧
    (∃ (s : State) (g : BitVec 2), fnUp s 0 = true ∧ g.toNat = rd s TIM_FREQ_CTL_current ∧ s.time.relock = false ∧
      s.time.rollCall ≠ 2) ∧
    (∃ (s : State), on s TIM_FREQ_CTL_busy = true ∧ gridStopped s = false ∧ (∀ p ∈ s.runs, p.2.live = false) ∧ (∀ p ∈ s.periods,
      tod s + 25000 ≤ p.2.bellAt p.2.nextStart)) ∧
    (∃ (s : State), s.time.relock = true) ∧
    (∃ (s : State) (l : List (Nat × Nat × Nat)), s.time.rollCall ≠ 0 ∧ (l.map fun o => (o.1, o.2.1)).Nodup) ∧
    (∃ (s : State) (_u _l : Nat), s.time.rollCall ≠ 0 ∧ s.time.rollRun = none) :=
  ⟨⟨State.reset, 1, by decide +kernel⟩,
    ⟨State.reset, 0, by decide +kernel⟩,
    ⟨fieldsAt0 [(TIM_FREQ_CTL_busy, 1)], by decide +kernel⟩,
    ⟨{ State.reset with time := { TimeSt.init with relock := true } }, by decide +kernel⟩,
    ⟨{ State.reset with time := { TimeSt.init with rollCall := 1 } }, [], by decide +kernel⟩,
    ⟨{ State.reset with time := { TimeSt.init with rollCall := 2 } }, 0, 0, by decide +kernel⟩⟩

theorem witness_droop_and_windows :
    (∃ (s : State) (u : Nat), tileOn s u = true ∧ gridStopped s = false ∧ bubbled s u = false ∧ (tileOf s u).stretch < 3) ∧
    (∃ (s : State) (u : Nat), tileOn s u = true ∧ gridStopped s = false ∧ bubbled s u = false ∧ 3 ≤ (tileOf s u).stretch) ∧
    (∃ (s : State), gridStopped s = false ∧ s.time.rolled = true) ∧
    (∃ (s : State), gridStopped s = true) ∧
    (∃ (s : State) (u : Nat), (tileOf s u).bubbleReq = true) ∧
    (∃ (s : State) (u : Nat), (tileOf s u).bubbleReq = false) :=
  ⟨⟨State.reset, 0, by decide +kernel⟩,
    ⟨readyTile { Tile.init with stretch := 3 } [], 0, by decide +kernel⟩,
    ⟨{ State.reset with time := { TimeSt.init with rolled := true } }, by decide +kernel⟩,
    ⟨{ State.reset with time := { TimeSt.init with relock := true } }, by decide +kernel⟩,
    ⟨readyTile { Tile.init with bubbleReq := true } [], 0, by decide +kernel⟩,
    ⟨State.reset, 0, by decide +kernel⟩⟩

theorem witness_sequencer_moves_on :
    (∃ (s : State) (t : Nat), SeqReady s t) ∧
    (∃ (s : State) (t k : Nat), k ≠ 0 ∧ TileReady s t) ∧
    (∃ (s : State) (t : Nat) (_c : BitVec 3) (_n : BitVec 20), SeqReady s t) ∧
    (∃ (s : State) (t : Nat) (_c : BitVec 3) (_e : BitVec 14), SeqReady s t) ∧
    (∃ (s : State) (t : Nat) (_k : BitVec 2) (_c : BitVec 3) (_cond : BitVec 2) (_v : BitVec 16), SeqReady s t) ∧
    (∃ (s : State) (t : Nat) (_level : BitVec 4) (_lead : BitVec 6) (_len : BitVec 10), SeqReady s t) ∧
    (∃ (s : State) (t : Nat) (_code : BitVec 8), SeqReady s t) :=
  ⟨⟨plainTile, 0, by unfold SeqReady TileReady Alone; decide +kernel⟩,
    ⟨plainTile, 0, 1, by unfold TileReady Alone; decide +kernel⟩,
    ⟨plainTile, 0, 7, 0, by unfold SeqReady TileReady Alone; decide +kernel⟩,
    ⟨plainTile, 0, 0, 1, by unfold SeqReady TileReady Alone; decide +kernel⟩,
    ⟨plainTile, 0, 0, 0, 0, 0, by unfold SeqReady TileReady Alone; decide +kernel⟩,
    ⟨plainTile, 0, 0, 0, 0, by unfold SeqReady TileReady Alone; decide +kernel⟩,
    ⟨plainTile, 0, 0, by unfold SeqReady TileReady Alone; decide +kernel⟩⟩

theorem witness_branches_and_waits :
    (∃ (s : State) (t : Nat) (_g : BitVec 14), SeqReady s t) ∧
    (∃ (s : State) (t : Nat) (_k : BitVec 2) (_sense : Bool) (_g : BitVec 14), SeqReady s t) ∧
    (∃ (s : State) (t : Nat) (_n : BitVec 26), SeqReady s t) ∧
    (∃ (s : State) (t q : Nat) (p : Period) (j : Job) (m : BitVec 4), SeqReady s t ∧ periodOfJob s (jobOfTile s t) = some (q, p)
      ∧ jobRec s t = some j ∧ m.toNat < j.marks.length) ∧
    (∃ (s : State) (t : Nat) (_slots : BitVec 5) (_lp : Bool), SeqReady s t) ∧
    (∃ (s : State) (t k : Nat), seqState s t = 2 ∧ (tileOf s t).waits = [.tick k] ∧ (tileOf s t).haltTick = none) ∧
    (∃ (s : State) (t _k slots issued m a : Nat) (lp : Bool), seqState s t = 2 ∧ (tileOf s t).waits = [.fence slots lp issued m
      a] ∧ fenceSettled (tileOf s t) slots lp issued m a = true ∧ (tileOf s t).haltTick = none) :=
  ⟨⟨plainTile, 0, 5, by unfold SeqReady TileReady Alone; decide +kernel⟩,
    ⟨plainTile, 0, 0, true, 5, by unfold SeqReady TileReady Alone; decide +kernel⟩,
    ⟨plainTile, 0, 0, by unfold SeqReady TileReady Alone; decide +kernel⟩,
    ⟨{ plainTile with periods := [(0, onePeriod)] }, 0, 0, onePeriod, oneJob, 0,
      by unfold SeqReady TileReady Alone; decide +kernel⟩,
    ⟨plainTile, 0, 31, true, by unfold SeqReady TileReady Alone; decide +kernel⟩,
    ⟨readyTile { Tile.init with waits := [.tick 5] } [(TIL_SEQ_STATUS_state 0, 2)], 0, 5, by decide +kernel⟩,
    ⟨readyTile { Tile.init with waits := [.fence 31 true 0 0 0] } [(TIL_SEQ_STATUS_state 0, 2)], 0, 5, 31, 0, 0, 0, true,
      by decide +kernel⟩⟩

theorem witness_traps_refreshes_and_digests :
    (∃ (s : State) (t : Nat) (_code : BitVec 8), SeqReady s t ∧ rd s (TIL_ERR_valid t) = 0) ∧
    (∃ (s : State) (t : Nat) (_g : BitVec 12), SeqReady s t) ∧
    (∃ (s : State) (t : Nat) (_l : BitVec 16), SeqReady s t ∧ auditOn s (tilePart s t) = false) ∧
    (∃ (s : State) (t : Nat) (l : BitVec 16), SeqReady s t ∧ auditOn s (tilePart s t) = true ∧ (tileOf s t).layers.find?
      (·.layer == l.toNat) = none ∧ (tileOf s t).layers.length < 256) ∧
    (∃ (s : State) (t : Nat) (l : BitVec 16) (d : LayerDig), SeqReady s t ∧ auditOn s (tilePart s t) = true ∧ (tileOf s
      t).layers.find? (·.layer == l.toNat) = some d) :=
  ⟨⟨plainTile, 0, 5, by unfold SeqReady TileReady Alone; decide +kernel⟩,
    ⟨plainTile, 0, 5, by unfold SeqReady TileReady Alone; decide +kernel⟩,
    ⟨plainTile, 0, 5, by unfold SeqReady TileReady Alone; decide +kernel⟩,
    ⟨readyTile { Tile.init with layers := [⟨3, 1, []⟩] } [(AUD_CFG_en 0, 1)], 0, 4,
      by unfold SeqReady TileReady Alone; decide +kernel⟩,
    ⟨readyTile { Tile.init with layers := [⟨3, 1, []⟩] } [(AUD_CFG_en 0, 1)], 0, 3, ⟨3, 1, []⟩,
      by unfold SeqReady TileReady Alone; decide +kernel⟩⟩

theorem witness_aide_arithmetic :
    (∃ (s : State) (a : AidOp), aidBad use3 a = false ∧ OpReady s a.t 3 (aidRes use3 a)) ∧
    (∃ (s : State) (a : AidOp), aidBad useImm a = false ∧ OpReady s a.t 3 (aidRes useImm a)) ∧
    (∃ (s : State) (a : AidOp), aidBad ({ rs1 := false, rs2 := false } : AidUse) a = false ∧ OpReady s a.t 3 (aidRes ({ rs1 := false, rs2 := false } : AidUse) a)) :=
  ⟨⟨aideTile, anAid, by unfold OpReady TileReady Alone; decide +kernel⟩,
    ⟨aideTile, { anAid with rs2 := 0, imm := 0xFFFFFFFF }, by unfold OpReady TileReady Alone; decide +kernel⟩,
    ⟨aideTile, { anAid with rs1 := 0, rs2 := 0 }, by unfold OpReady TileReady Alone; decide +kernel⟩⟩

theorem witness_aide_shifts_compares_and_hash :
    (∃ (s : State) (a : AidOp), aidBad use3 a = false ∧ OpReady s a.t 3 (aidRes use3 a)) ∧
    (∃ (s : State) (a : AidOp), aidBad useSh a = false ∧ OpReady s a.t 3 (aidRes useSh a)) ∧
    (∃ (s : State) (a : AidOp), aidBad ({ immBits := 3 } : AidUse) a = false ∧ a.imm.toNat % 8 ≠ 0 ∧
      OpReady s a.t 3 (aidRes ({ immBits := 3 } : AidUse) a ++ [.pred (a.imm.toNat % 8)])) ∧
    (∃ (s : State) (a : AidOp), aidBad ({ rs2 := false, immBits := 12 } : AidUse) a = false ∧ OpReady s a.t 3 (aidRes ({ rs2 := false, immBits := 12 } : AidUse) a)) :=
  ⟨⟨aideTile, anAid, by unfold OpReady TileReady Alone; decide +kernel⟩,
    ⟨aideTile, { anAid with imm := 63 }, by unfold OpReady TileReady Alone; decide +kernel⟩,
    ⟨aideTile, { anAid with imm := 7 }, by unfold OpReady TileReady Alone; decide +kernel⟩,
    ⟨aideTile, { anAid with rs2 := 0, imm := 0xFFF }, by unfold OpReady TileReady Alone; decide +kernel⟩⟩

theorem witness_aide_predicates :
    (∃ (s : State) (a : AidOp), aidBad usePred a = false ∧ OpReady s a.t 3 (aidRes usePred a)) ∧
    (∃ (s : State) (a : AidOp), aidBad usePredI a = false ∧ OpReady s a.t 3 (aidRes usePredI a)) ∧
    (∃ (s : State) (a : AidOp), aidBad usePred2 a = false ∧ OpReady s a.t 3 (aidRes usePred2 a)) ∧
    (∃ (s : State) (a : AidOp), aidBad usePred1 a = false ∧ OpReady s a.t 3 (aidRes usePred1 a)) :=
  ⟨⟨aideTile, anAid, by unfold OpReady TileReady Alone; decide +kernel⟩,
    ⟨aideTile, { anAid with rs2 := 0 }, by unfold OpReady TileReady Alone; decide +kernel⟩,
    ⟨aideTile, anAid, by unfold OpReady TileReady Alone; decide +kernel⟩,
    ⟨aideTile, { anAid with rs2 := 0 }, by unfold OpReady TileReady Alone; decide +kernel⟩⟩

theorem witness_aide_loads_and_stores :
    (∃ (s : State) (a : AidOp), aidBad { rs2 := false, immBits := 32 } a = false ∧ (tileOf s a.t).micros = [] ∧
      firstBad (aidAccesses (tileOf s a.t) a 8 ownAccess) = none ∧ OpReady s a.t 3 (aidRes { rs2 := false, immBits := 32 } a ++
        (goodOnes (aidAccesses (tileOf s a.t) a 8 ownAccess)).map fun p => Res.bytes p.2 8)) ∧
    (∃ (s : State) (a : AidOp), aidBad { rs2 := false, immBits := 32 } a = false ∧ (tileOf s a.t).micros = [] ∧
      firstBad (aidAccesses (tileOf s a.t) a 4 tileAccess) = none ∧ OpReady s a.t 3 (aidRes { rs2 := false, immBits := 32 } a ++
        (goodOnes (aidAccesses (tileOf s a.t) a 4 tileAccess)).map fun p => Res.bytes p.2 4)) ∧
    (∃ (s : State) (a : AidOp), aidBad { rd := false, immBits := 32 } a = false ∧ (tileOf s a.t).micros = [] ∧
      firstBad (aidAccesses (tileOf s a.t) a 8 ownAccess) = none ∧ OpReady s a.t 3 (aidRes { rd := false, immBits := 32 } a ++
        (goodOnes (aidAccesses (tileOf s a.t) a 8 ownAccess)).map fun p => Res.bytes p.2 8)) ∧
    (∃ (s : State) (a : AidOp), aidBad { rd := false, immBits := 32 } a = false ∧ (tileOf s a.t).micros = [] ∧
      firstBad (aidAccesses (tileOf s a.t) a 4 tileAccess) = none ∧ OpReady s a.t 3 (aidRes { rd := false, immBits := 32 } a ++
        (goodOnes (aidAccesses (tileOf s a.t) a 4 tileAccess)).map fun p => Res.bytes p.2 4)) ∧
    (∃ (s : State) (a : AidOp), aidBad { rs2 := false, immBits := 8 } a = false ∧ a.imm.toNat < formFields s a.t ∧
      (∀ i ∈ aidesRun (tileOf s a.t) a, (tileOf s a.t).v1 a i + (0x20 + 8 * a.imm.toNat) + 8 ≤ 0x40000 ∧
        ((tileOf s a.t).v1 a i + (0x20 + 8 * a.imm.toNat)) % 8 = 0) ∧
      OpReady s a.t 3 (aidRes { rs2 := false, immBits := 8 } a ++
        (aidesRun (tileOf s a.t) a).map fun i => Res.bytes (aideBase a.t i + ((tileOf s a.t).v1 a i + (0x20 + 8 * a.imm.toNat))) 8)) ∧
    (∃ (s : State) (a : AidOp), aidBad { rs2 := false, immBits := 8 } a = false ∧ a.imm.toNat < formFields s a.t ∧
      (∀ i ∈ aidesRun (tileOf s a.t) a, (tileOf s a.t).v1 a i + 0x18 + 4 ≤ 0x40000 ∧
        ((tileOf s a.t).v1 a i + 0x18) % 4 = 0) ∧
      OpReady s a.t 3 (aidRes { rs2 := false, immBits := 8 } a ++
        (aidesRun (tileOf s a.t) a).map fun i => Res.bytes (aideBase a.t i + ((tileOf s a.t).v1 a i + 0x18)) 4)) ∧
    (∃ (s : State) (a : AidOp) (i c : Nat), aidBad { rs2 := false, immBits := 32 } a = false ∧
      firstBad (aidAccesses (tileOf s a.t) a 8 ownAccess) = some (i, c) ∧ rd s (TIL_ERR_valid a.t) = 0 ∧
      OpReady s a.t 3 (aidRes { rs2 := false, immBits := 32 } a ++
        (goodOnes (aidAccesses (tileOf s a.t) a 8 ownAccess)).map fun p => Res.bytes p.2 8)) :=
  ⟨⟨aideTile, { anAid with rs2 := 0, imm := 8 }, by unfold OpReady TileReady Alone; decide +kernel⟩,
    ⟨aideTile, { anAid with rs1 := 0, rs2 := 0, imm := 0x400000 }, by unfold OpReady TileReady Alone; decide +kernel⟩,
    ⟨aideTile, { anAid with rd := 0, imm := 8 }, by unfold OpReady TileReady Alone; decide +kernel⟩,
    ⟨aideTile, { anAid with rd := 0, rs1 := 0, imm := 0x400000 }, by unfold OpReady TileReady Alone; decide +kernel⟩,
    ⟨{ aideTile with jobs := [(1, { oneJob with form := some oneForm })] }, { anAid with rs2 := 0 },
      by unfold OpReady TileReady Alone; decide +kernel⟩,
    ⟨{ aideTile with jobs := [(1, { oneJob with form := some oneForm })] }, { anAid with rs2 := 0 },
      by unfold OpReady TileReady Alone; decide +kernel⟩,
    ⟨aideTile, { anAid with rs2 := 0, imm := 4 }, 0, 2, by unfold OpReady TileReady Alone; decide +kernel⟩⟩

theorem witness_accumulators_and_tray :
    (∃ (s : State) (o : MeOp) (i : Nat), accOpBad o = false ∧ i = accIndex (tileOf s o.t) o.acc.toNat o.acnt.toNat ∧ i <
      accLimit o.exam ∧ OpReady s o.t 1 (accRes o.exam i)) ∧
    (∃ (s : State) (o : MeOp) (i : Nat), anchorBad o = false ∧ i = accIndex (tileOf s o.t) o.acc.toNat o.acnt.toNat ∧ i < 48 ∧
      OpReady s o.t 1 (accRes true i)) ∧
    (∃ (s : State) (o : MeOp) (i n : Nat), accOpBad o = false ∧ i = accIndex (tileOf s o.t) o.acc.toNat o.acnt.toNat ∧ i <
      accLimit o.exam ∧ n = (if o.exam then 10 else 2) ∧ OpReady s o.t 1 (accRes o.exam i) ∧ trayPortHold (tileOf s o.t) (tickOf
      s o.t + 1) n = [] ∧ trayShort (tileOf s o.t) (tickOf s o.t) n = false) ∧
    (∃ (s : State) (o : MeOp) (n a : Nat), s.upsets = [] ∧ wloadBad o = false ∧ n = imgLines o.fmt.toNat o.sparse ∧ a = effAddr
      (tileOf s o.t) o.adesc.toNat o.aoff.toNat ∧ a % 512 = 0 ∧ ownScratch s o.t 0 a (512 * n) = true ∧ (tileOf s o.t).micros =
      [] ∧ portBusy (tileOf s o.t) 1 .weight (rangeFrom (tickOf s o.t) n) = false ∧ OpReady s o.t 1 (.wbuf (b2n o.wbuf) ::
      spanOf a (512 * n))) :=
  ⟨⟨memTile Tile.init [], { aMeOp with acc := 255 }, 255, by unfold OpReady TileReady Alone; decide +kernel⟩,
    ⟨memTile Tile.init [], { aMeOp with acc := 47, aoff := 3 }, 47, by unfold OpReady TileReady Alone; decide +kernel⟩,
    ⟨memTile Tile.init [], { aMeOp with exam := true, acc := 47 }, 47, 10, by unfold OpReady TileReady Alone; decide +kernel⟩,
    ⟨memTile Tile.init [], { aMeOp with adesc := 1, wbuf := true }, imgLines 0 false, windowOf 0 + 0x100000,
      by unfold OpReady TileReady Alone; decide +kernel⟩⟩

theorem witness_matrix_multiply :
    (∃ (s : State) (o : MeOp) (i a n : Nat) (vec : Bytes) (prods : List (List FVal)) (v : List Nat), s.upsets = [] ∧ mmaBad o =
      false ∧ o.exam = false ∧ i = accIndex (tileOf s o.t) o.acc.toNat o.acnt.toNat ∧ i < 256 ∧ a = effAddr (tileOf s o.t)
      o.adesc.toNat o.aoff.toNat ∧ n = vecBytes o.fmt.toNat o.sparse + (if o.amask then 32 else 0) ∧ a % 32 = 0 ∧ ownScratch s
      o.t 0 a n = true ∧ wbufTag s o.t o.wbuf = (1, o.fmt.toNat, b2n o.sparse) ∧ vec = readBytes s a n ∧ prods = (List.range
      256).map (outputProducts o.fmt.toNat o.sparse o.wus o.pshift.toNat (wbufImage (tileOf s o.t) o.wbuf (imgLines o.fmt.toNat
      o.sparse)) (rowVals o.fmt.toNat o.aus (fmtK o.fmt.toNat o.sparse) vec (vec.drop (fmtK o.fmt.toNat o.sparse * fmtBits
      o.fmt.toNat / 8))) (fun g => o.amask && bitOf (leNat (vec.drop (vecBytes o.fmt.toNat o.sparse))) g)) ∧ v = (if o.accmode =
      0 then prods.map dotOpen else List.zipWith add32 (openVals (tileOf s o.t) i) (prods.map dotOpen)) ∧ OpReady s o.t 1
      (accRes false i ++ [.wbuf (b2n o.wbuf)] ++ spanOf a n) ∧ (o.accmode = 2 → trayPortHold (tileOf s o.t) (tickOf s o.t + (10
      + b2n o.sparse) + 1) 2 = [] ∧ trayShort (tileOf s o.t) (tickOf s o.t) 2 = false)) ∧
    (∃ (s : State) (o : MeOp) (i a n : Nat) (vec : Bytes) (res : List ExamRes), s.upsets = [] ∧ mmaBad o = false ∧ o.exam = true
      ∧ i = accIndex (tileOf s o.t) o.acc.toNat o.acnt.toNat ∧ i < 48 ∧ a = effAddr (tileOf s o.t) o.adesc.toNat o.aoff.toNat ∧
      n = vecBytes o.fmt.toNat o.sparse + (if o.amask then 32 else 0) ∧ a % 32 = 0 ∧ ownScratch s o.t 0 a n = true ∧ wbufTag s
      o.t o.wbuf = (1, o.fmt.toNat, b2n o.sparse) ∧ vec = readBytes s a n ∧ res = List.zipWith (examOut (Store.getD (tileOf s
      o.t).anchors i 0)) (if o.accmode = 0 then List.replicate 256 (some 0) else if (Store.get? (tileOf s o.t).exam i).isSome
      then (examVals (tileOf s o.t) i).map some else List.replicate 256 none) ((List.range 256).map (outputProducts o.fmt.toNat
      o.sparse o.wus o.pshift.toNat (wbufImage (tileOf s o.t) o.wbuf (imgLines o.fmt.toNat o.sparse)) (rowVals o.fmt.toNat o.aus
      (fmtK o.fmt.toNat o.sparse) vec (vec.drop (fmtK o.fmt.toNat o.sparse * fmtBits o.fmt.toNat / 8))) (fun g => o.amask &&
      bitOf (leNat (vec.drop (vecBytes o.fmt.toNat o.sparse))) g))) ∧ OpReady s o.t 1 (accRes true i ++ [.wbuf (b2n o.wbuf)] ++
      spanOf a n) ∧ (o.accmode = 2 → trayPortHold (tileOf s o.t) (tickOf s o.t + (14 + b2n o.sparse) + 1) 10 = [] ∧ trayShort
      (tileOf s o.t) (tickOf s o.t) 10 = false)) :=
  ⟨⟨memTile Tile.init [(ME_STATUS_wbuf0_valid 0, 1)], { aMeOp with adesc := 1, accmode := 2, acc := 255 }, 255, windowOf 0 +
      0x100000, vecBytes 0 false, _, _, _,
      by refine ⟨?_, ?_, ?_, ?_, ?_, ?_, ?_, ?_, ?_, ?_, rfl, rfl, rfl, ?_, ?_⟩ <;> first | decide +kernel | (unfold OpReady TileReady Alone; decide +kernel)⟩,
    ⟨memTile Tile.init [(ME_STATUS_wbuf0_valid 0, 1)], { aMeOp with adesc := 1, accmode := 2, exam := true, acc := 47 }, 47,
      windowOf 0 + 0x100000, vecBytes 0 false, _, _,
      by refine ⟨?_, ?_, ?_, ?_, ?_, ?_, ?_, ?_, ?_, ?_, rfl, rfl, ?_, ?_⟩ <;> first | decide +kernel | (unfold OpReady TileReady Alone; decide +kernel)⟩⟩

theorem witness_vector_chains_and_tray :
    (∃ (s : State) (t da : Nat) (k : BitVec 8) (sdesc ddesc : BitVec 6) (soff doff : BitVec 10) (c : Chain) (e : TrayEntry),
      s.upsets = [] ∧ (tileOf s t).chains[k.toNat]? = some c ∧ (tileOf s t).tray.head? = some e ∧ c.aux = false ∧ srcMismatch c
      e.long = false ∧ da = effAddr (tileOf s t) ddesc.toNat doff.toNat ∧ da % (if c.outFmt = 0x12 then 512 else 32) = 0 ∧
      (ownScratch s t 1 da (destBytes c) = true ∨ ownScratch s t 0 da (destBytes c) = true) ∧ sdesc = 0 ∧ soff = 0 ∧ headHold
      (tileOf s t) (tickOf s t) true = [] ∧ (tileOf s t).micros = [] ∧ portBusy (tileOf s t) 1 .veWrite [tickOf s t + (4 + 2 *
      c.stages.length)] = false ∧ OpReady s t 2 ((c.stages.flatMap stageBanks).map .bank ++ spanOf da (destBytes c))) ∧
    (∃ (s : State) (t sa da : Nat) (k : BitVec 8) (sdesc ddesc : BitVec 6) (soff doff : BitVec 10) (c : Chain), s.upsets = [] ∧
      (tileOf s t).chains[k.toNat]? = some c ∧ c.aux = false ∧ srcMismatch c false = false ∧ sa = effAddr (tileOf s t)
      sdesc.toNat soff.toNat ∧ sa % 32 = 0 ∧ ownScratch s t 1 sa (packedBytes c.inFmt) = true ∧ da = effAddr (tileOf s t)
      ddesc.toNat doff.toNat ∧ da % (if c.outFmt = 0x12 then 512 else 32) = 0 ∧ (ownScratch s t 1 da (destBytes c) = true ∨
      ownScratch s t 0 da (destBytes c) = true) ∧ (tileOf s t).micros = [] ∧ portBusy (tileOf s t) 1 .veWrite [tickOf s t + (4 +
      2 * c.stages.length)] = false ∧ OpReady s t 2 ((c.stages.flatMap stageBanks).map .bank ++ (spanOf sa (packedBytes c.inFmt)
      ++ spanOf da (destBytes c)))) ∧
    (∃ (_s : State) (a : Nat) (l : List (Byte × Byte)) (b : Nat), (b < a ∨ a + l.length ≤ b)) ∧
    (∃ (s : State) (t : Nat) (e : TrayEntry) (r : List TrayEntry), (tileOf s t).tray = e :: r ∧ headHold (tileOf s t) (tickOf s
      t) false = [] ∧ OpReady s t 2 []) ∧
    (∃ (s : State) (t a : Nat) (k : BitVec 4) (sdesc : BitVec 6) (soff : BitVec 10), s.upsets = [] ∧ a = effAddr (tileOf s t)
      sdesc.toNat soff.toNat ∧ a % 32 = 0 ∧ ownScratch s t 1 a 1024 = true ∧ OpReady s t 2 (.bank k.toNat :: spanOf a 1024)) :=
  ⟨⟨memTile { Tile.init with chains := [aChain], tray := [⟨false, List.replicate 256 0, 0, 0, 0⟩] } [(TIL_TICK_tick 0, 20)], 0,
      windowOf 0 + 0x200000, 0, 0, 2, 0, 0, aChain, ⟨false, List.replicate 256 0, 0, 0, 0⟩,
      by unfold OpReady TileReady Alone; decide +kernel⟩,
    ⟨memTile { Tile.init with chains := [aChain], tray := [⟨false, List.replicate 256 0, 0, 0, 0⟩] } [(TIL_TICK_tick 0, 20)], 0,
      windowOf 0 + 0x200000, windowOf 0 + 0x200000 + 1024, 0, 2, 2, 0, 32, aChain,
      by unfold OpReady TileReady Alone; decide +kernel⟩,
    ⟨State.reset, 5, [(1, 255), (2, 255)], 7, by decide +kernel⟩,
    ⟨memTile { Tile.init with chains := [aChain], tray := [⟨false, List.replicate 256 0, 0, 0, 0⟩] } [(TIL_TICK_tick 0, 20)], 0,
      ⟨false, List.replicate 256 0, 0, 0, 0⟩, [], by unfold OpReady TileReady Alone; decide +kernel⟩,
    ⟨memTile { Tile.init with chains := [aChain], tray := [⟨false, List.replicate 256 0, 0, 0, 0⟩] } [(TIL_TICK_tick 0, 20)], 0,
      windowOf 0 + 0x200000, 15, 2, 0, by unfold OpReady TileReady Alone; decide +kernel⟩⟩

theorem witness_locker_operations_and_routes :
    (∃ (s : State) (a : AidOp), aidBad { rd := false, immBits := 16 } a = false ∧ OpReady s a.t 3 (aidRes
      { rd := false, immBits := 16 } a) ∧ (∀ i ∈ aidesRun (tileOf s a.t) a, lockerFault s a.t ((tileOf s a.t).v1 a i) ((tileOf s
      a.t).v2 a i) (lockerBytes s (tilePart s a.t)) a.imm.toNat = none) ∧ aidesRun (tileOf s a.t) a ≠ []) ∧
    (∃ (s : State) (hub : Nat) (o : LockerOp) (r : List LockerOp) (lb head : Nat), Store.getD s.lockerQ hub [] = o :: r ∧ o.kind
      = .fetch ∧ lb = lockerBytes s o.part ∧ head = (readByte s (headAddr s o.part o.locker)).toNat ∧ head < lb / eventBytes s
      o.part) ∧
    (∃ (s : State) (hub : Nat) (o : LockerOp) (r : List LockerOp) (lb : Nat), Store.getD s.lockerQ hub [] = o :: r ∧ o.kind =
      .store ∧ lb = lockerBytes s o.part ∧ on s (REL_UNDO_CFG_en o.part) = false) ∧
    (∃ (s : State) (hub : Nat) (o : LockerOp) (r : List LockerOp) (lb eb head a : Nat), Store.getD s.lockerQ hub [] = o :: r ∧
      o.kind = .append ∧ lb = lockerBytes s o.part ∧ eb = eventBytes s o.part ∧ head = (readByte s (headAddr s o.part
      o.locker)).toNat ∧ head < lb / eb ∧ a = lockerAddr s o.part o.locker + head * eb ∧ on s (REL_UNDO_CFG_en o.part) = false) ∧
    (∃ (s : State) (a : AidOp), aidBad { rd := false, rs2 := false } a = false ∧ OpReady s a.t 3 (aidRes
      { rd := false, rs2 := false } a)) :=
  ⟨⟨lockerTile, { anAid with rd := 0, pred := 1, imm := 4 }, by unfold OpReady TileReady Alone; decide +kernel⟩,
    ⟨{ lockerTile with lockerQ := [(0, [⟨.fetch, 0, 0, 0, 0, 5, windowOf 0 + 0x100000, 1, 1, 0, 0⟩])] }, 0, ⟨.fetch, 0, 0, 0, 0,
      5, windowOf 0 + 0x100000, 1, 1, 0, 0⟩, [], 256, 0, by decide +kernel⟩,
    ⟨{ lockerTile with lockerQ := [(0, [⟨.store, 0, 0, 0, 0, 5, windowOf 0 + 0x100000, 1, 1, 0, 0⟩])] }, 0, ⟨.store, 0, 0, 0, 0,
      5, windowOf 0 + 0x100000, 1, 1, 0, 0⟩, [], 256, by decide +kernel⟩,
    ⟨{ lockerTile with lockerQ := [(0, [⟨.append, 0, 0, 0, 0, 5, windowOf 0 + 0x100000, 1, 1, 0, 0⟩])] }, 0, ⟨.append, 0, 0, 0,
      0, 5, windowOf 0 + 0x100000, 1, 1, 0, 0⟩, [], 256, 64, 0, lpdBase + 5 * 256, by decide +kernel⟩,
    ⟨lockerTile, { anAid with rd := 0, rs2 := 0 }, by unfold OpReady TileReady Alone; decide +kernel⟩⟩

theorem witness_static_transfers :
    (∃ (s : State) (t n da w : Nat) (dd : BitVec 6) (doff : BitVec 12) (k : BitVec 8) (_b : Byte), n = k.toNat + 1 ∧ da =
      effAddr (tileOf s t) dd.toNat doff.toNat ∧ da % 512 = 0 ∧ ownUnit s t da (512 * n) = some w ∧ tileSpanOk s t da (512 * n)
      = true ∧ (tileOf s t).micros = [] ∧ portBusy (tileOf s t) 1 (.xferWrite w) (rangeFrom (tickOf s t + 1) n) = false ∧
      OpReady s t 4 (spanOf da (512 * n))) ∧
    (∃ (s : State) (t n sa da w : Nat) (sd dd : BitVec 6) (soff doff : BitVec 8) (k : BitVec 7), n = k.toNat + 1 ∧ sa = effAddr
      (tileOf s t) sd.toNat soff.toNat ∧ da = effAddr (tileOf s t) dd.toNat doff.toNat ∧ sa % 512 = 0 ∧ da % 512 = 0 ∧ ownUnit s
      t da (512 * n) = some w ∧ ownUnit s t sa (512 * n) = some w ∧ tileSpanOk s t sa (512 * n) = true ∧ tileSpanOk s t da (512
      * n) = true ∧ (sa + 512 * n ≤ da ∨ da + 512 * n ≤ sa) ∧ (tileOf s t).micros = [] ∧ s.upsets = [] ∧ readBusy (tileOf s t)
      (.xferRead w) (tickOf s t + 1) (rangeFrom (sa / 512) n) = false ∧ portBusy (tileOf s t) 1 (.xferWrite w) (rangeFrom
      (tickOf s t + 2) n) = false ∧ OpReady s t 4 (spanOf sa (512 * n) ++ spanOf da (512 * n))) ∧
    (∃ (s : State) (t n ma sa w r lat : Nat) (md sd : BitVec 6) (moff : BitVec 12) (soff : BitVec 8) (k : BitVec 3), n = k.toNat
      + 1 ∧ ma = effAddr (tileOf s t) md.toNat moff.toNat ∧ sa = effAddr (tileOf s t) sd.toNat soff.toNat ∧ ma % 512 = 0 ∧ sa %
      512 = 0 ∧ staticRegion s t ma (512 * n) = some r ∧ ownUnit s t sa (512 * n) = some w ∧ tileSpanOk s t ma (512 * n) = true
      ∧ tileSpanOk s t sa (512 * n) = true ∧ lat = dramLatency (t % 8) (r % 8) ∧ (tileOf s t).micros = [] ∧ s.upsets = [] ∧ (∀ c
      ∈ s.claims, c.region ≠ r) ∧ (tileOf s r).refrBusy = 0 ∧ OpReady s t 4 (spanOf ma (512 * n) ++ spanOf sa (512 * n))) ∧
    (∃ (s : State) (t n sa da st su dt du land : Nat) (sd dd : BitVec 6) (soff doff : BitVec 8) (k : BitVec 3), n = 32 *
      (k.toNat + 1) ∧ sa = effAddr (tileOf s t) sd.toNat soff.toNat ∧ da = effAddr (tileOf s t) dd.toNat doff.toNat ∧ sa % 32 =
      0 ∧ da % 32 = 0 ∧ scratchSpan s sa n = some (st, su) ∧ scratchSpan s da n = some (dt, du) ∧ t / 8 = st / 8 ∧ t / 8 = dt /
      8 ∧ tileSpanOk s t sa n = true ∧ tileSpanOk s t da n = true ∧ sa % 512 + n ≤ 512 ∧ (tileOf s t).micros = [] ∧ s.upsets =
      [] ∧ land = (if dt = t then tickOf s t + 5 else tickOf s t + 23) ∧ usesOf (tileOf s dt) (.shortWrite du) (if dt = t then
      land else localTick (tileOf s dt) (gridTick (tileOf s t) land)) + (linesOf da n).length ≤ 2 ∧ readBusy (tileOf s st)
      (.xferRead su) (if st = t then tickOf s t else localTick (tileOf s st) (gridTick (tileOf s t) (tickOf s t))) (linesOf sa
      n) = false ∧ farFlight s t st (tickOf s t) (spanOf sa n) = [] ∧ OpReady s t 4 (spanOf sa n ++ (if dt = t then spanOf da n
      else []))) :=
  ⟨⟨memTile Tile.init [], 0, 2, windowOf 0 + 0x200000, 1, 2, 0, 1, 7, by unfold OpReady TileReady Alone; decide +kernel⟩,
    ⟨memTile Tile.init [], 0, 2, windowOf 0 + 0x200000, windowOf 0 + 0x200000 + 1024, 1, 2, 2, 0, 32, 1,
      by unfold OpReady TileReady Alone; decide +kernel⟩,
    ⟨memTile Tile.init [], 0, 2, 0, windowOf 0 + 0x200000, 1, 0, 40, 3, 2, 0, 0, 1,
      by unfold OpReady TileReady Alone; decide +kernel⟩,
    ⟨memTile Tile.init [], 0, 64, windowOf 0 + 0x200000, windowOf 0 + 0x200000 + 512, 0, 1, 0, 1, 5, 2, 2, 0, 16, 1,
      by unfold OpReady TileReady Alone; decide +kernel⟩⟩

theorem witness_long_pass :
    (∃ (s : State) (t d src dst idx : Nat) (eng : Bool) (k : BitVec 10) (c : BitVec 16), (tileOf s t).tmpls[k.toNat]? = some d ∧
      src = effAddr (tileOf s t) (bitsOf d 128 8) (bitsOf d 160 16) ∧ dst = (if tDstRel d then (effAddr (tileOf s t) (bitsOf d
      136 8) (bitsOf d 176 16) + bitsOf d 416 16 * nearBytes) % 2 ^ 64 else effAddr (tileOf s t) (bitsOf d 136 8) (bitsOf d 176
      16)) ∧ idx = effAddr (tileOf s t) (bitsOf d 144 8) (bitsOf d 192 16) ∧ (tMode d ≠ 1 → ∀ i, i < tPieces d → strided d src
      256 i % 32 = 0 ∧ tileSpanOk s t (strided d src 256 i) (tPiece d) = true) ∧ (tMode d ≠ 2 → ∀ i, i < tPieces d → strided d
      dst 320 i % 32 = 0 ∧ tileSpanOk s t (strided d dst 320 i) (tPiece d) = true) ∧ (tMode d = 1 → src % 32 = 0 ∧ tileSpanOk s
      t src 1 = true) ∧ (tMode d = 2 → dst % 32 = 0 ∧ tileSpanOk s t dst 1 = true) ∧ (tMode d ≠ 0 → idx % 32 = 0 ∧ tileSpanOk s
      t idx (4 * tPieces d) = true) ∧ ctrOk s t c.toNat = true ∧ (engXfers (tileOf s t) (b2n eng)).length < 6 ∧ OpReady s t 4
      []) ∧
    (∃ (s : State) (t : Nat) (eng : Bool) (f : Transfer) (r : List Transfer), (tileOf s t).xfers = f :: r ∧ f.eng = b2n eng ∧
      s.upsets = [] ∧ (∀ i, f.donePieces ≤ i → i < nextReport f → pieceOk s t f i = true)) ∧
    (∃ (s : State) (t i : Nat) (eng : Bool) (f : Transfer) (r : List Transfer), (tileOf s t).xfers = f :: r ∧ f.eng = b2n eng ∧
      (rangeFrom f.donePieces (tPieces f.tdata - f.donePieces)).find? (fun j => !pieceOk s t f j) = some i ∧ rd s (TIL_ERR_valid
      t) = 0) :=
  ⟨⟨memTile { Tile.init with tmpls := [aTmpl] } [], 0, aTmpl, windowOf 0 + 0x200000, windowOf 0 + 0x200000, 0, false, 0, 1,
      by unfold OpReady TileReady Alone; decide +kernel⟩,
    ⟨memTile { Tile.init with xfers := [aTransfer] } [], 0, false, aTransfer, [], rfl, rfl, rfl,
      fun i _ h => by have h : i = 0 := Nat.lt_one_iff.mp h; subst h; decide +kernel⟩,
    ⟨memTile { Tile.init with xfers := [{ aTransfer with tdata := 2 + 2 ^ 32 + 2 ^ 64 + 2 ^ 96, dst := 0x800000000000 }] } [],
      0, 0, false, { aTransfer with tdata := 2 + 2 ^ 32 + 2 ^ 64 + 2 ^ 96, dst := 0x800000000000 }, [], by decide +kernel⟩⟩

theorem witness_channel_send_and_receive :
    (∃ (s : State) (t a w : Nat) (e : BitVec 4) (sd : BitVec 6) (soff : BitVec 9), (∀ i ∈ s.fabric, crossed s t i = false) ∧ a =
      effAddr (tileOf s t) sd.toNat soff.toNat ∧ a % 512 = 0 ∧ ownUnit s t a 512 = some w ∧ tileSpanOk s t a 512 = true ∧ rd s
      (CH_ROUTE_path t e.toNat) ≠ 0 ∧ on s (CH_EPSTAT_open t e.toNat) = true ∧ 0 < rd s (CH_EPSTAT_credits t e.toNat) ∧ (tileOf
      s t).micros = [] ∧ s.upsets = [] ∧ readBusy (tileOf s t) (.xferRead w) (tickOf s t + 1) [a / 512] = false ∧ OpReady s t 5
      (spanOf a 512)) ∧
    (∃ (s : State) (t a w : Nat) (e : BitVec 4) (sd : BitVec 6) (soff : BitVec 9), (∀ i ∈ s.fabric, crossed s t i = false) ∧ a =
      effAddr (tileOf s t) sd.toNat soff.toNat ∧ a % 512 = 0 ∧ ownUnit s t a 512 = some w ∧ tileSpanOk s t a 512 = true ∧ rd s
      (CH_ROUTE_path t e.toNat) ≠ 0 ∧ on s (CH_EPSTAT_open t e.toNat) = false ∧ OpReady s t 5 []) ∧
    (∃ (s : State) (t a w : Nat) (q : BitVec 4) (dd : BitVec 6) (doff : BitVec 9) (l : QLine) (r : List QLine), (∀ i ∈ s.fabric,
      crossed s t i = false) ∧ a = effAddr (tileOf s t) dd.toNat doff.toNat ∧ a % 512 = 0 ∧ ownUnit s t a 512 = some w ∧
      tileSpanOk s t a 512 = true ∧ on s (CH_QSTAT_open t q.toNat) = true ∧ Store.getD (tileOf s t).queues q.toNat [] = l :: r ∧
      l.present ≤ tickOf s t ∧ (tileOf s t).micros = [] ∧ portBusy (tileOf s t) 1 (.xferWrite w) [tickOf s t + 2] = false ∧
      OpReady s t 5 (spanOf a 512)) ∧
    (∃ (s : State) (t : Nat) (q : BitVec 4), (∀ i ∈ s.fabric, crossed s t i = false) ∧ on s (CH_QSTAT_open t q.toNat) = false ∧
      rd s (CH_QSTAT_depth t q.toNat) ≠ 0 ∧ Store.getD (tileOf s t).qOpened q.toNat 0 + 4000 ≤ s.now ∧ OpReady s t 5 []) ∧
    (∃ (s : State) (t : Nat) (_q : BitVec 4), (∀ i ∈ s.fabric, crossed s t i = false) ∧ OpReady s t 5 []) :=
  ⟨⟨memTile Tile.init [(CH_ROUTE_path 0 2, 1), (CH_EPSTAT_open 0 2, 1), (CH_EPSTAT_credits 0 2, 1)], 0, windowOf 0 + 0x200000,
      1, 2, 2, 0, by unfold OpReady TileReady Alone; decide +kernel⟩,
    ⟨memTile Tile.init [(CH_ROUTE_path 0 2, 1)], 0, windowOf 0 + 0x200000, 1, 2, 2, 0,
      by unfold OpReady TileReady Alone; decide +kernel⟩,
    ⟨memTile { Tile.init with queues := [(2, [⟨[], 0⟩])] } [(CH_QSTAT_open 0 2, 1)], 0, windowOf 0 + 0x200000, 1, 2, 2, 0, ⟨[],
      0⟩, [], by unfold OpReady TileReady Alone; decide +kernel⟩,
    ⟨{ memTile Tile.init [(CH_QSTAT_depth 0 2, 1)] with now := 4000 }, 0, 2, by unfold OpReady TileReady Alone; decide +kernel⟩,
    ⟨memTile Tile.init [], 0, 2, by unfold OpReady TileReady Alone; decide +kernel⟩⟩

theorem witness_arrivals_at_queues_and_endpoints :
    (∃ (s : State) (t e q inc pc d : Nat) (data : Bytes) (i : Item) (r : List Item), s.fabric = i :: r ∧ i.cargo = .line e q inc
      pc data none ∧ i.src = t ∧ i.dst = d ∧ q < 16) ∧
    (∃ (s : State) (t e pc : Nat) (i : Item) (r : List Item), s.fabric = i :: r ∧ i.cargo = .credit e pc none ∧ i.dst = t ∧
      fresh s i = true ∧ on s (CH_EPSTAT_open t e) = true ∧ on s (CH_ROUTE_cred_en t e) = false) ∧
    (∃ (s : State) (t e inc : Nat) (opens : Bool) (i : Item) (r : List Item), s.fabric = i :: r ∧ i.cargo = .token e opens inc
      none ∧ i.dst = t ∧ fresh s i = true) ∧
    (∃ (s : State) (k ctr amt sl pc : Nat) (b : Bool) (i : Item), s.fabric[k]? = some i ∧ i.cargo = .incr ctr amt sl pc b ∧
      i.issued + 1000000 ≤ s.now ∧ runningRun s i.job = none) :=
  ⟨⟨{ memTile Tile.init [] with fabric := [⟨.line 2 3 0 0 [] none, 1, 0, 1, 0, 0⟩] }, 1, 2, 3, 0, 0, 0, [], ⟨.line 2 3 0 0 []
      none, 1, 0, 1, 0, 0⟩, [], by decide +kernel⟩,
    ⟨{ memTile Tile.init [(CH_EPSTAT_open 0 2, 1)] with fabric := [⟨.credit 2 0 none, 1, 0, 1, 0, 0⟩] }, 0, 2, 0, ⟨.credit 2 0
      none, 1, 0, 1, 0, 0⟩, [], by decide +kernel⟩,
    ⟨{ memTile Tile.init [] with fabric := [⟨.token 2 true 1 none, 1, 0, 1, 0, 0⟩] }, 0, 2, 1, true, ⟨.token 2 true 1 none, 1,
      0, 1, 0, 0⟩, [], by decide +kernel⟩,
    ⟨{ memTile Tile.init [] with now := 1000000, fabric := [⟨.incr 1 1 5 0 false, 1, 0, 1, 0, 0⟩] }, 0, 1, 1, 5, 0, false,
      ⟨.incr 1 1 5 0 false, 1, 0, 1, 0, 0⟩, by decide +kernel⟩⟩

theorem witness_sync_counters :
    (∃ (s : State) (t : Nat) (c : BitVec 16) (_n : BitVec 3), ctrOk s t c.toNat = true ∧ (tileOf s t).micros = [] ∧ OpReady s t
      5 []) ∧
    (∃ (s : State) (t v h : Nat) (c : BitVec 16) (_take : Bool), ctrOk s t c.toNat = true ∧ OpReady s t 5 [] ∧ v = rd s
      (SYN_CTR_value c.toNat) ∧ h = rd s (SYN_CTR_threshold c.toNat)) ∧
    (∃ (s : State) (src c amt sl pc : Nat) (i : Item) (r : List Item), s.fabric = i :: r ∧ i.cargo = .incr c amt sl pc false ∧
      i.src = src ∧ c < 4096) ∧
    (∃ (s : State) (src c amt sl pc : Nat) (i : Item) (r : List Item) (w : Waiter), s.fabric = i :: r ∧ i.cargo = .incr c amt sl
      pc false ∧ i.src = src ∧ (runningRun s i.job).isSome = true ∧ rd s (SYN_CTR_threshold c) ≠ 0 ∧ rd s (SYN_CTR_job_id c) =
      i.job ∧ rd s (SYN_CTR_epoch c) = i.epoch ∧ postCounter s i.job ≠ some c ∧ rd s (SYN_CTR_value c) + amt ≤ 0xFFFFFF ∧
      s.waiters = [w] ∧ w.ctr = c ∧ rd s (SYN_CTR_threshold c) ≤ rd s (SYN_CTR_value c) + amt) ∧
    (∃ (s : State) (t _u0 k : Nat), seqState s t = 2 ∧ (tileOf s t).waits = [.swait k true] ∧ (tileOf s t).haltTick = none) ∧
    (∃ (s : State) (t kind obj pc : Nat), stalledOn s t = some (kind, obj, pc) ∧ rd s (TIL_ERR_valid t) = 0) :=
  ⟨⟨memTile Tile.init [], 0, 4, 7, by unfold OpReady TileReady Alone; decide +kernel⟩,
    ⟨memTile Tile.init [(SYN_CTR_value 4, 2), (SYN_CTR_threshold 4, 2)], 0, 2, 2, 4, true,
      by unfold OpReady TileReady Alone; decide +kernel⟩,
    ⟨{ memTile Tile.init [] with fabric := [⟨.incr 1 1 5 0 false, 3, 0, 1, 0, 0⟩] }, 3, 1, 1, 5, 0, ⟨.incr 1 1 5 0 false, 3, 0,
      1, 0, 0⟩, [], by decide +kernel⟩,
    ⟨{ memTile Tile.init [(SYN_CTR_threshold 1, 3), (SYN_CTR_value 1, 2), (SYN_CTR_job_id 1, 1)] with fabric := [⟨.incr 1 1 5 0 false, 3, 0, 1, 0, 0⟩], waiters := [⟨0, 0, 1, true⟩], runs := [(0, { oneRun with phase := .running })] },
      3, 1, 1, 5, 0, ⟨.incr 1 1 5 0 false, 3, 0, 1, 0, 0⟩, [], ⟨0, 0, 1, true⟩, by decide +kernel⟩,
    ⟨memTile { Tile.init with waits := [.swait 5 true] } [(TIL_SEQ_STATUS_state 0, 2)], 0, 3, 5, by decide +kernel⟩,
    ⟨memTile { Tile.init with stall := some (1, 2, 0) } [(TIL_SEQ_STATUS_state 0, 2)], 0, 1, 2, 0, by decide +kernel⟩⟩

theorem witness_bells_act_at_boundaries :
    (∃ (s : State) (q : Nat) (p : Period), Store.get? s.periods q = some p ∧ tod s < p.bellAt p.nextStart) ∧
    (∃ (s : State) (q : Nat) (p : Period), q < 8 ∧ Store.get? s.periods q = some p ∧ p.bellAt p.nextStart ≤ tod s ∧ p.unbind =
      none ∧ follows s p.part = false ∧ (∀ k ∈ plansOf s p.job, ∀ y, Store.get? s.plans k = some y → y.replay = true ∨ y.begun =
      true)) ∧
    (∃ (s : State) (q d : Nat) (p : Period), Store.get? s.periods q = some p ∧ p.bellAt p.nextStart ≤ tod s ∧ p.unbind = some d) ∧
    (∃ (s : State) (q m k : Nat) (p : Period), Store.get? s.periods q = some p ∧ markAt s p m = some k ∧ k ≤ tod s ∧ (∀ a ∈
      p.acting ++ p.acted, a.1 ≠ m)) ∧
    (∃ (s : State) (q m w : Nat) (p : Period), Store.get? s.periods q = some p ∧ p.acting.find? (·.1 == m) = some (m, w) ∧
      boundaryCome s w = true ∧ inBubble s q = false) ∧
    (∃ (s : State) (q m w : Nat) (p : Period), Store.get? s.periods q = some p ∧ p.acting.find? (·.1 == m) = some (m, w) ∧
      boundaryCome s w = true ∧ inBubble s q = true) ∧
    (∃ (s : State) (r : Nat) (x : Run), Store.get? s.runs r = some x ∧ x.phase = .pending ∧ x.kind = .graph ∧ x.kickWin = none ∧
      x.bell ≤ tod s) ∧
    (∃ (s : State) (k i mac : Nat) (r : Request), (dueReqs s)[k]? = some (.cand i) ∧ s.cands[i]? = some r ∧ muted s r.part =
      false ∧ linkUp s r.port r.sub = true ∧ neighbourOf s r.port r.sub r.ip = some mac ∧ txMsa s r.port r.sub = none) :=
  ⟨⟨{ fieldsAt0 [] with jobs := [(1, oneJob)], periods := [(0, { onePeriod with nextStart := 1 })] }, 0,
      { onePeriod with nextStart := 1 }, by decide +kernel⟩,
    ⟨{ fieldsAt0 [] with jobs := [(1, oneJob)], periods := [(0, onePeriod)] }, 0, onePeriod, by decide +kernel,
      by decide +kernel, by decide +kernel, by decide +kernel, by decide +kernel, fun _ h => nomatch h⟩,
    ⟨{ fieldsAt0 [] with jobs := [(1, oneJob)], periods := [(0, { onePeriod with unbind := some 9 })] }, 0, 9,
      { onePeriod with unbind := some 9 }, by decide +kernel⟩,
    ⟨{ fieldsAt0 [(TIM_TOD_tod, 1000)] with jobs := [(1, oneJob)], periods := [(0, { onePeriod with current := some 0 })] }, 0,
      0, 1000, { onePeriod with current := some 0 }, by decide +kernel⟩,
    ⟨{ fieldsAt0 [] with jobs := [(1, oneJob)], periods := [(0, { onePeriod with acting := [(0, 0)] })] }, 0, 0, 0,
      { onePeriod with acting := [(0, 0)] }, by decide +kernel⟩,
    ⟨{ fieldsAt0 [] with jobs := [(1, oneJob)], periods := [(0, { onePeriod with acting := [(0, 0)] })], bubbleNow := [0] }, 0,
      0, 0, { onePeriod with acting := [(0, 0)] }, by decide +kernel⟩,
    ⟨{ fieldsAt0 [] with jobs := [(1, oneJob)], runs := [(0, oneRun)] }, 0, oneRun, by decide +kernel⟩,
    ⟨{ fieldsAt0 [(NET_PORT_STATUS_link_up 0, 1)] with jobs := [(1, oneJob)], cands := [aReq], neighbours := [⟨0, 0, 5⟩] }, 0,
      0, 5, aReq, by decide +kernel⟩⟩

theorem witness_runs_kick_off_and_tasks_start :
    (∃ (s : State) (r : Nat) (x : Run) (j : Job), Store.get? s.runs r = some x ∧ Store.get? s.jobs x.job = some j ∧ kickBlocked
      s r x = false ∧ s.time.rollDue = false ∧ boundaryCome s (x.kickWin.getD 0) = true ∧ inBubble s j.part = false ∧ (∀ t ∈
      j.tiles, replacing s t (decide (0 < x.retakes)) = false) ∧ (∀ e, Store.get? s.epochAt x.job = some e → e + 4000 ≤ s.now) ∧
      (x.kind = .graph → unfilled j = none ∧ planHolder s x.job j = none)) ∧
    (∃ (s : State) (r : Nat) (x : Run) (j : Job), Store.get? s.runs r = some x ∧ Store.get? s.jobs x.job = some j ∧ kickBlocked
      s r x = false ∧ s.time.rollDue = true) ∧
    (∃ (s : State) (r : Nat) (x : Run), Store.get? s.runs r = some x ∧ kickBlocked s r x = true) ∧
    (∃ (s : State) (r k w : Nat) (x : Run) (j : Job) (a : TaskRec), Store.get? s.runs r = some x ∧ Store.get? s.jobs x.job =
      some j ∧ j.tasks[k]? = some a ∧ x.phase = .running ∧ x.ready.find? (fun p => p.1 == k) = some (k, w) ∧ boundaryCome s w =
      true ∧ inBubble s (partOfRun s x) = false) ∧
    (∃ (s : State) (t r k : Nat) (x : Run) (j : Job), (tileOf s t).task = some (r, k) ∧ mayComplete s t = true ∧ Store.get?
      s.runs r = some x ∧ Store.get? s.jobs x.job = some j) :=
  ⟨⟨{ fieldsAt0 [] with jobs := [(1, oneJob)], runs := [(0, { oneRun with kickWin := some 0 })], time := { TimeSt.init with rollDue := false } },
      0, { oneRun with kickWin := some 0 }, oneJob, by decide +kernel, by decide +kernel, by decide +kernel, by decide +kernel,
      by decide +kernel, by decide +kernel, by decide +kernel, (by intro _ h; cases h), by decide +kernel⟩,
    ⟨{ fieldsAt0 [] with jobs := [(1, oneJob)], runs := [(0, { oneRun with kickWin := some 0 })] }, 0,
      { oneRun with kickWin := some 0 }, oneJob, by decide +kernel⟩,
    ⟨{ fieldsAt0 [] with jobs := [(1, oneJob)], runs := [(0, oneRun)] }, 0, oneRun, by decide +kernel⟩,
    ⟨{ fieldsAt0 [] with jobs := [(1, oneJob)], runs := [(0, { oneRun with phase := .running, ready := [(0, 0)] })] }, 0, 0, 0,
      { oneRun with phase := .running, ready := [(0, 0)] }, oneJob, ⟨0, 0, 1, 0⟩, by decide +kernel⟩,
    ⟨{ readyTile { Tile.init with task := some (0, 0) } [(TIL_SEQ_STATUS_state 0, 4)] with runs := [(0, { oneRun with phase := .running, ready := [(0, 0)] })] },
      0, 0, 0, { oneRun with phase := .running, ready := [(0, 0)] }, oneJob, by decide +kernel⟩⟩

theorem witness_runs_stop_abort_and_retake :
    (∃ (s : State) (r : Nat) (x : Run), s.runs.find? (fun p => p.2.job == x.job && (p.2.live || (p.2.phase == .pending && decide
      (0 < p.2.retakes)))) = some (r, x) ∧ Store.get? s.runs r = some x ∧ x.phase = .stopping ∧ overrunNow s r x = false ∧
      (x.stop.bind StopCause.window ≠ some (windowNow s) ∨ ∀ t ∈ tilesOfRun s x, tileActive s t = false)) ∧
    (∃ (s : State) (r d w : Nat) (x : Run), Store.get? s.runs r = some x ∧ x.phase = .aborting ∧ lockersDone s x = true ∧ x.stop
      = some (.fault d w) ∧ mayRetake x d = true ∧ waitingUnload s x.job = none) ∧
    (∃ (s : State) (r : Nat) (x : Run) (c : StopCause), Store.get? s.runs r = some x ∧ x.phase = .aborting ∧ lockersDone s x =
      true ∧ x.stop = some c ∧ (∀ d w, c = .fault d w → mayRetake x d = false)) ∧
    (∃ (s : State) (r : Nat) (x : Run), Store.get? s.runs r = some x ∧ x.phase = .aborting ∧ lockersDone s x = false) ∧
    (∃ (s : State) (r : Nat) (x : Run), Store.get? s.runs r = some x ∧ x.phase = .retakeWait ∧ partOfRun s x < 8) :=
  ⟨⟨{ fieldsAt0 [] with jobs := [(1, oneJob)], runs := [(0, { oneRun with phase := .stopping })] }, 0,
      { oneRun with phase := .stopping }, by decide +kernel⟩,
    ⟨{ fieldsAt0 [] with jobs := [(1, oneJob)], runs := [(0, { oneRun with phase := .aborting, stop := some (.fault 1 0) })] },
      0, 1, 0, { oneRun with phase := .aborting, stop := some (.fault 1 0) }, by decide +kernel⟩,
    ⟨{ fieldsAt0 [] with jobs := [(1, oneJob)], runs := [(0, { oneRun with phase := .aborting, stop := some .overrun })] }, 0,
      { oneRun with phase := .aborting, stop := some .overrun }, .overrun, by decide +kernel, by decide +kernel,
      by decide +kernel, by decide +kernel, fun _ _ h => nomatch h⟩,
    ⟨{ fieldsAt0 [] with jobs := [(1, oneJob)], runs := [(0, { oneRun with phase := .aborting, stop := some (.fault 1 0) })], lockerQ := [(0, [⟨.fetch, 0, 0, 0, 0, 5, windowOf 0 + 0x100000, 1, 1, 0, 0⟩])] },
      0, { oneRun with phase := .aborting, stop := some (.fault 1 0) }, by decide +kernel⟩,
    ⟨{ fieldsAt0 [] with jobs := [(1, oneJob)], runs := [(0, { oneRun with phase := .retakeWait })] }, 0,
      { oneRun with phase := .retakeWait }, by decide +kernel⟩⟩

theorem witness_seats_and_replies :
    (∃ (s : State) (q n close d : Nat) (p : Period) (j : Job) (f : Form) (placed kept : List Request), Store.get? s.periods q =
      some p ∧ Store.get? s.jobs p.job = some j ∧ j.form = some f ∧ seatDue s p n = true ∧ follows s q = false ∧ (∀ c ∈
      s.copies, c.bind = p.subm → c.skipped = false) ∧ close = p.firstStart + n * p.periodNs - 2000 ∧ (placed, kept, d) =
      seatLoop s.part.seats close (s.cands.filter fun r => r.bind == p.subm) [] ((s.carries.filter fun c => c.bind == p.subm &&
      c.outPeriod + 1 == n).map (·.locker)) [] 0) ∧
    (∃ (s : State) (q : Nat) (p : Period) (j : Job) (f : Form) (c : Copy) (x : Seat) (e : Bytes), ((s.periods.map (·.2)) ++
      s.closings).filter (fun p => p.part == q) = [p] ∧ Store.get? s.jobs p.job = some j ∧ j.form = some f ∧ f.replyCtr ∈
      s.netNotes ∧ s.copies = [c] ∧ c.seats = [x] ∧ s.carries = [] ∧ copyLive s p c = true ∧ c.part = q ∧ x.waits = true ∧ e =
      readBytes s (replyAddr s j f c.period 0) 64 ∧ entryBad e = false ∧ fieldLE e 0 1 = 1 ∧ tod s < x.req.deadline ∧ dblPart s
      q = false) ∧
    (∃ (s : State) (k i : Nat), ((s.cands.zipIdx.filter fun p => follows s p.1.part && decide (p.1.deadline + 1000000 ≤ tod
      s)).map (·.2))[k]? = some i) :=
  ⟨⟨{ fieldsAt0 [(TIM_TOD_tod, 999500)] with jobs := [(1, formJob)], periods := [(0, onePeriod)], cands := [aReq] }, 0, 1,
      998000, 0, onePeriod, formJob, oneForm, [aReq], [], by decide +kernel⟩,
    ⟨replyState, 0, onePeriod, formJob, oneForm, ⟨7, 0, 0, 0, [Seat.fresh dueReq], false, false⟩, Seat.fresh dueReq, 1 ::
      List.replicate 63 0, by decide +kernel⟩,
    ⟨{ fieldsAt0 [(DBL_STATUS_state, 2), (DBL_STATUS_id, 1), (DBL_CFG_part_mask, 1), (TIM_TOD_tod, 1000000)] with jobs := [(1, oneJob)], cands := [{ aReq with deadline := 0 }] },
      0, 0, by decide +kernel⟩⟩

theorem witness_seating_plan_unit_fills :
    (∃ (s : State) (t w p : Nat) (i : Item) (r : List Item) (x : PlanSt), s.fabric = i :: r ∧ i.cargo = .route w ∧ i.src = t ∧
      Store.getD s.epochs i.job 0 = i.epoch ∧ p = bitsOf w 24 2 ∧ Store.get? s.plans p = some x ∧ w < 2 ^ 28 ∧ bitOf w 26 =
      false ∧ t ∈ x.senders ∧ t ∉ x.ended ∧ x.begun = false ∧ bitsOf w 27 1 = x.period % 2 ∧ bitsOf w 0 16 < s.part.seats ∧
      seatTaken s x (bitsOf w 0 16) = true ∧ bitsOf w 16 8 < x.bins ∧ (∀ e ∈ x.held, e.1 = bitsOf w 0 16 → e.2.1 ≠ bitsOf w 16
      8)) ∧
    (∃ (s : State) (k off : Nat) (x : PlanSt) (q : Nat) (p : Period) (j : Job), k < 4 ∧ Store.get? s.plans k = some x ∧ x.begun
      = false ∧ s.periods.find? (fun p => p.2.job == x.job) = some (q, p) ∧ Store.get? s.jobs x.job = some j ∧
      j.marks[x.fillBell]? = some off ∧ x.replay = false ∧ p.firstStart + x.period * p.periodNs + off ≤ tod s) ∧
    (∃ (s : State) (q k : Nat) (x : PlanSt) (p : Period), k < 4 ∧ Store.get? s.periods q = some p ∧ p.bellAt p.nextStart ≤ tod s
      ∧ p.unbind = none ∧ plansOf s p.job = [k] ∧ Store.get? s.plans k = some x ∧ x.replay = false ∧ x.begun = false) ∧
    (∃ (s : State) (f : Fill) (rest : List Fill) (x : PlanSt) (tb : Bytes) (size : Nat), s.spuFills = f :: rest ∧ f.plan < 4 ∧
      Store.get? s.plans f.plan = some x ∧ tb = binTable s x f (fillBins s x f) ∧ size = (tb.length + 511) / 512 * 512) :=
  ⟨⟨{ fieldsAt0 [] with jobs := [(1, oneJob)], runs := [(0, { oneRun with phase := .running, replay := [(0, [])] })], plans := [(0, { aPlan with replay := true })], fabric := [⟨.route 0, 3, 0, 1, 0, 0⟩] },
      3, 0, 0, ⟨.route 0, 3, 0, 1, 0, 0⟩, [], { aPlan with replay := true }, by decide +kernel⟩,
    ⟨{ fieldsAt0 [(TIM_TOD_tod, 1000)] with jobs := [(1, oneJob)], periods := [(0, onePeriod)], plans := [(3, aPlan)] }, 3,
      1000, aPlan, 0, onePeriod, oneJob, by decide +kernel⟩,
    ⟨{ fieldsAt0 [] with jobs := [(1, oneJob)], periods := [(0, onePeriod)], plans := [(2, aPlan)] }, 0, 2, aPlan, onePeriod,
      by decide +kernel⟩,
    ⟨{ fieldsAt0 [] with jobs := [(1, oneJob)], plans := [(3, aPlan)], spuFills := [⟨3, false, 0, [], 0, []⟩] }, ⟨3, false, 0,
      [], 0, []⟩, [], aPlan, _, _, by decide +kernel, by decide +kernel, by decide +kernel, rfl, rfl⟩⟩

theorem witness_host_queues :
    (∃ (s : State) (fn q : Nat) (v : Word64), fnSq s fn q = true ∧ on s (HQ_SQ_CFG_en q) = true ∧ v.toNat % 2 ^ 17 < sqLen s q ∧
      outstanding s q + (v.toNat % 2 ^ 17 + sqLen s q - rd s (HQ_SQ_DB_tail q) % sqLen s q) % sqLen s q < sqLen s q) ∧
    (∃ (s : State) (fn q : Nat) (v : Word64), fnSq s fn q = true ∧ rd s HST_BAR0_LOG_valid = 0 ∧ (on s (HQ_SQ_CFG_en q) = false
      ∨ (v.toNat % 2 ^ 17 ≠ rd s (HQ_SQ_DB_tail q) ∧ sqLen s q ≤ v.toNat % 2 ^ 17))) ∧
    (∃ (s : State) (fn q : Nat) (v : Word64), q < 16 ∧ fnCq s fn q = true ∧ on s (HQ_CQ_CFG_en q) = true ∧ v.toNat % 2 ^ 17 <
      cqLen s q ∧ (v.toNat % 2 ^ 17 + cqLen s q - rd s (HQ_CQ_DB_head q) % cqLen s q) % cqLen s q ≤ cqUsed s q) ∧
    (∃ (s : State) (fn q : Nat) (v : Word64), q < 16 ∧ fnSq s fn q = true ∧ bitOf v.toNat 5 = true ∧ on s (HQ_SQ_CFG_en q) =
      false) ∧
    (∃ (s : State) (fn q : Nat) (v : Word64), q < 16 ∧ fnCq s fn q = true ∧ bitOf v.toNat 5 = true ∧ on s (HQ_CQ_CFG_en q) =
      false ∧ (cqOf s q).held = [] ∧ (∀ d ∈ s.descs, d.refusal s = none)) ∧
    (∃ (s : State) (fn q : Nat) (v : Word64), q < 16 ∧ fnSq s fn q = true ∧ bitOf v.toNat 5 = false ∧ on s (HQ_SQ_CFG_en q) =
      true) ∧
    (∃ (s : State) (fn q : Nat) (v : Word64), q < 16 ∧ fnCq s fn q = true ∧ bitOf v.toNat 5 = false ∧ on s (HQ_CQ_CFG_en q) =
      true) ∧
    (∃ (s : State) (q : Nat) (b : Bytes), isReady s = true ∧ on s (HQ_SQ_CFG_en q) = true ∧ outstanding s q ≠ 0 ∧ partOn s (rd s
      (HQ_SQ_CFG_partition q)) = true ∧ badField (sliceB b 0 64) = none ∧ otherPart s (fieldLE (sliceB b 0 64) 2 2) (rd s
      (HQ_SQ_CFG_partition q)) = false ∧ (∀ d ∈ s.descs, d.refusal s = none)) ∧
    (∃ (s : State) (q : Nat) (_b : Bytes), (isReady s = false ∨ on s (HQ_SQ_CFG_en q) = false ∨ outstanding s q = 0)) ∧
    (∃ (s : State) (q o : Nat) (b : Bytes) (d : Desc), isReady s = true ∧ on s (HQ_SQ_CFG_en q) = true ∧ outstanding s q ≠ 0 ∧
      partOn s (rd s (HQ_SQ_CFG_partition q)) = true ∧ badField (sliceB b 0 64) = some o ∧ s.descs = [] ∧ d = ⟨s.submNext, q, rd
      s (HQ_SQ_CFG_cq q), rd s (HQ_SQ_CFG_partition q), tod s, sliceB b 0 64, false, false, some (stDescriptor, o)⟩ ∧ mayStart
      { s with descs := [d] } d = true) :=
  ⟨⟨fieldsAt0 [(HQ_SQ_CFG_en 0, 1)], 0, 0, 1, by decide +kernel⟩,
    ⟨fieldsAt0 [(HQ_SQ_CFG_en 0, 0)], 0, 0, 0, by decide +kernel⟩,
    ⟨fieldsAt0 [(HQ_CQ_CFG_en 3, 1), (HQ_CQ_STATUS_tail 3, 1)], 0, 3, 1, by decide +kernel⟩,
    ⟨fieldsAt0 [], 0, 15, 32, by decide +kernel⟩,
    ⟨fieldsAt0 [], 0, 15, 32, by decide +kernel⟩,
    ⟨fieldsAt0 [(HQ_SQ_CFG_en 0, 1)], 0, 0, 0, by decide +kernel⟩,
    ⟨fieldsAt0 [(HQ_CQ_CFG_en 0, 1)], 0, 0, 0, by decide +kernel⟩,
    ⟨fieldsAt0 [(HST_BOOT_state, 5), (HQ_SQ_CFG_en 0, 1), (HQ_SQ_DB_tail 0, 1)], 0, descBytes 9 1 [], by decide +kernel⟩,
    ⟨State.reset, 0, [], by decide +kernel⟩,
    ⟨fieldsAt0 [(HST_BOOT_state, 5), (HQ_SQ_CFG_en 0, 1), (HQ_SQ_DB_tail 0, 1)], 0, 0, descBytes 0 1 [], _, by decide +kernel,
      by decide +kernel, by decide +kernel, by decide +kernel, by decide +kernel, by decide +kernel, rfl, by decide +kernel⟩⟩

theorem witness_descriptors_of_jobs :
    (∃ (s u : State) (sq : Nat) (img : Bytes) (map : List Nat) (d : Desc) (m : Bytes), Starts s sq 1 d ∧ m = img.take (fieldLE
      d.bytes 0x18 8) ∧ (∀ e ∈ s.descs, e.type = 3 → e.job ≠ d.job) ∧ loadRefused s d m = none ∧ loadResult s d m map = .ok u) ∧
    (∃ (s : State) (sq : Nat) (img : Bytes) (map : List Nat) (d : Desc) (m : Bytes) (st dt : Nat), Starts s sq 1 d ∧ m =
      img.take (fieldLE d.bytes 0x18 8) ∧ (∀ e ∈ s.descs, e.type = 3 → e.job ≠ d.job) ∧ (loadRefused s d m = some (st, dt) ∨
      (loadRefused s d m = none ∧ loadResult s d m map = .error (st, dt)))) ∧
    (∃ (s : State) (sq : Nat) (d : Desc) (j : Job), Starts s sq 3 d ∧ (dblPart s d.part = false ∨ d.exam = true) ∧ (∀ p ∈
      s.periods, p.2.job ≠ d.job) ∧ Store.get? s.jobs d.job = some j) ∧
    (∃ (s : State) (sq : Nat) (d : Desc), Starts s sq 3 d ∧ (dblPart s d.part = false ∨ d.exam = true) ∧ ((∃ p ∈ s.periods,
      p.2.job = d.job) ∨ (Store.get? s.jobs d.job = none ∧ loadAhead s d = false))) ∧
    (∃ (s : State) (sq st dt : Nat) (d : Desc), Starts s sq 4 d ∧ d.binds = true ∧ bindFault s d = some (st, dt)) ∧
    (∃ (s : State) (sq : Nat) (d : Desc) (j : Job), Starts s sq 4 d ∧ d.binds = true ∧ bindFault s d = none ∧ Store.get? s.jobs
      d.job = some j) ∧
    (∃ (s : State) (sq : Nat) (d : Desc), Starts s sq 4 d ∧ d.binds = false) ∧
    (∃ (s : State) (sq : Nat) (d : Desc), Starts s sq 6 d) ∧
    (∃ (s : State) (sq : Nat) (d : Desc), Starts s sq 10 d ∧ Store.get? s.jobs d.job = none) ∧
    (∃ (s : State) (sq : Nat) (d : Desc) (j : Job), Starts s sq 10 d ∧ Store.get? s.jobs d.job = some j ∧ fieldLE d.bytes 0x10 1
      = 0 ∧ (jobBusy s d.job = true ∨ (∃ p ∈ s.periods, p.2.job = d.job))) ∧
    (∃ (s : State) (sq : Nat) (d : Desc) (j : Job), Starts s sq 10 d ∧ Store.get? s.jobs d.job = some j ∧ jobBusy s d.job =
      false ∧ (∀ p ∈ s.periods, p.2.job ≠ d.job) ∧ (∀ e ∈ s.descs, e.type = 10 → e.started = false)) :=
  ⟨oneImage_loads.elim fun _ h => ⟨loadState, _, 0, oneImage, [], aDesc 1 1 [(0x18, 0xC0), (0x19, 1)], oneImage,
      by unfold Starts; decide +kernel, (List.take_of_length_le (by decide +kernel)).symm, by decide +kernel, by decide +kernel,
      h⟩,
    ⟨{ fieldsAt0 [] with jobs := [(1, oneJob)], descs := [aDesc 1 2 []] }, 0, [], [], aDesc 1 2 [], [], 0x10, 0,
      by unfold Starts; decide +kernel⟩,
    ⟨{ fieldsAt0 [] with jobs := [(1, oneJob)], descs := [aDesc 3 1 []] }, 0, aDesc 3 1 [], oneJob,
      by unfold Starts; decide +kernel⟩,
    ⟨{ fieldsAt0 [] with jobs := [(1, oneJob)], descs := [aDesc 3 2 []] }, 0, aDesc 3 2 [], by unfold Starts; decide +kernel⟩,
    ⟨{ fieldsAt0 [] with jobs := [(1, oneJob)], descs := [aDesc 4 1 []] }, 0, 0x17, 0, aDesc 4 1 [],
      by unfold Starts; decide +kernel⟩,
    ⟨{ fieldsAt0 [(TIM_STATUS_tod_valid, 1)] with jobs := [(1, oneJob)], descs := [aDesc 4 1 [(0x1A, 16), (0x16, 16), (0x38, 1)]] },
      0, aDesc 4 1 [(0x1A, 16), (0x16, 16), (0x38, 1)], oneJob, by unfold Starts; decide +kernel⟩,
    ⟨{ fieldsAt0 [] with jobs := [(1, oneJob)], descs := [aDesc 4 1 [(0x13, 2)]] }, 0, aDesc 4 1 [(0x13, 2)],
      by unfold Starts; decide +kernel⟩,
    ⟨{ fieldsAt0 [] with jobs := [(1, oneJob)], descs := [aDesc 6 1 []] }, 0, aDesc 6 1 [], by unfold Starts; decide +kernel⟩,
    ⟨{ fieldsAt0 [] with jobs := [(1, oneJob)], descs := [aDesc 10 2 []] }, 0, aDesc 10 2 [], by unfold Starts; decide +kernel⟩,
    ⟨{ fieldsAt0 [] with jobs := [(1, oneJob)], descs := [aDesc 10 1 []], runs := [(0, oneRun)] }, 0, aDesc 10 1 [], oneJob,
      by unfold Starts; decide +kernel⟩,
    ⟨{ fieldsAt0 [] with jobs := [(1, oneJob)], descs := [aDesc 10 1 []] }, 0, aDesc 10 1 [], oneJob,
      by unfold Starts; decide +kernel⟩⟩

theorem witness_sealed_regions_are_filled :
    (∃ (s : State) (sq : Nat) (_blob _hdr : Bytes) (d : Desc), Starts s sq 2 d ∧ Store.get? s.jobs d.job = none) ∧
    (∃ (s : State) (sq : Nat) (_blob hdr : Bytes) (d : Desc) (j : Job), Starts s sq 2 d ∧ Store.get? s.jobs d.job = some j ∧ (∀
      g, j.regions[d.region]? = some g → g.isSealed = false ∨ g.filled = true ∨ fieldLE hdr 8 8 ≠ g.size)) ∧
    (∃ (s : State) (sq o : Nat) (blob hdr : Bytes) (d : Desc) (j : Job) (g : Region), Starts s sq 2 d ∧ Store.get? s.jobs d.job
      = some j ∧ j.regions[d.region]? = some g ∧ g.isSealed = true ∧ g.filled = false ∧ fieldLE hdr 8 8 = g.size ∧ fieldLE
      d.bytes 0x23 1 = 1 ∧ blobBad (sliceB blob 0 2128) = some o) ∧
    (∃ (s : State) (sq : Nat) (blob hdr : Bytes) (d : Desc) (j : Job) (g : Region), Starts s sq 2 d ∧ Store.get? s.jobs d.job =
      some j ∧ j.regions[d.region]? = some g ∧ g.isSealed = true ∧ g.filled = false ∧ fieldLE hdr 8 8 = g.size ∧ fieldLE d.bytes
      0x23 1 = 1 ∧ blobBad (sliceB blob 0 2128) = none) ∧
    (∃ (s : State) (sq : Nat) (_blob hdr : Bytes) (d : Desc) (j : Job) (g : Region), Starts s sq 2 d ∧ Store.get? s.jobs d.job =
      some j ∧ j.regions[d.region]? = some g ∧ g.isSealed = true ∧ g.filled = false ∧ fieldLE hdr 8 8 = g.size ∧ fieldLE d.bytes
      0x23 1 = 0) ∧
    (∃ (s : State) (sq : Nat) (_blob hdr : Bytes) (d : Desc) (j : Job) (g : Region) (k : KeySlot), Starts s sq 2 d ∧ Store.get?
      s.jobs d.job = some j ∧ j.regions[d.region]? = some g ∧ g.isSealed = true ∧ g.filled = false ∧ fieldLE hdr 8 8 = g.size ∧
      fieldLE d.bytes 0x23 1 = 0 ∧ on s SEC_STATUS_session_ready = true ∧ Store.get? s.sec.slots d.slot = some k ∧ k.bound =
      none ∧ s.sec.unseals ≠ []) ∧
    (∃ (s : State) (stream p : Bytes) (u : Unsealing) (d : Desc) (j : Job) (g : Region), s.sec.unseals = [u] ∧ descOf s u.subm =
      some d ∧ Store.get? s.jobs d.job = some j ∧ j.regions[d.region]? = some g ∧ openStream u stream g.size = .inl p ∧ p.length
      = g.size ∧ sha384 p = sliceB u.header 0x20 48) ∧
    (∃ (s : State) (stream : Bytes) (u : Unsealing) (d : Desc) (g : Region), s.sec.unseals = [u] ∧ descOf s u.subm = some d ∧
      regionOf s d.job d.region = some g ∧ ((∃ c, openStream u stream g.size = .inr c) ∨ (∃ p, openStream u stream g.size = .inl
      p ∧ sha384 p ≠ sliceB u.header 0x20 48))) :=
  ⟨⟨{ fieldsAt0 [] with jobs := [(1, oneJob)], descs := [aDesc 2 2 []] }, 0, [], [], aDesc 2 2 [],
      by unfold Starts; decide +kernel⟩,
    ⟨{ fieldsAt0 [] with jobs := [(1, oneJob)], descs := [aDesc 2 1 []] }, 0, [], [], aDesc 2 1 [], oneJob,
      by unfold Starts; decide +kernel, by decide +kernel, (by intro _ h; cases h)⟩,
    ⟨{ State.reset with jobs := [(1, sealedJob)], descs := [aDesc 2 1 [(0x23, 1)]] }, 0, 0, [], List.replicate 80 0, aDesc 2 1
      [(0x23, 1)], sealedJob, sealedRegion, by unfold Starts; decide +kernel⟩,
    ⟨{ State.reset with jobs := [(1, sealedJob)], descs := [aDesc 2 1 [(0x23, 1)]] }, 0, [0x4F, 0x4B, 0x45, 0x59, 1] ++
      List.replicate 2123 0, List.replicate 80 0, aDesc 2 1 [(0x23, 1)], sealedJob, sealedRegion,
      by unfold Starts; decide +kernel⟩,
    ⟨{ State.reset with jobs := [(1, sealedJob)], descs := [aDesc 2 1 []] }, 0, [], List.replicate 80 0, aDesc 2 1 [],
      sealedJob, sealedRegion, by unfold Starts; decide +kernel⟩,
    ⟨{ fieldsAt0 [(SEC_STATUS_session_ready, 1)] with jobs := [(1, sealedJob)], descs := [aDesc 2 1 []], sec := { SecSt.init with slots := [(0, ⟨[], none, []⟩)], unseals := [⟨9, [], 0, []⟩] } },
      0, [], List.replicate 80 0, aDesc 2 1 [], sealedJob, sealedRegion, ⟨[], none, []⟩, by unfold Starts; decide +kernel⟩,
    ⟨{ State.reset with jobs := [(1, sealedJob)], descs := [aDesc 2 1 []], sec := { SecSt.init with unseals := [⟨7, List.replicate 32 0 ++ sha384 [], 0, []⟩] } },
      [], [], ⟨7, List.replicate 32 0 ++ sha384 [], 0, []⟩, aDesc 2 1 [], sealedJob, sealedRegion, rfl, by decide +kernel,
      by decide +kernel, by decide +kernel, by decide +kernel, by decide +kernel, (slice_of_header _ (sha384_length _)).symm⟩,
    ⟨{ State.reset with jobs := [(1, sealedJob)], descs := [aDesc 2 1 []], sec := { SecSt.init with unseals := [⟨7, otherHeader, 0, []⟩] } },
      [], ⟨7, otherHeader, 0, []⟩, aDesc 2 1 [], sealedRegion, rfl, by decide +kernel, by decide +kernel,
      .inr ⟨[], rfl, otherHeader_differs⟩⟩⟩

theorem witness_faults_wear_and_refresh :
    (∃ (_s : State) (code _tile _idx : Nat), 1 ≤ code ∧ code ≤ 14) ∧
    (∃ (s : State) (code tile _idx : Nat), code ∈ [2, 3, 5, 9, 0xA, 0xB] ∧ tile < s.part.tiles ∧ faultRuns s code tile = []) ∧
    (∃ (s : State) (a : Nat), on s LPD_SCRUB_en = true ∧ placeOf s a = .lpd) ∧
    (∃ (s : State) (w : SiteWear), w.t < s.part.tiles) ∧
    (∃ (_s : State) (u _m : Nat), u < 60) :=
  ⟨⟨State.reset, 14, 0, 0, by decide +kernel⟩,
    ⟨State.reset, 2, 0, 0, by decide +kernel⟩,
    ⟨State.reset, lpdBase, by decide +kernel⟩,
    ⟨State.reset, ⟨95, 0, 0⟩, by decide +kernel⟩,
    ⟨State.reset, 59, 0, by decide +kernel⟩⟩

theorem witness_spares_take_their_place :
    (∃ (s : State) (sq : Nat) (_dg : Bytes) (d : Desc), Starts s sq 7 d ∧ Store.get? s.jobs d.job = none) ∧
    (∃ (s : State) (sq tl k i : Nat) (_dg : Bytes) (d : Desc) (j : Job), Starts s sq 7 d ∧ Store.get? s.jobs d.job = some j ∧ k
      = fieldLE d.bytes 0x10 1 ∧ tl = fieldLE d.bytes 0x12 2 ∧ i = fieldLE d.bytes 0x14 2 ∧ (k = 3 ∨ k = 4 ∨ k = 5) ∧ tl <
      s.part.tiles ∧ tileOfPart s tl d.part = true ∧ tileOn s tl = true) ∧
    (∃ (s : State) (sq tl : Nat) (_dg : Bytes) (d : Desc) (j : Job), Starts s sq 7 d ∧ Store.get? s.jobs d.job = some j ∧
      fieldLE d.bytes 0x10 1 = 1 ∧ fieldLE d.bytes 0x11 1 = 0 ∧ tl = fieldLE d.bytes 0x12 2 ∧ tl < s.part.tiles ∧ tileOfPart s
      tl d.part = true ∧ tileOn s tl = true) ∧
    (∃ (s : State) (sq k : Nat) (_dg : Bytes) (d : Desc) (j : Job), Starts s sq 7 d ∧ Store.get? s.jobs d.job = some j ∧ fieldLE
      d.bytes 0x10 1 = 2 ∧ k = fieldLE d.bytes 0x12 2 ∧ d.part = 0 ∧ k < s.part.stacks ∧ s.stackCopy = none) ∧
    (∃ (s : State) (t k i n : Nat), atBoundary s t = true ∧ (∀ u ∈ s.unitSubs, u.begun = false) ∧ (∀ u ∈ s.siteSubs, u.begun =
      false) ∧ s.unitSubs.findIdx? (fun u => u.tile == t && u.kind == k && u.idx == i && (on s REL_CFG_auto_en ||
      u.subm.isSome)) = some n) ∧
    (∃ (s : State) (t n : Nat), atBoundary s t = true ∧ (∀ u ∈ s.unitSubs, u.begun = false) ∧ (∀ u ∈ s.siteSubs, u.begun =
      false) ∧ s.siteSubs.findIdx? (fun u => u.tile == t) = some n) ∧
    (∃ (s : State) (t _k : Nat), atBoundary s t = false) ∧
    (∃ (s : State) (t : Nat) (u : UnitSub), t < s.part.tiles ∧ s.unitSubs = [u] ∧ u.tile = t ∧ u.begun = true ∧ u.subm = none) ∧
    (∃ (s : State) (t : Nat) (u : SiteSub) (d : Desc), t < s.part.tiles ∧ s.siteSubs = [u] ∧ u.tile = t ∧ u.begun = true ∧
      u.reload = false ∧ descOf s u.subm = some d) ∧
    (∃ (s : State) (_n old : Nat) (c : StackCopy) (d : Desc), s.stackCopy = some c ∧ descOf s c.subm = some d ∧ c.logical <
      s.part.stacks ∧ c.dest < s.part.stacksFitted ∧ old = Store.getD s.stackMap c.logical c.logical ∧ old ≠ c.dest ∧ old <
      s.part.stacksFitted) :=
  ⟨⟨{ fieldsAt0 [] with jobs := [(1, oneJob)], descs := [aDesc 7 2 []] }, 0, [], aDesc 7 2 [],
      by unfold Starts; decide +kernel⟩,
    ⟨{ fieldsAt0 [] with jobs := [(1, oneJob)], descs := [aDesc 7 1 [(0x10, 3)]] }, 0, 0, 3, 0, [], aDesc 7 1 [(0x10, 3)],
      oneJob, by unfold Starts; decide +kernel⟩,
    ⟨{ fieldsAt0 [] with jobs := [(1, oneJob)], descs := [aDesc 7 1 [(0x10, 1)]] }, 0, 0, [], aDesc 7 1 [(0x10, 1)], oneJob,
      by unfold Starts; decide +kernel⟩,
    ⟨{ fieldsAt0 [] with jobs := [(1, oneJob)], descs := [aDesc 7 1 [(0x10, 2)]] }, 0, 0, [], aDesc 7 1 [(0x10, 2)], oneJob,
      by unfold Starts; decide +kernel⟩,
    ⟨{ fieldsAt0 [] with jobs := [(1, oneJob)], unitSubs := [⟨0, 3, 1, false, some 7⟩] }, 0, 3, 1, 0, by decide +kernel⟩,
    ⟨{ fieldsAt0 [] with jobs := [(1, oneJob)], siteSubs := [⟨0, false, false, 7⟩] }, 0, 0, by decide +kernel⟩,
    ⟨{ fieldsAt0 [] with jobs := [(1, oneJob)], runs := [(0, { oneRun with phase := .running })] }, 0, 3, by decide +kernel⟩,
    ⟨{ fieldsAt0 [] with jobs := [(1, oneJob)], unitSubs := [⟨0, 3, 1, true, none⟩] }, 0, ⟨0, 3, 1, true, none⟩,
      by decide +kernel⟩,
    ⟨{ fieldsAt0 [] with jobs := [(1, oneJob)], siteSubs := [⟨0, false, true, 7⟩], descs := [aDesc 7 1 []] }, 0, ⟨0, false,
      true, 7⟩, aDesc 7 1 [], by decide +kernel⟩,
    ⟨{ fieldsAt0 [] with jobs := [(1, oneJob)], stackCopy := some ⟨0, 20, 7, 0⟩, descs := [aDesc 7 1 []] }, 0, 0, ⟨0, 20, 7, 0⟩,
      aDesc 7 1 [], by decide +kernel⟩⟩

theorem witness_maps_scrubs_and_stores :
    (∃ (s : State), fnPhys s 0 = true) ∧
    (∃ (s : State) (sq : Nat) (d : Desc), Starts s sq 8 d ∧ fieldLE d.bytes 0x10 1 = 2) ∧
    (∃ (s : State) (sq k : Nat) (d : Desc), Starts s sq 8 d ∧ fieldLE d.bytes 0x10 1 = 1 ∧ fieldLE d.bytes 0x11 1 = 0 ∧ k =
      fieldLE d.bytes 0x12 2 ∧ k < s.part.tiles ∧ tileOfPart s k d.part = true ∧ tileOn s k = true) ∧
    (∃ (s : State) (sq k : Nat) (d : Desc), scrubOf s sq 1 = some d ∧ descOf s d.subm = some d ∧ scrubTile s d = some k) ∧
    (∃ (s : State) (sq k c _i : Nat) (d : Desc), scrubOf s sq 1 = some d ∧ descOf s d.subm = some d ∧ scrubTile s d = some k ∧ 1
      ≤ c ∧ c ≤ 14) ∧
    (∃ (s : State) (sq _n : Nat) (d : Desc), scrubOf s sq 2 = some d ∧ descOf s d.subm = some d) ∧
    (∃ (s : State) (fn q : Nat) (_v : Word64), q < 8 ∧ fnOwns s fn q = true) ∧
    (∃ (s : State) (fn q : Nat) (_v : Word64), q < 8 ∧ fnOwns s fn q = true) :=
  ⟨⟨State.reset, by decide +kernel⟩,
    ⟨{ fieldsAt0 [] with jobs := [(1, oneJob)], descs := [aDesc 8 1 [(0x10, 2)]] }, 0, aDesc 8 1 [(0x10, 2)],
      by unfold Starts; decide +kernel⟩,
    ⟨{ fieldsAt0 [] with jobs := [(1, oneJob)], descs := [aDesc 8 1 [(0x10, 1)]] }, 0, 0, aDesc 8 1 [(0x10, 1)],
      by unfold Starts; decide +kernel⟩,
    ⟨{ fieldsAt0 [] with jobs := [(1, oneJob)], descs := [{ aDesc 8 1 [(0x10, 1)] with started := true }] }, 0, 0,
      { aDesc 8 1 [(0x10, 1)] with started := true }, by decide +kernel⟩,
    ⟨{ fieldsAt0 [] with jobs := [(1, oneJob)], descs := [{ aDesc 8 1 [(0x10, 1)] with started := true }] }, 0, 0, 14, 0,
      { aDesc 8 1 [(0x10, 1)] with started := true }, by decide +kernel⟩,
    ⟨{ fieldsAt0 [] with jobs := [(1, oneJob)], descs := [{ aDesc 8 1 [(0x10, 2)] with started := true }] }, 0, 0,
      { aDesc 8 1 [(0x10, 2)] with started := true }, by decide +kernel⟩,
    ⟨State.reset, 8, 7, 1, by decide +kernel⟩,
    ⟨State.reset, 0, 0, 0, by decide +kernel⟩⟩

theorem witness_grading_engines_work :
    (∃ (s : State) (fn j : Nat) (v : Word64), j = v.toNat % 65536 ∧ bitOf v.toNat 16 = true ∧ fnGrdJob s fn j = true ∧ on s
      GRD_JOB_en = false ∧ armFault (wr s GRD_JOB_job_id j) j = none) ∧
    (∃ (s : State) (fn j c l : Nat) (v : Word64), j = v.toNat % 65536 ∧ bitOf v.toNat 16 = true ∧ fnGrdJob s fn j = true ∧ on s
      GRD_JOB_en = false ∧ armFault (wr s GRD_JOB_job_id j) j = some (c, l) ∧ rd s GRD_ERR_valid = 0) ∧
    (∃ (s : State) (fn : Nat) (v : Word64), bitOf v.toNat 16 = false ∧ fnGrdJob s fn (v.toNat % 65536) = true ∧ on s GRD_JOB_en
      = true ∧ (∀ p ∈ s.runs, p.2.job = grdJob s → p.2.phase = .ended)) ∧
    (∃ (s : State) (_fn : Nat) (_v : Word64), on s GRD_JOB_en = true ∧ (∃ p ∈ s.runs, p.2.job = grdJob s ∧ p.2.phase ≠ .ended)) ∧
    (∃ (s : State) (sq : Nat) (d : Desc), Starts s sq 5 d) ∧
    (∃ (s : State) (c r n l addr : Nat) (z : Run) (x : Job) (b : Bytes), postCounter s (grdJob s) = some c ∧ c ∈ s.netNotes ∧
      grdRun s = some (r, z) ∧ z.stop = none ∧ Store.get? s.jobs (grdJob s) = some x ∧ ranks s = 1 ∧ allDone s r = false ∧ 1 ≤
      rd s GRD_RING_log2_entries ∧ n = Store.getD s.grd.readIdx 0 0 ∧ addr = postAddr s x 0 n ∧ b = readBytes s addr 16 ∧ b =
      toLE 4 n ++ toLE 2 l ++ [1, 0] ++ toLE 8 0 ∧ l < rd s GRD_TABLE_layer_count ∧ l < 2 ^ 16 ∧ n < 2 ^ 32 ∧ (layerOf s
      l).isOpen = true ∧ (layerOf s l).ended = [] ∧ fieldLE (readBytes s (postAddr s x 0 (n + 1)) 16) 0 4 ≠ n + 1) ∧
    (∃ (s : State) (l k : Nat) (g : List Nat) (x : Job), Store.get? (layerOf s l).finals k = some g ∧ Store.get? s.jobs (grdJob
      s) = some x ∧ on s GRD_JOB_en = true ∧ gFrozen (layerOf s l).desc = true ∧ gExport (layerOf s l).desc = false) ∧
    (∃ (s : State) (l k g a : Nat) (x : Job) (d : Bytes), d = (layerOf s l).desc ∧ Store.get? (layerOf s l).finals k = some [g]
      ∧ Store.get? s.jobs (grdJob s) = some x ∧ on s GRD_JOB_en = true ∧ gFrozen d = false ∧ gExport d = false ∧ gRule d = 0 ∧
      gWork d = 0xFF ∧ a = elemAddr x d 0x10 0x18 (k * gSeg d) 4 ∧ areaHas x d 0x10 0x18 (k * gSeg d) = true) ∧
    (∃ (s u : State) (l k w : Nat) (x : Job) (y : GrdLayer) (d : Bytes), y = layerOf s l ∧ d = y.desc ∧ Store.get? s.jobs
      (grdJob s) = some x ∧ on s GRD_JOB_en = true ∧ layerComplete s y = true ∧ gRule d = 3 ∧ y.phase2 = false ∧ gSparse d =
      true ∧ gFrozen d = false ∧ gWork d = 0xFF ∧ y.applied = [k] ∧ segLen d k = 1 ∧ u = writeByte s (journalAddr s x l) 2 ∧ w =
      elemAddr x d 0x10 0x18 (k * gSeg d) 4 ∧ areaHas x d 0x10 0x18 (k * gSeg d) = true ∧ areaHas x d 0x12 0x20 (k * gSeg d) =
      true ∧ areaHas x d 0x14 0x28 (k * gSeg d) = true) ∧
    (∃ (s : State) (l : Nat) (x : Job) (y : GrdLayer), y = layerOf s l ∧ Store.get? s.jobs (grdJob s) = some x ∧ on s GRD_JOB_en
      = true ∧ grdRun s = none ∧ layerComplete s y = true ∧ gRule y.desc = 3 ∧ y.phase2 = true ∧ gFrozen y.desc = false ∧
      fieldLE y.desc 0x3A 2 < x.ctrs.length) :=
  ⟨⟨{ gradeState with regs := (fieldsAt0 [(GRD_TABLE_layer_count, 1), (GRD_RING_log2_entries, 4), (GRD_RING_OFF_ring_off, 512), (GRD_TABLE_journal_region, 1)]).regs },
      0, 1, 65537, by decide +kernel⟩,
    ⟨State.reset, 0, 5, 3, 0, 65541, by decide +kernel⟩,
    ⟨{ gradeState with regs := (fieldsAt0 [(GRD_JOB_en, 1), (GRD_JOB_job_id, 1), (GRD_TABLE_layer_count, 1), (GRD_RING_log2_entries, 4)]).regs },
      0, 0, by decide +kernel⟩,
    ⟨{ gradeState with regs := (fieldsAt0 [(GRD_JOB_en, 1), (GRD_JOB_job_id, 1), (GRD_TABLE_layer_count, 1), (GRD_RING_log2_entries, 4)]).regs, runs := [(0, { oneRun with phase := .running })] },
      0, 0, by decide +kernel⟩,
    ⟨{ fieldsAt0 [] with jobs := [(1, oneJob)], descs := [aDesc 5 1 []] }, 0, aDesc 5 1 [], by unfold Starts; decide +kernel⟩,
    ⟨{ gradeState with regs := (fieldsAt0 [(GRD_JOB_en, 1), (GRD_JOB_job_id, 1), (GRD_TABLE_layer_count, 1), (GRD_RING_log2_entries, 4)]).regs, grd := ⟨[{ GrdLayer.fresh 0 with isOpen := true, desc := gradeDesc [] }], []⟩, netNotes := [1], mem := [(lpdBase + 6, 1)], runs := [(0, { oneRun with phase := .running })] },
      1, 0, 0, 0, lpdBase, { oneRun with phase := .running }, gradeJob, toLE 4 0 ++ toLE 2 0 ++ [1, 0] ++ toLE 8 0,
      by decide +kernel⟩,
    ⟨{ gradeState with regs := (fieldsAt0 [(GRD_JOB_en, 1), (GRD_JOB_job_id, 1), (GRD_TABLE_layer_count, 1), (GRD_RING_log2_entries, 4)]).regs, grd := ⟨[{ GrdLayer.fresh 0 with isOpen := true, desc := gradeDesc [(1, 1)], finals := [(0, [5])] }], []⟩ },
      0, 0, [5], gradeJob, by decide +kernel⟩,
    ⟨{ gradeState with regs := (fieldsAt0 [(GRD_JOB_en, 1), (GRD_JOB_job_id, 1), (GRD_TABLE_layer_count, 1), (GRD_RING_log2_entries, 4)]).regs, grd := ⟨[{ GrdLayer.fresh 0 with isOpen := true, desc := gradeDesc [(4, 0xFF), (8, 1), (0x0E, 1), (0x10, 1)], finals := [(0, [5])] }], []⟩ },
      0, 0, 5, _, gradeJob, gradeDesc [(4, 0xFF), (8, 1), (0x0E, 1), (0x10, 1)],
      by refine ⟨?_, ?_, ?_, ?_, ?_, ?_, ?_, ?_, rfl, ?_⟩ <;> decide +kernel⟩,
    ⟨{ gradeState with regs := (fieldsAt0 [(GRD_JOB_en, 1), (GRD_JOB_job_id, 1), (GRD_TABLE_layer_count, 1), (GRD_RING_log2_entries, 4)]).regs, grd := ⟨[{ GrdLayer.fresh 0 with isOpen := true, desc := gradeDesc [(0, 3), (1, 4), (4, 0xFF), (8, 1), (0x0E, 1), (0x10, 1), (0x12, 1), (0x14, 1)], ended := [0], applied := [0], finEnds := [0] }], []⟩ },
      _, 0, 0, _, gradeJob,
      { GrdLayer.fresh 0 with isOpen := true, desc := gradeDesc [(0, 3), (1, 4), (4, 0xFF), (8, 1), (0x0E, 1), (0x10, 1), (0x12, 1), (0x14, 1)], ended := [0], applied := [0], finEnds := [0] },
      gradeDesc [(0, 3), (1, 4), (4, 0xFF), (8, 1), (0x0E, 1), (0x10, 1), (0x12, 1), (0x14, 1)],
      by refine ⟨?_, ?_, ?_, ?_, ?_, ?_, ?_, ?_, ?_, ?_, ?_, ?_, rfl, rfl, ?_, ?_, ?_⟩ <;> decide +kernel⟩,
    ⟨{ gradeState with regs := (fieldsAt0 [(GRD_JOB_en, 1), (GRD_JOB_job_id, 1), (GRD_TABLE_layer_count, 1), (GRD_RING_log2_entries, 4)]).regs, grd := ⟨[{ GrdLayer.fresh 0 with isOpen := true, desc := gradeDesc [(0, 3), (8, 1), (0x0E, 1)], ended := [0], applied := [0], finEnds := [0], phase2 := true }], []⟩ },
      0, gradeJob,
      { GrdLayer.fresh 0 with isOpen := true, desc := gradeDesc [(0, 3), (8, 1), (0x0E, 1)], ended := [0], applied := [0], finEnds := [0], phase2 := true },
      by decide +kernel⟩⟩

theorem witness_collective_messages :
    (∃ (s : State) (a r l k : Nat) (m : Bytes) (z : Run) (j : Job), on s (NET_ASSOC_CFG_valid a) = true ∧ on s
      (NET_ASSOC_CFG_kind a) = true ∧ msgType m = mtColl ∧ msgEpoch m = rd s (NET_ASSOC_CFG_epoch a) ∧ (assocOf s
      a).rxAhead.contains (msgSeq m) = false ∧ behind (((assocOf s a).rxNext + 2 ^ 32 - 1) % 2 ^ 32) (msgSeq m) = none ∧ grdRun
      s = some (r, z) ∧ Store.get? s.jobs (grdJob s) = some j ∧ msgJob m = grdJob s ∧ collBad s a m j z.exam = false ∧ l =
      collLayer m ∧ k = collSeg m ∧ k < segPartEnd ∧ k % groupM s ≠ groupIdx s ∧ (assocOf s a).heldEnds = [] ∧ (assocOf s
      a).rxPend < 15 ∧ nextStep (layerOf s l) (collSrc m) k (k % groupM s) (groupIdx s) = false ∧ k ∉ (layerOf s l).arrived) ∧
    (∃ (s : State) (a r l : Nat) (m : Bytes) (z : Run) (j : Job), on s (NET_ASSOC_CFG_valid a) = true ∧ on s (NET_ASSOC_CFG_kind
      a) = true ∧ msgType m = mtColl ∧ msgEpoch m = rd s (NET_ASSOC_CFG_epoch a) ∧ (assocOf s a).rxAhead.contains (msgSeq m) =
      false ∧ behind (((assocOf s a).rxNext + 2 ^ 32 - 1) % 2 ^ 32) (msgSeq m) = none ∧ grdRun s = some (r, z) ∧ Store.get?
      s.jobs (grdJob s) = some j ∧ msgJob m = grdJob s ∧ collBad s a m j z.exam = false ∧ l = collLayer m ∧ segPartEnd ≤ collSeg
      m ∧ (assocOf s a).heldEnds = [] ∧ (assocOf s a).rxPend < 15 ∧ (assocOf s a).rxNext ∉ (assocOf s a).rxAhead ∧ msgSeq m ≠
      (assocOf s a).rxNext ∧ behind (assocOf s a).rxNext (msgSeq m) = none ∧ nextStep (layerOf s l) (collSrc m) (collSeg m)
      (collSeg m % groupM s) (groupIdx s) = false) ∧
    (∃ (s : State) (a : Nat) (m : Bytes), a < 512 ∧ on s (NET_ASSOC_CFG_valid a) = true ∧ on s (NET_ASSOC_CFG_kind a) = true ∧
      msgType m = mtColl ∧ msgEpoch m = rd s (NET_ASSOC_CFG_epoch a) ∧ (assocOf s a).rxAhead.contains (msgSeq m) = true ∧
      (assocOf s a).rxPend < 15) ∧
    (∃ (s : State) (a r : Nat) (m : Bytes) (z : Run) (j : Job), on s (NET_ASSOC_CFG_valid a) = true ∧ on s (NET_ASSOC_CFG_kind
      a) = true ∧ msgType m = mtColl ∧ msgEpoch m = rd s (NET_ASSOC_CFG_epoch a) ∧ (assocOf s a).rxAhead.contains (msgSeq m) =
      false ∧ behind (((assocOf s a).rxNext + 2 ^ 32 - 1) % 2 ^ 32) (msgSeq m) = none ∧ grdRun s = some (r, z) ∧ Store.get?
      s.jobs (grdJob s) = some j ∧ msgJob m = grdJob s ∧ collBad s a m j z.exam = true) ∧
    (∃ (s : State) (a p sub : Nat), p = rd s (NET_ASSOC_CFG_port a) ∧ sub = rd s (NET_ASSOC_CFG_subport a) ∧ txMsa s p sub =
      none) ∧
    (∃ (s : State) (a : Nat) (m : Bytes), on s (NET_ASSOC_CFG_valid a) = true ∧ msgType m = mtCtrl ∧ fieldBE m 0x10 1 = 3 ∧
      msgEpoch m = rd s (NET_ASSOC_CFG_epoch a) ∧ (assocOf s a).waiting = [] ∧ (∀ c ∈ (assocOf s a).unacked, acked (fieldBE m
      0x14 4) (fieldBE m 0x18 8) c.seqn = false → laterMarked (fieldBE m 0x14 4) (fieldBE m 0x18 8) c.seqn < 3)) ∧
    (∃ (s : State) (a q p sub : Nat) (c : CollSent), (assocOf s a).unacked = [c] ∧ c.seqn = q ∧ p = rd s (NET_ASSOC_CFG_port a)
      ∧ sub = rd s (NET_ASSOC_CFG_subport a) ∧ txMsa s p sub = none) :=
  ⟨⟨{ gradeState with regs := (fieldsAt0 [(GRD_JOB_en, 1), (GRD_JOB_job_id, 1), (GRD_TABLE_layer_count, 1), (GRD_RING_log2_entries, 4), (NET_ASSOC_CFG_valid 0, 1), (NET_ASSOC_CFG_kind 0, 1), (NET_COLL_CFG_en, 1), (NET_COLL_CFG_modules, 2), (NET_COLL_CFG_index, 1)]).regs, runs := [(0, { oneRun with phase := .running })] },
      0, 0, 0, 0, collMsg, { oneRun with phase := .running }, gradeJob, by decide +kernel⟩,
    ⟨{ gradeState with regs := (fieldsAt0 [(GRD_JOB_en, 1), (GRD_JOB_job_id, 1), (GRD_TABLE_layer_count, 1), (GRD_RING_log2_entries, 4), (NET_ASSOC_CFG_valid 0, 1), (NET_ASSOC_CFG_kind 0, 1), (NET_COLL_CFG_en, 1), (NET_COLL_CFG_modules, 2), (NET_COLL_CFG_index, 1)]).regs, runs := [(0, { oneRun with phase := .running })] },
      0, 0, 0, endMsg, { oneRun with phase := .running }, gradeJob, by decide +kernel⟩,
    ⟨{ fieldsAt0 [(NET_ASSOC_CFG_valid 0, 1), (NET_ASSOC_CFG_kind 0, 1)] with assocs := [(0, { AssocSt.init with rxAhead := [0] })] },
      0, collMsg, by decide +kernel⟩,
    ⟨{ gradeState with regs := (fieldsAt0 [(GRD_JOB_en, 1), (GRD_JOB_job_id, 1), (GRD_TABLE_layer_count, 1), (GRD_RING_log2_entries, 4), (NET_ASSOC_CFG_valid 0, 1), (NET_ASSOC_CFG_kind 0, 1), (NET_COLL_CFG_en, 1), (NET_COLL_CFG_modules, 2), (NET_COLL_CFG_index, 0)]).regs, runs := [(0, { oneRun with phase := .running })] },
      0, 0, collMsg, { oneRun with phase := .running }, gradeJob, by decide +kernel⟩,
    ⟨fieldsAt0 [], 0, 0, 0, by decide +kernel⟩,
    ⟨{ fieldsAt0 [(NET_ASSOC_CFG_valid 0, 1)] with assocs := [(0, { AssocSt.init with unacked := [⟨5, [], 0, 0, 0, 0⟩] })] }, 0,
      [0x14, 0, 0, 0, 0, 0, 0, 16, 0, 0, 0, 0, 0, 0, 0, 0, 3] ++ List.replicate 15 0, by decide +kernel⟩,
    ⟨{ fieldsAt0 [(NET_ASSOC_CFG_valid 0, 1)] with assocs := [(0, { AssocSt.init with unacked := [⟨5, [], 0, 0, 0, 0⟩] })] }, 0,
      5, 0, 0, ⟨5, [], 0, 0, 0, 0⟩, by decide +kernel⟩⟩

theorem witness_audit_chain_grows :
    (∃ (s : State) (fn q : Nat) (_v : Word64), q < 8 ∧ fnOwns s fn q = true ∧ (audOf s q).heldRecs = []) ∧
    (∃ (s u : State) (fn q : Nat) (v : Word64) (b : Bytes), q < 8 ∧ fnOwns s fn q = true ∧ (audOf s q).heldRecs = [b] ∧ u = wr s
      (AUD_LOG_HEAD_head q) v.toNat ∧ ringUsed u q + b.length < ringBytes s q ∧ rd s (AUD_LOG_TAIL_tail q) + b.length ≤
      ringBytes s q) ∧
    (∃ (s : State) (q : Nat), q < 8 ∧ auditOn s q = true ∧ rd s (AUD_CFG_sign_ms q) ≠ 0 ∧ (audOf s q).signFrom + rd s
      (AUD_CFG_sign_ms q) * 1000000 ≤ s.now) ∧
    (∃ (s : State) (q : Nat), (auditOn s q = false ∨ rd s (AUD_CFG_sign_ms q) = 0 ∨ s.now < (audOf s q).signFrom + rd s
      (AUD_CFG_sign_ms q) * 1000000)) ∧
    (∃ (s : State) (sq : Nat) (d : Desc), Starts s sq 9 d ∧ d.part < 8) ∧
    (∃ (s : State) (q n : Nat) (b : Bytes), q < 8 ∧ (audOf s q).signing = some (n, b) ∧ (audOf s q).signNow = [] ∧ (audOf s
      q).signLate = false ∧ (audOf s q).heldRecs = [] ∧ ringUsed s q + 36160 < ringBytes s q ∧ rd s (AUD_LOG_TAIL_tail q) +
      36160 ≤ ringBytes s q) ∧
    (∃ (s : State) (fn q : Nat) (_v : Word64), q < 8 ∧ fnOwns s fn q = true ∧ auditOn s q = false ∧ rd s (AUD_NEXT_NUM_next_num
      q) ≤ rd s (AUD_HEAD_NUM_head_num q) + 1) ∧
    (∃ (s : State) (r : Nat) (x : Run), Store.get? s.runs r = some x ∧ x.phase = .ended ∧ x.recorded = false ∧ x.serial = none ∧
      linesFormed s x = true ∧ s.dbl.myDig = []) ∧
    (∃ (s : State) (r n : Nat) (x : Run), Store.get? s.runs r = some x ∧ x.phase = .ended ∧ x.recorded = false ∧ x.serial = some
      n ∧ linesFormed s x = true ∧ s.dbl.myDig = [] ∧ x.name = none ∧ partOfRun s x < 8 ∧ (audOf s (partOfRun s x)).lost = none) :=
  ⟨⟨State.reset, 0, 7, 0, by decide +kernel⟩,
    ⟨{ fieldsAt0 [] with aud := [(0, { AudSt.init with heldRecs := [[1]] })] }, _, 0, 0, 0, [1], by decide +kernel,
      by decide +kernel, by decide +kernel, rfl, by decide +kernel, by decide +kernel⟩,
    ⟨{ fieldsAt0 [(AUD_CFG_en 0, 1), (AUD_CFG_sign_ms 0, 1)] with now := 1000000 }, 0, by decide +kernel⟩,
    ⟨State.reset, 0, by decide +kernel⟩,
    ⟨{ fieldsAt0 [] with jobs := [(1, oneJob)], descs := [aDesc 9 1 []] }, 0, aDesc 9 1 [], by unfold Starts; decide +kernel⟩,
    ⟨{ fieldsAt0 [] with aud := [(0, { AudSt.init with signing := some (1, []) })] }, 0, 1, [], by decide +kernel⟩,
    ⟨State.reset, 0, 7, 1, by decide +kernel⟩,
    ⟨{ fieldsAt0 [] with jobs := [(1, oneJob)], runs := [(0, { oneRun with phase := .ended })] }, 0,
      { oneRun with phase := .ended }, by decide +kernel⟩,
    ⟨{ fieldsAt0 [] with jobs := [(1, oneJob)], runs := [(0, { oneRun with phase := .ended, serial := some 1 })] }, 0, 1,
      { oneRun with phase := .ended, serial := some 1 }, by decide +kernel⟩⟩

theorem witness_frames_and_requests :
    (∃ (s : State) (p _sub _fc _fu : Nat) (_fr : Bytes), p < 16 ∧ on s (NET_PORT_CFG_en p) = true) ∧
    (∃ (s : State) (p _sub _fc _fu : Nat) (_fr : Bytes), on s (NET_PORT_CFG_en p) = false) ∧
    (∃ (s u : State) (p sub _fc _fu : Nat) (fr g : Bytes), FrameReaches s p sub fr u g) ∧
    (∃ (s : State) (p _fc _fu : Nat) (fr : Bytes), p < 16 ∧ on s (NET_PORT_CFG_en p) = true ∧ fcsGood fr = true ∧ 64 ≤ fr.length
      ∧ fr.length ≤ 9216 ∧ hasSecTag (noFcs fr) = false ∧ on s (NET_PORT_CFG_macsec_req p) = true ∧ on s (NET_PORT_CFG_ptp_clear
      p) = true ∧ classifyFrame s p 0 (noFcs fr) = .ptp ∧ vlanOk s p (noFcs fr) = true ∧ rd s TIM_SRC_CFG_ptp_port = p) ∧
    (∃ (s : State) (fn a : Nat) (v : Word64), a < 512 ∧ fnPort s fn (rd s (NET_ASSOC_CFG_port a)) = true ∧ fnPort s fn (bitsOf
      v.toNat 16 4) = true) ∧
    (∃ (s : State) (a p sub : Nat) (m : Bytes), on s (NET_ASSOC_CFG_valid a) = true ∧ msgType m = mtCtrl ∧ fieldBE m 16 1 = 1 ∧
      p = rd s (NET_ASSOC_CFG_port a) ∧ sub = rd s (NET_ASSOC_CFG_subport a) ∧ txMsa s p sub = none) ∧
    (∃ (s : State) (p : Nat), on s (NET_PORT_CFG_en p) = true ∧ rd s TIM_SRC_CFG_ptp_port = p) ∧
    (∃ (s : State) (a q : Nat) (m : Bytes) (b : Period) (j : Job) (f : Form), on s (NET_ASSOC_CFG_valid a) = true ∧ on s
      (NET_ASSOC_CFG_kind a) = false ∧ msgType m = mtReq ∧ msgEpoch m = rd s (NET_ASSOC_CFG_epoch a) ∧ (assocOf s a).top = none
      ∧ msgSeq m ∉ (assocOf s a).seen ∧ partOfPort s (rd s (NET_ASSOC_CFG_port a)) = some q ∧ Store.get? s.periods q = some b ∧
      Store.get? s.jobs b.job = some j ∧ j.form = some f ∧ reqCheck s q m = none) ∧
    (∃ (s : State) (a p sub : Nat) (m : Bytes), on s (NET_ASSOC_CFG_valid a) = true ∧ on s (NET_ASSOC_CFG_kind a) = false ∧
      msgType m = mtReq ∧ msgEpoch m = rd s (NET_ASSOC_CFG_epoch a) ∧ (assocOf s a).top = none ∧ msgSeq m ∉ (assocOf s a).seen ∧
      p = rd s (NET_ASSOC_CFG_port a) ∧ sub = rd s (NET_ASSOC_CFG_subport a) ∧ (partOfPort s p = none ∨ ∃ q, partOfPort s p =
      some q ∧ Store.get? s.periods q = none ∧ muted s q = false)) ∧
    (∃ (s : State) (p k : Nat), k < 4 ∧ linkUp s p k = true) ∧
    (∃ (s : State) (p k : Nat), k < 4 ∧ on s (NET_PORT_CFG_en p) = true ∧ k < subPorts s p ∧ linkUp s p k = false) :=
  ⟨⟨fieldsAt0 [(NET_PORT_CFG_en 0, 1), (NET_ASSOC_CFG_valid 0, 1), (NET_PORT_STATUS_link_up 0, 1)], 0, 0, 1, 0, [],
      by decide +kernel⟩,
    ⟨State.reset, 0, 0, 0, 0, [], by decide +kernel⟩,
    ⟨fieldsAt0 [(NET_PORT_CFG_en 0, 1), (NET_ASSOC_CFG_valid 0, 1), (NET_PORT_STATUS_link_up 0, 1)], _, 0, 0, 0, 0, withFcs
      (List.replicate 60 0), _,
      ⟨by decide, by decide +kernel, by decide +kernel, by decide +kernel, by decide +kernel, .inl ⟨by decide +kernel, by decide +kernel, rfl, rfl⟩⟩⟩,
    ⟨fieldsAt0 [(NET_PORT_CFG_en 0, 1), (NET_PORT_CFG_macsec_req 0, 1), (NET_PORT_CFG_ptp_clear 0, 1)], 0, 0, 0, withFcs
      (List.replicate 12 0 ++ [0x88, 0xF7] ++ List.replicate 46 0), by decide +kernel⟩,
    ⟨fieldsAt0 [(NET_PORT_CFG_en 0, 1), (NET_ASSOC_CFG_valid 0, 1), (NET_PORT_STATUS_link_up 0, 1)], 0, 511, 0,
      by decide +kernel⟩,
    ⟨fieldsAt0 [(NET_PORT_CFG_en 0, 1), (NET_ASSOC_CFG_valid 0, 1), (NET_PORT_STATUS_link_up 0, 1)], 0, 0, 0, ([0x14] ++
      List.replicate 15 0 ++ [1]), by decide +kernel⟩,
    ⟨fieldsAt0 [(NET_PORT_CFG_en 0, 1), (NET_ASSOC_CFG_valid 0, 1), (NET_PORT_STATUS_link_up 0, 1)], 0, by decide +kernel⟩,
    ⟨{ fieldsAt0 [(NET_PORT_CFG_en 0, 1), (NET_ASSOC_CFG_valid 0, 1), (NET_PORT_STATUS_link_up 0, 1)] with jobs := [(1, formJob)], periods := [(0, onePeriod)] },
      0, 0, reqMsg, onePeriod, formJob, oneForm, by decide +kernel⟩,
    ⟨{ fieldsAt0 [(NET_PORT_CFG_en 0, 1), (NET_ASSOC_CFG_valid 0, 1), (NET_PORT_STATUS_link_up 0, 1)] with parts := [] }, 0, 0,
      0, reqMsg, by decide +kernel, by decide +kernel, by decide +kernel, by decide +kernel, by decide +kernel,
      by decide +kernel, by decide +kernel, by decide +kernel, .inl (by decide +kernel)⟩,
    ⟨fieldsAt0 [(NET_PORT_CFG_en 0, 1), (NET_ASSOC_CFG_valid 0, 1), (NET_PORT_STATUS_link_up 0, 1)], 0, 0, by decide +kernel⟩,
    ⟨fieldsAt0 [(NET_PORT_CFG_en 0, 1), (NET_ASSOC_CFG_valid 0, 1), (NET_PORT_CFG_mode 0, 2)], 0, 3, by decide +kernel⟩⟩

theorem witness_pair_link_carries_the_doubles_messages :
    (∃ (s : State) (l : Nat) (_h _b : Bytes), l < 2 ∧ on s (NET_PAIR_STATUS_up l) = true) ∧
    (∃ (s : State) (l q sent n : Nat) (key : Bytes), l < 2 ∧ on s (NET_PAIR_STATUS_up l) = true ∧ s.sec.pairKey = some key ∧
      sent = framesSent s l - (pairOf s l).txBase ∧ n = (sent % 2 ^ 24 + 2 ^ 24 - q) % 2 ^ 24) ∧
    (∃ (s : State) (l : Nat), l < 2 ∧ on s (NET_PAIR_CFG_en l) = true ∧ s.sec.pairKey.isSome = true) ∧
    (∃ (s : State) (l : Nat), l < 2 ∧ on s (NET_PAIR_STATUS_up l) = true) ∧
    (∃ (s : State) (l : Nat), l < 2 ∧ on s (NET_PAIR_STATUS_up l) = false) :=
  ⟨⟨fieldsAt0 [(NET_PAIR_STATUS_up 0, 1)], 0, [], [], by decide +kernel⟩,
    ⟨{ fieldsAt0 [(NET_PAIR_STATUS_up 0, 1)] with out := [.pairMsg 1 []], sec := { SecSt.init with pairKey := some [] } }, 0, 0,
      1, 1, [], by decide +kernel⟩,
    ⟨{ fieldsAt0 [(NET_PAIR_CFG_en 0, 1)] with sec := { SecSt.init with pairKey := some [] } }, 0, by decide +kernel⟩,
    ⟨fieldsAt0 [(NET_PAIR_STATUS_up 0, 1)], 0, by decide +kernel⟩,
    ⟨fieldsAt0 [], 1, by decide +kernel⟩⟩

theorem witness_modules_pair_and_part :
    (∃ (s : State) (_v : Word64), fnPhys s 0 = true) ∧
    (∃ (s : State), on s DBL_CFG_en = true ∧ linksUp s = true) ∧
    (∃ (s : State) (_h : Hello), linksUp s = true) ∧
    (∃ (s : State) (h : Hello), rd s DBL_STATUS_state = 1 ∧ on s DBL_CFG_en = true ∧ linksUp s = true ∧ s.dbl.partner = some h) ∧
    (∃ (s : State), paired s = true) ∧
    (∃ (s : State) (d : Nat), s.dbl.downAt = some d ∧ paired s = true ∧ isB s = true ∧ s.dbl.mine = []) ∧
    (∃ (s : State) (x : DblItem) (r : ReqRef), s.dbl.downAt = some 0 ∧ paired s = true ∧ isB s = true ∧ s.dbl.mine = [x] ∧
      100000 * max 1 (rd s DBL_CFG_singles_wait) ≤ s.now ∧ itemsDiffer s x = false ∧ x.run ∉ s.dbl.broken ∧ refOf s x.run x.kind
      x.idx = some r ∧ tod s < refDeadline s r) ∧
    (∃ (s : State) (fn : Nat), fnPhys s fn = true ∧ rd s DBL_STATUS_state = 4) ∧
    (∃ (s : State) (_fn : Nat), rd s DBL_STATUS_state ≠ 4) :=
  ⟨⟨State.reset, 1, by decide +kernel⟩,
    ⟨fieldsAt0 [(DBL_CFG_en, 1), (NET_PAIR_STATUS_up 0, 1)], by decide +kernel⟩,
    ⟨fieldsAt0 [(NET_PAIR_STATUS_up 0, 1)], aHello, by decide +kernel⟩,
    ⟨{ fieldsAt0 [(DBL_STATUS_state, 1), (DBL_CFG_en, 1), (NET_PAIR_STATUS_up 0, 1)] with dbl := { DblSt.init with partner := some aHello } },
      aHello, by decide +kernel⟩,
    ⟨fieldsAt0 [(DBL_STATUS_state, 2)], by decide +kernel⟩,
    ⟨{ fieldsAt0 [(DBL_STATUS_state, 2), (DBL_STATUS_id, 1)] with dbl := { DblSt.init with downAt := some 0 } }, 0,
      by decide +kernel⟩,
    ⟨singlesState, anItem, .seat 0 0, by decide +kernel⟩,
    ⟨fieldsAt0 [(DBL_STATUS_state, 4)], 0, by decide +kernel⟩,
    ⟨State.reset, 0, by decide +kernel⟩⟩

theorem witness_doubles_runs_agree_or_are_retaken :
    (∃ (s : State) (q n : Nat) (_l : List SeatRef) (p : Period) (j : Job) (f : Form), Store.get? s.periods q = some p ∧ follows
      s q = true ∧ (∀ m, p.lastSeat = some m → m < n) ∧ Store.get? s.jobs p.job = some j ∧ j.form = some f ∧ (∀ c ∈ s.copies,
      c.bind = p.subm → c.skipped = false) ∧ s.dbl.sents = []) ∧
    (∃ (s : State) (q n _k : Nat) (_body : Bytes) (l : List SeatRef) (p : Period) (j : Job) (f : Form), s.dbl.seatWait = some
      (q, n, l) ∧ Store.get? s.periods q = some p ∧ Store.get? s.jobs p.job = some j ∧ j.form = some f ∧ (∀ c ∈ s.copies, c.bind
      = p.subm → c.skipped = false) ∧ s.dbl.sents = []) ∧
    (∃ (s : State) (q n r : Nat) (p : Period) (x : Run), Store.get? s.periods q = some p ∧ p.current = some n ∧ s.dbl.seatWait =
      none ∧ follows s q = true ∧ Store.get? s.runs r = some x ∧ x.subm = p.subm ∧ x.kind = .period n ∧ x.phase = .pending ∧
      x.kickWin = none ∧ (∀ c ∈ s.copies, c.bind = p.subm → c.period ≠ n)) ∧
    (∃ (s : State) (run : RunName) (k i : Nat) (_item : Bytes) (a : DblItem), paired s = true ∧ s.dbl.theirs.any (·.is run k i)
      = false ∧ s.dbl.mine.find? (·.is run k i) = some a) ∧
    (∃ (s : State) (run : RunName) (k i : Nat) (_item : Bytes), paired s = true ∧ s.dbl.mine.find? (·.is run k i) = none ∧
      s.dbl.theirs.any (·.is run k i) = false) ∧
    (∃ (s : State) (_run : RunName) (_k _i _st : Nat) (_pay : Bytes), paired s = true ∧ isB s = true ∧ s.dbl.sents = []) ∧
    (∃ (s : State) (_run : RunName) (_n : Nat) (_b : RunDigests), paired s = true ∧ s.dbl.myDig = [] ∧ s.dbl.theirDig = []) ∧
    (∃ (s : State) (run : RunName) (n : Nat) (a _b : RunDigests), paired s = true ∧ s.dbl.myDig = [(run, n, a)] ∧ s.dbl.theirDig
      = []) ∧
    (∃ (s : State) (run : RunName) (n c r : Nat) (x : Run), paired s = true ∧ runNamed s run = some (r, x) ∧ Store.get? s.runs r
      = some x ∧ n ≤ 2 ∧ c ≠ 0x0A ∧ c ≠ 0x0E ∧ x.retakes < n) ∧
    (∃ (s : State) (run : RunName) (_c r : Nat) (x : Run), paired s = true ∧ runNamed s run = some (r, x) ∧ Store.get? s.runs r
      = some x ∧ x.phase = .running ∧ s.dbl.mine = []) :=
  ⟨⟨{ fieldsAt0 [(DBL_STATUS_state, 2), (DBL_STATUS_id, 1), (DBL_CFG_part_mask, 1)] with jobs := [(1, formJob)], periods := [(0, onePeriod)] },
      0, 1, [], onePeriod, formJob, oneForm, by decide +kernel, by decide +kernel, (by intro _ h; cases h), by decide +kernel,
      by decide +kernel, by decide +kernel, by decide +kernel⟩,
    ⟨{ fieldsAt0 [(DBL_STATUS_state, 2), (DBL_STATUS_id, 1), (DBL_CFG_part_mask, 1)] with jobs := [(1, formJob)], periods := [(0, onePeriod)], dbl := { DblSt.init with seatWait := some (0, 1, []) } },
      0, 1, 0, [], [], onePeriod, formJob, oneForm, by decide +kernel⟩,
    ⟨{ fieldsAt0 [(DBL_STATUS_state, 2), (DBL_STATUS_id, 1), (DBL_CFG_part_mask, 1)] with jobs := [(1, formJob)], periods := [(0, { onePeriod with current := some 0 })], runs := [(0, { oneRun with kind := .period 0 })] },
      0, 0, 0, { onePeriod with current := some 0 }, { oneRun with kind := .period 0 }, by decide +kernel⟩,
    ⟨{ fieldsAt0 [(DBL_STATUS_state, 2)] with dbl := { DblSt.init with mine := [anItem] } }, anItem.run, anItem.kind,
      anItem.idx, [], anItem, by decide +kernel⟩,
    ⟨fieldsAt0 [(DBL_STATUS_state, 2)], ⟨1, 0⟩, 0, 0, [], by decide +kernel⟩,
    ⟨fieldsAt0 [(DBL_STATUS_state, 2), (DBL_STATUS_id, 1)], ⟨1, 0⟩, 0, 0, 0, [], by decide +kernel⟩,
    ⟨fieldsAt0 [(DBL_STATUS_state, 2)], ⟨1, 0⟩, 0, ⟨[], [], [], [], [], [], false⟩, by decide +kernel⟩,
    ⟨{ fieldsAt0 [(DBL_STATUS_state, 2)] with dbl := { DblSt.init with myDig := [(⟨1, 0⟩, 0, ⟨[], [], [], [], [], [], false⟩)] } },
      ⟨1, 0⟩, 0, ⟨[], [], [], [], [], [], false⟩, ⟨[], [], [], [], [], [], false⟩, by decide +kernel⟩,
    ⟨{ fieldsAt0 [(DBL_STATUS_state, 2)] with jobs := [(1, oneJob)], runs := [(0, { oneRun with name := some ⟨1, 0⟩, phase := .pending })] },
      ⟨1, 0⟩, 1, 0, 0, { oneRun with name := some ⟨1, 0⟩, phase := .pending }, by decide +kernel⟩,
    ⟨{ fieldsAt0 [(DBL_STATUS_state, 2)] with jobs := [(1, oneJob)], runs := [(0, { oneRun with name := some ⟨1, 0⟩, phase := .running })] },
      ⟨1, 0⟩, 0, 0, { oneRun with name := some ⟨1, 0⟩, phase := .running }, by decide +kernel⟩⟩

theorem witness_power_and_temperature_are_kept :
    (∃ (s : State) (_b _g : Nat) (l : List TileTerm) (terms : Store Nat), terms = l.foldl (fun m x => if x.t < s.part.tiles then
      Store.put m x.t 0 (calibrated s x.cw) else m) []) ∧
    (∃ (s : State) (i : Nat) (c : Int), on s PWR_STATUS_tripped = false ∧ i < 44 ∧ -128 ≤ c ∧ c ≤ 127) ∧
    (∃ (s : State) (_l : List TempReading), on s PWR_STATUS_tripped = true) ∧
    (∃ (s : State) (d u : Nat), Store.get? s.pwr.hot d = some u ∧ d < 12) :=
  ⟨⟨State.reset, 0, 0, [], [], by decide +kernel⟩,
    ⟨State.reset, 43, -128, by decide +kernel⟩,
    ⟨fieldsAt0 [(PWR_STATUS_tripped, 1)], [], by decide +kernel⟩,
    ⟨{ State.reset with pwr := { PwrSt.init with hot := [(11, 5)] } }, 11, 5, by decide +kernel⟩⟩

theorem witness_sessions_are_served :
    (∃ (s : State) (_k : Nat), spdmUp s = true) ∧
    (∃ (s : State) (k slot _o n : Nat), spdmUp s = true ∧ 3 ≤ (spdmOf s k).phase ∧ slot < 2 ∧ n ≤ 65000) ∧
    (∃ (s : State) (k slot : Nat) (_nonce : Bytes), spdmUp s = true ∧ 3 ≤ (spdmOf s k).phase ∧ slot < 2) ∧
    (∃ (s : State) (k _i : Nat) (_sign : Bool) (_nonce : Bytes), spdmUp s = true ∧ 3 ≤ (spdmOf s k).phase) ∧
    (∃ (s : State) (k : Nat) (_x : Bytes), spdmUp s = true ∧ 3 ≤ (spdmOf s k).phase) ∧
    (∃ (s : State) (k : Nat) (_h : Bytes) (_ok : Bool), spdmUp s = true ∧ 3 ≤ (spdmOf s k).phase) ∧
    (∃ (s : State) (k : Nat) (_c : Bytes) (_last : Bool), spdmUp s = true ∧ 2 ≤ (spdmOf s k).phase) ∧
    (∃ (s : State) (k i code : Nat) (b : Bytes), spdmUp s = true ∧ 2 ≤ (spdmOf s k).phase ∧ (spdmOf s k).large = some (code, b)
      ∧ chunkBytes * i < b.length) ∧
    (∃ (s : State) (_k : Nat), spdmUp s = true) ∧
    (∃ (s : State) (_x : Bytes), s.boot.held = false) :=
  ⟨⟨fieldsAt0 [(SEC_STATUS_boot, 1)], 0, by decide +kernel⟩,
    ⟨{ fieldsAt0 [(SEC_STATUS_boot, 1)] with sec := { SecSt.init with spdm := [(0, ⟨3, false, false, [], none⟩)] } }, 0, 1, 0,
      65000, by decide +kernel⟩,
    ⟨{ fieldsAt0 [(SEC_STATUS_boot, 1)] with sec := { SecSt.init with spdm := [(0, ⟨3, false, false, [], none⟩)] } }, 0, 1, [],
      by decide +kernel⟩,
    ⟨{ fieldsAt0 [(SEC_STATUS_boot, 1)] with sec := { SecSt.init with spdm := [(0, ⟨3, false, false, [], none⟩)] } }, 0, 0,
      true, [], by decide +kernel⟩,
    ⟨{ fieldsAt0 [(SEC_STATUS_boot, 1)] with sec := { SecSt.init with spdm := [(0, ⟨3, false, false, [], none⟩)] } }, 0, [],
      by decide +kernel⟩,
    ⟨{ fieldsAt0 [(SEC_STATUS_boot, 1)] with sec := { SecSt.init with spdm := [(0, ⟨3, false, false, [], none⟩)] } }, 0, [],
      true, by decide +kernel⟩,
    ⟨{ fieldsAt0 [(SEC_STATUS_boot, 1)] with sec := { SecSt.init with spdm := [(0, ⟨2, false, false, [], none⟩)] } }, 0, [],
      false, by decide +kernel⟩,
    ⟨{ fieldsAt0 [(SEC_STATUS_boot, 1)] with sec := { SecSt.init with spdm := [(0, ⟨2, false, false, [], some (5, [1])⟩)] } },
      0, 0, 5, [1], by decide +kernel⟩,
    ⟨fieldsAt0 [(SEC_STATUS_boot, 1)], 0, by decide +kernel⟩,
    ⟨State.reset, [], by decide +kernel⟩⟩

theorem witness_partitions_and_keys_are_set :
    (∃ (s : State) (r : Nat), fnPhys s 0 = true ∧ on s SEC_PART_CTL_busy = false ∧ commitReason s = some r) ∧
    (∃ (s : State), fnPhys s 0 = true ∧ on s SEC_PART_CTL_busy = false ∧ commitReason s = none) ∧
    (∃ (s : State), on s SEC_PART_CTL_busy = true) ∧
    (∃ (s : State), on s SEC_PART_CTL_busy = false) ∧
    (∃ (s : State) (fn : Nat) (_v : Word64), fnUp s fn = true) ∧
    (∃ (s : State) (fn : Nat) (_v : Word64), fnMsa s fn = true) ∧
    (∃ (s : State) (q : Nat) (_v : Word64), ownsPort s q (rd s SEC_MSA_SEL_port) = false) ∧
    (∃ (s : State), fnPhys s 0 = true) ∧
    (∃ (s : State) (_v : BitVec 8), fnPhys s 0 = true) :=
  ⟨⟨fieldsAt0 [(SEC_PART_CFG_en 1, 1), (SEC_PART_CFG_ports 1, 1)], 1, by decide +kernel⟩,
    ⟨fieldsAt0 [(HST_BOOT_state, 5)], by decide +kernel⟩,
    ⟨fieldsAt0 [(SEC_PART_CTL_busy, 1)], by decide +kernel⟩,
    ⟨State.reset, by decide +kernel⟩,
    ⟨State.reset, 1, 0, by decide +kernel⟩,
    ⟨State.reset, 0, 0, by decide +kernel⟩,
    ⟨State.reset, 5, 0, by decide +kernel⟩,
    ⟨State.reset, by decide +kernel⟩,
    ⟨State.reset, 5, by decide +kernel⟩⟩

theorem witness_offsets_without_a_register :
    (∃ (s : State) (fn off : Nat) (_v : Word64), fnUp s fn = true ∧ fn ≤ 8 ∧ off % 8 = 0 ∧ regAt s.part off = none) ∧
    (∃ (p : Part) (t o : Nat), p.tiles ≤ t ∧ o < 0x10000) :=
  ⟨⟨State.reset, 0, 0x3FF8, 0, by decide +kernel⟩,
    ⟨.ox2048, 96, 0xFFF8, by decide +kernel⟩⟩

theorem witness_coincident_events_survive_a_read_that_clears :
    (∃ (s : State) (off : Nat) (_hits _amt : Word64) (f : Fld), fnUp s 0 = true ∧ off % 8 = 0 ∧ f ∈ fieldsAt s.part off ∧ f.acc
      = .rc) :=
  ⟨fieldsAt0 [(TIM_PPS_STATS_accepted, 5)], TIM_PPS_STATS, 1, 1, TIM_PPS_STATS_accepted, by decide +kernel⟩

theorem witness_host_interrupts_and_link :
    (∃ (s : State) (_v : Word64), fnPhys s 0 = true) ∧
    (∃ (s : State) (fn : Nat), fnUp s fn = true ∧ fn ≠ 0) ∧
    (∃ (s : State) (_sq _o : Nat), booting s = true ∧ rd s HST_BOOT_state = 2) ∧
    (∃ (s : State) (sq _o : Nat) (d : Desc), isReady s = true ∧ s.sec.unseals = [] ∧ Starts s sq d.type d ∧ d.reads = true ∧
      waitingGraphs s d.job = []) ∧
    (∃ (s : State) (sq _o : Nat), isReady s = true ∧ s.sec.unseals = [] ∧ nextDesc s sq = none ∧ sq < 16 ∧ on s (HQ_SQ_CFG_en
      sq) = true ∧ outstanding s sq ≠ 0) ∧
    (∃ (s : State) (_g _w : Nat) (_fl _rv : Bool), booting s = true) ∧
    (∃ (s : State), booting s = true) :=
  ⟨⟨State.reset, 1, by decide +kernel⟩,
    ⟨State.reset, 8, by decide +kernel⟩,
    ⟨fieldsAt0 [(HST_BOOT_state, 2)], 0, 0, by decide +kernel⟩,
    ⟨{ fieldsAt0 [(HST_BOOT_state, 5)] with jobs := [(1, oneJob)], descs := [aDesc 1 1 []] }, 0, 0, aDesc 1 1 [],
      by unfold Starts; decide +kernel⟩,
    ⟨fieldsAt0 [(HST_BOOT_state, 5), (HQ_SQ_CFG_en 15, 1), (HQ_SQ_DB_tail 15, 1)], 15, 0, by decide +kernel⟩,
    ⟨State.reset, 6, 16, true, true, by decide +kernel⟩,
    ⟨State.reset, by decide +kernel⟩⟩

theorem witness_module_resets_restart_every_die :
    (∃ (s : State), canReset s = true ∧ s.boot.held = false) ∧
    (∃ (s : State), (s.boot.held = true ∨ canReset s = false)) ∧
    (∃ (s : State), canReset s = true ∧ s.boot.held = true) ∧
    (∃ (s : State), canReset s = true ∧ s.boot.held = true ∧ s.boot.deferred = false ∧ s.boot.goodAt + 100000000 ≤ s.now) ∧
    (∃ (s : State), canReset s = true ∧ s.boot.held = true ∧ s.boot.deferred = true) :=
  ⟨⟨State.reset, by decide +kernel⟩,
    ⟨{ State.reset with boot := { BootSt.init with held := true } }, by decide +kernel⟩,
    ⟨{ State.reset with boot := { BootSt.init with held := true } }, by decide +kernel⟩,
    ⟨{ State.reset with boot := { BootSt.init with held := true }, now := 100000000 }, by decide +kernel⟩,
    ⟨{ State.reset with boot := { BootSt.init with held := true, deferred := true } }, by decide +kernel⟩⟩

theorem witness_partitions_and_jobs_are_reset :
    (∃ (s : State) (q : Nat) (r : PartRes), fnUp s 0 = true ∧ q < 8 ∧ Store.get? s.parts q = some r ∧ r.synBase + r.synCount ≤
      4096) ∧
    (∃ (s : State) (q _p : Nat), fnUp s 0 = true ∧ fnUp s (q + 1) = true ∧ q < 8) ∧
    (∃ (s : State) (q : Nat), canReset s = true ∧ s.boot.held = false ∧ q < 8) ∧
    (∃ (s : State) (j r : Nat) (x : Run), fnUp s 0 = true ∧ (Store.get? s.jobs j).isSome = true ∧ (∀ p ∈ s.periods, p.2.job ≠ j)
      ∧ (∀ p ∈ s.runs, p.2.job = j → p.1 = r ∧ p.2 = x) ∧ Store.get? s.runs r = some x ∧ x.job = j) ∧
    (∃ (s : State) (j q : Nat), fnUp s (q + 1) = true ∧ (∀ x, Store.get? s.jobs j = some x → x.part ≠ q)) ∧
    (∃ (s : State) (j : Nat), fnUp s 0 = true ∧ Store.get? s.jobs j = none) :=
  ⟨⟨State.reset, 0, PartRes.whole .ox2048, by decide +kernel⟩,
    ⟨State.reset, 0, 5, by decide +kernel⟩,
    ⟨State.reset, 7, by decide +kernel⟩,
    ⟨{ fieldsAt0 [] with jobs := [(1, oneJob)], runs := [(0, oneRun)] }, 1, 0, oneRun, by decide +kernel⟩,
    ⟨State.reset, 5, 0, by decide +kernel⟩,
    ⟨State.reset, 5, by decide +kernel⟩⟩

theorem witness_power_up_boots_to_ready :
    (∃ (s : State), s.boot.pwrEn = false ∧ s.boot.vinOk = true ∧ s.boot.rails = 0) ∧
    (∃ (s : State) (_d : Bool) (_b : BitVec 4), s.boot.rails = 1) ∧
    (∃ (s : State), s.boot.rails ≠ 0) ∧
    (∃ (s : State) (_r : DieTest), booting s = true ∧ on s HST_DIE_STATUS_test_done = false) ∧
    (∃ (s : State) (_ms : Nat), booting s = true ∧ on s HST_BOOT_prep_done = false) ∧
    (∃ (s : State), booting s = true ∧ (rd s HST_BOOT_state = 1 ∨ rd s HST_BOOT_state = 6)) ∧
    (∃ (s : State) (b img : Bytes), booting s = true ∧ rd s HST_BOOT_state = 2 ∧ b = sliceB img 0 (rd s HST_FW_LEN_len)) ∧
    (∃ (s : State), booting s = true ∧ rd s HST_BOOT_state = 4) ∧
    (∃ (s : State), booting s = true) :=
  ⟨⟨{ State.reset with boot := { BootSt.init with pwrEn := false, rails := 0 } }, by decide +kernel⟩,
    ⟨{ State.reset with boot := { BootSt.init with rails := 1 } }, true, 0, by decide +kernel⟩,
    ⟨State.reset, by decide +kernel⟩,
    ⟨State.reset, ⟨0, 0, 0, false, 0, 0⟩, by decide +kernel⟩,
    ⟨State.reset, 5, by decide +kernel⟩,
    ⟨State.reset, by decide +kernel⟩,
    ⟨fieldsAt0 [(HST_BOOT_state, 2)], _, [1], by decide +kernel, by decide +kernel, rfl⟩,
    ⟨fieldsAt0 [(HST_BOOT_state, 4)], by decide +kernel⟩,
    ⟨State.reset, by decide +kernel⟩⟩

theorem witness_bundles_issue_as_a_whole :
    (∃ (_t a b c d e f : Nat), a < 2 ^ 32 ∧ b < 2 ^ 48 ∧ c < 2 ^ 48 ∧ d < 2 ^ 64 ∧ e < 2 ^ 40 ∧ f < 2 ^ 24) ∧
    (∃ (o : MeOp) (v : Nat), v = 2 ^ 5 * o.fmt.toNat + 2 ^ 9 * b2n o.wbuf + 2 ^ 10 * o.adesc.toNat + 2 ^ 16 * o.aoff.toNat + 2 ^
      26 * o.acc.toNat + 2 ^ 34 * o.acnt.toNat + 2 ^ 38 * o.accmode.toNat + 2 ^ 40 * b2n o.sparse + 2 ^ 41 * b2n o.amask + 2 ^
      42 * b2n o.exam + 2 ^ 43 * b2n o.aus + 2 ^ 44 * b2n o.wus + 2 ^ 45 * o.pshift.toNat) ∧
    (∃ (s : State) (t v : Nat) (p : SlotOp), TileReady s t ∧ p ∈ bundleOps t v) ∧
    (∃ (s : State) (t v k : Nat) (p : SlotOp), issuing s t = true ∧ bubbled s t = false ∧ pcOut s t = false ∧ isCleared s t =
      false ∧ reservedSlot (bundleWord s t) = some k ∧ p ∈ bundleOps t v) ∧
    (∃ (s : State) (t : Nat) (p : SlotOp), issuing s t = true ∧ bubbled s t = false ∧ pcOut s t = false ∧ isCleared s t = false
      ∧ reservedSlot (bundleWord s t) = none ∧ 2 ^ 32 ≤ bundleWord s t ∧ p ∈ bundleOps t (bundleWord s t)) :=
  ⟨⟨0, 0, 0, 0, 0, 0, 0, by decide +kernel⟩,
    ⟨aMeOp, _, rfl⟩,
    ⟨plainTile, 0, 0, _, by unfold TileReady Alone; decide +kernel, List.mem_cons_self⟩,
    ⟨{ plainTile with mem := [(windowOf 0, 0x3F)] }, 0, 0, 0, _, by decide +kernel, by decide +kernel, by decide +kernel,
      by decide +kernel, by decide +kernel, List.mem_cons_self⟩,
    ⟨{ plainTile with mem := [(windowOf 0 + 16, 1)] }, 0, _, by decide +kernel, by decide +kernel, by decide +kernel,
      by decide +kernel, by decide +kernel, by decide +kernel, List.mem_cons_self⟩⟩

/-! ### `Instr.wf` refuses each kind of number out of range -/

theorem wf_function : (Instr.wf .ox2048 (.grdArm 9 0)) = false ∧ (Instr.wf .ox2048 (.grdArm 8 0)) = true := by decide
theorem wf_offset : (Instr.wf .ox2048 (.registerWrite 0 4 0)) = false ∧ (Instr.wf .ox2048 (.registerWrite 0 8 0)) = true := by decide
theorem wf_bar0_good_access : (Instr.wf .ox2048 (.bar0BadAccess 0 8 8 true)) = false := by decide
theorem wf_bar2_good_access : (Instr.wf .ox2048 (.bar2BadAccess 0 4 4 true)) = false := by decide
theorem wf_virtual_function : (Instr.wf .ox2048 (.vfRearm 0)) = false := by decide
theorem wf_partition : (Instr.wf .ox2048 (.startBell 8)) = false ∧ (Instr.wf .ox2048 (.logHeadAdvance 0 8 0)) = false := by decide
theorem wf_mark : (Instr.wf .ox2048 (.markBell 0 16)) = false := by decide
theorem wf_queue : (Instr.wf .ox2048 (.hqSqDb 0 16 0)) = false ∧ (Instr.wf .ox2048 (.runGraph 16)) = false := by decide
theorem wf_association : (Instr.wf .ox2048 (.ackTimer 512)) = false := by decide
theorem wf_descriptor_length : (Instr.wf .ox2048 (.descriptorFetch 0 [])) = false := by decide
theorem wf_port : (Instr.wf .ox1536 (.linkUp 9 0)) = false ∧ (Instr.wf .ox2048 (.linkUp 9 0)) = true ∧
    (Instr.wf .ox2048 (.linkUp 9 4)) = false := by decide
theorem wf_pair_link : (Instr.wf .ox2048 (.pairUp 2)) = false := by decide
theorem wf_hub : (Instr.wf .ox2048 (.lockerOpDone 4)) = false := by decide
theorem wf_plan : (Instr.wf .ox2048 (.fillBell 4)) = false := by decide
theorem wf_die : (Instr.wf .ox1024 (.thermStep 6)) = false ∧ (Instr.wf .ox2048 (.thermStep 6)) = true := by decide
theorem wf_tile : (Instr.wf .ox1024 (.halt 48 0)) = false ∧ (Instr.wf .ox1024 (.halt 47 0)) = true := by decide
theorem wf_slot : (Instr.wf .ox2048 (.nop 0 6)) = false := by decide
theorem wf_link : (Instr.wf .ox2048 (.xovr 0 4 true)) = false := by decide
theorem wf_spare_kind : (Instr.wf .ox2048 (.autoSubstitute 0 2 0)) = false := by decide
theorem wf_endpoint : (Instr.wf .ox2048 (.lineArrival 0 16)) = false := by decide
theorem wf_me_tile : (Instr.wf .ox2048 (.emit { aMeOp with t := 96 })) = false := by decide
theorem wf_aide_tile : (Instr.wf .ox2048 (.add { anAid with t := 96 })) = false := by decide
theorem wf_watchdog : (Instr.wf .ox2048 (.watchdog [])) = false ∧ (Instr.wf .ox2048 (.watchdog [96])) = false := by decide
theorem wf_counter : (Instr.wf .ox2048 (.counterIncrement 0 4096)) = false := by decide
theorem wf_job : (Instr.wf .ox2048 (.jobReset 0 0)) = false ∧ (Instr.wf .ox2048 (.jobStop 65536)) = false := by decide

/-! ### Small tests; the worked examples of the spec where one is named -/

/-- The state after a command. -/
def after (c : Instr) (s : State) : State :=
  match exec c s with
  | .next t => t
  | _ => s

/-- 04, "cancellation in one MMA": lanes 0, 1 and 32 in MXFP8 with scales 0x7F, 0x7F and 0x2B. -/
def cancellation : List FVal :=
  List.zipWith mulExact (rowVals 4 false 64 ([0x38, 0xB8] ++ List.replicate 30 0 ++ [0x39] ++ List.replicate 31 0) [0x7F, 0x2B])
    (rowVals 4 false 64 ([0x38, 0x38] ++ List.replicate 30 0 ++ [0x39] ++ List.replicate 31 0) [0x7F, 0x7F])

theorem test_open_sum_keeps_what_its_field_holds : dotOpen cancellation = 0x15A00000 := by decide +kernel

/-- The exact sum, 1.265625 * 2 ^ -84, is 81 units of 2 ^ -90. -/
theorem test_long_sum_is_exact : examOut (-90) (some 0) cancellation = .ok 81 ∧ roundInt32 81 (-90) = 0x15A20000 := by decide +kernel

/-- 05, "one FP8 E4M3 row": the codes of 0.5, -2 and 1.5. -/
theorem test_e4m3_codes :
    [0x3F000000, 0xC0000000, 0x3FC00000].map (narrowF toE4M3 none 0) = [0x30, 0xC0, 0x3C] := by decide +kernel

/-- 05, "bin 5 in period 1,204": carried seats of slots 40 to 42, then seats in order. -/
theorem test_slots_of_a_bin :
    (slotBytes 32 (fillBin 32 8 [40, 41, 42] [17])).take 16 = [0x28, 0, 1, 0, 0x29, 0, 1, 0, 0x2A, 0, 1, 0, 17, 0, 0, 0] := by
  decide +kernel

/-- 06, "activations for the next layer": the ME scratchpad address of tile 3. -/
theorem test_window_of_tile_3 : windowOf 3 + 0x120000 = 0x040003120000 := by decide

/-- 07, "a far load beside a refresh": the far latency from region 0 to position 3. -/
theorem test_far_latency : dramLatency 3 0 = 80 := by decide

/-- The DLOAD of 4 lines that tile 3 issues at tick 100 uses ticks 120 to 123 of region 0's static slot. -/
theorem test_far_load_claims :
    ((after (.dload 3 0 0 2 0 3)
      { fieldsAt0 [(TIL_MODE_bound 3, 1), (TIL_MODE_job_id 3, 1), (TIL_MODE_strict 3, 1), (TIL_SEQ_STATUS_state 3, 1),
          (TIL_TICK_tick 3, 100)] with
        tiles := [(3, { Tile.init with bundles := 8, descs := [(2, windowOf 3 + 0x100000)] })]
        jobs := [(1, { oneJob with tiles := [3] })] }).claims.map fun c => (c.region, c.tick)) =
      [(0, 120), (0, 121), (0, 122), (0, 123)] := by decide +kernel

/-- 02, "a start bell": the window of a kickoff whose bell was read in window 7,030,112. -/
theorem test_kickoff_window : actWindow (fieldsAt0 [(TIM_WINDOW_window, 7030112)]) = 7030114 := by decide +kernel

/-- 17, "an orphan send and two completions": the summary, the tile word, the addresses. -/
theorem test_orphan_send_summary :
    irqSummary (fieldsAt0 [(TIL_CAUSE_cause 41, 8)]) = 8 ∧ tileBits (fieldsAt0 [(TIL_CAUSE_cause 41, 8)]) = 0x20000000000 ∧
    irqSummary (fieldsAt0 [(TIL_CAUSE_cause 41, 8), (HQ_CAUSE_cause, 4)]) = 9 := by decide +kernel

theorem test_orphan_registers : TIL_CAUSE 41 = 0x01290018 ∧ CH_ORPHAN 41 = 0x01290A88 := by decide

/-- 15, "the expert surge": 144 W over the cap of 1,800 W in 1,200 W of tiles is 31/256. -/
theorem test_cap_fraction :
    Store.get? (after (.powerInterval 60000
      ((List.range 96).map fun t => ⟨t, if t < 64 then 1700 else if t < 80 then 1500 else 100⟩) [] 0 [])
      (fieldsAt0 [(PWR_CAP_CFG_cap_w, 1800)])).pwr.capF 0 = some 31 := by decide +kernel

/-- 15: the HINT of lead 1 in window 459 begins a phase in window 460. -/
theorem test_hint_phase :
    (tileOf (after (.hint 0 14 0 493) { plainTile with windows := 459 }) 0).hints = [(460, 494, 14)] := by decide +kernel

/-- 11, the crc field: the published check value of CRC-32C for the ASCII digits 1 to 9. -/
theorem test_crc32c : crc32c [0x31, 0x32, 0x33, 0x34, 0x35, 0x36, 0x37, 0x38, 0x39] = 0xE3069283 := by decide +kernel

theorem test_fp32_sum_cancels_to_plus_zero : add32 0x3F800000 0xBF800000 = 0 := by decide +kernel
theorem test_fp32_rounds_to_even : add32 0x4B800000 0x3F800000 = 0x4B800000 ∧ add32 0x4B800001 0x3F800000 = 0x4B800002 := by
  decide +kernel
theorem test_fp32_overflows_to_infinity : add32 0x7F7FFFFF 0x7F7FFFFF = 0x7F800000 := by decide +kernel
theorem test_fp32_product_underflows_to_subnormal : mul32 0x00800000 0x3F000000 = 0x00400000 := by decide +kernel

theorem test_add_wraps :
    (tileOf (after (.add { anAid with rs1 := 1, rs2 := 1, rd := 1 }) (readyTile { Tile.init with aregs := [(1, 2 ^ 63)] } [])) 0).reg 0 1
      = 0 := by decide +kernel
theorem test_mulhs_of_minus_one :
    (tileOf (after (.mulhs { anAid with rs1 := 1, rs2 := 1, rd := 3 })
      (readyTile { Tile.init with aregs := [(1, 2 ^ 64 - 1)] } [])) 0).reg 0 3 = 0 := by decide +kernel
theorem test_sra_keeps_the_sign :
    (tileOf (after (.sra { anAid with rs2 := 0, imm := 63 }) (readyTile { Tile.init with aregs := [(1, 2 ^ 63)] } [])) 0).reg 0 3
      = 2 ^ 64 - 1 := by decide +kernel
theorem test_store_is_little_endian :
    readBytes (runDue (after (.st32 { anAid with rd := 0, rs1 := 0, rs2 := 1, imm := 8 })
      (readyTile { Tile.init with aregs := [(1, 0x11223344)] } [])) 0 2) (aideBase 0 0 + 8) 4 = [0x44, 0x33, 0x22, 0x11] := by
  decide +kernel
theorem test_jump_costs_three_ticks :
    pcOf (after (.jump 0 5) plainTile) 0 = 5 ∧ tickOf (after (.jump 0 5) plainTile) 0 = 3 := by decide +kernel
theorem test_loop_goes_back :
    pcOf (after (.nop 0 0) (readyTile { Tile.init with lims := [(2, 3)], loops := [⟨2, 1, 4⟩] } [(TIL_SEQ_STATUS_pc 0, 4)])) 0 = 1 := by
  decide +kernel
theorem test_trap_code_is_reported :
    rd (after (.trap 0 0xA5) plainTile) (TIL_SEQ_STATUS_halt_code 0) = 0xA5 := by decide +kernel
theorem test_doorbell_out_of_range_is_logged :
    let t := after (.hqSqDb 0 3 16) (fieldsAt0 [(HQ_SQ_CFG_en 3, 1)])
    rd t (HQ_SQ_DB_tail 3) = 0 ∧ flag t HST_CAUSE_cause 3 = true ∧ rd t HST_BAR0_LOG_offset = 0x3000 := by decide +kernel
/-- 06, "activations for the next layer": the row of seat 1, issued at tick 210, shares a line with the row of seat 0 under
way and is not held; a read of a byte of that row is. -/
theorem test_next_row_is_not_held :
    let x : Tile := { Tile.init with marks := [⟨.bytes 0x040003120000 320, 2, 208, 216, 216, false, 1⟩] }
    flightKinds x 210 (spanOf (0x040003120000 + 320) 320) = [] ∧ flightKinds x 210 (spanOf (0x040003120000 + 319) 1) = [1] := by
  decide
theorem test_association_write_before_ready_is_dropped :
    rd (after (.assocWrite 0 5 0x400000) { State.reset with now := 2000000000 }) NET_CAUSE_cause = 2048 := by decide +kernel
theorem test_association_write_waits_a_second_from_ready :
    rd (after (.assocWrite 0 5 0x400000) { State.reset with readyAt := some 0, now := 999999999 }) NET_CAUSE_cause = 2048 := by
  decide +kernel
theorem test_association_write_waits_a_second_from_the_last :
    rd (after (.assocWrite 0 5 0x400000) { State.reset with
      readyAt := some 0, now := 2000000000, assocs := [(5, { AssocSt.init with lastWrite := some 1000000001 })] })
      NET_CAUSE_cause = 2048 := by decide +kernel
theorem test_association_write_a_second_after_the_last_advances_the_epoch :
    let t := after (.assocWrite 0 5 0x400000) { fieldsAt0 [(NET_ASSOC_CFG_epoch 5, 255)] with
      readyAt := some 0, now := 2000000000, assocs := [(5, { AssocSt.init with lastWrite := some 1000000000 })] }
    rd t (NET_ASSOC_CFG_epoch 5) = 0 ∧ rd t (NET_ASSOC_CFG_valid 5) = 1 ∧ assocOf t 5 = { AssocSt.init with lastWrite := some 2000000000 } := by
  decide +kernel
theorem test_cause_clear_keeps_a_coincident_cause :
    rd (after (.causeClear 0 TIM_CAUSE 3 2) (fieldsAt0 [(TIM_CAUSE_cause, 7)])) TIM_CAUSE_cause = 6 := by decide +kernel
theorem test_narrow_read_answers_ones :
    (after (.bar0BadAccess 0 0 4 false) State.reset).out = [.readData 0xFFFFFFFF] := by decide +kernel
theorem test_idle_cycle_is_one_nanosecond : tod (idle State.reset) = 1 := by decide +kernel
theorem test_counter_reaches_its_threshold :
    let t := after (.counterIncrement 3 1) { memTile Tile.init [(SYN_CTR_threshold 1, 3), (SYN_CTR_value 1, 2), (SYN_CTR_job_id 1, 1)] with
      fabric := [⟨.incr 1 1 5 0 false, 3, 0, 1, 0, 0⟩], runs := [(0, { oneRun with phase := .running })] }
    rd t (SYN_CTR_value 1) = 3 ∧ t.fabric = [] := by decide +kernel
/-- 03, the MMA bundle of the worked example: its two lower quadwords spell adesc 2 and acnt 2 in the ME slot. -/
theorem test_example_bundle :
    (bundleOps 0 (0x0000080100000000 + 2 ^ 64 * 0x8)).map (·.cmd) =
      [.nop 0 0, .mma { aMeOp with adesc := 2, acnt := 2 }, .nop 0 2, .nop 0 3, .nop 0 4, .nop 0 5] := by decide +kernel

/-- A bundle written out from the encodings of 03: LOOP c1 to pc 5, VLDK, ADDI x1 = x2 + 7, SPASS of 6 pieces, SINC of 4. -/
theorem test_full_bundle :
    (bundleOps 0 (0xA42 + 2 ^ 80 * 0x510C3 + 2 ^ 128 * 0x0000000700002086 + 2 ^ 192 * 0xA08181022 + 2 ^ 232 * 0x600121)).map (·.cmd) =
      [.loop 0 1 5, .nop 0 1, .vldk 0 3 4 5, .addi ⟨0, 1, 2, 0, 0, false, 7⟩, .spass 0 1 2 3 4 5, .sinc 0 9 3] := by
  decide +kernel
/-- Bit 5 of an ME slot without an operation, and an opcode that no row of R63 has. -/
theorem test_reserved_slots : reservedSlot (2 ^ 37) = some 1 ∧ reservedSlot 0x3F = some 0 ∧ reservedSlot 0 = none := by
  decide +kernel

end Sys2Proof.Machine
end

section
/-! ### Host register accesses: writes of several fields, the fields of one register (00_scope.md, R5 to R11) -/

namespace Sys2Proof.Machine

/-- Writing fields of pairwise different keys leaves in each of them the low bits of its value. -/
theorem rd_wrs_mem {l : List (Fld × Nat)} (hd : (l.map (·.1.key)).Nodup) (s : State) {p : Fld × Nat} (hp : p ∈ l) :
    rd (wrs s l) p.1 = p.2 % 2 ^ p.1.w := by
  induction l generalizing s with
  | nil => cases hp
  | cons q l ih =>
    obtain ⟨hq, hl⟩ := List.nodup_cons.1 hd
    change rd (wrs (wr s q.1 q.2) l) p.1 = _
    rcases List.mem_cons.1 hp with rfl | hp
    · rw [rd_wrs_ne _ _ _ fun r hr he => hq (List.mem_map.2 ⟨r, hr, he.symm⟩), rd_wr_self]
    · exact ih hl _ hp

/-- The frame of `wrs`, with the values it leaves. -/
theorem writes_wrs (s : State) {l : List (Fld × Nat)} (hd : (l.map (·.1.key)).Nodup) :
    Writes s (wrs s l) (l.map fun p => (p.1, p.2 % 2 ^ p.1.w)) := by
  refine ⟨wrs_eq s l, fun p hp => ?_, fun g hg => rd_wrs_ne s l g fun p hp => ?_⟩
  · obtain ⟨q, hq, rfl⟩ := List.mem_map.1 hp
    exact rd_wrs_mem hd s hq
  · exact hg p.1 (by simpa [Function.comp_def] using ⟨p.2, hp⟩)

/-! ### Refused accesses (R5, R425) -/

/-- The record of a refused access and its cause bit (R429), as one list of writes. -/
def badAccessRecord (s : State) (off : Nat) (bar2 write : Bool) (log2 fn : Nat) : List (Fld × Nat) :=
  [(HST_BAR0_LOG_offset, off), (HST_BAR0_LOG_bar2, b2n bar2), (HST_BAR0_LOG_write, b2n write), (HST_BAR0_LOG_bytes_log2, log2),
    (HST_BAR0_LOG_function, fn), (HST_BAR0_LOG_valid, 1), (HST_CAUSE_cause, rd s HST_CAUSE_cause ||| 2 ^ 0)]

/-- What those writes leave in the fields. -/
def badAccessLeft (s : State) (off : Nat) (bar2 write : Bool) (log2 fn : Nat) : List (Fld × Nat) :=
  [(HST_BAR0_LOG_offset, off % 2 ^ HST_BAR0_LOG_offset.w), (HST_BAR0_LOG_bar2, b2n bar2), (HST_BAR0_LOG_write, b2n write),
    (HST_BAR0_LOG_bytes_log2, log2 % 2 ^ HST_BAR0_LOG_bytes_log2.w), (HST_BAR0_LOG_function, fn % 2 ^ HST_BAR0_LOG_function.w),
    (HST_BAR0_LOG_valid, 1), (HST_CAUSE_cause, withBit s HST_CAUSE_cause 0)]

theorem logBad_of_not_valid {s : State} (h : rd s HST_BAR0_LOG_valid = 0) (off : Nat) (bar2 write : Bool) (log2 fn : Nat) :
    logBad s off bar2 write log2 fn 0 = wrs s (badAccessRecord s off bar2 write log2 fn) := by
  have hc : ∀ l : List (Fld × Nat), (∀ p ∈ l, HST_CAUSE_cause.key ≠ p.1.key) →
      raise (wrs s l) HST_CAUSE_cause 0 = wrs s (l ++ [(HST_CAUSE_cause, rd s HST_CAUSE_cause ||| 2 ^ 0)]) := by
    intro l hl
    rw [raise, rd_wrs_ne s l _ hl, wrs, wrs, List.foldl_append]
    rfl
  rw [logBad, if_neg (by simp [on, h]), hc]
  · rfl
  · simp [Fld.key, HST_CAUSE_cause, HST_CAUSE, HST_BAR0_LOG, HST_BAR0_LOG_offset, HST_BAR0_LOG_bar2, HST_BAR0_LOG_write,
      HST_BAR0_LOG_bytes_log2, HST_BAR0_LOG_function, HST_BAR0_LOG_valid]

theorem fnUp_iff (s : State) (fn : Nat) :
    fnUp s fn = true ↔ (fnOf s fn).d3 = false ∧ s.boot.held = false ∧ on s PWR_STATUS_tripped = false := by
  simp [fnUp, and_assoc]

/-- What is given out before the writes does not touch the registers. -/
theorem Writes.of_out {s t : State} {o : List Out} {l : List (Fld × Nat)} (h : Writes { s with out := o } t l) :
    Writes s { t with out := s.out } l := by
  obtain ⟨he, hv, hk⟩ := h
  exact ⟨by rw [he], hv, hk⟩

theorem logBad_writes {s : State} (h : rd s HST_BAR0_LOG_valid = 0) (off : Nat) (bar2 write : Bool) (log2 fn : Nat) :
    Writes s (logBad s off bar2 write log2 fn 0)
      (badAccessLeft s off bar2 write log2 fn) := by
  have hb : ∀ b : Bool, b2n b % 2 ^ 1 = b2n b := by decide
  have hl := writes_wrs s (l := badAccessRecord s off bar2 write log2 fn) (by
    simp [badAccessRecord, Fld.key, HST_CAUSE_cause, HST_CAUSE, HST_BAR0_LOG, HST_BAR0_LOG_offset, HST_BAR0_LOG_bar2,
      HST_BAR0_LOG_write, HST_BAR0_LOG_bytes_log2, HST_BAR0_LOG_function, HST_BAR0_LOG_valid])
  rw [logBad_of_not_valid h]
  simpa only [badAccessRecord, badAccessLeft, List.map_cons, List.map_nil, HST_BAR0_LOG_bar2, HST_BAR0_LOG_write, HST_BAR0_LOG_valid, hb,
    Nat.one_mod_two_pow Nat.one_pos, withBit] using hl

/-- A refused access of a function that is up: all-ones for a read, and the record. -/
theorem refuseAccess_writes {s : State} {fn : Nat} (hu : fnUp s fn = true) (hv : rd s HST_BAR0_LOG_valid = 0) (off size : Nat)
    (bar2 w : Bool) :
    (refuseAccess s fn off size bar2 w).out = (if w then s.out else .readData (2 ^ (8 * size) - 1) :: s.out) ∧
      Writes s { refuseAccess s fn off size bar2 w with out := s.out }
        (badAccessLeft s off bar2 w (Nat.log2 size) fn) := by
  obtain ⟨hd3, hheld, -⟩ := (fnUp_iff s fn).1 hu
  have he : refuseAccess s fn off size bar2 w =
      logBad { s with out := if w then s.out else .readData (2 ^ (8 * size) - 1) :: s.out } off bar2 w (Nat.log2 size) fn 0 := by
    cases w <;> simp [refuseAccess, hu, hd3, hheld, emitOut]
  have hw := logBad_writes (s := { s with out := if w then s.out else .readData (2 ^ (8 * size) - 1) :: s.out }) hv off bar2 w
    (Nat.log2 size) fn
  rw [he]
  exact ⟨by rw [hw.1], hw.of_out⟩

/-- Settles O8: every refused access goes through `refuseAccess`, and of a function that is up it leaves the record. -/
theorem refusedHostAccessesAreLogged : Obligations.RefusedHostAccessesAreLogged := by
  unfold Obligations.RefusedHostAccessesAreLogged
  refine ⟨fun s fn off size w hu h8 hv => ⟨_, ?_, refuseAccess_writes hu hv off size false w⟩,
    fun s fn off size w hu h8 h4 hv => ⟨_, ?_, refuseAccess_writes hu hv off size true w⟩⟩
  · simp only [exec, execBar0BadAccess, if_neg h8]
  · simp only [exec, execBar2BadAccess, if_neg (not_or.2 ⟨h8, h4⟩)]


/-! ### The fields of one register (R8) -/

/-- In the register map the fields of a register lie at different bits, all below 64. -/
theorem regMap_los : ∀ r ∈ regMap, (r.flds.map (·.lo)).Nodup ∧ ∀ f ∈ r.flds, f.lo < 64 := by
  decide +kernel

theorem regAt_mem {p : Part} {off : Nat} {x : RegRow × Nat} (h : regAt p off = some x) : x.1 ∈ regMap := by
  obtain ⟨r, hr, he⟩ := List.exists_of_findSome?_eq_some h
  suffices x.1 = r from this ▸ hr
  obtain ⟨-, he⟩ := Option.ite_none_right_eq_some.1 he
  split at he
  · obtain ⟨-, he⟩ := Option.ite_none_right_eq_some.1 he
    rw [← Option.some.inj he]
  · cases he

/-- The fields of a register have different keys. -/
theorem fieldsAt_keys_nodup (p : Part) (off : Nat) : ((fieldsAt p off).map (·.key)).Nodup := by
  unfold fieldsAt
  split
  next r i h =>
    have hlo := (regMap_los r (regAt_mem h)).1
    have he : (r.flds.map fun f => { f with off := off }).map (·.key) = (r.flds.map (·.lo)).map (64 * off + ·) := by
      simp [Fld.key, Function.comp_def]
    rw [he]
    exact hlo.map (add_right_injective (64 * off))
  next => exact List.nodup_nil

theorem off_of_mem_fieldsAt {p : Part} {off : Nat} {f : Fld} (h : f ∈ fieldsAt p off) : f.off = off := by
  unfold fieldsAt at h
  split at h
  · obtain ⟨g, -, rfl⟩ := List.mem_map.1 h
    rfl
  · cases h

theorem eq_of_key_eq {p : Part} {off : Nat} {f g : Fld} (hf : f ∈ fieldsAt p off) (hg : g ∈ fieldsAt p off) (h : f.key = g.key) :
    f = g := List.inj_on_of_nodup_map (fieldsAt_keys_nodup p off) hf hg h

/-- The writes of a value to each selected field of the register at an offset. -/
def fieldWrites (p : Part) (off : Nat) (sel : Fld → Bool) (val : Fld → Nat) : List (Fld × Nat) :=
  ((fieldsAt p off).filter sel).map fun f => (f, val f)

theorem fieldWrites_keys_nodup (p : Part) (off : Nat) (sel : Fld → Bool) (val : Fld → Nat) :
    ((fieldWrites p off sel val).map (·.1.key)).Nodup := by
  have he : (fieldWrites p off sel val).map (·.1.key) = ((fieldsAt p off).filter sel).map (·.key) := by
    simp [fieldWrites, Function.comp_def]
  rw [he]
  exact (fieldsAt_keys_nodup p off).sublist (List.filter_sublist.map _)

theorem mem_fieldWrites {p : Part} {off : Nat} {sel : Fld → Bool} {val : Fld → Nat} {q : Fld × Nat} :
    q ∈ fieldWrites p off sel val ↔ (q.1 ∈ fieldsAt p off ∧ sel q.1 = true) ∧ q.2 = val q.1 := by
  obtain ⟨f, v⟩ := q
  simp only [fieldWrites, List.mem_map, List.mem_filter, Prod.mk.injEq]
  constructor
  · rintro ⟨g, hg, rfl, rfl⟩
    exact ⟨hg, rfl⟩
  · rintro ⟨hg, rfl⟩
    exact ⟨f, hg, rfl, rfl⟩

section
variable (s : State) {p : Part} {off : Nat} {sel : Fld → Bool} (val : Fld → Nat) {f : Fld}

/-- A selected field takes its value. -/
theorem rd_fieldWrites (hf : f ∈ fieldsAt p off) (hs : sel f = true) :
    rd (wrs s (fieldWrites p off sel val)) f = val f % 2 ^ f.w :=
  rd_wrs_mem (fieldWrites_keys_nodup p off sel val) s (p := (f, val f)) (mem_fieldWrites.2 ⟨⟨hf, hs⟩, rfl⟩)

/-- The other fields of the register keep theirs. -/
theorem rd_fieldWrites_unselected (hf : f ∈ fieldsAt p off) (hs : sel f = false) :
    rd (wrs s (fieldWrites p off sel val)) f = rd s f := by
  refine rd_wrs_ne s _ f fun q hq he => ?_
  obtain ⟨⟨hq, hsel⟩, -⟩ := mem_fieldWrites.1 hq
  rw [← eq_of_key_eq hf hq he, hs] at hsel
  cases hsel

/-- So do the fields of every other register. -/
theorem fieldsKept_fieldWrites : FieldsKept s (wrs s (fieldWrites p off sel val)) (fieldsAt p off) :=
  fun g hg => rd_wrs_ne s _ g fun _ hq => hg _ (mem_fieldWrites.1 hq).1.1

end

/-! ### Writes of plain registers (R8, R9, R411) -/

/-- A plain write is the write of the fields that take it, but for the enable of a pair link and the spares of a tile. -/
theorem plainWrite_eq {s : State} {off : Nat} (w : Nat) (h0 : off ≠ NET_PAIR_CFG 0) (h1 : off ≠ NET_PAIR_CFG 1)
    (hu : ∀ u, off ≠ REL_DPU u) :
    plainWrite s off w = wrs s (fieldWrites s.part off
      (fun f => !fieldLocked s f (w / 2 ^ f.lo % 2 ^ f.w) && (f.acc == .rw || f.staged)) fun f => w / 2 ^ f.lo % 2 ^ f.w) := by
  have hw : ∀ (b : Bool) (t : State) (f : Fld) (v : Nat), (if b then t else wr t f v) = if !b then wr t f v else t := by
    intro b t f v
    cases b <;> rfl
  simp only [plainWrite, hu, false_and, and_false, if_false, List.foldl_cons, List.foldl_nil, h0, h1, hw, wrs, fieldWrites,
    List.foldl_map, ← List.foldl_filter, List.filter_filter]

theorem exec_plainWrite {s : State} {off : Nat} {v : Word64} (hu : fnUp s 0 = true) (h8 : off % 8 = 0)
    (ha : actingWrite 0 off v s = none) (hc : (fieldsAt s.part off).any (·.acc == .w1c) = false) :
    exec (.registerWrite 0 off v) s = .next (plainWrite s off v.toNat) := by
  simp [exec, execRegisterWrite, hu, h8, ha, hc]

/-- Settles O6: the write is a list of writes of the fields that take it; a virtual function without the right writes nothing. -/
theorem hostRegisterWriteSetsFields : Obligations.HostRegisterWriteSetsFields := by
  unfold Obligations.HostRegisterWriteSetsFields
  refine ⟨fun s off v hu h8 ha hc h0 h1 hd => ⟨_, exec_plainWrite hu h8 ha hc, ?_⟩, fun s fn off v hfn hu h8 ha hc hv => ?_⟩
  · rw [plainWrite_eq _ h0 h1 hd]
    refine ⟨fun f hf hrw hl => ?_, fun f hf hro => ?_, fieldsKept_fieldWrites s _, wrs_eq _ _⟩
    · rw [rd_fieldWrites s _ hf (by simp [hl, hrw]), Nat.mod_mod]
    · refine rd_fieldWrites_unselected s _ hf ?_
      rcases hro with h | h <;> simp [h, Fld.staged]
  · simp [exec, execRegisterWrite, hfn, hu, h8, ha, hc, hv]

/-! ### Reads that clear (R8, R11, R54) -/

theorem clearRead_eq (s : State) (off hits amounts : Nat) :
    clearRead s off hits amounts = wrs s (fieldWrites s.part off (·.acc == .rc) fun f =>
      keptAfter s f (bitOf hits f.lo) (amounts / 2 ^ f.lo % 2 ^ f.w)) := by
  simp only [clearRead, wrs, fieldWrites, List.foldl_map]

/-- The registers whose reads have an effect of their own have no RC field. -/
theorem no_rc_die_status (p : Part) : ∀ f ∈ fieldsAt p HST_DIE_STATUS, f.acc ≠ .rc := by
  cases p <;> decide +kernel

theorem no_rc_tim_window (p : Part) : ∀ f ∈ fieldsAt p TIM_WINDOW, f.acc ≠ .rc := by
  cases p <;> decide +kernel

theorem isFill_iff (f : Fld) : f.isFill = true ↔ ∃ u, f.off = TIM_XFILL u := by
  simp only [Fld.isFill, TIM_XFILL, Bool.and_eq_true, decide_eq_true_eq, beq_iff_eq]
  constructor
  · rintro ⟨h, hm⟩
    exact ⟨(f.off - 0x1000208) / 0x10000, by omega⟩
  · rintro ⟨u, hu⟩
    omega

theorem answerRead_of_fnUp {s : State} {fn : Nat} (hu : fnUp s fn = true) (v : Nat) : answerRead s fn v = emitOut s (.readData v) := by
  obtain ⟨hd3, hheld, -⟩ := (fnUp_iff s fn).1 hu
  simp [answerRead, hd3, hheld]

theorem exec_readClear {s : State} {off : Nat} (hu : fnUp s 0 = true) (h8 : off % 8 = 0) (hd : off ≠ HST_DIE_STATUS)
    (hw : off ≠ TIM_WINDOW) (hits amt : Word64) :
    exec (.readClear 0 off hits amt) s =
      .next (clearRead (emitOut s (.readData (readReg s 0 off))) off hits.toNat amt.toNat) := by
  simp [exec, execReadClear, h8, answerRead_of_fnUp hu, readReaches, hu, hd, hw]

/-- What a read that clears leaves, before what `keptAfter` means is told for the register. -/
theorem clearRead_frame (s : State) (o : Out) (off hits amounts : Nat) :
    let t := clearRead (emitOut s o) off hits amounts
    t.out = o :: s.out ∧
      (∀ f ∈ fieldsAt s.part off, f.acc = .rc →
        rd t f = keptAfter s f (bitOf hits f.lo) (amounts / 2 ^ f.lo % 2 ^ f.w) % 2 ^ f.w) ∧
      (∀ f ∈ fieldsAt s.part off, f.acc ≠ .rc → rd t f = rd s f) ∧
      FieldsKept s t (fieldsAt s.part off) ∧ t = { s with regs := t.regs, out := t.out } := by
  intro t
  have ht : t = _ := clearRead_eq _ _ _ _
  rw [ht]
  refine ⟨wrs_out _ _, fun f hf hrc => rd_fieldWrites _ _ hf (by simp [hrc]), fun f hf hrc => ?_,
    fieldsKept_fieldWrites (emitOut s o) _, by rw [wrs_eq]; rfl⟩
  exact rd_fieldWrites_unselected (emitOut s o) _ hf (by simpa using hrc)

theorem keptAfter_counter {s : State} {f : Fld} (h : ∀ u, f.off ≠ TIM_XFILL u) (hit : Bool) (e : Nat) :
    keptAfter s f hit e = if hit then e else 0 := by
  rw [keptAfter, if_neg]
  rw [isFill_iff]
  exact fun ⟨u, hu⟩ => h u hu

theorem keptAfter_fill {s : State} {f : Fld} {u : Nat} (h : f.off = TIM_XFILL u) (hit : Bool) (e : Nat) :
    keptAfter s f hit e =
      if hit = false then fillOf s f else if f.lo % 16 = 0 then min (fillOf s f) e else max (fillOf s f) e := by
  rw [keptAfter, if_pos ((isFill_iff f).2 ⟨u, h⟩)]
  cases hit <;> rfl

theorem keptAfter_counter_mod {s : State} {f : Fld} (h : ∀ u, f.off ≠ TIM_XFILL u) (hits amounts : Nat) :
    keptAfter s f (bitOf hits f.lo) (amounts / 2 ^ f.lo % 2 ^ f.w) % 2 ^ f.w =
      if bitOf hits f.lo then amounts / 2 ^ f.lo % 2 ^ f.w else 0 := by
  rw [keptAfter_counter h]
  split
  · exact Nat.mod_mod _ _
  · exact Nat.zero_mod _

/-- Settles O55: the read gives the register out before the events, and `keptAfter` says what they leave. -/
theorem coincidentEventsSurviveAReadThatClears : Obligations.CoincidentEventsSurviveAReadThatClears := by
  unfold Obligations.CoincidentEventsSurviveAReadThatClears
  intro s off hits amt f hu h8 hf hrc
  have hd : off ≠ HST_DIE_STATUS := fun h => no_rc_die_status _ f (h ▸ hf) hrc
  have hw : off ≠ TIM_WINDOW := fun h => no_rc_tim_window _ f (h ▸ hf) hrc
  obtain ⟨hout, hrcs, hkeep, -, hrest⟩ := clearRead_frame s (.readData (readReg s 0 off)) off hits.toNat amt.toNat
  have hoff := off_of_mem_fieldsAt hf
  refine ⟨_, exec_readClear hu h8 hd hw hits amt, hout, fun hx => ?_, fun u e hx he => ?_, hkeep, hrest⟩
  · rw [hrcs f hf hrc, keptAfter_counter_mod (by rwa [hoff])]
  · rw [hrcs f hf hrc, keptAfter_fill (hoff.trans hx), he]

/-! ### Cause registers (R8, R10) -/

/-- The cause fields that the host clears outside the tile blocks. -/
def hostCauses : List Fld :=
  [TIM_CAUSE_cause, LPD_CAUSE_cause, HQ_CAUSE_cause, CTL_DISP_CAUSE_cause, NET_CAUSE_cause, NET_SPU_CAUSE_cause, GRD_CAUSE_cause,
    AUD_CAUSE_cause, REL_CAUSE_cause, DBL_CAUSE_cause, PWR_CAUSE_cause, SEC_CAUSE_cause, HST_CAUSE_cause]

/-- The fields of the records that clearing one of them can release. -/
def recordFields : List Fld :=
  [SYN_STALE_INFO_valid, NET_SPU_ERR_INFO_valid, TIM_XOVR_INFO_tile, TIM_XOVR_INFO_link, TIM_XOVR_INFO_underrun,
    TIM_XOVR_INFO_overrun, TIM_XOVR_INFO_window, NET_COLL_ERR_cause, NET_COLL_ERR_valid, GRD_ERR_cause, GRD_ERR_valid,
    DBL_SPLIT_INFO_valid, HST_BAR0_LOG_valid, HST_BAR4_LOG_valid]

theorem hostCauses_w1c (p : Part) : ∀ f ∈ hostCauses, (fieldsAt p f.off).find? (·.acc == .w1c) = some f := by
  cases p <;> decide +kernel

theorem hostCauses_off : ∀ f ∈ hostCauses, f.off < 0x1000000 := by
  decide

theorem hostCauses_key_ne_record : ∀ f ∈ hostCauses, ∀ g ∈ recordFields, f.key ≠ g.key := by
  decide

theorem regFrame_releaseIf (s : State) (b : Bool) {l : List (Fld × Nat)} (h : ∀ p ∈ l, p.1 ∈ recordFields) :
    RegFrame s (releaseIf s b l) recordFields := by
  cases b
  · exact RegFrame.refl s _
  · exact (regFrame_wrs s l).mono fun f hf => by
      obtain ⟨p, hp, rfl⟩ := List.mem_map.1 hf
      exact h p hp

/-- Outside the tile blocks, clearing a cause touches only records. -/
theorem regFrame_releaseRecords (s : State) {off : Nat} (h : off < 0x1000000) (c : Nat) :
    RegFrame s (releaseRecords s off c) recordFields := by
  unfold releaseRecords
  rw [if_neg (by omega)]
  extract_lets k s1
  have h1 : RegFrame s s1 recordFields := regFrame_releaseIf s _ (by decide)
  split
  · exact regFrame_releaseIf s _ (by decide)
  · split
    · exact regFrame_releaseIf s _ (by decide)
    · split
      · exact regFrame_releaseIf s _ (by decide)
      · split
        · exact regFrame_releaseIf s _ (by decide)
        · split
          · exact regFrame_releaseIf s _ (by decide)
          · split
            · exact regFrame_releaseIf s _ (by decide)
            · split
              · exact h1.trans (regFrame_releaseIf s1 _ (by decide))
              · exact RegFrame.refl s _

theorem RegFrame.eq_regs {s t : State} {l : List Fld} (h : RegFrame s t l) : t = { s with regs := t.regs } := by
  conv_rhs => rw [← h.rest]

theorem clearCause_eq {s : State} {off : Nat} {f : Fld} (h : (fieldsAt s.part off).find? (·.acc == .w1c) = some f) (v : Word64)
    (co : Nat) :
    ∃ c, clearCause s 0 off v.toNat co = releaseRecords (wr s f ((rd s f ^^^ (rd s f &&& v.toNat)) ||| co)) off c := by
  have hv : v.toNat &&& (2 ^ 64 - 1) = v.toNat := by rw [Nat.and_two_pow_sub_one_eq_mod, Nat.mod_eq_of_lt v.isLt]
  simp only [clearCause, h, clearable, if_true, hv]
  exact ⟨_, rfl⟩

/-- A clear of a cause outside the tile blocks. -/
theorem exec_causeClear {s : State} {f : Fld} (hu : fnUp s 0 = true) (hf : f ∈ hostCauses) (v co : Word64) :
    Gives (.causeClear 0 f.off v co) s fun t =>
      rd t f = ((rd s f ^^^ (rd s f &&& v.toNat)) ||| co.toNat) % 2 ^ f.w ∧ t = { s with regs := t.regs } := by
  obtain ⟨c, hc⟩ := clearCause_eq (hostCauses_w1c s.part f hf) v co.toNat
  have hr := regFrame_releaseRecords (wr s f ((rd s f ^^^ (rd s f &&& v.toNat)) ||| co.toNat)) (hostCauses_off f hf) c
  refine ⟨_, by simp only [exec, execCauseClear, hu, if_true, hc], ?_, hr.eq_regs⟩
  rw [hr.kept f (hostCauses_key_ne_record f hf), rd_wr_self]

/-! ### Reads (R8, R11, R41) -/

/-- A read of TIM_WINDOW latches the start of the window it returns. -/
theorem exec_timWindowRead {s : State} (hu : fnUp s 0 = true) :
    Gives (.timWindowRead 0) s fun t =>
      t.out = .readData (readReg s 0 TIM_WINDOW) :: s.out ∧ rd t TIM_WIN_TOD_win_tod = s.time.winTod % 2 ^ 64 ∧
      FieldsKept s t [TIM_WIN_TOD_win_tod] ∧ t = { s with regs := t.regs, out := t.out } := by
  refine ⟨latchWindow (emitOut s (.readData (readReg s 0 TIM_WINDOW))), ?_, rfl, rd_wr_self _ _ _,
    fieldsKept_wr (emitOut s _) _ _, rfl⟩
  simp only [exec, execTimWindowRead, answerRead_of_fnUp hu, hu, if_true]

/-- Settles O7: reads that clear, the latch of TIM_WIN_TOD, and writes of ones. -/
theorem hostReadsAndCauseClears : Obligations.HostReadsAndCauseClears := by
  unfold Obligations.HostReadsAndCauseClears
  refine ⟨fun s off hits amt hu h8 hd hw hx => ?_, fun s hu => exec_timWindowRead hu,
    fun s v co f hu hf => exec_causeClear hu hf v co⟩
  obtain ⟨hout, hrc, hrest⟩ := clearRead_frame s (.readData (readReg s 0 off)) off hits.toNat amt.toNat
  refine ⟨_, exec_readClear hu h8 hd hw hits amt, hout, fun f hf ha => ?_, hrest⟩
  rw [hrc f hf ha, keptAfter_counter_mod (by rwa [off_of_mem_fieldsAt hf])]

end Sys2Proof.Machine
end

section
namespace Sys2Proof.Machine

/-! ## The part never changes (R1)

One lemma for each operation of the model: `f_part` for a function to a state, `f_keepsPart` for one to an outcome. They stand
in the order of the model's definitions, each proved from those of the functions it calls, and end in `exec_keepsPart`. -/

/-- A command that answers a next state leaves the part alone. Where a body picks its state by a match on a long computation,
the goal is kept in this form: an equation between projections would have the kernel evaluate that computation. -/
def PartKept (s : State) (o : Host.Outcome State Fault Refusal) : Prop := ∀ t, o = .next t → t.part = s.part

@[simp] theorem partKept_next (s t : State) : PartKept s (.next t) ↔ t.part = s.part := by simp [PartKept]

theorem keepsPart_of_part {s t : State} (h : t.part = s.part) : PartKept s (.next t) := (partKept_next s t).2 h

theorem part_of_keepsPart {s t : State} (h : PartKept s (.next t)) : t.part = s.part := (partKept_next s t).1 h

theorem keepsPart_ite {s a b : State} {c : Prop} [Decidable c] (ha : PartKept s (.next a)) (hb : PartKept s (.next b)) :
    PartKept s (.next (if c then a else b)) := by
  split
  · exact ha
  · exact hb

theorem partKept_ite {s : State} {c : Prop} [Decidable c] {a b : Host.Outcome State Fault Refusal} :
    PartKept s (if c then a else b) ↔ (c → PartKept s a) ∧ (¬ c → PartKept s b) := by
  by_cases hc : c <;> simp [hc]

theorem part_of_pair_eq {α : Type} {p : State × α} {s t : State} {a : α} (h : p = (t, a)) (hp : p.1.part = s.part) :
    t.part = s.part := by
  subst h
  exact hp

/-- A fold of steps that keep the part keeps it. -/
@[simp] theorem foldl_part {α : Type} (g : State → α → State) (l : List α) (s : State)
    (h : ∀ s a, (g s a).part = s.part) : (l.foldl g s).part = s.part := by
  induction l generalizing s with
  | nil => rfl
  | cons x r ih => rw [List.foldl_cons, ih, h]

/-! ### Operations of Machine/Clock -/

@[simp] theorem idle_part (s : State) : (idle s).part = s.part := by
  unfold idle
  dsimp only
  repeat' split
  all_goals simp

/-! ### Operations of Machine/Ops -/

@[simp] theorem writeBytes_part (s : State) (a : Nat) (b : Bytes) : (writeBytes s a b).part = s.part := by rw [writeBytes_eq]

@[simp] theorem writeMasked_part (s : State) (a : Nat) (b : List (Option Byte)) : (writeMasked s a b).part = s.part := by
  induction b generalizing s a with
  | nil => rfl
  | cons x r ih => cases x <;> simp [writeMasked, ih]

@[simp] theorem noteOther_part (s : State) (a n : Nat) : (noteOther s a n).part = s.part := by simp [noteOther]
@[simp] theorem writeOther_part (s : State) (a : Nat) (bs : Bytes) : (writeOther s a bs).part = s.part := by simp [writeOther]

/-! ### Operations of Machine/Tiles -/

@[simp] theorem runDue_part (s : State) (t bound : Nat) : (runDue s t bound).part = s.part := (runDue_frame s t bound).part
@[simp] theorem flushMicros_part (s : State) (t : Nat) : (flushMicros s t).part = s.part := by simp [flushMicros]
@[simp] theorem syncTray_part (s : State) (t : Nat) : (syncTray s t).part = s.part := by simp [syncTray, apply_ite State.part]
@[simp] theorem setTick_part (s : State) (t tick : Nat) : (setTick s t tick).part = s.part := by simp [setTick]
@[simp] theorem catchUp_part (s : State) (t : Nat) : (catchUp s t).part = s.part := by simp [catchUp, apply_ite State.part]
@[simp] theorem haltTile_part (s : State) (t st : Nat) : (haltTile s t st).part = s.part := by simp [haltTile]

@[simp] theorem noteErr_part (s : State) (t code slot pc : Nat) : (noteErr s t code slot pc).part = s.part := by
  simp [noteErr, apply_ite State.part]

@[simp] theorem recordErr_part (s : State) (t code slot pc : Nat) : (recordErr s t code slot pc).part = s.part := by
  simp [recordErr]

@[simp] theorem stopTile_part (s : State) (t : Nat) : (stopTile s t).part = s.part := by simp [stopTile, apply_ite State.part]

@[simp] theorem progErrAt_part (s : State) (t code slot pc : Nat) : (progErrAt s t code slot pc).part = s.part := by
  unfold progErrAt
  dsimp only
  repeat' split
  all_goals simp

@[simp] theorem progErr_part (s : State) (t code slot : Nat) : (progErr s t code slot).part = s.part := by simp [progErr]

@[simp] theorem recordSlips_part (s : State) (t kind slot n : Nat) : (recordSlips s t kind slot n).part = s.part := by
  simp [recordSlips, apply_ite State.part]

@[simp] theorem countHeld_part (s : State) (t kind slot n : Nat) : (countHeld s t kind slot n).part = s.part := by
  simp [countHeld, apply_ite State.part]

@[simp] theorem holdTick_part (s : State) (t kind slot : Nat) (stall : Bool) : (holdTick s t kind slot stall).part = s.part := by
  simp [holdTick, apply_ite State.part]

theorem issueOp_part {s : State} {t slot : Nat} {badEnc : Bool} {holds : List Nat} {stall : Bool} {body : State → State}
    (h : ∀ s, (body s).part = s.part) : (issueOp s t slot badEnc holds stall body).part = s.part := by
  unfold issueOp
  repeat' split
  all_goals simp [h]

theorem issueOp_keepsPart {s s₀ : State} {t slot : Nat} {badEnc : Bool} {holds : List Nat} {stall : Bool} {body : State → State}
    (hs : s.part = s₀.part) (h : ∀ s, PartKept s (.next (body s))) : PartKept s₀ (.next (issueOp s t slot badEnc holds stall body)) :=
  keepsPart_of_part ((issueOp_part fun s => part_of_keepsPart (h s)).trans hs)

theorem upset_cases {P : State → Prop} {f g h : Nat → State} (u : Upset) (hf : ∀ a, P (f a)) (hg : ∀ t, P (g t))
    (hh : ∀ l, P (h l)) : P (match u with | .storage a => f a | .array t => g t | .crc l => h l) := by
  cases u with
  | storage a => exact hf a
  | array t => exact hg t
  | crc l => exact hh l

theorem countUpset_keepsPart (s : State) (u : Upset) : PartKept s (.next (countUpset s u)) := by
  refine upset_cases (P := fun x => PartKept s (.next x)) u (fun a => ?_) (fun t => by simp) fun l => by simp
  split
  · split <;> simp
  all_goals simp

@[simp] theorem countUpset_part (s : State) (u : Upset) : (countUpset s u).part = s.part :=
  part_of_keepsPart (countUpset_keepsPart s u)

@[simp] theorem findUpsets_part (s : State) (f : Upset → Bool) : (findUpsets s f).part = s.part := by
  simp [findUpsets, apply_ite State.part]

@[simp] theorem readFinds_part (s : State) (a n : Nat) : (readFinds s a n).part = s.part := by simp [readFinds]

@[simp] theorem endBundle_part (s : State) (t : Nat) (lims : Store Nat) (target : Option Nat) (cost : Nat) :
    (endBundle s t lims target cost).part = s.part := by
  simp [endBundle, apply_ite State.part]

theorem issueSeq_part {s : State} {t : Nat} {badEnc : Bool} {body : State → State × Option Nat × Nat}
    (h : ∀ s, (body s).1.part = s.part) : (issueSeq s t badEnc body).part = s.part := by
  refine issueOp_part fun s => ?_
  dsimp only
  split <;> simp [h]

theorem issueSeq_keepsPart {s : State} {t : Nat} {badEnc : Bool} {body : State → State × Option Nat × Nat}
    (h : ∀ s, PartKept s (.next (body s).1)) : PartKept s (.next (issueSeq s t badEnc body)) :=
  keepsPart_of_part (issueSeq_part fun s => part_of_keepsPart (h s))

@[simp] theorem endWait_part (s : State) (t : Nat) (left : List Wait) (tick : Nat) : (endWait s t left tick).part = s.part := by
  unfold endWait
  dsimp only
  repeat' split
  all_goals simp

@[simp] theorem noteDelivered_part (s : State) (t : Nat) : (noteDelivered s t).part = s.part := by
  simp [noteDelivered, apply_ite State.part]

/-! ### Operations of Machine/Aide -/

@[simp] theorem aidErr_part (s : State) (t cause code aide op : Nat) : (aidErr s t cause code aide op).part = s.part := by
  simp [aidErr, apply_ite State.part]

@[simp] theorem aidAlu_part (a : AidOp) (u : AidUse) (lat : Nat) (extra : List Res) (f : Tile → Nat → Nat) (s : State) :
    (aidAlu a u lat extra f s).part = s.part :=
  issueOp_part fun s => by simp

@[simp] theorem aidPred_part (a : AidOp) (u : AidUse) (f : Tile → Nat → Bool) (s : State) : (aidPred a u f s).part = s.part :=
  issueOp_part fun s => by simp

@[simp] theorem opAdd_keepsPart (a : AidOp) (s : State) : PartKept s (opAdd a s) := by simp [opAdd]
@[simp] theorem opSub_keepsPart (a : AidOp) (s : State) : PartKept s (opSub a s) := by simp [opSub]
@[simp] theorem opAnd_keepsPart (a : AidOp) (s : State) : PartKept s (opAnd a s) := by simp [opAnd]
@[simp] theorem opOr_keepsPart (a : AidOp) (s : State) : PartKept s (opOr a s) := by simp [opOr]
@[simp] theorem opXor_keepsPart (a : AidOp) (s : State) : PartKept s (opXor a s) := by simp [opXor]
@[simp] theorem opAddi_keepsPart (a : AidOp) (s : State) : PartKept s (opAddi a s) := by simp [opAddi]
@[simp] theorem opAndi_keepsPart (a : AidOp) (s : State) : PartKept s (opAndi a s) := by simp [opAndi]
@[simp] theorem opOri_keepsPart (a : AidOp) (s : State) : PartKept s (opOri a s) := by simp [opOri]
@[simp] theorem opXori_keepsPart (a : AidOp) (s : State) : PartKept s (opXori a s) := by simp [opXori]
@[simp] theorem opLih_keepsPart (a : AidOp) (s : State) : PartKept s (opLih a s) := by simp [opLih]
@[simp] theorem opMin_keepsPart (a : AidOp) (s : State) : PartKept s (opMin a s) := by simp [opMin]
@[simp] theorem opMax_keepsPart (a : AidOp) (s : State) : PartKept s (opMax a s) := by simp [opMax]
@[simp] theorem opMinu_keepsPart (a : AidOp) (s : State) : PartKept s (opMinu a s) := by simp [opMinu]
@[simp] theorem opMaxu_keepsPart (a : AidOp) (s : State) : PartKept s (opMaxu a s) := by simp [opMaxu]
@[simp] theorem opAidx_keepsPart (a : AidOp) (s : State) : PartKept s (opAidx a s) := by simp [opAidx]
@[simp] theorem opMul_keepsPart (a : AidOp) (s : State) : PartKept s (opMul a s) := by simp [opMul]
@[simp] theorem opMulhu_keepsPart (a : AidOp) (s : State) : PartKept s (opMulhu a s) := by simp [opMulhu]
@[simp] theorem opMulhs_keepsPart (a : AidOp) (s : State) : PartKept s (opMulhs a s) := by simp [opMulhs]
@[simp] theorem opClmul_keepsPart (a : AidOp) (s : State) : PartKept s (opClmul a s) := by simp [opClmul]
@[simp] theorem opMuli_keepsPart (a : AidOp) (s : State) : PartKept s (opMuli a s) := by simp [opMuli]
@[simp] theorem opSll_keepsPart (a : AidOp) (s : State) : PartKept s (opSll a s) := by simp [opSll]
@[simp] theorem opSrl_keepsPart (a : AidOp) (s : State) : PartKept s (opSrl a s) := by simp [opSrl]
@[simp] theorem opSra_keepsPart (a : AidOp) (s : State) : PartKept s (opSra a s) := by simp [opSra]
@[simp] theorem opRotr_keepsPart (a : AidOp) (s : State) : PartKept s (opRotr a s) := by simp [opRotr]
@[simp] theorem opSel_keepsPart (a : AidOp) (s : State) : PartKept s (opSel a s) := by simp [opSel]
@[simp] theorem opSlt_keepsPart (a : AidOp) (s : State) : PartKept s (opSlt a s) := by simp [opSlt]
@[simp] theorem opSltu_keepsPart (a : AidOp) (s : State) : PartKept s (opSltu a s) := by simp [opSltu]
@[simp] theorem opExt_keepsPart (a : AidOp) (s : State) : PartKept s (opExt a s) := by simp [opExt]
@[simp] theorem opHash_keepsPart (a : AidOp) (s : State) : PartKept s (opHash a s) := by simp [opHash]
@[simp] theorem opPeq_keepsPart (a : AidOp) (s : State) : PartKept s (opPeq a s) := by simp [opPeq]
@[simp] theorem opPne_keepsPart (a : AidOp) (s : State) : PartKept s (opPne a s) := by simp [opPne]
@[simp] theorem opPlt_keepsPart (a : AidOp) (s : State) : PartKept s (opPlt a s) := by simp [opPlt]
@[simp] theorem opPltu_keepsPart (a : AidOp) (s : State) : PartKept s (opPltu a s) := by simp [opPltu]
@[simp] theorem opPge_keepsPart (a : AidOp) (s : State) : PartKept s (opPge a s) := by simp [opPge]
@[simp] theorem opPgeu_keepsPart (a : AidOp) (s : State) : PartKept s (opPgeu a s) := by simp [opPgeu]
@[simp] theorem opPeqi_keepsPart (a : AidOp) (s : State) : PartKept s (opPeqi a s) := by simp [opPeqi]
@[simp] theorem opPlti_keepsPart (a : AidOp) (s : State) : PartKept s (opPlti a s) := by simp [opPlti]
@[simp] theorem opPand_keepsPart (a : AidOp) (s : State) : PartKept s (opPand a s) := by simp [opPand]
@[simp] theorem opPor_keepsPart (a : AidOp) (s : State) : PartKept s (opPor a s) := by simp [opPor]
@[simp] theorem opPxor_keepsPart (a : AidOp) (s : State) : PartKept s (opPxor a s) := by simp [opPxor]
@[simp] theorem opPany_keepsPart (a : AidOp) (s : State) : PartKept s (opPany a s) := by simp [opPany]
@[simp] theorem opPall_keepsPart (a : AidOp) (s : State) : PartKept s (opPall a s) := by simp [opPall]

@[simp] theorem aidLoad_part (a : AidOp) (op n lat : Nat) (sext : Bool) (acc : Nat → Nat → Nat → Nat → Nat ⊕ Nat) (s : State) :
    (aidLoad a op n lat sext acc s).part = s.part :=
  issueOp_part fun s => by
    split
    · exact aidErr_part ..
    · exact (modTile_part _ _ _).trans (foldl_part _ _ _ fun s p => readFinds_part _ _ _)

@[simp] theorem aidStore_part (a : AidOp) (op n lat : Nat) (acc : Nat → Nat → Nat → Nat → Nat ⊕ Nat) (s : State) :
    (aidStore a op n lat acc s).part = s.part :=
  issueOp_part fun s => by split <;> simp

@[simp] theorem opLd8_keepsPart (a : AidOp) (s : State) : PartKept s (opLd8 a s) := by simp [opLd8]
@[simp] theorem opLd16_keepsPart (a : AidOp) (s : State) : PartKept s (opLd16 a s) := by simp [opLd16]
@[simp] theorem opLd32_keepsPart (a : AidOp) (s : State) : PartKept s (opLd32 a s) := by simp [opLd32]
@[simp] theorem opLd64_keepsPart (a : AidOp) (s : State) : PartKept s (opLd64 a s) := by simp [opLd64]
@[simp] theorem opLd8s_keepsPart (a : AidOp) (s : State) : PartKept s (opLd8s a s) := by simp [opLd8s]
@[simp] theorem opLd16s_keepsPart (a : AidOp) (s : State) : PartKept s (opLd16s a s) := by simp [opLd16s]
@[simp] theorem opLd32s_keepsPart (a : AidOp) (s : State) : PartKept s (opLd32s a s) := by simp [opLd32s]
@[simp] theorem opSt8_keepsPart (a : AidOp) (s : State) : PartKept s (opSt8 a s) := by simp [opSt8]
@[simp] theorem opSt16_keepsPart (a : AidOp) (s : State) : PartKept s (opSt16 a s) := by simp [opSt16]
@[simp] theorem opSt32_keepsPart (a : AidOp) (s : State) : PartKept s (opSt32 a s) := by simp [opSt32]
@[simp] theorem opSt64_keepsPart (a : AidOp) (s : State) : PartKept s (opSt64 a s) := by simp [opSt64]
@[simp] theorem opGld32_keepsPart (a : AidOp) (s : State) : PartKept s (opGld32 a s) := by simp [opGld32]
@[simp] theorem opGld64_keepsPart (a : AidOp) (s : State) : PartKept s (opGld64 a s) := by simp [opGld64]
@[simp] theorem opGst32_keepsPart (a : AidOp) (s : State) : PartKept s (opGst32 a s) := by simp [opGst32]
@[simp] theorem opGst64_keepsPart (a : AidOp) (s : State) : PartKept s (opGst64 a s) := by simp [opGst64]

@[simp] theorem aidDecode_part (a : AidOp) (op off n : Nat) (val : Nat → Nat) (s : State) :
    (aidDecode a op off n val s).part = s.part :=
  issueOp_part fun s => by
    split
    · simp
    · split
      · simp
      · split
        · simp
        · exact (modTile_part _ _ _).trans (foldl_part _ _ _ fun s p => readFinds_part _ _ _)

@[simp] theorem opDecf_keepsPart (a : AidOp) (s : State) : PartKept s (opDecf a s) := by simp [opDecf]
@[simp] theorem opDeca_keepsPart (a : AidOp) (s : State) : PartKept s (opDeca a s) := by simp [opDeca]

@[simp] theorem opRoute_keepsPart (a : AidOp) (s : State) : PartKept s (opRoute a s) :=
  issueOp_keepsPart rfl fun _ => keepsPart_of_part ((foldl_part _ _ _ fun s _ => sendItem_part s _).trans (modTile_part _ _ _))

@[simp] theorem aidLocker_part (a : AidOp) (op : Nat) (k : LkKind) (s : State) : (aidLocker a op k s).part = s.part :=
  issueOp_part fun s => by
    dsimp only
    repeat' split
    all_goals simp

@[simp] theorem opLkfetch_keepsPart (a : AidOp) (s : State) : PartKept s (opLkfetch a s) := by simp [opLkfetch]
@[simp] theorem opLkstore_keepsPart (a : AidOp) (s : State) : PartKept s (opLkstore a s) := by simp [opLkstore]
@[simp] theorem opLkappend_keepsPart (a : AidOp) (s : State) : PartKept s (opLkappend a s) := by simp [opLkappend]

/-! ### Operations of Machine/Sequencer -/

@[simp] theorem opNop_keepsPart (t slot : Nat) (s : State) : PartKept s (opNop t slot s) := by
  refine keepsPart_of_part ?_
  split
  · exact issueSeq_part fun _ => rfl
  · exact issueOp_part fun _ => rfl

@[simp] theorem opSetlim_keepsPart (t : Nat) (c : BitVec 3) (limit : BitVec 20) (s : State) : PartKept s (opSetlim t c limit s) :=
  issueSeq_keepsPart fun s => by simp

@[simp] theorem opLoop_keepsPart (t : Nat) (c : BitVec 3) (endPc : BitVec 14) (s : State) : PartKept s (opLoop t c endPc s) :=
  issueSeq_keepsPart fun s => by simp

@[simp] theorem opJump_keepsPart (t : Nat) (target : BitVec 14) (s : State) : PartKept s (opJump t target s) :=
  issueSeq_keepsPart fun s => by simp

@[simp] theorem opBrc_keepsPart (t : Nat) (k : BitVec 2) (sense : Bool) (target : BitVec 14) (s : State) :
    PartKept s (opBrc t k sense target s) :=
  issueSeq_keepsPart fun s => by split <;> simp

@[simp] theorem opSetcmp_keepsPart (t : Nat) (k : BitVec 2) (c : BitVec 3) (cond : BitVec 2) (imm : BitVec 16) (s : State) :
    PartKept s (opSetcmp t k c cond imm s) :=
  issueSeq_keepsPart fun s => by simp

@[simp] theorem recordLate_part (s : State) (t first len : Nat) : (recordLate s t first len).part = s.part := by
  simp [recordLate, apply_ite State.part]

@[simp] theorem opWaitbell_keepsPart (t : Nat) (mark : BitVec 4) (s : State) : PartKept s (opWaitbell t mark s) :=
  issueSeq_keepsPart fun s => by
    split
    · split
      · simp
      · split <;> simp
    · simp

@[simp] theorem opWaittick_keepsPart (t : Nat) (tick : BitVec 26) (s : State) : PartKept s (opWaittick t tick s) :=
  issueSeq_keepsPart fun s => by split <;> simp

@[simp] theorem execWaittickRelease_keepsPart (t : Nat) (s : State) : PartKept s (execWaittickRelease t s) := by
  unfold execWaittickRelease
  dsimp only
  repeat' split
  all_goals simp

@[simp] theorem opHint_keepsPart (t : Nat) (level : BitVec 4) (lead : BitVec 6) (length : BitVec 10) (s : State) :
    PartKept s (opHint t level lead length s) :=
  issueSeq_keepsPart fun s => by simp

@[simp] theorem settleRegion_part (s : State) (region busyFrom busyTo : Nat) :
    (settleRegion s region busyFrom busyTo).part = s.part := by
  simp [settleRegion, apply_ite State.part]

@[simp] theorem refreshRow_part (s : State) (t row tick : Nat) : (refreshRow s t row tick).part = s.part := by simp [refreshRow]

@[simp] theorem opRefr_keepsPart (t : Nat) (rowGroup : BitVec 12) (s : State) : PartKept s (opRefr t rowGroup s) :=
  issueSeq_keepsPart fun s => by simp

@[simp] theorem opFence_keepsPart (t : Nat) (slots : BitVec 5) (lp : Bool) (s : State) : PartKept s (opFence t slots lp s) :=
  issueSeq_keepsPart fun s => by
    dsimp only
    split <;> simp

@[simp] theorem execFenceRelease_keepsPart (t tick : Nat) (s : State) : PartKept s (execFenceRelease t tick s) := by
  unfold execFenceRelease
  dsimp only
  repeat' split
  all_goals simp

@[simp] theorem opDigest_keepsPart (t : Nat) (layer : BitVec 16) (s : State) : PartKept s (opDigest t layer s) :=
  issueSeq_keepsPart fun s => by
    dsimp only
    split
    · simp
    · split
      · simp
      · split
        · simp
        · dsimp only
          split <;> simp

@[simp] theorem opTrap_keepsPart (t : Nat) (code : BitVec 8) (s : State) : PartKept s (opTrap t code s) :=
  issueSeq_keepsPart fun s => by simp

@[simp] theorem opHalt_keepsPart (t : Nat) (code : BitVec 8) (s : State) : PartKept s (opHalt t code s) :=
  issueSeq_keepsPart fun s => by simp

/-! ### Operations of Machine/Transfer -/

@[simp] theorem xferErr_part (s : State) (t cause code tmpl eng piece pc : Nat) :
    (xferErr s t cause code tmpl eng piece pc).part = s.part := by
  simp [xferErr, apply_ite State.part]

@[simp] theorem opFill_keepsPart (t : Nat) (ddesc : BitVec 6) (doff : BitVec 12) (lines : BitVec 8) (byte : Byte) (s : State) :
    PartKept s (opFill t ddesc doff lines byte s) :=
  issueOp_keepsPart rfl fun s => by
    split
    · split
      · exact keepsPart_of_part (progErr_part _ _ _ _)
      · exact keepsPart_of_part (modTile_part _ _ _)
    · exact keepsPart_of_part (progErr_part _ _ _ _)

@[simp] theorem opCopy_keepsPart (t : Nat) (sdesc : BitVec 6) (soff : BitVec 8) (ddesc : BitVec 6) (doff : BitVec 8)
    (lines : BitVec 7) (s : State) : PartKept s (opCopy t sdesc soff ddesc doff lines s) :=
  issueOp_keepsPart rfl fun s => by
    split
    · split <;> simp
    · simp

@[simp] theorem countRefreshHold_part (s : State) (t : Nat) (near : Bool) : (countRefreshHold s t near).part = s.part := by
  simp [countRefreshHold, apply_ite State.part]

@[simp] theorem claimSlots_part (s : State) (t region tick : Nat) (store : Bool) (slotTicks lines : List Nat) :
    (claimSlots s t region tick store slotTicks lines).part = s.part := by
  simp [claimSlots, apply_ite State.part]

@[simp] theorem crossBond_part (s : State) (t tick : Nat) (lines : List (Nat × Nat)) :
    (crossBond s t tick lines).part = s.part := by
  simp [crossBond, apply_ite State.part]

@[simp] theorem opDload_keepsPart (t : Nat) (mdesc : BitVec 6) (moff : BitVec 12) (sdesc : BitVec 6) (soff : BitVec 8)
    (lines : BitVec 3) (s : State) : PartKept s (opDload t mdesc moff sdesc soff lines s) :=
  issueOp_keepsPart (countRefreshHold_part _ _ _) fun s => by
    split
    · split <;> simp
    · simp

@[simp] theorem opDstore_keepsPart (t : Nat) (mdesc : BitVec 6) (moff : BitVec 12) (sdesc : BitVec 6) (soff : BitVec 8)
    (lines : BitVec 3) (s : State) : PartKept s (opDstore t mdesc moff sdesc soff lines s) :=
  issueOp_keepsPart (countRefreshHold_part _ _ _) fun s => by
    split
    · split <;> simp
    · simp

@[simp] theorem execGuardedLinePresent_keepsPart (t addr : Nat) (s : State) : PartKept s (execGuardedLinePresent t addr s) := by
  simp [execGuardedLinePresent]

@[simp] theorem displace_part (s : State) (dt : Nat) (p : Port) (t n k : Nat) : (displace s dt p t n k).part = s.part := by
  induction n generalizing s k with
  | zero => rfl
  | succ n ih =>
    unfold displace
    extract_lets x here v g srcTick moves spans slide s1 s2
    split
    · rfl
    · rw [ih, modTile_part, modTile_part]

@[simp] theorem opSpass_keepsPart (t : Nat) (sdesc : BitVec 6) (soff : BitVec 8) (ddesc : BitVec 6) (doff : BitVec 8)
    (len : BitVec 3) (s : State) : PartKept s (opSpass t sdesc soff ddesc doff len s) :=
  issueOp_keepsPart rfl fun s => by
    split
    · split <;> simp
    · simp

@[simp] theorem syncLpass_part (s : State) (t : Nat) : (syncLpass s t).part = s.part := by simp [syncLpass]

@[simp] theorem opLpass_keepsPart (t : Nat) (eng : Bool) (tmpl : BitVec 10) (ctr : BitVec 16) (s : State) :
    PartKept s (opLpass t eng tmpl ctr s) :=
  issueOp_keepsPart (by split <;> simp) fun s => by
    split
    · simp
    · exact keepsPart_ite (by simp) (keepsPart_ite (by simp) (by simp))

@[simp] theorem movePiece_part (s : State) (t : Nat) (f : Transfer) (k : Nat) : (movePiece s t f k).part = s.part := by
  simp [movePiece, apply_ite State.part]

@[simp] theorem execLpassReport_keepsPart (t : Nat) (eng : Bool) (s : State) : PartKept s (execLpassReport t eng s) := by
  unfold execLpassReport
  dsimp only
  repeat' split
  all_goals simp

@[simp] theorem execXferRange_keepsPart (t : Nat) (eng : Bool) (s : State) : PartKept s (execXferRange t eng s) := by
  unfold execXferRange
  dsimp only
  repeat' split
  all_goals simp

/-! ### Operations of Machine/Channel -/

@[simp] theorem recordOrphan_part (s : State) (t other q ep : Nat) (atReader : Bool) (pc : Nat) :
    (recordOrphan s t other q ep atReader pc).part = s.part := by
  simp [recordOrphan, apply_ite State.part]

@[simp] theorem recordStale_part (s : State) (t : Nat) : (recordStale s t).part = s.part := by simp [recordStale]
@[simp] theorem settleMsg_part (s : State) (i : Item) : (settleMsg s i).part = s.part := by simp [settleMsg, apply_ite State.part]
@[simp] theorem routeIncr_part (s : State) (ctr tile pc : Nat) : (routeIncr s ctr tile pc).part = s.part := by simp [routeIncr]

@[simp] theorem deliverLine_part (s : State) (i : Item) (ep q inc pc : Nat) (data : Bytes) (present : Option Nat) :
    (deliverLine s i ep q inc pc data present).part = s.part := by
  simp [deliverLine, apply_ite State.part]

@[simp] theorem deliverCredit_part (s : State) (i : Item) (ep pc : Nat) : (deliverCredit s i ep pc).part = s.part := by
  simp [deliverCredit, apply_ite State.part]

@[simp] theorem deliverToken_part (s : State) (i : Item) (ep : Nat) (opens : Bool) (inc : Nat) :
    (deliverToken s i ep opens inc).part = s.part := by
  simp [deliverToken, apply_ite State.part]

@[simp] theorem deliver_part (s : State) (i : Item) : (deliver s i).part = s.part := by
  unfold deliver
  split <;> simp

@[simp] theorem settleBy_part (s : State) (t tick : Nat) : (settleBy s t tick).part = s.part := by simp [settleBy]
@[simp] theorem settleCrossing_part (s : State) (t : Nat) : (settleCrossing s t).part = s.part := by simp [settleCrossing]

theorem takeItem_part {s t : State} {f : Item → Bool} {i : Item} (h : takeItem s f = some (i, t)) : t.part = s.part := by
  unfold takeItem at h
  split at h
  · cases h; rfl
  · cases h

@[simp] theorem execLineArrival_keepsPart (t ep : Nat) (s : State) : PartKept s (execLineArrival t ep s) := by
  unfold execLineArrival
  dsimp only
  split
  · next h => split <;> simp [takeItem_part h]
  · simp

@[simp] theorem execCreditReturn_keepsPart (t ep : Nat) (s : State) : PartKept s (execCreditReturn t ep s) := by
  unfold execCreditReturn
  dsimp only
  split
  · next h => repeat' split <;> simp [takeItem_part h]
  · simp

@[simp] theorem execQueueToken_keepsPart (t ep : Nat) (s : State) : PartKept s (execQueueToken t ep s) := by
  unfold execQueueToken
  dsimp only
  split
  · next h => repeat' split <;> simp [takeItem_part h]
  · simp

@[simp] theorem noteStall_part (s : State) (t kind obj : Nat) (b : Bool) : (noteStall s t kind obj b).part = s.part := by
  simp [noteStall, apply_ite State.part]

@[simp] theorem opCsend_keepsPart (t : Nat) (ep : BitVec 4) (sdesc : BitVec 6) (soff : BitVec 9) (s : State) :
    PartKept s (opCsend t ep sdesc soff s) :=
  issueOp_keepsPart (by simp [apply_ite State.part]) fun s => by
    split
    · simp
    · split
      · simp
      · split <;> simp

@[simp] theorem sendBack_part (s : State) (t q : Nat) (mk : Nat → Option Nat → Cargo) : (sendBack s t q mk).part = s.part := by
  simp [sendBack]

@[simp] theorem opCrecv_keepsPart (t : Nat) (q : BitVec 4) (ddesc : BitVec 6) (doff : BitVec 9) (s : State) :
    PartKept s (opCrecv t q ddesc doff s) :=
  issueOp_keepsPart (by simp [apply_ite State.part]) fun s => by
    split
    · simp
    · split
      · split <;> simp
      · simp

@[simp] theorem opQopen_keepsPart (t : Nat) (q : BitVec 4) (s : State) : PartKept s (opQopen t q s) :=
  issueOp_keepsPart (by simp) fun s => by
    repeat' split
    all_goals simp

@[simp] theorem dropQueue_part (s : State) (t q : Nat) : (dropQueue s t q).part = s.part := by simp [dropQueue]

@[simp] theorem opQclose_keepsPart (t : Nat) (q : BitVec 4) (s : State) : PartKept s (opQclose t q s) :=
  issueOp_keepsPart (by simp) fun s => keepsPart_ite (by simp) (by simp)

@[simp] theorem closeQueues_part (s : State) (t : Nat) : (closeQueues s t).part = s.part := by
  simp [closeQueues, apply_ite State.part]

/-! ### Operations of Machine/Sync -/

@[simp] theorem opSinc_keepsPart (t : Nat) (ctr : BitVec 16) (amt : BitVec 3) (s : State) : PartKept s (opSinc t ctr amt s) :=
  issueOp_keepsPart rfl fun s => by
    repeat' split
    all_goals simp

@[simp] theorem opSwait_keepsPart (t : Nat) (ctr : BitVec 16) (consume : Bool) (s : State) :
    PartKept s (opSwait t ctr consume s) :=
  issueOp_keepsPart rfl fun s =>
    keepsPart_ite (by simp) (keepsPart_ite (keepsPart_ite (by simp) (by simp)) (by simp))

@[simp] theorem examine_part (s : State) (c : Nat) (l : List Waiter) : (examine s c l).part = s.part := by
  induction l generalizing s with
  | nil => rfl
  | cons w r ih =>
    simp only [examine]
    split
    · rw [ih]
      simp [grant, apply_ite State.part]
    · exact ih s

@[simp] theorem staleIncr_part (s : State) (ctr : Nat) (i : Item) : (staleIncr s ctr i).part = s.part := by
  simp [staleIncr, apply_ite State.part]

@[simp] theorem syncOverflow_part (s : State) (ctr slot pc : Nat) (i : Item) : (syncOverflow s ctr slot pc i).part = s.part := by
  unfold syncOverflow
  dsimp only
  repeat' split
  all_goals simp

@[simp] theorem applyIncr_part (s : State) (ctr amt slot pc : Nat) (i : Item) :
    (applyIncr s ctr amt slot pc i).part = s.part := by
  simp [applyIncr, apply_ite State.part]

@[simp] theorem execCounterIncrement_keepsPart (src ctr : Nat) (s : State) :
    PartKept s (execCounterIncrement src ctr s) := by
  unfold execCounterIncrement
  split
  · next h => repeat' split <;> simp [takeItem_part h, apply_ite State.part]
  · simp

@[simp] theorem execSwaitRelease_keepsPart (t u : Nat) (s : State) : PartKept s (execSwaitRelease t u s) := by
  unfold execSwaitRelease
  dsimp only
  repeat' split
  all_goals simp

@[simp] theorem reachLimit_part (s : State) (t : Nat) : (reachLimit s t).part = s.part := by
  unfold reachLimit
  dsimp only
  repeat' split
  all_goals simp

@[simp] theorem releaseStall_part (s : State) (t : Nat) : (releaseStall s t).part = s.part := by
  simp [releaseStall, apply_ite State.part]

@[simp] theorem execWatchdog_keepsPart (tiles : List Nat) (s : State) : PartKept s (execWatchdog tiles s) := by
  unfold execWatchdog
  dsimp only
  repeat' split
  all_goals simp [apply_ite State.part]

/-! ### Operations of Machine/Locker -/

@[simp] theorem execLksRegisterWrite_keepsPart (fn off : Nat) (v : Word64) (s : State) :
    PartKept s (execLksRegisterWrite fn off v s) := by
  unfold execLksRegisterWrite
  dsimp only
  repeat' split
  all_goals simp

@[simp] theorem undoAppend_part (s : State) (q r locker head kind : Nat) (old : Bytes) :
    (undoAppend s q r locker head kind old).part = s.part := by
  simp [undoAppend, apply_ite State.part]

@[simp] theorem undoApply_part (s : State) (q : Nat) : (undoApply s q).part = s.part :=
  (wr_part _ _ _).trans (foldl_part _ _ _ fun s e => by simp)

@[simp] theorem execUndoLogEnable_keepsPart (fn q : Nat) (v : Word64) (s : State) : PartKept s (execUndoLogEnable fn q v s) := by
  simp [execUndoLogEnable, apply_ite State.part]

@[simp] theorem lockerWrite_part (s : State) (o : LockerOp) (a head kind newHead : Nat) (data : Bytes) :
    (lockerWrite s o a head kind newHead data).part = s.part := by
  unfold lockerWrite
  split <;> simp

theorem lockerEffect_part {s t : State} {o : LockerOp} (h : lockerEffect s o = some t) : t.part = s.part := by
  unfold lockerEffect at h
  dsimp only at h
  split at h
  · cases h; simp
  · split at h <;> cases h; simp
  · split at h
    · cases h
    · split at h
      · split at h <;> cases h <;> simp
      · cases h; simp

theorem lockerEffect_getD_part {s a u : State} (ha : a.part = s.part) (hu : u.part = s.part) (o : LockerOp) :
    ((lockerEffect a o).getD u).part = s.part := by
  cases h : lockerEffect a o with
  | none => exact hu
  | some t => exact (lockerEffect_part h).trans ha

@[simp] theorem opSettled_part (s : State) (o : LockerOp) : (opSettled s o).part = s.part := by
  unfold opSettled
  dsimp only
  repeat' split
  all_goals simp

@[simp] theorem execLockerOpDone_keepsPart (hub : Nat) (s : State) : PartKept s (execLockerOpDone hub s) := by
  unfold execLockerOpDone
  dsimp only
  split
  · simp
  · split
    · next h => simp [lockerEffect_part h]
    · simp [apply_ite State.part]

/-! ### Operations of Machine/Audit -/

@[simp] theorem ringPut_part (s : State) (q : Nat) (b : Bytes) : (ringPut s q b).part = s.part := by simp [ringPut]

theorem ringWrite_part {s t : State} {q : Nat} {b : Bytes} (h : ringWrite s q b = some t) : t.part = s.part := by
  unfold ringWrite at h
  extract_lets n tl pad s1 before s2 at h
  have h2 : s2.part = s.part := by simp [s2, s1, apply_ite State.part]
  split at h
  · rw [← Option.some.inj h]
    split <;> simp [h2]
  · cases h

@[simp] theorem drain_part (n : Nat) (s : State) (q : Nat) : (drain n s q).part = s.part := by
  induction n generalizing s with
  | zero => rfl
  | succ k ih =>
    unfold drain
    split
    · rfl
    · split
      · next h => rw [ih, modAud_part, ringWrite_part h]
      · rfl

@[simp] theorem drainAll_part (s : State) (q : Nat) : (drainAll s q).part = s.part := by simp [drainAll]

@[simp] theorem setHead_part (s : State) (q num : Nat) (h : Bytes) : (setHead s q num h).part = s.part :=
  (foldl_part _ _ _ fun _ _ => wr_part _ _ _).trans (wr_part _ _ _)

@[simp] theorem chainOne_part (s : State) (q kind : Nat) (body : Bytes) : (chainOne s q kind body).part = s.part := by
  simp [chainOne, apply_ite State.part]

@[simp] theorem gapRecord_part (s : State) (q first last reason : Nat) : (gapRecord s q first last reason).part = s.part := by
  simp [gapRecord]

@[simp] theorem gapFirst_part (s : State) (q : Nat) : (gapFirst s q).part = s.part := by
  unfold gapFirst
  repeat' split
  all_goals simp

@[simp] theorem chainRecord_part (s : State) (q kind : Nat) (body : Bytes) : (chainRecord s q kind body).part = s.part := by
  simp [chainRecord]

@[simp] theorem addLine_part (s : State) (r : Nat) (l : Line) : (addLine s r l).part = s.part := by simp [addLine]

@[simp] theorem formRecord_part (s : State) (r : Nat) : (formRecord s r).part = s.part := by
  unfold formRecord
  repeat' split
  all_goals simp

@[simp] theorem recordRun_part (s : State) (run : Nat) : (recordRun s run).part = s.part := by
  unfold recordRun
  repeat' split
  all_goals simp

@[simp] theorem execLogHeadAdvance_keepsPart (fn q : Nat) (v : Word64) (s : State) :
    PartKept s (execLogHeadAdvance fn q v s) := by
  simp [execLogHeadAdvance, apply_ite State.part]

@[simp] theorem formSign_part (s : State) (q : Nat) : (formSign s q).part = s.part := by simp [formSign, apply_ite State.part]
@[simp] theorem signDue_part (s : State) (q : Nat) : (signDue s q).part = s.part := by simp [signDue, apply_ite State.part]

@[simp] theorem execSignTimer_keepsPart (q : Nat) (s : State) : PartKept s (execSignTimer q s) := by
  simp [execSignTimer, apply_ite State.part]

@[simp] theorem execAuditEnable_keepsPart (fn q : Nat) (v : Word64) (s : State) : PartKept s (execAuditEnable fn q v s) := by
  simp [execAuditEnable, apply_ite State.part]

/-! ### Operations of Machine/Matrix -/

@[simp] theorem putOpen_part (s : State) (t i : Nat) (v : List Nat) : (putOpen s t i v).part = s.part := by
  simp [putOpen, apply_ite State.part]

@[simp] theorem putExam_part (s : State) (t e : Nat) (v : List Int) : (putExam s t e v).part = s.part := by simp [putExam]
@[simp] theorem looseExam_part (s : State) (t e : Nat) : (looseExam s t e).part = s.part := by simp [looseExam]

@[simp] theorem meErr_part (s : State) (t cause code acc pos : Nat) (ovf nonfin : Bool) :
    (meErr s t cause code acc pos ovf nonfin).part = s.part := by
  simp [meErr, apply_ite State.part]

@[simp] theorem trayErr_part (s : State) (t cause code slot : Nat) : (trayErr s t cause code slot).part = s.part := by
  simp [trayErr, apply_ite State.part]

@[simp] theorem pushTray_part (s : State) (t : Nat) (e : TrayEntry) : (pushTray s t e).part = s.part := by simp [pushTray]
@[simp] theorem syncShadow_part (s : State) (t : Nat) : (syncShadow s t).part = s.part := by simp [syncShadow]

@[simp] theorem mmaCount_part (s : State) (t gatedGroups : Nat) (allGated : Bool) :
    (mmaCount s t gatedGroups allGated).part = s.part := by
  simp [mmaCount, apply_ite State.part]

@[simp] theorem opMma_keepsPart (o : MeOp) (s : State) : PartKept s (opMma o s) := by
  unfold opMma
  refine issueOp_keepsPart rfl fun s => keepsPart_ite (keepsPart_of_part (meErr_part ..)) <|
    keepsPart_ite (keepsPart_of_part (progErr_part ..)) <| keepsPart_ite (keepsPart_of_part (meErr_part ..)) <|
    keepsPart_ite (keepsPart_of_part (meErr_part ..)) <| keepsPart_ite (keepsPart_of_part (trayErr_part ..)) ?_
  extract_lets s1 vec mask gated groups ng acts img prods mark finish a defined old res l s2
  have hs1 : s1.part = s.part := findUpsets_part _ _
  have hs2 : s2.part = s.part := (looseExam_part _ _ _).trans hs1
  have hf : ∀ a l n, (finish a l n).part = a.part := fun a l n => by simp [finish, apply_ite State.part]
  clear_value finish
  refine keepsPart_ite ?_ ?_
  · split
    · simp [hs1]
    · refine keepsPart_ite ?_ ?_ <;> simp [hf, hs1, hs2]
  · simp [hf, hs1]

@[simp] theorem opWload_keepsPart (o : MeOp) (s : State) : PartKept s (opWload o s) :=
  issueOp_keepsPart rfl fun s => by
    repeat' split
    all_goals simp

@[simp] theorem opEmit_keepsPart (o : MeOp) (s : State) : PartKept s (opEmit o s) :=
  issueOp_keepsPart rfl fun s => by
    repeat' split
    all_goals simp

@[simp] theorem opAzero_keepsPart (o : MeOp) (s : State) : PartKept s (opAzero o s) :=
  issueOp_keepsPart rfl fun s => by
    split
    · simp
    · refine keepsPart_of_part ((modTile_part _ _ _).trans ?_)
      split
      · exact putExam_part _ _ _ _
      · exact putOpen_part _ _ _ _

@[simp] theorem opAnchor_keepsPart (o : MeOp) (s : State) : PartKept s (opAnchor o s) :=
  issueOp_keepsPart rfl fun s => by
    split
    · simp
    · exact keepsPart_of_part ((modTile_part _ _ _).trans (putExam_part _ _ _ _))

/-! ### Operations of Machine/Vector -/

@[simp] theorem veErr_part (s : State) (t cause code chain : Nat) : (veErr s t cause code chain).part = s.part := by
  simp [veErr, apply_ite State.part]

@[simp] theorem popTray_part (s : State) (t free : Nat) : (popTray s t free).part = s.part := by simp [popTray]

@[simp] theorem opVchain_keepsPart (t : Nat) (chain : BitVec 8) (src : BitVec 2) (sdesc : BitVec 6) (soff : BitVec 10)
    (ddesc : BitVec 6) (doff : BitVec 10) (s : State) : PartKept s (opVchain t chain src sdesc soff ddesc doff s) := by
  unfold opVchain
  extract_lets x tick bad tray sa da head
  split
  · exact issueOp_keepsPart rfl fun s => by simp
  · refine issueOp_keepsPart rfl fun s => ?_
    extract_lets s1
    have h1 : s1.part = s.part := by simp [s1]
    clear_value head
    refine keepsPart_ite (by simp) (keepsPart_ite (by simp) (keepsPart_ite (by simp) ?_))
    split
    extract_lets row s2 s3
    have h3 : s3.part = s.part := by simp [s3, s2, apply_ite State.part, h1]
    cases head with
    | some e => exact keepsPart_ite (by simp [h3]) (by simp [h3])
    | none => simp [h3]

@[simp] theorem opVpop_keepsPart (t : Nat) (s : State) : PartKept s (opVpop t s) :=
  issueOp_keepsPart rfl fun s => by split <;> simp

@[simp] theorem opVldk_keepsPart (t : Nat) (k : BitVec 4) (sdesc : BitVec 6) (soff : BitVec 10) (s : State) :
    PartKept s (opVldk t k sdesc soff s) :=
  issueOp_keepsPart rfl fun s => by
    repeat' split
    all_goals simp

/-! ### Operations of Machine/Bundle -/

theorem seqOp_keepsPart (t v : Nat) (s : State) : PartKept s ((seqOp t v).run s) := by
  unfold seqOp
  split <;> simp [nopOp]

theorem meOp_keepsPart (t v : Nat) (s : State) : PartKept s ((meOp t v).run s) := by
  unfold meOp
  dsimp only
  split <;> simp [nopOp]

theorem veOp_keepsPart (t v : Nat) (s : State) : PartKept s ((veOp t v).run s) := by
  unfold veOp
  split <;> simp [nopOp]

theorem aidOps_keepsPart : ∀ p ∈ aidOps, ∀ a s, PartKept s (p.2.2 a s) := by
  simp [aidOps]

theorem aidOp_keepsPart (t v : Nat) (s : State) : PartKept s ((aidOp t v).run s) := by
  unfold aidOp
  split
  next h => exact aidOps_keepsPart _ (List.mem_of_find?_eq_some h) _ s
  next => simp [nopOp]

theorem xferOp_keepsPart (t v : Nat) (s : State) : PartKept s ((xferOp t v).run s) := by
  unfold xferOp
  split <;> simp [nopOp]

theorem chnOp_keepsPart (t v : Nat) (s : State) : PartKept s ((chnOp t v).run s) := by
  unfold chnOp
  split <;> simp [nopOp]

theorem bundleOps_keepsPart (t w : Nat) : ∀ o ∈ bundleOps t w, ∀ s, PartKept s (o.run s) := by
  simp [bundleOps, seqOp_keepsPart, meOp_keepsPart, veOp_keepsPart, aidOp_keepsPart, xferOp_keepsPart, chnOp_keepsPart]

theorem issueBundle_keepsPart {t : Nat} {o : SlotOp} (h : ∀ s, PartKept s (o.run s)) (s : State) :
    PartKept s (issueBundle t o s) := by
  unfold issueBundle
  split
  · exact h s
  · dsimp only
    split
    · simp
    · split
      · exact h s
      · split
        · simp
        · split
          next hp =>
            obtain ⟨o', ho', rfl⟩ := List.mem_map.1 (List.mem_of_find?_eq_some hp)
            exact bundleOps_keepsPart _ _ o' ho' s
          next => exact h _

@[simp] theorem execNop_keepsPart (t slot : Nat) (s : State) : PartKept s (execNop t slot s) :=
  issueBundle_keepsPart (opNop_keepsPart t slot) s

@[simp] theorem execSetlim_keepsPart (t : Nat) (c : BitVec 3) (limit : BitVec 20) (s : State) :
    PartKept s (execSetlim t c limit s) :=
  issueBundle_keepsPart (opSetlim_keepsPart t c limit) s

@[simp] theorem execLoop_keepsPart (t : Nat) (c : BitVec 3) (endPc : BitVec 14) (s : State) : PartKept s (execLoop t c endPc s) :=
  issueBundle_keepsPart (opLoop_keepsPart t c endPc) s

@[simp] theorem execJump_keepsPart (t : Nat) (target : BitVec 14) (s : State) : PartKept s (execJump t target s) :=
  issueBundle_keepsPart (opJump_keepsPart t target) s

@[simp] theorem execBrc_keepsPart (t : Nat) (k : BitVec 2) (sense : Bool) (target : BitVec 14) (s : State) :
    PartKept s (execBrc t k sense target s) :=
  issueBundle_keepsPart (opBrc_keepsPart t k sense target) s

@[simp] theorem execSetcmp_keepsPart (t : Nat) (k : BitVec 2) (c : BitVec 3) (cond : BitVec 2) (imm : BitVec 16) (s : State) :
    PartKept s (execSetcmp t k c cond imm s) :=
  issueBundle_keepsPart (opSetcmp_keepsPart t k c cond imm) s

@[simp] theorem execWaitbell_keepsPart (t : Nat) (mark : BitVec 4) (s : State) : PartKept s (execWaitbell t mark s) :=
  issueBundle_keepsPart (opWaitbell_keepsPart t mark) s

@[simp] theorem execWaittick_keepsPart (t : Nat) (tick : BitVec 26) (s : State) : PartKept s (execWaittick t tick s) :=
  issueBundle_keepsPart (opWaittick_keepsPart t tick) s

@[simp] theorem execHint_keepsPart (t : Nat) (level : BitVec 4) (lead : BitVec 6) (length : BitVec 10) (s : State) :
    PartKept s (execHint t level lead length s) :=
  issueBundle_keepsPart (opHint_keepsPart t level lead length) s

@[simp] theorem execRefr_keepsPart (t : Nat) (rowGroup : BitVec 12) (s : State) : PartKept s (execRefr t rowGroup s) :=
  issueBundle_keepsPart (opRefr_keepsPart t rowGroup) s

@[simp] theorem execFence_keepsPart (t : Nat) (slots : BitVec 5) (lp : Bool) (s : State) : PartKept s (execFence t slots lp s) :=
  issueBundle_keepsPart (opFence_keepsPart t slots lp) s

@[simp] theorem execDigest_keepsPart (t : Nat) (layer : BitVec 16) (s : State) : PartKept s (execDigest t layer s) :=
  issueBundle_keepsPart (opDigest_keepsPart t layer) s

@[simp] theorem execTrap_keepsPart (t : Nat) (code : BitVec 8) (s : State) : PartKept s (execTrap t code s) :=
  issueBundle_keepsPart (opTrap_keepsPart t code) s

@[simp] theorem execHalt_keepsPart (t : Nat) (code : BitVec 8) (s : State) : PartKept s (execHalt t code s) :=
  issueBundle_keepsPart (opHalt_keepsPart t code) s

@[simp] theorem execMma_keepsPart (o : MeOp) (s : State) : PartKept s (execMma o s) :=
  issueBundle_keepsPart (opMma_keepsPart o) s

@[simp] theorem execWload_keepsPart (o : MeOp) (s : State) : PartKept s (execWload o s) :=
  issueBundle_keepsPart (opWload_keepsPart o) s

@[simp] theorem execEmit_keepsPart (o : MeOp) (s : State) : PartKept s (execEmit o s) :=
  issueBundle_keepsPart (opEmit_keepsPart o) s

@[simp] theorem execAzero_keepsPart (o : MeOp) (s : State) : PartKept s (execAzero o s) :=
  issueBundle_keepsPart (opAzero_keepsPart o) s

@[simp] theorem execAnchor_keepsPart (o : MeOp) (s : State) : PartKept s (execAnchor o s) :=
  issueBundle_keepsPart (opAnchor_keepsPart o) s

@[simp] theorem execVchain_keepsPart (t : Nat) (chain : BitVec 8) (src : BitVec 2) (sdesc : BitVec 6) (soff : BitVec 10)
    (ddesc : BitVec 6) (doff : BitVec 10) (s : State) :
    PartKept s (execVchain t chain src sdesc soff ddesc doff s) :=
  issueBundle_keepsPart (opVchain_keepsPart t chain src sdesc soff ddesc doff) s

@[simp] theorem execVpop_keepsPart (t : Nat) (s : State) : PartKept s (execVpop t s) :=
  issueBundle_keepsPart (opVpop_keepsPart t) s

@[simp] theorem execVldk_keepsPart (t : Nat) (k : BitVec 4) (sdesc : BitVec 6) (soff : BitVec 10) (s : State) :
    PartKept s (execVldk t k sdesc soff s) :=
  issueBundle_keepsPart (opVldk_keepsPart t k sdesc soff) s

@[simp] theorem execAdd_keepsPart (a : AidOp) (s : State) : PartKept s (execAdd a s) :=
  issueBundle_keepsPart (opAdd_keepsPart a) s

@[simp] theorem execSub_keepsPart (a : AidOp) (s : State) : PartKept s (execSub a s) :=
  issueBundle_keepsPart (opSub_keepsPart a) s

@[simp] theorem execAnd_keepsPart (a : AidOp) (s : State) : PartKept s (execAnd a s) :=
  issueBundle_keepsPart (opAnd_keepsPart a) s

@[simp] theorem execOr_keepsPart (a : AidOp) (s : State) : PartKept s (execOr a s) :=
  issueBundle_keepsPart (opOr_keepsPart a) s

@[simp] theorem execXor_keepsPart (a : AidOp) (s : State) : PartKept s (execXor a s) :=
  issueBundle_keepsPart (opXor_keepsPart a) s

@[simp] theorem execAddi_keepsPart (a : AidOp) (s : State) : PartKept s (execAddi a s) :=
  issueBundle_keepsPart (opAddi_keepsPart a) s

@[simp] theorem execAndi_keepsPart (a : AidOp) (s : State) : PartKept s (execAndi a s) :=
  issueBundle_keepsPart (opAndi_keepsPart a) s

@[simp] theorem execOri_keepsPart (a : AidOp) (s : State) : PartKept s (execOri a s) :=
  issueBundle_keepsPart (opOri_keepsPart a) s

@[simp] theorem execXori_keepsPart (a : AidOp) (s : State) : PartKept s (execXori a s) :=
  issueBundle_keepsPart (opXori_keepsPart a) s

@[simp] theorem execLih_keepsPart (a : AidOp) (s : State) : PartKept s (execLih a s) :=
  issueBundle_keepsPart (opLih_keepsPart a) s

@[simp] theorem execMin_keepsPart (a : AidOp) (s : State) : PartKept s (execMin a s) :=
  issueBundle_keepsPart (opMin_keepsPart a) s

@[simp] theorem execMax_keepsPart (a : AidOp) (s : State) : PartKept s (execMax a s) :=
  issueBundle_keepsPart (opMax_keepsPart a) s

@[simp] theorem execMinu_keepsPart (a : AidOp) (s : State) : PartKept s (execMinu a s) :=
  issueBundle_keepsPart (opMinu_keepsPart a) s

@[simp] theorem execMaxu_keepsPart (a : AidOp) (s : State) : PartKept s (execMaxu a s) :=
  issueBundle_keepsPart (opMaxu_keepsPart a) s

@[simp] theorem execAidx_keepsPart (a : AidOp) (s : State) : PartKept s (execAidx a s) :=
  issueBundle_keepsPart (opAidx_keepsPart a) s

@[simp] theorem execMul_keepsPart (a : AidOp) (s : State) : PartKept s (execMul a s) :=
  issueBundle_keepsPart (opMul_keepsPart a) s

@[simp] theorem execMulhu_keepsPart (a : AidOp) (s : State) : PartKept s (execMulhu a s) :=
  issueBundle_keepsPart (opMulhu_keepsPart a) s

@[simp] theorem execMulhs_keepsPart (a : AidOp) (s : State) : PartKept s (execMulhs a s) :=
  issueBundle_keepsPart (opMulhs_keepsPart a) s

@[simp] theorem execClmul_keepsPart (a : AidOp) (s : State) : PartKept s (execClmul a s) :=
  issueBundle_keepsPart (opClmul_keepsPart a) s

@[simp] theorem execMuli_keepsPart (a : AidOp) (s : State) : PartKept s (execMuli a s) :=
  issueBundle_keepsPart (opMuli_keepsPart a) s

@[simp] theorem execSll_keepsPart (a : AidOp) (s : State) : PartKept s (execSll a s) :=
  issueBundle_keepsPart (opSll_keepsPart a) s

@[simp] theorem execSrl_keepsPart (a : AidOp) (s : State) : PartKept s (execSrl a s) :=
  issueBundle_keepsPart (opSrl_keepsPart a) s

@[simp] theorem execSra_keepsPart (a : AidOp) (s : State) : PartKept s (execSra a s) :=
  issueBundle_keepsPart (opSra_keepsPart a) s

@[simp] theorem execRotr_keepsPart (a : AidOp) (s : State) : PartKept s (execRotr a s) :=
  issueBundle_keepsPart (opRotr_keepsPart a) s

@[simp] theorem execSel_keepsPart (a : AidOp) (s : State) : PartKept s (execSel a s) :=
  issueBundle_keepsPart (opSel_keepsPart a) s

@[simp] theorem execSlt_keepsPart (a : AidOp) (s : State) : PartKept s (execSlt a s) :=
  issueBundle_keepsPart (opSlt_keepsPart a) s

@[simp] theorem execSltu_keepsPart (a : AidOp) (s : State) : PartKept s (execSltu a s) :=
  issueBundle_keepsPart (opSltu_keepsPart a) s

@[simp] theorem execExt_keepsPart (a : AidOp) (s : State) : PartKept s (execExt a s) :=
  issueBundle_keepsPart (opExt_keepsPart a) s

@[simp] theorem execLd8_keepsPart (a : AidOp) (s : State) : PartKept s (execLd8 a s) :=
  issueBundle_keepsPart (opLd8_keepsPart a) s

@[simp] theorem execLd16_keepsPart (a : AidOp) (s : State) : PartKept s (execLd16 a s) :=
  issueBundle_keepsPart (opLd16_keepsPart a) s

@[simp] theorem execLd32_keepsPart (a : AidOp) (s : State) : PartKept s (execLd32 a s) :=
  issueBundle_keepsPart (opLd32_keepsPart a) s

@[simp] theorem execLd64_keepsPart (a : AidOp) (s : State) : PartKept s (execLd64 a s) :=
  issueBundle_keepsPart (opLd64_keepsPart a) s

@[simp] theorem execLd8s_keepsPart (a : AidOp) (s : State) : PartKept s (execLd8s a s) :=
  issueBundle_keepsPart (opLd8s_keepsPart a) s

@[simp] theorem execLd16s_keepsPart (a : AidOp) (s : State) : PartKept s (execLd16s a s) :=
  issueBundle_keepsPart (opLd16s_keepsPart a) s

@[simp] theorem execLd32s_keepsPart (a : AidOp) (s : State) : PartKept s (execLd32s a s) :=
  issueBundle_keepsPart (opLd32s_keepsPart a) s

@[simp] theorem execSt8_keepsPart (a : AidOp) (s : State) : PartKept s (execSt8 a s) :=
  issueBundle_keepsPart (opSt8_keepsPart a) s

@[simp] theorem execSt16_keepsPart (a : AidOp) (s : State) : PartKept s (execSt16 a s) :=
  issueBundle_keepsPart (opSt16_keepsPart a) s

@[simp] theorem execSt32_keepsPart (a : AidOp) (s : State) : PartKept s (execSt32 a s) :=
  issueBundle_keepsPart (opSt32_keepsPart a) s

@[simp] theorem execSt64_keepsPart (a : AidOp) (s : State) : PartKept s (execSt64 a s) :=
  issueBundle_keepsPart (opSt64_keepsPart a) s

@[simp] theorem execGld32_keepsPart (a : AidOp) (s : State) : PartKept s (execGld32 a s) :=
  issueBundle_keepsPart (opGld32_keepsPart a) s

@[simp] theorem execGld64_keepsPart (a : AidOp) (s : State) : PartKept s (execGld64 a s) :=
  issueBundle_keepsPart (opGld64_keepsPart a) s

@[simp] theorem execGst32_keepsPart (a : AidOp) (s : State) : PartKept s (execGst32 a s) :=
  issueBundle_keepsPart (opGst32_keepsPart a) s

@[simp] theorem execGst64_keepsPart (a : AidOp) (s : State) : PartKept s (execGst64 a s) :=
  issueBundle_keepsPart (opGst64_keepsPart a) s

@[simp] theorem execLkfetch_keepsPart (a : AidOp) (s : State) : PartKept s (execLkfetch a s) :=
  issueBundle_keepsPart (opLkfetch_keepsPart a) s

@[simp] theorem execLkstore_keepsPart (a : AidOp) (s : State) : PartKept s (execLkstore a s) :=
  issueBundle_keepsPart (opLkstore_keepsPart a) s

@[simp] theorem execLkappend_keepsPart (a : AidOp) (s : State) : PartKept s (execLkappend a s) :=
  issueBundle_keepsPart (opLkappend_keepsPart a) s

@[simp] theorem execDecf_keepsPart (a : AidOp) (s : State) : PartKept s (execDecf a s) :=
  issueBundle_keepsPart (opDecf_keepsPart a) s

@[simp] theorem execDeca_keepsPart (a : AidOp) (s : State) : PartKept s (execDeca a s) :=
  issueBundle_keepsPart (opDeca_keepsPart a) s

@[simp] theorem execHash_keepsPart (a : AidOp) (s : State) : PartKept s (execHash a s) :=
  issueBundle_keepsPart (opHash_keepsPart a) s

@[simp] theorem execPeq_keepsPart (a : AidOp) (s : State) : PartKept s (execPeq a s) :=
  issueBundle_keepsPart (opPeq_keepsPart a) s

@[simp] theorem execPne_keepsPart (a : AidOp) (s : State) : PartKept s (execPne a s) :=
  issueBundle_keepsPart (opPne_keepsPart a) s

@[simp] theorem execPlt_keepsPart (a : AidOp) (s : State) : PartKept s (execPlt a s) :=
  issueBundle_keepsPart (opPlt_keepsPart a) s

@[simp] theorem execPltu_keepsPart (a : AidOp) (s : State) : PartKept s (execPltu a s) :=
  issueBundle_keepsPart (opPltu_keepsPart a) s

@[simp] theorem execPge_keepsPart (a : AidOp) (s : State) : PartKept s (execPge a s) :=
  issueBundle_keepsPart (opPge_keepsPart a) s

@[simp] theorem execPgeu_keepsPart (a : AidOp) (s : State) : PartKept s (execPgeu a s) :=
  issueBundle_keepsPart (opPgeu_keepsPart a) s

@[simp] theorem execPeqi_keepsPart (a : AidOp) (s : State) : PartKept s (execPeqi a s) :=
  issueBundle_keepsPart (opPeqi_keepsPart a) s

@[simp] theorem execPlti_keepsPart (a : AidOp) (s : State) : PartKept s (execPlti a s) :=
  issueBundle_keepsPart (opPlti_keepsPart a) s

@[simp] theorem execPand_keepsPart (a : AidOp) (s : State) : PartKept s (execPand a s) :=
  issueBundle_keepsPart (opPand_keepsPart a) s

@[simp] theorem execPor_keepsPart (a : AidOp) (s : State) : PartKept s (execPor a s) :=
  issueBundle_keepsPart (opPor_keepsPart a) s

@[simp] theorem execPxor_keepsPart (a : AidOp) (s : State) : PartKept s (execPxor a s) :=
  issueBundle_keepsPart (opPxor_keepsPart a) s

@[simp] theorem execPany_keepsPart (a : AidOp) (s : State) : PartKept s (execPany a s) :=
  issueBundle_keepsPart (opPany_keepsPart a) s

@[simp] theorem execPall_keepsPart (a : AidOp) (s : State) : PartKept s (execPall a s) :=
  issueBundle_keepsPart (opPall_keepsPart a) s

@[simp] theorem execRoute_keepsPart (a : AidOp) (s : State) : PartKept s (execRoute a s) :=
  issueBundle_keepsPart (opRoute_keepsPart a) s

@[simp] theorem execLpass_keepsPart (t : Nat) (eng : Bool) (tmpl : BitVec 10) (ctr : BitVec 16) (s : State) :
    PartKept s (execLpass t eng tmpl ctr s) :=
  issueBundle_keepsPart (opLpass_keepsPart t eng tmpl ctr) s

@[simp] theorem execSpass_keepsPart (t : Nat) (sdesc : BitVec 6) (soff : BitVec 8) (ddesc : BitVec 6) (doff : BitVec 8)
    (len : BitVec 3) (s : State) :
    PartKept s (execSpass t sdesc soff ddesc doff len s) :=
  issueBundle_keepsPart (opSpass_keepsPart t sdesc soff ddesc doff len) s

@[simp] theorem execFill_keepsPart (t : Nat) (ddesc : BitVec 6) (doff : BitVec 12) (lines : BitVec 8) (byte : Byte) (s : State) :
    PartKept s (execFill t ddesc doff lines byte s) :=
  issueBundle_keepsPart (opFill_keepsPart t ddesc doff lines byte) s

@[simp] theorem execCopy_keepsPart (t : Nat) (sdesc : BitVec 6) (soff : BitVec 8) (ddesc : BitVec 6) (doff : BitVec 8)
    (lines : BitVec 7) (s : State) :
    PartKept s (execCopy t sdesc soff ddesc doff lines s) :=
  issueBundle_keepsPart (opCopy_keepsPart t sdesc soff ddesc doff lines) s

@[simp] theorem execDload_keepsPart (t : Nat) (mdesc : BitVec 6) (moff : BitVec 12) (sdesc : BitVec 6) (soff : BitVec 8)
    (lines : BitVec 3) (s : State) :
    PartKept s (execDload t mdesc moff sdesc soff lines s) :=
  issueBundle_keepsPart (opDload_keepsPart t mdesc moff sdesc soff lines) s

@[simp] theorem execDstore_keepsPart (t : Nat) (mdesc : BitVec 6) (moff : BitVec 12) (sdesc : BitVec 6) (soff : BitVec 8)
    (lines : BitVec 3) (s : State) :
    PartKept s (execDstore t mdesc moff sdesc soff lines s) :=
  issueBundle_keepsPart (opDstore_keepsPart t mdesc moff sdesc soff lines) s

@[simp] theorem execSinc_keepsPart (t : Nat) (ctr : BitVec 16) (amt : BitVec 3) (s : State) : PartKept s (execSinc t ctr amt s) :=
  issueBundle_keepsPart (opSinc_keepsPart t ctr amt) s

@[simp] theorem execSwait_keepsPart (t : Nat) (ctr : BitVec 16) (consume : Bool) (s : State) :
    PartKept s (execSwait t ctr consume s) :=
  issueBundle_keepsPart (opSwait_keepsPart t ctr consume) s

@[simp] theorem execCsend_keepsPart (t : Nat) (ep : BitVec 4) (sdesc : BitVec 6) (soff : BitVec 9) (s : State) :
    PartKept s (execCsend t ep sdesc soff s) :=
  issueBundle_keepsPart (opCsend_keepsPart t ep sdesc soff) s

@[simp] theorem execCrecv_keepsPart (t : Nat) (q : BitVec 4) (ddesc : BitVec 6) (doff : BitVec 9) (s : State) :
    PartKept s (execCrecv t q ddesc doff s) :=
  issueBundle_keepsPart (opCrecv_keepsPart t q ddesc doff) s

@[simp] theorem execQopen_keepsPart (t : Nat) (q : BitVec 4) (s : State) : PartKept s (execQopen t q s) :=
  issueBundle_keepsPart (opQopen_keepsPart t q) s

@[simp] theorem execQclose_keepsPart (t : Nat) (q : BitVec 4) (s : State) : PartKept s (execQclose t q s) :=
  issueBundle_keepsPart (opQclose_keepsPart t q) s

/-! ### Operations of Machine/Flags -/

@[simp] theorem setArmed_part (s : State) (fn : Nat) (b : Bool) : (setArmed s fn b).part = s.part := by
  simp [setArmed, apply_ite State.part]

@[simp] theorem irqEval_part (s : State) (fn : Nat) (atRearm : Bool) : (irqEval s fn atRearm).part = s.part := by
  simp [irqEval, apply_ite State.part]

@[simp] theorem execIrqRearm_keepsPart (fn : Nat) (v : Word64) (s : State) : PartKept s (execIrqRearm fn v s) := by
  simp [execIrqRearm, apply_ite State.part]

@[simp] theorem execVfRearm_keepsPart (fn : Nat) (s : State) : PartKept s (execVfRearm fn s) := by
  simp [execVfRearm, apply_ite State.part]

@[simp] theorem execMsixSend_keepsPart (fn : Nat) (s : State) : PartKept s (execMsixSend fn s) := by simp [execMsixSend]

@[simp] theorem execMsixConfigWrite_keepsPart (fn : Nat) (c : MsixCfg) (s : State) : PartKept s (execMsixConfigWrite fn c s) := by
  simp [execMsixConfigWrite]

@[simp] theorem execPowerStateChange_keepsPart (fn : Nat) (d3 : Bool) (s : State) :
    PartKept s (execPowerStateChange fn d3 s) := by
  simp [execPowerStateChange]

/-! ### Operations of Machine/Queues -/

@[simp] theorem drainCq_part (n : Nat) (s : State) (c : Nat) : (drainCq n s c).part = s.part := by
  induction n generalizing s with
  | zero => rfl
  | succ k ih =>
    simp only [drainCq]
    split
    · rfl
    · split
      · rfl
      · split
        · rw [ih]
          split <;> simp
        · simp

@[simp] theorem drainCqAll_part (s : State) (c : Nat) : (drainCqAll s c).part = s.part := by simp [drainCqAll]

@[simp] theorem postEntry_part (s : State) (d : Desc) (status detail retakes epoch : Nat) (final : Bool) :
    (postEntry s d status detail retakes epoch final).part = s.part := by
  simp [postEntry]

@[simp] theorem completeFull_part (s : State) (subm status detail retakes epoch : Nat) :
    (completeFull s subm status detail retakes epoch).part = s.part := by
  unfold completeFull
  repeat' split
  all_goals simp

@[simp] theorem complete_part (s : State) (subm status detail : Nat) : (complete s subm status detail).part = s.part := by
  simp [complete]

@[simp] theorem startDesc_part (s : State) (subm : Nat) : (startDesc s subm).part = s.part := by simp [startDesc]
@[simp] theorem settleDesc_part (s : State) (subm : Nat) : (settleDesc s subm).part = s.part := by simp [settleDesc]

@[simp] theorem leaveGraph_part (s : State) (d : Desc) : (leaveGraph s d).part = s.part := by
  simp [leaveGraph, apply_ite State.part]

@[simp] theorem pump_part (n : Nat) (s : State) : (pump n s).part = s.part := by
  induction n generalizing s with
  | zero => rfl
  | succ k ih =>
    simp only [pump]
    split
    · rw [ih]
      split <;> simp
    · rfl

@[simp] theorem pumpAll_part (s : State) : (pumpAll s).part = s.part := by simp [pumpAll]

@[simp] theorem finishDesc_part (s : State) (d : Desc) (status detail : Nat) : (finishDesc s d status detail).part = s.part := by
  simp [finishDesc]

@[simp] theorem execDescriptorFetch_keepsPart (sq : Nat) (bytes : Bytes) (s : State) :
    PartKept s (execDescriptorFetch sq bytes s) := by
  simp [execDescriptorFetch, apply_ite State.part]

@[simp] theorem logBad_part (s : State) (off : Nat) (bar2 write : Bool) (log2 fn cause : Nat) :
    (logBad s off bar2 write log2 fn cause).part = s.part := by
  simp [logBad, apply_ite State.part]

@[simp] theorem execHqSqDb_keepsPart (fn q : Nat) (v : Word64) (s : State) : PartKept s (execHqSqDb fn q v s) := by
  simp [execHqSqDb, apply_ite State.part]

@[simp] theorem execHqCqDb_keepsPart (fn q : Nat) (v : Word64) (s : State) : PartKept s (execHqCqDb fn q v s) := by
  simp [execHqCqDb, apply_ite State.part]

@[simp] theorem hqConfig_part (s : State) (fn : Nat) (sq : Bool) (q w : Nat) : (hqConfig s fn sq q w).part = s.part := by
  simp [hqConfig, apply_ite State.part]

@[simp] theorem execQueueEnable_keepsPart (fn off : Nat) (v : Word64) (s : State) : PartKept s (execQueueEnable fn off v s) := by
  unfold execQueueEnable
  dsimp only
  repeat' split
  all_goals simp

@[simp] theorem execQueueDisable_keepsPart (fn off : Nat) (v : Word64) (s : State) :
    PartKept s (execQueueDisable fn off v s) := by
  unfold execQueueDisable
  dsimp only
  repeat' split
  all_goals simp

/-! ### Operations of Machine/Wire -/

@[simp] theorem learnNeighbour_part (s : State) (n : Neighbour) : (learnNeighbour s n).part = s.part := by simp [learnNeighbour]

@[simp] theorem protectFrame_part (s : State) (port sub : Nat) (f : Bytes) : (protectFrame s port sub f).1.part = s.part := by
  unfold protectFrame
  repeat' split
  all_goals simp

theorem openFrame_part {s t : State} {port sub : Nat} {f g : Bytes} (h : openFrame s port sub f = some (t, g)) :
    t.part = s.part := by
  unfold openFrame at h
  dsimp only at h
  split at h
  · cases h
  · split at h
    · cases h
    · simp only [Option.map_eq_some_iff, Prod.mk.injEq] at h
      obtain ⟨p, -, rfl, -⟩ := h
      rfl

theorem sendUdp_part {s t : State} {port sub ip udp : Nat} {m : Bytes} (h : sendUdp s port sub ip udp m = some t) :
    t.part = s.part := by
  unfold sendUdp at h
  split at h
  · cases h
  · simp only [Option.map_eq_some_iff] at h
    obtain ⟨mac, -, rfl⟩ := h
    simp

/-! ### Operations of Machine/Net -/

@[simp] theorem forgetModule_part (s : State) (m : Nat) : (forgetModule s m).part = s.part := by
  simp [forgetModule, apply_ite State.part]

@[simp] theorem execAssocWrite_keepsPart (fn a : Nat) (v : Word64) (s : State) : PartKept s (execAssocWrite fn a v s) := by
  simp [execAssocWrite, apply_ite State.part]

@[simp] theorem sendOn_part (s : State) (a : Nat) (m : Bytes) : (sendOn s a m).part = s.part := by
  unfold sendOn
  generalize h : sendUdp s _ _ _ _ m = r
  cases r with
  | none => rfl
  | some t => exact sendUdp_part h

@[simp] theorem dropFrame_part (s : State) (f : Fld) : (dropFrame s f).part = s.part := by simp [dropFrame]

@[simp] theorem toFirmware_part (s : State) (port sub : Nat) (learn : Option (Nat × Nat)) :
    (toFirmware s port sub learn).part = s.part := by
  unfold toFirmware
  dsimp only
  repeat' split
  all_goals simp

@[simp] theorem miobelFrame_part (s : State) (port sub : Nat) (badHeaders : Bool) (src udp : Nat) (m : Bytes) :
    (miobelFrame s port sub badHeaders src udp m).part = s.part := by
  unfold miobelFrame
  dsimp only
  repeat' split
  all_goals simp

@[simp] theorem takeFrame_part (s : State) (port sub : Nat) (tagged : Bool) (f : Bytes) :
    (takeFrame s port sub tagged f).part = s.part := by
  unfold takeFrame
  dsimp only
  repeat' split
  all_goals simp

@[simp] theorem execFrameReceive_keepsPart (port sub : Nat) (frame : Bytes) (fecCorrected fecUncorrected : Nat) (s : State) :
    PartKept s (execFrameReceive port sub frame fecCorrected fecUncorrected s) := by
  unfold execFrameReceive
  dsimp only
  repeat' split
  case h_1 hs => simp [openFrame_part hs]
  all_goals simp

@[simp] theorem execPtpMessage_keepsPart (port sub : Nat) (k : PtpKind) (s : State) :
    PartKept s (execPtpMessage port sub k s) := by
  unfold execPtpMessage
  repeat' split
  all_goals simp

@[simp] theorem execLinkDown_keepsPart (port sub : Nat) (s : State) : PartKept s (execLinkDown port sub s) := by
  simp [execLinkDown, apply_ite State.part]

@[simp] theorem execLinkUp_keepsPart (port sub : Nat) (s : State) : PartKept s (execLinkUp port sub s) := by
  simp [execLinkUp, apply_ite State.part]

@[simp] theorem execMiobelHello_keepsPart (assoc : Nat) (msg : Bytes) (s : State) : PartKept s (execMiobelHello assoc msg s) := by
  simp [execMiobelHello, apply_ite State.part]

/-! ### Operations of Machine/Ingest -/

@[simp] theorem sendRep_part (s : State) (r : Request) (status field seat period : Nat) (ident payload : Bytes) :
    (sendRep s r status field seat period ident payload).part = s.part := by
  unfold sendRep
  dsimp only
  split
  next h => simp [sendUdp_part h]
  next => simp

@[simp] theorem bindingDone_part (s : State) (b : Nat) : (bindingDone s b).part = s.part := by
  unfold bindingDone
  repeat' split
  all_goals simp

@[simp] theorem modBinding_part (s : State) (b : Nat) (f : Period → Period) : (modBinding s b f).part = s.part := by
  simp [modBinding]

@[simp] theorem periodDone_part (s : State) (b n : Nat) : (periodDone s b n).part = s.part := by
  unfold periodDone
  dsimp only
  repeat' split
  all_goals simp

@[simp] theorem formLine_part (s : State) (b n : Nat) (isCarry : Bool) (plan index status : Nat) (r : Request) (payload : Bytes) :
    (formLine s b n isCarry plan index status r payload).1.part = s.part := by
  unfold formLine
  repeat' split
  all_goals simp

@[simp] theorem sentNote_part (s : State) (q : Nat) (run : RunName) (kind index status : Nat) (payload : Bytes) :
    (sentNote s q run kind index status payload).part = s.part := by
  simp [sentNote, apply_ite State.part]

@[simp] theorem modSeat_part (s : State) (ci k : Nat) (f : Seat → Seat) : (modSeat s ci k f).part = s.part := by simp [modSeat]

@[simp] theorem answerSeat_part (s : State) (ci k status : Nat) (payload : Bytes) :
    (answerSeat s ci k status payload).part = s.part := by
  unfold answerSeat
  dsimp only
  repeat' split
  all_goals simp

@[simp] theorem answerCarry_part (s : State) (i status : Nat) (payload : Bytes) :
    (answerCarry s i status payload).part = s.part := by
  unfold answerCarry
  split
  · rfl
  · split
    · rfl
    · split
      · rfl
      · extract_lets twin
        split
        next s1 ident he =>
          have h1 : s1.part = s.part := part_of_pair_eq he (by split <;> simp)
          extract_lets s2 own s3 s4 s5 s6 s7
          have h2 : s2.part = s1.part := foldl_part _ _ _ fun s d => by split <;> simp
          have h3 : s3.part = s2.part := by simp [s3, apply_ite State.part]
          have h5 : s5.part = s3.part := by
            unfold s5
            split
            · exact modSeat_part _ _ _ _
            · rfl
          have h6 : s6.part = s5.part := by simp [s6, apply_ite State.part]
          have h7 : s7.part = s6.part := by
            unfold s7
            split <;> simp
          rw [bindingDone_part, periodDone_part, h7, h6, h5, h3, h2, h1]

@[simp] theorem syncCands_part (s : State) : (syncCands s).part = s.part := by simp [syncCands]

@[simp] theorem answerCand_part (s : State) (i status : Nat) (payload : Bytes) :
    (answerCand s i status payload).part = s.part := by
  unfold answerCand
  dsimp only
  repeat' split
  all_goals simp

@[simp] theorem answer_part (s : State) (r : ReqRef) (status : Nat) (payload : Bytes) :
    (answer s r status payload).part = s.part := by
  unfold answer
  split <;> simp

@[simp] theorem fireDeadlines_part (n : Nat) (s : State) : (fireDeadlines n s).part = s.part := by
  induction n generalizing s with
  | zero => rfl
  | succ k ih =>
    simp only [fireDeadlines]
    split <;> simp [ih]

@[simp] theorem execDeadlineBell_keepsPart (req : Nat) (s : State) : PartKept s (execDeadlineBell req s) := by
  unfold execDeadlineBell
  split <;> simp

@[simp] theorem execCandidateDrop_keepsPart (req : Nat) (s : State) : PartKept s (execCandidateDrop req s) := by
  unfold execCandidateDrop
  dsimp only
  repeat' split
  all_goals simp

@[simp] theorem closeAll_part (n : Nat) (s : State) (f : Request → Bool) : (closeAll n s f).part = s.part := by
  induction n generalizing s with
  | zero => rfl
  | succ k ih =>
    simp only [closeAll]
    split <;> simp [ih]

@[simp] theorem endBinding_part (s : State) (q status detail retakes epoch : Nat) :
    (endBinding s q status detail retakes epoch).part = s.part := by
  unfold endBinding
  split <;> simp

@[simp] theorem addCand_part (s : State) (r : Request) : (addCand s r).part = s.part := by simp [addCand]

@[simp] theorem countReject_part (s : State) (status : Nat) : (countReject s status).part = s.part := by
  simp [countReject, apply_ite State.part]

@[simp] theorem dupReq_part (s : State) (a seqn : Nat) : (dupReq s a seqn).part = s.part := by
  unfold dupReq
  dsimp only
  split
  · split
    next h => simp [sendUdp_part h]
    next => simp
  · simp

@[simp] theorem execReq_keepsPart (assoc : Nat) (msg : Bytes) (s : State) : PartKept s (execReq assoc msg s) := by
  unfold execReq
  extract_lets a seqn port sub stale newTop s1
  have h1 : s1.part = s.part := modAssoc_part _ _ _
  clear_value stale s1
  refine keepsPart_ite (by simp) (keepsPart_ite (by simp) (keepsPart_ite (by simp) ?_))
  split
  · simp [h1]
  · dsimp only
    split
    · exact keepsPart_ite (by simp [h1]) (by simp [h1])
    · simp [h1]
    · simp [h1]

@[simp] theorem writeCopy_part (s : State) (p : Period) (n close deferred : Nat) (placed : List Request) :
    (writeCopy s p n close deferred placed).part = s.part := by
  unfold writeCopy
  repeat' split
  all_goals simp

@[simp] theorem returnSkipped_part (s : State) (b : Nat) : (returnSkipped s b).part = s.part := by simp [returnSkipped]

@[simp] theorem seatNow_part (s : State) (p : Period) (n : Nat) : (seatNow s p n).part = s.part := by
  simp [seatNow, apply_ite State.part]

@[simp] theorem execSeatPeriod_keepsPart (q n : Nat) (s : State) : PartKept s (execSeatPeriod q n s) := by
  unfold execSeatPeriod
  repeat' split
  all_goals simp

@[simp] theorem tryRelease_part (s : State) (run : RunName) (kind index : Nat) : (tryRelease s run kind index).part = s.part := by
  unfold tryRelease
  repeat' split
  all_goals simp

@[simp] theorem offer_part (s : State) (r : ReqRef) (q : Nat) (run : RunName) (kind index : Nat) (payload : Bytes) :
    (offer s r q run kind index payload).part = s.part := by
  simp [offer, apply_ite State.part]

@[simp] theorem scanSeat_part (s : State) (j : Job) (f : Form) (ci k : Nat) : (scanSeat s j f ci k).part = s.part := by
  unfold scanSeat
  dsimp only
  repeat' split
  all_goals simp

@[simp] theorem scanCarry_part (s : State) (j : Job) (f : Form) (i : Nat) : (scanCarry s j f i).part = s.part := by
  unfold scanCarry
  split
  · rfl
  · split
    · dsimp only
      repeat' split
      all_goals simp
    · rfl

@[simp] theorem execReplyScan_keepsPart (q : Nat) (s : State) : PartKept s (execReplyScan q s) := by
  unfold execReplyScan
  dsimp only
  repeat' split
  all_goals simp

/-! ### Operations of Machine/Spu -/

@[simp] theorem modPlan_part (s : State) (p : Nat) (f : PlanSt → PlanSt) : (modPlan s p f).part = s.part := by
  unfold modPlan
  split <;> simp

@[simp] theorem syncSpu_part (s : State) : (syncSpu s).part = s.part := by simp [syncSpu]

@[simp] theorem discardCarry_part (s : State) (p : Nat) : (discardCarry s p).part = s.part := by
  simp [discardCarry, apply_ite State.part]

@[simp] theorem discardJobCarry_part (s : State) (j : Nat) : (discardJobCarry s j).part = s.part := by simp [discardJobCarry]
@[simp] theorem clearPlanRegs_part (s : State) (p : Nat) : (clearPlanRegs s p).part = s.part := by simp [clearPlanRegs]

@[simp] theorem bindPlans_part (s : State) (j : Nat) (x : Job) (replay : Bool) : (bindPlans s j x replay).part = s.part := by
  simp [bindPlans]

@[simp] theorem unbindPlans_part (s : State) (j : Nat) : (unbindPlans s j).part = s.part := by simp [unbindPlans]
@[simp] theorem planStart_part (s : State) (p n : Nat) : (planStart s p n).part = s.part := by simp [planStart]

@[simp] theorem noteReject_part (s : State) (seat bin plan reason sender : Nat) :
    (noteReject s seat bin plan reason sender).part = s.part := by
  simp [noteReject, apply_ite State.part]

@[simp] theorem beginFill_part (s : State) (p : Nat) (forced : Bool) : (beginFill s p forced).part = s.part := by
  unfold beginFill
  split
  · rfl
  · split
    · rfl
    · split
      extract_lets s1 f s2 s3 s4
      have h1 : s1.part = s.part := foldl_part _ _ _ fun s e => by simp
      have h2 : s2.part = s.part := (modPlan_part _ _ _).trans h1
      have h4 : s4.part = s2.part := by
        unfold s4
        split
        · split <;> simp [s3]
        · rfl
      rw [syncSpu_part, h4, h2]

@[simp] theorem forceFills_part (s : State) (j : Nat) : (forceFills s j).part = s.part :=
  foldl_part _ _ _ fun s p => by
    split
    · split <;> simp
    · rfl

@[simp] theorem execFillBell_keepsPart (plan : Nat) (s : State) : PartKept s (execFillBell plan s) := by
  unfold execFillBell
  repeat' split
  all_goals simp

@[simp] theorem rejectEntry_part (s : State) (p seat bin reason sender : Nat) :
    (rejectEntry s p seat bin reason sender).part = s.part := by
  simp [rejectEntry]

@[simp] theorem takeEntry_part (s : State) (t w : Nat) : (takeEntry s t w).part = s.part := by
  unfold takeEntry
  dsimp only
  repeat' split
  all_goals simp

@[simp] theorem execRouteEntry_keepsPart (t : Nat) (s : State) : PartKept s (execRouteEntry t s) := by
  unfold execRouteEntry
  split
  next i s' h =>
    have hs := takeItem_part h
    dsimp only
    split
    · split <;> split <;> simp [hs]
    · simp
  next => simp

@[simp] theorem replayCarried_part (s : State) (r seat : Nat) (b : Bytes) : (replayCarried s r seat b).part = s.part := by
  simp [replayCarried, apply_ite State.part]

@[simp] theorem noteCarryIn_part (s : State) (x : PlanSt) (p : Nat) : (noteCarryIn s x p).part = s.part := by
  unfold noteCarryIn
  repeat' split
  all_goals simp

@[simp] theorem carryOut_part (s : State) (x : PlanSt) (f : Fill) (b i seat : Nat) : (carryOut s x f b i seat).part = s.part := by
  unfold carryOut
  dsimp only
  repeat' split
  all_goals simp

@[simp] theorem execSpuFillDone_keepsPart (s : State) : PartKept s (execSpuFillDone s) := by
  unfold execSpuFillDone
  split
  · simp
  · extract_lets s0
    split
    · exact keepsPart_of_part (syncSpu_part s0)
    · extract_lets bins table size s1 s2 s3 s4 s5 drops s6 cin s7 s8 s9 s10
      have h3 : s3.part = s.part := by rw [noteCarryIn_part, writeOther_part, writeOther_part]
      have h5 : s5.part = s3.part := foldl_part _ _ _ fun s b => foldl_part _ _ _ fun s o => carryOut_part _ _ _ _ _ _
      have h6 : s6.part = s5.part := by simp [s6, apply_ite State.part]
      have h8 : s8.part = s7.part := by
        unfold s8
        split
        · split <;> simp
        · rfl
      have h7 : s7.part = s6.part := (wrs_part _ _).trans (bump_part _ _ _)
      have h9 : s9.part = s8.part := modPlan_part _ _ _
      exact keepsPart_of_part (by rw [syncSpu_part, sendItem_part, h9, h8, h7, h6, h5, h3])

/-! ### Operations of Machine/Grading -/

@[simp] theorem noteGrdErr_part (s : State) (cause layer tile : Nat) : (noteGrdErr s cause layer tile).part = s.part := by
  simp [noteGrdErr, apply_ite State.part]

@[simp] theorem grdDisarm_part (s : State) : (grdDisarm s).part = s.part := by simp [grdDisarm]

@[simp] theorem grdDisarmJob_part (s : State) (j : Nat) : (grdDisarmJob s j).part = s.part := by
  simp [grdDisarmJob, apply_ite State.part]

@[simp] theorem execGrdArm_keepsPart (fn : Nat) (v : Word64) (s : State) : PartKept s (execGrdArm fn v s) := by
  unfold execGrdArm
  dsimp only
  repeat' split
  all_goals simp

@[simp] theorem execGrdDisarm_keepsPart (fn : Nat) (v : Word64) (s : State) : PartKept s (execGrdDisarm fn v s) := by
  simp [execGrdDisarm, apply_ite State.part]

@[simp] theorem setLayer_part (s : State) (x : GrdLayer) : (setLayer s x).part = s.part := by simp [setLayer]

@[simp] theorem modLayer_part (s : State) (l : Nat) (f : GrdLayer → GrdLayer) : (modLayer s l f).part = s.part := by
  simp [modLayer]

@[simp] theorem syncOpen_part (s : State) : (syncOpen s).part = s.part := by simp [syncOpen]

@[simp] theorem openLayer_part (s : State) (x : Job) (l : Nat) : (openLayer s x l).part = s.part := by
  unfold openLayer
  dsimp only
  repeat' split
  all_goals simp

@[simp] theorem pushColl_part (n : Nat) (s : State) (a : Nat) : (pushColl n s a).part = s.part := by
  induction n generalizing s with
  | zero => rfl
  | succ n ih =>
    unfold pushColl
    dsimp only
    split
    · rfl
    · split
      · rfl
      · simp [ih]

@[simp] theorem pushCollAll_part (s : State) (a : Nat) : (pushCollAll s a).part = s.part := pushColl_part _ s a

@[simp] theorem sendColl_part (s : State) (m l seg : Nat) (long : Bool) (anchor : Int) (v : List Int) :
    (sendColl s m l seg long anchor v).part = s.part := by
  unfold sendColl
  split <;> simp

@[simp] theorem sendColls_part (s : State) (ms : List Nat) (l seg : Nat) (v : List Int) :
    (sendColls s ms l seg v).part = s.part := by
  simp [sendColls]

@[simp] theorem noteCollErr_part (s : State) (cause layer seg rank : Nat) :
    (noteCollErr s cause layer seg rank).part = s.part := by
  simp [noteCollErr, apply_ite State.part]

@[simp] theorem collRange_part (s : State) (l seg rank : Nat) : (collRange s l seg rank).part = s.part := by
  unfold collRange
  dsimp only
  repeat' split
  all_goals simp

@[simp] theorem deliverFinal_part (s : State) (l seg : Nat) (v : List Int) : (deliverFinal s l seg v).part = s.part := by
  simp [deliverFinal]

@[simp] theorem formFinal_part (s : State) (l seg : Nat) : (formFinal s l seg).part = s.part := by
  unfold formFinal
  dsimp only
  repeat' split
  all_goals simp

@[simp] theorem ownerWork_part (s : State) (l : Nat) : (ownerWork s l).part = s.part := by simp [ownerWork, apply_ite State.part]

@[simp] theorem handPartial_part (s : State) (l seg : Nat) (v : List Int) : (handPartial s l seg v).part = s.part := by
  simp [handPartial, apply_ite State.part]

@[simp] theorem partialWork_part (s : State) (l : Nat) : (partialWork s l).part = s.part := by
  unfold partialWork
  extract_lets y all segs s1 y1 s2 s3
  have h1 : s1.part = s.part := foldl_part _ _ _ fun s k => by dsimp only; split <;> simp
  have h3 : s3.part = s1.part := by simp [s3, s2, apply_ite State.part]
  rw [ownerWork_part, h3, h1]

@[simp] theorem contribute_part (s : State) (l seg k : Nat) (vals : List FVal) : (contribute s l seg k vals).part = s.part := by
  simp [contribute, apply_ite State.part]

@[simp] theorem postBad_part (s : State) (x : Job) (l k : Nat) : (postBad s x l k).part = s.part := by
  unfold postBad
  dsimp only
  repeat' split
  all_goals simp

@[simp] theorem readStage_part (s : State) (x : Job) (d : Bytes) (slot n : Nat) : (readStage s x d slot n).1.part = s.part := by
  unfold readStage
  dsimp only
  repeat' split
  all_goals simp

@[simp] theorem takePost_part (s : State) (x : Job) (k : Nat) (b : Bytes) (addr n : Nat) :
    (takePost s x k b addr n).part = s.part := by
  simp [takePost, apply_ite State.part]

@[simp] theorem readRank_part (n : Nat) (s : State) (x : Job) (k : Nat) : (readRank n s x k).part = s.part := by
  induction n generalizing s with
  | zero => rfl
  | succ n ih =>
    unfold readRank
    split
    · rfl
    · dsimp only
      split
      · rfl
      · split
        · rfl
        · rw [ih, takePost_part]

@[simp] theorem readPosts_part (s : State) (x : Job) : (readPosts s x).part = s.part :=
  foldl_part _ _ _ fun s k => readRank_part _ s x k

@[simp] theorem areaWrite_part (s : State) (x : Job) (d : Bytes) (region off i n : Nat) (b : Bytes) :
    (areaWrite s x d region off i n b).part = s.part := by
  simp [areaWrite, apply_ite State.part]

@[simp] theorem readElem_part (s : State) (x : Job) (d : Bytes) (rule i : Nat) : (readElem s x d rule i).1.part = s.part := by
  simp [readElem, apply_ite State.part]

@[simp] theorem putWeight_part (s : State) (x : Job) (d : Bytes) (i w : Nat) : (putWeight s x d i w).part = s.part := by
  simp [putWeight, apply_ite State.part]

@[simp] theorem applyElem_part (s : State) (x : Job) (l i g : Nat) : (applyElem s x l i g).part = s.part := by
  simp [applyElem, apply_ite State.part]

@[simp] theorem applySegment_part (s : State) (x : Job) (l seg : Nat) (g : List Nat) (delivered : Bool) :
    (applySegment s x l seg g delivered).part = s.part := by
  unfold applySegment
  dsimp only
  repeat' split
  all_goals simp

@[simp] theorem applyMissing_part (s : State) (x : Job) (l : Nat) : (applyMissing s x l).part = s.part := by
  simp [applyMissing, apply_ite State.part]

@[simp] theorem phaseTwo_part (s : State) (x : Job) (l : Nat) : (phaseTwo s x l).part = s.part := by
  simp [phaseTwo, apply_ite State.part]

@[simp] theorem freeSpan_part (s : State) (a n : Nat) : (freeSpan s a n).part = s.part := by simp [freeSpan]

@[simp] theorem freeArea_part (s : State) (x : Job) (d : Bytes) (region off n : Nat) :
    (freeArea s x d region off n).part = s.part := by
  simp [freeArea, apply_ite State.part]

@[simp] theorem freeLayer_part (s : State) (x : Job) (d : Bytes) : (freeLayer s x d).part = s.part := by
  simp [freeLayer, apply_ite State.part]

@[simp] theorem faultLayer_part (s : State) (x : Job) (y : GrdLayer) : (faultLayer s x y).part = s.part := by simp [faultLayer]
@[simp] theorem dropColl_part (s : State) : (dropColl s).part = s.part := by simp [dropColl]

@[simp] theorem grdAbort_part (s : State) (j : Nat) : (grdAbort s j).part = s.part := by
  unfold grdAbort
  split
  · rfl
  · split
    · rfl
    · extract_lets bad s1 s2 notes s3 s4
      have h1 : s1.part = s.part := foldl_part _ _ _ fun s y => faultLayer_part _ _ _
      have h2 : s2.part = s1.part := foldl_part _ _ _ fun s k => foldl_part _ _ _ fun s i => writeOther_part _ _ _
      have h4 : s4.part = s.part := by rw [wr_part, dropColl_part, h2, h1]
      split
      · exact h4
      · exact (grdDisarm_part _).trans h4

/-! ### Operations of Machine/Runs -/

@[simp] theorem kickDeferred_part (s : State) : (kickDeferred s).part = s.part := by simp [kickDeferred]
@[simp] theorem clearKick_part (s : State) (t : Nat) : (clearKick s t).part = s.part := by simp [clearKick]

@[simp] theorem kickQueues_part (s : State) (t : Nat) (mine : List Nat) : (kickQueues s t mine).part = s.part := by
  simp [kickQueues]

@[simp] theorem kickTile_part (s : State) (t run task : Nat) (x : Run) (entry : Nat) :
    (kickTile s t run task x entry).part = s.part := by
  simp [kickTile]

@[simp] theorem readyTasks_part (s : State) (r : Nat) : (readyTasks s r).part = s.part := by
  unfold readyTasks
  repeat' split
  all_goals simp

@[simp] theorem startTask_part (s : State) (r k : Nat) : (startTask s r k).part = s.part := by
  unfold startTask
  repeat' split
  all_goals simp

@[simp] theorem delayPending_part (s : State) (j w : Nat) : (delayPending s j w).part = s.part := by simp [delayPending]

@[simp] theorem noteMargin_part (s : State) (x : Run) (m : Nat) : (noteMargin s x m).part = s.part := by
  unfold noteMargin
  dsimp only
  repeat' split
  all_goals simp

@[simp] theorem beforeLines_part (s : State) (r : Nat) (x : Run) (j : Job) (f : Form) (n : Nat) :
    (beforeLines s r x j f n).part = s.part :=
  (foldl_part _ _ _ fun s c => by split <;> simp).trans (foldl_part _ _ _ fun s p => by split <;> simp)

@[simp] theorem replayLine_part (s : State) (r : Nat) (isCarry : Bool) (plan idx entry : Nat) (b : Bytes) :
    (replayLine s r isCarry plan idx entry b).part = s.part := by
  simp [replayLine]

@[simp] theorem replayLines_part (s : State) (r : Nat) (x : Run) (j : Job) (f : Form) :
    (replayLines s r x j f).part = s.part := by
  simp [replayLines]

@[simp] theorem endLines_part (s : State) (r : Nat) : (endLines s r).part = s.part := by
  unfold endLines
  repeat' split
  all_goals simp

@[simp] theorem unbindDone_part (s : State) (p : Period) (d : Nat) : (unbindDone s p d).part = s.part := by
  simp [unbindDone, apply_ite State.part]

@[simp] theorem endBind_part (s : State) (q status detail retakes epoch : Nat) :
    (endBind s q status detail retakes epoch).part = s.part := by
  unfold endBind
  dsimp only
  repeat' split
  all_goals simp

@[simp] theorem dropPeriodRuns_part (s : State) (j : Nat) : (dropPeriodRuns s j).part = s.part := by simp [dropPeriodRuns]

@[simp] theorem endRun_part (s : State) (r outcome status detail : Nat) : (endRun s r outcome status detail).part = s.part := by
  unfold endRun
  split
  · rfl
  · extract_lets s1 s2 s3 s4 bound s5
    have h3 : s3.part = s.part := by
      unfold s3
      split
      · split <;> simp [s2, s1]
      · simp [s2, s1]
    have h4 : s4.part = s.part := (delayPending_part _ _ _).trans h3
    have h5 : s5.part = s.part := by
      unfold s5
      split
      · simp [h4]
      · cases bound with
        | some q => exact part_of_keepsPart (keepsPart_ite (by simp [h4]) (by simp [h4]))
        | none => exact h4
    split
    · exact (unbindPlans_part _ _).trans h5
    · exact h5

@[simp] theorem completeRun_part (s : State) (r : Nat) : (completeRun s r).part = s.part := by
  unfold completeRun
  repeat' split
  all_goals simp

@[simp] theorem gatherTile_part (s : State) (t r : Nat) : (gatherTile s t r).part = s.part := by simp [gatherTile]

@[simp] theorem execTileComplete_keepsPart (t : Nat) (s : State) : PartKept s (execTileComplete t s) := by
  unfold execTileComplete
  split
  · simp
  · refine keepsPart_ite (by simp) ?_
    extract_lets last s1 s2 s3 s4 s5
    have h4 : s4.part = s.part := by
      rw [modRun_part, modTile_part, gatherTile_part, closeQueues_part, settleBy_part, setTick_part, flushMicros_part]
    have h5 : s5.part = s.part := (modRun_part _ _ _).trans h4
    split
    · exact keepsPart_of_part h4
    · split
      · exact keepsPart_of_part h4
      · refine keepsPart_ite (keepsPart_of_part h4) (keepsPart_ite (keepsPart_ite ?_ ?_) ?_) <;> simp [h5]

@[simp] theorem execTaskStart_keepsPart (run task : Nat) (s : State) : PartKept s (execTaskStart run task s) := by
  unfold execTaskStart
  repeat' split
  all_goals simp

@[simp] theorem armCounters_part (s : State) (j : Nat) (x : Job) (epoch : Nat) : (armCounters s j x epoch).part = s.part := by
  simp [armCounters]

@[simp] theorem earlyLines_part (s : State) (r : Nat) (x : Run) (n : Nat) : (earlyLines s r x n).part = s.part :=
  foldl_part _ _ _ fun s p => by
    split
    · split <;> simp
    · rfl

@[simp] theorem nameRun_part (s : State) (r : Nat) (x : Run) : (nameRun s r x).part = s.part := by
  unfold nameRun
  split <;> simp

@[simp] theorem kickRun_part (s : State) (r : Nat) (x : Run) (j : Job) : (kickRun s r x j).part = s.part := by
  unfold kickRun
  extract_lets epoch s1 grd s2 s3 s4 audited serial s5 replay s6 n s7 s8 zero
  have h5 : s5.part = s.part := by simp [s5, s4, s3, s2, s1, apply_ite State.part]
  have h6 : s6.part = s5.part := modRun_part _ _ _
  have h7 : s7.part = s6.part := by
    unfold s7
    split
    · dsimp only
      split
      · exact (earlyLines_part _ _ _ _).trans (foldl_part _ _ _ fun s p => planStart_part _ _ _)
      · exact foldl_part _ _ _ fun s p => planStart_part _ _ _
    · exact foldl_part _ _ _ fun s p => planStart_part _ _ _
  have h8 : s8.part = s7.part := foldl_part _ _ _ fun s t => modTile_part _ _ _
  rw [readyTasks_part, foldl_part _ _ _ fun s k => startTask_part _ _ _, h8, h7, h6, h5]

@[simp] theorem graphKick_part (s : State) (r : Nat) (x : Run) (j : Job) : (graphKick s r x j).part = s.part := by
  unfold graphKick
  repeat' split
  all_goals simp

@[simp] theorem execKickoff_keepsPart (run : Nat) (s : State) : PartKept s (execKickoff run s) := by
  unfold execKickoff
  repeat' split
  all_goals simp

@[simp] theorem cutPiece_part (s : State) (t : Nat) (f : Transfer) (k : Nat) : (cutPiece s t f k).part = s.part := by
  simp [cutPiece, apply_ite State.part]

@[simp] theorem cutXfers_part (s : State) (t : Nat) : (cutXfers s t).part = s.part := by simp [cutXfers]

@[simp] theorem abortRun_part (s : State) (r : Nat) : (abortRun s r).part = s.part := by
  unfold abortRun
  dsimp only
  repeat' split
  all_goals simp [apply_ite State.part]

@[simp] theorem overrun_part (s : State) (r : Nat) (x : Run) : (overrun s r x).part = s.part := by
  simp [overrun, apply_ite State.part]

@[simp] theorem execJobStop_keepsPart (job : Nat) (s : State) : PartKept s (execJobStop job s) := by
  unfold execJobStop
  dsimp only
  repeat' split
  all_goals simp

/-! ### Operations of Machine/Posts -/

@[simp] theorem finishPosts_part (s : State) (r : Nat) : (finishPosts s r).part = s.part := by
  unfold finishPosts
  repeat' split
  all_goals simp

@[simp] theorem serveRings_part (s : State) : (serveRings s).part = s.part := by
  unfold serveRings
  split <;> simp

@[simp] theorem execPostRead_keepsPart (s : State) : PartKept s (execPostRead s) := by
  unfold execPostRead
  repeat' split
  all_goals simp

@[simp] theorem execSegmentApply_keepsPart (layer seg : Nat) (s : State) : PartKept s (execSegmentApply layer seg s) := by
  unfold execSegmentApply
  repeat' split
  all_goals simp

@[simp] theorem execTrustPhaseTwo_keepsPart (layer : Nat) (s : State) : PartKept s (execTrustPhaseTwo layer s) := by
  unfold execTrustPhaseTwo
  dsimp only
  repeat' split
  all_goals simp

@[simp] theorem closeWrites_part (s : State) (x : Job) (y : GrdLayer) : (closeWrites s x y).part = s.part := by
  simp [closeWrites, apply_ite State.part]

@[simp] theorem execLayerClose_keepsPart (layer : Nat) (s : State) : PartKept s (execLayerClose layer s) := by
  unfold execLayerClose
  dsimp only
  repeat' split
  all_goals simp

@[simp] theorem execSetStep_keepsPart (sq : Nat) (s : State) : PartKept s (execSetStep sq s) := by
  unfold execSetStep
  dsimp only
  repeat' split
  all_goals simp

/-! ### Operations of Machine/Reliability -/

@[simp] theorem evalFailed_part (s : State) : (evalFailed s).part = s.part := by simp [evalFailed, apply_ite State.part]
@[simp] theorem condemnSite_part (s : State) (t : Nat) : (condemnSite s t).part = s.part := by simp [condemnSite]
@[simp] theorem condemnStack_part (s : State) (p : Nat) : (condemnStack s p).part = s.part := by simp [condemnStack]

@[simp] theorem queueUnit_part (s : State) (t kind idx : Nat) (subm : Option Nat) :
    (queueUnit s t kind idx subm).part = s.part := by
  simp [queueUnit, apply_ite State.part]

@[simp] theorem passOn_part (s : State) (t kind : Nat) : (passOn s t kind).part = s.part := by simp [passOn, apply_ite State.part]

@[simp] theorem retireSpare_part (s : State) (t kind idx : Nat) : (retireSpare s t kind idx).part = s.part := by
  unfold retireSpare
  repeat' split
  all_goals simp

@[simp] theorem condemn_part (s : State) (t kind idx : Nat) : (condemn s t kind idx).part = s.part := by
  simp [condemn, apply_ite State.part]

@[simp] theorem countFault_part (s : State) (tile : Nat) (u : Option (Nat × Nat)) : (countFault s tile u).1.part = s.part := by
  unfold countFault
  dsimp only
  repeat' split
  all_goals simp

@[simp] theorem shadowFault_part (s : State) (t pos : Nat) : (shadowFault s t pos).1.part = s.part := by simp [shadowFault]

@[simp] theorem hwFaultOn_part (s : State) (code tile idx : Nat) (rs : List Nat) :
    (hwFaultOn s code tile idx rs).part = s.part := by
  unfold hwFaultOn
  extract_lets u key twice s1
  have h1 : s1.part = s.part := foldl_part _ _ _ fun s r => modRun_part _ _ _
  clear_value s1 twice key u
  split
  next s2 hit he =>
    have h2 : s2.part = s.part := part_of_pair_eq he (by split <;> simp [h1])
    split
    next s3 limit hc =>
      have h3 : s3.part = s.part := part_of_pair_eq hc ((countFault_part _ _ _).trans h2)
      refine (foldl_part _ _ _ fun s r => part_of_keepsPart ?_).trans ((raise_part _ _ _).trans ((wrs_part _ _).trans ?_))
      · dsimp only
        split
        · split
          · exact keepsPart_ite (by simp) (by simp)
          · simp
        · simp
      · split
        · exact (condemn_part _ _ _ _).trans h3
        · exact h3

@[simp] theorem hwFault_part (s : State) (code tile idx : Nat) : (hwFault s code tile idx).part = s.part := by simp [hwFault]

@[simp] theorem execHardwareFault_keepsPart (code tile idx : Nat) (s : State) :
    PartKept s (execHardwareFault code tile idx s) := by
  simp [execHardwareFault, apply_ite State.part]

@[simp] theorem execTimingMarginFault_keepsPart (t : Nat) (s : State) : PartKept s (execTimingMarginFault t s) := by
  simp [execTimingMarginFault, apply_ite State.part]

@[simp] theorem noteXovr_part (s : State) (t link : Nat) (under over' : Bool) :
    (noteXovr s t link under over').part = s.part := by
  simp [noteXovr, apply_ite State.part]

@[simp] theorem execXovr_keepsPart (t link : Nat) (overrun : Bool) (s : State) : PartKept s (execXovr t link overrun s) := by
  simp [execXovr]

@[simp] theorem execRefreshLate_keepsPart (t rowGroup : Nat) (s : State) : PartKept s (execRefreshLate t rowGroup s) := by
  simp [execRefreshLate, apply_ite State.part]

@[simp] theorem execControllerRefresh_keepsPart (t rowGroup : Nat) (s : State) :
    PartKept s (execControllerRefresh t rowGroup s) := by
  simp [execControllerRefresh, apply_ite State.part]

@[simp] theorem execPatrolScrub_keepsPart (addr : Nat) (uncorrectable deviceLost passEnd : Bool) (s : State) :
    PartKept s (execPatrolScrub addr uncorrectable deviceLost passEnd s) := by
  simp [execPatrolScrub, apply_ite State.part]

@[simp] theorem execAutoSubstitute_keepsPart (t kind idx : Nat) (s : State) : PartKept s (execAutoSubstitute t kind idx s) := by
  unfold execAutoSubstitute
  repeat' split
  all_goals simp

@[simp] theorem replaceUnit_part (s : State) (t kind idx : Nat) : (replaceUnit s t kind idx).1.part = s.part := by
  unfold replaceUnit
  repeat' split
  all_goals simp

@[simp] theorem execUnitReplaceDone_keepsPart (t : Nat) (s : State) : PartKept s (execUnitReplaceDone t s) := by
  unfold execUnitReplaceDone
  dsimp only
  repeat' split
  all_goals simp

@[simp] theorem execSiteCopyStart_keepsPart (t : Nat) (s : State) : PartKept s (execSiteCopyStart t s) := by
  unfold execSiteCopyStart
  repeat' split
  all_goals simp

@[simp] theorem freeScratch_part (s : State) (t : Nat) : (freeScratch s t).part = s.part := by simp [freeScratch]

@[simp] theorem newSiteRegs_part (s : State) (t : Nat) : (newSiteRegs s t).part = s.part :=
  (syncShadow_part _ t).trans ((foldl_part _ _ _ fun _ _ => wr_part _ _ _).trans (wrs_part _ _))

@[simp] theorem newSiteTim_part (s : State) (t : Nat) : (newSiteTim s t).part = s.part :=
  (foldl_part _ _ _ fun s l => by split <;> simp).trans (wrs_part _ _)

@[simp] theorem execSiteCopyDone_keepsPart (t : Nat) (s : State) : PartKept s (execSiteCopyDone t s) := by
  unfold execSiteCopyDone
  split
  · simp
  · extract_lets old time s1 s2 s3
    have h2 : s2.part = s.part := by
      unfold s2
      rw [newSiteTim_part, newSiteRegs_part]
      exact wrs_part _ _
    have h3 : s3.part = s2.part := by simp [s3, apply_ite State.part]
    exact keepsPart_of_part (by rw [pumpAll_part, complete_part, raise_part, h3, h2])

@[simp] theorem execStackCopyDone_keepsPart (poisoned : Nat) (s : State) : PartKept s (execStackCopyDone poisoned s) := by
  unfold execStackCopyDone
  split
  · simp
  · extract_lets old s1 s2
    have h2 : s2.part = s.part := wrs_part _ _
    exact keepsPart_of_part (by rw [pumpAll_part, complete_part, evalFailed_part, raise_part, h2])

@[simp] theorem substUnit_part (s : State) (d : Desc) (kind t idx : Nat) (imageDigest : Bytes) :
    (substUnit s d kind t idx imageDigest).part = s.part := by
  simp [substUnit, apply_ite State.part]

@[simp] theorem execSubstitute_keepsPart (sq : Nat) (imageDigest : Bytes) (s : State) :
    PartKept s (execSubstitute sq imageDigest s) := by
  unfold execSubstitute
  dsimp only
  repeat' split
  all_goals simp

@[simp] theorem execScrub_keepsPart (sq : Nat) (s : State) : PartKept s (execScrub sq s) := by
  unfold execScrub
  dsimp only
  repeat' split
  all_goals simp

@[simp] theorem execSiteTestDone_keepsPart (sq : Nat) (fault : Option (Nat × Nat)) (s : State) :
    PartKept s (execSiteTestDone sq fault s) := by
  unfold execSiteTestDone
  dsimp only
  repeat' split
  all_goals simp

@[simp] theorem execMemoryScrubDone_keepsPart (sq uncorrectable : Nat) (s : State) :
    PartKept s (execMemoryScrubDone sq uncorrectable s) := by
  unfold execMemoryScrubDone
  split <;> simp

@[simp] theorem wearSite_part (s : State) (w : SiteWear) : (wearSite s w).part = s.part := by
  simp [wearSite, apply_ite State.part]

@[simp] theorem wearStack_part (s : State) (p rate : Nat) : (wearStack s p rate).part = s.part := by
  simp [wearStack, apply_ite State.part]

@[simp] theorem wearLink_part (s : State) (u m : Nat) : (wearLink s u m).part = s.part := by simp [wearLink, apply_ite State.part]

@[simp] theorem execWearSample_keepsPart (sites : List SiteWear) (stackRates linkMargins : List (Nat × Nat)) (s : State) :
    PartKept s (execWearSample sites stackRates linkMargins s) := by
  simp [execWearSample]

@[simp] theorem restoreMaps_part (s : State) : (restoreMaps s).part = s.part :=
  (foldl_part _ _ _ fun _ _ => wr_part _ _ _).trans (foldl_part _ _ _ fun _ _ => wrs_part _ _)

@[simp] theorem commitMaps_part (s : State) : (commitMaps s).part = s.part :=
  (foldl_part _ _ _ fun _ _ => wr_part _ _ _).trans (foldl_part _ _ _ newSiteTim_part)

@[simp] theorem execMapCommit_keepsPart (fn : Nat) (s : State) : PartKept s (execMapCommit fn s) := by
  simp [execMapCommit, apply_ite State.part]

/-! ### Operations of Machine/Jobs -/

@[simp] theorem addRun_part (s : State) (x : Run) : (addRun s x).part = s.part := by simp [addRun]

@[simp] theorem execStartBell_keepsPart (q : Nat) (s : State) : PartKept s (execStartBell q s) := by
  unfold execStartBell
  dsimp only
  repeat' split
  all_goals simp

@[simp] theorem execMarkBell_keepsPart (q m : Nat) (s : State) : PartKept s (execMarkBell q m s) := by
  unfold execMarkBell
  repeat' split
  all_goals simp

@[simp] theorem execBellAct_keepsPart (q m : Nat) (s : State) : PartKept s (execBellAct q m s) := by
  unfold execBellAct
  repeat' split
  all_goals simp

@[simp] theorem execStartTodBell_keepsPart (run : Nat) (s : State) : PartKept s (execStartTodBell run s) := by
  unfold execStartTodBell
  repeat' split
  all_goals simp

@[simp] theorem enqueueGraph_part (s : State) (d : Desc) (j : Job) : (enqueueGraph s d j).part = s.part := by
  simp [enqueueGraph, apply_ite State.part]

@[simp] theorem execRunGraph_keepsPart (sq : Nat) (s : State) : PartKept s (execRunGraph sq s) := by
  unfold execRunGraph
  repeat' split
  all_goals simp

@[simp] theorem wakeGraphs_part (s : State) (j : Nat) : (wakeGraphs s j).part = s.part :=
  foldl_part _ _ _ fun s d => by
    split
    · split <;> simp
    · simp

@[simp] theorem clearPeriodRegs_part (s : State) (q job : Nat) : (clearPeriodRegs s q job).part = s.part := by
  simp [clearPeriodRegs]

@[simp] theorem acceptBind_part (s : State) (d : Desc) (j : Job) : (acceptBind s d j).part = s.part := by simp [acceptBind]

@[simp] theorem execBindPeriod_keepsPart (sq : Nat) (s : State) : PartKept s (execBindPeriod sq s) := by
  unfold execBindPeriod
  repeat' split
  all_goals simp

@[simp] theorem execUnbindPeriod_keepsPart (sq : Nat) (s : State) : PartKept s (execUnbindPeriod sq s) := by
  unfold execUnbindPeriod
  repeat' split
  all_goals simp

@[simp] theorem execSetFallback_keepsPart (sq : Nat) (s : State) : PartKept s (execSetFallback sq s) := by
  unfold execSetFallback
  repeat' split
  all_goals simp

@[simp] theorem freeCounters_part (s : State) (x : Job) : (freeCounters s x).part = s.part := by simp [freeCounters]

@[simp] theorem removeJob_part (s : State) (j : Nat) (x : Job) : (removeJob s j x).part = s.part := by
  refine (foldl_part _ _ _ fun s t => wrs_part _ _).trans ?_
  rw [freeCounters_part, unbindPlans_part, grdDisarmJob_part]
  exact foldl_part _ _ _ fun s g => zeroSpan_part _ _ _

@[simp] theorem finishUnload_part (s : State) (j : Nat) : (finishUnload s j).part = s.part := by
  unfold finishUnload
  repeat' split
  all_goals simp

@[simp] theorem forceUnload_part (s : State) (j : Nat) : (forceUnload s j).part = s.part := by
  unfold forceUnload
  dsimp only
  repeat' split
  all_goals simp

@[simp] theorem execUnload_keepsPart (sq : Nat) (s : State) : PartKept s (execUnload sq s) := by
  unfold execUnload
  repeat' split
  all_goals simp

@[simp] theorem execRunAbortComplete_keepsPart (run : Nat) (s : State) : PartKept s (execRunAbortComplete run s) := by
  unfold execRunAbortComplete
  dsimp only
  repeat' split
  all_goals simp

@[simp] theorem forgetItems_part (s : State) (n : RunName) : (forgetItems s n).part = s.part := by simp [forgetItems]

@[simp] theorem execRetakePrepare_keepsPart (run : Nat) (s : State) : PartKept s (execRetakePrepare run s) := by
  unfold execRetakePrepare
  split
  · simp
  · refine keepsPart_ite (by simp) ?_
    extract_lets q s1 s2 s3 time s4 s5 s6 s7
    have h3 : s3.part = s.part := by simp [s3, s2, s1, apply_ite State.part]
    have h6 : s6.part = s.part := by simp [s6, s5, s4, apply_ite State.part, h3]
    have h7 : s7.part = s6.part := by
      unfold s7
      split
      · simp [apply_ite State.part]
      · rfl
    exact keepsPart_of_part (by rw [modRun_part, h7, h6])

@[simp] theorem execFabricDiscard.stale_part (s : State) (i : Item) : (execFabricDiscard.stale s i).part = s.part := by
  unfold execFabricDiscard.stale
  split <;> simp

@[simp] theorem execFabricDiscard_keepsPart (item : Nat) (s : State) : PartKept s (execFabricDiscard item s) := by
  unfold execFabricDiscard
  dsimp only
  split
  · simp
  · split
    · simp
    · split
      · split <;> simp
      · simp

/-! ### Operations of Machine/Coll -/

@[simp] theorem sendAck_part (s : State) (a : Nat) : (sendAck s a).part = s.part := by simp [sendAck]

@[simp] theorem noteRx_part (s : State) (a seqn : Nat) (new : Bool) : (noteRx s a seqn new).part = s.part := by
  simp [noteRx, apply_ite State.part]

@[simp] theorem execAckTimer_keepsPart (assoc : Nat) (s : State) : PartKept s (execAckTimer assoc s) := by
  simp [execAckTimer, apply_ite State.part]

@[simp] theorem resendColl_part (s : State) (a : Nat) (c : CollSent) : (resendColl s a c).part = s.part := by simp [resendColl]

@[simp] theorem execAck_keepsPart (assoc : Nat) (msg : Bytes) (s : State) : PartKept s (execAck assoc msg s) := by
  simp [execAck, apply_ite State.part]

@[simp] theorem collFailed_part (s : State) (a : Nat) (c : CollSent) : (collFailed s a c).part = s.part := by simp [collFailed]

@[simp] theorem execCollRetransmit_keepsPart (assoc seq : Nat) (s : State) : PartKept s (execCollRetransmit assoc seq s) := by
  unfold execCollRetransmit
  dsimp only
  repeat' split
  all_goals simp

@[simp] theorem dupColl_part (s : State) (a : Nat) : (dupColl s a).part = s.part := by simp [dupColl]

@[simp] theorem takeColl_part (s : State) (a : Nat) (m : Bytes) : (takeColl s a m).part = s.part := by
  simp [takeColl, apply_ite State.part]

@[simp] theorem releaseEnds_part (s : State) (a : Nat) : (releaseEnds s a).part = s.part := by simp [releaseEnds]

@[simp] theorem acceptColl_part (s : State) (a : Nat) (m : Bytes) : (acceptColl s a m).part = s.part := by
  simp [acceptColl, apply_ite State.part]

@[simp] theorem execColl_keepsPart (assoc : Nat) (msg : Bytes) (s : State) : PartKept s (execColl assoc msg s) := by
  unfold execColl
  extract_lets port seqn seg x seen
  clear_value seqn seg seen
  refine keepsPart_ite (by simp) (keepsPart_ite (by simp) ?_)
  split
  · exact keepsPart_ite (by simp) (keepsPart_ite (by simp) (keepsPart_ite (by simp) (by simp)))
  · simp

/-! ### Operations of Machine/Restart -/

@[simp] theorem restart_part (s : State) (keep : Nat → Bool) (m : List Host.Cell) : (restart s keep m).part = s.part := by
  simp [restart]

@[simp] theorem tripModule_part (s : State) : (tripModule s).part = s.part := by simp [tripModule, apply_ite State.part]

/-! ### Operations of Machine/Time -/

@[simp] theorem timeSync_part (s : State) : (timeSync s).part = s.part := by simp [timeSync, apply_ite State.part]

@[simp] theorem sourceLocked_part (s : State) (src : Nat) : (sourceLocked s src).part = s.part := by
  simp [sourceLocked, apply_ite State.part]

@[simp] theorem syncPending_part (s : State) : (syncPending s).part = s.part := by simp [syncPending]

@[simp] theorem passBells_part (s : State) (q : Nat) (p : Period) (lo hi : Nat) : (passBells s q p lo hi).part = s.part := by
  simp [passBells, apply_ite State.part]

@[simp] theorem stepTod_part (s : State) (c : Int) : (stepTod s c).part = s.part := by
  unfold stepTod
  extract_lets lo s1 s2 s3
  have h3 : s3.part = s.part := by simp [s3, s2, s1]
  split
  · exact (foldl_part _ _ _ fun s q => by split <;> simp).trans h3
  · simp [s2, s1]

@[simp] theorem correct_part (s : State) (c : Int) : (correct s c).part = s.part := by simp [correct, apply_ite State.part]
@[simp] theorem adjust_part (s : State) (c : Int) : (adjust s c).part = s.part := by simp [adjust]

@[simp] theorem setTodNow_part (s : State) (v : Nat) : (setTodNow s v).part = s.part := by
  rw [setTodNow, timeSync_part, syncPending_part, wr_part, modTime_part, setTodFine_part]

@[simp] theorem execTimTodSet_keepsPart (fn : Nat) (v : Word64) (s : State) : PartKept s (execTimTodSet fn v s) := by
  simp [execTimTodSet, apply_ite State.part]

@[simp] theorem ptpMark_part (s : State) (mark : Bool) : (ptpMark s mark).part = s.part := by
  unfold ptpMark
  dsimp only
  repeat' split
  all_goals simp

@[simp] theorem execTimAdjPhase_keepsPart (fn : Nat) (phase : BitVec 32) (mark : Bool) (s : State) :
    PartKept s (execTimAdjPhase fn phase mark s) := by
  simp [execTimAdjPhase, apply_ite State.part]

@[simp] theorem execTimAdjRate_keepsPart (fn : Nat) (rate : BitVec 24) (mark : Bool) (s : State) :
    PartKept s (execTimAdjRate fn rate mark s) := by
  simp [execTimAdjRate, apply_ite State.part]

@[simp] theorem ptpLost_part (s : State) : (ptpLost s).part = s.part := by simp [ptpLost]
@[simp] theorem judgePtp_part (s : State) : (judgePtp s).part = s.part := by simp [judgePtp, apply_ite State.part]

@[simp] theorem execTimeSourceConfig_keepsPart (fn : Nat) (v : Word64) (s : State) :
    PartKept s (execTimeSourceConfig fn v s) := by
  unfold execTimeSourceConfig
  refine keepsPart_ite (by simp) ?_
  extract_lets n was p q moved s1 s2 s3 s4 s5 s6
  have h3 : s3.part = s.part := by simp [s3, s2, s1, apply_ite State.part]
  have h4 : s4.part = s.part := by simp [s4, h3, apply_ite State.part]
  have h5 : s5.part = s4.part := by
    unfold s5
    split
    · split <;> simp
    · rfl
  have h6 : s6.part = s5.part := by simp [s6, apply_ite State.part]
  refine keepsPart_of_part ((timeSync_part _).trans ?_)
  split <;> simp [h6, h5, h4]

@[simp] theorem execSlewComplete_keepsPart (s : State) : PartKept s (execSlewComplete s) := by
  simp [execSlewComplete, apply_ite State.part]

@[simp] theorem measureRef_part (s : State) : (measureRef s).part = s.part := by simp [measureRef]
@[simp] theorem execRefLost_keepsPart (s : State) : PartKept s (execRefLost s) := by simp [execRefLost, apply_ite State.part]

@[simp] theorem execRefRestored_keepsPart (s : State) : PartKept s (execRefRestored s) := by
  simp [execRefRestored, apply_ite State.part]

@[simp] theorem rejectEdge_part (s : State) : (rejectEdge s).part = s.part := by
  unfold rejectEdge
  refine part_of_keepsPart (keepsPart_ite (keepsPart_of_part ((modTime_part _ _).trans (bump_part _ _ _))) (keepsPart_of_part ?_))
  rw [modTime_part, correct_part, raise_part, modTime_part, bump_part]

@[simp] theorem acceptEdge_part (s : State) (err : Option Int) : (acceptEdge s err).part = s.part := by
  unfold acceptEdge
  extract_lets e rate s1 s2 s3 was near good s4
  have h3 : s3.part = s.part := by
    have h2 : s2.part = s.part := by simp [s2, s1]
    rw [← h2]
    simp only [s3]
    repeat' split
    all_goals simp
  have h4 : s4.part = s.part := (modTime_part _ _).trans h3
  split <;> simp [h4]

@[simp] theorem execPpsEdge_keepsPart (falling : Bool) (widthNs : Nat) (s : State) :
    PartKept s (execPpsEdge falling widthNs s) := by
  unfold execPpsEdge
  repeat' split
  all_goals simp

@[simp] theorem execPpsHoldover_keepsPart (s : State) : PartKept s (execPpsHoldover s) := by
  unfold execPpsHoldover
  repeat' split
  all_goals simp

@[simp] theorem execPtpLost_keepsPart (s : State) : PartKept s (execPtpLost s) := by
  unfold execPtpLost
  repeat' split
  all_goals simp

@[simp] theorem execPpsMissing_keepsPart (s : State) : PartKept s (execPpsMissing s) := by
  unfold execPpsMissing
  dsimp only
  repeat' split
  all_goals simp

@[simp] theorem execPpsOutAssert_keepsPart (s : State) : PartKept s (execPpsOutAssert s) := by
  simp [execPpsOutAssert, apply_ite State.part]

@[simp] theorem execPpsOutRelease_keepsPart (s : State) : PartKept s (execPpsOutRelease s) := by
  simp [execPpsOutRelease, apply_ite State.part]

@[simp] theorem setTarget_part (s : State) (v : Nat) : (setTarget s v).part = s.part := by simp [setTarget, apply_ite State.part]

@[simp] theorem execFreqTargetWrite_keepsPart (fn : Nat) (target : BitVec 2) (s : State) :
    PartKept s (execFreqTargetWrite fn target s) := by
  simp [execFreqTargetWrite, apply_ite State.part]

@[simp] theorem execPllRelock_keepsPart (s : State) : PartKept s (execPllRelock s) := by
  simp [execPllRelock, apply_ite State.part]

@[simp] theorem execRelockDone_keepsPart (s : State) : PartKept s (execRelockDone s) := by
  simp [execRelockDone, apply_ite State.part]

@[simp] theorem regrid_part (s : State) : (regrid s).part = s.part := by simp [regrid]
@[simp] theorem startGrid_part (s : State) : (startGrid s).part = s.part := by simp [startGrid]

@[simp] theorem execRollCallDone_keepsPart (offsets : List (Nat × Nat × Nat)) (s : State) :
    PartKept s (execRollCallDone offsets s) := by
  simp [execRollCallDone, apply_ite State.part]

@[simp] theorem execRollCallFail_keepsPart (t link : Nat) (s : State) : PartKept s (execRollCallFail t link s) := by
  unfold execRollCallFail
  refine keepsPart_ite (by simp) ?_
  extract_lets step r s1 s2 s3 s4
  have h3 : s3.part = s.part := by
    rw [modTime_part, startGrid_part, hwFaultOn_part, raise_part, noteXovr_part]
  have h4 : s4.part = s.part := by
    unfold s4
    split
    · exact (wr_part _ _ _).trans h3
    · exact h3
  clear_value s4 r
  split
  · split
    · exact keepsPart_ite (by simp [h4]) (by simp [h4])
    · simp [h4]
  · simp [h4]

/-! ### Operations of Machine/Power -/

@[simp] theorem syncRatios_part (s : State) : (syncRatios s).part = s.part := by simp [syncRatios]

@[simp] theorem formCaps_part (s : State) (qs : List Nat) : (formCaps s qs).part = s.part := by
  simp [formCaps, apply_ite State.part]

@[simp] theorem formTherms_part (s : State) : (formTherms s).part = s.part := by simp [formTherms, apply_ite State.part]

@[simp] theorem noteFill_part (s : State) (r l w : Nat) : (noteFill s r l w).part = s.part := by
  simp [noteFill, apply_ite State.part]

@[simp] theorem execDroopStretch_keepsPart (t : Nat) (s : State) : PartKept s (execDroopStretch t s) := by
  unfold execDroopStretch
  extract_lets s1 s2
  have h2 : s2.part = s.part := by simp [s2, s1, apply_ite State.part]
  split
  · simp
  · split
    · exact keepsPart_of_part ((foldl_part _ _ _ fun s l => by split <;> simp).trans h2)
    · simp

@[simp] theorem equalise_part (s : State) : (equalise s).part = s.part := by simp [equalise, apply_ite State.part]

@[simp] theorem windowDomain_part (s : State) (q : Nat) : (windowDomain s q).part = s.part := by
  simp [windowDomain, apply_ite State.part]

@[simp] theorem execWindowEnd_keepsPart (s : State) : PartKept s (execWindowEnd s) := by
  unfold execWindowEnd
  dsimp only
  repeat' split
  all_goals simp

@[simp] theorem addEnergy_part (s : State) (k : Nat) (f : Fld) (cw : Nat) : (addEnergy s k f cw).part = s.part := by
  simp [addEnergy]

@[simp] theorem accountEnergy_part (s : State) (grading : Nat) (service : List (Nat × Nat)) :
    (accountEnergy s grading service).part = s.part := by
  unfold accountEnergy
  dsimp only
  repeat' split
  all_goals simp

@[simp] theorem coarsen_part (s : State) : (coarsen s).part = s.part := by simp [coarsen, apply_ite State.part]
@[simp] theorem saturate_part (s : State) : (saturate s).part = s.part := by simp [saturate, apply_ite State.part]

@[simp] theorem execPowerInterval_keepsPart (base : Nat) (tiles : List TileTerm) (traffic : List (Nat × Nat)) (grading : Nat)
    (service : List (Nat × Nat)) (s : State) : PartKept s (execPowerInterval base tiles traffic grading service s) := by
  unfold execPowerInterval
  extract_lets s1 terms flow g share dead pwr s2 s3 total s4 pwr' s5
  have h2 : s2.part = s.part := saturate_part s
  have h3 : s3.part = s2.part := foldl_part _ _ _ fun s t => wr_part _ _ _
  have h4 : s4.part = s.part := by rw [accountEnergy_part, wr_part, h3, h2]
  exact keepsPart_of_part ((formCaps_part _ _).trans ((coarsen_part _).trans h4))

@[simp] theorem execInputSample_keepsPart (watts : Nat) (s : State) : PartKept s (execInputSample watts s) := by
  simp [execInputSample, apply_ite State.part]

@[simp] theorem execCalibration_keepsPart (measuredUj estimatedUj : Nat) (s : State) :
    PartKept s (execCalibration measuredUj estimatedUj s) := by
  simp [execCalibration, apply_ite State.part]

@[simp] theorem takeReading_part (s : State) (r : TempReading) : (takeReading s r).part = s.part := by simp [takeReading]
@[simp] theorem syncHottest_part (s : State) : (syncHottest s).part = s.part := by simp [syncHottest]

@[simp] theorem execTempSample_keepsPart (readings : List TempReading) (s : State) : PartKept s (execTempSample readings s) := by
  simp [execTempSample, apply_ite State.part]

@[simp] theorem execThermStep_keepsPart (die : Nat) (s : State) : PartKept s (execThermStep die s) := by
  unfold execThermStep
  repeat' split
  all_goals simp

/-! ### Operations of Machine/Views -/

@[simp] theorem answerRead_part (s : State) (fn v : Nat) : (answerRead s fn v).part = s.part := by
  simp [answerRead, apply_ite State.part]

/-! ### Operations of Machine/Doubles -/

@[simp] theorem releaseOwn_part (s : State) (x : DblItem) : (releaseOwn s x).part = s.part := by
  unfold releaseOwn
  repeat' split
  all_goals simp

@[simp] theorem splitEvent_part (s : State) : (splitEvent s).part = s.part := by simp [splitEvent]
@[simp] theorem releaseSolo_part (s : State) (n : RunName) : (releaseSolo s n).part = s.part := by simp [releaseSolo]
@[simp] theorem becomeSingles_part (s : State) : (becomeSingles s).part = s.part := by simp [becomeSingles]
@[simp] theorem enterSingles_part (s : State) : (enterSingles s).part = s.part := by simp [enterSingles]
@[simp] theorem dropPair_part (s : State) (l : Nat) : (dropPair s l).part = s.part := by simp [dropPair, apply_ite State.part]

@[simp] theorem passPayload_part (s : State) (link k : Nat) (b : Bytes) : (passPayload s link k b).part = s.part := by
  simp [passPayload, apply_ite State.part]

@[simp] theorem execPairFrame_keepsPart (link : Nat) (header sealed : Bytes) (s : State) :
    PartKept s (execPairFrame link header sealed s) := by
  unfold execPairFrame
  dsimp only
  repeat' split
  all_goals simp

@[simp] theorem execPairResend_keepsPart (link seq : Nat) (s : State) : PartKept s (execPairResend link seq s) := by
  unfold execPairResend
  extract_lets p sent n
  clear_value sent n
  split
  · simp
  · exact keepsPart_ite (by simp) (keepsPart_of_part (bump_part _ _ _))

@[simp] theorem execPairHeartbeat_keepsPart (link : Nat) (s : State) : PartKept s (execPairHeartbeat link s) := by
  simp [execPairHeartbeat, apply_ite State.part]

@[simp] theorem execPairDown_keepsPart (link : Nat) (s : State) : PartKept s (execPairDown link s) := by
  simp [execPairDown, apply_ite State.part]

@[simp] theorem execPairUp_keepsPart (link : Nat) (s : State) : PartKept s (execPairUp link s) := by
  simp [execPairUp, apply_ite State.part]

@[simp] theorem execDoublesEnable_keepsPart (fn : Nat) (v : Word64) (s : State) : PartKept s (execDoublesEnable fn v s) := by
  simp [execDoublesEnable, apply_ite State.part]

@[simp] theorem execDoublesHelloTimer_keepsPart (s : State) : PartKept s (execDoublesHelloTimer s) := by
  simp [execDoublesHelloTimer, apply_ite State.part]

@[simp] theorem execDoublesHello_keepsPart (h : Hello) (s : State) : PartKept s (execDoublesHello h s) := by
  simp [execDoublesHello, apply_ite State.part]

@[simp] theorem execPairEstablish_keepsPart (s : State) : PartKept s (execPairEstablish s) := by
  simp [execPairEstablish, apply_ite State.part]

@[simp] theorem applySents_part (s : State) : (applySents s).part = s.part := by
  unfold applySents
  split
  exact foldl_part _ _ _ fun s x => by split <;> simp

@[simp] theorem wakeRun_part (s : State) (b n : Nat) : (wakeRun s b n).part = s.part := by simp [wakeRun]

@[simp] theorem buildSeats_part (s : State) (q n : Nat) (seats : List SeatRef) : (buildSeats s q n seats).part = s.part := by
  unfold buildSeats
  dsimp only
  repeat' split
  all_goals simp

@[simp] theorem execSeating_keepsPart (q n : Nat) (seats : List SeatRef) (s : State) : PartKept s (execSeating q n seats s) := by
  unfold execSeating
  dsimp only
  repeat' split
  all_goals simp

@[simp] theorem execReqFill_keepsPart (seat : Nat) (body : Bytes) (s : State) : PartKept s (execReqFill seat body s) := by
  unfold execReqFill
  split <;> simp

@[simp] theorem execSeatLost_keepsPart (q : Nat) (s : State) : PartKept s (execSeatLost q s) := by
  unfold execSeatLost
  dsimp only
  repeat' split
  all_goals simp

@[simp] theorem execResult_keepsPart (run : RunName) (kind idx : Nat) (item : Bytes) (s : State) :
    PartKept s (execResult run kind idx item s) := by
  simp [execResult, apply_ite State.part]

@[simp] theorem execSent_keepsPart (run : RunName) (kind idx status : Nat) (payload : Bytes) (s : State) :
    PartKept s (execSent run kind idx status payload s) := by
  simp [execSent, apply_ite State.part]

@[simp] theorem sendRetake_part (s : State) (n : RunName) (attempt code : Nat) : (sendRetake s n attempt code).part = s.part := by
  simp [sendRetake]

@[simp] theorem beginRetake_part (s : State) (r : Nat) (x : Run) (code : Nat) : (beginRetake s r x code).part = s.part := by
  simp [beginRetake, apply_ite State.part]

@[simp] theorem refuseRetake_part (s : State) (r : Nat) (x : Run) (n : RunName) (code : Nat) :
    (refuseRetake s r x n code).part = s.part := by
  simp [refuseRetake, apply_ite State.part]

@[simp] theorem partnerBars_part (s : State) (r : Nat) (x : Run) (n : RunName) : (partnerBars s r x n).part = s.part := by
  simp [partnerBars, apply_ite State.part]

@[simp] theorem execRetake_keepsPart (run : RunName) (attempt fault : Nat) (s : State) :
    PartKept s (execRetake run attempt fault s) := by
  unfold execRetake
  repeat' split
  all_goals simp

@[simp] theorem withhold_part (s : State) (n : RunName) : (withhold s n).part = s.part := by simp [withhold]

@[simp] theorem splitRun_part (s : State) (n : RunName) (first : Nat) : (splitRun s n first).part = s.part := by
  simp [splitRun, apply_ite State.part]

@[simp] theorem disagree_part (s : State) (n : RunName) (first : Nat) : (disagree s n first).part = s.part := by
  unfold disagree
  dsimp only
  repeat' split
  all_goals simp

@[simp] theorem judge_part (s : State) (n : RunName) (a b : RunDigests) : (judge s n a b).part = s.part := by
  simp [judge, apply_ite State.part]

@[simp] theorem compareDigests_part (s : State) : (compareDigests s).part = s.part := by
  unfold compareDigests
  repeat' split
  all_goals simp

@[simp] theorem execRunDigest_keepsPart (run : RunName) (attempt : Nat) (d : RunDigests) (s : State) :
    PartKept s (execRunDigest run attempt d s) := by
  simp [execRunDigest, apply_ite State.part]

@[simp] theorem execRunRecord_keepsPart (run : Nat) (s : State) : PartKept s (execRunRecord run s) := by simp [execRunRecord]
@[simp] theorem goOut_part (s : State) : (goOut s).part = s.part := by simp [goOut]

@[simp] theorem execLeave_keepsPart (reason : Nat) (s : State) : PartKept s (execLeave reason s) := by
  simp [execLeave, apply_ite State.part]

@[simp] theorem execSingles_keepsPart (s : State) : PartKept s (execSingles s) := by
  unfold execSingles
  repeat' split
  all_goals simp

@[simp] theorem execDblResume_keepsPart (fn : Nat) (s : State) : PartKept s (execDblResume fn s) := by
  simp [execDblResume, apply_ite State.part]

@[simp] theorem execDblKeep_keepsPart (fn : Nat) (s : State) : PartKept s (execDblKeep fn s) := by
  simp [execDblKeep, apply_ite State.part]

@[simp] theorem execDblLeave_keepsPart (fn : Nat) (s : State) : PartKept s (execDblLeave fn s) := by
  simp [execDblLeave, apply_ite State.part]

/-! ### Operations of Machine/Loader -/

@[simp] theorem writeClasses_part (s : State) (t w : Nat) : (writeClasses s t w).part = s.part := by
  simp [writeClasses, apply_ite State.part]

@[simp] theorem writeRoutes_part (s : State) (t : Nat) (b : Bytes) : (writeRoutes s t b).part = s.part := by simp [writeRoutes]

@[simp] theorem writeQueues_part (s : State) (tiles : List Nat) : (writeQueues s tiles).part = s.part := by
  simp [writeQueues, apply_ite State.part]

@[simp] theorem bindTile_part (s : State) (m : Bytes) (bs : Bodies) (job k t : Nat) :
    (bindTile s m bs job k t).part = s.part := by
  simp [bindTile]

@[simp] theorem takeCounters_part (s : State) (job first : Nat) (l : List (Nat × Nat)) :
    (takeCounters s job first l).part = s.part := by
  simp [takeCounters]

@[simp] theorem commitLoad_part (s : State) (m : Bytes) (bs : Bodies) (job q sq : Nat) (tiles : List Nat)
    (regions : List Region) (first : Nat) : (commitLoad s m bs job q sq tiles regions first).part = s.part := by
  simp [commitLoad]

theorem loadResult_part {s t : State} {d : Desc} {m : Bytes} {map : List Nat} (h : loadResult s d m map = .ok t) :
    t.part = s.part := by
  unfold loadResult at h
  dsimp only at h
  repeat' split at h
  all_goals cases h
  simp

@[simp] theorem execLoadImage_keepsPart (sq : Nat) (image : Bytes) (tileMap : List Nat) (s : State) :
    PartKept s (execLoadImage sq image tileMap s) := by
  unfold execLoadImage
  split
  · simp
  · dsimp only
    split
    · simp
    · split
      · simp
      · next h => simp [loadResult_part h]

/-! ### Operations of Machine/Security -/

@[simp] theorem syncKeys_part (s : State) (q : Nat) : (syncKeys s q).part = s.part := by simp [syncKeys]
@[simp] theorem clearSlots_part (s : State) (l : List Nat) : (clearSlots s l).part = s.part := by simp [clearSlots]

@[simp] theorem installKey_part (s : State) (d : Desc) (key : Bytes) (bound : Option Bytes) :
    (installKey s d key bound).part = s.part := by
  simp [installKey]

@[simp] theorem unsealKey_part (s : State) (d : Desc) (j : Job) (blob : Bytes) : (unsealKey s d j blob).1.part = s.part := by
  unfold unsealKey
  dsimp only
  repeat' split
  all_goals simp

@[simp] theorem dropStream_part (s : State) : (dropStream s).part = s.part := by simp [dropStream]

@[simp] theorem zeroRegion_part (s : State) (d : Desc) : (zeroRegion s d).part = s.part := by
  unfold zeroRegion
  split <;> simp

@[simp] theorem failStream_part (s : State) (d : Desc) (status detail : Nat) : (failStream s d status detail).part = s.part := by
  simp [failStream]

@[simp] theorem nextStream_part (n : Nat) (s : State) : (nextStream n s).part = s.part := by
  induction n generalizing s with
  | zero => rfl
  | succ k ih =>
    simp only [nextStream]
    repeat' split
    all_goals simp [ih]

@[simp] theorem turnStreams_part (s : State) : (turnStreams s).part = s.part := by simp [turnStreams]

@[simp] theorem execUnseal_keepsPart (sq : Nat) (blob : Bytes) (header : Bytes) (s : State) :
    PartKept s (execUnseal sq blob header s) := by
  unfold execUnseal
  dsimp only
  repeat' split
  all_goals simp

@[simp] theorem fillRegion_part (s : State) (d : Desc) (u : Unsealing) (g : Region) (plain : Bytes) :
    (fillRegion s d u g plain).part = s.part := by
  unfold fillRegion
  dsimp only
  repeat' split
  all_goals simp

@[simp] theorem execUnsealComplete_keepsPart (stream : Bytes) (s : State) : PartKept s (execUnsealComplete stream s) := by
  unfold execUnsealComplete
  repeat' split
  all_goals simp

@[simp] theorem execKeySlotClear_keepsPart (fn : Nat) (v : Word64) (s : State) : PartKept s (execKeySlotClear fn v s) := by
  simp [execKeySlotClear, apply_ite State.part]

@[simp] theorem zeroMoved_part (s : State) (l : Store PartRes) : (zeroMoved s l).part = s.part := by simp [zeroMoved]
@[simp] theorem acceptCommit_part (s : State) : (acceptCommit s).part = s.part := by simp [acceptCommit]

@[simp] theorem execPartitionCommit_keepsPart (fn : Nat) (s : State) : PartKept s (execPartitionCommit fn s) := by
  unfold execPartitionCommit
  repeat' split
  all_goals simp

@[simp] theorem execPartDone_keepsPart (s : State) : PartKept s (execPartDone s) := by simp [execPartDone, apply_ite State.part]

@[simp] theorem execMsaInstall_keepsPart (fn : Nat) (v : Word64) (s : State) : PartKept s (execMsaInstall fn v s) := by
  simp [execMsaInstall, apply_ite State.part]

@[simp] theorem execMsaDelete_keepsPart (fn : Nat) (v : Word64) (s : State) : PartKept s (execMsaDelete fn v s) := by
  simp [execMsaDelete, apply_ite State.part]

@[simp] theorem execPairKeySet_keepsPart (fn : Nat) (s : State) : PartKept s (execPairKeySet fn s) := by
  simp [execPairKeySet, apply_ite State.part]

@[simp] theorem execSvnRaise_keepsPart (fn : Nat) (raiseTo : BitVec 8) (s : State) : PartKept s (execSvnRaise fn raiseTo s) := by
  simp [execSvnRaise, apply_ite State.part]

@[simp] theorem execSessionKeysReady_keepsPart (sessionId : Bytes) (s : State) :
    PartKept s (execSessionKeysReady sessionId s) := by
  simp [execSessionKeysReady, apply_ite State.part]

@[simp] theorem spdmFail_part (s : State) (k code : Nat) : (spdmFail s k code).part = s.part := by simp [spdmFail]

@[simp] theorem spdmAnswer_part (s : State) (k code : Nat) (body : Bytes) : (spdmAnswer s k code body).part = s.part := by
  simp [spdmAnswer, apply_ite State.part]

theorem spdmServe_keepsPart {s : State} {k need : Nat} {f : State → State} (h : PartKept s (.next (f s))) :
    PartKept s (.next (spdmServe s k need f)) :=
  keepsPart_ite (by simp) (keepsPart_ite (by simp) h)

@[simp] theorem execGetVersion_keepsPart (session : Nat) (s : State) : PartKept s (execGetVersion session s) :=
  spdmServe_keepsPart (by simp)

@[simp] theorem execGetCapabilities_keepsPart (session : Nat) (s : State) : PartKept s (execGetCapabilities session s) :=
  spdmServe_keepsPart (by simp)

@[simp] theorem execNegotiateAlgorithms_keepsPart (session : Nat) (s : State) : PartKept s (execNegotiateAlgorithms session s) :=
  spdmServe_keepsPart (by simp)

@[simp] theorem execGetDigests_keepsPart (session : Nat) (s : State) : PartKept s (execGetDigests session s) :=
  spdmServe_keepsPart (by simp)

@[simp] theorem execGetCertificate_keepsPart (session slot offset len : Nat) (s : State) :
    PartKept s (execGetCertificate session slot offset len s) :=
  spdmServe_keepsPart (keepsPart_ite (by simp) (by simp))

@[simp] theorem execChallenge_keepsPart (session slot : Nat) (nonce : Bytes) (s : State) :
    PartKept s (execChallenge session slot nonce s) :=
  spdmServe_keepsPart (keepsPart_ite (by simp) (by simp))

@[simp] theorem execGetMeasurements_keepsPart (session idx : Nat) (sign : Bool) (nonce : Bytes) (s : State) :
    PartKept s (execGetMeasurements session idx sign nonce s) :=
  spdmServe_keepsPart (keepsPart_ite (by simp) (by
    split
    · simp
    · exact keepsPart_ite (by simp) (by simp)))

@[simp] theorem execKeyExchange_keepsPart (session : Nat) (mcTp : Bool) (exchange : Bytes) (s : State) :
    PartKept s (execKeyExchange session mcTp exchange s) :=
  spdmServe_keepsPart (keepsPart_ite (by simp) (by simp))

@[simp] theorem execFinish_keepsPart (session : Nat) (leafKeyHash : Bytes) (authOk : Bool) (s : State) :
    PartKept s (execFinish session leafKeyHash authOk s) :=
  spdmServe_keepsPart (keepsPart_ite (by simp) (keepsPart_ite (by simp) (by simp)))

@[simp] theorem execChunkSend_keepsPart (session : Nat) (chunk : Bytes) (last : Bool) (s : State) :
    PartKept s (execChunkSend session chunk last s) :=
  spdmServe_keepsPart (by simp)

@[simp] theorem execChunkGet_keepsPart (session idx : Nat) (s : State) : PartKept s (execChunkGet session idx s) :=
  spdmServe_keepsPart (by
    split
    · simp
    · exact keepsPart_ite (by simp) (by simp [apply_ite State.part]))

@[simp] theorem execPldmRequest_keepsPart (session sensor : Nat) (s : State) : PartKept s (execPldmRequest session sensor s) := by
  unfold execPldmRequest
  repeat' split
  all_goals simp

/-! ### Operations of Machine/Reset -/

@[simp] theorem releasePins_part (s : State) : (releasePins s).part = s.part := by simp [releasePins]
@[simp] theorem loseLayer_part (s : State) (x : Job) (y : GrdLayer) : (loseLayer s x y).part = s.part := by simp [loseLayer]

@[simp] theorem loseLayers_part (s : State) : (loseLayers s).part = s.part := by
  unfold loseLayers
  repeat' split
  all_goals simp

@[simp] theorem endLockers_part (s : State) : (endLockers s).part = s.part :=
  foldl_part _ _ _ fun s p => by
    split
    · rfl
    · split
      · exact lockerEffect_getD_part (takeFree_part s 1) rfl _
      · rfl

@[simp] theorem bareDies_part (s : State) : (bareDies s).part = s.part := by simp [bareDies]
@[simp] theorem keepFuses_part (s t : State) : (keepFuses s t).part = t.part := by simp [keepFuses]
@[simp] theorem keepLink_part (s t : State) : (keepLink s t).part = t.part := by simp [keepLink]

@[simp] theorem writeResetStatus_part (s t : State) (cause : Nat) : (writeResetStatus s t cause).part = t.part :=
  (wrs_part _ _).trans (bump_part _ _ _)

@[simp] theorem dieReset_part (s : State) (cause : Nat) : (dieReset s cause).part = s.part := by
  simp [dieReset, apply_ite State.part]

@[simp] theorem startDies_part (s : State) : (startDies s).part = s.part := by simp [startDies, apply_ite State.part]
@[simp] theorem execPerstAssert_keepsPart (s : State) : PartKept s (execPerstAssert s) := by simp [execPerstAssert]

@[simp] theorem execPerstRelease_keepsPart (s : State) : PartKept s (execPerstRelease s) := by
  simp [execPerstRelease, apply_ite State.part]

@[simp] theorem execResetPulseEnd_keepsPart (s : State) : PartKept s (execResetPulseEnd s) := by
  simp [execResetPulseEnd, apply_ite State.part]

@[simp] theorem execDeferredPerstRelease_keepsPart (s : State) : PartKept s (execDeferredPerstRelease s) := by
  simp [execDeferredPerstRelease, apply_ite State.part]

@[simp] theorem execHotReset_keepsPart (s : State) : PartKept s (execHotReset s) := by simp [execHotReset]
@[simp] theorem execPcieLinkDown_keepsPart (s : State) : PartKept s (execPcieLinkDown s) := by simp [execPcieLinkDown]
@[simp] theorem execPfFlr_keepsPart (s : State) : PartKept s (execPfFlr s) := by simp [execPfFlr]

@[simp] theorem execModuleReset_keepsPart (fn : Nat) (s : State) : PartKept s (execModuleReset fn s) := by
  simp [execModuleReset, apply_ite State.part]

@[simp] theorem resetJob_part (s : State) (j : Nat) : (resetJob s j).part = s.part := by
  unfold resetJob
  dsimp only
  repeat' split
  all_goals simp

@[simp] theorem execJobReset_keepsPart (fn job : Nat) (s : State) : PartKept s (execJobReset fn job s) := by
  simp [execJobReset, apply_ite State.part]

@[simp] theorem drainLockers_part (s : State) (j : Nat) : (drainLockers s j).part = s.part :=
  foldl_part _ _ _ fun _ o => lockerEffect_getD_part rfl rfl o

@[simp] theorem endAborting_part (s : State) (j : Nat) : (endAborting s j).part = s.part := by
  unfold endAborting
  split <;> simp

@[simp] theorem resetTile_part (s : State) (t : Nat) : (resetTile s t).part = s.part := by simp [resetTile]

@[simp] theorem dropQueues_part (s : State) (q : Nat) : (dropQueues s q).part = s.part :=
  (foldl_part _ _ _ fun _ _ => wr_part _ _ _).trans (foldl_part _ _ _ fun _ _ => wr_part _ _ _)

@[simp] theorem resetPart_part (s : State) (q : Nat) : (resetPart s q).part = s.part := by
  unfold resetPart
  extract_lets js s1 s2 s3 s4 s5
  have h1 : s1.part = s.part := foldl_part _ _ _ fun s j => by simp
  have h3 : s3.part = s.part := (foldl_part _ _ _ fun s j => by split <;> simp).trans ((dropQueues_part _ _).trans h1)
  have h4 : s4.part = s3.part := by
    unfold s4
    split
    · exact (foldl_part _ _ _ fun s c => wrs_part _ _).trans (foldl_part _ _ _ resetTile_part)
    · rfl
  simp [s5, h4, h3]

@[simp] theorem execPartitionReset_keepsPart (fn part : Nat) (s : State) : PartKept s (execPartitionReset fn part s) := by
  simp [execPartitionReset, apply_ite State.part]

@[simp] theorem execVfFlr_keepsPart (q : Nat) (s : State) : PartKept s (execVfFlr q s) := by
  simp [execVfFlr, apply_ite State.part]

@[simp] theorem powerOff_part (s : State) : (powerOff s).part = s.part := by simp [powerOff, apply_ite State.part]
@[simp] theorem rampUp_part (s : State) : (rampUp s).part = s.part := by simp [rampUp, apply_ite State.part]
@[simp] theorem execPowerUp_keepsPart (s : State) : PartKept s (execPowerUp s) := by simp [execPowerUp, apply_ite State.part]

@[simp] theorem execPwrEnHoldEnd_keepsPart (s : State) : PartKept s (execPwrEnHoldEnd s) := by
  simp [execPwrEnHoldEnd, apply_ite State.part]

@[simp] theorem execRailsGood_keepsPart (dblId : Bool) (boardId : BitVec 4) (s : State) :
    PartKept s (execRailsGood dblId boardId s) := by
  simp [execRailsGood, apply_ite State.part]

@[simp] theorem execPowerDown_keepsPart (s : State) : PartKept s (execPowerDown s) := by
  simp [execPowerDown, apply_ite State.part]

@[simp] theorem execVinLeaveWindow_keepsPart (s : State) : PartKept s (execVinLeaveWindow s) := by simp [execVinLeaveWindow]
@[simp] theorem execVinReturn_keepsPart (s : State) : PartKept s (execVinReturn s) := by simp [execVinReturn]

@[simp] theorem execDieTestDone_keepsPart (r : DieTest) (s : State) : PartKept s (execDieTestDone r s) := by
  simp [execDieTestDone, apply_ite State.part]

@[simp] theorem execMemoryPrepDone_keepsPart (ms : Nat) (s : State) : PartKept s (execMemoryPrepDone ms s) := by
  refine keepsPart_ite (by simp) (keepsPart_of_part ((wrs_part _ _).trans ((modBoot_part _ _).trans ?_)))
  split
  · rfl
  · exact foldl_part _ _ _ fun s p => zeroSpan_part _ _ _

@[simp] theorem beginLoad_part (s : State) : (beginLoad s).part = s.part := by simp [beginLoad]

@[simp] theorem execFwLoad_keepsPart (fn : Nat) (s : State) : PartKept s (execFwLoad fn s) := by
  simp [execFwLoad, apply_ite State.part]

@[simp] theorem execBusMasterEnable_keepsPart (s : State) : PartKept s (execBusMasterEnable s) := by
  simp [execBusMasterEnable, apply_ite State.part]

@[simp] theorem execFwVerified_keepsPart (image : Bytes) (s : State) : PartKept s (execFwVerified image s) := by
  simp [execFwVerified, apply_ite State.part]

@[simp] theorem execBootReady_keepsPart (s : State) : PartKept s (execBootReady s) := by
  simp [execBootReady, apply_ite State.part]

@[simp] theorem execI3cEntry_keepsPart (s : State) : PartKept s (execI3cEntry s) := by simp [execI3cEntry, apply_ite State.part]
@[simp] theorem execSmbusTimeout_keepsPart (s : State) : PartKept s (execSmbusTimeout s) := by simp [execSmbusTimeout]
@[simp] theorem execMctpTimeout_keepsPart (s : State) : PartKept s (execMctpTimeout s) := by simp [execMctpTimeout]
@[simp] theorem readFailed_part (s : State) : (readFailed s).part = s.part := by simp [readFailed]
@[simp] theorem lostDesc_part (s : State) (sq off : Nat) : (lostDesc s sq off).part = s.part := by simp [lostDesc]

@[simp] theorem execHostReadTimeout_keepsPart (sq off : Nat) (s : State) : PartKept s (execHostReadTimeout sq off s) := by
  unfold execHostReadTimeout
  dsimp only
  repeat' split
  all_goals simp

@[simp] theorem execLinkChange_keepsPart (gen width : Nat) (flit reversed : Bool) (s : State) :
    PartKept s (execLinkChange gen width flit reversed s) := by
  simp [execLinkChange, apply_ite State.part]

@[simp] theorem execIdeFault_keepsPart (s : State) : PartKept s (execIdeFault s) := by simp [execIdeFault, apply_ite State.part]

/-! ### Operations of Machine/Signing -/

@[simp] theorem execSignNow_keepsPart (sq : Nat) (s : State) : PartKept s (execSignNow sq s) := by
  unfold execSignNow
  repeat' split
  all_goals simp

@[simp] theorem putSig_part (s : State) (q num : Nat) (b : Bytes) : (putSig s q num b).part = s.part := by
  simp [putSig, apply_ite State.part]

@[simp] theorem execSigWritten_keepsPart (q : Nat) (s : State) : PartKept s (execSigWritten q s) := by
  unfold execSigWritten
  dsimp only
  repeat' split
  all_goals simp

/-! ### Operations of Machine/HostRegs -/

@[simp] theorem plainWrite_part (s : State) (off w : Nat) : (plainWrite s off w).part = s.part := by
  simp [plainWrite, apply_ite State.part]

@[simp] theorem releaseIf_part (s : State) (b : Bool) (l : List (Fld × Nat)) : (releaseIf s b l).part = s.part := by
  simp [releaseIf, apply_ite State.part]

@[simp] theorem releaseRecords_part (s : State) (off cleared : Nat) : (releaseRecords s off cleared).part = s.part := by
  simp [releaseRecords, apply_ite State.part]

@[simp] theorem clearCause_part (s : State) (fn off v coincident : Nat) : (clearCause s fn off v coincident).part = s.part := by
  unfold clearCause
  split <;> simp

@[simp] theorem execCauseClear_keepsPart (fn off : Nat) (v coincident : Word64) (s : State) :
    PartKept s (execCauseClear fn off v coincident s) := by
  simp [execCauseClear, apply_ite State.part]

@[simp] theorem clearRead_part (s : State) (off hits amounts : Nat) : (clearRead s off hits amounts).part = s.part :=
  foldl_part _ _ _ fun _ _ => wr_part _ _ _

@[simp] theorem latchWindow_part (s : State) : (latchWindow s).part = s.part := by simp [latchWindow]

@[simp] theorem execReadClear_keepsPart (fn off : Nat) (hits amounts : Word64) (s : State) :
    PartKept s (execReadClear fn off hits amounts s) := by
  simp [execReadClear, apply_ite State.part]

@[simp] theorem execTimWindowRead_keepsPart (fn : Nat) (s : State) : PartKept s (execTimWindowRead fn s) := by
  simp [execTimWindowRead, apply_ite State.part]

@[simp] theorem refuseAccess_part (s : State) (fn off size : Nat) (bar2 write : Bool) :
    (refuseAccess s fn off size bar2 write).part = s.part := by
  simp [refuseAccess, apply_ite State.part]

@[simp] theorem execBar0BadAccess_keepsPart (fn off size : Nat) (write : Bool) (s : State) :
    PartKept s (execBar0BadAccess fn off size write s) := by
  simp [execBar0BadAccess, apply_ite State.part]

@[simp] theorem execBar2BadAccess_keepsPart (fn off size : Nat) (write : Bool) (s : State) :
    PartKept s (execBar2BadAccess fn off size write s) := by
  simp [execBar2BadAccess, apply_ite State.part]

@[simp] theorem logBar4_part (s : State) (a : Nat) (write : Bool) (sealer : Option Nat) :
    (logBar4 s a write sealer).part = s.part := by
  simp [logBar4, apply_ite State.part]

@[simp] theorem bar4Refused_part (s : State) (op : Bar4Op) : (bar4Refused s op).part = s.part := by cases op <;> rfl

@[simp] theorem execBar4Access_keepsPart (fn off : Nat) (op : Bar4Op) (s : State) : PartKept s (execBar4Access fn off op s) := by
  unfold execBar4Access
  dsimp only
  repeat' split
  all_goals simp

@[simp] theorem execBar4BaseWrite_keepsPart (fn off : Nat) (v : Word64) (s : State) :
    PartKept s (execBar4BaseWrite fn off v s) := by
  simp [execBar4BaseWrite, apply_ite State.part]

@[simp] theorem writeResetCtl_keepsPart (fn w : Nat) (s : State) : PartKept s (writeResetCtl fn w s) := by
  unfold writeResetCtl
  repeat' split
  all_goals simp

@[simp] theorem writeTimAdj_keepsPart (fn w : Nat) (s : State) : PartKept s (writeTimAdj fn w s) := by
  unfold writeTimAdj
  dsimp only
  split
  · split
    · split
      next t h =>
        have ht : t.part = s.part := execTimAdjPhase_keepsPart _ _ _ s t h
        exact fun u hu => (execTimAdjRate_keepsPart _ _ _ t u hu).trans ht
      next => simp
    · simp
  · split
    · simp
    · simp [apply_ite State.part]

@[simp] theorem writeMsaCtl_keepsPart (fn : Nat) (v : Word64) (s : State) : PartKept s (writeMsaCtl fn v s) := by
  unfold writeMsaCtl
  repeat' split
  all_goals simp

@[simp] theorem writeDblCtl_keepsPart (fn w : Nat) (s : State) : PartKept s (writeDblCtl fn w s) := by
  unfold writeDblCtl
  repeat' split
  all_goals simp

theorem ite_some_keepsPart {s : State} {c : Prop} [Decidable c] {x : Host.Outcome State Fault Refusal}
    {r : Option (Host.Outcome State Fault Refusal)} (hx : PartKept s x) (hr : ∀ o, r = some o → PartKept s o) :
    ∀ o, (if c then some x else r) = some o → PartKept s o := by
  split
  · rintro o ⟨⟩
    exact hx
  · exact hr

theorem actingWrite_keepsPart (fn off : Nat) (v : Word64) (s : State) : ∀ o, actingWrite fn off v s = some o → PartKept s o := by
  unfold actingWrite
  extract_lets w
  iterate 23 refine ite_some_keepsPart (by simp [partKept_ite]) ?_
  simp

@[simp] theorem execRegisterWrite_keepsPart (fn off : Nat) (v : Word64) (s : State) :
    PartKept s (execRegisterWrite fn off v s) := by
  unfold execRegisterWrite
  split
  · simp
  · split
    next h => exact actingWrite_keepsPart _ _ _ _ _ h
    next => exact keepsPart_ite (by simp) (keepsPart_ite (by simp) (by simp))

/-! ### Operations of Machine/Dispatch -/

theorem exec_keepsPart (c : Instr) (s : State) : PartKept s (exec c s) := by
  cases c <;> simp [exec]

/-! ### Operations of Machine/Step -/

/-- Settles O5: every command keeps the part (`exec_keepsPart`, one lemma per operation of the model), and so does an idle step. -/
theorem partNeverChanges : Obligations.PartNeverChanges := by
  unfold Obligations.PartNeverChanges
  intro s t h
  unfold step at h
  split at h
  next => exact (idle_part s).symm ▸ (Host.Outcome.next.inj h ▸ rfl)
  next c r _ => exact exec_keepsPart c { s with pending := r } t h

end Sys2Proof.Machine
end

section
namespace Sys2Proof.Machine

/-! ## What leaves memory alone (R20)

One lemma `f_mem` for each operation of the model that writes no byte of memory, in the order of the model's definitions. -/

theorem mem_of_pair_eq {α : Type} {p : State × α} {s t : State} {a : α} (h : p = (t, a)) (hp : p.1.mem = s.mem) :
    t.mem = s.mem := by
  subst h
  exact hp

/-- A fold of steps that leave memory alone leaves it alone. -/
@[simp] theorem foldl_mem {α : Type} (g : State → α → State) (l : List α) (s : State)
    (h : ∀ s a, (g s a).mem = s.mem) : (l.foldl g s).mem = s.mem := by
  induction l generalizing s with
  | nil => rfl
  | cons x r ih => rw [List.foldl_cons, ih, h]

@[simp] theorem ite_mem {c : Prop} [Decidable c] (a b : State) :
    (if c then a else b).mem = if c then a.mem else b.mem := apply_ite State.mem c a b

/-- The two states hold the same memory. Where a body picks its state by a match on a long computation, the goal is kept in this
form: of an equation between projections the kernel evaluates that computation. -/
def SameMem (s t : State) : Prop := t.mem = s.mem

theorem sameMem_iff {s t : State} : SameMem s t ↔ t.mem = s.mem := Iff.rfl

theorem sameMem_ite {s a b : State} {c : Prop} [Decidable c] (ha : SameMem s a) (hb : SameMem s b) :
    SameMem s (if c then a else b) := by
  split
  · exact ha
  · exact hb

section
variable (s : State)

/-! ### Operations of Machine/Clock -/

@[simp] theorem idle_mem : (idle s).mem = s.mem := by
  unfold idle
  dsimp only
  repeat' split
  all_goals simp

/-! ### Operations of Machine/Ops -/

@[simp] theorem noteOther_mem (a n : Nat) : (noteOther s a n).mem = s.mem := by simp [noteOther]

/-! ### Operations of Machine/Tiles -/

@[simp] theorem syncTray_mem (t : Nat) : (syncTray s t).mem = s.mem := by simp [syncTray]
@[simp] theorem noteErr_mem (t code slot pc : Nat) : (noteErr s t code slot pc).mem = s.mem := by simp [noteErr]
@[simp] theorem recordErr_mem (t code slot pc : Nat) : (recordErr s t code slot pc).mem = s.mem := by simp [recordErr]
@[simp] theorem recordSlips_mem (t kind slot n : Nat) : (recordSlips s t kind slot n).mem = s.mem := by simp [recordSlips]
@[simp] theorem countHeld_mem (t kind slot n : Nat) : (countHeld s t kind slot n).mem = s.mem := by simp [countHeld]

theorem countUpset_sameMem (u : Upset) : SameMem s (countUpset s u) := by
  refine upset_cases (P := SameMem s) u (fun a => ?_) (fun t => bump_mem _ _ _) fun l => bump_mem _ _ _
  split
  · split <;> exact bump_mem _ _ _
  · exact bump_mem _ _ _
  · exact bump_mem _ _ _
  · rfl

@[simp] theorem countUpset_mem (u : Upset) : (countUpset s u).mem = s.mem := countUpset_sameMem s u
@[simp] theorem findUpsets_mem (f : Upset → Bool) : (findUpsets s f).mem = s.mem := by simp [findUpsets]
@[simp] theorem readFinds_mem (a n : Nat) : (readFinds s a n).mem = s.mem := by simp [readFinds]
@[simp] theorem noteDelivered_mem (t : Nat) : (noteDelivered s t).mem = s.mem := by simp [noteDelivered]

/-! ### Operations of Machine/Sequencer -/

@[simp] theorem recordLate_mem (t first len : Nat) : (recordLate s t first len).mem = s.mem := by simp [recordLate]

@[simp] theorem settleRegion_mem (region busyFrom busyTo : Nat) : (settleRegion s region busyFrom busyTo).mem = s.mem := by
  simp [settleRegion]

@[simp] theorem refreshRow_mem (t row tick : Nat) : (refreshRow s t row tick).mem = s.mem := by simp [refreshRow]

/-! ### Operations of Machine/Transfer -/

@[simp] theorem countRefreshHold_mem (t : Nat) (near : Bool) : (countRefreshHold s t near).mem = s.mem := by
  simp [countRefreshHold]

@[simp] theorem claimSlots_mem (t region tick : Nat) (store : Bool) (slotTicks lines : List Nat) :
    (claimSlots s t region tick store slotTicks lines).mem = s.mem := by
  simp [claimSlots]

@[simp] theorem crossBond_mem (t tick : Nat) (lines : List (Nat × Nat)) : (crossBond s t tick lines).mem = s.mem := by
  simp [crossBond]

@[simp] theorem displace_mem (dt : Nat) (p : Port) (t n k : Nat) : (displace s dt p t n k).mem = s.mem := by
  induction n generalizing s k with
  | zero => rfl
  | succ n ih =>
    unfold displace
    extract_lets x here v g srcTick moves spans slide s1 s2
    split
    · rfl
    · rw [ih, modTile_mem, modTile_mem]

@[simp] theorem syncLpass_mem (t : Nat) : (syncLpass s t).mem = s.mem := by simp [syncLpass]

/-! ### Operations of Machine/Channel -/

@[simp] theorem recordOrphan_mem (t other q ep : Nat) (atReader : Bool) (pc : Nat) :
    (recordOrphan s t other q ep atReader pc).mem = s.mem := by
  simp [recordOrphan]

@[simp] theorem recordStale_mem (t : Nat) : (recordStale s t).mem = s.mem := by simp [recordStale]
@[simp] theorem settleMsg_mem (i : Item) : (settleMsg s i).mem = s.mem := by simp [settleMsg]
@[simp] theorem routeIncr_mem (ctr tile pc : Nat) : (routeIncr s ctr tile pc).mem = s.mem := by simp [routeIncr]

@[simp] theorem deliverLine_mem (i : Item) (ep q inc pc : Nat) (data : Bytes) (present : Option Nat) :
    (deliverLine s i ep q inc pc data present).mem = s.mem := by
  simp [deliverLine]

@[simp] theorem deliverCredit_mem (i : Item) (ep pc : Nat) : (deliverCredit s i ep pc).mem = s.mem := by simp [deliverCredit]

@[simp] theorem deliverToken_mem (i : Item) (ep : Nat) (opens : Bool) (inc : Nat) :
    (deliverToken s i ep opens inc).mem = s.mem := by
  simp [deliverToken]

@[simp] theorem deliver_mem (i : Item) : (deliver s i).mem = s.mem := by
  unfold deliver
  split <;> simp

@[simp] theorem settleBy_mem (t tick : Nat) : (settleBy s t tick).mem = s.mem := by simp [settleBy]
@[simp] theorem settleCrossing_mem (t : Nat) : (settleCrossing s t).mem = s.mem := by simp [settleCrossing]

theorem takeItem_mem {s t : State} {f : Item → Bool} {i : Item} (h : takeItem s f = some (i, t)) : t.mem = s.mem := by
  unfold takeItem at h
  split at h
  · cases h; rfl
  · cases h

@[simp] theorem noteStall_mem (t kind obj : Nat) (b : Bool) : (noteStall s t kind obj b).mem = s.mem := by simp [noteStall]
@[simp] theorem sendBack_mem (t q : Nat) (mk : Nat → Option Nat → Cargo) : (sendBack s t q mk).mem = s.mem := by simp [sendBack]
@[simp] theorem dropQueue_mem (t q : Nat) : (dropQueue s t q).mem = s.mem := by simp [dropQueue]
@[simp] theorem closeQueues_mem (t : Nat) : (closeQueues s t).mem = s.mem := by simp [closeQueues]

/-! ### Operations of Machine/Sync -/

@[simp] theorem examine_mem (c : Nat) (l : List Waiter) : (examine s c l).mem = s.mem := by
  induction l generalizing s with
  | nil => rfl
  | cons w r ih =>
    simp only [examine]
    split
    · rw [ih]
      simp [grant]
    · exact ih s

@[simp] theorem staleIncr_mem (ctr : Nat) (i : Item) : (staleIncr s ctr i).mem = s.mem := by simp [staleIncr]
@[simp] theorem releaseStall_mem (t : Nat) : (releaseStall s t).mem = s.mem := by simp [releaseStall]

/-! ### Operations of Machine/Locker -/

@[simp] theorem opSettled_mem (o : LockerOp) : (opSettled s o).mem = s.mem := by
  unfold opSettled
  dsimp only
  repeat' split
  all_goals simp

/-! ### Operations of Machine/Audit -/

@[simp] theorem ringPut_mem (q : Nat) (b : Bytes) : (ringPut s q b).mem = s.mem := by simp [ringPut]

theorem ringWrite_mem {s t : State} {q : Nat} {b : Bytes} (h : ringWrite s q b = some t) : t.mem = s.mem := by
  unfold ringWrite at h
  extract_lets n tl pad s1 before s2 at h
  have h2 : s2.mem = s.mem := by simp [s2, s1]
  split at h
  · rw [← Option.some.inj h]
    split <;> simp [h2]
  · cases h

@[simp] theorem drain_mem (n : Nat) (s : State) (q : Nat) : (drain n s q).mem = s.mem := by
  induction n generalizing s with
  | zero => rfl
  | succ k ih =>
    unfold drain
    split
    · rfl
    · split
      · next h => rw [ih, modAud_mem, ringWrite_mem h]
      · rfl

@[simp] theorem drainAll_mem (q : Nat) : (drainAll s q).mem = s.mem := by simp [drainAll]

@[simp] theorem setHead_mem (q num : Nat) (h : Bytes) : (setHead s q num h).mem = s.mem :=
  (foldl_mem _ _ _ fun _ _ => wr_mem _ _ _).trans (wr_mem _ _ _)

@[simp] theorem chainOne_mem (q kind : Nat) (body : Bytes) : (chainOne s q kind body).mem = s.mem := by simp [chainOne]
@[simp] theorem gapRecord_mem (q first last reason : Nat) : (gapRecord s q first last reason).mem = s.mem := by simp [gapRecord]

@[simp] theorem gapFirst_mem (q : Nat) : (gapFirst s q).mem = s.mem := by
  unfold gapFirst
  repeat' split
  all_goals simp

@[simp] theorem chainRecord_mem (q kind : Nat) (body : Bytes) : (chainRecord s q kind body).mem = s.mem := by simp [chainRecord]
@[simp] theorem addLine_mem (r : Nat) (l : Line) : (addLine s r l).mem = s.mem := by simp [addLine]

@[simp] theorem formRecord_mem (r : Nat) : (formRecord s r).mem = s.mem := by
  unfold formRecord
  repeat' split
  all_goals simp

@[simp] theorem recordRun_mem (run : Nat) : (recordRun s run).mem = s.mem := by
  unfold recordRun
  repeat' split
  all_goals simp

@[simp] theorem formSign_mem (q : Nat) : (formSign s q).mem = s.mem := by simp [formSign]
@[simp] theorem signDue_mem (q : Nat) : (signDue s q).mem = s.mem := by simp [signDue]

/-! ### Operations of Machine/Matrix -/

@[simp] theorem putOpen_mem (t i : Nat) (v : List Nat) : (putOpen s t i v).mem = s.mem := by simp [putOpen]
@[simp] theorem putExam_mem (t e : Nat) (v : List Int) : (putExam s t e v).mem = s.mem := by simp [putExam]
@[simp] theorem looseExam_mem (t e : Nat) : (looseExam s t e).mem = s.mem := by simp [looseExam]
@[simp] theorem pushTray_mem (t : Nat) (e : TrayEntry) : (pushTray s t e).mem = s.mem := by simp [pushTray]
@[simp] theorem syncShadow_mem (t : Nat) : (syncShadow s t).mem = s.mem := by simp [syncShadow]

@[simp] theorem mmaCount_mem (t gatedGroups : Nat) (allGated : Bool) : (mmaCount s t gatedGroups allGated).mem = s.mem := by
  simp [mmaCount]

/-! ### Operations of Machine/Vector -/

@[simp] theorem popTray_mem (t free : Nat) : (popTray s t free).mem = s.mem := by simp [popTray]

/-! ### Operations of Machine/Flags -/

@[simp] theorem setArmed_mem (fn : Nat) (b : Bool) : (setArmed s fn b).mem = s.mem := by simp [setArmed]
@[simp] theorem irqEval_mem (fn : Nat) (atRearm : Bool) : (irqEval s fn atRearm).mem = s.mem := by simp [irqEval]

/-! ### Operations of Machine/Queues -/

@[simp] theorem drainCq_mem (n : Nat) (s : State) (c : Nat) : (drainCq n s c).mem = s.mem := by
  induction n generalizing s with
  | zero => rfl
  | succ k ih =>
    simp only [drainCq]
    split
    · rfl
    · split
      · rfl
      · split
        · rw [ih]
          split <;> simp
        · simp

@[simp] theorem drainCqAll_mem (c : Nat) : (drainCqAll s c).mem = s.mem := by simp [drainCqAll]

@[simp] theorem postEntry_mem (d : Desc) (status detail retakes epoch : Nat) (final : Bool) :
    (postEntry s d status detail retakes epoch final).mem = s.mem := by
  simp [postEntry]

@[simp] theorem completeFull_mem (subm status detail retakes epoch : Nat) :
    (completeFull s subm status detail retakes epoch).mem = s.mem := by
  unfold completeFull
  repeat' split
  all_goals simp

@[simp] theorem complete_mem (subm status detail : Nat) : (complete s subm status detail).mem = s.mem := by simp [complete]
@[simp] theorem startDesc_mem (subm : Nat) : (startDesc s subm).mem = s.mem := by simp [startDesc]
@[simp] theorem settleDesc_mem (subm : Nat) : (settleDesc s subm).mem = s.mem := by simp [settleDesc]
@[simp] theorem leaveGraph_mem (d : Desc) : (leaveGraph s d).mem = s.mem := by simp [leaveGraph]

@[simp] theorem pump_mem (n : Nat) (s : State) : (pump n s).mem = s.mem := by
  induction n generalizing s with
  | zero => rfl
  | succ k ih =>
    simp only [pump]
    split
    · rw [ih]
      split <;> simp
    · rfl

@[simp] theorem pumpAll_mem : (pumpAll s).mem = s.mem := by simp [pumpAll]

@[simp] theorem finishDesc_mem (d : Desc) (status detail : Nat) : (finishDesc s d status detail).mem = s.mem := by
  simp [finishDesc]

@[simp] theorem logBad_mem (off : Nat) (bar2 write : Bool) (log2 fn cause : Nat) :
    (logBad s off bar2 write log2 fn cause).mem = s.mem := by
  simp [logBad]

@[simp] theorem hqConfig_mem (fn : Nat) (sq : Bool) (q w : Nat) : (hqConfig s fn sq q w).mem = s.mem := by simp [hqConfig]

/-! ### Operations of Machine/Wire -/

@[simp] theorem learnNeighbour_mem (n : Neighbour) : (learnNeighbour s n).mem = s.mem := by simp [learnNeighbour]

@[simp] theorem protectFrame_mem (port sub : Nat) (f : Bytes) : (protectFrame s port sub f).1.mem = s.mem := by
  unfold protectFrame
  repeat' split
  all_goals simp

theorem openFrame_mem {s t : State} {port sub : Nat} {f g : Bytes} (h : openFrame s port sub f = some (t, g)) :
    t.mem = s.mem := by
  unfold openFrame at h
  dsimp only at h
  split at h
  · cases h
  · split at h
    · cases h
    · simp only [Option.map_eq_some_iff, Prod.mk.injEq] at h
      obtain ⟨p, -, rfl, -⟩ := h
      rfl

theorem sendUdp_mem {s t : State} {port sub ip udp : Nat} {m : Bytes} (h : sendUdp s port sub ip udp m = some t) :
    t.mem = s.mem := by
  unfold sendUdp at h
  split at h
  · cases h
  · simp only [Option.map_eq_some_iff] at h
    obtain ⟨mac, -, rfl⟩ := h
    simp

/-! ### Operations of Machine/Net -/

@[simp] theorem forgetModule_mem (m : Nat) : (forgetModule s m).mem = s.mem := by simp [forgetModule]

@[simp] theorem sendOn_mem (a : Nat) (m : Bytes) : (sendOn s a m).mem = s.mem := by
  unfold sendOn
  generalize h : sendUdp s _ _ _ _ m = r
  cases r with
  | none => rfl
  | some t => exact sendUdp_mem h

@[simp] theorem dropFrame_mem (f : Fld) : (dropFrame s f).mem = s.mem := by simp [dropFrame]

@[simp] theorem toFirmware_mem (port sub : Nat) (learn : Option (Nat × Nat)) : (toFirmware s port sub learn).mem = s.mem := by
  unfold toFirmware
  dsimp only
  repeat' split
  all_goals simp

@[simp] theorem miobelFrame_mem (port sub : Nat) (badHeaders : Bool) (src udp : Nat) (m : Bytes) :
    (miobelFrame s port sub badHeaders src udp m).mem = s.mem := by
  unfold miobelFrame
  dsimp only
  repeat' split
  all_goals simp

@[simp] theorem takeFrame_mem (port sub : Nat) (tagged : Bool) (f : Bytes) : (takeFrame s port sub tagged f).mem = s.mem := by
  unfold takeFrame
  dsimp only
  repeat' split
  all_goals simp

/-! ### Operations of Machine/Ingest -/

@[simp] theorem sendRep_mem (r : Request) (status field seat period : Nat) (ident payload : Bytes) :
    (sendRep s r status field seat period ident payload).mem = s.mem := by
  unfold sendRep
  dsimp only
  split
  next h => simp [sendUdp_mem h]
  next => simp

@[simp] theorem bindingDone_mem (b : Nat) : (bindingDone s b).mem = s.mem := by
  unfold bindingDone
  repeat' split
  all_goals simp

@[simp] theorem modBinding_mem (b : Nat) (f : Period → Period) : (modBinding s b f).mem = s.mem := by simp [modBinding]

@[simp] theorem periodDone_mem (b n : Nat) : (periodDone s b n).mem = s.mem := by
  unfold periodDone
  dsimp only
  repeat' split
  all_goals simp

@[simp] theorem formLine_mem (b n : Nat) (isCarry : Bool) (plan index status : Nat) (r : Request) (payload : Bytes) :
    (formLine s b n isCarry plan index status r payload).1.mem = s.mem := by
  unfold formLine
  repeat' split
  all_goals simp

@[simp] theorem sentNote_mem (q : Nat) (run : RunName) (kind index status : Nat) (payload : Bytes) :
    (sentNote s q run kind index status payload).mem = s.mem := by
  simp [sentNote]

@[simp] theorem modSeat_mem (ci k : Nat) (f : Seat → Seat) : (modSeat s ci k f).mem = s.mem := by simp [modSeat]

@[simp] theorem answerSeat_mem (ci k status : Nat) (payload : Bytes) : (answerSeat s ci k status payload).mem = s.mem := by
  unfold answerSeat
  dsimp only
  repeat' split
  all_goals simp

@[simp] theorem answerCarry_mem (i status : Nat) (payload : Bytes) : (answerCarry s i status payload).mem = s.mem := by
  unfold answerCarry
  split
  · rfl
  · split
    · rfl
    · split
      · rfl
      · extract_lets twin
        split
        next s1 ident he =>
          have h1 : s1.mem = s.mem := mem_of_pair_eq he (by split <;> simp)
          extract_lets s2 own s3 s4 s5 s6 s7
          have h2 : s2.mem = s1.mem := foldl_mem _ _ _ fun s d => by split <;> simp
          have h3 : s3.mem = s2.mem := by simp [s3]
          have h5 : s5.mem = s3.mem := by
            unfold s5
            split
            · exact modSeat_mem _ _ _ _
            · rfl
          have h6 : s6.mem = s5.mem := by simp [s6]
          have h7 : s7.mem = s6.mem := by
            unfold s7
            split <;> simp
          rw [bindingDone_mem, periodDone_mem, h7, h6, h5, h3, h2, h1]

@[simp] theorem syncCands_mem : (syncCands s).mem = s.mem := by simp [syncCands]

@[simp] theorem answerCand_mem (i status : Nat) (payload : Bytes) : (answerCand s i status payload).mem = s.mem := by
  unfold answerCand
  dsimp only
  repeat' split
  all_goals simp

@[simp] theorem answer_mem (r : ReqRef) (status : Nat) (payload : Bytes) : (answer s r status payload).mem = s.mem := by
  unfold answer
  split <;> simp

@[simp] theorem fireDeadlines_mem (n : Nat) (s : State) : (fireDeadlines n s).mem = s.mem := by
  induction n generalizing s with
  | zero => rfl
  | succ k ih =>
    simp only [fireDeadlines]
    split <;> simp [ih]

@[simp] theorem closeAll_mem (n : Nat) (s : State) (f : Request → Bool) : (closeAll n s f).mem = s.mem := by
  induction n generalizing s with
  | zero => rfl
  | succ k ih =>
    simp only [closeAll]
    split <;> simp [ih]

@[simp] theorem endBinding_mem (q status detail retakes epoch : Nat) :
    (endBinding s q status detail retakes epoch).mem = s.mem := by
  unfold endBinding
  split <;> simp

@[simp] theorem addCand_mem (r : Request) : (addCand s r).mem = s.mem := by simp [addCand]
@[simp] theorem countReject_mem (status : Nat) : (countReject s status).mem = s.mem := by simp [countReject]

@[simp] theorem dupReq_mem (a seqn : Nat) : (dupReq s a seqn).mem = s.mem := by
  unfold dupReq
  dsimp only
  split
  · split
    next h => simp [sendUdp_mem h]
    next => simp
  · simp

@[simp] theorem returnSkipped_mem (b : Nat) : (returnSkipped s b).mem = s.mem := by simp [returnSkipped]

@[simp] theorem tryRelease_mem (run : RunName) (kind index : Nat) : (tryRelease s run kind index).mem = s.mem := by
  unfold tryRelease
  repeat' split
  all_goals simp

@[simp] theorem offer_mem (r : ReqRef) (q : Nat) (run : RunName) (kind index : Nat) (payload : Bytes) :
    (offer s r q run kind index payload).mem = s.mem := by
  simp [offer]

@[simp] theorem scanSeat_mem (j : Job) (f : Form) (ci k : Nat) : (scanSeat s j f ci k).mem = s.mem := by
  unfold scanSeat
  dsimp only
  repeat' split
  all_goals simp

@[simp] theorem scanCarry_mem (j : Job) (f : Form) (i : Nat) : (scanCarry s j f i).mem = s.mem := by
  unfold scanCarry
  split
  · rfl
  · split
    · dsimp only
      repeat' split
      all_goals simp
    · rfl

/-! ### Operations of Machine/Spu -/

@[simp] theorem modPlan_mem (p : Nat) (f : PlanSt → PlanSt) : (modPlan s p f).mem = s.mem := by
  unfold modPlan
  split <;> simp

@[simp] theorem syncSpu_mem : (syncSpu s).mem = s.mem := by simp [syncSpu]
@[simp] theorem discardCarry_mem (p : Nat) : (discardCarry s p).mem = s.mem := by simp [discardCarry]
@[simp] theorem discardJobCarry_mem (j : Nat) : (discardJobCarry s j).mem = s.mem := by simp [discardJobCarry]
@[simp] theorem clearPlanRegs_mem (p : Nat) : (clearPlanRegs s p).mem = s.mem := by simp [clearPlanRegs]
@[simp] theorem bindPlans_mem (j : Nat) (x : Job) (replay : Bool) : (bindPlans s j x replay).mem = s.mem := by simp [bindPlans]
@[simp] theorem unbindPlans_mem (j : Nat) : (unbindPlans s j).mem = s.mem := by simp [unbindPlans]
@[simp] theorem planStart_mem (p n : Nat) : (planStart s p n).mem = s.mem := by simp [planStart]

@[simp] theorem noteReject_mem (seat bin plan reason sender : Nat) : (noteReject s seat bin plan reason sender).mem = s.mem := by
  simp [noteReject]

@[simp] theorem beginFill_mem (p : Nat) (forced : Bool) : (beginFill s p forced).mem = s.mem := by
  unfold beginFill
  split
  · rfl
  · split
    · rfl
    · split
      extract_lets s1 f s2 s3 s4
      have h1 : s1.mem = s.mem := foldl_mem _ _ _ fun s e => by simp
      have h2 : s2.mem = s.mem := (modPlan_mem _ _ _).trans h1
      have h4 : s4.mem = s2.mem := by
        unfold s4
        split
        · split <;> simp [s3]
        · rfl
      rw [syncSpu_mem, h4, h2]

@[simp] theorem forceFills_mem (j : Nat) : (forceFills s j).mem = s.mem :=
  foldl_mem _ _ _ fun s p => by
    split
    · split <;> simp
    · rfl

@[simp] theorem rejectEntry_mem (p seat bin reason sender : Nat) : (rejectEntry s p seat bin reason sender).mem = s.mem := by
  simp [rejectEntry]

@[simp] theorem takeEntry_mem (t w : Nat) : (takeEntry s t w).mem = s.mem := by
  unfold takeEntry
  dsimp only
  repeat' split
  all_goals simp

@[simp] theorem replayCarried_mem (r seat : Nat) (b : Bytes) : (replayCarried s r seat b).mem = s.mem := by simp [replayCarried]

@[simp] theorem noteCarryIn_mem (x : PlanSt) (p : Nat) : (noteCarryIn s x p).mem = s.mem := by
  unfold noteCarryIn
  repeat' split
  all_goals simp

@[simp] theorem carryOut_mem (x : PlanSt) (f : Fill) (b i seat : Nat) : (carryOut s x f b i seat).mem = s.mem := by
  unfold carryOut
  dsimp only
  repeat' split
  all_goals simp

/-! ### Operations of Machine/Grading -/

@[simp] theorem noteGrdErr_mem (cause layer tile : Nat) : (noteGrdErr s cause layer tile).mem = s.mem := by simp [noteGrdErr]
@[simp] theorem grdDisarm_mem : (grdDisarm s).mem = s.mem := by simp [grdDisarm]
@[simp] theorem grdDisarmJob_mem (j : Nat) : (grdDisarmJob s j).mem = s.mem := by simp [grdDisarmJob]
@[simp] theorem setLayer_mem (x : GrdLayer) : (setLayer s x).mem = s.mem := by simp [setLayer]
@[simp] theorem modLayer_mem (l : Nat) (f : GrdLayer → GrdLayer) : (modLayer s l f).mem = s.mem := by simp [modLayer]
@[simp] theorem syncOpen_mem : (syncOpen s).mem = s.mem := by simp [syncOpen]

@[simp] theorem pushColl_mem (n : Nat) (s : State) (a : Nat) : (pushColl n s a).mem = s.mem := by
  induction n generalizing s with
  | zero => rfl
  | succ n ih =>
    unfold pushColl
    dsimp only
    split
    · rfl
    · split
      · rfl
      · simp [ih]

@[simp] theorem pushCollAll_mem (a : Nat) : (pushCollAll s a).mem = s.mem := pushColl_mem _ s a

@[simp] theorem sendColl_mem (m l seg : Nat) (long : Bool) (anchor : Int) (v : List Int) :
    (sendColl s m l seg long anchor v).mem = s.mem := by
  unfold sendColl
  split <;> simp

@[simp] theorem sendColls_mem (ms : List Nat) (l seg : Nat) (v : List Int) : (sendColls s ms l seg v).mem = s.mem := by
  simp [sendColls]

@[simp] theorem noteCollErr_mem (cause layer seg rank : Nat) : (noteCollErr s cause layer seg rank).mem = s.mem := by
  simp [noteCollErr]

@[simp] theorem collRange_mem (l seg rank : Nat) : (collRange s l seg rank).mem = s.mem := by
  unfold collRange
  dsimp only
  repeat' split
  all_goals simp

@[simp] theorem deliverFinal_mem (l seg : Nat) (v : List Int) : (deliverFinal s l seg v).mem = s.mem := by simp [deliverFinal]

@[simp] theorem formFinal_mem (l seg : Nat) : (formFinal s l seg).mem = s.mem := by
  unfold formFinal
  dsimp only
  repeat' split
  all_goals simp

@[simp] theorem ownerWork_mem (l : Nat) : (ownerWork s l).mem = s.mem := by simp [ownerWork]
@[simp] theorem handPartial_mem (l seg : Nat) (v : List Int) : (handPartial s l seg v).mem = s.mem := by simp [handPartial]

@[simp] theorem partialWork_mem (l : Nat) : (partialWork s l).mem = s.mem := by
  unfold partialWork
  extract_lets y all segs s1 y1 s2 s3
  have h1 : s1.mem = s.mem := foldl_mem _ _ _ fun s k => by dsimp only; split <;> simp
  have h3 : s3.mem = s1.mem := by simp [s3, s2]
  rw [ownerWork_mem, h3, h1]

@[simp] theorem contribute_mem (l seg k : Nat) (vals : List FVal) : (contribute s l seg k vals).mem = s.mem := by
  simp [contribute]

@[simp] theorem readStage_mem (x : Job) (d : Bytes) (slot n : Nat) : (readStage s x d slot n).1.mem = s.mem := by
  unfold readStage
  dsimp only
  repeat' split
  all_goals simp

@[simp] theorem readElem_mem (x : Job) (d : Bytes) (rule i : Nat) : (readElem s x d rule i).1.mem = s.mem := by simp [readElem]
@[simp] theorem dropColl_mem : (dropColl s).mem = s.mem := by simp [dropColl]

/-! ### Operations of Machine/Runs -/

@[simp] theorem kickDeferred_mem : (kickDeferred s).mem = s.mem := by simp [kickDeferred]
@[simp] theorem clearKick_mem (t : Nat) : (clearKick s t).mem = s.mem := by simp [clearKick]
@[simp] theorem kickQueues_mem (t : Nat) (mine : List Nat) : (kickQueues s t mine).mem = s.mem := by simp [kickQueues]

@[simp] theorem kickTile_mem (t run task : Nat) (x : Run) (entry : Nat) : (kickTile s t run task x entry).mem = s.mem := by
  simp [kickTile]

@[simp] theorem readyTasks_mem (r : Nat) : (readyTasks s r).mem = s.mem := by
  unfold readyTasks
  repeat' split
  all_goals simp

@[simp] theorem startTask_mem (r k : Nat) : (startTask s r k).mem = s.mem := by
  unfold startTask
  repeat' split
  all_goals simp

@[simp] theorem delayPending_mem (j w : Nat) : (delayPending s j w).mem = s.mem := by simp [delayPending]

@[simp] theorem noteMargin_mem (x : Run) (m : Nat) : (noteMargin s x m).mem = s.mem := by
  unfold noteMargin
  dsimp only
  repeat' split
  all_goals simp

@[simp] theorem beforeLines_mem (r : Nat) (x : Run) (j : Job) (f : Form) (n : Nat) : (beforeLines s r x j f n).mem = s.mem :=
  (foldl_mem _ _ _ fun s c => by split <;> simp).trans (foldl_mem _ _ _ fun s p => by split <;> simp)

@[simp] theorem replayLine_mem (r : Nat) (isCarry : Bool) (plan idx entry : Nat) (b : Bytes) :
    (replayLine s r isCarry plan idx entry b).mem = s.mem := by
  simp [replayLine]

@[simp] theorem replayLines_mem (r : Nat) (x : Run) (j : Job) (f : Form) : (replayLines s r x j f).mem = s.mem := by
  simp [replayLines]

@[simp] theorem endLines_mem (r : Nat) : (endLines s r).mem = s.mem := by
  unfold endLines
  repeat' split
  all_goals simp

@[simp] theorem unbindDone_mem (p : Period) (d : Nat) : (unbindDone s p d).mem = s.mem := by simp [unbindDone]

@[simp] theorem endBind_mem (q status detail retakes epoch : Nat) : (endBind s q status detail retakes epoch).mem = s.mem := by
  unfold endBind
  dsimp only
  repeat' split
  all_goals simp

@[simp] theorem dropPeriodRuns_mem (j : Nat) : (dropPeriodRuns s j).mem = s.mem := by simp [dropPeriodRuns]

@[simp] theorem endRun_mem (r outcome status detail : Nat) : (endRun s r outcome status detail).mem = s.mem := by
  unfold endRun
  split
  · rfl
  · extract_lets s1 s2 s3 s4 bound s5
    have h3 : s3.mem = s.mem := by
      unfold s3
      split
      · split <;> simp [s2, s1]
      · simp [s2, s1]
    have h4 : s4.mem = s.mem := (delayPending_mem _ _ _).trans h3
    have h5 : s5.mem = s.mem := by
      unfold s5
      split
      · simp [h4]
      · cases bound with
        | some q => split <;> simp [h4]
        | none => exact h4
    split
    · exact (unbindPlans_mem _ _).trans h5
    · exact h5

@[simp] theorem completeRun_mem (r : Nat) : (completeRun s r).mem = s.mem := by
  unfold completeRun
  repeat' split
  all_goals simp

@[simp] theorem gatherTile_mem (t r : Nat) : (gatherTile s t r).mem = s.mem := by simp [gatherTile]
@[simp] theorem armCounters_mem (j : Nat) (x : Job) (epoch : Nat) : (armCounters s j x epoch).mem = s.mem := by simp [armCounters]

@[simp] theorem earlyLines_mem (r : Nat) (x : Run) (n : Nat) : (earlyLines s r x n).mem = s.mem :=
  foldl_mem _ _ _ fun s p => by
    split
    · split <;> simp
    · rfl

@[simp] theorem nameRun_mem (r : Nat) (x : Run) : (nameRun s r x).mem = s.mem := by
  unfold nameRun
  split <;> simp

@[simp] theorem kickRun_mem (r : Nat) (x : Run) (j : Job) : (kickRun s r x j).mem = s.mem := by
  unfold kickRun
  extract_lets epoch s1 grd s2 s3 s4 audited serial s5 replay s6 n s7 s8 zero
  have h5 : s5.mem = s.mem := by simp [s5, s4, s3, s2, s1]
  have h6 : s6.mem = s5.mem := modRun_mem _ _ _
  have h7 : s7.mem = s6.mem := by
    unfold s7
    split
    · dsimp only
      split
      · exact (earlyLines_mem _ _ _ _).trans (foldl_mem _ _ _ fun s p => planStart_mem _ _ _)
      · exact foldl_mem _ _ _ fun s p => planStart_mem _ _ _
    · exact foldl_mem _ _ _ fun s p => planStart_mem _ _ _
  have h8 : s8.mem = s7.mem := foldl_mem _ _ _ fun s t => modTile_mem _ _ _
  rw [readyTasks_mem, foldl_mem _ _ _ fun s k => startTask_mem _ _ _, h8, h7, h6, h5]

@[simp] theorem graphKick_mem (r : Nat) (x : Run) (j : Job) : (graphKick s r x j).mem = s.mem := by
  unfold graphKick
  repeat' split
  all_goals simp

/-! ### Operations of Machine/Posts -/

@[simp] theorem finishPosts_mem (r : Nat) : (finishPosts s r).mem = s.mem := by
  unfold finishPosts
  repeat' split
  all_goals simp

/-! ### Operations of Machine/Reliability -/

@[simp] theorem evalFailed_mem : (evalFailed s).mem = s.mem := by simp [evalFailed]
@[simp] theorem condemnSite_mem (t : Nat) : (condemnSite s t).mem = s.mem := by simp [condemnSite]
@[simp] theorem condemnStack_mem (p : Nat) : (condemnStack s p).mem = s.mem := by simp [condemnStack]

@[simp] theorem queueUnit_mem (t kind idx : Nat) (subm : Option Nat) : (queueUnit s t kind idx subm).mem = s.mem := by
  simp [queueUnit]

@[simp] theorem passOn_mem (t kind : Nat) : (passOn s t kind).mem = s.mem := by simp [passOn]

@[simp] theorem retireSpare_mem (t kind idx : Nat) : (retireSpare s t kind idx).mem = s.mem := by
  unfold retireSpare
  repeat' split
  all_goals simp

@[simp] theorem condemn_mem (t kind idx : Nat) : (condemn s t kind idx).mem = s.mem := by simp [condemn]

@[simp] theorem countFault_mem (tile : Nat) (u : Option (Nat × Nat)) : (countFault s tile u).1.mem = s.mem := by
  unfold countFault
  dsimp only
  repeat' split
  all_goals simp

@[simp] theorem shadowFault_mem (t pos : Nat) : (shadowFault s t pos).1.mem = s.mem := by simp [shadowFault]

@[simp] theorem hwFaultOn_mem (code tile idx : Nat) (rs : List Nat) : (hwFaultOn s code tile idx rs).mem = s.mem := by
  unfold hwFaultOn
  extract_lets u key twice s1
  have h1 : s1.mem = s.mem := foldl_mem _ _ _ fun s r => modRun_mem _ _ _
  clear_value s1 twice key u
  split
  next s2 hit he =>
    have h2 : s2.mem = s.mem := mem_of_pair_eq he (by split <;> simp [h1])
    split
    next s3 limit hc =>
      have h3 : s3.mem = s.mem := mem_of_pair_eq hc ((countFault_mem _ _ _).trans h2)
      refine (foldl_mem _ _ _ fun s r => ?_).trans ((raise_mem _ _ _).trans ((wrs_mem _ _).trans ?_))
      · dsimp only
        split
        · split
          · split <;> simp
          · simp
        · simp
      · split
        · exact (condemn_mem _ _ _ _).trans h3
        · exact h3

@[simp] theorem hwFault_mem (code tile idx : Nat) : (hwFault s code tile idx).mem = s.mem := by simp [hwFault]

@[simp] theorem noteXovr_mem (t link : Nat) (under over' : Bool) : (noteXovr s t link under over').mem = s.mem := by
  simp [noteXovr]

@[simp] theorem replaceUnit_mem (t kind idx : Nat) : (replaceUnit s t kind idx).1.mem = s.mem := by
  unfold replaceUnit
  repeat' split
  all_goals simp

@[simp] theorem newSiteRegs_mem (t : Nat) : (newSiteRegs s t).mem = s.mem :=
  (syncShadow_mem _ t).trans ((foldl_mem _ _ _ fun _ _ => wr_mem _ _ _).trans (wrs_mem _ _))

@[simp] theorem newSiteTim_mem (t : Nat) : (newSiteTim s t).mem = s.mem :=
  (foldl_mem _ _ _ fun s l => by split <;> simp).trans (wrs_mem _ _)

@[simp] theorem substUnit_mem (d : Desc) (kind t idx : Nat) (imageDigest : Bytes) :
    (substUnit s d kind t idx imageDigest).mem = s.mem := by
  simp [substUnit]

@[simp] theorem wearSite_mem (w : SiteWear) : (wearSite s w).mem = s.mem := by simp [wearSite]
@[simp] theorem wearStack_mem (p rate : Nat) : (wearStack s p rate).mem = s.mem := by simp [wearStack]
@[simp] theorem wearLink_mem (u m : Nat) : (wearLink s u m).mem = s.mem := by simp [wearLink]

@[simp] theorem restoreMaps_mem : (restoreMaps s).mem = s.mem :=
  (foldl_mem _ _ _ fun _ _ => wr_mem _ _ _).trans (foldl_mem _ _ _ fun _ _ => wrs_mem _ _)

@[simp] theorem commitMaps_mem : (commitMaps s).mem = s.mem :=
  (foldl_mem _ _ _ fun _ _ => wr_mem _ _ _).trans (foldl_mem _ _ _ newSiteTim_mem)

/-! ### Operations of Machine/Jobs -/

@[simp] theorem addRun_mem (x : Run) : (addRun s x).mem = s.mem := by simp [addRun]
@[simp] theorem enqueueGraph_mem (d : Desc) (j : Job) : (enqueueGraph s d j).mem = s.mem := by simp [enqueueGraph]

@[simp] theorem wakeGraphs_mem (j : Nat) : (wakeGraphs s j).mem = s.mem :=
  foldl_mem _ _ _ fun s d => by
    split
    · split <;> simp
    · simp

@[simp] theorem clearPeriodRegs_mem (q job : Nat) : (clearPeriodRegs s q job).mem = s.mem := by simp [clearPeriodRegs]
@[simp] theorem acceptBind_mem (d : Desc) (j : Job) : (acceptBind s d j).mem = s.mem := by simp [acceptBind]
@[simp] theorem freeCounters_mem (x : Job) : (freeCounters s x).mem = s.mem := by simp [freeCounters]
@[simp] theorem forgetItems_mem (n : RunName) : (forgetItems s n).mem = s.mem := by simp [forgetItems]

@[simp] theorem execFabricDiscard.stale_mem (i : Item) : (execFabricDiscard.stale s i).mem = s.mem := by
  unfold execFabricDiscard.stale
  split <;> simp

/-! ### Operations of Machine/Coll -/

@[simp] theorem sendAck_mem (a : Nat) : (sendAck s a).mem = s.mem := by simp [sendAck]
@[simp] theorem noteRx_mem (a seqn : Nat) (new : Bool) : (noteRx s a seqn new).mem = s.mem := by simp [noteRx]
@[simp] theorem resendColl_mem (a : Nat) (c : CollSent) : (resendColl s a c).mem = s.mem := by simp [resendColl]
@[simp] theorem collFailed_mem (a : Nat) (c : CollSent) : (collFailed s a c).mem = s.mem := by simp [collFailed]
@[simp] theorem dupColl_mem (a : Nat) : (dupColl s a).mem = s.mem := by simp [dupColl]
@[simp] theorem takeColl_mem (a : Nat) (m : Bytes) : (takeColl s a m).mem = s.mem := by simp [takeColl]
@[simp] theorem releaseEnds_mem (a : Nat) : (releaseEnds s a).mem = s.mem := by simp [releaseEnds]
@[simp] theorem acceptColl_mem (a : Nat) (m : Bytes) : (acceptColl s a m).mem = s.mem := by simp [acceptColl]

/-! ### Operations of Machine/Time -/

@[simp] theorem timeSync_mem : (timeSync s).mem = s.mem := by simp [timeSync]
@[simp] theorem sourceLocked_mem (src : Nat) : (sourceLocked s src).mem = s.mem := by simp [sourceLocked]
@[simp] theorem syncPending_mem : (syncPending s).mem = s.mem := by simp [syncPending]
@[simp] theorem passBells_mem (q : Nat) (p : Period) (lo hi : Nat) : (passBells s q p lo hi).mem = s.mem := by simp [passBells]

@[simp] theorem stepTod_mem (c : Int) : (stepTod s c).mem = s.mem := by
  unfold stepTod
  extract_lets lo s1 s2 s3
  have h3 : s3.mem = s.mem := by simp [s3, s2, s1]
  split
  · exact (foldl_mem _ _ _ fun s q => by split <;> simp).trans h3
  · simp [s2, s1]

@[simp] theorem correct_mem (c : Int) : (correct s c).mem = s.mem := by simp [correct]
@[simp] theorem adjust_mem (c : Int) : (adjust s c).mem = s.mem := by simp [adjust]

@[simp] theorem setTodNow_mem (v : Nat) : (setTodNow s v).mem = s.mem := by
  rw [setTodNow, timeSync_mem, syncPending_mem, wr_mem, modTime_mem, setTodFine_mem]

@[simp] theorem ptpMark_mem (mark : Bool) : (ptpMark s mark).mem = s.mem := by
  unfold ptpMark
  dsimp only
  repeat' split
  all_goals simp

@[simp] theorem ptpLost_mem : (ptpLost s).mem = s.mem := by simp [ptpLost]
@[simp] theorem judgePtp_mem : (judgePtp s).mem = s.mem := by simp [judgePtp]
@[simp] theorem measureRef_mem : (measureRef s).mem = s.mem := by simp [measureRef]

theorem rejectEdge_sameMem : SameMem s (rejectEdge s) := by
  unfold rejectEdge
  refine sameMem_ite ((modTime_mem _ _).trans (bump_mem _ _ _)) (sameMem_iff.2 ?_)
  rw [modTime_mem, correct_mem, raise_mem, modTime_mem, bump_mem]

@[simp] theorem rejectEdge_mem : (rejectEdge s).mem = s.mem := rejectEdge_sameMem s

@[simp] theorem acceptEdge_mem (err : Option Int) : (acceptEdge s err).mem = s.mem := by
  unfold acceptEdge
  extract_lets e rate s1 s2 s3 was near good s4
  have h3 : s3.mem = s.mem := by
    have h2 : s2.mem = s.mem := by simp [s2, s1]
    rw [← h2]
    simp only [s3]
    repeat' split
    all_goals simp
  have h4 : s4.mem = s.mem := (modTime_mem _ _).trans h3
  split <;> simp [h4]

@[simp] theorem setTarget_mem (v : Nat) : (setTarget s v).mem = s.mem := by simp [setTarget]
@[simp] theorem regrid_mem : (regrid s).mem = s.mem := by simp [regrid]
@[simp] theorem startGrid_mem : (startGrid s).mem = s.mem := by simp [startGrid]

/-! ### Operations of Machine/Power -/

@[simp] theorem syncRatios_mem : (syncRatios s).mem = s.mem := by simp [syncRatios]
@[simp] theorem formCaps_mem (qs : List Nat) : (formCaps s qs).mem = s.mem := by simp [formCaps]
@[simp] theorem formTherms_mem : (formTherms s).mem = s.mem := by simp [formTherms]
@[simp] theorem noteFill_mem (r l w : Nat) : (noteFill s r l w).mem = s.mem := by simp [noteFill]
@[simp] theorem equalise_mem : (equalise s).mem = s.mem := by simp [equalise]
@[simp] theorem windowDomain_mem (q : Nat) : (windowDomain s q).mem = s.mem := by simp [windowDomain]
@[simp] theorem addEnergy_mem (k : Nat) (f : Fld) (cw : Nat) : (addEnergy s k f cw).mem = s.mem := by simp [addEnergy]

@[simp] theorem accountEnergy_mem (grading : Nat) (service : List (Nat × Nat)) :
    (accountEnergy s grading service).mem = s.mem := by
  unfold accountEnergy
  dsimp only
  repeat' split
  all_goals simp

@[simp] theorem coarsen_mem : (coarsen s).mem = s.mem := by simp [coarsen]
@[simp] theorem saturate_mem : (saturate s).mem = s.mem := by simp [saturate]
@[simp] theorem takeReading_mem (r : TempReading) : (takeReading s r).mem = s.mem := by simp [takeReading]
@[simp] theorem syncHottest_mem : (syncHottest s).mem = s.mem := by simp [syncHottest]

/-! ### Operations of Machine/Views -/

@[simp] theorem answerRead_mem (fn v : Nat) : (answerRead s fn v).mem = s.mem := by simp [answerRead]

/-! ### Operations of Machine/Doubles -/

@[simp] theorem releaseOwn_mem (x : DblItem) : (releaseOwn s x).mem = s.mem := by
  unfold releaseOwn
  repeat' split
  all_goals simp

@[simp] theorem splitEvent_mem : (splitEvent s).mem = s.mem := by simp [splitEvent]
@[simp] theorem releaseSolo_mem (n : RunName) : (releaseSolo s n).mem = s.mem := by simp [releaseSolo]
@[simp] theorem becomeSingles_mem : (becomeSingles s).mem = s.mem := by simp [becomeSingles]
@[simp] theorem enterSingles_mem : (enterSingles s).mem = s.mem := by simp [enterSingles]
@[simp] theorem dropPair_mem (l : Nat) : (dropPair s l).mem = s.mem := by simp [dropPair]
@[simp] theorem passPayload_mem (link k : Nat) (b : Bytes) : (passPayload s link k b).mem = s.mem := by simp [passPayload]

@[simp] theorem applySents_mem : (applySents s).mem = s.mem := by
  unfold applySents
  split
  exact foldl_mem _ _ _ fun s x => by split <;> simp

@[simp] theorem wakeRun_mem (b n : Nat) : (wakeRun s b n).mem = s.mem := by simp [wakeRun]

@[simp] theorem sendRetake_mem (n : RunName) (attempt code : Nat) : (sendRetake s n attempt code).mem = s.mem := by
  simp [sendRetake]

@[simp] theorem partnerBars_mem (r : Nat) (x : Run) (n : RunName) : (partnerBars s r x n).mem = s.mem := by simp [partnerBars]
@[simp] theorem withhold_mem (n : RunName) : (withhold s n).mem = s.mem := by simp [withhold]
@[simp] theorem splitRun_mem (n : RunName) (first : Nat) : (splitRun s n first).mem = s.mem := by simp [splitRun]
@[simp] theorem goOut_mem : (goOut s).mem = s.mem := by simp [goOut]

/-! ### Operations of Machine/Loader -/

@[simp] theorem writeRoutes_mem (t : Nat) (b : Bytes) : (writeRoutes s t b).mem = s.mem := by simp [writeRoutes]
@[simp] theorem writeQueues_mem (tiles : List Nat) : (writeQueues s tiles).mem = s.mem := by simp [writeQueues]

@[simp] theorem takeCounters_mem (job first : Nat) (l : List (Nat × Nat)) : (takeCounters s job first l).mem = s.mem := by
  simp [takeCounters]

/-! ### Operations of Machine/Security -/

@[simp] theorem syncKeys_mem (q : Nat) : (syncKeys s q).mem = s.mem := by simp [syncKeys]
@[simp] theorem clearSlots_mem (l : List Nat) : (clearSlots s l).mem = s.mem := by simp [clearSlots]

@[simp] theorem installKey_mem (d : Desc) (key : Bytes) (bound : Option Bytes) : (installKey s d key bound).mem = s.mem := by
  simp [installKey]

@[simp] theorem unsealKey_mem (d : Desc) (j : Job) (blob : Bytes) : (unsealKey s d j blob).1.mem = s.mem := by
  unfold unsealKey
  dsimp only
  repeat' split
  all_goals simp

@[simp] theorem dropStream_mem : (dropStream s).mem = s.mem := by simp [dropStream]
@[simp] theorem spdmFail_mem (k code : Nat) : (spdmFail s k code).mem = s.mem := by simp [spdmFail]
@[simp] theorem spdmAnswer_mem (k code : Nat) (body : Bytes) : (spdmAnswer s k code body).mem = s.mem := by simp [spdmAnswer]

/-! ### Operations of Machine/Reset -/

@[simp] theorem releasePins_mem : (releasePins s).mem = s.mem := by simp [releasePins]
@[simp] theorem keepFuses_mem (s t : State) : (keepFuses s t).mem = t.mem := by simp [keepFuses]
@[simp] theorem keepLink_mem (s t : State) : (keepLink s t).mem = t.mem := by simp [keepLink]

@[simp] theorem writeResetStatus_mem (s t : State) (cause : Nat) : (writeResetStatus s t cause).mem = t.mem :=
  (wrs_mem _ _).trans (bump_mem _ _ _)

@[simp] theorem resetTile_mem (t : Nat) : (resetTile s t).mem = s.mem := by simp [resetTile]

@[simp] theorem dropQueues_mem (q : Nat) : (dropQueues s q).mem = s.mem :=
  (foldl_mem _ _ _ fun _ _ => wr_mem _ _ _).trans (foldl_mem _ _ _ fun _ _ => wr_mem _ _ _)

@[simp] theorem rampUp_mem : (rampUp s).mem = s.mem := by simp [rampUp]
@[simp] theorem beginLoad_mem : (beginLoad s).mem = s.mem := by simp [beginLoad]
@[simp] theorem readFailed_mem : (readFailed s).mem = s.mem := by simp [readFailed]
@[simp] theorem lostDesc_mem (sq off : Nat) : (lostDesc s sq off).mem = s.mem := by simp [lostDesc]

/-! ### Operations of Machine/Signing -/

@[simp] theorem putSig_mem (q num : Nat) (b : Bytes) : (putSig s q num b).mem = s.mem := by simp [putSig]

/-! ### Operations of Machine/HostRegs -/

@[simp] theorem plainWrite_mem (off w : Nat) : (plainWrite s off w).mem = s.mem := by simp [plainWrite]
@[simp] theorem releaseIf_mem (b : Bool) (l : List (Fld × Nat)) : (releaseIf s b l).mem = s.mem := by simp [releaseIf]
@[simp] theorem releaseRecords_mem (off cleared : Nat) : (releaseRecords s off cleared).mem = s.mem := by simp [releaseRecords]

@[simp] theorem clearCause_mem (fn off v coincident : Nat) : (clearCause s fn off v coincident).mem = s.mem := by
  unfold clearCause
  split <;> simp

@[simp] theorem clearRead_mem (off hits amounts : Nat) : (clearRead s off hits amounts).mem = s.mem :=
  foldl_mem _ _ _ fun _ _ => wr_mem _ _ _

@[simp] theorem latchWindow_mem : (latchWindow s).mem = s.mem := by simp [latchWindow]

@[simp] theorem refuseAccess_mem (fn off size : Nat) (bar2 write : Bool) :
    (refuseAccess s fn off size bar2 write).mem = s.mem := by
  simp [refuseAccess]

@[simp] theorem logBar4_mem (a : Nat) (write : Bool) (sealer : Option Nat) : (logBar4 s a write sealer).mem = s.mem := by
  simp [logBar4]

@[simp] theorem bar4Refused_mem (op : Bar4Op) : (bar4Refused s op).mem = s.mem := by cases op <;> rfl
end

/-! ### Memory after a loss of power or a trip -/

@[simp] theorem restart_mem (s : State) (keep : Nat → Bool) (m : List Host.Cell) : (restart s keep m).mem = m := rfl

@[simp] theorem tripModule_mem (s : State) : (tripModule s).mem = [] := by simp [tripModule]

end Sys2Proof.Machine
end

section
namespace Sys2Proof.Machine

/-! ## Every step keeps the canonical form of memory (R20)

One lemma for each operation that can write memory (`f_wf`, on a state) and for each command (`execX_wf`, on its outcome). What
leaves memory alone is rewritten away by the lemmas above. -/

/-- Memory in canonical form. -/
@[simp] abbrev MemWf (s : State) : Prop := Memory.wf s.mem = true

/-- The next state of an outcome, where there is one, holds memory in canonical form. -/
def NextWf (o : Host.Outcome State Fault Refusal) : Prop := ∀ t, o = .next t → MemWf t

@[simp] theorem nextWf_next (t : State) : NextWf (.next t) ↔ MemWf t := by simp [NextWf]

@[simp] theorem nextWf_ite {c : Prop} [Decidable c] {a b : Host.Outcome State Fault Refusal} :
    NextWf (if c then a else b) ↔ (c → NextWf a) ∧ (¬ c → NextWf b) := by
  by_cases hc : c <;> simp [hc]

theorem nextWf_pick {c : Prop} [Decidable c] {a b : State} (ha : NextWf (.next a)) (hb : NextWf (.next b)) :
    NextWf (.next (if c then a else b)) := by
  split
  · exact ha
  · exact hb

@[simp] theorem Memory.wf_ite {c : Prop} [Decidable c] (m n : List Host.Cell) :
    Memory.wf (if c then m else n) = if c then Memory.wf m else Memory.wf n := apply_ite Memory.wf c m n

@[simp] theorem Memory.wf_nil : Memory.wf [] = true := rfl

@[simp] theorem Memory.wf_filter {m : List Host.Cell} (hm : Memory.wf m = true) (f : Host.Cell → Bool) :
    Memory.wf (m.filter f) = true := Memory.wfFrom_filter f hm

theorem memWf_of_eq {s t : State} (h : t.mem = s.mem) (hs : MemWf s) : MemWf t := by simpa [h] using hs

/-- A fold of steps that keep the canonical form keeps it. -/
theorem foldl_wf {α : Type} {g : State → α → State} {l : List α} (h : ∀ s a, MemWf s → MemWf (g s a)) {s : State}
    (hs : MemWf s) : MemWf (l.foldl g s) := by
  induction l generalizing s with
  | nil => exact hs
  | cons x r ih => exact ih (h s x hs)

theorem ite_some_wf {c : Prop} [Decidable c] {x : Host.Outcome State Fault Refusal}
    {r : Option (Host.Outcome State Fault Refusal)} (hx : NextWf x) (hr : ∀ o, r = some o → NextWf o) :
    ∀ o, (if c then some x else r) = some o → NextWf o := by
  split
  · rintro o ⟨⟩
    exact hx
  · exact hr

section
variable {s : State} (hs : MemWf s)
include hs

/-! ### Writes of memory -/

@[simp] theorem writeBytes_wf (a : Nat) (b : Bytes) : MemWf (writeBytes s a b) := Memory.wf_writeBytes b a hs
@[simp] theorem writeMasked_wf (a : Nat) (b : List (Option Byte)) : MemWf (writeMasked s a b) := Memory.wf_writeMasked b a hs
@[simp] theorem writeBits_wf (a : Nat) (b : List (Byte × Byte)) : MemWf (writeBits s a b) := Memory.wf_writeBits b a hs
@[simp] theorem zeroSpan_wf (a n : Nat) : MemWf (zeroSpan s a n) := Memory.wf_zeroSpan a n hs
@[simp] theorem writeOther_wf (a : Nat) (bs : Bytes) : MemWf (writeOther s a bs) := by simp [writeOther, hs]

/-! ### Operations of Machine/Tiles -/

@[simp] theorem runAct_wf (t tick slot : Nat) (a : Act) : MemWf (runAct s t tick slot a) := by
  cases a with
  | storeLine | write | weightLine | moveLine | sendIncr | aideRead | sendLine => simp [runAct, hs]

@[simp] theorem runMicros_wf (n t bound : Nat) : MemWf (runMicros n s t bound) := by
  induction n generalizing s with
  | zero => exact hs
  | succ n ih =>
    simp only [runMicros]
    split
    · exact hs
    · split
      · exact ih (by simp [hs])
      · exact hs

@[simp] theorem runDue_wf (t bound : Nat) : MemWf (runDue s t bound) := runMicros_wf hs _ t bound
@[simp] theorem flushMicros_wf (t : Nat) : MemWf (flushMicros s t) := by simp [flushMicros, hs]
@[simp] theorem setTick_wf (t tick : Nat) : MemWf (setTick s t tick) := by simp [setTick, hs]
@[simp] theorem catchUp_wf (t : Nat) : MemWf (catchUp s t) := by simp [catchUp, hs]
@[simp] theorem haltTile_wf (t st : Nat) : MemWf (haltTile s t st) := by simp [haltTile, hs]
@[simp] theorem stopTile_wf (t : Nat) : MemWf (stopTile s t) := by simp [stopTile, hs]

@[simp] theorem progErrAt_wf (t code slot pc : Nat) : MemWf (progErrAt s t code slot pc) := by
  unfold progErrAt
  dsimp only
  repeat' split
  all_goals simp [hs]

@[simp] theorem progErr_wf (t code slot : Nat) : MemWf (progErr s t code slot) := by simp [progErr, hs]
@[simp] theorem holdTick_wf (t kind slot : Nat) (stall : Bool) : MemWf (holdTick s t kind slot stall) := by simp [holdTick, hs]

theorem issueOp_wf {t slot : Nat} {badEnc : Bool} {holds : List Nat} {stall : Bool} {body : State → State}
    (h : ∀ s, MemWf s → MemWf (body s)) : MemWf (issueOp s t slot badEnc holds stall body) := by
  unfold issueOp
  repeat' split
  all_goals simp [h, hs]

theorem issueOp_nextWf {t slot : Nat} {badEnc : Bool} {holds : List Nat} {stall : Bool} {body : State → State}
    (h : ∀ s, MemWf s → NextWf (.next (body s))) : NextWf (.next (issueOp s t slot badEnc holds stall body)) :=
  (nextWf_next _).2 (issueOp_wf hs fun s hs => (nextWf_next _).1 (h s hs))

@[simp] theorem endBundle_wf (t : Nat) (lims : Store Nat) (target : Option Nat) (cost : Nat) :
    MemWf (endBundle s t lims target cost) := by
  simp [endBundle, hs]

theorem issueSeq_wf {t : Nat} {badEnc : Bool} {body : State → State × Option Nat × Nat}
    (h : ∀ s, MemWf s → MemWf (body s).1) : MemWf (issueSeq s t badEnc body) := by
  refine issueOp_wf hs fun s hs => ?_
  dsimp only
  split <;> simp [h, hs]

theorem issueSeq_nextWf {t : Nat} {badEnc : Bool} {body : State → State × Option Nat × Nat}
    (h : ∀ s, MemWf s → NextWf (.next (body s).1)) : NextWf (.next (issueSeq s t badEnc body)) :=
  (nextWf_next _).2 (issueSeq_wf hs fun s hs => (nextWf_next _).1 (h s hs))

@[simp] theorem endWait_wf (t : Nat) (left : List Wait) (tick : Nat) : MemWf (endWait s t left tick) := by
  unfold endWait
  dsimp only
  repeat' split
  all_goals simp [hs]

/-! ### Operations of Machine/Aide -/

@[simp] theorem aidErr_wf (t cause code aide op : Nat) : MemWf (aidErr s t cause code aide op) := by simp [aidErr, hs]

@[simp] theorem aidAlu_wf (a : AidOp) (u : AidUse) (lat : Nat) (extra : List Res) (f : Tile → Nat → Nat) :
    MemWf (aidAlu a u lat extra f s) :=
  issueOp_wf hs fun s hs => by simp [hs]

@[simp] theorem aidPred_wf (a : AidOp) (u : AidUse) (f : Tile → Nat → Bool) : MemWf (aidPred a u f s) :=
  issueOp_wf hs fun s hs => by simp [hs]

@[simp] theorem aidLoad_wf (a : AidOp) (op n lat : Nat) (sext : Bool) (acc : Nat → Nat → Nat → Nat → Nat ⊕ Nat) :
    MemWf (aidLoad a op n lat sext acc s) :=
  issueOp_wf hs fun s hs => by split <;> simp [hs]

@[simp] theorem aidStore_wf (a : AidOp) (op n lat : Nat) (acc : Nat → Nat → Nat → Nat → Nat ⊕ Nat) :
    MemWf (aidStore a op n lat acc s) :=
  issueOp_wf hs fun s hs => by split <;> simp [hs]

@[simp] theorem aidDecode_wf (a : AidOp) (op off n : Nat) (val : Nat → Nat) : MemWf (aidDecode a op off n val s) :=
  issueOp_wf hs fun s hs => by
    repeat' split
    all_goals simp [hs]

@[simp] theorem aidLocker_wf (a : AidOp) (op : Nat) (k : LkKind) : MemWf (aidLocker a op k s) :=
  issueOp_wf hs fun s hs => by
    dsimp only
    repeat' split
    all_goals simp [hs]

@[simp] theorem opRoute_wf (a : AidOp) : NextWf (opRoute a s) :=
  issueOp_nextWf hs fun _ hs => (nextWf_next _).2 <| memWf_of_eq ((foldl_mem _ _ _ fun s _ => sendItem_mem s _).trans (modTile_mem _ _ _)) hs

/-! ### Operations of Machine/Sequencer -/

@[simp] theorem opNop_wf (t slot : Nat) : NextWf (opNop t slot s) :=
  nextWf_pick (issueSeq_nextWf hs fun _ hs => (nextWf_next _).2 hs) (issueOp_nextWf hs fun _ hs => (nextWf_next _).2 hs)

@[simp] theorem opSetlim_wf (t : Nat) (c : BitVec 3) (limit : BitVec 20) : NextWf (opSetlim t c limit s) :=
  issueSeq_nextWf hs fun s hs => by simp [hs]

@[simp] theorem opLoop_wf (t : Nat) (c : BitVec 3) (endPc : BitVec 14) : NextWf (opLoop t c endPc s) :=
  issueSeq_nextWf hs fun s hs => by simp [hs]

@[simp] theorem opJump_wf (t : Nat) (target : BitVec 14) : NextWf (opJump t target s) := issueSeq_nextWf hs fun s hs => by simp [hs]

@[simp] theorem opBrc_wf (t : Nat) (k : BitVec 2) (sense : Bool) (target : BitVec 14) : NextWf (opBrc t k sense target s) :=
  issueSeq_nextWf hs fun s hs => by split <;> simp [hs]

@[simp] theorem opSetcmp_wf (t : Nat) (k : BitVec 2) (c : BitVec 3) (cond : BitVec 2) (imm : BitVec 16) :
    NextWf (opSetcmp t k c cond imm s) :=
  issueSeq_nextWf hs fun s hs => by simp [hs]

@[simp] theorem opWaitbell_wf (t : Nat) (mark : BitVec 4) : NextWf (opWaitbell t mark s) :=
  issueSeq_nextWf hs fun s hs => by
    split
    · split
      · simp [hs]
      · split <;> simp [hs]
    · simp [hs]

@[simp] theorem opWaittick_wf (t : Nat) (tick : BitVec 26) : NextWf (opWaittick t tick s) :=
  issueSeq_nextWf hs fun s hs => by split <;> simp [hs]

@[simp] theorem execWaittickRelease_wf (t : Nat) : NextWf (execWaittickRelease t s) := by
  unfold execWaittickRelease
  dsimp only
  repeat' split
  all_goals simp [hs]

@[simp] theorem opHint_wf (t : Nat) (level : BitVec 4) (lead : BitVec 6) (length : BitVec 10) :
    NextWf (opHint t level lead length s) :=
  issueSeq_nextWf hs fun s hs => by simp [hs]

@[simp] theorem opRefr_wf (t : Nat) (rowGroup : BitVec 12) : NextWf (opRefr t rowGroup s) := issueSeq_nextWf hs fun s hs => by simp [hs]

@[simp] theorem opFence_wf (t : Nat) (slots : BitVec 5) (lp : Bool) : NextWf (opFence t slots lp s) :=
  issueSeq_nextWf hs fun s hs => by
    dsimp only
    split <;> simp [hs]

@[simp] theorem execFenceRelease_wf (t tick : Nat) : NextWf (execFenceRelease t tick s) := by
  unfold execFenceRelease
  dsimp only
  repeat' split
  all_goals simp [hs]

@[simp] theorem opDigest_wf (t : Nat) (layer : BitVec 16) : NextWf (opDigest t layer s) :=
  issueSeq_nextWf hs fun s hs => by
    dsimp only
    split
    · simp [hs]
    · split
      · simp [hs]
      · split
        · simp [hs]
        · dsimp only
          split <;> simp [hs]

@[simp] theorem opTrap_wf (t : Nat) (code : BitVec 8) : NextWf (opTrap t code s) := issueSeq_nextWf hs fun s hs => by simp [hs]
@[simp] theorem opHalt_wf (t : Nat) (code : BitVec 8) : NextWf (opHalt t code s) := issueSeq_nextWf hs fun s hs => by simp [hs]

/-! ### Operations of Machine/Transfer -/

@[simp] theorem xferErr_wf (t cause code tmpl eng piece pc : Nat) : MemWf (xferErr s t cause code tmpl eng piece pc) := by
  simp [xferErr, hs]

@[simp] theorem opFill_wf (t : Nat) (ddesc : BitVec 6) (doff : BitVec 12) (lines : BitVec 8) (byte : Byte) :
    NextWf (opFill t ddesc doff lines byte s) :=
  issueOp_nextWf hs fun s hs => by
    have herr : NextWf (.next (progErr s t errRange 4)) := by simp [hs]
    split
    · split
      · exact herr
      · exact (nextWf_next _).2 (memWf_of_eq (modTile_mem _ _ _) hs)
    · exact herr

@[simp] theorem opCopy_wf (t : Nat) (sdesc : BitVec 6) (soff : BitVec 8) (ddesc : BitVec 6) (doff : BitVec 8)
    (lines : BitVec 7) : NextWf (opCopy t sdesc soff ddesc doff lines s) :=
  issueOp_nextWf hs fun s hs => by
    split
    · split <;> simp [hs]
    · simp [hs]

@[simp] theorem opDload_wf (t : Nat) (mdesc : BitVec 6) (moff : BitVec 12) (sdesc : BitVec 6) (soff : BitVec 8)
    (lines : BitVec 3) : NextWf (opDload t mdesc moff sdesc soff lines s) :=
  issueOp_nextWf (by simp [hs]) fun s hs => by
    split
    · split <;> simp [hs]
    · simp [hs]

@[simp] theorem opDstore_wf (t : Nat) (mdesc : BitVec 6) (moff : BitVec 12) (sdesc : BitVec 6) (soff : BitVec 8)
    (lines : BitVec 3) : NextWf (opDstore t mdesc moff sdesc soff lines s) :=
  issueOp_nextWf (by simp [hs]) fun s hs => by
    split
    · split <;> simp [hs]
    · simp [hs]

@[simp] theorem execGuardedLinePresent_wf (t addr : Nat) : NextWf (execGuardedLinePresent t addr s) := by
  simp [execGuardedLinePresent, hs]

@[simp] theorem opSpass_wf (t : Nat) (sdesc : BitVec 6) (soff : BitVec 8) (ddesc : BitVec 6) (doff : BitVec 8)
    (len : BitVec 3) : NextWf (opSpass t sdesc soff ddesc doff len s) :=
  issueOp_nextWf hs fun s hs => by
    split
    · split <;> simp [hs]
    · simp [hs]

@[simp] theorem opLpass_wf (t : Nat) (eng : Bool) (tmpl : BitVec 10) (ctr : BitVec 16) : NextWf (opLpass t eng tmpl ctr s) :=
  issueOp_nextWf (by simp [hs]) fun s hs => by
    split
    · simp [hs]
    · exact nextWf_pick (by simp [hs]) (nextWf_pick (by simp [hs]) (by simp [hs]))

@[simp] theorem movePiece_wf (t : Nat) (f : Transfer) (k : Nat) : MemWf (movePiece s t f k) := by simp [movePiece, hs]

theorem movePieces_wf (t : Nat) (f : Transfer) (ks : List Nat) : MemWf (ks.foldl (fun s k => movePiece s t f k) s) :=
  foldl_wf (fun _ k hs => movePiece_wf hs t f k) hs

@[simp] theorem execLpassReport_wf (t : Nat) (eng : Bool) : NextWf (execLpassReport t eng s) := by
  unfold execLpassReport
  dsimp only
  repeat' split
  all_goals simp [movePieces_wf, hs]

@[simp] theorem execXferRange_wf (t : Nat) (eng : Bool) : NextWf (execXferRange t eng s) := by
  unfold execXferRange
  dsimp only
  repeat' split
  all_goals simp [hs]

/-! ### Operations of Machine/Channel -/

@[simp] theorem execLineArrival_wf (t ep : Nat) : NextWf (execLineArrival t ep s) := by
  unfold execLineArrival
  dsimp only
  split
  · next h => split <;> simp [takeItem_mem h, hs]
  · simp [hs]

@[simp] theorem execCreditReturn_wf (t ep : Nat) : NextWf (execCreditReturn t ep s) := by
  unfold execCreditReturn
  dsimp only
  split
  · next h => repeat' split <;> simp [takeItem_mem h, hs]
  · simp [hs]

@[simp] theorem execQueueToken_wf (t ep : Nat) : NextWf (execQueueToken t ep s) := by
  unfold execQueueToken
  dsimp only
  split
  · next h => repeat' split <;> simp [takeItem_mem h, hs]
  · simp [hs]

@[simp] theorem opCsend_wf (t : Nat) (ep : BitVec 4) (sdesc : BitVec 6) (soff : BitVec 9) :
    NextWf (opCsend t ep sdesc soff s) :=
  issueOp_nextWf (by simp [hs]) fun s hs => by
    split
    · simp [hs]
    · split
      · simp [hs]
      · split <;> simp [hs]

@[simp] theorem opCrecv_wf (t : Nat) (q : BitVec 4) (ddesc : BitVec 6) (doff : BitVec 9) : NextWf (opCrecv t q ddesc doff s) :=
  issueOp_nextWf (by simp [hs]) fun s hs => by
    split
    · simp [hs]
    · split
      · split <;> simp [hs]
      · simp [hs]

@[simp] theorem opQopen_wf (t : Nat) (q : BitVec 4) : NextWf (opQopen t q s) :=
  issueOp_nextWf (by simp [hs]) fun s hs => by
    repeat' split
    all_goals simp [hs]

@[simp] theorem opQclose_wf (t : Nat) (q : BitVec 4) : NextWf (opQclose t q s) :=
  issueOp_nextWf (by simp [hs]) fun s hs => nextWf_pick (by simp [hs]) (by simp [hs])

/-! ### Operations of Machine/Sync -/

@[simp] theorem opSinc_wf (t : Nat) (ctr : BitVec 16) (amt : BitVec 3) : NextWf (opSinc t ctr amt s) :=
  issueOp_nextWf hs fun s hs => by
    repeat' split
    all_goals simp [hs]

@[simp] theorem opSwait_wf (t : Nat) (ctr : BitVec 16) (consume : Bool) : NextWf (opSwait t ctr consume s) :=
  issueOp_nextWf hs fun s hs =>
    nextWf_pick (by simp [hs]) (nextWf_pick (nextWf_pick (by simp [hs]) (by simp [hs])) (by simp [hs]))

@[simp] theorem syncOverflow_wf (ctr slot pc : Nat) (i : Item) : MemWf (syncOverflow s ctr slot pc i) := by
  unfold syncOverflow
  dsimp only
  repeat' split
  all_goals simp [hs]

@[simp] theorem applyIncr_wf (ctr amt slot pc : Nat) (i : Item) : MemWf (applyIncr s ctr amt slot pc i) := by simp [applyIncr, hs]

@[simp] theorem execCounterIncrement_wf (src ctr : Nat) : NextWf (execCounterIncrement src ctr s) := by
  unfold execCounterIncrement
  split
  · next h => repeat' split <;> simp [takeItem_mem h, hs]
  · simp [hs]

@[simp] theorem execSwaitRelease_wf (t u : Nat) : NextWf (execSwaitRelease t u s) := by
  unfold execSwaitRelease
  dsimp only
  repeat' split
  all_goals simp [hs]

@[simp] theorem reachLimit_wf (t : Nat) : MemWf (reachLimit s t) := by
  unfold reachLimit
  dsimp only
  repeat' split
  all_goals simp [hs]

@[simp] theorem execWatchdog_wf (tiles : List Nat) : NextWf (execWatchdog tiles s) := by
  unfold execWatchdog
  dsimp only
  split
  · simp [hs]
  · split
    · simp [hs]
    · refine (nextWf_next _).2 (foldl_wf (fun s t hs => by simp [hs]) (progErrAt_wf (memWf_of_eq (raise_mem _ _ _) ?_) ..))
      rw [← nextWf_next]
      have h1 : ∀ (j : Nat) (l : List Nat), MemWf (l.foldl (fun s t => if jobOfTile s t = j then reachLimit s t else s) s) :=
        fun j l => foldl_wf (fun s t hs => by simp [hs]) hs
      refine nextWf_pick (by simp [h1]) ?_
      split <;> simp [h1]

/-! ### Operations of Machine/Locker -/

@[simp] theorem execLksRegisterWrite_wf (fn off : Nat) (v : Word64) : NextWf (execLksRegisterWrite fn off v s) := by
  unfold execLksRegisterWrite
  dsimp only
  repeat' split
  all_goals simp [hs]

@[simp] theorem undoAppend_wf (q r locker head kind : Nat) (old : Bytes) : MemWf (undoAppend s q r locker head kind old) := by
  simp [undoAppend, hs]

@[simp] theorem undoApply_wf (q : Nat) : MemWf (undoApply s q) :=
  memWf_of_eq (wr_mem _ _ _) (foldl_wf (fun _ _ hs => Memory.wf_writeByte _ _ (writeOther_wf hs _ _)) hs)

@[simp] theorem execUndoLogEnable_wf (fn q : Nat) (v : Word64) : NextWf (execUndoLogEnable fn q v s) := by
  simp [execUndoLogEnable, hs]

@[simp] theorem lockerWrite_wf (o : LockerOp) (a head kind newHead : Nat) (data : Bytes) :
    MemWf (lockerWrite s o a head kind newHead data) := by
  refine Memory.wf_writeByte _ _ (writeOther_wf ?_ _ _)
  split <;> simp [hs]

theorem lockerEffect_wf {t : State} {o : LockerOp} (h : lockerEffect s o = some t) : MemWf t := by
  unfold lockerEffect at h
  dsimp only at h
  split at h
  · cases h; simp [hs]
  · split at h <;> cases h; simp [hs]
  · split at h
    · cases h
    · split at h
      · split at h <;> cases h <;> simp [hs]
      · cases h; simp [hs]

theorem lockerEffect_getD_wf {u : State} (hu : MemWf u) (o : LockerOp) : MemWf ((lockerEffect s o).getD u) := by
  cases h : lockerEffect s o with
  | none => exact hu
  | some t => exact lockerEffect_wf hs h

@[simp] theorem execLockerOpDone_wf (hub : Nat) : NextWf (execLockerOpDone hub s) := by
  unfold execLockerOpDone
  dsimp only
  split
  · simp [hs]
  · split
    · next h => simp [lockerEffect_wf (by exact hs) h]
    · simp [hs]

/-! ### Operations of Machine/Audit -/

@[simp] theorem execLogHeadAdvance_wf (fn q : Nat) (v : Word64) : NextWf (execLogHeadAdvance fn q v s) := by
  simp [execLogHeadAdvance, hs]

@[simp] theorem execSignTimer_wf (q : Nat) : NextWf (execSignTimer q s) := by simp [execSignTimer, hs]
@[simp] theorem execAuditEnable_wf (fn q : Nat) (v : Word64) : NextWf (execAuditEnable fn q v s) := by simp [execAuditEnable, hs]

/-! ### Operations of Machine/Matrix -/

@[simp] theorem meErr_wf (t cause code acc pos : Nat) (ovf nonfin : Bool) : MemWf (meErr s t cause code acc pos ovf nonfin) := by
  simp [meErr, hs]

@[simp] theorem trayErr_wf (t cause code slot : Nat) : MemWf (trayErr s t cause code slot) := by simp [trayErr, hs]

@[simp] theorem opMma_wf (o : MeOp) : NextWf (opMma o s) := by
  unfold opMma
  refine issueOp_nextWf hs fun s hs => nextWf_pick ((nextWf_next _).2 (meErr_wf hs ..)) <|
    nextWf_pick ((nextWf_next _).2 (progErr_wf hs ..)) <| nextWf_pick ((nextWf_next _).2 (meErr_wf hs ..)) <|
    nextWf_pick ((nextWf_next _).2 (meErr_wf hs ..)) <| nextWf_pick ((nextWf_next _).2 (trayErr_wf hs ..)) ?_
  extract_lets s1 vec mask gated groups ng acts img prods mark finish a defined old res l s2
  have h1 : MemWf s1 := memWf_of_eq (findUpsets_mem _ _) hs
  have h2 : MemWf s2 := memWf_of_eq (looseExam_mem _ _ _) h1
  have hf : ∀ a l n, (finish a l n).mem = a.mem := fun a l n => by simp [finish]
  clear_value finish
  refine nextWf_pick ?_ ?_
  · split
    · simp [h1]
    · refine nextWf_pick ?_ ?_ <;> simp [hf, h1, h2]
  · simp [hf, h1]

@[simp] theorem opWload_wf (o : MeOp) : NextWf (opWload o s) :=
  issueOp_nextWf hs fun s hs => by
    repeat' split
    all_goals simp [hs]

@[simp] theorem opEmit_wf (o : MeOp) : NextWf (opEmit o s) :=
  issueOp_nextWf hs fun s hs => by
    repeat' split
    all_goals simp [hs]

@[simp] theorem opAzero_wf (o : MeOp) : NextWf (opAzero o s) :=
  issueOp_nextWf hs fun _ hs => nextWf_pick ((nextWf_next _).2 (meErr_wf hs ..)) <|
    (nextWf_next _).2 <| memWf_of_eq (modTile_mem _ _ _) <| (nextWf_next _).1 <|
      nextWf_pick ((nextWf_next _).2 (memWf_of_eq (putExam_mem _ _ _ _) hs))
        ((nextWf_next _).2 (memWf_of_eq (putOpen_mem _ _ _ _) hs))

@[simp] theorem opAnchor_wf (o : MeOp) : NextWf (opAnchor o s) :=
  issueOp_nextWf hs fun _ hs => nextWf_pick ((nextWf_next _).2 (meErr_wf hs ..)) <|
    (nextWf_next _).2 <| memWf_of_eq ((modTile_mem _ _ _).trans (putExam_mem _ _ _ _)) hs

/-! ### Operations of Machine/Vector -/

@[simp] theorem veErr_wf (t cause code chain : Nat) : MemWf (veErr s t cause code chain) := by simp [veErr, hs]

@[simp] theorem opVchain_wf (t : Nat) (chain : BitVec 8) (src : BitVec 2) (sdesc : BitVec 6) (soff : BitVec 10)
    (ddesc : BitVec 6) (doff : BitVec 10) : NextWf (opVchain t chain src sdesc soff ddesc doff s) := by
  unfold opVchain
  extract_lets x tick bad tray sa da head
  split
  · exact issueOp_nextWf hs fun s hs => by simp [hs]
  · refine issueOp_nextWf hs fun s hs => ?_
    extract_lets s1
    have h1 : MemWf s1 := by simp [s1, hs]
    clear_value head
    refine nextWf_pick (by simp [hs]) (nextWf_pick (by simp [hs]) (nextWf_pick (by simp [hs]) ?_))
    split
    extract_lets row s2 s3
    have h3 : MemWf s3 := by simp [s3, s2, h1]
    cases head with
    | some e => exact nextWf_pick (by simp [h3]) (by simp [h3])
    | none => simp [h3]

@[simp] theorem opVpop_wf (t : Nat) : NextWf (opVpop t s) := issueOp_nextWf hs fun s hs => by split <;> simp [hs]

@[simp] theorem opVldk_wf (t : Nat) (k : BitVec 4) (sdesc : BitVec 6) (soff : BitVec 10) : NextWf (opVldk t k sdesc soff s) :=
  issueOp_nextWf hs fun s hs => by
    repeat' split
    all_goals simp [hs]

/-! ### Operations of Machine/Bundle -/

theorem aidOps_wf : ∀ p ∈ aidOps, ∀ a, NextWf (p.2.2 a s) := by
  simp [aidOps, opAdd, opSub, opAnd, opOr, opXor, opAddi, opAndi, opOri, opXori, opLih, opMin, opMax, opMinu, opMaxu,
    opAidx, opMul, opMulhu, opMulhs, opClmul, opMuli, opSll, opSrl, opSra, opRotr, opSel, opSlt, opSltu, opExt, opLd8,
    opLd16, opLd32, opLd64, opLd8s, opLd16s, opLd32s, opSt8, opSt16, opSt32, opSt64, opGld32, opGld64, opGst32, opGst64,
    opLkfetch, opLkstore, opLkappend, opDecf, opDeca, opHash, opPeq, opPne, opPlt, opPltu, opPge, opPgeu, opPeqi,
    opPlti, opPand, opPor, opPxor, opPany, opPall, hs]

theorem seqOp_wf (t v : Nat) : NextWf ((seqOp t v).run s) := by
  unfold seqOp
  split <;> simp [nopOp, hs]

theorem meOp_wf (t v : Nat) : NextWf ((meOp t v).run s) := by
  unfold meOp
  dsimp only
  split <;> simp [nopOp, hs]

theorem veOp_wf (t v : Nat) : NextWf ((veOp t v).run s) := by
  unfold veOp
  split <;> simp [nopOp, hs]

theorem aidOp_wf (t v : Nat) : NextWf ((aidOp t v).run s) := by
  unfold aidOp
  split
  next h => exact aidOps_wf hs _ (List.mem_of_find?_eq_some h) _
  next => simp [nopOp, hs]

theorem xferOp_wf (t v : Nat) : NextWf ((xferOp t v).run s) := by
  unfold xferOp
  split <;> simp [nopOp, hs]

theorem chnOp_wf (t v : Nat) : NextWf ((chnOp t v).run s) := by
  unfold chnOp
  split <;> simp [nopOp, hs]

theorem bundleOps_wf (t w : Nat) : ∀ o ∈ bundleOps t w, NextWf (o.run s) := by
  simp [bundleOps, seqOp_wf, meOp_wf, veOp_wf, aidOp_wf, xferOp_wf, chnOp_wf, hs]

theorem issueBundle_wf {t : Nat} {o : SlotOp} (h : ∀ s, MemWf s → NextWf (o.run s)) : NextWf (issueBundle t o s) := by
  unfold issueBundle
  dsimp only
  split
  · exact h s hs
  · split
    · simp [hs]
    · split
      · exact h s hs
      · split
        · simp [hs]
        · split
          next hp =>
            obtain ⟨o', ho', rfl⟩ := List.mem_map.1 (List.mem_of_find?_eq_some hp)
            exact bundleOps_wf hs _ _ o' ho'
          next => exact h _ hs

/-! ### Operations of Machine/Flags -/

@[simp] theorem execIrqRearm_wf (fn : Nat) (v : Word64) : NextWf (execIrqRearm fn v s) := by simp [execIrqRearm, hs]
@[simp] theorem execVfRearm_wf (fn : Nat) : NextWf (execVfRearm fn s) := by simp [execVfRearm, hs]
@[simp] theorem execMsixSend_wf (fn : Nat) : NextWf (execMsixSend fn s) := by simp [execMsixSend, hs]

@[simp] theorem execMsixConfigWrite_wf (fn : Nat) (c : MsixCfg) : NextWf (execMsixConfigWrite fn c s) := by
  simp [execMsixConfigWrite, hs]

@[simp] theorem execPowerStateChange_wf (fn : Nat) (d3 : Bool) : NextWf (execPowerStateChange fn d3 s) := by
  simp [execPowerStateChange, hs]

/-! ### Operations of Machine/Queues -/

@[simp] theorem execDescriptorFetch_wf (sq : Nat) (bytes : Bytes) : NextWf (execDescriptorFetch sq bytes s) := by
  simp [execDescriptorFetch, hs]

@[simp] theorem execHqSqDb_wf (fn q : Nat) (v : Word64) : NextWf (execHqSqDb fn q v s) := by simp [execHqSqDb, hs]
@[simp] theorem execHqCqDb_wf (fn q : Nat) (v : Word64) : NextWf (execHqCqDb fn q v s) := by simp [execHqCqDb, hs]

@[simp] theorem execQueueEnable_wf (fn off : Nat) (v : Word64) : NextWf (execQueueEnable fn off v s) := by
  unfold execQueueEnable
  dsimp only
  repeat' split
  all_goals simp [hs]

@[simp] theorem execQueueDisable_wf (fn off : Nat) (v : Word64) : NextWf (execQueueDisable fn off v s) := by
  unfold execQueueDisable
  dsimp only
  repeat' split
  all_goals simp [hs]

/-! ### Operations of Machine/Net -/

@[simp] theorem execAssocWrite_wf (fn a : Nat) (v : Word64) : NextWf (execAssocWrite fn a v s) := by simp [execAssocWrite, hs]

@[simp] theorem execFrameReceive_wf (port sub : Nat) (frame : Bytes) (fecCorrected fecUncorrected : Nat) :
    NextWf (execFrameReceive port sub frame fecCorrected fecUncorrected s) := by
  unfold execFrameReceive
  dsimp only
  repeat' split
  case h_1 ho => simp [openFrame_mem ho, hs]
  all_goals simp [hs]

@[simp] theorem execPtpMessage_wf (port sub : Nat) (k : PtpKind) : NextWf (execPtpMessage port sub k s) := by
  unfold execPtpMessage
  repeat' split
  all_goals simp [hs]

@[simp] theorem execLinkDown_wf (port sub : Nat) : NextWf (execLinkDown port sub s) := by simp [execLinkDown, hs]
@[simp] theorem execLinkUp_wf (port sub : Nat) : NextWf (execLinkUp port sub s) := by simp [execLinkUp, hs]

@[simp] theorem execMiobelHello_wf (assoc : Nat) (msg : Bytes) : NextWf (execMiobelHello assoc msg s) := by
  simp [execMiobelHello, hs]

/-! ### Operations of Machine/Ingest -/

@[simp] theorem execDeadlineBell_wf (req : Nat) : NextWf (execDeadlineBell req s) := by
  unfold execDeadlineBell
  split <;> simp [hs]

@[simp] theorem execCandidateDrop_wf (req : Nat) : NextWf (execCandidateDrop req s) := by
  unfold execCandidateDrop
  dsimp only
  repeat' split
  all_goals simp [hs]

@[simp] theorem execReq_wf (assoc : Nat) (msg : Bytes) : NextWf (execReq assoc msg s) := by
  unfold execReq
  extract_lets a seqn port sub stale newTop s1
  have h1 : MemWf s1 := memWf_of_eq (modAssoc_mem _ _ _) hs
  clear_value stale s1
  refine nextWf_pick (by simp [hs]) (nextWf_pick (by simp [hs]) (nextWf_pick (by simp [hs]) ?_))
  split
  · simp [h1]
  · dsimp only
    split
    · exact nextWf_pick (by simp [h1]) (by simp [h1])
    · simp [h1]
    · simp [h1]

@[simp] theorem writeCopy_wf (p : Period) (n close deferred : Nat) (placed : List Request) :
    MemWf (writeCopy s p n close deferred placed) := by
  unfold writeCopy
  dsimp only
  split
  · exact hs
  · split
    · exact hs
    · refine memWf_of_eq ((wrs_mem _ _).trans (modBinding_mem _ _ _)) ?_
      refine writeOther_wf (foldl_wf (fun s x hs => writeOther_wf hs _ _) ?_) _ _
      exact writeOther_wf (zeroSpan_wf hs _ _) _ _

@[simp] theorem seatNow_wf (p : Period) (n : Nat) : MemWf (seatNow s p n) := by simp [seatNow, hs]

@[simp] theorem execSeatPeriod_wf (q n : Nat) : NextWf (execSeatPeriod q n s) := by
  unfold execSeatPeriod
  repeat' split
  all_goals simp [hs]

@[simp] theorem execReplyScan_wf (q : Nat) : NextWf (execReplyScan q s) := by
  unfold execReplyScan
  dsimp only
  repeat' split
  all_goals simp [hs]

/-! ### Operations of Machine/Spu -/

@[simp] theorem execFillBell_wf (plan : Nat) : NextWf (execFillBell plan s) := by
  unfold execFillBell
  repeat' split
  all_goals simp [hs]

@[simp] theorem execRouteEntry_wf (t : Nat) : NextWf (execRouteEntry t s) := by
  unfold execRouteEntry
  split
  next i s' h =>
    have hm := takeItem_mem h
    dsimp only
    split
    · split <;> split <;> simp [hm, hs]
    · simp [hs]
  next => simp [hs]

@[simp] theorem execSpuFillDone_wf : NextWf (execSpuFillDone s) := by
  unfold execSpuFillDone
  split
  · simp [hs]
  · extract_lets s0
    split
    · exact (nextWf_next _).2 (memWf_of_eq (syncSpu_mem s0) hs)
    · extract_lets bins table size s1 s2 s3 s4 s5 drops s6 cin s7 s8 s9 s10
      have h0 : MemWf s0 := hs
      have h1 : MemWf s1 := writeOther_wf h0 _ _
      have h2 : MemWf s2 := writeOther_wf h1 _ _
      have h3 : MemWf s3 := memWf_of_eq (noteCarryIn_mem s2 _ _) h2
      have h5 : MemWf s5 := memWf_of_eq (foldl_mem _ _ _ fun s b => foldl_mem _ _ _ fun s o => carryOut_mem _ _ _ _ _ _) h3
      have h6 : MemWf s6 := by simp [s6, h5]
      have h7 : MemWf s7 := memWf_of_eq ((wrs_mem _ _).trans (bump_mem _ _ _)) h6
      have h8 : s8.mem = s7.mem := by
        unfold s8
        split
        · split <;> simp
        · rfl
      have h9 : s9.mem = s8.mem := modPlan_mem _ _ _
      exact (nextWf_next _).2 (memWf_of_eq (by rw [syncSpu_mem, sendItem_mem, h9, h8]) h7)

/-! ### Operations of Machine/Grading -/

@[simp] theorem execGrdArm_wf (fn : Nat) (v : Word64) : NextWf (execGrdArm fn v s) := by
  unfold execGrdArm
  dsimp only
  repeat' split
  all_goals simp [hs]

@[simp] theorem execGrdDisarm_wf (fn : Nat) (v : Word64) : NextWf (execGrdDisarm fn v s) := by simp [execGrdDisarm, hs]

@[simp] theorem openLayer_wf (x : Job) (l : Nat) : MemWf (openLayer s x l) := by
  unfold openLayer
  dsimp only
  repeat' split
  all_goals simp [hs]

@[simp] theorem postBad_wf (x : Job) (l k : Nat) : MemWf (postBad s x l k) := by
  unfold postBad
  dsimp only
  repeat' split
  all_goals simp [hs]

@[simp] theorem takePost_wf (x : Job) (k : Nat) (b : Bytes) (addr n : Nat) : MemWf (takePost s x k b addr n) := by
  simp [takePost, hs]

@[simp] theorem readRank_wf (n : Nat) (x : Job) (k : Nat) : MemWf (readRank n s x k) := by
  induction n generalizing s with
  | zero => exact hs
  | succ n ih =>
    unfold readRank
    dsimp only
    split
    · exact hs
    · split
      · exact hs
      · split
        · exact hs
        · exact ih (takePost_wf hs _ _ _ _ _)

@[simp] theorem readPosts_wf (x : Job) : MemWf (readPosts s x) := foldl_wf (fun _ k hs => readRank_wf hs _ x k) hs

@[simp] theorem areaWrite_wf (x : Job) (d : Bytes) (region off i n : Nat) (b : Bytes) :
    MemWf (areaWrite s x d region off i n b) := by
  simp [areaWrite, hs]

@[simp] theorem putWeight_wf (x : Job) (d : Bytes) (i w : Nat) : MemWf (putWeight s x d i w) := by simp [putWeight, hs]
@[simp] theorem applyElem_wf (x : Job) (l i g : Nat) : MemWf (applyElem s x l i g) := by simp [applyElem, hs]

@[simp] theorem applySegment_wf (x : Job) (l seg : Nat) (g : List Nat) (delivered : Bool) :
    MemWf (applySegment s x l seg g delivered) := by
  unfold applySegment
  extract_lets d base s1 s2 s3 s4
  have h2 : MemWf s2 := memWf_of_eq (modLayer_mem _ _ _) (by simp [s1, hs])
  have h4 : MemWf s4 := by
    unfold s4
    split <;> simp [s3, h2]
  split
  · simp [h2]
  · exact foldl_wf (fun s p hs => applyElem_wf hs x l _ _) h4

@[simp] theorem applyMissing_wf (x : Job) (l : Nat) : MemWf (applyMissing s x l) := by
  unfold applyMissing
  dsimp only
  split
  · exact hs
  · exact foldl_wf (fun s k hs => applySegment_wf hs x l k _ _) hs

@[simp] theorem phaseTwo_wf (x : Job) (l : Nat) : MemWf (phaseTwo s x l) := by
  unfold phaseTwo
  dsimp only
  split
  · exact hs
  · exact foldl_wf (fun s i hs => putWeight_wf (memWf_of_eq (readElem_mem _ _ _ _ _) hs) _ _ _ _) hs

@[simp] theorem freeSpan_wf (a n : Nat) : MemWf (freeSpan s a n) := by simp [freeSpan, hs]

@[simp] theorem freeArea_wf (x : Job) (d : Bytes) (region off n : Nat) : MemWf (freeArea s x d region off n) := by
  simp [freeArea, hs]

@[simp] theorem freeLayer_wf (x : Job) (d : Bytes) : MemWf (freeLayer s x d) := by
  unfold freeLayer
  extract_lets n s1
  have h1 : MemWf s1 := freeArea_wf (freeArea_wf (freeArea_wf hs ..) ..) ..
  split
  · exact hs
  · split
    · exact h1
    · exact freeArea_wf h1 ..

@[simp] theorem faultLayer_wf (x : Job) (y : GrdLayer) : MemWf (faultLayer s x y) := by simp [faultLayer, hs]

@[simp] theorem grdAbort_wf (j : Nat) : MemWf (grdAbort s j) := by
  unfold grdAbort
  split
  · exact hs
  · split
    · exact hs
    · extract_lets bad s1 s2 notes s3 s4
      have h1 : MemWf s1 := foldl_wf (fun s y hs => faultLayer_wf hs _ y) hs
      have h2 : MemWf s2 := foldl_wf (fun s k hs => foldl_wf (fun s i hs => writeOther_wf hs _ _) hs) h1
      have h4 : MemWf s4 := memWf_of_eq ((wr_mem _ _ _).trans (dropColl_mem _)) h2
      split
      · exact h4
      · exact memWf_of_eq (grdDisarm_mem _) h4

/-! ### Operations of Machine/Runs -/

@[simp] theorem execTileComplete_wf (t : Nat) : NextWf (execTileComplete t s) := by
  unfold execTileComplete
  split
  · simp [hs]
  · refine nextWf_pick (by simp [hs]) ?_
    extract_lets last s1 s2 s3 s4 s5
    have h1 : MemWf s1 := memWf_of_eq (settleBy_mem _ _ _) (setTick_wf (flushMicros_wf hs _) _ _)
    have h4 : MemWf s4 := memWf_of_eq (by rw [modRun_mem, modTile_mem, gatherTile_mem, closeQueues_mem]) h1
    have h5 : MemWf s5 := memWf_of_eq (modRun_mem _ _ _) h4
    split
    · exact (nextWf_next _).2 h4
    · split
      · exact (nextWf_next _).2 h4
      · refine nextWf_pick ((nextWf_next _).2 h4) (nextWf_pick (nextWf_pick ?_ ?_) ?_) <;> simp [h5]

@[simp] theorem execTaskStart_wf (run task : Nat) : NextWf (execTaskStart run task s) := by
  unfold execTaskStart
  repeat' split
  all_goals simp [hs]

@[simp] theorem execKickoff_wf (run : Nat) : NextWf (execKickoff run s) := by
  unfold execKickoff
  repeat' split
  all_goals simp [hs]

@[simp] theorem cutPiece_wf (t : Nat) (f : Transfer) (k : Nat) : MemWf (cutPiece s t f k) := by simp [cutPiece, hs]

@[simp] theorem cutXfers_wf (t : Nat) : MemWf (cutXfers s t) :=
  memWf_of_eq ((syncLpass_mem _ _).trans (modTile_mem _ _ _))
    (foldl_wf (fun _ f hs => foldl_wf (fun _ k hs => cutPiece_wf hs t f k) hs) hs)

@[simp] theorem abortRun_wf (r : Nat) : MemWf (abortRun s r) := by
  unfold abortRun
  split
  · exact hs
  · refine grdAbort_wf (memWf_of_eq ((discardJobCarry_mem _ _).trans (modRun_mem _ _ _)) (foldl_wf ?_ hs)) _
    intro s t hs
    extract_lets mine s1 s2 s3 s4
    have h1 : MemWf s1 := by simp [s1, hs]
    have h3 : MemWf s3 := by simp [s3, s2, h1]
    exact memWf_of_eq (modTile_mem _ _ _) (cutXfers_wf (memWf_of_eq (closeQueues_mem _ _) h3) t)

@[simp] theorem overrun_wf (r : Nat) (x : Run) : MemWf (overrun s r x) := by simp [overrun, hs]

@[simp] theorem execJobStop_wf (job : Nat) : NextWf (execJobStop job s) := by
  unfold execJobStop
  dsimp only
  repeat' split
  all_goals simp [hs]

/-! ### Operations of Machine/Posts -/

@[simp] theorem serveRings_wf : MemWf (serveRings s) := by
  unfold serveRings
  split <;> simp [hs]

@[simp] theorem execPostRead_wf : NextWf (execPostRead s) := by
  unfold execPostRead
  repeat' split
  all_goals simp [hs]

@[simp] theorem execSegmentApply_wf (layer seg : Nat) : NextWf (execSegmentApply layer seg s) := by
  unfold execSegmentApply
  repeat' split
  all_goals simp [hs]

@[simp] theorem execTrustPhaseTwo_wf (layer : Nat) : NextWf (execTrustPhaseTwo layer s) := by
  unfold execTrustPhaseTwo
  dsimp only
  split
  · simp [hs]
  · refine nextWf_pick (by simp [hs]) ((nextWf_next _).2 (memWf_of_eq (modLayer_mem _ _ _) (phaseTwo_wf ?_ _ _)))
    exact writeOther_wf (applyMissing_wf hs _ _) _ _

@[simp] theorem closeWrites_wf (x : Job) (y : GrdLayer) : MemWf (closeWrites s x y) := by simp [closeWrites, hs]

@[simp] theorem execLayerClose_wf (layer : Nat) : NextWf (execLayerClose layer s) := by
  unfold execLayerClose
  extract_lets y
  split
  · simp [hs]
  · refine nextWf_pick (by simp [hs]) ?_
    extract_lets s1 grd s2 s3
    have h1 : MemWf s1 := closeWrites_wf (by split <;> simp [hs]) _ _
    have h3 : MemWf s3 := memWf_of_eq (by rw [wrs_mem, bump_mem, syncOpen_mem]) h1
    exact (nextWf_next _).2 (serveRings_wf (by simp [h3]))

@[simp] theorem execSetStep_wf (sq : Nat) : NextWf (execSetStep sq s) := by
  unfold execSetStep
  dsimp only
  repeat' split
  all_goals simp [hs]

/-! ### Operations of Machine/Reliability -/

@[simp] theorem execHardwareFault_wf (code tile idx : Nat) : NextWf (execHardwareFault code tile idx s) := by
  simp [execHardwareFault, hs]

@[simp] theorem execTimingMarginFault_wf (t : Nat) : NextWf (execTimingMarginFault t s) := by simp [execTimingMarginFault, hs]
@[simp] theorem execXovr_wf (t link : Nat) (overrun : Bool) : NextWf (execXovr t link overrun s) := by simp [execXovr, hs]
@[simp] theorem execRefreshLate_wf (t rowGroup : Nat) : NextWf (execRefreshLate t rowGroup s) := by simp [execRefreshLate, hs]

@[simp] theorem execControllerRefresh_wf (t rowGroup : Nat) : NextWf (execControllerRefresh t rowGroup s) := by
  simp [execControllerRefresh, hs]

@[simp] theorem execPatrolScrub_wf (addr : Nat) (uncorrectable deviceLost passEnd : Bool) :
    NextWf (execPatrolScrub addr uncorrectable deviceLost passEnd s) := by
  simp [execPatrolScrub, hs]

@[simp] theorem execAutoSubstitute_wf (t kind idx : Nat) : NextWf (execAutoSubstitute t kind idx s) := by
  unfold execAutoSubstitute
  repeat' split
  all_goals simp [hs]

@[simp] theorem execUnitReplaceDone_wf (t : Nat) : NextWf (execUnitReplaceDone t s) := by
  unfold execUnitReplaceDone
  dsimp only
  repeat' split
  all_goals simp [hs]

@[simp] theorem execSiteCopyStart_wf (t : Nat) : NextWf (execSiteCopyStart t s) := by
  unfold execSiteCopyStart
  repeat' split
  all_goals simp [hs]

@[simp] theorem freeScratch_wf (t : Nat) : MemWf (freeScratch s t) := freeSpan_wf (freeSpan_wf (freeSpan_wf hs _ _) _ _) _ _

@[simp] theorem execSiteCopyDone_wf (t : Nat) : NextWf (execSiteCopyDone t s) := by
  unfold execSiteCopyDone
  split
  · simp [hs]
  · extract_lets old time s1 s2 s3
    have h2 : MemWf s2 := memWf_of_eq (by rw [newSiteTim_mem, newSiteRegs_mem, wrs_mem]) hs
    have h3 : MemWf s3 := by simp [s3, h2]
    exact (nextWf_next _).2 (memWf_of_eq (by rw [pumpAll_mem, complete_mem, raise_mem]) h3)

@[simp] theorem execStackCopyDone_wf (poisoned : Nat) : NextWf (execStackCopyDone poisoned s) := by
  unfold execStackCopyDone
  split
  · simp [hs]
  · exact (nextWf_next _).2 (memWf_of_eq (by rw [pumpAll_mem, complete_mem, evalFailed_mem, raise_mem, wrs_mem]) hs)

@[simp] theorem execSubstitute_wf (sq : Nat) (imageDigest : Bytes) : NextWf (execSubstitute sq imageDigest s) := by
  unfold execSubstitute
  dsimp only
  repeat' split
  all_goals simp [hs]

@[simp] theorem execScrub_wf (sq : Nat) : NextWf (execScrub sq s) := by
  unfold execScrub
  dsimp only
  repeat' split
  all_goals simp [hs]

@[simp] theorem execSiteTestDone_wf (sq : Nat) (fault : Option (Nat × Nat)) : NextWf (execSiteTestDone sq fault s) := by
  unfold execSiteTestDone
  dsimp only
  repeat' split
  all_goals simp [hs]

@[simp] theorem execMemoryScrubDone_wf (sq uncorrectable : Nat) : NextWf (execMemoryScrubDone sq uncorrectable s) := by
  unfold execMemoryScrubDone
  split <;> simp [hs]

@[simp] theorem execWearSample_wf (sites : List SiteWear) (stackRates linkMargins : List (Nat × Nat)) :
    NextWf (execWearSample sites stackRates linkMargins s) := by
  simp [execWearSample, hs]

@[simp] theorem execMapCommit_wf (fn : Nat) : NextWf (execMapCommit fn s) := by simp [execMapCommit, hs]

/-! ### Operations of Machine/Jobs -/

@[simp] theorem execStartBell_wf (q : Nat) : NextWf (execStartBell q s) := by
  unfold execStartBell
  dsimp only
  repeat' split
  all_goals simp [hs]

@[simp] theorem execMarkBell_wf (q m : Nat) : NextWf (execMarkBell q m s) := by
  unfold execMarkBell
  repeat' split
  all_goals simp [hs]

@[simp] theorem execBellAct_wf (q m : Nat) : NextWf (execBellAct q m s) := by
  unfold execBellAct
  split
  · simp [hs]
  · split
    · simp [hs]
    · refine nextWf_pick (by simp [hs]) (nextWf_pick (by simp [hs]) ((nextWf_next _).2 (foldl_wf (fun s t hs => ?_) ?_)))
      · exact endWait_wf hs _ _ _
      · exact memWf_of_eq (setPeriod_mem _ _ _) hs

@[simp] theorem execStartTodBell_wf (run : Nat) : NextWf (execStartTodBell run s) := by
  unfold execStartTodBell
  repeat' split
  all_goals simp [hs]

@[simp] theorem execRunGraph_wf (sq : Nat) : NextWf (execRunGraph sq s) := by
  unfold execRunGraph
  repeat' split
  all_goals simp [hs]

@[simp] theorem execBindPeriod_wf (sq : Nat) : NextWf (execBindPeriod sq s) := by
  unfold execBindPeriod
  repeat' split
  all_goals simp [hs]

@[simp] theorem execUnbindPeriod_wf (sq : Nat) : NextWf (execUnbindPeriod sq s) := by
  unfold execUnbindPeriod
  repeat' split
  all_goals simp [hs]

@[simp] theorem execSetFallback_wf (sq : Nat) : NextWf (execSetFallback sq s) := by
  unfold execSetFallback
  repeat' split
  all_goals simp [hs]

@[simp] theorem removeJob_wf (j : Nat) (x : Job) : MemWf (removeJob s j x) := by
  unfold removeJob
  extract_lets s1 s2 s3 s4
  have h2 : MemWf s2 := foldl_wf (fun s g hs => zeroSpan_wf hs _ _) hs
  have h3 : s3.mem = s2.mem := by rw [freeCounters_mem, unbindPlans_mem, grdDisarmJob_mem]
  exact memWf_of_eq ((foldl_mem _ _ _ fun s t => wrs_mem _ _).trans h3) h2

@[simp] theorem finishUnload_wf (j : Nat) : MemWf (finishUnload s j) := by
  unfold finishUnload
  repeat' split
  all_goals simp [hs]

@[simp] theorem forceUnload_wf (j : Nat) : MemWf (forceUnload s j) := by
  unfold forceUnload
  dsimp only
  repeat' split
  all_goals simp [hs]

@[simp] theorem execUnload_wf (sq : Nat) : NextWf (execUnload sq s) := by
  unfold execUnload
  repeat' split
  all_goals simp [hs]

@[simp] theorem execRunAbortComplete_wf (run : Nat) : NextWf (execRunAbortComplete run s) := by
  unfold execRunAbortComplete
  dsimp only
  repeat' split
  all_goals simp [hs]

@[simp] theorem execRetakePrepare_wf (run : Nat) : NextWf (execRetakePrepare run s) := by
  unfold execRetakePrepare
  split
  · simp [hs]
  · refine nextWf_pick (by simp [hs]) ?_
    extract_lets q s1 s2 s3 time s4 s5 s6 s7
    have h2 : MemWf s2 := memWf_of_eq (by rw [formRecord_mem, modRun_mem, endLines_mem]) hs
    have h3 : MemWf s3 := by simp [s3, h2]
    have h6 : MemWf s6 := by simp [s6, s5, s4, h3]
    have h7 : s7.mem = s6.mem := by
      unfold s7
      split <;> simp
    exact (nextWf_next _).2 (memWf_of_eq ((modRun_mem _ _ _).trans h7) h6)

@[simp] theorem execFabricDiscard_wf (item : Nat) : NextWf (execFabricDiscard item s) := by
  unfold execFabricDiscard
  dsimp only
  split
  · simp [hs]
  · split
    · simp [hs]
    · split
      · split <;> simp [hs]
      · simp [hs]

/-! ### Operations of Machine/Coll -/

@[simp] theorem execAckTimer_wf (assoc : Nat) : NextWf (execAckTimer assoc s) := by simp [execAckTimer, hs]
@[simp] theorem execAck_wf (assoc : Nat) (msg : Bytes) : NextWf (execAck assoc msg s) := by simp [execAck, hs]

@[simp] theorem execCollRetransmit_wf (assoc seq : Nat) : NextWf (execCollRetransmit assoc seq s) := by
  unfold execCollRetransmit
  dsimp only
  repeat' split
  all_goals simp [hs]

@[simp] theorem execColl_wf (assoc : Nat) (msg : Bytes) : NextWf (execColl assoc msg s) := by
  unfold execColl
  extract_lets port seqn seg x seen
  clear_value seqn seg seen
  refine nextWf_pick (by simp [hs]) (nextWf_pick (by simp [hs]) ?_)
  split
  · exact nextWf_pick (by simp [hs]) (nextWf_pick (by simp [hs]) (nextWf_pick (by simp [hs]) (by simp [hs])))
  · simp [hs]

/-! ### Operations of Machine/Time -/

@[simp] theorem execTimTodSet_wf (fn : Nat) (v : Word64) : NextWf (execTimTodSet fn v s) := by simp [execTimTodSet, hs]

@[simp] theorem execTimAdjPhase_wf (fn : Nat) (phase : BitVec 32) (mark : Bool) : NextWf (execTimAdjPhase fn phase mark s) := by
  simp [execTimAdjPhase, hs]

@[simp] theorem execTimAdjRate_wf (fn : Nat) (rate : BitVec 24) (mark : Bool) : NextWf (execTimAdjRate fn rate mark s) := by
  simp [execTimAdjRate, hs]

@[simp] theorem execTimeSourceConfig_wf (fn : Nat) (v : Word64) : NextWf (execTimeSourceConfig fn v s) := by
  unfold execTimeSourceConfig
  refine nextWf_pick (by simp [hs]) ?_
  extract_lets n was p q moved s1 s2 s3 s4 s5 s6
  have h3 : s3.mem = s.mem := by simp [s3, s2, s1]
  have h4 : s4.mem = s.mem := by simp [s4, h3]
  have h5 : s5.mem = s4.mem := by
    unfold s5
    split
    · split <;> simp
    · rfl
  have h6 : MemWf s6 := memWf_of_eq (by simp [s6, h5, h4]) hs
  refine (nextWf_next _).2 (memWf_of_eq (timeSync_mem _) ?_)
  split <;> simp [h6]

@[simp] theorem execSlewComplete_wf : NextWf (execSlewComplete s) := by simp [execSlewComplete, hs]
@[simp] theorem execRefLost_wf : NextWf (execRefLost s) := by simp [execRefLost, hs]
@[simp] theorem execRefRestored_wf : NextWf (execRefRestored s) := by simp [execRefRestored, hs]

@[simp] theorem execPpsEdge_wf (falling : Bool) (widthNs : Nat) : NextWf (execPpsEdge falling widthNs s) := by
  unfold execPpsEdge
  repeat' split
  all_goals simp [hs]

@[simp] theorem execPpsHoldover_wf : NextWf (execPpsHoldover s) := by
  unfold execPpsHoldover
  repeat' split
  all_goals simp [hs]

@[simp] theorem execPtpLost_wf : NextWf (execPtpLost s) := by
  unfold execPtpLost
  repeat' split
  all_goals simp [hs]

@[simp] theorem execPpsMissing_wf : NextWf (execPpsMissing s) := by
  unfold execPpsMissing
  dsimp only
  repeat' split
  all_goals simp [hs]

@[simp] theorem execPpsOutAssert_wf : NextWf (execPpsOutAssert s) := by simp [execPpsOutAssert, hs]
@[simp] theorem execPpsOutRelease_wf : NextWf (execPpsOutRelease s) := by simp [execPpsOutRelease, hs]

@[simp] theorem execFreqTargetWrite_wf (fn : Nat) (target : BitVec 2) : NextWf (execFreqTargetWrite fn target s) := by
  simp [execFreqTargetWrite, hs]

@[simp] theorem execPllRelock_wf : NextWf (execPllRelock s) := by simp [execPllRelock, hs]
@[simp] theorem execRelockDone_wf : NextWf (execRelockDone s) := by simp [execRelockDone, hs]

@[simp] theorem execRollCallDone_wf (offsets : List (Nat × Nat × Nat)) : NextWf (execRollCallDone offsets s) := by
  simp [execRollCallDone, hs]

@[simp] theorem execRollCallFail_wf (t link : Nat) : NextWf (execRollCallFail t link s) := by
  unfold execRollCallFail
  refine nextWf_pick (by simp [hs]) ?_
  extract_lets step r s1 s2 s3 s4
  have h3 : s3.mem = s.mem := by rw [modTime_mem, startGrid_mem, hwFaultOn_mem, raise_mem, noteXovr_mem]
  have h4 : MemWf s4 := by
    unfold s4
    split
    · exact memWf_of_eq ((wr_mem _ _ _).trans h3) hs
    · exact memWf_of_eq h3 hs
  clear_value s4 r
  split
  · split
    · exact nextWf_pick (by simp [h4]) (by simp [h4])
    · simp [h4]
  · simp [h4]

/-! ### Operations of Machine/Power -/

@[simp] theorem execDroopStretch_wf (t : Nat) : NextWf (execDroopStretch t s) := by
  unfold execDroopStretch
  extract_lets s1 s2
  have h2 : s2.mem = s.mem := by simp [s2, s1]
  refine nextWf_pick (by simp [hs]) (nextWf_pick ?_ (by simp [hs]))
  exact (nextWf_next _).2 (memWf_of_eq ((foldl_mem _ _ _ fun s l => by split <;> simp).trans h2) hs)

@[simp] theorem execWindowEnd_wf : NextWf (execWindowEnd s) := by
  unfold execWindowEnd
  dsimp only
  repeat' split
  all_goals simp [hs]

@[simp] theorem execPowerInterval_wf (base : Nat) (tiles : List TileTerm) (traffic : List (Nat × Nat)) (grading : Nat)
    (service : List (Nat × Nat)) : NextWf (execPowerInterval base tiles traffic grading service s) := by
  unfold execPowerInterval
  extract_lets s1 terms flow g share dead pwr s2 s3 total s4 pwr' s5
  have h2 : s2.mem = s.mem := saturate_mem s
  have h3 : s3.mem = s2.mem := foldl_mem _ _ _ fun s t => wr_mem _ _ _
  have h4 : s4.mem = s.mem := by rw [accountEnergy_mem, wr_mem, h3, h2]
  exact (nextWf_next _).2 (memWf_of_eq ((formCaps_mem _ _).trans ((coarsen_mem _).trans h4)) hs)

@[simp] theorem execInputSample_wf (watts : Nat) : NextWf (execInputSample watts s) := by simp [execInputSample, hs]

@[simp] theorem execCalibration_wf (measuredUj estimatedUj : Nat) : NextWf (execCalibration measuredUj estimatedUj s) := by
  simp [execCalibration, hs]

@[simp] theorem execTempSample_wf (readings : List TempReading) : NextWf (execTempSample readings s) := by
  simp [execTempSample, hs]

@[simp] theorem execThermStep_wf (die : Nat) : NextWf (execThermStep die s) := by
  unfold execThermStep
  repeat' split
  all_goals simp [hs]

/-! ### Operations of Machine/Doubles -/

@[simp] theorem execPairFrame_wf (link : Nat) (header sealed : Bytes) : NextWf (execPairFrame link header sealed s) := by
  unfold execPairFrame
  dsimp only
  repeat' split
  all_goals simp [hs]

@[simp] theorem execPairResend_wf (link seq : Nat) : NextWf (execPairResend link seq s) := by
  unfold execPairResend
  extract_lets p sent n
  clear_value sent n
  split
  · simp [hs]
  · exact nextWf_pick (by simp [hs]) ((nextWf_next _).2 (memWf_of_eq (bump_mem _ _ _) hs))

@[simp] theorem execPairHeartbeat_wf (link : Nat) : NextWf (execPairHeartbeat link s) := by simp [execPairHeartbeat, hs]
@[simp] theorem execPairDown_wf (link : Nat) : NextWf (execPairDown link s) := by simp [execPairDown, hs]
@[simp] theorem execPairUp_wf (link : Nat) : NextWf (execPairUp link s) := by simp [execPairUp, hs]

@[simp] theorem execDoublesEnable_wf (fn : Nat) (v : Word64) : NextWf (execDoublesEnable fn v s) := by
  simp [execDoublesEnable, hs]

@[simp] theorem execDoublesHelloTimer_wf : NextWf (execDoublesHelloTimer s) := by simp [execDoublesHelloTimer, hs]
@[simp] theorem execDoublesHello_wf (h : Hello) : NextWf (execDoublesHello h s) := by simp [execDoublesHello, hs]
@[simp] theorem execPairEstablish_wf : NextWf (execPairEstablish s) := by simp [execPairEstablish, hs]

@[simp] theorem buildSeats_wf (q n : Nat) (seats : List SeatRef) : MemWf (buildSeats s q n seats) := by
  unfold buildSeats
  dsimp only
  repeat' split
  all_goals simp [hs]

@[simp] theorem execSeating_wf (q n : Nat) (seats : List SeatRef) : NextWf (execSeating q n seats s) := by
  unfold execSeating
  dsimp only
  repeat' split
  all_goals simp [hs]

@[simp] theorem execReqFill_wf (seat : Nat) (body : Bytes) : NextWf (execReqFill seat body s) := by
  unfold execReqFill
  split <;> simp [hs]

@[simp] theorem execSeatLost_wf (q : Nat) : NextWf (execSeatLost q s) := by
  unfold execSeatLost
  dsimp only
  repeat' split
  all_goals simp [hs]

@[simp] theorem execResult_wf (run : RunName) (kind idx : Nat) (item : Bytes) : NextWf (execResult run kind idx item s) := by
  simp [execResult, hs]

@[simp] theorem execSent_wf (run : RunName) (kind idx status : Nat) (payload : Bytes) :
    NextWf (execSent run kind idx status payload s) := by
  simp [execSent, hs]

@[simp] theorem beginRetake_wf (r : Nat) (x : Run) (code : Nat) : MemWf (beginRetake s r x code) := by simp [beginRetake, hs]

@[simp] theorem refuseRetake_wf (r : Nat) (x : Run) (n : RunName) (code : Nat) : MemWf (refuseRetake s r x n code) := by
  simp [refuseRetake, hs]

@[simp] theorem execRetake_wf (run : RunName) (attempt fault : Nat) : NextWf (execRetake run attempt fault s) := by
  unfold execRetake
  repeat' split
  all_goals simp [hs]

@[simp] theorem disagree_wf (n : RunName) (first : Nat) : MemWf (disagree s n first) := by
  unfold disagree
  dsimp only
  repeat' split
  all_goals simp [hs]

@[simp] theorem judge_wf (n : RunName) (a b : RunDigests) : MemWf (judge s n a b) := by simp [judge, hs]

@[simp] theorem compareDigests_wf : MemWf (compareDigests s) := by
  unfold compareDigests
  repeat' split
  all_goals simp [hs]

@[simp] theorem execRunDigest_wf (run : RunName) (attempt : Nat) (d : RunDigests) : NextWf (execRunDigest run attempt d s) := by
  simp [execRunDigest, hs]

@[simp] theorem execRunRecord_wf (run : Nat) : NextWf (execRunRecord run s) := by simp [execRunRecord, hs]
@[simp] theorem execLeave_wf (reason : Nat) : NextWf (execLeave reason s) := by simp [execLeave, hs]

@[simp] theorem execSingles_wf : NextWf (execSingles s) := by
  unfold execSingles
  repeat' split
  all_goals simp [hs]

@[simp] theorem execDblResume_wf (fn : Nat) : NextWf (execDblResume fn s) := by simp [execDblResume, hs]
@[simp] theorem execDblKeep_wf (fn : Nat) : NextWf (execDblKeep fn s) := by simp [execDblKeep, hs]
@[simp] theorem execDblLeave_wf (fn : Nat) : NextWf (execDblLeave fn s) := by simp [execDblLeave, hs]

/-! ### Operations of Machine/Loader -/

@[simp] theorem writeClasses_wf (t w : Nat) : MemWf (writeClasses s t w) :=
  memWf_of_eq (wr_mem _ _ _) (foldl_wf (fun s p hs => by simp [hs]) hs)

@[simp] theorem bindTile_wf (m : Bytes) (bs : Bodies) (job k t : Nat) : MemWf (bindTile s m bs job k t) := by simp [bindTile, hs]

@[simp] theorem commitLoad_wf (m : Bytes) (bs : Bodies) (job q sq : Nat) (tiles : List Nat) (regions : List Region)
    (first : Nat) : MemWf (commitLoad s m bs job q sq tiles regions first) := by
  unfold commitLoad
  extract_lets j s1 s2
  have h1 : MemWf s1 := foldl_wf (fun s p hs => writeBytes_wf hs _ _) hs
  have h2 : MemWf s2 := foldl_wf (fun s p hs => bindTile_wf hs m bs job _ _) h1
  exact memWf_of_eq ((setJob_mem _ _ _).trans ((takeCounters_mem _ _ _ _).trans (writeQueues_mem _ _))) h2

theorem loadResult_wf {t : State} {d : Desc} {m : Bytes} {map : List Nat} (h : loadResult s d m map = .ok t) : MemWf t := by
  unfold loadResult at h
  dsimp only at h
  repeat' split at h
  all_goals cases h
  exact commitLoad_wf hs ..

@[simp] theorem execLoadImage_wf (sq : Nat) (image : Bytes) (tileMap : List Nat) : NextWf (execLoadImage sq image tileMap s) := by
  unfold execLoadImage
  split
  · simp [hs]
  · dsimp only
    split
    · simp [hs]
    · split
      · simp [hs]
      · next h => simp [loadResult_wf hs h]

/-! ### Operations of Machine/Security -/

@[simp] theorem zeroRegion_wf (d : Desc) : MemWf (zeroRegion s d) := by
  unfold zeroRegion
  split <;> simp [hs]

@[simp] theorem failStream_wf (d : Desc) (status detail : Nat) : MemWf (failStream s d status detail) := by simp [failStream, hs]

@[simp] theorem nextStream_wf (n : Nat) : MemWf (nextStream n s) := by
  induction n generalizing s with
  | zero => exact hs
  | succ k ih =>
    simp only [nextStream]
    repeat' split
    all_goals simp [ih, hs]

@[simp] theorem turnStreams_wf : MemWf (turnStreams s) := by simp [turnStreams, hs]

@[simp] theorem execUnseal_wf (sq : Nat) (blob : Bytes) (header : Bytes) : NextWf (execUnseal sq blob header s) := by
  unfold execUnseal
  dsimp only
  repeat' split
  all_goals simp [hs]

@[simp] theorem fillRegion_wf (d : Desc) (u : Unsealing) (g : Region) (plain : Bytes) : MemWf (fillRegion s d u g plain) := by
  unfold fillRegion
  dsimp only
  repeat' split
  all_goals simp [hs]

@[simp] theorem execUnsealComplete_wf (stream : Bytes) : NextWf (execUnsealComplete stream s) := by
  unfold execUnsealComplete
  repeat' split
  all_goals simp [hs]

@[simp] theorem execKeySlotClear_wf (fn : Nat) (v : Word64) : NextWf (execKeySlotClear fn v s) := by simp [execKeySlotClear, hs]
@[simp] theorem zeroMoved_wf (l : Store PartRes) : MemWf (zeroMoved s l) := by simp [zeroMoved, hs]
@[simp] theorem acceptCommit_wf : MemWf (acceptCommit s) := by simp [acceptCommit, hs]

@[simp] theorem execPartitionCommit_wf (fn : Nat) : NextWf (execPartitionCommit fn s) := by
  unfold execPartitionCommit
  repeat' split
  all_goals simp [hs]

@[simp] theorem execPartDone_wf : NextWf (execPartDone s) := by simp [execPartDone, hs]
@[simp] theorem execMsaInstall_wf (fn : Nat) (v : Word64) : NextWf (execMsaInstall fn v s) := by simp [execMsaInstall, hs]
@[simp] theorem execMsaDelete_wf (fn : Nat) (v : Word64) : NextWf (execMsaDelete fn v s) := by simp [execMsaDelete, hs]
@[simp] theorem execPairKeySet_wf (fn : Nat) : NextWf (execPairKeySet fn s) := by simp [execPairKeySet, hs]
@[simp] theorem execSvnRaise_wf (fn : Nat) (raiseTo : BitVec 8) : NextWf (execSvnRaise fn raiseTo s) := by simp [execSvnRaise, hs]

@[simp] theorem execSessionKeysReady_wf (sessionId : Bytes) : NextWf (execSessionKeysReady sessionId s) := by
  simp [execSessionKeysReady, hs]

theorem spdmServe_wf {k need : Nat} {f : State → State} (h : NextWf (.next (f s))) : NextWf (.next (spdmServe s k need f)) :=
  nextWf_pick (by simp [hs]) (nextWf_pick (by simp [hs]) h)

@[simp] theorem execGetVersion_wf (session : Nat) : NextWf (execGetVersion session s) := spdmServe_wf hs (by simp [hs])
@[simp] theorem execGetCapabilities_wf (session : Nat) : NextWf (execGetCapabilities session s) := spdmServe_wf hs (by simp [hs])

@[simp] theorem execNegotiateAlgorithms_wf (session : Nat) : NextWf (execNegotiateAlgorithms session s) :=
  spdmServe_wf hs (by simp [hs])

@[simp] theorem execGetDigests_wf (session : Nat) : NextWf (execGetDigests session s) := spdmServe_wf hs (by simp [hs])

@[simp] theorem execGetCertificate_wf (session slot offset len : Nat) :
    NextWf (execGetCertificate session slot offset len s) :=
  spdmServe_wf hs (nextWf_pick (by simp [hs]) (by simp [hs]))

@[simp] theorem execChallenge_wf (session slot : Nat) (nonce : Bytes) : NextWf (execChallenge session slot nonce s) :=
  spdmServe_wf hs (nextWf_pick (by simp [hs]) (by simp [hs]))

@[simp] theorem execGetMeasurements_wf (session idx : Nat) (sign : Bool) (nonce : Bytes) :
    NextWf (execGetMeasurements session idx sign nonce s) :=
  spdmServe_wf hs (nextWf_pick (by simp [hs]) (by
    split
    · simp [hs]
    · exact nextWf_pick (by simp [hs]) (by simp [hs])))

@[simp] theorem execKeyExchange_wf (session : Nat) (mcTp : Bool) (exchange : Bytes) :
    NextWf (execKeyExchange session mcTp exchange s) :=
  spdmServe_wf hs (nextWf_pick (by simp [hs]) (by simp [hs]))

@[simp] theorem execFinish_wf (session : Nat) (leafKeyHash : Bytes) (authOk : Bool) :
    NextWf (execFinish session leafKeyHash authOk s) :=
  spdmServe_wf hs (nextWf_pick (by simp [hs]) (nextWf_pick (by simp [hs]) (by simp [hs])))

@[simp] theorem execChunkSend_wf (session : Nat) (chunk : Bytes) (last : Bool) : NextWf (execChunkSend session chunk last s) :=
  spdmServe_wf hs (by simp [hs])

@[simp] theorem execChunkGet_wf (session idx : Nat) : NextWf (execChunkGet session idx s) :=
  spdmServe_wf hs (by
    split
    · simp [hs]
    · exact nextWf_pick (by simp [hs]) (by simp [hs]))

@[simp] theorem execPldmRequest_wf (session sensor : Nat) : NextWf (execPldmRequest session sensor s) := by
  unfold execPldmRequest
  repeat' split
  all_goals simp [hs]

/-! ### Operations of Machine/Reset -/

@[simp] theorem loseLayer_wf (x : Job) (y : GrdLayer) : MemWf (loseLayer s x y) := by simp [loseLayer, hs]

@[simp] theorem loseLayers_wf : MemWf (loseLayers s) := by
  unfold loseLayers
  split
  · split
    · exact foldl_wf (fun s y hs => loseLayer_wf hs _ y) hs
    · exact hs
  · exact hs

@[simp] theorem endLockers_wf : MemWf (endLockers s) :=
  foldl_wf (fun s p hs => by
    have h1 : MemWf (takeFree s 1) := memWf_of_eq (takeFree_mem s 1) hs
    split
    · exact hs
    · split
      · exact lockerEffect_getD_wf h1 hs _
      · exact h1) hs

@[simp] theorem bareDies_wf : MemWf (bareDies s) := by simp [bareDies, hs]

@[simp] theorem dieReset_wf (cause : Nat) : MemWf (dieReset s cause) := by
  have h1 : MemWf (bareDies (loseLayers (endLockers s))) := bareDies_wf (loseLayers_wf (endLockers_wf hs))
  simp [dieReset, h1, hs]

@[simp] theorem startDies_wf : MemWf (startDies s) := by simp [startDies, hs]
@[simp] theorem execPerstAssert_wf : NextWf (execPerstAssert s) := by simp [execPerstAssert, hs]
@[simp] theorem execPerstRelease_wf : NextWf (execPerstRelease s) := by simp [execPerstRelease, hs]
@[simp] theorem execResetPulseEnd_wf : NextWf (execResetPulseEnd s) := by simp [execResetPulseEnd, hs]
@[simp] theorem execDeferredPerstRelease_wf : NextWf (execDeferredPerstRelease s) := by simp [execDeferredPerstRelease, hs]
@[simp] theorem execHotReset_wf : NextWf (execHotReset s) := by simp [execHotReset, hs]
@[simp] theorem execPcieLinkDown_wf : NextWf (execPcieLinkDown s) := by simp [execPcieLinkDown, hs]
@[simp] theorem execPfFlr_wf : NextWf (execPfFlr s) := by simp [execPfFlr, hs]
@[simp] theorem execModuleReset_wf (fn : Nat) : NextWf (execModuleReset fn s) := by simp [execModuleReset, hs]

@[simp] theorem resetJob_wf (j : Nat) : MemWf (resetJob s j) := by
  unfold resetJob
  dsimp only
  repeat' split
  all_goals simp [hs]

@[simp] theorem execJobReset_wf (fn job : Nat) : NextWf (execJobReset fn job s) := by simp [execJobReset, hs]
@[simp] theorem drainLockers_wf (j : Nat) : MemWf (drainLockers s j) := foldl_wf (fun _ o hs => lockerEffect_getD_wf hs hs o) hs

@[simp] theorem endAborting_wf (j : Nat) : MemWf (endAborting s j) := by
  unfold endAborting
  split <;> simp [hs]

@[simp] theorem resetPart_wf (q : Nat) : MemWf (resetPart s q) := by
  unfold resetPart
  extract_lets js s1 s2 s3 s4 s5
  have h1 : MemWf s1 := foldl_wf (fun s j hs => endAborting_wf (resetJob_wf hs j) j) hs
  have h3 : MemWf s3 := foldl_wf (fun s j hs => by split <;> simp [hs]) (memWf_of_eq (dropQueues_mem _ _) h1)
  have h4 : s4.mem = s3.mem := by
    unfold s4
    split
    · exact (foldl_mem _ _ _ fun s c => wrs_mem _ _).trans (foldl_mem _ _ _ resetTile_mem)
    · rfl
  exact turnStreams_wf (memWf_of_eq (by rw [bump_mem, modFn_mem, h4]) h3)

@[simp] theorem execPartitionReset_wf (fn part : Nat) : NextWf (execPartitionReset fn part s) := by simp [execPartitionReset, hs]
@[simp] theorem execVfFlr_wf (q : Nat) : NextWf (execVfFlr q s) := by simp [execVfFlr, hs]
@[simp] theorem powerOff_wf : MemWf (powerOff s) := by simp [powerOff, hs]
@[simp] theorem execPowerUp_wf : NextWf (execPowerUp s) := by simp [execPowerUp, hs]
@[simp] theorem execPwrEnHoldEnd_wf : NextWf (execPwrEnHoldEnd s) := by simp [execPwrEnHoldEnd, hs]

@[simp] theorem execRailsGood_wf (dblId : Bool) (boardId : BitVec 4) : NextWf (execRailsGood dblId boardId s) := by
  simp [execRailsGood, hs]

@[simp] theorem execPowerDown_wf : NextWf (execPowerDown s) := by simp [execPowerDown, hs]
@[simp] theorem execVinLeaveWindow_wf : NextWf (execVinLeaveWindow s) := by simp [execVinLeaveWindow, hs]
@[simp] theorem execVinReturn_wf : NextWf (execVinReturn s) := by simp [execVinReturn, hs]
@[simp] theorem execDieTestDone_wf (r : DieTest) : NextWf (execDieTestDone r s) := by simp [execDieTestDone, hs]

@[simp] theorem execMemoryPrepDone_wf (ms : Nat) : NextWf (execMemoryPrepDone ms s) := by
  refine nextWf_pick (by simp [hs]) ((nextWf_next _).2 (memWf_of_eq ((wrs_mem _ _).trans (modBoot_mem _ _)) ?_))
  split
  · rfl
  · exact foldl_wf (fun s p hs => zeroSpan_wf hs _ _) hs

@[simp] theorem execFwLoad_wf (fn : Nat) : NextWf (execFwLoad fn s) := by simp [execFwLoad, hs]
@[simp] theorem execBusMasterEnable_wf : NextWf (execBusMasterEnable s) := by simp [execBusMasterEnable, hs]
@[simp] theorem execFwVerified_wf (image : Bytes) : NextWf (execFwVerified image s) := by simp [execFwVerified, hs]
@[simp] theorem execBootReady_wf : NextWf (execBootReady s) := by simp [execBootReady, hs]
@[simp] theorem execI3cEntry_wf : NextWf (execI3cEntry s) := by simp [execI3cEntry, hs]
@[simp] theorem execSmbusTimeout_wf : NextWf (execSmbusTimeout s) := by simp [execSmbusTimeout, hs]
@[simp] theorem execMctpTimeout_wf : NextWf (execMctpTimeout s) := by simp [execMctpTimeout, hs]

@[simp] theorem execHostReadTimeout_wf (sq off : Nat) : NextWf (execHostReadTimeout sq off s) := by
  unfold execHostReadTimeout
  dsimp only
  repeat' split
  all_goals simp [hs]

@[simp] theorem execLinkChange_wf (gen width : Nat) (flit reversed : Bool) :
    NextWf (execLinkChange gen width flit reversed s) := by
  simp [execLinkChange, hs]

@[simp] theorem execIdeFault_wf : NextWf (execIdeFault s) := by simp [execIdeFault, hs]

/-! ### Operations of Machine/Signing -/

@[simp] theorem execSignNow_wf (sq : Nat) : NextWf (execSignNow sq s) := by
  unfold execSignNow
  repeat' split
  all_goals simp [hs]

@[simp] theorem execSigWritten_wf (q : Nat) : NextWf (execSigWritten q s) := by
  unfold execSigWritten
  dsimp only
  repeat' split
  all_goals simp [hs]

/-! ### Operations of Machine/HostRegs -/

@[simp] theorem execCauseClear_wf (fn off : Nat) (v coincident : Word64) : NextWf (execCauseClear fn off v coincident s) := by
  simp [execCauseClear, hs]

@[simp] theorem execReadClear_wf (fn off : Nat) (hits amounts : Word64) : NextWf (execReadClear fn off hits amounts s) := by
  simp [execReadClear, hs]

@[simp] theorem execTimWindowRead_wf (fn : Nat) : NextWf (execTimWindowRead fn s) := by simp [execTimWindowRead, hs]

@[simp] theorem execBar0BadAccess_wf (fn off size : Nat) (write : Bool) : NextWf (execBar0BadAccess fn off size write s) := by
  simp [execBar0BadAccess, hs]

@[simp] theorem execBar2BadAccess_wf (fn off size : Nat) (write : Bool) : NextWf (execBar2BadAccess fn off size write s) := by
  simp [execBar2BadAccess, hs]

@[simp] theorem execBar4Access_wf (fn off : Nat) (op : Bar4Op) : NextWf (execBar4Access fn off op s) := by
  unfold execBar4Access
  dsimp only
  repeat' split
  all_goals simp [hs]

@[simp] theorem execBar4BaseWrite_wf (fn off : Nat) (v : Word64) : NextWf (execBar4BaseWrite fn off v s) := by
  simp [execBar4BaseWrite, hs]

@[simp] theorem writeResetCtl_wf (fn w : Nat) : NextWf (writeResetCtl fn w s) := by
  unfold writeResetCtl
  repeat' split
  all_goals simp [hs]

@[simp] theorem writeTimAdj_wf (fn w : Nat) : NextWf (writeTimAdj fn w s) := by
  unfold writeTimAdj
  dsimp only
  split
  · split
    · split
      next t h => exact execTimAdjRate_wf (execTimAdjPhase_wf hs _ _ _ t h) _ _ _
      next => exact execTimAdjPhase_wf hs _ _ _
    · simp [hs]
  · split <;> simp [hs]

@[simp] theorem writeMsaCtl_wf (fn : Nat) (v : Word64) : NextWf (writeMsaCtl fn v s) := by
  unfold writeMsaCtl
  repeat' split
  all_goals simp [hs]

@[simp] theorem writeDblCtl_wf (fn w : Nat) : NextWf (writeDblCtl fn w s) := by
  unfold writeDblCtl
  repeat' split
  all_goals simp [hs]

theorem actingWrite_wf (fn off : Nat) (v : Word64) : ∀ o, actingWrite fn off v s = some o → NextWf o := by
  unfold actingWrite
  extract_lets w
  iterate 23 refine ite_some_wf (by simp [hs]) ?_
  simp

@[simp] theorem execRegisterWrite_wf (fn off : Nat) (v : Word64) : NextWf (execRegisterWrite fn off v s) := by
  unfold execRegisterWrite
  split
  · simp [hs]
  · split
    next h => exact actingWrite_wf hs _ _ _ _ h
    next => exact nextWf_pick (by simp [hs]) (nextWf_pick (by simp [hs]) (by simp [hs]))

/-! ### Every command -/

theorem exec_wf (c : Instr) : NextWf (exec c s) := by
  have aid := fun s (hs : MemWf s) => aidOps_wf hs
  simp only [aidOps, List.forall_mem_append, List.forall_mem_cons] at aid
  cases c
  case add | sub | and | or | xor | addi | andi | ori | xori | lih | min | max | minu | maxu | aidx | mul | mulhu | mulhs | clmul | muli
    | sll | srl | sra | rotr | sel | slt | sltu | ext | ld8 | ld16 | ld32 | ld64 | ld8s | ld16s | ld32s | st8 | st16 | st32 | st64
    | gld32 | gld64 | gst32 | gst64 | lkfetch | lkstore | lkappend | decf | deca | hash | peq | pne | plt | pltu | pge | pgeu | peqi
    | plti | pand | por | pxor | pany | pall =>
    exact issueBundle_wf hs fun s hs => by simp [aid s hs]
  case nop | setlim | loop | jump | brc | setcmp | waitbell | waittick | hint | refr | fence | digest | trap | halt | mma | wload | emit
    | azero | anchor | vchain | vpop | vldk | route | lpass | spass | fill | copy | dload | dstore | sinc | swait | csend | crecv | qopen
    | qclose =>
    exact issueBundle_wf hs fun s hs => by simp [hs]
  all_goals simp [exec, hs]

end

/-- Settles O4: every command keeps the canonical form of memory (`exec_wf`, one lemma per operation of the model), and an idle
step leaves memory alone. -/
theorem stepKeepsMemoryCanonical : Obligations.StepKeepsMemoryCanonical := by
  unfold Obligations.StepKeepsMemoryCanonical
  intro s t hs h
  unfold step at h
  split at h
  next => exact Host.Outcome.next.inj h ▸ (idle_mem s).symm ▸ hs
  next c r _ => exact exec_wf (s := { s with pending := r }) hs c t h

end Sys2Proof.Machine
end

section
namespace Sys2Proof.Machine

/-! ## The BAR4 window (17_host_interface_and_interrupts.md, R427; R21, R188, R202) -/

/-! ### Memory and tiles after a write -/

/-- A byte after a masked write: the byte the mask names where it names one, the old one elsewhere. -/
theorem readByte_writeMasked (s : State) (bs : List (Option Byte)) (a b : Nat) :
    readByte (writeMasked s a bs) b =
      if a ≤ b ∧ b < a + bs.length then (bs.getD (b - a) none).getD (readByte s b) else readByte s b := by
  induction bs generalizing s a with
  | nil => rw [if_neg (by simp)]; rfl
  | cons x r ih =>
    by_cases h : b = a
    · subst h
      rw [if_pos (by simp), Nat.sub_self, List.getD_cons_zero]
      cases x with
      | none => rw [writeMasked, ih, if_neg (by omega), Option.getD_none]
      | some y => rw [writeMasked, ih, if_neg (by omega), readByte_writeByte, if_pos rfl, Option.getD_some]
    · have hs : ∀ t, readByte t b = readByte s b → readByte (writeMasked t (a + 1) r) b =
          if a ≤ b ∧ b < a + (x :: r).length then ((x :: r).getD (b - a) none).getD (readByte s b) else readByte s b := by
        intro t ht
        rw [ih, ht]
        by_cases h1 : a + 1 ≤ b ∧ b < a + 1 + r.length
        · rw [if_pos h1, if_pos (by simp; omega), show b - a = b - (a + 1) + 1 by omega, List.getD_cons_succ]
        · rw [if_neg h1, if_neg (by simp; omega)]
      cases x with
      | none => exact hs s rfl
      | some y => exact hs (writeByte s a y) (by rw [readByte_writeByte, if_neg h])

/-- A masked write changes memory alone. -/
theorem writeMasked_eq (s : State) (a : Nat) (b : List (Option Byte)) :
    writeMasked s a b = { s with mem := (writeMasked s a b).mem } := by
  induction b generalizing s a with
  | nil => rfl
  | cons x r ih =>
    cases x with
    | none => exact ih s (a + 1)
    | some y => exact ih (writeByte s a y) (a + 1)

/-- The finite map with every value replaced. -/
theorem Store.get?_map {α : Type} (m : Store α) (g : Nat × α → Nat × α) (hk : ∀ p, (g p).1 = p.1) (k : Nat) :
    Store.get? (m.map g) k = (Store.get? m k).map fun x => (g (k, x)).2 := by
  induction m with
  | nil => rfl
  | cons p r ih =>
    obtain ⟨i, x⟩ := p
    have hi := hk (i, x)
    rw [List.map_cons, show g (i, x) = (i, (g (i, x)).2) from Prod.ext hi rfl]
    simp only [Store.get?]
    split
    · next h => subst h; rfl
    · exact ih

/-- A note of a foreign write changes of a tile only its outstanding transfers (R24, R195). -/
theorem tileOf_noteOther (s : State) (a n v : Nat) :
    tileOf (noteOther s a n) v = { tileOf s v with xfers := (tileOf (noteOther s a n) v).xfers } := by
  have h := Store.get?_map s.tiles (fun p => if p.2.xfers.isEmpty then p else
      (p.1, { p.2 with xfers := p.2.xfers.map fun f => { f with foreign := (a, n) :: f.foreign } }))
    (fun p => by split <;> rfl) v
  have he : tileOf (noteOther s a n) v = (Store.get? (noteOther s a n).tiles v).getD Tile.init := rfl
  rw [he, noteOther, h, tileOf]
  cases Store.get? s.tiles v with
  | none => rfl
  | some x =>
    simp only [Option.map_some, Option.getD_some]
    split <;> rfl

/-! ### A refused access -/

/-- A refused BAR4 access is recorded in registers alone, and its cause is raised (R427). -/
theorem logBar4_frame (s : State) (a : Nat) (write : Bool) (sealer : Option Nat) :
    logBar4 s a write sealer = { s with regs := (logBar4 s a write sealer).regs } ∧
      rd (logBar4 s a write sealer) HST_CAUSE_cause = withBit s HST_CAUSE_cause (if sealer.isSome then 2 else 1) := by
  unfold logBar4
  extract_lets s1
  have h1 : s1 = { s with regs := s1.regs } := by
    unfold s1
    split
    · rfl
    · exact wrs_eq _ _
  have hc : rd s1 HST_CAUSE_cause = rd s HST_CAUSE_cause := by
    unfold s1
    split
    · rfl
    · exact rd_wrs_ne _ _ _ (by simp [Fld.key, HST_CAUSE_cause, HST_CAUSE, HST_BAR4_LOG, HST_BAR4_LOG_addr, HST_BAR4_LOG_write,
        HST_BAR4_LOG_sealed, HST_BAR4_LOG_partition, HST_BAR4_LOG_valid])
  refine ⟨?_, by rw [rd_raise_self, hc, withBit]⟩
  rw [h1]
  rfl

/-- What a refused access leaves: its answer, the cause, and the registers of the record. -/
theorem logBar4_bar4Refused (s : State) (a : Nat) (op : Bar4Op) (sealer : Option Nat) :
    let t := logBar4 (bar4Refused s op) a (bar4IsWrite op) sealer
    t.out = (bar4Refused s op).out ∧ rd t HST_CAUSE_cause = withBit s HST_CAUSE_cause (if sealer.isSome then 2 else 1) ∧
      t = { s with regs := t.regs, out := t.out } := by
  obtain ⟨hf, hc⟩ := logBar4_frame (bar4Refused s op) a (bar4IsWrite op) sealer
  refine ⟨by rw [hf], ?_, ?_⟩
  · rw [hc]; cases op <;> rfl
  · rw [hf]; cases op <;> rfl

/-- What an access that is not refused does: a read gives out its bytes, a write stores those it enables (R427). -/
def bar4Op (s : State) (a : Nat) : Bar4Op → State
  | .read n => emitOut s (.readBytes (readBytes s a n))
  | .write b => noteOther (writeMasked s a b) a b.length

/-! ### The cases of an access inside the window -/

section
variable {s : State} {fn off : Nat}

/-- Where some byte is no memory that the function reaches, the access is refused (R21, R427). -/
theorem exec_bar4Access_unreached {op : Bar4Op} (hw : off + bar4Len op ≤ 2 ^ 36) (hu : fnUp s fn = true)
    (hp : on s HST_BOOT_prep_done = true) (hr : bar4Reaches s fn (bar4Base s fn + off) (bar4Len op) = false) :
    exec (.bar4Access fn off op) s =
      .next (logBar4 (bar4Refused s op) ((bar4Base s fn + off) % 2 ^ 48) (bar4IsWrite op) none) := by
  obtain ⟨hd3, hheld, -⟩ := (fnUp_iff s fn).1 hu
  simp only [exec, execBar4Access, if_neg (Nat.not_lt.2 hw)]
  simp [hu, hp, hd3, hheld, hr]

/-- An access that reaches memory is refused in a sealed region, and otherwise reads or writes it (R188, R202, R427). -/
theorem exec_bar4Access_reached {op : Bar4Op} (hw : off + bar4Len op ≤ 2 ^ 36) (hu : fnUp s fn = true)
    (hp : on s HST_BOOT_prep_done = true) (hr : bar4Reaches s fn (bar4Base s fn + off) (bar4Len op) = true) :
    exec (.bar4Access fn off op) s = .next ((sealOwner s (bar4Base s fn + off) (bar4Len op)).elim
      (bar4Op s (bar4Base s fn + off) op)
      fun q => logBar4 (bar4Refused s op) (bar4Base s fn + off) (bar4IsWrite op) (some q)) := by
  obtain ⟨hd3, hheld, -⟩ := (fnUp_iff s fn).1 hu
  simp only [exec, execBar4Access, if_neg (Nat.not_lt.2 hw)]
  simp only [hu, hp, hd3, hheld, hr]
  cases sealOwner s (bar4Base s fn + off) (bar4Len op) with
  | none => cases op <;> rfl
  | some q => rfl

end

/-- A single write puts the value in its field and leaves all else. -/
theorem writes_wr (s : State) (f : Fld) (v : Nat) : Writes s (wr s f v) [(f, v % 2 ^ f.w)] :=
  ⟨rfl, by simp, fieldsKept_wr s f v⟩

/-- Settles O9: an access goes through `exec_bar4Access_reached` or `exec_bar4Access_unreached`; what is refused is recorded in
registers alone (`logBar4_bar4Refused`). -/
theorem bar4ReachesMemory : Obligations.Bar4ReachesMemory := by
  unfold Obligations.Bar4ReachesMemory
  refine ⟨fun s fn off n hw hu hp hr ho => ?_, fun s fn off b hw hu hp hr ho => ?_, fun s fn off n q hw hu hp hr ho => ?_,
    fun s fn off q b hw hu hp hr ho => ?_, fun s fn off op hw hu hp hr => ?_, fun s v hu => ?_, fun s q v hu hq => ?_⟩
  · rw [exec_bar4Access_reached (op := .read n) hw hu hp hr, bar4Len, ho]
    rfl
  · have he := exec_bar4Access_reached (op := .write b) hw hu hp hr
    rw [bar4Len, ho] at he
    have hb := readByte_writeMasked s b (bar4Base s fn + off)
    refine ⟨_, he, fun i hi => ?_, fun c hc => ?_, ?_, fun v => ?_⟩
    · exact (hb _).trans (by rw [if_pos (by omega), Nat.add_sub_cancel_left])
    · exact (hb _).trans (if_neg (by omega))
    · simp only [Option.elim_none, bar4Op, noteOther]
      rw [writeMasked_eq]
    · have ht : tileOf (writeMasked s (bar4Base s fn + off) b) v = tileOf s v :=
        tileOf_congr v (by rw [writeMasked_eq])
      exact ht ▸ tileOf_noteOther (writeMasked s (bar4Base s fn + off) b) (bar4Base s fn + off) b.length v
  · have he := exec_bar4Access_reached (op := .read n) hw hu hp hr
    rw [bar4Len, ho] at he
    obtain ⟨hout, hc, hf⟩ := logBar4_bar4Refused s (bar4Base s fn + off) (.read n) (some q)
    exact ⟨_, he, hout, hc, hf⟩
  · have he := exec_bar4Access_reached (op := .write b) hw hu hp hr
    rw [bar4Len, ho] at he
    obtain ⟨hout, hc, hf⟩ := logBar4_bar4Refused s (bar4Base s fn + off) (.write b) (some q)
    exact ⟨_, he, hc, hf.trans (by rw [hout]; rfl)⟩
  · obtain ⟨hout, hc, hf⟩ := logBar4_bar4Refused s ((bar4Base s fn + off) % 2 ^ 48) op none
    exact ⟨_, exec_bar4Access_unreached hw hu hp hr, hout.trans (by cases op <;> rfl), hc, hf⟩
  · refine ⟨_, ?_, writes_wr s HST_BAR4_BASE_base (v.toNat / 2 ^ 30)⟩
    simp [exec, execBar4BaseWrite, fnPhys, hu]
  · refine ⟨_, ?_, writes_wr s (HST_VF_BAR4_BASE_base q) (v.toNat / 2 ^ 30)⟩
    have h1 : ¬ 256 + 8 * q = HST_BAR4_BASE := by rw [HST_BAR4_BASE]; omega
    simp [exec, execBar4BaseWrite, fnPhys, hu, h1, show 256 + 8 * q < 320 by omega]

end Sys2Proof.Machine
end

section
namespace Sys2Proof.Machine

/-! ## Starts and completions of descriptors (10_host_queues.md, R252, R253) -/

/-- What starts and completions of descriptors change: the descriptors and the completion queues, the registers of these, and
what is given out. A descriptor that has completed is gone, and an entry that is out stays out (R252, R253, R417). -/
structure QueueStep (s t : State) : Prop where
  kept : QueueFieldsKept s t
  rest : t = { s with regs := t.regs, out := t.out, descs := t.descs, cqs := t.cqs }
  gone : ∀ m, descOf s m = none → descOf t m = none
  entries : ∀ c e, EntryOut s c e → EntryOut t c e

theorem QueueStep.refl (s : State) : QueueStep s s := ⟨fun _ _ _ _ => rfl, rfl, fun _ h => h, fun _ _ h => h⟩

theorem QueueStep.trans {a b c : State} (h : QueueStep a b) (g : QueueStep b c) : QueueStep a c where
  kept f ht hq hs := (g.kept f ht hq hs).trans (h.kept f ht hq hs)
  rest := g.rest.trans (by rw [h.rest])
  gone m hm := g.gone m (h.gone m hm)
  entries q e he := g.entries q e (h.entries q e he)

theorem QueueStep.ite {s a b : State} {c : Prop} [Decidable c] (ha : QueueStep s a) (hb : QueueStep s b) :
    QueueStep s (if c then a else b) := by
  split
  · exact ha
  · exact hb

theorem QueueStep.foldl {α : Type} {g : State → α → State} (hg : ∀ s a, QueueStep s (g s a)) (l : List α) (s : State) :
    QueueStep s (l.foldl g s) := by
  induction l generalizing s with
  | nil => exact .refl s
  | cons a l ih => exact (hg s a).trans (ih (g s a))

/-- Time of day is none of the registers that completions move. -/
theorem QueueStep.tod {s t : State} (h : QueueStep s t) : tod t = tod s :=
  h.kept TIM_TOD_tod (fun c hc => by simp [Fld.key, TIM_TOD_tod, TIM_TOD, HQ_CQ_STATUS_tail, HQ_CQ_STATUS]; omega)
    (by decide) (by decide)

/-! ### Completion queues -/

/-- An entry that is out stays out where more is given out and each queue still holds it or has given it out (R253). -/
theorem EntryOut.of_held {s t : State} {q : Nat} {e : Bytes} (h : EntryOut s q e) (ho : ∀ o ∈ s.out, o ∈ t.out)
    (hh : ∀ irq, (e, irq) ∈ (cqOf s (q % 16)).held → EntryOut t q e) : EntryOut t q e := by
  obtain ⟨irq, hi⟩ | ⟨fn, a, p, hw⟩ := h
  · exact hh irq hi
  · exact .inr ⟨fn, a, p, ho _ hw⟩

theorem cqOf_setCq (s : State) (c q : Nat) (x : Cq) :
    cqOf { s with cqs := Store.set s.cqs c x } q = if q = c then x else cqOf s q := by
  simp only [cqOf, Store.getD, Store.get?_set]
  split <;> rfl

theorem queueStep_raise_hq (s : State) (b : Nat) : QueueStep s (raise s HQ_CAUSE_cause b) :=
  ⟨fun _ _ hq _ => rd_raise_ne s b hq, rfl, fun _ h => h, fun _ _ h => h⟩

theorem queueStep_raise_sec (s : State) (b : Nat) : QueueStep s (raise s SEC_CAUSE_cause b) :=
  ⟨fun _ _ _ hs => rd_raise_ne s b hs, rfl, fun _ h => h, fun _ _ h => h⟩

/-- The oldest held entry written to its queue: it is out, and the others are still held (R253). -/
theorem queueStep_popEntry {s : State} {c : Nat} {b : Bytes} {irq p : Bool} {r : List (Bytes × Bool)} (hc : c < 16)
    (hx : (cqOf s c).held = (b, irq) :: r) (fn a n : Nat) (q : Bool) :
    QueueStep s { wr (emitOut s (.hostWrite fn a (patchB b 0x1D (toLE 1 (fieldLE b 0x1D 1 + 128 * b2n q)))))
        (HQ_CQ_STATUS_tail c) n with cqs := Store.set s.cqs c ⟨p, r⟩ } where
  kept f ht _ _ := rd_wr_ne (emitOut s _) n (ht c hc)
  rest := rfl
  gone _ h := h
  entries k e h := by
    refine h.of_held (fun o ho => List.mem_cons_of_mem _ ho) fun i hi => ?_
    by_cases hk : k % 16 = c
    · rw [hk, hx] at hi
      obtain he | he := List.mem_cons.1 hi
      · obtain ⟨rfl, -⟩ := Prod.mk.inj he
        exact .inr ⟨fn, a, q, List.mem_cons_self⟩
      · exact .inl ⟨i, by simp only [cqOf, Store.getD, hk, Store.get?_set_self]; exact he⟩
    · exact .inl ⟨i, by simp only [cqOf, Store.getD, Store.get?_set_ne _ _ hk]; exact hi⟩

theorem queueStep_drainCq (n : Nat) (s : State) {c : Nat} (hc : c < 16) : QueueStep s (drainCq n s c) := by
  induction n generalizing s with
  | zero => exact .refl s
  | succ k ih =>
    simp only [drainCq]
    split
    · exact .refl s
    next b irq r hx =>
      refine .ite (.refl s) (.ite ?_ (queueStep_raise_hq s _))
      refine .trans ?_ (ih _)
      have hp := @queueStep_popEntry s c b irq
      exact .ite ((hp hc hx _ _ _ _).trans (queueStep_raise_hq _ _)) (hp hc hx _ _ _ _)

/-- An entry taken into held space is out, and so is every entry that was (R253). -/
theorem queueStep_hold (s : State) (c : Nat) (l : List (Bytes × Bool)) :
    QueueStep s { s with cqs := Store.set s.cqs c { cqOf s c with held := (cqOf s c).held ++ l } } where
  kept _ _ _ _ := rfl
  rest := rfl
  gone _ h := h
  entries k e h := by
    refine h.of_held (fun _ ho => ho) fun i hi => .inl ⟨i, ?_⟩
    rw [cqOf_setCq]
    split
    next hk => exact List.mem_append_left l (hk ▸ hi)
    · exact hi

theorem queueStep_postEntry (s : State) (d : Desc) (status detail retakes epoch : Nat) (final : Bool) :
    QueueStep s (postEntry s d status detail retakes epoch final) :=
  (queueStep_hold s _ _).trans (queueStep_drainCq _ _ (Nat.mod_lt _ (by decide)))

theorem entryOut_postEntry (s : State) (d : Desc) (status detail retakes epoch : Nat) (final : Bool) :
    EntryOut (postEntry s d status detail retakes epoch final) d.cq (entryBytes d (tod s) status detail retakes epoch final) := by
  refine (queueStep_drainCq _ _ (Nat.mod_lt _ (by decide))).entries _ _ (.inl ⟨final && d.irq, ?_⟩)
  rw [cqOf_setCq, if_pos rfl]
  exact List.mem_append_right _ List.mem_cons_self

/-! ### Descriptors -/

theorem descOf_startDesc (s : State) (m k : Nat) :
    descOf (startDesc s m) k = (descOf s k).map fun d => if d.subm = m then { d with started := true } else d := by
  simp only [descOf, startDesc, List.find?_map]
  congr 2
  funext d
  simp only [Function.comp_apply]
  split <;> rfl

theorem queueStep_startDesc (s : State) (m : Nat) : QueueStep s (startDesc s m) :=
  ⟨fun _ _ _ _ => rfl, rfl, fun k h => by rw [descOf_startDesc, h]; rfl, fun _ _ h => h⟩

theorem queueStep_dropDesc (s : State) (m : Nat) : QueueStep s { s with descs := s.descs.filter fun x => x.subm != m } :=
  ⟨fun _ _ _ _ => rfl, rfl, fun _ h => List.find?_eq_none.2 fun d hd => List.find?_eq_none.1 h d (List.mem_filter.1 hd).1,
    fun _ _ h => h⟩

theorem queueStep_completeFull (s : State) (m status detail retakes epoch : Nat) :
    QueueStep s (completeFull s m status detail retakes epoch) := by
  unfold completeFull
  split
  · exact .refl s
  next d _ =>
    exact ((QueueStep.ite (queueStep_raise_sec s 0) (.refl s)).trans (queueStep_dropDesc _ m)).trans (queueStep_postEntry _ d _ _ _ _ _)

/-- A descriptor that completes is gone, and its final entry is out (R252, R253). -/
theorem completeFull_posts {s : State} {m : Nat} {d : Desc} (hd : descOf s m = some d) (status detail retakes epoch : Nat) :
    descOf (completeFull s m status detail retakes epoch) m = none ∧
      EntryOut (completeFull s m status detail retakes epoch) d.cq (entryBytes d (tod s) status detail retakes epoch true) := by
  simp only [completeFull, hd]
  have hu := QueueStep.ite (c := d.type = 2 ∧ status ≠ stOk ∧ status ≠ stDescriptor) (queueStep_raise_sec s 0) (.refl s)
  revert hu
  generalize (if d.type = 2 ∧ status ≠ stOk ∧ status ≠ stDescriptor then raise s SEC_CAUSE_cause 0 else s) = u
  intro hu
  refine ⟨(queueStep_postEntry _ d _ _ _ _ _).gone m (List.find?_eq_none.2 fun x hx => ?_), ?_⟩
  · simpa using (List.mem_filter.1 hx).2
  · exact hu.tod ▸ entryOut_postEntry { u with descs := u.descs.filter fun x => x.subm != m } d status detail retakes epoch true

theorem queueStep_leaveGraph (s : State) (d : Desc) : QueueStep s (leaveGraph s d) :=
  .ite (.refl s) (queueStep_completeFull s _ _ _ _ _)

theorem queueStep_pump (n : Nat) (s : State) : QueueStep s (pump n s) := by
  induction n generalizing s with
  | zero => exact .refl s
  | succ k ih =>
    simp only [pump]
    split
    next d _ =>
      have hc := (queueStep_startDesc s d.subm).trans
        (queueStep_completeFull _ d.subm ((d.refusal s).getD (0, 0)).1 ((d.refusal s).getD (0, 0)).2 0 0)
      exact (hc.trans (.ite (.foldl queueStep_leaveGraph _ _) (.refl _))).trans (ih _)
    · exact .refl s

theorem queueStep_pumpAll (s : State) : QueueStep s (pumpAll s) := queueStep_pump _ s

/-- A started descriptor completed, and the refused ones after it (R252, R253). -/
theorem completed_pumpAll {s : State} {d : Desc} (hd : descOf s d.subm = some d) (status detail : Nat) :
    Completed s (pumpAll (complete s d.subm status detail)) d status detail := by
  obtain ⟨hg, he⟩ := completeFull_posts hd status detail 0 0
  have hp := queueStep_pumpAll (complete s d.subm status detail)
  have ht := (queueStep_completeFull s d.subm status detail 0 0).trans hp
  exact ⟨hp.gone _ hg, hp.entries _ _ he, ht.kept, ht.rest⟩

/-- A descriptor started and completed at once, and the refused ones after it (R252, R253). -/
theorem completed_finishDesc {s : State} {d : Desc} (hd : descOf s d.subm = some d) (status detail : Nat) :
    Completed s (finishDesc s d status detail) d status detail := by
  have hs : descOf (startDesc s d.subm) d.subm = some { d with started := true } := by
    rw [descOf_startDesc, hd, Option.map_some, if_pos rfl]
  obtain ⟨hg, he, hk, hr⟩ := completed_pumpAll (d := { d with started := true }) hs status detail
  exact ⟨hg, he, hk, hr.trans rfl⟩

end Sys2Proof.Machine
end

section
namespace Sys2Proof.Machine

/-! ## Maps, scrubs and stores (14_reliability_substitution_doubles.md, R355 to R364; R27, R184) -/

/-- Nothing but registers changes. -/
def RegsOnly (s t : State) : Prop := t = { s with regs := t.regs }

theorem RegsOnly.trans {a b c : State} (h : RegsOnly a b) (g : RegsOnly b c) : RegsOnly a c := Eq.trans g (by rw [h])

theorem RegsOnly.foldl {α : Type} {g : State → α → State} (hg : ∀ s a, RegsOnly s (g s a)) (l : List α) (s : State) :
    RegsOnly s (l.foldl g s) := by
  induction l generalizing s with
  | nil => rfl
  | cons a l ih => exact (hg s a).trans (ih (g s a))

theorem regsOnly_wr (s : State) (f : Fld) (v : Nat) : RegsOnly s (wr s f v) := rfl

theorem regsOnly_raise (s : State) (f : Fld) (b : Nat) : RegsOnly s (raise s f b) := rfl

theorem regsOnly_wrs (s : State) (l : List (Fld × Nat)) : RegsOnly s (wrs s l) := wrs_eq s l

theorem bitOf_eq_testBit (v i : Nat) : bitOf v i = v.testBit i := by
  rw [bitOf, Nat.testBit_eq_decide_div_mod_eq]
  rfl

/-- A cause that is raised reads as set. -/
theorem flag_raise_self (s : State) {f : Fld} {b : Nat} (hb : b < f.w) : flag (raise s f b) f b = true := by
  rw [flag, rd_raise_self, bitOf_eq_testBit]
  simp [hb, Nat.testBit_two_pow_self]

/-- A field that no step of a fold writes reads as before. -/
theorem rd_foldl {α : Type} {g : State → α → State} {f : Fld} {l : List α} (hg : ∀ s, ∀ a ∈ l, rd (g s a) f = rd s f) (s : State) :
    rd (l.foldl g s) f = rd s f := by
  induction l generalizing s with
  | nil => rfl
  | cons a l ih =>
    exact (ih (fun s b hb => hg s b (List.mem_cons_of_mem _ hb)) _).trans (hg s a List.mem_cons_self)

/-! ### Map commits (R361, R362) -/

/-- A map given by its keys and a function of them. -/
theorem Store.get?_keys {α : Type} (l : List Nat) (g : Nat → α) (k : Nat) :
    Store.get? (l.map fun t => (t, g t)) k = if k ∈ l then some (g k) else none := by
  induction l with
  | nil => rfl
  | cons a l ih =>
    simp only [List.map_cons, Store.get?, ih, List.mem_cons]
    by_cases h : k = a
    · simp [h]
    · simp [h]

theorem regsOnly_newSiteTim (s : State) (t : Nat) : RegsOnly s (newSiteTim s t) := by
  refine (regsOnly_wrs s _).trans (.foldl (fun s l => ?_) _ _)
  split
  · exact (regsOnly_wrs s _).trans (regsOnly_wrs _ _)
  · exact regsOnly_wrs s _

/-- The maps as they are put in force: sites, stacks and a roll call due, beside registers nothing else (R361). -/
theorem commitMaps_eq (s : State) : commitMaps s = { s with
    siteMap := (List.range s.part.tiles).map fun t => (t, stagedSite s t)
    stackMap := (List.range s.part.stacks).map fun k => (k, rd s (REL_STACK_MAP_phys k))
    time := { s.time with rollDue := true }
    regs := (commitMaps s).regs } :=
  (RegsOnly.foldl regsOnly_newSiteTim _ _).trans (.foldl (fun s _ => regsOnly_wr s _ _) _ _)

/-- REL_STATUS.failed brought up to date: of registers only it, REL_CAUSE and the boot state may change, beside what is given out. -/
theorem evalFailed_frame (s : State) :
    evalFailed s = { s with regs := (evalFailed s).regs, out := (evalFailed s).out } ∧
      FieldsKept s (evalFailed s) [REL_STATUS_failed, REL_CAUSE_cause, HST_BOOT_state] := by
  unfold evalFailed
  extract_lets f was s1 s2 s3
  have h1 : FieldsKept s s1 [REL_STATUS_failed, REL_CAUSE_cause, HST_BOOT_state] := (fieldsKept_wr s _ _).mono (by simp)
  have h2 : FieldsKept s s2 [REL_STATUS_failed, REL_CAUSE_cause, HST_BOOT_state] := h1.trans ((fieldsKept_wr s1 _ _).mono (by simp))
  have h3 : FieldsKept s s3 [REL_STATUS_failed, REL_CAUSE_cause, HST_BOOT_state] ∧ s3 = { s with regs := s3.regs, out := s3.out } := by
    unfold s3
    split
    · have hb : FieldsKept s2 (setBoot s2 7) [HST_BOOT_state] := fieldsKept_wr s2 HST_BOOT_state 7
      exact ⟨h2.trans (hb.mono (by simp)), rfl⟩
    · exact ⟨h2, rfl⟩
  clear_value s3
  obtain ⟨h3, e3⟩ := h3
  split
  · split
    · exact ⟨by rw [e3]; rfl, h3⟩
    · exact ⟨e3, h3⟩
  · exact ⟨rfl, h1⟩

/-- What a tile's entry of the staged map is put back to (R362). -/
def restoreSite (s : State) (t : Nat) : State :=
  wrs s [(REL_TILE_MAP_site t, (siteOf s t).site), (REL_TILE_MAP_die t, (siteOf s t).die), (REL_TILE_MAP_on t, b2n (siteOf s t).on)]

theorem regsOnly_restoreMaps (s : State) : RegsOnly s (restoreMaps s) :=
  (RegsOnly.foldl (fun s _ => regsOnly_wrs s _) _ _).trans (.foldl (fun s _ => regsOnly_wr s _ _) _ _)

theorem rd_restoreSite_self (s : State) (t : Nat) : rd (restoreSite s t) (REL_TILE_MAP_site t) = (siteOf s t).site % 2 ^ 4 := by
  refine (rd_wrs_ne (wr s (REL_TILE_MAP_site t) (siteOf s t).site) _ _ ?_).trans (rd_wr_self s _ _)
  simp [Fld.key, REL_TILE_MAP_site, REL_TILE_MAP_die, REL_TILE_MAP_on]

theorem rd_restoreSite_ne (s : State) {t k : Nat} (h : k ≠ t) :
    rd (restoreSite s t) (REL_TILE_MAP_site k) = rd s (REL_TILE_MAP_site k) := by
  refine rd_wrs_ne s _ _ ?_
  simp only [List.mem_cons, List.not_mem_nil, or_false, forall_eq_or_imp, forall_eq, Fld.key, REL_TILE_MAP_site, REL_TILE_MAP_die,
    REL_TILE_MAP_on, REL_TILE_MAP]
  omega

/-- Every tile of a list of tiles has its site put back. -/
theorem rd_restoreSites (l : List Nat) (s : State) {k v : Nat} (hv : (siteOf s k).site % 2 ^ 4 = v)
    (h : k ∈ l ∨ rd s (REL_TILE_MAP_site k) = v) : rd (l.foldl restoreSite s) (REL_TILE_MAP_site k) = v := by
  induction l generalizing s with
  | nil => exact h.resolve_left List.not_mem_nil
  | cons t l ih =>
    refine ih (restoreSite s t) hv ?_
    by_cases hk : k = t
    · exact .inr (hk ▸ (rd_restoreSite_self s t).trans (hk ▸ hv))
    · rw [rd_restoreSite_ne s hk]
      exact h.imp_left fun hm => (List.mem_cons.1 hm).resolve_left hk

theorem Part.tiles_le (p : Part) : p.tiles ≤ 96 := by cases p <;> decide

/-- A rejected commit puts every site of the staged map back (R362). -/
theorem rd_restoreMaps_site (s : State) {k : Nat} (hk : k < s.part.tiles) :
    rd (restoreMaps s) (REL_TILE_MAP_site k) = (siteOf s k).site % 2 ^ 4 := by
  have h96 := s.part.tiles_le
  refine (rd_foldl (fun s j _ => rd_wr_ne s _ ?_) _).trans (rd_restoreSites (List.range s.part.tiles) s rfl (.inl (List.mem_range.2 hk)))
  simp only [Fld.key, REL_TILE_MAP_site, REL_TILE_MAP, REL_STACK_MAP_phys, REL_STACK_MAP]
  omega

theorem mapReason_lt (s : State) : mapReason s < 2 ^ REL_MAP_CTL_reason.w := by
  unfold mapReason
  repeat' split
  all_goals decide

/-- A commit that breaks no rule puts the staged maps in force (R361). -/
theorem mapCommit_accepted {s : State} (hf : fnPhys s 0 = true) (hr : mapReason s = 0) : Gives (.mapCommit 0) s fun t =>
    (∀ k, k < s.part.tiles → siteOf t k = stagedSite s k) ∧ rd t REL_STATUS_committed = 1 ∧ rd t REL_MAP_CTL_rejected = 0 ∧
      t.time.rollDue = true ∧ t.mem = s.mem ∧ t.tiles = s.tiles := by
  set u := wrs (commitMaps s) [(REL_STATUS_committed, 1), (REL_MAP_CTL_rejected, 0), (REL_MAP_CTL_reason, 0)] with hu
  obtain ⟨he, hk⟩ := evalFailed_frame u
  have hw : Writes (commitMaps s) u [(REL_STATUS_committed, 1), (REL_MAP_CTL_rejected, 0), (REL_MAP_CTL_reason, 0)] :=
    writes_wrs (commitMaps s) (by decide)
  obtain ⟨hur, huv, -⟩ := hw
  have hc := commitMaps_eq s
  refine ⟨evalFailed u, by simp [exec, execMapCommit, hf, hr, hu], fun k hk => ?_, ?_, ?_, ?_, ?_, ?_⟩
  · rw [he, siteOf, hur, hc]
    simp [Store.get?_keys, hk]
  · exact (hk _ (by decide)).trans (huv (REL_STATUS_committed, 1) (by simp))
  · exact (hk _ (by decide)).trans (huv (REL_MAP_CTL_rejected, 0) (by simp))
  · rw [he, hur, hc]
  · rw [he, hur, hc]
  · rw [he, hur, hc]

/-- What a rejection records: that there was one, and its reason (R362). -/
theorem rejection_writes (m : State) {n : Nat} (hn : n < 2 ^ REL_MAP_CTL_reason.w) :
    Writes m (wrs m [(REL_MAP_CTL_rejected, 1), (REL_MAP_CTL_reason, n)]) [(REL_MAP_CTL_rejected, 1), (REL_MAP_CTL_reason, n)] := by
  have h := writes_wrs m (l := [(REL_MAP_CTL_rejected, 1), (REL_MAP_CTL_reason, n)])
    (by simp only [List.map_cons, List.map_nil]; decide)
  rw [List.map_cons, List.map_cons, Nat.mod_eq_of_lt hn] at h
  exact h

/-- A commit that breaks a rule is rejected with its reason (R361, R362). -/
theorem mapCommit_rejected {s : State} (hf : fnPhys s 0 = true) (hr : mapReason s ≠ 0) : Gives (.mapCommit 0) s fun t =>
    rd t REL_MAP_CTL_rejected = 1 ∧ rd t REL_MAP_CTL_reason = mapReason s ∧ flag t REL_CAUSE_cause 4 = true ∧
      (∀ k, k < s.part.tiles → rd t (REL_TILE_MAP_site k) = (siteOf s k).site % 2 ^ 4) ∧ t = { s with regs := t.regs } := by
  have hx : exec (.mapCommit 0) s =
      .next (raise (wrs (restoreMaps s) [(REL_MAP_CTL_rejected, 1), (REL_MAP_CTL_reason, mapReason s)]) REL_CAUSE_cause 4) := by
    simp [exec, execMapCommit, hf, hr]
  have hn := mapReason_lt s
  have hsite := fun k => rd_restoreMaps_site s (k := k)
  have hregs := regsOnly_restoreMaps s
  generalize mapReason s = n at hx hn ⊢
  generalize restoreMaps s = m at hx hsite hregs
  obtain ⟨hu, hv, hk⟩ := rejection_writes m hn
  refine ⟨_, hx, ?_, ?_, flag_raise_self _ (by decide), fun k hlt => ?_, (hregs.trans (regsOnly_wrs _ _)).trans (regsOnly_raise _ _ _)⟩
  · rw [rd_raise_ne _ _ (by decide)]
    exact hv (REL_MAP_CTL_rejected, 1) (by simp)
  · rw [rd_raise_ne _ _ (by decide)]
    exact hv (REL_MAP_CTL_reason, n) (by simp)
  · rw [rd_raise_ne _ _ (by simp [Fld.key, REL_TILE_MAP_site, REL_CAUSE_cause, REL_TILE_MAP, REL_CAUSE]; omega), hk, hsite k hlt]
    simp [Fld.key, REL_TILE_MAP_site, REL_MAP_CTL_rejected, REL_MAP_CTL_reason, REL_TILE_MAP, REL_MAP_CTL]
    omega

/-! ### Scrubs and site tests (R362, R364) -/

/-- A memory scrub starts, or ends with DESCRIPTOR where its range is bad (R362). -/
theorem scrub_memory {s : State} {sq : Nat} {d : Desc} (hs : Starts s sq 8 d) (hk : fieldLE d.bytes 0x10 1 = 2) :
    Gives (.scrub sq) s fun t =>
      if spanOk s d.part d.job (fieldLE d.bytes 0x18 8) (fieldLE d.bytes 0x20 8) = true then t = pumpAll (startDesc s d.subm)
      else Completed s t d stDescriptor 0x18 := by
  obtain ⟨hr, hd⟩ := hs
  refine ⟨_, by simp only [exec, execScrub, hr, hk, if_true]; rfl, ?_⟩
  split
  · rfl
  · exact completed_finishDesc hd _ _

/-- A site test of a tile starts, or ends with UNIT_BUSY where the tile is bound (R364). -/
theorem scrub_site {s : State} {sq k : Nat} {d : Desc} (hs : Starts s sq 8 d) (hk : fieldLE d.bytes 0x10 1 = 1)
    (hb : fieldLE d.bytes 0x11 1 = 0) (hk' : k = fieldLE d.bytes 0x12 2) (ht : k < s.part.tiles) (hp : tileOfPart s k d.part = true)
    (ho : tileOn s k = true) : Gives (.scrub sq) s fun t =>
      if on s (TIL_MODE_bound k) = true then Completed s t d stUnitBusy 0 else t = pumpAll (startDesc s d.subm) := by
  obtain ⟨hr, hd⟩ := hs
  have hst : scrubTile s d = some k := by rw [scrubTile, if_neg (by omega), hk']
  refine ⟨if on s (TIL_MODE_bound k) then finishDesc s d stUnitBusy 0 else pumpAll (startDesc s d.subm), ?_, ?_⟩
  · simp [exec, execScrub, hr, hk, hb, hst, hp, ho, Nat.not_le.2 ht]
  · split
    · exact completed_finishDesc hd _ _
    · rfl

/-- Nothing but memory and the counter of the free values changes. -/
def FreeOnly (s t : State) : Prop := t = { s with mem := t.mem, freeCtr := t.freeCtr }

theorem FreeOnly.trans {a b c : State} (h : FreeOnly a b) (g : FreeOnly b c) : FreeOnly a c := Eq.trans g (by rw [h])

theorem FreeOnly.rd {s t : State} (h : FreeOnly s t) (f : Fld) : rd t f = rd s f := rd_congr f (by rw [h]) (by rw [h])

theorem FreeOnly.descs {s t : State} (h : FreeOnly s t) : t.descs = s.descs := by rw [h]

theorem descOf_congr {s t : State} (h : t.descs = s.descs) (m : Nat) : descOf t m = descOf s m := by rw [descOf, h, descOf]

/-- Completions after free values: the jobs and the runs are as before, and so is memory beside the free values. -/
theorem FreeOnly.completed {s t u : State} {d : Desc} {status detail : Nat} (h : FreeOnly s t) (hc : Completed t u d status detail) :
    u.mem = t.mem ∧ u.jobs = s.jobs ∧ u.runs = s.runs := by
  obtain ⟨-, -, -, hr⟩ := hc
  exact ⟨by rw [hr], by rw [hr, h], by rw [hr, h]⟩

theorem freeOnly_freeSpan (s : State) (a n : Nat) : FreeOnly s (freeSpan s a n) := by
  rw [freeSpan, writeBytes_eq]
  rfl

theorem memKeptBut_freeSpan (s : State) (a n : Nat) : MemKeptBut s (freeSpan s a n) a n := fun b hb => by
  refine (readByte_writeBytes s _ a b).trans (if_neg ?_)
  simp
  omega

/-- A site test leaves free values in parts of the tile's window, and nothing else changes (R364). -/
theorem freeOnly_freeScratch (s : State) (k : Nat) : FreeOnly s (freeScratch s k) := by
  unfold freeScratch
  extract_lets w
  exact ((freeOnly_freeSpan s _ _).trans (freeOnly_freeSpan _ _ _)).trans (freeOnly_freeSpan _ _ _)

theorem memKeptBut_freeScratch (s : State) (k : Nat) : MemKeptBut s (freeScratch s k) (windowOf k + 0x100000) 0x700000 := by
  intro b hb
  unfold freeScratch
  extract_lets w
  rw [memKeptBut_freeSpan _ _ _ b (by omega), memKeptBut_freeSpan _ _ _ b (by omega), memKeptBut_freeSpan _ _ _ b (by omega)]

/-- A site test that finds nothing completes with OK (R364). -/
theorem siteTestDone_passed {s : State} {sq k : Nat} {d : Desc} (hf : scrubOf s sq 1 = some d) (hd : descOf s d.subm = some d)
    (ht : scrubTile s d = some k) : Gives (.siteTestDone sq none) s fun t =>
      descOf t d.subm = none ∧ EntryOut t d.cq (entryBytes d (tod s) stOk 0 0 0 true) ∧
        QueueFieldsKept s t ∧ MemKeptBut s t (windowOf k + 0x100000) 0x700000 ∧ t.jobs = s.jobs ∧ t.runs = s.runs := by
  have hfree := freeOnly_freeScratch s k
  have hd' : descOf (freeScratch s k) d.subm = some d := (descOf_congr hfree.descs _).trans hd
  have hc := completed_pumpAll hd' stOk 0
  have hkept := memKeptBut_freeScratch s k
  have hx : exec (.siteTestDone sq none) s = .next (pumpAll (complete (freeScratch s k) d.subm stOk 0)) := by
    simp only [exec, execSiteTestDone, hf, ht]
  generalize freeScratch s k = u at *
  obtain ⟨hmem, hjobs, hruns⟩ := hfree.completed hc
  obtain ⟨hg, hout, hregs, -⟩ := hc
  refine ⟨_, hx, hg, ?_, fun f h1 h2 h3 => (hregs f h1 h2 h3).trans (hfree.rd f), fun b hb => ?_, hjobs, hruns⟩
  · rwa [show tod u = tod s from hfree.rd _] at hout
  · exact (congrArg (Memory.read · b) hmem).trans (hkept b hb)

/-! ### Hardware faults (R351 to R357) -/

/-- What no step of a fold changes, the fold does not change. -/
theorem foldl_keeps {α β : Type} (φ : State → β) {g : State → α → State} (hg : ∀ s a, φ (g s a) = φ s) (l : List α) (s : State) :
    φ (l.foldl g s) = φ s := by
  induction l generalizing s with
  | nil => rfl
  | cons a l ih => exact (ih (g s a)).trans (hg s a)

@[simp] theorem evalFailed_descs (s : State) : (evalFailed s).descs = s.descs := by rw [(evalFailed_frame s).1]

@[simp] theorem condemn_descs (s : State) (t kind idx : Nat) : (condemn s t kind idx).descs = s.descs := by
  have hr : (retireSpare s t kind idx).descs = s.descs := by
    unfold retireSpare
    repeat' split
    all_goals simp
  unfold condemn
  extract_lets s1
  have h1 : s1.descs = s.descs := hr
  clear_value s1
  split
  · rfl
  · split
    · simp [condemnStack]
    · split
      · rw [queueUnit]
        split <;> exact h1
      · rw [passOn]
        split <;> exact h1

@[simp] theorem countFault_descs (s : State) (tile : Nat) (u : Option (Nat × Nat)) : (countFault s tile u).1.descs = s.descs := by
  unfold countFault
  dsimp only
  repeat' split
  all_goals simp

@[simp] theorem shadowFault_descs (s : State) (t pos : Nat) : (shadowFault s t pos).1.descs = s.descs := by simp [shadowFault]

theorem descs_of_pair_eq {α : Type} {p : State × α} {t : State} {x : α} {l : List Desc} (h : p = (t, x)) (hl : p.1.descs = l) :
    t.descs = l := by
  rw [h] at hl
  exact hl

/-- The cause of a hardware fault is raised, and no descriptor has changed (R351). -/
def FaultPosted (s t : State) : Prop := t.descs = s.descs ∧ flag t REL_CAUSE_cause 0 = true

theorem FaultPosted.foldl {α : Type} {s u : State} {g : State → α → State} (h : FaultPosted s u)
    (hd : ∀ s a, (g s a).descs = s.descs) (hr : ∀ s a, rd (g s a) REL_CAUSE_cause = rd s REL_CAUSE_cause) (l : List α) :
    FaultPosted s (l.foldl g u) :=
  ⟨(foldl_keeps State.descs hd l u).trans h.1, (congrArg (bitOf · 0) (foldl_keeps (rd · REL_CAUSE_cause) hr l u)).trans h.2⟩

theorem faultPosted_raise {s u : State} (h : u.descs = s.descs) : FaultPosted s (raise u REL_CAUSE_cause 0) :=
  ⟨h, flag_raise_self u (by decide)⟩

/-- A hardware fault raises its cause, and no descriptor changes (R351). -/
theorem hwFaultOn_posted (s : State) (code tile idx : Nat) (rs : List Nat) : FaultPosted s (hwFaultOn s code tile idx rs) := by
  unfold hwFaultOn
  extract_lets u key twice s1
  have h1 : s1.descs = s.descs := foldl_keeps State.descs (fun s r => modRun_descs _ _ _) _ _
  clear_value s1 twice key u
  split
  next s2 hit he =>
    have h2 : s2.descs = s.descs := descs_of_pair_eq he (by split <;> simp [h1])
    clear he
    split
    next s3 limit hc =>
      have h3 : s3.descs = s.descs := descs_of_pair_eq hc ((countFault_descs _ _ _).trans h2)
      clear hc
      extract_lets unit s4 named detail s5
      clear_value unit
      have h4 : s4.descs = s.descs := by
        unfold s4
        split
        · exact (condemn_descs _ _ _ _).trans h3
        · exact h3
      have h5 : FaultPosted s s5 := faultPosted_raise ((wrs_descs _ _).trans h4)
      clear_value s5 detail named s4
      refine h5.foldl (fun s r => ?_) (fun s r => ?_) rs
      · dsimp only
        repeat' split
        all_goals simp
      · dsimp only
        repeat' split
        all_goals simp

theorem hwFault_descs (s : State) (code tile idx : Nat) : (hwFault s code tile idx).descs = s.descs := (hwFaultOn_posted s _ _ _ _).1

/-- A site test that finds a fault records it and completes with TEST_FAILED and the fault's detail (R352, R364). -/
theorem siteTestDone_failed {s : State} {sq k : Nat} {d : Desc} (hf : scrubOf s sq 1 = some d) (hd : descOf s d.subm = some d)
    (ht : scrubTile s d = some k) (c i : Nat) : Gives (.siteTestDone sq (some (c, i))) s fun t =>
      descOf t d.subm = none ∧ flag t REL_CAUSE_cause 0 = true ∧
        EntryOut t d.cq (entryBytes d (tod t) stTestFailed (rd t REL_FAULT_fault) 0 0 true) := by
  set u := hwFault (freeScratch s k) c k i with hu
  have hd' : descOf u d.subm = some d :=
    (descOf_congr ((hwFault_descs (freeScratch s k) c k i).trans (freeOnly_freeScratch s k).descs) _).trans hd
  have hflag : flag u REL_CAUSE_cause 0 = true := (hwFaultOn_posted _ _ _ _ _).2
  have hstep : QueueStep u (pumpAll (complete u d.subm stTestFailed (rd u REL_FAULT_fault))) :=
    (queueStep_completeFull _ _ _ _ _ _).trans (queueStep_pumpAll _)
  obtain ⟨hg, hout, hkept, -⟩ := completed_pumpAll hd' stTestFailed (rd u REL_FAULT_fault)
  refine ⟨_, by simp only [exec, execSiteTestDone, hf, ht, Option.getD_some]; rfl, hg, ?_, ?_⟩
  · rw [flag, hkept REL_CAUSE_cause]
    · exact hflag
    · intro c hc
      simp [Fld.key, REL_CAUSE_cause, REL_CAUSE, HQ_CQ_STATUS_tail, HQ_CQ_STATUS]
      omega
    · decide
    · decide
  · rw [hstep.tod, hkept REL_FAULT_fault]
    · exact hout
    · intro c hc
      simp [Fld.key, REL_FAULT_fault, REL_FAULT, HQ_CQ_STATUS_tail, HQ_CQ_STATUS]
      omega
    · decide
    · decide

/-- A memory scrub completes with its count (R362). -/
theorem memoryScrubDone_completes {s : State} {sq : Nat} {d : Desc} (hf : scrubOf s sq 2 = some d) (hd : descOf s d.subm = some d)
    (n : Nat) : Gives (.memoryScrubDone sq n) s fun t => Completed s t d stOk n :=
  ⟨_, by simp only [exec, execMemoryScrubDone, hf], completed_pumpAll hd stOk n⟩

/-! ### The undo log and the locker store (R184, R355) -/

/-- What a write of REL_UNDO_CFG stores before the log is judged: its fields, and an empty log (R355). -/
def undoWritten (s : State) (q w : Nat) : State :=
  let t := wrs s [(REL_UNDO_CFG_log2_bytes q, w), (REL_UNDO_CFG_en q, w / 32), (REL_UNDO_CFG_used q, 0)]
  { t with undoRun := Store.erase s.undoRun q }

/-- Nothing but registers and what the undo logs hold changes. -/
def UndoOnly (s t : State) : Prop := t = { s with regs := t.regs, undoRun := t.undoRun }

theorem UndoOnly.trans {a b c : State} (h : UndoOnly a b) (g : UndoOnly b c) : UndoOnly a c := Eq.trans g (by rw [h])

theorem RegsOnly.undoOnly {s t : State} (h : RegsOnly s t) : UndoOnly s t := Eq.trans h (by rw [h])

/-- `roomAt` unfolded as a constant: unfolded at arguments, its match on `placeOf` would have the kernel evaluate a product with a
free factor step by step. -/
theorem roomAt_eq : roomAt = delta% roomAt := rfl

/-- `partOwns` unfolded as a constant, for the same reason. -/
theorem partOwns_eq : partOwns = delta% partOwns := rfl

/-- Whether a span is LPDDR memory of a partition depends on no register. -/
theorem UndoOnly.lpdSpanOk {s t : State} (h : UndoOnly s t) (q a n : Nat) : lpdSpanOk t q a n = lpdSpanOk s q a n := by
  have hpart : t.part = s.part := by rw [h]
  have hsites : t.siteMap = s.siteMap := by rw [h]
  have hparts : t.parts = s.parts := by rw [h]
  have hon : tileOn t = tileOn s := funext fun u => by rw [tileOn, hpart, hsites, tileOn]
  have hplace : placeOf t a = placeOf s a := by rw [placeOf, hpart, hon, placeOf]
  have husable : tilesUsable t = tilesUsable s := by rw [tilesUsable, hpart, hon, tilesUsable]
  have hroom : roomAt t a = roomAt s a := by
    rw [roomAt_eq]
    beta_reduce
    rw [hplace, hpart, husable]
  have hown : partOwns t q a n = partOwns s q a n := by
    rw [partOwns_eq]
    beta_reduce
    rw [hplace, hparts]
  rw [Machine.lpdSpanOk, hplace, hroom, hown, Machine.lpdSpanOk]

theorem undoOnly_wrs (s : State) (l : List (Fld × Nat)) (m : Store Nat) : UndoOnly s { wrs s l with undoRun := m } :=
  (regsOnly_wrs s l).undoOnly.trans rfl

theorem undoOnly_undoWritten (s : State) (q w : Nat) : UndoOnly s (undoWritten s q w) := undoOnly_wrs s _ _

theorem undoWritten_fields (s : State) (q w : Nat) :
    rd (undoWritten s q w) (REL_UNDO_CFG_log2_bytes q) = bitsOf w 0 5 ∧ rd (undoWritten s q w) (REL_UNDO_CFG_en q) = bitsOf w 5 1 ∧
      rd (undoWritten s q w) (REL_UNDO_CFG_used q) = 0 ∧
      FieldsKept s (undoWritten s q w) [REL_UNDO_CFG_log2_bytes q, REL_UNDO_CFG_en q, REL_UNDO_CFG_used q] := by
  obtain ⟨-, hv, hk⟩ := writes_wrs s (l := [(REL_UNDO_CFG_log2_bytes q, w), (REL_UNDO_CFG_en q, w / 32), (REL_UNDO_CFG_used q, 0)])
    (by simp [Fld.key, REL_UNDO_CFG_log2_bytes, REL_UNDO_CFG_en, REL_UNDO_CFG_used])
  simp only [List.map_cons, List.map_nil, List.mem_cons, List.not_mem_nil, or_false, forall_eq_or_imp, forall_eq] at hv
  obtain ⟨h1, h2, h3⟩ := hv
  exact ⟨h1.trans (by rw [bitsOf, Nat.pow_zero, Nat.div_one]; rfl), h2, h3.trans (Nat.zero_mod _), hk⟩

/-- How a write of REL_UNDO_CFG ends: the log is valid, and then lies in LPDDR memory of the partition, or it is not, which raises
a cause where it is enabled (R355). -/
inductive UndoJudged (u : State) (q : Nat) : State → Prop
  | off : on u (REL_UNDO_CFG_en q) = false → UndoJudged u q (wr u (REL_UNDO_CFG_valid q) 0)
  | good : on u (REL_UNDO_CFG_en q) = true → lpdSpanOk u q (undoBase u q) (undoBytes u q) = true →
      UndoJudged u q (wr u (REL_UNDO_CFG_valid q) 1)
  | bad : on u (REL_UNDO_CFG_en q) = true → UndoJudged u q (raise (wr u (REL_UNDO_CFG_valid q) 0) REL_CAUSE_cause 6)

theorem exec_undoLogEnable {s : State} {fn q : Nat} (hf : fnOwns s fn q = true) (v : Word64) :
    Gives (.undoLogEnable fn q v) s (UndoJudged (undoWritten s q v.toNat) q) := by
  refine ⟨_, rfl, ?_⟩
  rw [if_neg (by simp [hf])]
  extract_lets w s1 s2 n stored ok
  have h2 : s2 = undoWritten s q v.toNat := rfl
  clear_value s2
  subst h2
  split
  next h => exact .off (by simpa using h)
  next h =>
    have hen : on (undoWritten s q v.toNat) (REL_UNDO_CFG_en q) = true := by simpa using h
    split
    next hok =>
      simp only [ok, Bool.and_eq_true] at hok
      exact .good hen hok.1
    · exact .bad hen

theorem UndoJudged.frame {u t : State} {q : Nat} (h : UndoJudged u q t) :
    FieldsKept u t [REL_UNDO_CFG_valid q, REL_CAUSE_cause] ∧ RegsOnly u t := by
  cases h with
  | off => exact ⟨(fieldsKept_wr _ _ _).mono (by simp), rfl⟩
  | good => exact ⟨(fieldsKept_wr _ _ _).mono (by simp), rfl⟩
  | bad => exact ⟨((fieldsKept_wr u _ _).mono (by simp)).trans ((fieldsKept_wr _ REL_CAUSE_cause _).mono (by simp)), rfl⟩

/-- Whether a log that is enabled is valid, with its cause where it is not (R355). -/
theorem UndoJudged.valid {u t : State} {q : Nat} (h : UndoJudged u q t) :
    (on u (REL_UNDO_CFG_en q) = false → rd t (REL_UNDO_CFG_valid q) = 0) ∧
      (on u (REL_UNDO_CFG_en q) = true →
        (rd t (REL_UNDO_CFG_valid q) = 1 ∧ lpdSpanOk u q (undoBase u q) (undoBytes u q) = true) ∨
          rd t (REL_UNDO_CFG_valid q) = 0 ∧ flag t REL_CAUSE_cause 6 = true) := by
  cases h with
  | off h => exact ⟨fun _ => by simp, fun h' => absurd (h.symm.trans h') (by decide)⟩
  | good h hs => exact ⟨fun h' => absurd (h.symm.trans h') (by decide), fun _ => .inl ⟨by rw [rd_wr_self]; rfl, hs⟩⟩
  | bad h =>
    refine ⟨fun h' => absurd (h.symm.trans h') (by decide), fun _ => .inr ⟨?_, flag_raise_self _ (by decide)⟩⟩
    rw [rd_raise_ne _ _ (by simp [Fld.key, REL_UNDO_CFG_valid, REL_UNDO_CFG, REL_CAUSE_cause, REL_CAUSE]; omega), rd_wr_self]
    rfl

theorem undoLogEnable_judges {s : State} {fn q : Nat} (hf : fnOwns s fn q = true) (v : Word64) :
    Gives (.undoLogEnable fn q v) s fun t =>
      rd t (REL_UNDO_CFG_log2_bytes q) = bitsOf v.toNat 0 5 ∧ rd t (REL_UNDO_CFG_en q) = bitsOf v.toNat 5 1 ∧
        rd t (REL_UNDO_CFG_used q) = 0 ∧ Store.get? t.undoRun q = none ∧
        (bitOf v.toNat 5 = false → rd t (REL_UNDO_CFG_valid q) = 0) ∧
        (bitOf v.toNat 5 = true →
          (rd t (REL_UNDO_CFG_valid q) = 1 ∨ (rd t (REL_UNDO_CFG_valid q) = 0 ∧ flag t REL_CAUSE_cause 6 = true)) ∧
            (rd t (REL_UNDO_CFG_valid q) = 1 → lpdSpanOk s q (undoBase s q) (undoBytes t q) = true)) ∧
        FieldsKept s t [REL_UNDO_CFG_log2_bytes q, REL_UNDO_CFG_en q, REL_UNDO_CFG_used q, REL_UNDO_CFG_valid q, REL_CAUSE_cause] ∧
        t = { s with regs := t.regs, undoRun := t.undoRun } := by
  obtain ⟨t, he, hj⟩ := exec_undoLogEnable hf v
  obtain ⟨hlog, hen, hused, hkept⟩ := undoWritten_fields s q v.toNat
  obtain ⟨hk, hr⟩ := hj.frame
  obtain ⟨hoff, hon⟩ := hj.valid
  have hcfg : ∀ f ∈ [REL_UNDO_CFG_log2_bytes q, REL_UNDO_CFG_en q, REL_UNDO_CFG_used q], rd t f = rd (undoWritten s q v.toNat) f := by
    intro f hf
    refine hk f ?_
    simp only [List.mem_cons, List.not_mem_nil, or_false] at hf
    obtain rfl | rfl | rfl := hf
    all_goals
      simp only [List.mem_cons, List.not_mem_nil, or_false, forall_eq_or_imp, forall_eq, Fld.key, REL_UNDO_CFG_log2_bytes,
        REL_UNDO_CFG_en, REL_UNDO_CFG_used, REL_UNDO_CFG_valid, REL_UNDO_CFG, REL_CAUSE_cause, REL_CAUSE]
      omega
  have hbit : on (undoWritten s q v.toNat) (REL_UNDO_CFG_en q) = bitOf v.toNat 5 := by
    rw [on, hen, bitsOf, bitOf]
    obtain h | h := Nat.mod_two_eq_zero_or_one (v.toNat / 2 ^ 5)
    · rw [Nat.pow_one, h]; rfl
    · rw [Nat.pow_one, h]; rfl
  have hbase : undoBase (undoWritten s q v.toNat) q = undoBase s q := by
    rw [undoBase, hkept, undoBase]
    simp [Fld.key, REL_UNDO_CFG_log2_bytes, REL_UNDO_CFG_en, REL_UNDO_CFG_used, REL_UNDO_CFG, REL_UNDO_BASE_base, REL_UNDO_BASE]
    omega
  have hbytes : undoBytes t q = undoBytes (undoWritten s q v.toNat) q := by
    rw [undoBytes, undoBytes, hcfg _ (by simp)]
  have hu := undoOnly_undoWritten s q v.toNat
  rw [hbit] at hoff hon
  rw [hbase, ← hbytes, hu.lpdSpanOk] at hon
  refine ⟨t, he, (hcfg _ (by simp)).trans hlog, (hcfg _ (by simp)).trans hen, (hcfg _ (by simp)).trans hused, ?_, hoff, fun h5 => ?_, ?_, ?_⟩
  · have herase : t.undoRun = Store.erase s.undoRun q := by rw [hr, undoWritten]
    rw [herase, Store.get?_erase_self]
  · obtain ⟨h1, hs⟩ | ⟨h0, hc⟩ := hon h5
    · exact ⟨.inl h1, fun _ => hs⟩
    · exact ⟨.inr ⟨h0, hc⟩, fun h1 => absurd (h0.symm.trans h1) (by decide)⟩
  · exact (hkept.mono (by simp)).trans (hk.mono (by simp))
  · exact hu.trans hr.undoOnly

/-- Whether the locker store of a partition is valid depends on its registers and on none beside them (R184). -/
theorem lockerValid_congr {s t : State} {q : Nat} (hr : RegsOnly s t)
    (hf : ∀ f ∈ [LPD_LKS_BASE_base q, LPD_LKS_HEAD_head_base q, LPD_LKS_COUNT_count q, LPD_LKS_SHAPE_locker_units q,
      LPD_LKS_SHAPE_event_units q], rd t f = rd s f) : lockerValid t q = lockerValid s q := by
  have hspan := UndoOnly.lpdSpanOk hr.undoOnly q
  simp only [List.mem_cons, List.not_mem_nil, or_false, forall_eq_or_imp, forall_eq] at hf
  obtain ⟨hb, hh, hn, hl, he⟩ := hf
  rw [lockerValid, lockerBytes, eventBytes, hb, hh, hn, hl, he, hspan, hspan, lockerValid, lockerBytes, eventBytes]

/-- A locker store whose base has been written: judged anew, and its cause raised where its description is complete and bad (R184). -/
inductive StoreJudged (u : State) (q : Nat) : State → Prop
  | ok : StoreJudged u q (wr u (LPD_LKS_SHAPE_valid q) (b2n (lockerValid u q)))
  | bad : StoreJudged u q (raise (wr u (LPD_LKS_SHAPE_valid q) (b2n (lockerValid u q))) LPD_CAUSE_cause 2)

theorem StoreJudged.frame {u t : State} {q : Nat} (h : StoreJudged u q t) :
    FieldsKept u t [LPD_LKS_SHAPE_valid q, LPD_CAUSE_cause] ∧ RegsOnly u t ∧
      rd t (LPD_LKS_SHAPE_valid q) = b2n (lockerValid u q) := by
  have hv : b2n (lockerValid u q) % 2 ^ (LPD_LKS_SHAPE_valid q).w = b2n (lockerValid u q) := by
    cases lockerValid u q <;> rfl
  cases h with
  | ok => exact ⟨(fieldsKept_wr _ _ _).mono (by simp), regsOnly_wr _ _ _, (rd_wr_self _ _ _).trans hv⟩
  | bad =>
    refine ⟨((fieldsKept_wr u _ _).mono (by simp)).trans ((fieldsKept_wr _ LPD_CAUSE_cause _).mono (by simp)),
      (regsOnly_wr u _ _).trans (regsOnly_wr _ _ _), ?_⟩
    rw [rd_raise_ne _ _ (by simp [Fld.key, LPD_LKS_SHAPE_valid, LPD_LKS_SHAPE, LPD_CAUSE_cause, LPD_CAUSE]; omega), rd_wr_self, hv]

theorem exec_lksRegisterWrite_base {s : State} {fn q : Nat} (hq : q < 8) (hf : fnOwns s fn q = true) (hl : partLoaded s q = false)
    (v : Word64) : Gives (.lksRegisterWrite fn (LPD_LKS_BASE q) v) s (StoreJudged (wr s (LPD_LKS_BASE_base q) v.toNat) q) := by
  have hoff : (LPD_LKS_BASE q - 0x60100) / 0x20 = q := by rw [LPD_LKS_BASE]; omega
  have hreg : (LPD_LKS_BASE q - 0x60100) % 0x20 / 8 = 0 := by rw [LPD_LKS_BASE]; omega
  have hin : ¬ (LPD_LKS_BASE q < 0x60100 ∨ 0x60200 ≤ LPD_LKS_BASE q ∨ (!fnOwns s fn q) = true) := by
    rw [LPD_LKS_BASE, hf]
    simp
    omega
  refine ⟨_, rfl, ?_⟩
  rw [hoff, if_neg hin, if_neg (by simp [hl]), hreg]
  extract_lets w u ok u2
  split
  · exact .bad
  · exact .ok

/-- A write of LPD_LKS_BASE is refused while a job of the partition is loaded; else the store is judged anew (R184). -/
theorem lksRegisterWrite_base {s : State} {fn q : Nat} (hq : q < 8) (hf : fnOwns s fn q = true) (v : Word64) :
    Gives (.lksRegisterWrite fn (LPD_LKS_BASE q) v) s fun t =>
      if partLoaded s q = true then Writes s t [(LPD_CAUSE_cause, withBit s LPD_CAUSE_cause 3)]
      else rd t (LPD_LKS_BASE_base q) = v.toNat % 2 ^ (LPD_LKS_BASE_base q).w ∧ rd t (LPD_LKS_SHAPE_valid q) = b2n (lockerValid t q) ∧
        FieldsKept s t [LPD_LKS_BASE_base q, LPD_LKS_SHAPE_valid q, LPD_CAUSE_cause] ∧ t = { s with regs := t.regs } := by
  cases hl : partLoaded s q with
  | true =>
    refine ⟨raise s LPD_CAUSE_cause 3, ?_, writes_wr s LPD_CAUSE_cause _⟩
    have hoff : (LPD_LKS_BASE q - 0x60100) / 0x20 = q := by rw [LPD_LKS_BASE]; omega
    have hlo : ¬ LPD_LKS_BASE q < 0x60100 := by rw [LPD_LKS_BASE]; omega
    have hhi : ¬ 0x60200 ≤ LPD_LKS_BASE q := by rw [LPD_LKS_BASE]; omega
    simp [exec, execLksRegisterWrite, hoff, hlo, hhi, hf, hl]
  | false =>
    obtain ⟨t, he, hj⟩ := exec_lksRegisterWrite_base hq hf hl v
    obtain ⟨hk, hr, hvalid⟩ := hj.frame
    have hkeep : ∀ f ∈ [LPD_LKS_BASE_base q, LPD_LKS_HEAD_head_base q, LPD_LKS_COUNT_count q, LPD_LKS_SHAPE_locker_units q,
        LPD_LKS_SHAPE_event_units q], rd t f = rd (wr s (LPD_LKS_BASE_base q) v.toNat) f := by
      intro f hf
      refine hk f ?_
      simp only [List.mem_cons, List.not_mem_nil, or_false] at hf
      obtain rfl | rfl | rfl | rfl | rfl := hf
      all_goals
        simp only [List.mem_cons, List.not_mem_nil, or_false, forall_eq_or_imp, forall_eq, Fld.key, LPD_LKS_BASE_base,
          LPD_LKS_HEAD_head_base, LPD_LKS_COUNT_count, LPD_LKS_SHAPE_locker_units, LPD_LKS_SHAPE_event_units, LPD_LKS_SHAPE_valid,
          LPD_LKS_BASE, LPD_LKS_HEAD, LPD_LKS_COUNT, LPD_LKS_SHAPE, LPD_CAUSE_cause, LPD_CAUSE]
        omega
    refine ⟨t, he, ?_⟩
    beta_reduce
    rw [if_neg Bool.false_ne_true]
    refine ⟨(hkeep _ (by simp)).trans (rd_wr_self s _ _), ?_, ((fieldsKept_wr s _ _).mono (by simp)).trans (hk.mono (by simp)),
      (regsOnly_wr s _ _).trans hr⟩
    rw [lockerValid_congr hr hkeep, hvalid]

/-- Settles O43, clause by clause: the commits (`mapCommit_accepted`, `mapCommit_rejected`), the scrubs, the tests that end, the undo
log (`UndoJudged`) and the locker store. -/
theorem mapsScrubsAndStores : Obligations.MapsScrubsAndStores := by
  unfold Obligations.MapsScrubsAndStores
  refine ⟨fun s hf => ?_, fun s sq d hs hk => scrub_memory hs hk, fun s sq k d hs hk hb hk' ht hp ho => scrub_site hs hk hb hk' ht hp ho,
    fun s sq k d hf hd ht => siteTestDone_passed hf hd ht, fun s sq k c i d hf hd ht _ _ => siteTestDone_failed hf hd ht c i,
    fun s sq n d hf hd => memoryScrubDone_completes hf hd n, fun s fn q v _ hf => undoLogEnable_judges hf v,
    fun s fn q v hq hf => lksRegisterWrite_base hq hf v⟩
  by_cases hr : mapReason s = 0
  · obtain ⟨t, he, ht⟩ := mapCommit_accepted hf hr
    exact ⟨t, he, (if_pos hr).mpr ht⟩
  · obtain ⟨t, he, ht⟩ := mapCommit_rejected hf hr
    exact ⟨t, he, (if_neg hr).mpr ht⟩

end Sys2Proof.Machine
end

section
namespace Sys2Proof.Machine

/-! ## Power-up and boot (18_reset_and_bringup.md, R433 to R443; R16, R396, R397, R456 to R461) -/

/-! ### The rails (R439, R440, R456 to R458) -/

theorem rampUp_eq (s : State) : rampUp s = { s with boot := { s.boot with
    rails := if s.boot.pwrEn = true ∧ s.boot.vinOk = true ∧ s.boot.rails = 0 then 1 else s.boot.rails } } := by
  unfold rampUp modBoot
  by_cases h : s.boot.pwrEn = true ∧ s.boot.vinOk = true ∧ s.boot.rails = 0
  · rw [if_pos h, if_pos (by simpa [and_assoc] using h)]
  · rw [if_neg h, if_neg (by simpa [and_assoc] using h)]

/-- PWR_EN asserted 100 ms after its last release lets the rails ramp (R439, R456). -/
theorem powerUp_ramps {s : State} (hp : s.boot.pwrEn = false) (hv : s.boot.vinOk = true) (hr : s.boot.rails = 0)
    (hg : ∀ i, s.boot.enOff = some i → i + 100000000 ≤ s.now) :
    exec .powerUp s = .next { s with boot := { s.boot with pwrEn := true, enHeld := false, rails := 1 } } ∧
      (s.boot.enHeld = true → exec .pwrEnHoldEnd s = exec .powerUp s) := by
  have hgap : enGapOver s = true := by
    unfold enGapOver
    split
    next i hi => exact decide_eq_true (hg i hi)
    · rfl
  have hx : exec .powerUp s = .next (rampUp (modBoot s fun b => { b with pwrEn := true, enHeld := false })) := by
    simp [exec, execPowerUp, hp, hgap]
  refine ⟨?_, fun he => ?_⟩
  · rw [hx, rampUp_eq]
    simp [modBoot, hv, hr]
  · rw [hx]
    simp [exec, execPwrEnHoldEnd, he, hgap]

/-- Earlier it is held (R456). -/
theorem powerUp_held {s : State} (hp : s.boot.pwrEn = false) {i : Nat} (hi : s.boot.enOff = some i) (hn : s.now < i + 100000000) :
    exec .powerUp s = .next { s with boot := { s.boot with enHeld := true } } ∧ exec .pwrEnHoldEnd s = .next s := by
  have hgap : enGapOver s = false := by
    simp only [enGapOver, hi]
    exact decide_eq_false (by omega)
  refine ⟨?_, ?_⟩
  · simp [exec, execPowerUp, hp, hgap, modBoot]
  · simp [exec, execPwrEnHoldEnd, hgap]

theorem vinReturn_ramps (s : State) : exec .vinReturn s = .next { s with boot := { s.boot with
    vinOk := true
    rails := if s.boot.pwrEn = true ∧ s.boot.rails = 0 then 1 else s.boot.rails } } := by
  have h := rampUp_eq (modBoot s fun b => { b with vinOk := true })
  simp only [modBoot, true_and] at h
  exact congrArg Host.Outcome.next h

/-- A restart keeps the boot record and nothing of the work, whatever registers are then written (R433). -/
theorem wrs_restart_lost (s : State) (m : List Host.Cell) (l : List (Fld × Nat)) :
    let u := wrs (restart s (fun _ => false) m) l
    u.boot = s.boot ∧ u.mem = m ∧ u.jobs = [] ∧ u.tiles = [] ∧ u.sec = SecSt.init := by
  simp [restart, State.reset]

/-- The state as the rails are good: the straps and the fused svn are in their fields, and the dies are held in reset (R397, R439,
R453). -/
theorem railsGood_samples {s : State} (hr : s.boot.rails = 1) (d : Bool) (b : BitVec 4) : Gives (.railsGood d b) s fun t =>
    rd t SEC_STATUS_fuse_svn = max (rd s SEC_STATUS_fuse_svn) (s.boot.svnNext.getD 0) % 2 ^ 8 ∧ rd t DBL_STATUS_id = b2n d ∧
      rd t HST_RESET_STATUS_board_id = b.toNat ∧ t.boot.rails = 2 ∧ t.boot.goodAt = s.now ∧ t.boot.held = true ∧
      t.boot.deferred = !s.boot.perst ∧ t.boot.svnNext = none ∧ t.mem = [] ∧ t.jobs = [] ∧ .pin "PWR_GOOD" true ∈ t.out := by
  have hx : exec (.railsGood d b) s = .next _ := congrArg Host.Outcome.next (if_neg (not_not.2 hr))
  obtain ⟨-, hv, -⟩ := writes_wrs (restart s (fun _ => false) []) (l := [(SEC_STATUS_fuse_svn,
    max (rd s SEC_STATUS_fuse_svn) (s.boot.svnNext.getD 0)), (DBL_STATUS_id, b2n d), (HST_RESET_STATUS_board_id, b.toNat)])
    (by simp only [List.map_cons, List.map_nil]; decide)
  simp only [List.map_cons, List.map_nil, List.mem_cons, List.not_mem_nil, or_false, forall_eq_or_imp, forall_eq] at hv
  obtain ⟨hsvn, hid, hboard⟩ := hv
  obtain ⟨hboot, hmem, hjobs, -, -⟩ := wrs_restart_lost s [] [(SEC_STATUS_fuse_svn,
    max (rd s SEC_STATUS_fuse_svn) (s.boot.svnNext.getD 0)), (DBL_STATUS_id, b2n d), (HST_RESET_STATUS_board_id, b.toNat)]
  refine ⟨_, hx, hsvn, hid.trans ?_, hboard.trans (Nat.mod_eq_of_lt b.isLt), rfl, rfl, rfl, ?_, rfl, hmem, hjobs, List.mem_cons_self⟩
  · cases d <;> rfl
  · exact congrArg (fun x : BootSt => !x.perst) hboot

/-- The power gone: nothing is kept but the fuses, and what the boot record says of PWR_EN and Vin (R433, R440). -/
theorem powerOff_lost {s : State} (hr : s.boot.rails ≠ 0) :
    (powerOff s).mem = [] ∧ (powerOff s).jobs = [] ∧ (powerOff s).tiles = [] ∧ (powerOff s).sec = SecSt.init ∧
      rd (powerOff s) SEC_STATUS_fuse_svn = rd s SEC_STATUS_fuse_svn % 2 ^ 8 ∧ .pin "PWR_GOOD" false ∈ (powerOff s).out ∧
      (powerOff s).boot.rails = 0 ∧ (powerOff s).boot.pwrEn = s.boot.pwrEn := by
  obtain ⟨hboot, hmem, hjobs, htiles, hsec⟩ := wrs_restart_lost s [] [(SEC_STATUS_fuse_svn, rd s SEC_STATUS_fuse_svn)]
  rw [powerOff, if_neg hr]
  exact ⟨hmem, hjobs, htiles, hsec, rd_wr_self (restart s (fun _ => false) []) _ _, List.mem_cons_of_mem _ List.mem_cons_self, rfl,
    (congrArg BootSt.pwrEn hboot :)⟩

theorem powerDown_loses {s : State} (hr : s.boot.rails ≠ 0) (hp : s.boot.pwrEn = true) : Gives .powerDown s fun t =>
    t.boot.pwrEn = false ∧ t.boot.enOff = some s.now ∧ t.boot.rails = 0 ∧ t.mem = [] ∧
      t.jobs = [] ∧ t.tiles = [] ∧ t.sec = SecSt.init ∧ rd t SEC_STATUS_fuse_svn = rd s SEC_STATUS_fuse_svn % 2 ^ 8 ∧
      .pin "PWR_GOOD" false ∈ t.out := by
  obtain ⟨hmem, hjobs, htiles, hsec, hsvn, hpin, hrails, -⟩ := powerOff_lost hr
  refine ⟨modBoot (powerOff s) fun b => { b with pwrEn := false, enHeld := false, enOff := some s.now }, ?_, rfl, rfl, hrails, hmem,
    hjobs, htiles, hsec, hsvn, hpin⟩
  simp [exec, execPowerDown, hp]

theorem vinLeaveWindow_loses {s : State} (hr : s.boot.rails ≠ 0) : Gives .vinLeaveWindow s fun t =>
    t.boot.vinOk = false ∧ t.boot.rails = 0 ∧ t.mem = [] ∧ t.jobs = [] ∧ t.tiles = [] ∧
      t.boot.pwrEn = s.boot.pwrEn ∧ .pin "PWR_GOOD" false ∈ t.out := by
  obtain ⟨hmem, hjobs, htiles, -, -, hpin, hrails, hen⟩ := powerOff_lost hr
  exact ⟨_, rfl, rfl, hrails, hmem, hjobs, htiles, hen, hpin⟩

/-! ### The die test and the preparation of memory (R16, R441) -/

/-- What the die test writes: what it found, dies and stacks not fitted as 0 (R16, R180). -/
def dieTestWrites (s : State) (r : DieTest) : List (Fld × Nat) :=
  [(HST_DIE_STATUS_compute_ok, r.computeOk.toNat % 2 ^ s.part.dies), (HST_DIE_STATUS_hub_ok, r.hubOk.toNat),
    (HST_DIE_STATUS_net_ok, r.netOk.toNat), (HST_DIE_STATUS_control_ok, b2n r.controlOk),
    (HST_DIE_STATUS_lpd_stack_ok, r.lpdOk.toNat % 2 ^ s.part.stacksFitted), (HST_DIE_STATUS_test_done, 1), (LPD_STATUS_rate, r.rate.toNat)]

/-- The result of a die test fits its fields. -/
theorem writes_dieTest (s : State) (r : DieTest) : Writes s (wrs s (dieTestWrites s r)) (dieTestWrites s r) := by
  have h := writes_wrs s (l := dieTestWrites s r)
    (by simp only [dieTestWrites, List.map_cons, List.map_nil]; decide)
  have hfit : (dieTestWrites s r).map (fun p => (p.1, p.2 % 2 ^ p.1.w)) = dieTestWrites s r := by
    have hc := Nat.mod_eq_of_lt ((Nat.mod_le _ (2 ^ s.part.dies)).trans_lt r.computeOk.isLt)
    have hl := Nat.mod_eq_of_lt ((Nat.mod_le _ (2 ^ s.part.stacksFitted)).trans_lt r.lpdOk.isLt)
    have hk : b2n r.controlOk % 2 ^ 1 = b2n r.controlOk := by cases r.controlOk <;> rfl
    simp only [dieTestWrites, List.map_cons, List.map_nil, HST_DIE_STATUS_compute_ok, HST_DIE_STATUS_hub_ok, HST_DIE_STATUS_net_ok,
      HST_DIE_STATUS_control_ok, HST_DIE_STATUS_lpd_stack_ok, HST_DIE_STATUS_test_done, LPD_STATUS_rate, hc, hl, hk,
      Nat.mod_eq_of_lt r.hubOk.isLt, Nat.mod_eq_of_lt r.netOk.isLt, Nat.mod_eq_of_lt r.rate.isLt]
    rfl
  rwa [hfit] at h

theorem dieTestDone_sets {s : State} (hb : booting s = true) (ht : on s HST_DIE_STATUS_test_done = false) (r : DieTest) :
    Gives (.dieTestDone r) s fun t =>
      rd t HST_DIE_STATUS_test_done = 1 ∧ rd t HST_DIE_STATUS_compute_ok = r.computeOk.toNat % 2 ^ s.part.dies ∧
        rd t HST_DIE_STATUS_hub_ok = r.hubOk.toNat ∧ rd t HST_DIE_STATUS_net_ok = r.netOk.toNat ∧
        rd t HST_DIE_STATUS_lpd_stack_ok = r.lpdOk.toNat % 2 ^ s.part.stacksFitted ∧ rd t LPD_STATUS_rate = r.rate.toNat ∧
        (r.hubOk.toNat ≠ 15 ∨ r.netOk.toNat ≠ 3 ∨ r.controlOk = false → rd t HST_BOOT_state = 7) ∧ t.mem = s.mem ∧ t.jobs = s.jobs := by
  obtain ⟨hw, hv, -⟩ := writes_dieTest s r
  obtain ⟨he, hk⟩ := evalFailed_frame (wrs s (dieTestWrites s r))
  have hx : exec (.dieTestDone r) s = .next (if r.hubOk.toNat ≠ 15 ∨ r.netOk.toNat ≠ 3 ∨ r.controlOk = false then
      setBoot (evalFailed (wrs s (dieTestWrites s r))) 7 else evalFailed (wrs s (dieTestWrites s r))) :=
    congrArg Host.Outcome.next (if_neg (by simp [hb, ht]))
  have hjobs : (evalFailed (wrs s (dieTestWrites s r))).jobs = s.jobs := by rw [he, wrs_jobs]
  have hmem : (evalFailed (wrs s (dieTestWrites s r))).mem = s.mem := by rw [he, wrs_mem]
  have hfound : ∀ p ∈ dieTestWrites s r, rd (evalFailed (wrs s (dieTestWrites s r))) p.1 = p.2 ∧ p.1.key ≠ HST_BOOT_state.key := by
    intro p hp
    have hne : p.1.key ∉ [REL_STATUS_failed, REL_CAUSE_cause, HST_BOOT_state].map Fld.key := by
      revert hp
      simp only [dieTestWrites, List.mem_cons, List.not_mem_nil, or_false]
      rintro (rfl | rfl | rfl | rfl | rfl | rfl | rfl) <;> dsimp only <;> decide
    refine ⟨(hk p.1 fun g hg heq => hne (List.mem_map.2 ⟨g, hg, heq.symm⟩)).trans (hv p hp), fun heq => hne (by simp [heq])⟩
  revert hx hjobs hmem hfound
  generalize evalFailed (wrs s (dieTestWrites s r)) = u
  intro hx hjobs hmem hfound
  have hset : ∀ p ∈ dieTestWrites s r, rd (setBoot u 7) p.1 = p.2 := fun p hp =>
    (rd_wr_ne u 7 (hfound p hp).2).trans (hfound p hp).1
  by_cases hbad : r.hubOk.toNat ≠ 15 ∨ r.netOk.toNat ≠ 3 ∨ r.controlOk = false
  · rw [if_pos hbad] at hx
    simp only [dieTestWrites, List.mem_cons, List.not_mem_nil, or_false, forall_eq_or_imp, forall_eq] at hset
    obtain ⟨hc, hh, hn, -, hl, hd, hr⟩ := hset
    exact ⟨_, hx, hd, hc, hh, hn, hl, hr, fun _ => rd_wr_self u HST_BOOT_state 7, hmem, hjobs⟩
  · rw [if_neg hbad] at hx
    simp only [dieTestWrites, List.mem_cons, List.not_mem_nil, or_false, forall_eq_or_imp, forall_eq] at hfound
    obtain ⟨⟨hc, -⟩, ⟨hh, -⟩, ⟨hn, -⟩, -, ⟨hl, -⟩, ⟨hd, -⟩, hr, -⟩ := hfound
    exact ⟨_, hx, hd, hc, hh, hn, hl, hr, fun h => absurd h hbad, hmem, hjobs⟩

/-- Memory with some addresses dropped reads as the default there, and elsewhere as before. -/
theorem Memory.read_filter (m : List Host.Cell) (f : Nat → Bool) (b : Nat) :
    Memory.read (m.filter fun c => f c.1) b = if f b = true then Memory.read m b else Memory.read [] b := by
  induction m with
  | nil => rw [List.filter_nil, ite_self]
  | cons c m ih =>
    obtain ⟨k, x⟩ := c
    have hcons : ∀ r, Memory.read ((k, x) :: r) b = if b = k then x else Memory.read r b := fun _ => rfl
    by_cases hk : f k = true
    · rw [List.filter_cons_of_pos (p := fun c : Host.Cell => f c.1) hk, hcons, hcons, ih]
      by_cases hb : b = k
      · rw [if_pos hb, if_pos hb, if_pos (hb ▸ hk)]
      · rw [if_neg hb, if_neg hb]
    · rw [List.filter_cons_of_neg (p := fun c : Host.Cell => f c.1) hk, ih, hcons]
      by_cases hb : b = k
      · rw [if_neg (hb ▸ hk), if_neg (hb ▸ hk)]
      · rw [if_neg hb]

/-- A byte of a span zero-filled reads as the default, every other byte as before. -/
theorem read_zeroSpan (s : State) (a n b : Nat) :
    Memory.read (zeroSpan s a n).mem b = if a ≤ b ∧ b < a + n then Memory.read [] b else Memory.read s.mem b := by
  refine (Memory.read_filter s.mem (fun k => !(decide (a ≤ k) && decide (k < a + n))) b).trans ?_
  by_cases h : a ≤ b ∧ b < a + n
  · rw [if_pos h, if_neg (by simp [h])]
  · rw [if_neg h, if_pos (by simp; omega)]

/-- Spans zero-filled one after another (R441). -/
theorem read_zeroSpans (l : List (Nat × Nat)) (s : State) (b : Nat) :
    Memory.read (l.foldl (fun s p => zeroSpan s p.1 p.2) s).mem b =
      if ∃ p ∈ l, p.1 ≤ b ∧ b < p.1 + p.2 then Memory.read [] b else Memory.read s.mem b := by
  induction l generalizing s with
  | nil => simp
  | cons p l ih =>
    rw [List.foldl_cons, ih, read_zeroSpan]
    by_cases h1 : ∃ q ∈ l, q.1 ≤ b ∧ b < q.1 + q.2
    · rw [if_pos h1, if_pos (by obtain ⟨q, hq, hb⟩ := h1; exact ⟨q, List.mem_cons_of_mem _ hq, hb⟩)]
    · by_cases h2 : p.1 ≤ b ∧ b < p.1 + p.2
      · rw [if_neg h1, if_pos h2, if_pos ⟨p, List.mem_cons_self, h2⟩]
      · rw [if_neg h1, if_neg h2, if_neg]
        rintro ⟨q, hq, hb⟩
        obtain rfl | hq := List.mem_cons.1 hq
        · exact h2 hb
        · exact h1 ⟨q, hq, hb⟩

/-- What the preparation leaves of memory: nothing after a power-up, else the pages without a seal tag (R441). -/
def prepared (s : State) : State :=
  if s.boot.cold then { s with mem := [] } else s.boot.tags.foldl (fun s p => zeroSpan s p.1 p.2) s

theorem zeroSpans_eq (l : List (Nat × Nat)) (s : State) :
    l.foldl (fun s p => zeroSpan s p.1 p.2) s = { s with mem := (l.foldl (fun s p => zeroSpan s p.1 p.2) s).mem } := by
  induction l generalizing s with
  | nil => rfl
  | cons p l ih => exact ih (zeroSpan s p.1 p.2)

theorem prepared_eq (s : State) : prepared s = { s with mem := (prepared s).mem } := by
  unfold prepared
  split
  · rfl
  · exact zeroSpans_eq s.boot.tags s

theorem read_prepared (s : State) (a : Nat) :
    if s.boot.cold = true ∨ (∃ p ∈ s.boot.tags, p.1 ≤ a ∧ a < p.1 + p.2) then Memory.read (prepared s).mem a = Memory.read [] a
      else Memory.read (prepared s).mem a = Memory.read s.mem a := by
  unfold prepared
  by_cases hc : s.boot.cold = true
  · rw [if_pos (.inl hc), if_pos hc]
  · rw [if_neg hc, read_zeroSpans]
    by_cases ht : ∃ p ∈ s.boot.tags, p.1 ≤ a ∧ a < p.1 + p.2
    · rw [if_pos (.inr ht), if_pos ht]
    · rw [if_neg (not_or.2 ⟨hc, ht⟩), if_neg ht]

theorem memoryPrepDone_prepares {s : State} (hb : booting s = true) (hp : on s HST_BOOT_prep_done = false) (ms : Nat) :
    Gives (.memoryPrepDone ms) s fun t =>
      (∀ a, if s.boot.cold = true ∨ (∃ p ∈ s.boot.tags, p.1 ≤ a ∧ a < p.1 + p.2) then Memory.read t.mem a = Memory.read [] a
        else Memory.read t.mem a = Memory.read s.mem a) ∧ t.boot = { s.boot with cold := false, tags := [] } ∧
        Writes s { t with boot := s.boot, mem := s.mem } [(HST_BOOT_prep_done, 1), (HST_BOOT_prep_ms, min ms 0xFFFF)] := by
  have hx : exec (.memoryPrepDone ms) s = .next (wrs (modBoot (prepared s) fun b => { b with cold := false, tags := [] })
      [(HST_BOOT_prep_done, 1), (HST_BOOT_prep_ms, min ms 0xFFFF)]) :=
    congrArg Host.Outcome.next (if_neg (by simp [hb, hp]))
  have hread := read_prepared s
  have heq := prepared_eq s
  generalize prepared s = u at hx hread heq
  have hw := writes_wrs (modBoot u fun b => { b with cold := false, tags := [] })
    (l := [(HST_BOOT_prep_done, 1), (HST_BOOT_prep_ms, min ms 0xFFFF)]) (by simp only [List.map_cons, List.map_nil]; decide)
  rw [List.map_cons, List.map_cons, List.map_nil, Nat.mod_eq_of_lt (show 1 < 2 ^ HST_BOOT_prep_done.w by decide),
    Nat.mod_eq_of_lt (show min ms 0xFFFF < 2 ^ HST_BOOT_prep_ms.w by simp [HST_BOOT_prep_ms])] at hw
  obtain ⟨he, hv, hk⟩ := hw
  have hregs : ∀ f, rd (modBoot u fun b => { b with cold := false, tags := [] }) f = rd s f := fun f =>
    rd_congr f (by rw [heq]; rfl) (by rw [heq]; rfl)
  refine ⟨_, hx, fun a => ?_, ?_, ?_, hv, fun f hf => (hk f hf).trans (hregs f)⟩
  · rw [wrs_mem, modBoot_mem]
    exact hread a
  · rw [wrs_boot, heq]
    rfl
  · rw [he, heq]
    rfl

/-! ### The firmware load (R396, R442) -/

/-- A load that begins: the image is read (R442). -/
theorem beginLoad_reads (s : State) :
    rd (beginLoad s) HST_BOOT_state = 2 ∧ rd (beginLoad s) SEC_STATUS_boot = 0 ∧
      rd (beginLoad s) HST_BOOT_loads = upBy s HST_BOOT_loads 1 ∧
      .hostRead 0 (4096 * rd s HST_FW_ADDR_addr) (rd s HST_FW_LEN_len) ∈ (beginLoad s).out ∧
      (beginLoad s).boot = { s.boot with fwWait := false } := by
  have hreg : ∀ f, rd (beginLoad s) f = rd (wr (wr (bump s HST_BOOT_loads 1) SEC_STATUS_boot 0) HST_BOOT_state 2) f := fun _ => rfl
  have hkept : ∀ f : Fld, f.key ∉ [HST_BOOT_loads.key, SEC_STATUS_boot.key, HST_BOOT_state.key] →
      rd (setBoot (wr (bump s HST_BOOT_loads 1) SEC_STATUS_boot 0) 2) f = rd s f := by
    intro f hf
    simp only [List.mem_cons, List.not_mem_nil, or_false, not_or] at hf
    obtain ⟨h1, h2, h3⟩ := hf
    exact (rd_wr_ne (wr (bump s HST_BOOT_loads 1) SEC_STATUS_boot 0) 2 h3).trans ((rd_wr_ne _ 0 h2).trans (rd_bump_ne s 1 h1))
  refine ⟨?_, ?_, ?_, ?_, rfl⟩
  · rw [hreg, rd_wr_self]
    rfl
  · rw [hreg, rd_wr_ne _ _ (by decide), rd_wr_self]
    rfl
  · rw [hreg, rd_wr_ne _ _ (by decide), rd_wr_ne _ _ (by decide), rd_bump_self]
    rfl
  · rw [← hkept HST_FW_ADDR_addr (by decide), ← hkept HST_FW_LEN_len (by decide)]
    exact List.mem_cons_self

theorem mayLoad_of_state {s : State} (hb : booting s = true) (hs : rd s HST_BOOT_state = 1 ∨ rd s HST_BOOT_state = 6) :
    mayLoad s = true := by
  obtain hs | hs := hs <;> simp [mayLoad, hb, hs]

/-- A load begins once Bus Master Enable is set, and waits for it until then (R442). -/
theorem fwLoad_reads {s : State} (hb : booting s = true) (hs : rd s HST_BOOT_state = 1 ∨ rd s HST_BOOT_state = 6) :
    (fnPhys s 0 = true → s.boot.bme = true → Gives (.fwLoad 0) s fun t => rd t HST_BOOT_state = 2 ∧ rd t SEC_STATUS_boot = 0 ∧
        rd t HST_BOOT_loads = upBy s HST_BOOT_loads 1 ∧ .hostRead 0 (4096 * rd s HST_FW_ADDR_addr) (rd s HST_FW_LEN_len) ∈ t.out) ∧
      (fnPhys s 0 = true → s.boot.bme = false → exec (.fwLoad 0) s = .next { s with boot := { s.boot with fwWait := true } }) := by
  have hl := mayLoad_of_state hb hs
  obtain ⟨hstate, hsec, hloads, hread, -⟩ := beginLoad_reads s
  exact ⟨fun hf hm => ⟨beginLoad s, by simp [exec, execFwLoad, hf, hl, hm], hstate, hsec, hloads, hread⟩,
    fun hf hm => by simp [exec, execFwLoad, hf, hl, hm, modBoot]⟩

theorem busMasterEnable_reads {s : State} (hb : booting s = true) (hs : rd s HST_BOOT_state = 1 ∨ rd s HST_BOOT_state = 6) :
    (s.boot.fwWait = true → Gives .busMasterEnable s fun t => rd t HST_BOOT_state = 2 ∧ t.boot.bme = true ∧ t.boot.fwWait = false ∧
        .hostRead 0 (4096 * rd s HST_FW_ADDR_addr) (rd s HST_FW_LEN_len) ∈ t.out) ∧
      (s.boot.fwWait = false → exec .busMasterEnable s = .next { s with boot := { s.boot with bme := true } }) := by
  set u := modBoot s fun b => { b with bme := true } with hu
  have hl : mayLoad u = true := mayLoad_of_state (s := u) hb hs
  obtain ⟨hstate, -, -, hread, hboot⟩ := beginLoad_reads u
  refine ⟨fun hw => ⟨beginLoad u, congrArg Host.Outcome.next (if_pos ?_), hstate, by rw [hboot]; rfl, by rw [hboot], hread⟩,
    fun hw => congrArg Host.Outcome.next (if_neg ?_)⟩
  · exact Bool.and_eq_true_iff.2 ⟨hw, hl⟩
  · exact fun h => absurd ((Bool.and_eq_true_iff.1 h).1.symm.trans hw) (by decide)

/-! ### The checks of the image (R396) -/

theorem leNat_lt_of_length {b : Bytes} {n : Nat} (h : b.length ≤ n) : leNat b < 256 ^ n := by
  induction b generalizing n with
  | nil => exact Nat.pow_pos (by decide)
  | cons x b ih =>
    obtain ⟨n, rfl⟩ : ∃ m, n = m + 1 := ⟨n - 1, by simp at h; omega⟩
    have hb := ih (n := n) (by simpa using h)
    have hx := x.isLt
    rw [leNat, Nat.pow_succ]
    omega

/-- A field of `n` bytes is below 2^(8 n). -/
theorem fieldLE_lt (b : Bytes) (off n : Nat) : fieldLE b off n < 256 ^ n := by
  refine leNat_lt_of_length ?_
  simp only [sliceB, List.length_append, List.length_take, List.length_replicate]
  omega

theorem fwCheck_lt (s : State) (b : Bytes) : fwCheck s b < 2 ^ SEC_STATUS_boot.w := by
  unfold fwCheck
  extract_lets f reserved msg modulus slhKey
  repeat' split
  all_goals decide

theorem fwCheck_bad_magic (s : State) {b : Bytes} (h : fieldLE b 0 4 ≠ 0x4957464F) : fwCheck s b = 2 := if_pos (.inl h)

theorem fwCheck_no_key (s : State) {b : Bytes} (h : Config.fwKeyHash (fieldLE b 6 1) = none) : fwCheck s b = 2 ∨ fwCheck s b = 3 := by
  unfold fwCheck
  extract_lets f reserved msg modulus slhKey
  split
  · exact .inl rfl
  · exact .inr (if_pos (.inr (by rw [show f 6 1 = fieldLE b 6 1 from rfl, h]; rfl)))

/-- The checks of an image that pass start the cores; one that fails leaves BOOT_FAILED (R396, R442). -/
theorem fwVerified_decides {s : State} {b img : Bytes} (hb : booting s = true) (hs : rd s HST_BOOT_state = 2)
    (hi : b = sliceB img 0 (rd s HST_FW_LEN_len)) :
    Gives (.fwVerified img) s fun t => rd t SEC_STATUS_boot = fwCheck s b ∧ rd t HST_BOOT_state = (if fwCheck s b = 1 then 4 else 6) ∧
      (fwCheck s b = 1 → rd t SEC_STATUS_fw_svn = fieldLE b 8 4 ∧ t.boot.fwDigest = sha384 (sliceB b 0 0x200 ++ b.drop 0x4300)) ∧
      (fieldLE b 0 4 ≠ 0x4957464F → rd t SEC_STATUS_boot = 2) ∧
      (Config.fwKeyHash (fieldLE b 6 1) = none → rd t SEC_STATUS_boot = 2 ∨ rd t SEC_STATUS_boot = 3) ∧ t.mem = s.mem := by
  have hx : exec (.fwVerified img) s = .next (if fwCheck s b = 1 then
      setBoot (modBoot (wr (wr s SEC_STATUS_boot (fwCheck s b)) SEC_STATUS_fw_svn (fieldLE b 8 4)) fun x =>
        { x with fwDigest := sha384 (sliceB b 0 0x200 ++ b.drop 0x4300) }) 4
      else setBoot (wr s SEC_STATUS_boot (fwCheck s b)) 6) := by
    rw [hi]
    exact congrArg Host.Outcome.next (if_neg (by simp [hb, hs]))
  have hlt := fwCheck_lt s b
  have hmagic := fwCheck_bad_magic s (b := b)
  have hkey := fwCheck_no_key s (b := b)
  have hsvn : fieldLE b 8 4 % 2 ^ SEC_STATUS_fw_svn.w = fieldLE b 8 4 := Nat.mod_eq_of_lt (fieldLE_lt b 8 4)
  generalize sha384 (sliceB b 0 0x200 ++ b.drop 0x4300) = digest at hx ⊢
  generalize fieldLE b 8 4 = svn at hx hsvn ⊢
  generalize fwCheck s b = c at hx hlt hmagic hkey ⊢
  have hcode : rd (wr s SEC_STATUS_boot c) SEC_STATUS_boot = c := (rd_wr_self s _ _).trans (Nat.mod_eq_of_lt hlt)
  by_cases hc : c = 1
  · rw [if_pos hc] at hx
    have hreg := fun f => rd_congr f (s := wr (wr (wr s SEC_STATUS_boot c) SEC_STATUS_fw_svn svn) HST_BOOT_state 4) (t := setBoot (modBoot
      (wr (wr s SEC_STATUS_boot c) SEC_STATUS_fw_svn svn) fun x => { x with fwDigest := digest }) 4) rfl rfl
    have hboot := (hreg SEC_STATUS_boot).trans ((rd_wr_ne _ _ (by decide)).trans ((rd_wr_ne _ _ (by decide)).trans hcode))
    refine ⟨_, hx, hboot, ?_, fun _ => ⟨?_, rfl⟩, fun h => hboot.trans (hmagic h), fun h => by rw [hboot]; exact hkey h, rfl⟩
    · rw [if_pos hc, hreg, rd_wr_self]
      rfl
    · rw [hreg, rd_wr_ne _ _ (by decide), rd_wr_self, hsvn]
  · rw [if_neg hc] at hx
    have hreg := fun f => rd_congr f (s := wr (wr s SEC_STATUS_boot c) HST_BOOT_state 6) (t := setBoot (wr s SEC_STATUS_boot c) 6) rfl rfl
    have hboot := (hreg SEC_STATUS_boot).trans ((rd_wr_ne _ _ (by decide)).trans hcode)
    refine ⟨_, hx, hboot, ?_, fun h => absurd h hc, fun h => hboot.trans (hmagic h), fun h => by rw [hboot]; exact hkey h, rfl⟩
    rw [if_neg hc, hreg, rd_wr_self]
    rfl

/-- With all done the state is READY, or FAILED (R443). -/
theorem bootReady_decides {s : State} (hb : booting s = true) (hs : rd s HST_BOOT_state = 4) : Gives .bootReady s fun t =>
    if rd s SEC_STATUS_boot = 1 ∧ on s HST_DIE_STATUS_test_done = true ∧ on s HST_BOOT_prep_done = true ∧ on s SEC_STATUS_session_ready = true
    then rd t HST_BOOT_state = (if on s REL_STATUS_failed = true then 7 else 5) ∧ FieldsKept s t [HST_BOOT_state] ∧
      t = { s with regs := t.regs, out := t.out, readyAt := t.readyAt } ∧
      (on s REL_STATUS_failed = false → .pin "READY" true ∈ t.out ∧ t.readyAt = some s.now)
    else t = s := by
  by_cases hd : rd s SEC_STATUS_boot = 1 ∧ on s HST_DIE_STATUS_test_done = true ∧ on s HST_BOOT_prep_done = true ∧
      on s SEC_STATUS_session_ready = true
  · obtain ⟨hboot, htest, hprep, hsession⟩ := hd
    have hx : exec .bootReady s = .next (if on s REL_STATUS_failed then setBoot s 7 else setBoot { s with readyAt := some s.now } 5) :=
      congrArg Host.Outcome.next (if_pos (by simp [hb, hs, hboot, htest, hprep, hsession]))
    cases hf : on s REL_STATUS_failed with
    | true =>
      rw [hf, if_pos rfl] at hx
      refine ⟨_, hx, (if_pos ⟨hboot, htest, hprep, hsession⟩).mpr ⟨?_, fieldsKept_wr s HST_BOOT_state 7, rfl, fun h => nomatch h⟩⟩
      exact rd_wr_self s HST_BOOT_state 7
    | false =>
      rw [hf, if_neg Bool.false_ne_true] at hx
      refine ⟨_, hx, (if_pos ⟨hboot, htest, hprep, hsession⟩).mpr ⟨?_, fieldsKept_wr s HST_BOOT_state 5, rfl, fun _ => ⟨?_, rfl⟩⟩⟩
      · exact rd_wr_self { s with readyAt := some s.now } HST_BOOT_state 5
      · simp [setBoot]
  · refine ⟨s, congrArg Host.Outcome.next (if_neg ?_), (if_neg hd).mpr rfl⟩
    simpa [hb, hs, and_assoc] using hd

/-- Settles O59, from the rails to READY: power (`powerUp_ramps`, `powerOff_lost`), the die test and memory (`writes_dieTest`,
`read_prepared`), the firmware (`beginLoad_reads`, `fwVerified_decides`) and the end of the boot. -/
theorem powerUpBootsToReady : Obligations.PowerUpBootsToReady := by
  unfold Obligations.PowerUpBootsToReady
  refine ⟨fun s hp hv hr => ⟨fun hg => powerUp_ramps hp hv hr hg, fun i hi hn => powerUp_held hp hi hn⟩,
    fun s d b hr => railsGood_samples hr d b, fun s hr => ⟨fun hp => powerDown_loses hr hp, vinLeaveWindow_loses hr⟩, vinReturn_ramps,
    fun s r hb ht => dieTestDone_sets hb ht r, fun s ms hb hp => memoryPrepDone_prepares hb hp ms, fun s hb hs => ?_,
    fun s b img hb hs hi => fwVerified_decides hb hs hi, fun s hb hs => bootReady_decides hb hs, fun s hb => ?_, fun s => ⟨rfl, rfl⟩⟩
  · obtain ⟨hload, hwait⟩ := fwLoad_reads hb hs
    obtain ⟨hread, henable⟩ := busMasterEnable_reads hb hs
    exact ⟨hload, hwait, hread, henable⟩
  · exact congrArg Host.Outcome.next (if_pos hb)

end Sys2Proof.Machine
end

section
namespace Sys2Proof.Machine

-- One proof after another: many at once take more memory, in a text this long, than its compile has.
set_option Elab.async false

/-! ## Writes of a few fields, one after another (00_scope.md, R8, R10, R12) -/

theorem Writes.refl (s : State) : Writes s s [] := ⟨rfl, fun _ h => absurd h List.not_mem_nil, fun _ _ => rfl⟩

/-- The value of the field at a place of the list. -/
theorem Writes.value {s t : State} {l : List (Fld × Nat)} (h : Writes s t l) (i : Nat) {f : Fld} {v : Nat}
    (hi : l[i]? = some (f, v) := by rfl) : rd t f = v :=
  h.2.1 (f, v) (List.mem_of_getElem? hi)

theorem Writes.keeps {s t : State} {l : List (Fld × Nat)} (h : Writes s t l) {f : Fld}
    (hf : ∀ g ∈ l.map (·.1), f.key ≠ g.key := by
      simp only [List.map_cons, List.map_nil, List.nil_append, List.cons_append]; decide) : rd t f = rd s f :=
  h.2.2 f hf

theorem Writes.rest {s t : State} {l : List (Fld × Nat)} (h : Writes s t l) : t = { s with regs := t.regs } := by
  obtain ⟨ht, -, -⟩ := h
  exact ht

theorem Writes.kept {s t : State} {l : List (Fld × Nat)} (h : Writes s t l) {m : List Fld} (hm : ∀ f ∈ l.map (·.1), f ∈ m) :
    FieldsKept s t m := by
  obtain ⟨-, -, hk⟩ := h
  exact hk.mono hm

/-- A field written that none before has written. -/
theorem Writes.then_wr {s t : State} {l : List (Fld × Nat)} (h : Writes s t l) (f : Fld) (v : Nat)
    (hf : ∀ g ∈ l.map (·.1), f.key ≠ g.key := by
      simp only [List.map_cons, List.map_nil, List.nil_append, List.cons_append]; decide) :
    Writes s (wr t f v) (l ++ [(f, v % 2 ^ f.w)]) := by
  obtain ⟨ht, hl, hk⟩ := h
  refine ⟨by rw [ht]; rfl, fun p hp => ?_, fun g hg => ?_⟩
  · rcases List.mem_append.1 hp with hp | hp
    · rw [rd_wr_ne _ _ (hf p.1 (List.mem_map_of_mem hp)).symm, hl p hp]
    · rw [List.mem_singleton.1 hp, rd_wr_self]
  · rw [List.map_append] at hg
    rw [rd_wr_ne _ _ (hg f (List.mem_append_right _ List.mem_cons_self)), hk g fun k hm => hg k (List.mem_append_left _ hm)]

/-- The same for a value that fits the field. -/
theorem Writes.then_set {s t : State} {l : List (Fld × Nat)} (h : Writes s t l) (f : Fld) {v : Nat} (hv : v < 2 ^ f.w)
    (hf : ∀ g ∈ l.map (·.1), f.key ≠ g.key := by
      simp only [List.map_cons, List.map_nil, List.nil_append, List.cons_append]; decide) :
    Writes s (wr t f v) (l ++ [(f, v)]) := by
  have hw := h.then_wr f v hf
  rwa [Nat.mod_eq_of_lt hv] at hw

/-- A counter advanced that nothing before has written (R12). -/
theorem Writes.then_bump {s t : State} {l : List (Fld × Nat)} (h : Writes s t l) (f : Fld) (n : Nat)
    (hf : ∀ g ∈ l.map (·.1), f.key ≠ g.key := by
      simp only [List.map_cons, List.map_nil, List.nil_append, List.cons_append]; decide) :
    Writes s (bump t f n) (l ++ [(f, upBy s f n)]) := by
  have hu : min (rd t f + n) (2 ^ f.w - 1) % 2 ^ f.w = upBy s f n := by
    rw [← rd_wr_self t f, ← bump, rd_bump_self, h.2.2 f hf, upBy]
  exact hu ▸ h.then_wr f _ hf

/-- A cause raised in a register that nothing before has written (R10). -/
theorem Writes.then_raise {s t : State} {l : List (Fld × Nat)} (h : Writes s t l) (f : Fld) (b : Nat)
    (hf : ∀ g ∈ l.map (·.1), f.key ≠ g.key := by
      simp only [List.map_cons, List.map_nil, List.nil_append, List.cons_append]; decide) :
    Writes s (raise t f b) (l ++ [(f, withBit s f b)]) := by
  have hu : (rd t f ||| 2 ^ b) % 2 ^ f.w = withBit s f b := by rw [h.2.2 f hf, withBit]
  exact hu ▸ h.then_wr f _ hf

theorem b2n_lt_two (b : Bool) : b2n b < 2 ^ 1 := by cases b <;> decide

end Sys2Proof.Machine
end

section
namespace Sys2Proof.Machine

-- One proof after another: many at once take more memory, in a text this long, than its compile has.
set_option Elab.async false

/-! ## The reference and the pulse out (02_time_and_clocking.md, R28, R29, R38) -/

/-- Writes before free values are taken are writes after. -/
theorem Writes.takeFree {s t : State} {l : List (Fld × Nat)} (h : Writes s t l) (n : Nat) :
    Writes (takeFree s n) (Machine.takeFree t n) l := by
  obtain ⟨ht, hl, hk⟩ := h
  exact ⟨by rw [ht]; rfl, hl, hk⟩

/-- The reference's state and the measured error written, and the free value taken. -/
def refMeasured (s : State) (ok use : Nat) : State :=
  takeFree (wr (wr (wr s TIM_STATUS_ref_ok ok) TIM_STATUS_ref_in_use use) TIM_REF_STATS_ref_err_ppb (Config.freeValue s.freeCtr)) 1

theorem refMeasured_writes (s : State) {ok use : Nat} (ho : ok < 2 ^ 1) (hu : use < 2 ^ 1) : ∃ e, Writes (takeFree s 1) (refMeasured s ok use)
    [(TIM_STATUS_ref_ok, ok), (TIM_STATUS_ref_in_use, use), (TIM_REF_STATS_ref_err_ppb, e)] :=
  ⟨_, ((((Writes.refl s).then_set TIM_STATUS_ref_ok ho).then_set TIM_STATUS_ref_in_use hu).then_wr TIM_REF_STATS_ref_err_ppb
    (Config.freeValue s.freeCtr)).takeFree 1⟩

theorem exec_refLost {s : State} (h : on s TIM_STATUS_ref_ok = true) :
    exec .refLost s = .next (raise (bump (refMeasured s 0 0) TIM_REF_STATS_lost_events 1) TIM_CAUSE_cause 0) :=
  congrArg Host.Outcome.next (if_neg (by simp [h]))

theorem exec_refRestored {s : State} (h : on s TIM_STATUS_ref_ok = false) :
    exec .refRestored s = .next (raise (refMeasured s 1 (b2n (!on s TIM_SRC_CFG_ref_sel))) TIM_CAUSE_cause 1) :=
  congrArg Host.Outcome.next (if_neg (by simp [h]))

/-- A state that differs from another by writes after free values were taken. -/
theorem Writes.rest_takeFree {s t : State} {n : Nat} {l : List (Fld × Nat)} (h : Writes (Machine.takeFree s n) t l) :
    t = { s with regs := t.regs, freeCtr := t.freeCtr } := by
  rw [h.rest]
  rfl

/-- REF_10M_IN lost: the time PLL moves to the local oscillator (R29). -/
theorem refLost_moves {s : State} (h : on s TIM_STATUS_ref_ok = true) : Gives .refLost s fun t =>
    rd t TIM_STATUS_ref_ok = 0 ∧ rd t TIM_STATUS_ref_in_use = 0 ∧
      rd t TIM_REF_STATS_lost_events = upBy s TIM_REF_STATS_lost_events 1 ∧ rd t TIM_CAUSE_cause = withBit s TIM_CAUSE_cause 0 ∧
      FieldsKept s t [TIM_STATUS_ref_ok, TIM_STATUS_ref_in_use, TIM_REF_STATS_lost_events, TIM_REF_STATS_ref_err_ppb, TIM_CAUSE_cause] ∧
      t = { s with regs := t.regs, freeCtr := t.freeCtr } := by
  refine ⟨_, exec_refLost h, ?_⟩
  obtain ⟨e, he⟩ := refMeasured_writes s (ok := 0) (use := 0) (by decide) (by decide)
  generalize refMeasured s 0 0 = m at *
  have hw := (he.then_bump TIM_REF_STATS_lost_events 1).then_raise TIM_CAUSE_cause 0
  exact ⟨hw.value 0, hw.value 1, hw.value 3, hw.value 4, hw.kept (by simp), hw.rest_takeFree⟩

/-- REF_10M_IN valid again: the time PLL moves to it where ref_sel is 0 (R28, R29). -/
theorem refRestored_moves {s : State} (h : on s TIM_STATUS_ref_ok = false) : Gives .refRestored s fun t =>
    rd t TIM_STATUS_ref_ok = 1 ∧ rd t TIM_STATUS_ref_in_use = b2n (!on s TIM_SRC_CFG_ref_sel) ∧
      rd t TIM_CAUSE_cause = withBit s TIM_CAUSE_cause 1 ∧
      FieldsKept s t [TIM_STATUS_ref_ok, TIM_STATUS_ref_in_use, TIM_REF_STATS_ref_err_ppb, TIM_CAUSE_cause] ∧
      t = { s with regs := t.regs, freeCtr := t.freeCtr } := by
  refine ⟨_, exec_refRestored h, ?_⟩
  obtain ⟨e, he⟩ := refMeasured_writes s (ok := 1) (use := b2n (!on s TIM_SRC_CFG_ref_sel)) (by decide) (b2n_lt_two _)
  generalize refMeasured s 1 (b2n (!on s TIM_SRC_CFG_ref_sel)) = m at *
  have hw := he.then_raise TIM_CAUSE_cause 1
  exact ⟨hw.value 0, hw.value 1, hw.value 3, hw.kept (by simp), hw.rest_takeFree⟩

/-- Settles O10: a loss and a return are each a list of writes, the measured error among them. -/
theorem referenceLossAndReturn : Obligations.ReferenceLossAndReturn := by
  unfold Obligations.ReferenceLossAndReturn
  exact ⟨fun _ h => refLost_moves h, fun _ h => refRestored_moves h⟩

/-- Settles O14: the three cases of the two conditions of the pulse. -/
theorem pulseOutFollowsWholeSeconds : Obligations.PulseOutFollowsWholeSeconds := by
  unfold Obligations.PulseOutFollowsWholeSeconds
  refine ⟨fun s he hv hp hn => congrArg Host.Outcome.next (if_pos ?_), fun s h => congrArg Host.Outcome.next (if_neg ?_),
    fun s hp hw => congrArg Host.Outcome.next (if_pos ?_)⟩
  · simp [he, hv, hp, hn]
  · rcases h with h | h <;> simp [h]
  · simp [hp, hw]

end Sys2Proof.Machine
end

section
namespace Sys2Proof.Machine

-- One proof after another: many at once take more memory, in a text this long, than its compile has.
set_option Elab.async false

/-! ## The time unit: what its shared operations leave (02_time_and_clocking.md, R30 to R36, R53) -/

theorem flag_raise_mono {s : State} {f : Fld} {b c : Nat} (hc : c < f.w) (h : flag s f c = true) : flag (raise s f b) f c = true := by
  rw [flag, bitOf_eq_testBit] at h ⊢
  rw [rd_raise_self, Nat.testBit_mod_two_pow, Nat.testBit_or, h]
  simp [hc]

theorem fieldsKept_wrs (s : State) (l : List (Fld × Nat)) : FieldsKept s (wrs s l) (l.map (·.1)) := (regFrame_wrs s l).kept

/-- Only registers and the hidden state of the time unit change, and of the registers only those listed. -/
structure TimeFrame (s t : State) (l : List Fld) : Prop where
  rest : t = { s with regs := t.regs, time := t.time }
  kept : FieldsKept s t l

theorem TimeFrame.refl (s : State) (l : List Fld) : TimeFrame s s l := ⟨rfl, fun _ _ => rfl⟩

theorem TimeFrame.trans {a b c : State} {l : List Fld} (h : TimeFrame a b l) (g : TimeFrame b c l) : TimeFrame a c l :=
  ⟨g.rest.trans (by rw [h.rest]), h.kept.trans g.kept⟩

theorem TimeFrame.mono {a b : State} {l m : List Fld} (h : TimeFrame a b l) (hs : ∀ f ∈ l, f ∈ m) : TimeFrame a b m :=
  ⟨h.rest, h.kept.mono hs⟩

theorem timeFrame_wr (s : State) (f : Fld) (v : Nat) : TimeFrame s (wr s f v) [f] := ⟨rfl, fieldsKept_wr s f v⟩

theorem timeFrame_wrs (s : State) (l : List (Fld × Nat)) : TimeFrame s (wrs s l) (l.map (·.1)) := ⟨by rw [wrs_eq], fieldsKept_wrs s l⟩

theorem timeFrame_modTime (s : State) (f : TimeSt → TimeSt) (l : List Fld) : TimeFrame s (modTime s f) l := ⟨rfl, fun _ _ => rfl⟩

/-- A field that a list of fields does not hold reads as before. -/
theorem TimeFrame.rd {s t : State} {l : List Fld} (h : TimeFrame s t l) (f : Fld) (hf : ∀ g ∈ l, f.key ≠ g.key := by decide) :
    rd t f = rd s f := h.kept f hf

theorem TimeFrame.mem {s t : State} {l : List Fld} (h : TimeFrame s t l) : t.mem = s.mem := by rw [h.rest]
theorem TimeFrame.tiles {s t : State} {l : List Fld} (h : TimeFrame s t l) : t.tiles = s.tiles := by rw [h.rest]
theorem TimeFrame.runs {s t : State} {l : List Fld} (h : TimeFrame s t l) : t.runs = s.runs := by rw [h.rest]
theorem TimeFrame.periods {s t : State} {l : List Fld} (h : TimeFrame s t l) : t.periods = s.periods := by rw [h.rest]
theorem TimeFrame.now {s t : State} {l : List Fld} (h : TimeFrame s t l) : t.now = s.now := by rw [h.rest]

/-- The beginning of holdover set. -/
def holdingFrom (s : State) (h : Option Nat) : State := modTime s fun x => { x with holdFrom := h }

/-- Everything `timeSync` can do: it sets the beginning of holdover and fields of TIM_STATUS, and may raise LOCKED (R31 to R34). -/
theorem timeSync_cases (s : State) : ∃ h l, (∀ p ∈ l, p.1 ∈ [TIM_STATUS_state, TIM_STATUS_source, TIM_STATUS_holdover_s]) ∧
    (timeSync s = wrs (holdingFrom s h) l ∨ timeSync s = raise (wrs (holdingFrom s h) l) TIM_CAUSE_cause 5) := by
  unfold timeSync
  extract_lets p q old s1 src s2
  split
  · exact ⟨none, _, by simp, .inl rfl⟩
  · split
    · split
      · exact ⟨none, _, by simp, .inl rfl⟩
      · exact ⟨none, _, by simp, .inr rfl⟩
    · split
      · exact ⟨some (s.time.holdFrom.getD s.now), _, by simp, .inl rfl⟩
      · exact ⟨s.time.holdFrom, _, by simp, .inl rfl⟩

/-- The fields that `timeSync` brings up to date. -/
def syncFields : List Fld := [TIM_STATUS_state, TIM_STATUS_source, TIM_STATUS_holdover_s, TIM_CAUSE_cause]

theorem timeFrame_timeSync (s : State) : TimeFrame s (timeSync s) syncFields := by
  obtain ⟨h, l, hl, ht⟩ := timeSync_cases s
  have hw : TimeFrame s (wrs (holdingFrom s h) l) syncFields := (timeFrame_modTime s _ _).trans ((timeFrame_wrs _ l).mono fun f hf => by
    obtain ⟨p, hp, rfl⟩ := List.mem_map.1 hf
    exact List.mem_append_left [TIM_CAUSE_cause] (hl p hp))
  rcases ht with ht | ht <;> rw [ht]
  · exact hw
  · exact hw.trans ((timeFrame_wr _ TIM_CAUSE_cause _).mono (by simp [syncFields]))

/-- Of the hidden state of the time unit `timeSync` changes the beginning of holdover alone. -/
theorem timeSync_time (s : State) : ∃ h, (timeSync s).time = { s.time with holdFrom := h } := by
  obtain ⟨h, l, -, ht | ht⟩ := timeSync_cases s
  · exact ⟨h, by rw [ht, wrs_time]; rfl⟩
  · exact ⟨h, by rw [ht, raise_time, wrs_time]; rfl⟩

theorem timeFrame_sourceLocked (s : State) (src : Nat) : TimeFrame s (sourceLocked s src) [TIM_CAUSE_cause] := by
  unfold sourceLocked
  split
  · exact timeFrame_wr s _ _
  · exact TimeFrame.refl s _

@[simp] theorem sourceLocked_time (s : State) (src : Nat) : (sourceLocked s src).time = s.time := by
  unfold sourceLocked
  split <;> rfl

/-- A cause that is raised stays raised. -/
theorem flag_timeSync {s : State} {b : Nat} (hb : b < TIM_CAUSE_cause.w) (h : flag s TIM_CAUSE_cause b = true) :
    flag (timeSync s) TIM_CAUSE_cause b = true := by
  obtain ⟨d, l, hl, ht⟩ := timeSync_cases s
  have hne : ∀ f ∈ [TIM_STATUS_state, TIM_STATUS_source, TIM_STATUS_holdover_s], TIM_CAUSE_cause.key ≠ f.key := by decide
  have hw : flag (wrs (holdingFrom s d) l) TIM_CAUSE_cause b = true := by
    rwa [flag, rd_wrs_ne _ _ _ fun p hp => hne _ (hl p hp)]
  rcases ht with ht | ht <;> rw [ht]
  · exact hw
  · exact flag_raise_mono hb hw

end Sys2Proof.Machine
end

section
namespace Sys2Proof.Machine

-- One proof after another: many at once take more memory, in a text this long, than its compile has.
set_option Elab.async false

/-! ## Time of day set and corrected (02_time_and_clocking.md, R30, R34, R35) -/

/-- With the hidden state of the time unit put aside, what the registers hold is left to compare. -/
theorem Writes.of_time {s u t : State} {l : List (Fld × Nat)} (h : Writes u t l) (hu : u = { s with time := u.time } := by rfl) :
    Writes s { t with time := s.time } l := by
  obtain ⟨ht, hv, hk⟩ := h
  have hr : u.regs = s.regs := by rw [hu]
  have hp : u.part = s.part := by rw [hu]
  exact ⟨by rw [ht, hu], hv, fun f hf => (hk f hf).trans (rd_congr f hr hp)⟩

/-- A change of the hidden state of the time unit among writes. -/
theorem Writes.then_time {s t : State} {l : List (Fld × Nat)} (h : Writes s t l) (g : TimeSt → TimeSt) :
    Writes (modTime s g) (modTime t g) l := by
  obtain ⟨ht, hv, hk⟩ := h
  exact ⟨by rw [ht]; rfl, hv, hk⟩

theorem tod_setTodFine (s : State) (v : Nat) : tod (setTodFine s v) = v / 2 ^ 32 % 2 ^ 64 := rd_wr_self s TIM_TOD_tod _

theorem setTodFine_eq (s : State) (v : Nat) :
    setTodFine s v = { s with regs := (setTodFine s v).regs, todFrac := (setTodFine s v).todFrac } := rfl

theorem todFine_setTodFine {s : State} {v : Nat} (hv : v < 2 ^ 96) : todFine (setTodFine s v) = v := by
  have h : rd (setTodFine s v) TIM_TOD_tod = v / 2 ^ 32 % 2 ^ 64 := tod_setTodFine s v
  have hf : (setTodFine s v).todFrac = v % 2 ^ 32 := rfl
  rw [todFine, h, hf]
  omega

theorem rd_setTodFine_ne (s : State) (v : Nat) {f : Fld} (hf : f.key ≠ TIM_TOD_tod.key) : rd (setTodFine s v) f = rd s f :=
  rd_wr_ne s _ hf

theorem todFine_raise (s : State) (b : Nat) : todFine (raise s TIM_CAUSE_cause b) = todFine s :=
  congrArg (· * 2 ^ 32 + s.todFrac) (rd_raise_ne s (g := TIM_TOD_tod) b (by decide))

theorem unsigned_lt (w : Nat) (x : Int) : unsigned w x < 2 ^ w := by
  have h : (0 : Int) < 2 ^ w := by positivity
  rw [unsigned, Int.toNat_lt (Int.emod_nonneg x h.ne')]
  exact_mod_cast Int.emod_lt_of_pos x h

theorem fnPhys_of_fnUp {s : State} (h : fnUp s 0 = true) : fnPhys s 0 = true := by simp [fnPhys, h]

/-- tod_valid set with no time of day waiting (R31, R35). -/
theorem todValid_sets {u : State} (hp : u.time.setPend = none) :
    TimeFrame u (timeSync (syncPending (wr u TIM_STATUS_tod_valid 1)))
        ([TIM_STATUS_tod_valid, TIM_STATUS_step_pending] ++ syncFields) ∧
      rd (timeSync (syncPending (wr u TIM_STATUS_tod_valid 1))) TIM_STATUS_tod_valid = 1 ∧
      rd (timeSync (syncPending (wr u TIM_STATUS_tod_valid 1))) TIM_STATUS_step_pending = b2n u.time.heldCorr.isSome := by
  have hw := ((Writes.refl u).then_set TIM_STATUS_tod_valid (v := 1) (by decide)).then_set TIM_STATUS_step_pending
    (b2n_lt_two (u.time.heldCorr.isSome || u.time.setPend.isSome))
  have ht := timeFrame_timeSync (syncPending (wr u TIM_STATUS_tod_valid 1))
  refine ⟨.trans ⟨rfl, hw.kept (by simp)⟩ (ht.mono (by simp [syncFields])), (ht.rd _).trans (hw.value 0), ?_⟩
  exact (ht.rd _).trans ((hw.value 1).trans (by simp [hp]))

/-- tod_valid set in a state that has a new time of day and nothing waiting (R31, R35). -/
theorem firstTod_sets {s u : State} (hu : u = { s with regs := u.regs, todFrac := u.todFrac }) {f : TimeSt → TimeSt}
    (hf : ∀ x, (f x).setPend = none ∧ (f x).heldCorr = x.heldCorr) :
    tod (timeSync (syncPending (wr (modTime u f) TIM_STATUS_tod_valid 1))) = tod u ∧
    rd (timeSync (syncPending (wr (modTime u f) TIM_STATUS_tod_valid 1))) TIM_STATUS_tod_valid = 1 ∧
    rd (timeSync (syncPending (wr (modTime u f) TIM_STATUS_tod_valid 1))) TIM_STATUS_step_pending = b2n s.time.heldCorr.isSome ∧
    (timeSync (syncPending (wr (modTime u f) TIM_STATUS_tod_valid 1))).mem = s.mem ∧
    (timeSync (syncPending (wr (modTime u f) TIM_STATUS_tod_valid 1))).tiles = s.tiles ∧
    (timeSync (syncPending (wr (modTime u f) TIM_STATUS_tod_valid 1))).periods = s.periods ∧
    (timeSync (syncPending (wr (modTime u f) TIM_STATUS_tod_valid 1))).runs = s.runs := by
  obtain ⟨hk, hvalid, hpend⟩ := todValid_sets (u := modTime u f) (hf u.time).1
  have hheld : (modTime u f).time.heldCorr = s.time.heldCorr := (hf u.time).2.trans (by rw [hu])
  exact ⟨hk.rd TIM_TOD_tod, hvalid, by rw [hpend, hheld], hk.mem.trans (by rw [hu]; rfl), hk.tiles.trans (by rw [hu]; rfl),
    hk.periods.trans (by rw [hu]; rfl), hk.runs.trans (by rw [hu]; rfl)⟩

theorem setTodNow_eq (s : State) (v : Nat) : setTodNow s v = timeSync (syncPending (wr (modTime (setTodFine s (v * 2 ^ 32)) 
   fun x => { x with setPend := none }) TIM_STATUS_tod_valid 1)) := rfl

/-- Time of day set for the first time: it is in force, and what is held besides is told (R31, R35). -/
theorem setTodNow_sets (s : State) {v : Nat} (hv : v < 2 ^ 64) :
    tod (setTodNow s v) = v ∧ rd (setTodNow s v) TIM_STATUS_tod_valid = 1 ∧
      rd (setTodNow s v) TIM_STATUS_step_pending = b2n s.time.heldCorr.isSome ∧ (setTodNow s v).mem = s.mem ∧
      (setTodNow s v).tiles = s.tiles ∧ (setTodNow s v).periods = s.periods ∧ (setTodNow s v).runs = s.runs := by
  have htod : tod (setTodFine s (v * 2 ^ 32)) = v := by
    rw [tod_setTodFine]
    omega
  have h := firstTod_sets (setTodFine_eq s (v * 2 ^ 32)) (f := fun x => { x with setPend := none }) fun x => ⟨rfl, rfl⟩
  rw [htod] at h
  rw [setTodNow_eq]
  exact h
/-- The threshold of R35 in the unit of corrections. -/
theorem within_threshold_iff (x : Int) (r : Nat) :
    (x * 2 ^ 32).natAbs ≤ ((r : Int) * 1000 * 2 ^ 32).toNat ↔ x.natAbs ≤ 1000 * r := by omega

theorem exec_timAdjPhase {s : State} (hu : fnUp s 0 = true) (p : BitVec 32) :
    exec (.timAdjPhase 0 p false) s = .next (adjust s (signed 32 p.toNat * 2 ^ 32)) := by
  simp only [exec, execTimAdjPhase, fnPhys_of_fnUp hu, if_true, ptpMark, Bool.not_false]

/-- A step with no binding and no request waiting passes no bell (R36). -/
theorem stepTod_quiet {s : State} (hp : s.periods = []) (hc : s.cands = []) (hy : s.copies = []) (hr : s.carries = []) (c : Int) :
    stepTod s c = raise (setTodFine s (unsigned 96 ((todFine s : Int) + c))) TIM_CAUSE_cause 6 := by
  unfold stepTod
  extract_lets lo s1 s2 s3
  have h3 : s3 = s2 := by
    have h0 : s2.cands.length + s2.carries.length + sumL (s2.copies.map (·.seats.length)) = 0 := by
      rw [show s2.cands = [] from hc, show s2.carries = [] from hr, show s2.copies = [] from hy]
      rfl
    unfold s3
    rw [h0]
    rfl
  rw [h3, show s2.periods = [] from hp]
  split <;> rfl

section
variable {s : State} {c : Int}

/-- A correction within the threshold is slewed (R35). -/
theorem adjust_slews (h : c.natAbs ≤ ((rd s TIM_SRC_CFG_step_thresh : Int) * 1000 * 2 ^ 32).toNat) :
    (adjust s c).time.slew = c ∧ (adjust s c).time.heldCorr = none ∧ Writes s { adjust s c with time := s.time }
      [(TIM_STATUS_slewing, b2n (c != 0)), (TIM_STATUS_step_pending, b2n s.time.setPend.isSome)] := by
  have he : adjust s c = _ := if_pos h
  have hw := ((Writes.refl (modTime s fun x => { x with jump := false, slew := c, heldCorr := none })).then_set
    TIM_STATUS_slewing (b2n_lt_two (c != 0))).then_set TIM_STATUS_step_pending (b2n_lt_two s.time.setPend.isSome)
  rw [he]
  exact ⟨rfl, rfl, hw.of_time⟩

/-- The state in which a correction beyond the threshold is taken up: no slew, and none held (R35). -/
def slewEnded (s : State) : State :=
  wr (modTime s fun x => { x with jump := false, slew := 0, heldCorr := none }) TIM_STATUS_slewing 0

theorem rd_slewEnded (s : State) (f : Fld) (hf : f.key ≠ TIM_STATUS_slewing.key) : rd (slewEnded s) f = rd s f :=
  rd_wr_ne (modTime s _) 0 hf

variable (h : ((rd s TIM_SRC_CFG_step_thresh : Int) * 1000 * 2 ^ 32).toNat < c.natAbs)
include h

theorem adjust_beyond : adjust s c =
    if on s TIM_SRC_CFG_step_allowed && (s.periods.isEmpty || on s TIM_SRC_CFG_step_while_bound) then stepTod (syncPending (slewEnded s)) c
    else raise (syncPending (modTime (slewEnded s) fun x => { x with heldCorr := some c })) TIM_CAUSE_cause 7 := by
  have he : adjust s c = if on (slewEnded s) TIM_SRC_CFG_step_allowed &&
      ((slewEnded s).periods.isEmpty || on (slewEnded s) TIM_SRC_CFG_step_while_bound) then stepTod (syncPending (slewEnded s)) c
    else raise (syncPending (modTime (slewEnded s) fun x => { x with heldCorr := some c })) TIM_CAUSE_cause 7 := if_neg (Nat.not_le.2 h)
  rw [he, on, on, rd_slewEnded s _ (by decide), rd_slewEnded s _ (by decide)]
  rfl

/-- One beyond it is held where steps are not allowed (R35). -/
theorem adjust_holds (ha : on s TIM_SRC_CFG_step_allowed = false) :
    (adjust s c).time.heldCorr = some c ∧ todFine (adjust s c) = todFine s ∧ Writes s { adjust s c with time := s.time }
      [(TIM_STATUS_slewing, 0), (TIM_STATUS_step_pending, 1), (TIM_CAUSE_cause, withBit s TIM_CAUSE_cause 7)] := by
  have hw := (((((Writes.refl (modTime s fun x => { x with jump := false, slew := 0, heldCorr := none })).then_set TIM_STATUS_slewing (v := 0)
    (by decide)).then_time fun x => { x with heldCorr := some c }).then_set TIM_STATUS_step_pending (v := 1) (by decide)).then_raise
    TIM_CAUSE_cause 7)
  rw [adjust_beyond h, ha, Bool.false_and, if_neg Bool.false_ne_true]
  refine ⟨rfl, ?_, hw.of_time⟩
  exact congrArg (· * 2 ^ 32 + s.todFrac) (hw.keeps (f := TIM_TOD_tod))

/-- One beyond it is applied at once where steps are allowed and no period is bound; with no request waiting no deadline passes
(R35, R36). -/
theorem adjust_steps (ha : on s TIM_SRC_CFG_step_allowed = true) (hp : s.periods = []) (hc : s.cands = []) (hy : s.copies = [])
    (hr : s.carries = []) :
    todFine (adjust s c) = unsigned 96 ((todFine s : Int) + c) ∧ rd (adjust s c) TIM_CAUSE_cause = withBit s TIM_CAUSE_cause 6 ∧
      rd (adjust s c) TIM_STATUS_step_pending = b2n s.time.setPend.isSome ∧ rd (adjust s c) TIM_STATUS_slewing = 0 ∧
      MemKept s (adjust s c) := by
  have hw := (((Writes.refl (modTime s fun x => { x with jump := false, slew := 0, heldCorr := none })).then_set TIM_STATUS_slewing (v := 0)
    (by decide)).then_set TIM_STATUS_step_pending (b2n_lt_two s.time.setPend.isSome))
  have hmem : MemKept s (adjust s c) := fun a => congrArg (Memory.read · a) (adjust_mem s c)
  have he : adjust s c = raise (setTodFine (syncPending (slewEnded s)) (unsigned 96 ((todFine s : Int) + c))) TIM_CAUSE_cause 6 := by
    have htod : todFine (syncPending (slewEnded s)) = todFine s := congrArg (· * 2 ^ 32 + s.todFrac) (hw.keeps (f := TIM_TOD_tod))
    rw [adjust_beyond h, ha, hp, List.isEmpty_nil, Bool.true_or, Bool.and_self, if_pos rfl,
      stepTod_quiet (s := syncPending (slewEnded s)) hp hc hy hr, htod]
  refine ⟨?_, ?_, ?_, ?_, hmem⟩ <;> rw [he]
  · rw [todFine_raise, todFine_setTodFine (unsigned_lt 96 _)]
  · rw [rd_raise_self, rd_setTodFine_ne _ _ (by decide)]
    exact congrArg (fun n => (n ||| 2 ^ 6) % 2 ^ TIM_CAUSE_cause.w) hw.keeps
  · rw [rd_raise_ne _ _ (by decide), rd_setTodFine_ne _ _ (by decide)]
    exact hw.value 1
  · rw [rd_raise_ne _ _ (by decide), rd_setTodFine_ne _ _ (by decide)]
    exact hw.value 0

end

/-- Settles O11: the cases of R35 are the branches of `correct`, and a first time of day those of `execTimTodSet`. -/
theorem timeOfDayIsSetAndCorrected : Obligations.TimeOfDayIsSetAndCorrected := by
  unfold Obligations.TimeOfDayIsSetAndCorrected
  refine ⟨fun s v hu hv hn => ?_, fun s v hu hv hn => ?_, fun s p hu h => ⟨_, exec_timAdjPhase hu p, ?_⟩,
    fun s p hu h ha hp hc hy hr => ⟨_, exec_timAdjPhase hu p, ?_⟩, fun s p hu h ha => ⟨_, exec_timAdjPhase hu p, ?_⟩, fun s r hu => ?_⟩
  · refine ⟨setTodNow s v.toNat, ?_, setTodNow_sets s v.isLt⟩
    simp only [exec, execTimTodSet, fnPhys_of_fnUp hu, hv, hn, Bool.not_true, Bool.false_eq_true, if_false]
  · refine ⟨syncPending (modTime s fun x => { x with setPend := some v.toNat }), ?_, rfl, ?_⟩
    · simp only [exec, execTimTodSet, fnPhys_of_fnUp hu, hv, hn, Bool.not_true, Bool.false_eq_true, if_false, if_true]
    · have hb : b2n (s.time.heldCorr.isSome || (some v.toNat).isSome) = 1 := by simp [b2n]
      exact hb ▸ ((Writes.refl (modTime s fun x => { x with setPend := some v.toNat })).then_set TIM_STATUS_step_pending
        (b2n_lt_two (s.time.heldCorr.isSome || (some v.toNat).isSome))).of_time
  · exact adjust_slews ((within_threshold_iff _ _).2 h)
  · exact adjust_steps (Nat.not_le.1 fun hle => Nat.not_le.2 h ((within_threshold_iff _ _).1 hle)) ha hp hc hy hr
  · exact adjust_holds (Nat.not_le.1 fun hle => Nat.not_le.2 h ((within_threshold_iff _ _).1 hle)) ha
  · simp only [exec, execTimAdjRate, fnPhys_of_fnUp hu, if_true, ptpMark, Bool.not_false, modTime]

end Sys2Proof.Machine
end

section
namespace Sys2Proof.Machine

-- One proof after another: many at once take more memory, in a text this long, than its compile has.
set_option Elab.async false

/-! ## 1PPS and PTP (02_time_and_clocking.md, R31 to R34, R53) -/

/-- An edge that is taken: 1PPS in use, the configured polarity, a width between 100 ns and 500 ms (R31). -/
theorem exec_ppsEdge {s : State} {falling : Bool} {w : Nat} (hp : s.time.pps ≠ 0) (he : on s TIM_SRC_CFG_pps_edge = falling) :
    exec (.ppsEdge falling w) s = .next (if w < 100 ∨ 500000000 < w then bump s TIM_PPS_STATS_width_rejects 1
      else match edgeError s with
        | none => acceptEdge s none
        | some e => if e.natAbs ≤ 1000 then acceptEdge s (some e) else rejectEdge s) :=
  congrArg Host.Outcome.next (if_neg (by simp [hp, he]))

theorem edgeError_locked {s : State} (h : s.time.pps = 3) : edgeError s = some (nearSecond (tod s - ppsCentre s)) :=
  if_neg (by simp [h])

/-- An edge accepted while no time of day waits: it is counted, its phase error given out, and TIM_TOD stands (R31). -/
theorem acceptEdge_counts {s : State} (hp : s.time.setPend = none) (e : Int) :
    rd (acceptEdge s (some e)) TIM_PPS_STATS_accepted = upBy s TIM_PPS_STATS_accepted 1 ∧
      rd (acceptEdge s (some e)) TIM_STATUS_pps_ok = 1 ∧ rd (acceptEdge s (some e)) TIM_PHASE_ERR_phase_err = unsigned 32 e ∧
      (acceptEdge s (some e)).time.lastEdge = some s.now ∧ tod (acceptEdge s (some e)) = tod s ∧
      (acceptEdge s (some e)).tiles = s.tiles := by
  unfold acceptEdge
  extract_lets e' rate s1 s2 s3 was near good s4
  have hw : Writes s1 s2 [(TIM_PPS_STATS_accepted, upBy s TIM_PPS_STATS_accepted 1), (TIM_PHASE_ERR_phase_err, unsigned 32 e),
      (TIM_PHASE_ERR_edges, _), (TIM_STATUS_pps_ok, 1)] :=
    ((((Writes.refl s1).then_bump TIM_PPS_STATS_accepted 1).then_set TIM_PHASE_ERR_phase_err (unsigned_lt 32 e)).then_wr
      TIM_PHASE_ERR_edges _).then_set TIM_STATUS_pps_ok (by decide)
  have h3 : s3 = s2 := by
    have hs : s2.time.setPend = none := by rw [hw.rest]; exact hp
    simp only [s3, hs]
  obtain ⟨h4, hlast⟩ : TimeFrame s2 s4 syncFields ∧ s4.time.lastEdge = some s.now := by
    refine ⟨h3 ▸ timeFrame_modTime s3 _ _, ?_⟩
    rw [show s4.time.lastEdge = some s3.now from rfl, h3, hw.rest]
    rfl
  have h1 : tod s1 = tod s ∧ s1.tiles = s.tiles := ⟨rfl, rfl⟩
  obtain ⟨h5, hlast5⟩ : TimeFrame s2 (if s4.time.pps = 3 ∧ !was then sourceLocked s4 1 else s4) syncFields ∧
      (if s4.time.pps = 3 ∧ !was then sourceLocked s4 1 else s4).time.lastEdge = some s.now := by
    split
    · exact ⟨h4.trans ((timeFrame_sourceLocked s4 1).mono (by simp [syncFields])), (congrArg _ (sourceLocked_time s4 1)).trans hlast⟩
    · exact ⟨h4, hlast⟩
  generalize (if s4.time.pps = 3 ∧ !was then sourceLocked s4 1 else s4) = s5 at h5 hlast5 ⊢
  have h6 := h5.trans (timeFrame_timeSync s5)
  obtain ⟨h, htime⟩ := timeSync_time s5
  refine ⟨(h6.rd _).trans (hw.value 0), (h6.rd _).trans (hw.value 3), (h6.rd _).trans (hw.value 1), by rw [htime]; exact hlast5,
    ((h6.rd TIM_TOD_tod).trans hw.keeps).trans h1.1, h6.tiles.trans (by rw [hw.rest, h1.2])⟩

/-- An edge outside the window with fewer than three before it: noted, and counted (R33). -/
theorem rejectEdge_notes {s : State} (ho : s.time.outside.length < 3) :
    ∃ l, rejectEdge s = bump (modTime s fun x => { x with outside := l }) TIM_PPS_STATS_window_rejects 1 := by
  unfold rejectEdge
  extract_lets s1 l o s2
  have hl : l.length < 4 := by
    have hd : ∀ r, s.time.outside = r → r.length < 3 := fun r hr => hr ▸ ho
    unfold l
    split
    next t r hr =>
      have := hd _ hr
      simp only [List.length_cons] at this
      split
      · simp; omega
      · simp
    · simp
  exact ⟨l, if_pos hl⟩

/-- An edge outside the window is counted, and with fewer than three before it nothing else of the registers moves (R31, R33). -/
theorem rejectEdge_counts {s : State} (ho : s.time.outside.length < 3) :
    Writes s { rejectEdge s with time := s.time } [(TIM_PPS_STATS_window_rejects, upBy s TIM_PPS_STATS_window_rejects 1)] ∧
      (rejectEdge s).time.lastEdge = s.time.lastEdge := by
  obtain ⟨l, he⟩ := rejectEdge_notes ho
  rw [he]
  exact ⟨((Writes.refl _).then_bump TIM_PPS_STATS_window_rejects 1).of_time, rfl⟩

/-- No edge for 1.5 s: the source enters holdover, and the servo rate stands (R32). -/
theorem ppsHoldover_enters {s : State} {e : Nat} (he : s.time.lastEdge = some e) (hp : s.time.pps = 2 ∨ s.time.pps = 3)
    (hn : e + 1500000000 ≤ s.now) : Gives .ppsHoldover s fun t =>
      t.time.pps = 4 ∧ t.time.servo = s.time.servo ∧ rd t TIM_STATUS_pps_ok = 0 ∧ flag t TIM_CAUSE_cause 2 = true ∧ tod t = tod s := by
  set u := raise (modTime (wr s TIM_STATUS_pps_ok 0) fun x => { x with
    pps := 4, predicted := none, ppsGood := 0, holdFrom := some s.now }) TIM_CAUSE_cause 2 with hu
  have hx : exec .ppsHoldover s = .next (timeSync u) := by simp only [exec, execPpsHoldover, he, hp, hn, and_self, if_true, hu]
  have hw := (((Writes.refl s).then_set TIM_STATUS_pps_ok (v := 0) (by decide)).then_time fun x => { x with
    pps := 4, predicted := none, ppsGood := 0, holdFrom := some s.now }).then_raise TIM_CAUSE_cause 2
  have hf := timeFrame_timeSync u
  obtain ⟨h, ht⟩ := timeSync_time u
  exact ⟨_, hx, by rw [ht]; rfl, by rw [ht]; rfl, (hf.rd _).trans (hw.value 0), flag_timeSync (by decide) (flag_raise_self _ (by decide)),
    (hf.rd TIM_TOD_tod).trans hw.keeps⟩

/-- No servo write for 4 s: PTP is no longer valid (R34). -/
theorem ptpLost_tells {s : State} {e : Nat} (he : s.time.lastPtp = some e) (ho : on s TIM_STATUS_ptp_ok = true)
    (hn : e + 4000000000 ≤ s.now) : Gives .ptpLost s fun t =>
      rd t TIM_STATUS_ptp_ok = 0 ∧ flag t TIM_CAUSE_cause 4 = true ∧ tod t = tod s := by
  have hx : exec .ptpLost s = .next (timeSync (ptpLost s)) := by simp [exec, execPtpLost, he, ho, hn]
  have hw := (((Writes.refl s).then_set TIM_STATUS_ptp_ok (v := 0) (by decide)).then_time fun x => { x with
    holdFrom := if names (wr s TIM_STATUS_ptp_ok 0) 2 then some s.now else x.holdFrom }).then_raise TIM_CAUSE_cause 4
  have hf := timeFrame_timeSync (ptpLost s)
  exact ⟨_, hx, (hf.rd _).trans (hw.value 0), flag_timeSync (by decide) (flag_raise_self _ (by decide)), (hf.rd TIM_TOD_tod).trans hw.keeps⟩

/-- A predicted second passed is counted as missing once (R53). -/
theorem ppsMissing_counts {s : State} (hp : s.time.pps = 3) (hl : s.time.lastMissing < (tod s - 1001) / 1000000000) :
    Gives .ppsMissing s fun t => Writes s { t with time := s.time } [(TIM_PPS_STATS_missing, upBy s TIM_PPS_STATS_missing 1)] ∧
      t.time.lastMissing = (tod s - 1001) / 1000000000 := by
  have hw := (Writes.refl (modTime s fun x => { x with lastMissing := (tod s - 1001) / second })).then_bump TIM_PPS_STATS_missing 1
  refine ⟨_, congrArg Host.Outcome.next ?_, hw.of_time, rfl⟩
  rw [if_neg (by rw [hp]; decide), if_pos (.inl hp)]
  exact if_pos hl

/-- Settles O13: an edge is judged by its width and by `edgeError`; holdover, PTP and a missed second are each a case of their
command. -/
theorem pulsePerSecondEdges : Obligations.PulsePerSecondEdges := by
  unfold Obligations.PulsePerSecondEdges
  have hne : ∀ {s : State}, s.time.pps = 3 → s.time.pps ≠ 0 := fun h h0 => by omega
  refine ⟨fun s f w hp he hw => ⟨_, (exec_ppsEdge hp he).trans (by rw [if_pos hw]),
      (Writes.refl s).then_bump TIM_PPS_STATS_width_rejects 1⟩,
    fun s f w hp he hlo hhi hin hset => ?_, fun s f w hp he hlo hhi hout ho => ?_,
    fun s e he hp hn => ppsHoldover_enters he hp hn, fun s e he ho hn => ptpLost_tells he ho hn, fun s hp hl => ppsMissing_counts hp hl⟩
  · obtain ⟨hacc, hok, herr, hlast, htod, htiles⟩ := acceptEdge_counts hset (nearSecond (tod s - ppsCentre s))
    refine ⟨acceptEdge s (some (nearSecond (tod s - ppsCentre s))), (exec_ppsEdge (hne hp) he).trans ?_, hacc, hok, herr, hlast, htod,
      acceptEdge_mem s _, htiles⟩
    rw [if_neg (by omega), edgeError_locked hp]
    exact congrArg _ (if_pos hin)
  · refine ⟨rejectEdge s, (exec_ppsEdge (hne hp) he).trans ?_, rejectEdge_counts ho⟩
    rw [if_neg (by omega), edgeError_locked hp]
    exact congrArg _ (if_neg (Nat.not_le.2 hout))

end Sys2Proof.Machine
end

section
namespace Sys2Proof.Machine

-- One proof after another: many at once take more memory, in a text this long, than its compile has.
set_option Elab.async false

/-! ## The sources (02_time_and_clocking.md, R31, R53) -/

/-- Of the hidden state of the time unit, a change of the beginning of holdover alone. -/
def HoldOnly (x y : TimeSt) : Prop := ∃ h, y = { x with holdFrom := h }

theorem HoldOnly.trans {x y z : TimeSt} (h : HoldOnly x y) (g : HoldOnly y z) : HoldOnly x z := by
  obtain ⟨a, rfl⟩ := h
  obtain ⟨b, rfl⟩ := g
  exact ⟨b, rfl⟩

/-- PTP judged again: its validity, a cause and the beginning of holdover are all that can change (R34). -/
theorem judgePtp_frame (s : State) :
    TimeFrame s (judgePtp s) [TIM_STATUS_ptp_ok, TIM_CAUSE_cause] ∧ HoldOnly s.time (judgePtp s).time := by
  have hlost : TimeFrame s (ptpLost s) [TIM_STATUS_ptp_ok, TIM_CAUSE_cause] :=
    ⟨rfl, (((Writes.refl s).then_wr TIM_STATUS_ptp_ok 0).then_raise TIM_CAUSE_cause 4).kept (by simp)⟩
  have hok : TimeFrame s (wr (sourceLocked s 2) TIM_STATUS_ptp_ok 1) [TIM_STATUS_ptp_ok, TIM_CAUSE_cause] :=
    ((timeFrame_sourceLocked s 2).mono (by simp)).trans ((timeFrame_wr _ _ _).mono (by simp))
  unfold judgePtp
  extract_lets recent
  split
  · split
    · exact ⟨hlost, _, rfl⟩
    · exact ⟨TimeFrame.refl s _, _, rfl⟩
  · split
    · exact ⟨hok, s.time.holdFrom, (wr_time _ _ _).trans (sourceLocked_time s 2)⟩
    · exact ⟨TimeFrame.refl s _, _, rfl⟩

theorem names_congr {s t : State} {l : List Fld} (h : FieldsKept s t l) (src : Nat)
    (hl : ∀ f ∈ [TIM_SRC_CFG_primary, TIM_SRC_CFG_secondary], ∀ g ∈ l, f.key ≠ g.key) : names t src = names s src := by
  rw [names, names, h _ (hl _ (by simp)), h _ (hl _ (by simp))]

/-- The values that a write of TIM_SRC_CFG puts in its fields, and what follows in ref_in_use (R9, R53). -/
def srcWrites (s : State) (n : Nat) : List (Fld × Nat) :=
  [(TIM_SRC_CFG_primary, srcField (rd s TIM_SRC_CFG_primary) (bitsOf n 0 2)),
    (TIM_SRC_CFG_secondary, srcField (rd s TIM_SRC_CFG_secondary) (bitsOf n 2 2)), (TIM_SRC_CFG_ptp_port, n / 2 ^ 4),
    (TIM_SRC_CFG_ref_sel, n / 2 ^ 8), (TIM_SRC_CFG_pps_edge, n / 2 ^ 9), (TIM_SRC_CFG_step_allowed, n / 2 ^ 10),
    (TIM_SRC_CFG_step_while_bound, n / 2 ^ 11), (TIM_SRC_CFG_pps_out_en, n / 2 ^ 12), (TIM_SRC_CFG_pps_out_width, n / 2 ^ 16),
    (TIM_SRC_CFG_step_thresh, n / 2 ^ 24)]

theorem srcField_mod (old n lo : Nat) :
    srcField old (bitsOf n lo 2) % 2 ^ 2 = if bitsOf n lo 2 = 3 then old % 2 ^ 2 else bitsOf n lo 2 := by
  unfold srcField
  split
  · rfl
  · exact Nat.mod_mod _ _

/-- The state with a write of TIM_SRC_CFG stored, and PTP judged under it (R34, R53). -/
def srcStored (s : State) (n : Nat) : State :=
  let p := srcField (rd s TIM_SRC_CFG_primary) (bitsOf n 0 2)
  let q := srcField (rd s TIM_SRC_CFG_secondary) (bitsOf n 2 2)
  let t := wrs s (srcWrites s n)
  let t := wr t TIM_STATUS_ref_in_use (b2n (on t TIM_STATUS_ref_ok && !on t TIM_SRC_CFG_ref_sel))
  judgePtp (if p != rd s TIM_SRC_CFG_primary || q != rd s TIM_SRC_CFG_secondary then modTime t fun x => { x with holdFrom := none } else t)

/-- 1PPS as the sources name it: acquired where it is named anew, out of use where it is not named (R31). -/
def ppsNamed (s : State) (was : Bool) : State :=
  if names s 1 && !was then
    modTime s fun x => { x with pps := 2, ppsGood := 0, lastEdge := some s.now, predicted := none, outside := [] }
  else if !names s 1 then modTime s fun x => { x with pps := 0, predicted := none, outside := [], jump := false } else s

theorem srcStored_frame (s : State) (n : Nat) :
    TimeFrame s (srcStored s n) ((srcWrites s n).map (·.1) ++ [TIM_STATUS_ref_in_use, TIM_STATUS_ptp_ok, TIM_CAUSE_cause]) ∧
      HoldOnly s.time (srcStored s n).time := by
  unfold srcStored
  extract_lets p q t u
  have ht : TimeFrame s t ((srcWrites s n).map (·.1) ++ [TIM_STATUS_ref_in_use, TIM_STATUS_ptp_ok, TIM_CAUSE_cause]) ∧ t.time = s.time :=
    ⟨(timeFrame_wrs s _).mono fun _ hf => List.mem_append_left _ hf, wrs_time s _⟩
  clear_value t
  obtain ⟨hft, htt⟩ := ht
  have hu : TimeFrame s u ((srcWrites s n).map (·.1) ++ [TIM_STATUS_ref_in_use, TIM_STATUS_ptp_ok, TIM_CAUSE_cause]) ∧ u.time = s.time :=
    ⟨hft.trans ((timeFrame_wr t _ _).mono (by simp)), htt⟩
  obtain ⟨hu, ht⟩ := hu
  clear_value u
  split
  · obtain ⟨hf, hh⟩ := judgePtp_frame (modTime u fun x => { x with holdFrom := none })
    exact ⟨(hu.trans (timeFrame_modTime u _ _)).trans (hf.mono (by simp)), .trans ⟨none, congrArg (fun x => { x with holdFrom := none }) ht⟩ hh⟩
  · obtain ⟨hf, hh⟩ := judgePtp_frame u
    exact ⟨hu.trans (hf.mono (by simp)), ht ▸ hh⟩

theorem rd_srcStored {s : State} {n : Nat} {p : Fld × Nat} (hp : p ∈ srcWrites s n) : rd (srcStored s n) p.1 = p.2 % 2 ^ p.1.w := by
  have hne : ∀ f ∈ (srcWrites s n).map (·.1), ∀ g ∈ [TIM_STATUS_ref_in_use, TIM_STATUS_ptp_ok, TIM_CAUSE_cause], f.key ≠ g.key := by
    simp only [srcWrites, List.map_cons, List.map_nil]
    decide
  have hd : ((srcWrites s n).map (·.1.key)).Nodup := by
    simp only [srcWrites, List.map_cons, List.map_nil]
    decide
  have hk : ∀ g ∈ [TIM_STATUS_ref_in_use, TIM_STATUS_ptp_ok, TIM_CAUSE_cause], p.1.key ≠ g.key := hne p.1 (List.mem_map_of_mem hp)
  unfold srcStored
  extract_lets a b t u
  have hu : rd u p.1 = p.2 % 2 ^ p.1.w := (rd_wr_ne t _ (hk _ (by simp))).trans (rd_wrs_mem hd s hp)
  clear_value u
  rw [(judgePtp_frame _).1.kept _ fun g hg => hk g (List.mem_cons_of_mem _ hg)]
  split <;> exact hu

theorem ppsNamed_frame (s : State) (was : Bool) : TimeFrame s (ppsNamed s was) [] := by
  unfold ppsNamed
  split
  · exact timeFrame_modTime s _ _
  · split
    · exact timeFrame_modTime s _ _
    · exact TimeFrame.refl s _

/-- The use of 1PPS takes nothing up and gives nothing out. -/
theorem ppsNamed_waits (s : State) (was : Bool) :
    (ppsNamed s was).time.setPend = s.time.setPend ∧ (ppsNamed s was).time.heldCorr = s.time.heldCorr ∧
      (ppsNamed s was).time.pulse = s.time.pulse := by
  unfold ppsNamed
  split
  · exact ⟨rfl, rfl, rfl⟩
  · split <;> exact ⟨rfl, rfl, rfl⟩

/-- With no time of day and no correction waiting and no pulse out, nothing follows a write of TIM_SRC_CFG but what it stores and the
use of 1PPS (R31). -/
theorem exec_timeSourceConfig {s : State} (hu : fnUp s 0 = true) (hs : s.time.setPend = none) (hc : s.time.heldCorr = none)
    (hp : s.time.pulse = false) (v : Word64) :
    exec (.timeSourceConfig 0 v) s = .next (timeSync (ppsNamed (srcStored s v.toNat) (names s 1))) := by
  refine congrArg Host.Outcome.next ((if_neg (by rw [fnPhys_of_fnUp hu]; decide)).trans ?_)
  extract_lets n was p q moved s1 s2 s3 s4 s5 s6
  have h4 : s4 = ppsNamed (srcStored s v.toNat) (names s 1) := rfl
  obtain ⟨hset, hheld, hpulse⟩ : s4.time.setPend = none ∧ s4.time.heldCorr = none ∧ s4.time.pulse = false := by
    obtain ⟨-, h, hh⟩ := srcStored_frame s v.toNat
    obtain ⟨h1, h2, h3⟩ := ppsNamed_waits (srcStored s v.toNat) (names s 1)
    rw [h4, h1, h2, h3, hh]
    exact ⟨hs, hc, hp⟩
  clear_value s4
  have h5 : s5 = s4 := by simp only [s5, hset]
  have h6 : s6 = s4 := by simp [s6, h5, hpulse]
  rw [← h4, h6, hheld]

/-- A write of TIM_SRC_CFG with nothing waiting (R31, R53). -/
theorem timeSourceConfig_takes {s : State} {n : Nat} {t : State} (ht : t = timeSync (ppsNamed (srcStored s n) (names s 1))) :
    (∀ p ∈ srcWrites s n, rd t p.1 = p.2 % 2 ^ p.1.w) ∧ (names t 1 = true → names s 1 = false → t.time.pps = 2 ∧ t.time.lastEdge = some s.now) ∧
      (names t 1 = false → t.time.pps = 0) ∧ tod t = tod s ∧ t.mem = s.mem ∧ t.tiles = s.tiles ∧ t.runs = s.runs := by
  obtain ⟨hf, -⟩ := srcStored_frame s n
  have hp := ppsNamed_frame (srcStored s n) (names s 1)
  have hy := timeFrame_timeSync (ppsNamed (srcStored s n) (names s 1))
  obtain ⟨h, hh⟩ := timeSync_time (ppsNamed (srcStored s n) (names s 1))
  have hn : names t 1 = names (srcStored s n) 1 := by
    rw [ht, names_congr hy.kept 1 (by decide), names_congr hp.kept 1 (by simp)]
  rw [hn, ht, hh]
  have hne : ∀ f ∈ (srcWrites s n).map (·.1), ∀ g ∈ syncFields, f.key ≠ g.key := by
    simp only [srcWrites, List.map_cons, List.map_nil]
    decide
  refine ⟨fun p hm => ?_, fun hnew hold => ?_, fun hnot => ?_, ?_, (hy.mem.trans hp.mem).trans hf.mem, (hy.tiles.trans hp.tiles).trans hf.tiles,
    (hy.runs.trans hp.runs).trans hf.runs⟩
  · rw [hy.kept _ (hne p.1 (List.mem_map_of_mem hm)), hp.kept _ (by simp), rd_srcStored hm]
  · rw [ppsNamed, hnew, hold]
    exact ⟨rfl, congrArg some hf.now⟩
  · rw [ppsNamed, hnot]
    rfl
  · refine ((hy.rd TIM_TOD_tod).trans (hp.rd TIM_TOD_tod)).trans (hf.rd TIM_TOD_tod ?_)
    simp only [srcWrites, List.map_cons, List.map_nil, List.cons_append, List.nil_append]
    decide

/-- SLEW_COMPLETE with nothing left of the slew clears slewing alone (R35). -/
theorem slewComplete_clears {s : State} (ho : on s TIM_STATUS_slewing = true) (hs : s.time.slew = 0) :
    Gives .slewComplete s fun t => Writes s { t with time := s.time } [(TIM_STATUS_slewing, 0)] ∧ t.time.slew = 0 := by
  have hw := ((Writes.refl s).then_set TIM_STATUS_slewing (v := 0) (by decide)).then_time
    fun x => if x.heldCorr.isNone then { x with jump := false } else x
  refine ⟨_, congrArg Host.Outcome.next (if_pos (by rw [ho, hs]; rfl)), hw.of_time, ?_⟩
  change (if s.time.heldCorr.isNone then { s.time with jump := false } else s.time : TimeSt).slew = 0
  split <;> exact hs

/-- Settles O12: the fields of the write, read back through `srcStored`, and the use of 1PPS that follows. -/
theorem timeSourcesAreConfigured : Obligations.TimeSourcesAreConfigured := by
  unfold Obligations.TimeSourcesAreConfigured
  refine ⟨fun s v hu hs hc hp => ⟨_, exec_timeSourceConfig hu hs hc hp v, ?_⟩, fun s ho hs => slewComplete_clears ho hs⟩
  obtain ⟨hv, hnew, hnot, hrest⟩ := timeSourceConfig_takes (s := s) (n := v.toNat) rfl
  simp only [srcWrites, List.forall_mem_cons] at hv
  obtain ⟨h0, h1, h2, h3, h4, h5, h6, h7, h8, h9, -⟩ := hv
  exact ⟨h0.trans (srcField_mod _ _ _), h1.trans (srcField_mod _ _ _), h2, h3, h4, h5, h6, h7, h8, h9, hnew, hnot, hrest⟩

end Sys2Proof.Machine
end

section
namespace Sys2Proof.Machine

-- One proof after another: many at once take more memory, in a text this long, than its compile has.
set_option Elab.async false

/-! ## What hardware faults leave of the time unit (02_time_and_clocking.md, R53; 14, R351 to R357) -/

/-- The registers of the time unit, outside the tile blocks, read as before. -/
def TimKept (s t : State) : Prop := ∀ f : Fld, 64 * 0x20000 ≤ f.key → f.key < 64 * 0x20100 → rd t f = rd s f

theorem TimKept.refl (s : State) : TimKept s s := fun _ _ _ => rfl

theorem TimKept.trans {a b c : State} (h : TimKept a b) (g : TimKept b c) : TimKept a c :=
  fun f h1 h2 => (g f h1 h2).trans (h f h1 h2)

theorem TimKept.foldl {α : Type} {g : State → α → State} (hg : ∀ s a, TimKept s (g s a)) (l : List α) (s : State) :
    TimKept s (l.foldl g s) := by
  induction l generalizing s with
  | nil => exact .refl s
  | cons a l ih => exact (hg s a).trans (ih (g s a))

theorem TimKept.of_regs {s t : State} (hr : t.regs = s.regs) (hp : t.part = s.part) : TimKept s t := fun f _ _ => rd_congr f hr hp

/-- Writes of registers that lie beyond those of the time unit, or before. -/
theorem TimKept.of_fields {s t : State} {l : List Fld} (h : FieldsKept s t l) (hl : ∀ g ∈ l, 0x20100 ≤ g.off ∨ g.key < 64 * 0x20000) :
    TimKept s t := fun f h1 h2 => h f fun g hg he => by
  have hk : g.key = 64 * g.off + g.lo := rfl
  have := hl g hg
  omega

theorem timKept_wr (s : State) {f : Fld} (v : Nat) (hf : 0x20100 ≤ f.off) : TimKept s (wr s f v) :=
  .of_fields (fieldsKept_wr s f v) (by simpa using .inl hf)

theorem timKept_wrs (s : State) {l : List (Fld × Nat)} (hl : ∀ p ∈ l, 0x20100 ≤ p.1.off) : TimKept s (wrs s l) :=
  .of_fields (fieldsKept_wrs s l) fun g hg => by
    obtain ⟨p, hp, rfl⟩ := List.mem_map.1 hg
    exact .inl (hl p hp)

theorem timKept_modRun (s : State) (r : Nat) (f : Run → Run) : TimKept s (modRun s r f) :=
  .of_regs (modRun_regs s r f) (modRun_part s r f)

theorem timKept_evalFailed (s : State) : TimKept s (evalFailed s) := by
  obtain ⟨-, hk⟩ := evalFailed_frame s
  exact .of_fields hk (by decide)

theorem timKept_retireSpare (s : State) (t kind idx : Nat) : TimKept s (retireSpare s t kind idx) := by
  unfold retireSpare
  split
  · split
    · exact timKept_wrs s (by simp [REL_DPU_used, REL_DPU_retired, REL_DPU]; omega)
    · exact .refl s
  · split
    · split
      · exact timKept_wr s _ (by simp [REL_AIDE_retired, REL_AIDE]; omega)
      · exact .refl s
    · split
      · split
        · exact timKept_wrs s (by simp [REL_ROW_used, REL_ROW_retired, REL_ROW]; omega)
        · exact .refl s
      · exact .refl s

theorem timKept_condemnSite (s : State) (t : Nat) : TimKept s (condemnSite s t) :=
  (timKept_wr s 1 (by simp [REL_TILE_MAP_condemned, REL_TILE_MAP]; omega)).trans (timKept_wr _ _ (by decide))

theorem timKept_condemn (s : State) (t kind idx : Nat) : TimKept s (condemn s t kind idx) := by
  have hr : TimKept s (raise (retireSpare s t kind idx) REL_CAUSE_cause 1) :=
    (timKept_retireSpare s t kind idx).trans (timKept_wr _ _ (by decide))
  unfold condemn
  split
  · exact timKept_condemnSite s t
  · split
    · exact ((timKept_wr s 1 (by simp [REL_STACK_WEAR_condemned, REL_STACK_WEAR]; omega)).trans (timKept_wr _ _ (by decide))).trans
        (timKept_evalFailed _)
    · extract_lets u
      change TimKept s u at hr
      split
      · refine hr.trans ?_
        unfold queueUnit
        split
        · exact .refl u
        · exact .of_regs rfl rfl
      · refine hr.trans ?_
        unfold passOn
        split
        · exact timKept_wr u 1 (by simp [REL_TILE_MAP_region_condemned, REL_TILE_MAP]; omega)
        · exact timKept_condemnSite u t

theorem timKept_countFault (s : State) (tile : Nat) (u : Option (Nat × Nat)) : TimKept s (countFault s tile u).1 := by
  have ht : ∀ f : Fld, 0x20100 ≤ f.off → ∀ n, TimKept s
      (if n ≤ rd s f + 1 then (wr s f 0, true) else (wr s f (rd s f + 1), false) : State × Bool).1 := by
    intro f hf n
    split
    · exact timKept_wr s _ hf
    · exact timKept_wr s _ hf
  unfold countFault
  extract_lets lim tally
  split
  · exact ht _ (by simp [REL_STACK_WEAR_faults, REL_STACK_WEAR]; omega) lim
  · split
    · exact ht _ (by simp [REL_WEAR_faults, REL_WEAR]; omega) lim
    · exact .refl s
  · exact .refl s

theorem timKept_shadowFault (s : State) (t pos : Nat) : TimKept s (shadowFault s t pos).1 := by
  have hb : TimKept s (bump s (ME_SHADOW_mismatches t) 1) := timKept_wr s _ (by simp [ME_SHADOW_mismatches, ME_SHADOW]; omega)
  unfold shadowFault
  refine hb.trans (timKept_wrs _ ?_)
  simp [ME_SHADOW_last_pos, ME_SHADOW, ME_SHADOW_INFO_last_mma, ME_SHADOW_INFO, REL_DPU_last_pos, REL_DPU_last_bench, REL_DPU_last_valid, REL_DPU]
  omega

theorem timKept_of_pair {α : Type} {p : State × α} {s t : State} {a : α} (h : p = (t, a)) (hp : TimKept s p.1) : TimKept s t := by
  subst h
  exact hp

/-- A hardware fault leaves the registers of the time unit alone (R351 to R357). -/
theorem timKept_hwFaultOn (s : State) (code tile idx : Nat) (rs : List Nat) : TimKept s (hwFaultOn s code tile idx rs) := by
  unfold hwFaultOn
  extract_lets u key twice s1
  have h1 : TimKept s s1 := .foldl (fun s r => timKept_modRun s r _) _ _
  clear_value s1 twice key u
  split
  next s2 hit he =>
    have h2 : TimKept s s2 := timKept_of_pair he (by
      split
      · exact h1.trans (timKept_shadowFault _ _ _)
      · exact h1)
    clear he
    split
    next s3 limit hc =>
      have h3 : TimKept s s3 := timKept_of_pair hc (h2.trans (timKept_countFault _ _ _))
      clear hc
      extract_lets unit s4 named detail s5
      clear_value unit
      have h4 : TimKept s s4 := by
        unfold s4
        split
        · exact h3.trans (timKept_condemn _ _ _ _)
        · exact h3
      have h5 : TimKept s s5 := (h4.trans (timKept_wrs _ (by simp [REL_FAULT_fault, REL_FAULT_AT_tod, REL_FAULT, REL_FAULT_AT]))).trans
        (timKept_wr _ _ (by decide))
      clear_value s5 detail named s4
      refine h5.trans (.foldl (fun s r => ?_) rs s5)
      extract_lets s6
      refine TimKept.trans (b := s6) (timKept_modRun s r _) ?_
      split
      · split
        · split
          · exact .refl _
          · exact .of_regs rfl rfl
        · exact .refl _
      · exact .refl _

end Sys2Proof.Machine
end

section
namespace Sys2Proof.Machine

-- One proof after another: many at once take more memory, in a text this long, than its compile has.
set_option Elab.async false

/-! ## Frequency steps and roll call (02_time_and_clocking.md, R41, R46, R47, R52) -/

/-- A target that differs from the step in force is requested (R52). -/
theorem setTarget_requests {s : State} {v : Nat} (hv : v < 4) (hc : v ≠ rd s TIM_FREQ_CTL_current) :
    Writes s (setTarget s v) [(TIM_FREQ_CTL_target, v), (TIM_FREQ_CTL_busy, 1)] := by
  have hw := (Writes.refl s).then_set TIM_FREQ_CTL_target hv
  have he : setTarget s v = _ := if_pos (by rwa [hw.keeps])
  exact he ▸ hw.then_set TIM_FREQ_CTL_busy (v := 1) (by decide)

/-- A target equal to it withdraws a step that has not begun (R52). -/
theorem setTarget_withdraws {s : State} {v : Nat} (hv : v < 4) (hc : v = rd s TIM_FREQ_CTL_current) (hr : s.time.relock = false)
    (hn : s.time.rollCall ≠ 2) : Writes s (setTarget s v) [(TIM_FREQ_CTL_target, v), (TIM_FREQ_CTL_busy, 0)] := by
  have hw := (Writes.refl s).then_set TIM_FREQ_CTL_target hv
  have he : setTarget s v = _ := (if_neg (by rw [hw.keeps]; exact not_not_intro hc)).trans (if_neg (by simp [hr, hn]))
  exact he ▸ hw.then_set TIM_FREQ_CTL_busy (v := 0) (by decide)

theorem exec_freqTargetWrite {s : State} (hu : fnUp s 0 = true) (g : BitVec 2) :
    exec (.freqTargetWrite 0 g) s = .next (setTarget s g.toNat) := by
  simp only [exec, execFreqTargetWrite, fnPhys_of_fnUp hu, if_true]

/-- The relock begins between runs and ahead of the start bells (R52). -/
theorem pllRelock_begins {s : State} (hb : on s TIM_FREQ_CTL_busy = true) (hg : gridStopped s = false)
    (hr : ∀ p ∈ s.runs, p.2.live = false) (hp : ∀ p ∈ s.periods, tod s + 25000 ≤ p.2.bellAt p.2.nextStart) :
    exec .pllRelock s = .next { s with time := { s.time with relock := true, relockTo := rd s TIM_FREQ_CTL_target } } := by
  have hlive : (s.runs.any fun p => p.2.live) = false := List.any_eq_false.2 fun p hm => by simp [hr p hm]
  have hall : (s.periods.all fun p => decide (tod s + 25000 ≤ p.2.bellAt p.2.nextStart)) = true :=
    List.all_eq_true.2 fun p hm => decide_eq_true (hp p hm)
  exact congrArg Host.Outcome.next (if_pos (by rw [hb, hg, hlive, hall]; rfl))

/-- The relock ends with the step in force, and its roll call runs (R52). -/
theorem relockDone_runs {s : State} (h : s.time.relock = true) : Gives .relockDone s fun t =>
    t.time = { s.time with relock := false, rollCall := 2, rollRun := none } ∧
      Writes s { t with time := s.time } [(TIM_FREQ_CTL_current, s.time.relockTo % 2 ^ 2)] :=
  ⟨_, congrArg Host.Outcome.next (if_pos h), rfl, (((Writes.refl s).then_wr TIM_FREQ_CTL_current s.time.relockTo).then_time _).of_time⟩

/-! ### The grid that a roll call starts (R41, R46) -/

/-- Window 0 of the new grid: tiles keep all but their stretches and bubble requests, of the registers TIM_WINDOW alone is written. -/
theorem tileOf_startGrid (s : State) (u : Nat) : tileOf (startGrid s) u = { tileOf s u with stretch := 0, bubbleReq := false } := by
  have h := Store.get?_map s.tiles (fun p => (p.1, { p.2 with stretch := 0, bubbleReq := false })) (fun _ => rfl) u
  have he : tileOf (startGrid s) u = (Store.get? (regrid s).tiles u).getD Tile.init := rfl
  rw [he, regrid, h, tileOf]
  cases Store.get? s.tiles u <;> rfl

theorem tiles_startGrid (s : State) : ∀ p ∈ (startGrid s).tiles, p.2.stretch = 0 ∧ p.2.bubbleReq = false := by
  intro p hp
  obtain ⟨q, -, rfl⟩ := List.mem_map.1 (show p ∈ s.tiles.map _ from hp)
  exact ⟨rfl, rfl⟩

theorem rd_startGrid (s : State) : rd (startGrid s) TIM_WINDOW_window = 0 := rd_wr_self _ _ _

theorem fieldsKept_startGrid (s : State) : FieldsKept s (startGrid s) [TIM_WINDOW_window] :=
  fun _ hf => (rd_wr_ne (modTime (regrid s) _) 0 (hf _ List.mem_cons_self)).trans rfl

/-! ### The offsets that a roll call finds (R47) -/

/-- The offsets of the enabled links, as writes. -/
def offsetWrites (s : State) (l : List (Nat × Nat × Nat)) : List (Fld × Nat) :=
  (l.filter fun o => linkEnabled s o.1 o.2.1).map fun o => (TIM_XOFS_offset o.1 o.2.1, o.2.2)

theorem foldl_offsets (l : List (Nat × Nat × Nat)) (s : State) :
    l.foldl (fun s o => if linkEnabled s o.1 o.2.1 then wr s (TIM_XOFS_offset o.1 o.2.1) o.2.2 else s) s = wrs s (offsetWrites s l) := by
  induction l generalizing s with
  | nil => rfl
  | cons o l ih =>
    rw [List.foldl_cons, ih, offsetWrites, offsetWrites, List.filter_cons]
    split
    · rfl
    · rfl

/-- A link that is enabled is one of the four. -/
theorem link_lt_of_enabled {s : State} {t l : Nat} (h : linkEnabled s t l = true) : l < 4 := by
  have hn : (neighbourTile t l).isSome = true := by
    unfold linkEnabled at h
    split at h
    · cases h
    next u hu => rw [hu]; rfl
  match l, hn with
  | 0, _ => decide
  | 1, _ => decide
  | 2, _ => decide
  | 3, _ => decide
  | _ + 4, hn => simp [neighbourTile, neighbour] at hn

theorem offset_key (t l : Nat) : (TIM_XOFS_offset t l).key = 64 * (0x1000200 + 0x10000 * t) + (0 + 16 * l) := rfl

theorem offset_key_inj {t l t' l' : Nat} (h : l < 4) (h' : l' < 4) (he : (TIM_XOFS_offset t l).key = (TIM_XOFS_offset t' l').key) :
    (t, l) = (t', l') := by
  rw [offset_key, offset_key] at he
  ext <;> simp <;> omega

theorem offsetWrites_keys_nodup (s : State) {l : List (Nat × Nat × Nat)} (hl : (l.map fun o => (o.1, o.2.1)).Nodup) :
    ((offsetWrites s l).map (·.1.key)).Nodup := by
  have hf : ((l.filter fun o => linkEnabled s o.1 o.2.1).map fun o => (o.1, o.2.1)).Nodup := hl.sublist (List.filter_sublist.map _)
  rw [offsetWrites, List.map_map]
  refine List.Nodup.map_on ?_ (List.Nodup.of_map _ hf)
  intro o ho p hp he
  obtain ⟨-, hoe⟩ := List.mem_filter.1 ho
  obtain ⟨-, hpe⟩ := List.mem_filter.1 hp
  exact List.inj_on_of_nodup_map hf ho hp (offset_key_inj (link_lt_of_enabled hoe) (link_lt_of_enabled hpe) he)

/-- The offset of an enabled link is the one found. -/
theorem rd_offsetWrites {s t : State} {l : List (Nat × Nat × Nat)} (hl : (l.map fun o => (o.1, o.2.1)).Nodup) {o : Nat × Nat × Nat}
    (ho : o ∈ l) (he : linkEnabled s o.1 o.2.1 = true) :
    rd (wrs t (offsetWrites s l)) (TIM_XOFS_offset o.1 o.2.1) = o.2.2 % 2 ^ (TIM_XOFS_offset o.1 o.2.1).w :=
  rd_wrs_mem (offsetWrites_keys_nodup s hl) t (p := (TIM_XOFS_offset o.1 o.2.1, o.2.2))
    (List.mem_map.2 ⟨o, List.mem_filter.2 ⟨ho, he⟩, rfl⟩)

theorem fieldsKept_offsetWrites (s t : State) (l : List (Nat × Nat × Nat)) :
    FieldsKept t (wrs t (offsetWrites s l)) (l.map fun o => TIM_XOFS_offset o.1 o.2.1) :=
  (fieldsKept_wrs t _).mono fun f hf => by
    obtain ⟨p, hp, rfl⟩ := List.mem_map.1 hf
    obtain ⟨o, ho, rfl⟩ := List.mem_map.1 hp
    exact List.mem_map_of_mem (List.mem_filter.1 ho).1

theorem timKept_offsetWrites (s t : State) (l : List (Nat × Nat × Nat)) : TimKept t (wrs t (offsetWrites s l)) :=
  .of_fields (fieldsKept_offsetWrites s t l) fun f hf => by
    obtain ⟨o, -, rfl⟩ := List.mem_map.1 hf
    exact .inl (by simp [TIM_XOFS_offset, TIM_XOFS]; omega)

end Sys2Proof.Machine
end

section
namespace Sys2Proof.Machine

-- One proof after another: many at once take more memory, in a text this long, than its compile has.
set_option Elab.async false

/-! ### The end of a roll call (R41, R47, R52) -/

/-- What a roll call that ends leaves before a frequency step is counted done: the new grid, and the offsets found (R41, R47). -/
def rollCallEnded (s : State) (l : List (Nat × Nat × Nat)) : State :=
  wrs (modTime (startGrid s) fun x => { x with rollDue := false }) (offsetWrites s l)

/-- What follows for a frequency step: its busy bit, and FREQ_STEP_DONE (R52). -/
def stepDone (s : State) : State :=
  raise (wr { s with pwr := { s.pwr with acc := [] } } TIM_FREQ_CTL_busy
    (b2n (rd s TIM_FREQ_CTL_target != rd s TIM_FREQ_CTL_current))) TIM_CAUSE_cause 11

theorem exec_rollCallDone {s : State} (h : s.time.rollCall ≠ 0) (l : List (Nat × Nat × Nat)) :
    exec (.rollCallDone l) s = .next (if s.time.rollCall = 2 then stepDone (rollCallEnded s l) else rollCallEnded s l) := by
  refine congrArg Host.Outcome.next ((if_neg h).trans ?_)
  extract_lets step s1 s2 s3
  have h2 : s2 = rollCallEnded s l := foldl_offsets l s1
  clear_value s2
  subst h2
  by_cases h2 : s.time.rollCall = 2
  · exact (if_pos (by simp [step, h2])).trans (if_pos h2).symm
  · exact (if_neg (by simp [step, h2])).trans (if_neg h2).symm

theorem tileOf_rollCallEnded (s : State) (l : List (Nat × Nat × Nat)) (u : Nat) :
    tileOf (rollCallEnded s l) u = { tileOf s u with stretch := 0, bubbleReq := false } :=
  (tileOf_wrs _ _ u).trans (tileOf_startGrid s u)

theorem tiles_rollCallEnded (s : State) (l : List (Nat × Nat × Nat)) :
    ∀ p ∈ (rollCallEnded s l).tiles, p.2.stretch = 0 ∧ p.2.bubbleReq = false := by
  rw [rollCallEnded, wrs_tiles]
  exact tiles_startGrid s

theorem fieldsKept_rollCallEnded (s : State) (l : List (Nat × Nat × Nat)) :
    FieldsKept s (rollCallEnded s l) ((l.map fun o => TIM_XOFS_offset o.1 o.2.1) ++ [TIM_WINDOW_window]) :=
  .trans (t := modTime (startGrid s) fun x => { x with rollDue := false }) ((fieldsKept_startGrid s).mono fun _ hf => List.mem_append_right _ hf)
    ((fieldsKept_offsetWrites s _ l).mono fun _ hf => List.mem_append_left _ hf)

theorem rd_rollCallEnded_window (s : State) (l : List (Nat × Nat × Nat)) : rd (rollCallEnded s l) TIM_WINDOW_window = 0 :=
  (timKept_offsetWrites s _ l _ (by decide) (by decide)).trans (rd_startGrid s)

theorem time_rollCallEnded (s : State) (l : List (Nat × Nat × Nat)) : (rollCallEnded s l).time =
    { s.time with rollCall := 0, rollRun := none, rolled := true, winTod := tod s, rollDue := false } := wrs_time _ _

theorem mem_rollCallEnded (s : State) (l : List (Nat × Nat × Nat)) : (rollCallEnded s l).mem = s.mem := wrs_mem _ _

theorem bubbleNow_rollCallEnded (s : State) (l : List (Nat × Nat × Nat)) : (rollCallEnded s l).bubbleNow = [] := wrs_bubbleNow _ _

theorem rd_offset_rollCallEnded {s : State} {l : List (Nat × Nat × Nat)} (hl : (l.map fun o => (o.1, o.2.1)).Nodup) {o : Nat × Nat × Nat}
    (ho : o ∈ l) (he : linkEnabled s o.1 o.2.1 = true) :
    rd (rollCallEnded s l) (TIM_XOFS_offset o.1 o.2.1) = o.2.2 % 2 ^ (TIM_XOFS_offset o.1 o.2.1).w := rd_offsetWrites hl ho he

/-- A register of the time unit but TIM_WINDOW reads as before. -/
theorem rd_rollCallEnded (s : State) (l : List (Nat × Nat × Nat)) (f : Fld) (h1 : 64 * 0x20000 ≤ f.key := by decide)
    (h2 : f.key < 64 * 0x20100 := by decide) (hf : f.key ≠ TIM_WINDOW_window.key := by decide) : rd (rollCallEnded s l) f = rd s f :=
  (timKept_offsetWrites s _ l f h1 h2).trans (fieldsKept_startGrid s f (by simpa using hf))

/-- FREQ_STEP_DONE (R52). -/
theorem stepDone_writes (s : State) : Writes { s with pwr := { s.pwr with acc := [] } } (stepDone s)
    [(TIM_FREQ_CTL_busy, b2n (rd s TIM_FREQ_CTL_target != rd s TIM_FREQ_CTL_current)), (TIM_CAUSE_cause, withBit s TIM_CAUSE_cause 11)] :=
  ((Writes.refl _).then_set TIM_FREQ_CTL_busy (b2n_lt_two _)).then_raise TIM_CAUSE_cause 11

/-- Roll call has ended without a frequency step (R41, R47). -/
theorem rollCallDone_grid {s : State} {l : List (Nat × Nat × Nat)} (hl : (l.map fun o => (o.1, o.2.1)).Nodup) {t : State}
    (ht : t = if s.time.rollCall = 2 then stepDone (rollCallEnded s l) else rollCallEnded s l) :
    rd t TIM_WINDOW_window = 0 ∧ t.time = (rollCallEnded s l).time ∧ t.bubbleNow = [] ∧ t.tiles = (rollCallEnded s l).tiles ∧
      (∀ o ∈ l, linkEnabled s o.1 o.2.1 = true → rd t (TIM_XOFS_offset o.1 o.2.1) = o.2.2 % 2 ^ (TIM_XOFS_offset o.1 o.2.1).w) ∧
      (s.time.rollCall = 2 → rd t TIM_FREQ_CTL_busy = b2n (rd s TIM_FREQ_CTL_target != rd s TIM_FREQ_CTL_current) ∧
        rd t TIM_CAUSE_cause = withBit s TIM_CAUSE_cause 11) ∧
      FieldsKept s t ((l.map fun o => TIM_XOFS_offset o.1 o.2.1) ++ (if s.time.rollCall = 2 then [TIM_FREQ_CTL_busy, TIM_CAUSE_cause]
        else []) ++ [TIM_WINDOW_window]) ∧ t.mem = s.mem := by
  have hk := fieldsKept_rollCallEnded s l
  by_cases h2 : s.time.rollCall = 2
  · rw [if_pos h2] at ht
    have hw := stepDone_writes (rollCallEnded s l)
    rw [ht, if_pos h2]
    refine ⟨hw.keeps.trans (rd_rollCallEnded_window s l), rfl, bubbleNow_rollCallEnded s l, rfl, fun o ho he => ?_, fun _ => ⟨?_, ?_⟩, ?_,
      mem_rollCallEnded s l⟩
    · refine (hw.keeps ?_).trans (rd_offset_rollCallEnded hl ho he)
      simp [TIM_XOFS_offset, TIM_XOFS, Fld.key, TIM_FREQ_CTL_busy, TIM_FREQ_CTL, TIM_CAUSE_cause, TIM_CAUSE]
      omega
    · rw [hw.value 0, rd_rollCallEnded s l TIM_FREQ_CTL_target, rd_rollCallEnded s l TIM_FREQ_CTL_current]
    · rw [hw.value 1, withBit, withBit, rd_rollCallEnded s l TIM_CAUSE_cause]
    · refine .trans (t := rollCallEnded s l) (hk.mono fun f hf => ?_) (hw.kept (by simp))
      rcases List.mem_append.1 hf with h | h
      · exact List.mem_append_left _ (List.mem_append_left _ h)
      · exact List.mem_append_right _ h
  · rw [if_neg h2] at ht
    rw [ht, if_neg h2]
    exact ⟨rd_rollCallEnded_window s l, rfl, bubbleNow_rollCallEnded s l, rfl, fun o ho he => rd_offset_rollCallEnded hl ho he,
      fun h => absurd h h2, hk.mono (by simp), mem_rollCallEnded s l⟩

/-- What follows the record of a roll call's failure: a new grid, with another roll call due, and busy cleared of a frequency step (log 24). -/
def rollCallAgain (v : State) (step : Bool) : State :=
  if step then wr (modTime (startGrid v) fun x => { x with rollDue := true }) TIM_FREQ_CTL_busy 0
  else modTime (startGrid v) fun x => { x with rollDue := true }

theorem exec_rollCallFail {s : State} (h : s.time.rollCall ≠ 0) (hr : s.time.rollRun = none) (u l : Nat) :
    exec (.rollCallFail u l) s = .next (rollCallAgain (hwFaultOn (raise (noteXovr s u l false false) TIM_CAUSE_cause 9) 0x0A u l [])
      (s.time.rollCall == 2)) := by
  refine congrArg Host.Outcome.next ((if_neg h).trans ?_)
  rw [hr]
  rfl

theorem rollCallAgain_writes (v : State) : Writes (modTime (startGrid v) fun x => { x with rollDue := true }) (rollCallAgain v true)
    [(TIM_FREQ_CTL_busy, 0)] :=
  (Writes.refl _).then_set TIM_FREQ_CTL_busy (by decide)

theorem rd_rollCallAgain_window (v : State) (step : Bool) : rd (rollCallAgain v step) TIM_WINDOW_window = 0 := by
  cases step
  · exact rd_startGrid v
  · exact (rollCallAgain_writes v).keeps.trans (rd_startGrid v)

theorem rd_rollCallAgain (v : State) (step : Bool) (f : Fld) (hw : f.key ≠ TIM_WINDOW_window.key) (hb : f.key ≠ TIM_FREQ_CTL_busy.key) :
    rd (rollCallAgain v step) f = rd v f := by
  have hk : rd (modTime (startGrid v) fun x => { x with rollDue := true }) f = rd v f := fieldsKept_startGrid v f (by simpa using hw)
  cases step
  · exact hk
  · exact ((rollCallAgain_writes v).keeps (by simpa using hb)).trans hk

theorem mem_rollCallAgain (v : State) (step : Bool) : (rollCallAgain v step).mem = v.mem := by cases step <;> rfl

theorem time_rollCallAgain (v : State) (step : Bool) : (rollCallAgain v step).time =
    { v.time with rollCall := 0, rollRun := none, rolled := true, winTod := tod v, rollDue := true } := by cases step <;> rfl

theorem rd_rollCallAgain_busy (v : State) : rd (rollCallAgain v true) TIM_FREQ_CTL_busy = 0 := (rollCallAgain_writes v).value 0

/-- Roll call fails on a link: the fault is recorded, the grid runs, and another roll call is due (R41, R47; log 24). -/
theorem rollCallFail_restarts {s : State} (h : s.time.rollCall ≠ 0) (hr : s.time.rollRun = none) (u l : Nat) :
    Gives (.rollCallFail u l) s fun t => flag t TIM_CAUSE_cause 9 = true ∧ flag t REL_CAUSE_cause 0 = true ∧
      rd t TIM_WINDOW_window = 0 ∧ t.time.rollCall = 0 ∧ t.time.rollDue = true ∧ (s.time.rollCall = 2 → rd t TIM_FREQ_CTL_busy = 0) ∧
      t.mem = s.mem := by
  refine ⟨_, exec_rollCallFail h hr u l, ?_⟩
  have htim : rd (hwFaultOn (raise (noteXovr s u l false false) TIM_CAUSE_cause 9) 0x0A u l []) TIM_CAUSE_cause =
      rd (raise (noteXovr s u l false false) TIM_CAUSE_cause 9) TIM_CAUSE_cause :=
    timKept_hwFaultOn _ _ _ _ _ TIM_CAUSE_cause (by decide) (by decide)
  have h9 : flag (raise (noteXovr s u l false false) TIM_CAUSE_cause 9) TIM_CAUSE_cause 9 = true := flag_raise_self _ (by decide)
  have hrel := (hwFaultOn_posted (raise (noteXovr s u l false false) TIM_CAUSE_cause 9) 0x0A u l []).2
  have hmem : (hwFaultOn (raise (noteXovr s u l false false) TIM_CAUSE_cause 9) 0x0A u l []).mem = s.mem :=
    (hwFaultOn_mem _ _ _ _ _).trans (noteXovr_mem s u l false false)
  generalize hwFaultOn (raise (noteXovr s u l false false) TIM_CAUSE_cause 9) 0x0A u l [] = v at *
  refine ⟨?_, ?_, rd_rollCallAgain_window v _, ?_, ?_, fun h2 => ?_, (mem_rollCallAgain v _).trans hmem⟩
  · rw [flag, rd_rollCallAgain v _ TIM_CAUSE_cause (by decide) (by decide), htim]
    exact h9
  · rw [flag, rd_rollCallAgain v _ REL_CAUSE_cause (by decide) (by decide)]
    exact hrel
  · rw [time_rollCallAgain]
  · rw [time_rollCallAgain]
  · rw [h2]
    exact rd_rollCallAgain_busy v

/-- Settles O15: the target is `setTarget`'s, the grid `startGrid`'s, the offsets are a list of writes, and the fault of a link touches
none of the registers of the time unit. -/
theorem frequencyStepsAndRollCall : Obligations.FrequencyStepsAndRollCall := by
  unfold Obligations.FrequencyStepsAndRollCall
  refine ⟨fun s g hu hc => ⟨_, exec_freqTargetWrite hu g, setTarget_requests g.isLt hc⟩,
    fun s g hu hc hr hn => ⟨_, exec_freqTargetWrite hu g, setTarget_withdraws g.isLt hc hr hn⟩,
    fun s hb hg hr hp => pllRelock_begins hb hg hr hp, fun s h => relockDone_runs h, fun s l h hl => ⟨_, exec_rollCallDone h l, ?_⟩,
    fun s u l h hr => ?_⟩
  · obtain ⟨hwin, htime, hbub, htiles, hofs, hstep, hk, hmem⟩ := rollCallDone_grid (s := s) hl rfl
    rw [time_rollCallEnded] at htime
    refine ⟨hwin, by rw [htime], by rw [htime], by rw [htime], by rw [htime], hbub, fun u => ?_, htiles ▸ tiles_rollCallEnded s l, hofs, hstep,
      hk, hmem⟩
    rw [tileOf_congr u htiles, tileOf_rollCallEnded]
  · exact rollCallFail_restarts h hr u l

end Sys2Proof.Machine
end

section
namespace Sys2Proof.Machine

-- One proof after another: many at once take more memory, in a text this long, than its compile has.
set_option Elab.async false

/-! ## Droop, window ends and faults of timing (R41, R48 to R51) -/

/-- At most registers have changed, and of them at most fills that readers have seen (TIM_XFILL, R54). -/
def FillsNoted (s t : State) : Prop :=
  t = { s with regs := t.regs } ∧ ∀ f : Fld, f.lo < 64 → (∀ u, f.off ≠ TIM_XFILL u) → rd t f = rd s f

theorem FillsNoted.refl (s : State) : FillsNoted s s := ⟨rfl, fun _ _ _ => rfl⟩

theorem FillsNoted.trans {a b c : State} (h : FillsNoted a b) (g : FillsNoted b c) : FillsNoted a c := by
  obtain ⟨hb, hrb⟩ := h
  obtain ⟨hc, hrc⟩ := g
  exact ⟨hc.trans (by rw [hb]), fun f hl hf => (hrc f hl hf).trans (hrb f hl hf)⟩

theorem FillsNoted.foldl {α : Type} {g : State → α → State} (hg : ∀ s a, FillsNoted s (g s a)) (l : List α) (s : State) :
    FillsNoted s (l.foldl g s) := by
  induction l generalizing s with
  | nil => exact .refl s
  | cons a l ih => exact (hg s a).trans (ih (g s a))

theorem fillsNoted_noteFill (s : State) (r l w : Nat) : FillsNoted s (noteFill s r l w) := by
  unfold noteFill
  split
  · exact .refl s
  next h =>
    have hl : l < 4 := link_lt_of_enabled (by simpa using h)
    refine ⟨wrs_eq s _, fun f hf hx => rd_wrs_ne s _ f ?_⟩
    have := hx r
    simp only [List.forall_mem_cons, List.not_mem_nil, false_imp_iff, implies_true, and_true, Fld.key, TIM_XFILL_min_fill, TIM_XFILL_max_fill]
    omega

/-- The four links of a tile: the fills at both ends. -/
def noteFills (s : State) (u : Nat) : State :=
  (List.range 4).foldl (fun s l => match neighbourTile u l with
    | some v => noteFill (noteFill s u l v) v ((l + 2) % 4) u
    | none => s) s

theorem fillsNoted_noteFills (s : State) (u : Nat) : FillsNoted s (noteFills s u) := by
  refine .foldl (fun s l => ?_) _ _
  split
  · exact (fillsNoted_noteFill _ _ _ _).trans (fillsNoted_noteFill _ _ _ _)
  · exact .refl s

/-- A tile takes one of the three stretches of a window. -/
theorem exec_droopStretch {s : State} {u : Nat} (hu : tileOn s u = true) (hg : gridStopped s = false) (hb : bubbled s u = false) :
    exec (.droopStretch u) s = .next (if (tileOf s u).stretch < 3 then
      noteFills (if (tileOf s u).stretch = 2 then
        bump (bump (modTile s u fun x => { x with stretch := x.stretch + 1 }) (TIM_STRETCH_own u) 1) (TIM_STRETCH_full_windows u) 1
        else bump (modTile s u fun x => { x with stretch := x.stretch + 1 }) (TIM_STRETCH_own u) 1) u
      else bump (modTile s u fun x => { x with bubbleReq := true }) (TIM_STRETCH_bubble_req u) 1) := by
  refine congrArg Host.Outcome.next ((if_neg (by simp [hu, hg, hb])).trans ?_)
  exact ite_congr rfl (fun _ => congrArg (noteFills · u) (if_congr (by simp) rfl rfl)) fun _ => rfl

theorem droopStretch_taken {s : State} {u : Nat} (hu : tileOn s u = true) (hg : gridStopped s = false) (hb : bubbled s u = false)
    (h3 : (tileOf s u).stretch < 3) :
    Gives (.droopStretch u) s fun t => (tileOf t u).stretch = (tileOf s u).stretch + 1 ∧ (tileOf t u).bubbleReq = (tileOf s u).bubbleReq ∧
      rd t (TIM_STRETCH_own u) = upBy s (TIM_STRETCH_own u) 1 ∧ t.mem = s.mem := by
  refine ⟨_, (exec_droopStretch hu hg hb).trans (congrArg _ (if_pos h3)), ?_⟩
  have hfull : ∀ v : State, rd (bump v (TIM_STRETCH_full_windows u) 1) (TIM_STRETCH_own u) = rd v (TIM_STRETCH_own u) := fun v =>
    rd_bump_ne v 1 (by simp [Fld.key, TIM_STRETCH_own, TIM_STRETCH_full_windows])
  have hv : ∀ v : State, tileOf v u = { tileOf s u with stretch := (tileOf s u).stretch + 1 } →
      rd v (TIM_STRETCH_own u) = upBy s (TIM_STRETCH_own u) 1 → v.mem = s.mem →
      (tileOf (noteFills v u) u).stretch = (tileOf s u).stretch + 1 ∧ (tileOf (noteFills v u) u).bubbleReq = (tileOf s u).bubbleReq ∧
        rd (noteFills v u) (TIM_STRETCH_own u) = upBy s (TIM_STRETCH_own u) 1 ∧ (noteFills v u).mem = s.mem := by
    intro v ht ho hm
    obtain ⟨he, hr⟩ := fillsNoted_noteFills v u
    have htiles : (noteFills v u).tiles = v.tiles := by rw [he]
    rw [tileOf_congr u htiles, ht]
    refine ⟨rfl, rfl, (hr _ (by simp [TIM_STRETCH_own]) fun r => ?_).trans ho, Eq.trans (by rw [he]) hm⟩
    simp only [TIM_STRETCH_own, TIM_STRETCH, TIM_XFILL]
    omega
  split
  · exact hv _ (by simp) ((hfull _).trans (rd_bump_self _ _ _)) rfl
  · exact hv _ (by simp) (rd_bump_self _ _ _) rfl

theorem droopStretch_requests {s : State} {u : Nat} (hu : tileOn s u = true) (hg : gridStopped s = false) (hb : bubbled s u = false)
    (h3 : 3 ≤ (tileOf s u).stretch) :
    Gives (.droopStretch u) s fun t => tileOf t u = { tileOf s u with bubbleReq := true } ∧ TilesKeptBut s t u ∧
      Writes s { t with tiles := s.tiles } [(TIM_STRETCH_bubble_req u, upBy s (TIM_STRETCH_bubble_req u) 1)] := by
  refine ⟨_, (exec_droopStretch hu hg hb).trans (congrArg _ (if_neg (Nat.not_lt.2 h3))), by simp, fun v hv => ?_,
    (Writes.refl s).then_bump (TIM_STRETCH_bubble_req u) 1 (by simp)⟩
  exact (tileOf_bump _ _ _ _).trans (tileOf_modTile_ne _ _ hv)

/-! ### The end of a window -/

theorem timKept_equalise (s : State) : TimKept s (equalise s) := by
  unfold equalise
  extract_lets m old t
  refine .trans (.foldl (fun s u => ?_) _ s) (.of_regs rfl rfl)
  split
  · exact timKept_wr s _ (by simp [TIM_STRETCH_equalising, TIM_STRETCH]; omega)
  · exact .refl s

theorem timKept_windowDomain (s : State) (q : Nat) : TimKept s (windowDomain s q) := by
  unfold windowDomain
  extract_lets issued droop a owed src t
  have ht : TimKept s t := .of_regs rfl rfl
  have hb : ∀ f : Fld, f.off = PWR_BUBBLES q → TimKept s (bump t f 1) := fun f hf =>
    ht.trans (timKept_wr t _ (by rw [hf, PWR_BUBBLES]; omega))
  clear_value t
  split
  · exact hb _ rfl
  · split
    · split
      · exact hb _ rfl
      · exact hb _ rfl
    · exact ht

theorem timKept_syncRatios (s : State) : TimKept s (syncRatios s) := by
  unfold syncRatios
  exact (timKept_wrs s (by simp [PWR_STATUS_capping, PWR_STATUS_thermal, PWR_STATUS])).trans (.of_regs rfl rfl)

theorem timKept_formCaps (s : State) (l : List Nat) : TimKept s (formCaps s l) := by
  unfold formCaps
  extract_lets new rise src t
  refine TimKept.trans (b := t) (.of_regs rfl rfl) (TimKept.trans ?_ (timKept_syncRatios _))
  split
  · exact timKept_wr t _ (by decide)
  · exact .refl t

@[simp] theorem equalise_windows (s : State) : (equalise s).windows = s.windows := by
  unfold equalise
  exact foldl_keeps State.windows (fun s u => by split <;> rfl) _ s

@[simp] theorem windowDomain_windows (s : State) (q : Nat) : (windowDomain s q).windows = s.windows := by
  simp [windowDomain, apply_ite State.windows]

@[simp] theorem formCaps_windows (s : State) (l : List Nat) : (formCaps s l).windows = s.windows := by
  simp [formCaps, syncRatios, apply_ite State.windows]

@[simp] theorem formCaps_tiles (s : State) (l : List Nat) : (formCaps s l).tiles = s.tiles := by
  simp [formCaps, syncRatios, apply_ite State.tiles]

@[simp] theorem formCaps_time (s : State) (l : List Nat) : (formCaps s l).time = s.time := by
  simp [formCaps, syncRatios, apply_ite State.time]

/-- A domain's bubble that ends with the window, counted. -/
def countBubble (s : State) (q : Nat) : State := { s with bubbles := Store.set s.bubbles q (Store.getD s.bubbles q 0 + 1) }

/-- What the boundary does before it counts: stretches equalised, each domain's next window decided, and bubbles counted (R48 to R50). -/
def windowDecided (s : State) : State :=
  ((s.parts.map (·.1)).foldl windowDomain (equalise s)).bubbleNow.foldl countBubble ((s.parts.map (·.1)).foldl windowDomain (equalise s))

/-- The window counted, and the next one open (R41). -/
def windowOpened (s : State) (next : List Nat) : State :=
  modTime (bump { s with tiles := s.tiles.map fun p => (p.1, { p.2 with stretch := 0, bubbleReq := false }), bubbleNow := next
                         windows := s.windows + 1 } TIM_WINDOW_window 1) fun x => { x with winTod := tod s }

theorem exec_windowEnd_standing {s : State} (h : gridStopped s = true) : exec .windowEnd s = .next s :=
  congrArg Host.Outcome.next (if_pos (by simp [h]))

theorem exec_windowEnd {s : State} (h : gridStopped s = false) (hr : s.time.rolled = true) :
    ∃ next t, exec .windowEnd s = .next t ∧
      (t = windowOpened (windowDecided s) next ∨ ∃ l, t = formCaps (windowOpened (windowDecided s) next) l) := by
  refine ⟨(s.parts.map (·.1)).filter (bubbleNext s), _, congrArg Host.Outcome.next (if_neg (by simp [h, hr])), ?_⟩
  extract_lets qs next s1 s2 s3 s4
  split
  · exact .inl rfl
  · exact .inr ⟨_, rfl⟩

theorem timKept_windowDecided (s : State) : TimKept s (windowDecided s) :=
  (timKept_equalise s).trans ((TimKept.foldl timKept_windowDomain _ _).trans (.foldl (g := countBubble) (fun _ _ => .of_regs rfl rfl) _ _))

@[simp] theorem windowDecided_windows (s : State) : (windowDecided s).windows = s.windows :=
  (foldl_keeps State.windows (g := countBubble) (fun _ _ => rfl) _ _).trans ((foldl_keeps State.windows windowDomain_windows _ _).trans (equalise_windows s))

@[simp] theorem windowDecided_mem (s : State) : (windowDecided s).mem = s.mem :=
  (foldl_keeps State.mem (g := countBubble) (fun _ _ => rfl) _ _).trans ((foldl_keeps State.mem windowDomain_mem _ _).trans (equalise_mem s))

theorem windowOpened_counts (s : State) (next : List Nat) :
    rd (windowOpened s next) TIM_WINDOW_window = upBy s TIM_WINDOW_window 1 ∧ (windowOpened s next).windows = s.windows + 1 ∧
      (∀ p ∈ (windowOpened s next).tiles, p.2.stretch = 0 ∧ p.2.bubbleReq = false) ∧ (windowOpened s next).time.winTod = tod s ∧
      tod (windowOpened s next) = tod s ∧ (windowOpened s next).mem = s.mem := by
  have ht : ∀ v : State, tod (bump v TIM_WINDOW_window 1) = tod v := fun v => rd_bump_ne v 1 (by decide)
  refine ⟨rd_bump_self _ _ _, rfl, fun p hp => ?_, rfl, ht _, rfl⟩
  obtain ⟨q, -, rfl⟩ := List.mem_map.1 (show p ∈ s.tiles.map _ from hp)
  exact ⟨rfl, rfl⟩

theorem windowEnd_counts {s : State} (h : gridStopped s = false) (hr : s.time.rolled = true) :
    Gives .windowEnd s fun t => rd t TIM_WINDOW_window = upBy s TIM_WINDOW_window 1 ∧ t.windows = s.windows + 1 ∧
      (∀ p ∈ t.tiles, p.2.stretch = 0 ∧ p.2.bubbleReq = false) ∧ t.time.winTod = tod s ∧ tod t = tod s ∧ t.mem = s.mem := by
  obtain ⟨next, t, hx, ht⟩ := exec_windowEnd h hr
  have htod : tod (windowDecided s) = tod s := timKept_windowDecided s TIM_TOD_tod (by decide) (by decide)
  have hup : upBy (windowDecided s) TIM_WINDOW_window 1 = upBy s TIM_WINDOW_window 1 := by
    rw [upBy, upBy, timKept_windowDecided s TIM_WINDOW_window (by decide) (by decide)]
  have hopen := windowOpened_counts (windowDecided s) next
  rw [hup, windowDecided_windows, htod, windowDecided_mem] at hopen
  refine ⟨t, hx, ?_⟩
  rcases ht with rfl | ⟨l, rfl⟩
  · exact hopen
  · have hk := timKept_formCaps (windowOpened (windowDecided s) next) l
    rw [hk TIM_WINDOW_window (by decide) (by decide), formCaps_windows, formCaps_tiles, formCaps_time, formCaps_mem,
      show tod (formCaps _ l) = tod _ from hk TIM_TOD_tod (by decide) (by decide)]
    exact hopen

/-- Settles O16: a stretch notes fills apart from the stretch counters, a window's end counts once with every other register of the time
unit kept, and the faults are posted as hardware faults. -/
theorem droopAndWindows : Obligations.DroopAndWindows := by
  unfold Obligations.DroopAndWindows
  refine ⟨fun s u hu hg hb h3 => droopStretch_taken hu hg hb h3, fun s u hu hg hb h3 => droopStretch_requests hu hg hb h3,
    fun s hg hr => windowEnd_counts hg hr, fun s h => exec_windowEnd_standing h,
    fun s u h => ⟨_, congrArg Host.Outcome.next (if_pos h), (hwFaultOn_posted _ _ _ _ _).2⟩,
    fun s u h => congrArg Host.Outcome.next (if_neg (by simp [h])), fun s u l o => ⟨_, rfl, (hwFaultOn_posted _ _ _ _ _).2, ?_⟩⟩
  refine (congrArg (bitOf · 10) (timKept_hwFaultOn _ _ _ _ _ TIM_CAUSE_cause (by decide) (by decide))).trans ?_
  exact flag_raise_self _ (by decide)

end Sys2Proof.Machine
end

section
namespace Sys2Proof.Machine

-- One proof after another: many at once take more memory, in a text this long, than its compile has.
set_option Elab.async false

/-! ## Spares (14_reliability_substitution_doubles.md, R358 to R361) -/

/-- Completions leave the registers of reliability alone, the module's and those of a tile. -/
theorem QueueFieldsKept.rel {s t : State} (h : QueueFieldsKept s t) (f : Fld)
    (hf : 64 * 0x90000 ≤ f.key ∧ f.key < 64 * 0xA0000 ∨ 64 * 0x1000000 ≤ f.key := by decide) : rd t f = rd s f := by
  refine h f (fun c hc => ?_) ?_ ?_
  · have hk : (HQ_CQ_STATUS_tail c).key = 64 * (0x40028 + 0x40 * c) := rfl
    omega
  · have hk : HQ_CAUSE_cause.key = 64 * HQ_CAUSE := rfl
    rw [HQ_CAUSE] at hk
    omega
  · have hk : SEC_CAUSE_cause.key = 64 * SEC_CAUSE := rfl
    rw [SEC_CAUSE] at hk
    omega

theorem pumpAll_siteSubs (s : State) : (pumpAll s).siteSubs = s.siteSubs := by
  rw [(queueStep_pumpAll s).rest]

theorem pumpAll_siteMap (s : State) : (pumpAll s).siteMap = s.siteMap := by
  rw [(queueStep_pumpAll s).rest]

/-! ### SUBSTITUTE (R361) -/

/-- SUBSTITUTE of a job that is not loaded. -/
theorem substitute_noJob {s : State} {sq : Nat} {dg : Bytes} {d : Desc} (hs : Starts s sq 7 d) (hj : Store.get? s.jobs d.job = none) :
    Gives (.substitute sq dg) s fun t => Completed s t d stNoJob 0 := by
  obtain ⟨hr, hd⟩ := hs
  exact ⟨_, by simp only [exec, execSubstitute, hr, hj, Option.isNone_none, if_true], completed_finishDesc hd _ _⟩

/-- SUBSTITUTE of a unit within a tile, once its tile is in order. -/
theorem exec_substitute_unit {s : State} {sq : Nat} {dg : Bytes} {d : Desc} {j : Job} (hs : Starts s sq 7 d)
    (hj : Store.get? s.jobs d.job = some j) (hk : fieldLE d.bytes 0x10 1 ≠ 2) (ht : fieldLE d.bytes 0x12 2 < s.part.tiles)
    (hp : tileOfPart s (fieldLE d.bytes 0x12 2) d.part = true) (ho : tileOn s (fieldLE d.bytes 0x12 2) = true) :
    exec (.substitute sq dg) s =
      .next (substUnit s d (fieldLE d.bytes 0x10 1) (fieldLE d.bytes 0x12 2) (fieldLE d.bytes 0x14 2) dg) := by
  obtain ⟨hr, -⟩ := hs
  simp [exec, execSubstitute, hr, hj, hk, hp, ho, Nat.not_le.2 ht]

theorem mem_queueUnit (s : State) (t kind idx : Nat) (m : Option Nat) :
    ∃ u ∈ (queueUnit s t kind idx m).unitSubs, u.tile = t ∧ u.kind = kind ∧ u.idx = idx ∧ u.subm = m := by
  unfold queueUnit
  split
  next h =>
    obtain ⟨u, hu, he⟩ := List.any_eq_true.1 h
    exact ⟨u, hu, by simpa [and_assoc] using he⟩
  · exact ⟨⟨t, kind, idx, false, m⟩, List.mem_append_right _ List.mem_cons_self, rfl, rfl, rfl, rfl⟩

theorem queueUnit_rest (s : State) (t kind idx : Nat) (m : Option Nat) :
    queueUnit s t kind idx m = { s with unitSubs := (queueUnit s t kind idx m).unitSubs } := by
  unfold queueUnit
  split <;> rfl

/-- A unit put in line for a SUBSTITUTE: it waits, and the descriptor has started. -/
theorem substUnit_waits (s : State) (d : Desc) (t k i : Nat) :
    let v := pumpAll (queueUnit (startDesc s d.subm) t k i (some d.subm))
    (∃ u ∈ v.unitSubs, u.tile = t ∧ u.kind = k ∧ u.idx = i ∧ u.subm = some d.subm) ∧ v.mem = s.mem ∧ v.tiles = s.tiles := by
  intro v
  have hv : QueueStep _ v := queueStep_pumpAll _
  have hq := queueUnit_rest (startDesc s d.subm) t k i (some d.subm)
  have hm := mem_queueUnit (startDesc s d.subm) t k i (some d.subm)
  have hr := hv.rest
  clear_value v
  generalize queueUnit (startDesc s d.subm) t k i (some d.subm) = w at *
  refine ⟨?_, by rw [hr, hq]; rfl, by rw [hr, hq]; rfl⟩
  rw [hr]
  exact hm

/-- SUBSTITUTE of a DPU position, an aide or a row group. -/
theorem substitute_unit {s : State} {sq tl k i : Nat} {dg : Bytes} {d : Desc} {j : Job} (hs : Starts s sq 7 d)
    (hj : Store.get? s.jobs d.job = some j) (hk : k = fieldLE d.bytes 0x10 1) (htl : tl = fieldLE d.bytes 0x12 2)
    (hi : i = fieldLE d.bytes 0x14 2) (hkind : k = 3 ∨ k = 4 ∨ k = 5) (ht : tl < s.part.tiles) (hp : tileOfPart s tl d.part = true)
    (ho : tileOn s tl = true) : Gives (.substitute sq dg) s fun t =>
      if (if k = 3 then 256 else if k = 4 then 16 else 4096) ≤ i then Completed s t d stBadTarget 0
      else if spareLeft s tl k = false then Completed s t d stNoBench 0
      else (∃ u ∈ t.unitSubs, u.tile = tl ∧ u.kind = k ∧ u.idx = i ∧ u.subm = some d.subm) ∧ t.mem = s.mem ∧ t.tiles = s.tiles := by
  subst hk htl hi
  refine ⟨_, exec_substitute_unit hs hj (by omega) ht hp ho, ?_⟩
  obtain ⟨-, hd⟩ := hs
  have he : substUnit s d (fieldLE d.bytes 0x10 1) (fieldLE d.bytes 0x12 2) (fieldLE d.bytes 0x14 2) dg = _ := if_neg (by omega)
  rw [he]
  generalize (if fieldLE d.bytes 0x10 1 = 3 then 256 else if fieldLE d.bytes 0x10 1 = 4 then 16 else 4096) = top
  split
  · exact completed_finishDesc hd _ _
  · cases spareLeft s (fieldLE d.bytes 0x12 2) (fieldLE d.bytes 0x10 1)
    · exact completed_finishDesc hd _ _
    · exact substUnit_waits s d _ _ _

/-- SUBSTITUTE of a site. -/
theorem substitute_site {s : State} {sq tl : Nat} {dg : Bytes} {d : Desc} {j : Job} (hs : Starts s sq 7 d)
    (hj : Store.get? s.jobs d.job = some j) (hk : fieldLE d.bytes 0x10 1 = 1) (hl : fieldLE d.bytes 0x11 1 = 0)
    (htl : tl = fieldLE d.bytes 0x12 2) (ht : tl < s.part.tiles) (hp : tileOfPart s tl d.part = true) (ho : tileOn s tl = true) :
    Gives (.substitute sq dg) s fun t => (benchFree s (siteOf s tl).die = false → Completed s t d stNoBench 0) ∧
      (benchFree s (siteOf s tl).die = true → s.siteSubs = [] → t.siteSubs = [⟨tl, false, false, d.subm⟩] ∧ t.siteMap = s.siteMap) := by
  subst htl
  refine ⟨_, exec_substitute_unit hs hj (by omega) ht hp ho, ?_⟩
  obtain ⟨-, hd⟩ := hs
  have he : substUnit s d (fieldLE d.bytes 0x10 1) (fieldLE d.bytes 0x12 2) (fieldLE d.bytes 0x14 2) dg =
      if !benchFree s (siteOf s (fieldLE d.bytes 0x12 2)).die ||
        s.siteSubs.any (fun u => (siteOf s u.tile).die == (siteOf s (fieldLE d.bytes 0x12 2)).die) then finishDesc s d stNoBench 0
      else pumpAll { startDesc s d.subm with siteSubs := s.siteSubs ++ [⟨fieldLE d.bytes 0x12 2, false, false, d.subm⟩] } := by
    simp [substUnit, hk, hl]
    rfl
  rw [he]
  refine ⟨fun hb => ?_, fun hb hs => ?_⟩
  · rw [hb, if_pos (by simp)]
    exact completed_finishDesc hd _ _
  · rw [hb, hs, if_neg (by simp)]
    exact ⟨pumpAll_siteSubs _, pumpAll_siteMap _⟩

/-- A stack copy begun: its registers tell of it (R360). -/
def stackCopyBegun (s : State) (k p m : Nat) : State :=
  { wrs (startDesc s m) [(REL_STACK_COPY_logical, k), (REL_STACK_COPY_dest, p), (REL_STACK_COPY_copied_mib, 0), (REL_STACK_COPY_poisoned, 0),
      (REL_STATUS_copy_active, 1)] with stackCopy := some ⟨k, p, m, s.now⟩ }

theorem stackCopyBegun_shows (s : State) (k p m : Nat) :
    let v := pumpAll (stackCopyBegun s k p m)
    v.stackCopy = some ⟨k, p, m, s.now⟩ ∧ rd v REL_STATUS_copy_active = 1 ∧ rd v REL_STACK_COPY_logical = k % 2 ^ 5 ∧
      rd v REL_STACK_COPY_dest = p % 2 ^ 5 ∧ v.stackMap = s.stackMap := by
  intro v
  have hq : QueueStep _ v := queueStep_pumpAll _
  have hw := writes_wrs (startDesc s m) (l := [(REL_STACK_COPY_logical, k), (REL_STACK_COPY_dest, p), (REL_STACK_COPY_copied_mib, 0),
    (REL_STACK_COPY_poisoned, 0), (REL_STATUS_copy_active, 1)]) (by simp only [List.map_cons, List.map_nil]; decide)
  have hm : (wrs (startDesc s m) [(REL_STACK_COPY_logical, k), (REL_STACK_COPY_dest, p), (REL_STACK_COPY_copied_mib, 0),
    (REL_STACK_COPY_poisoned, 0), (REL_STATUS_copy_active, 1)]).stackMap = s.stackMap := by rw [hw.rest]; rfl
  have hr := hq.rest
  clear_value v
  exact ⟨congrArg State.stackCopy hr, (hq.kept.rel _).trans (hw.value 4), (hq.kept.rel _).trans (hw.value 0),
    (hq.kept.rel _).trans (hw.value 1), (congrArg State.stackMap hr).trans hm⟩

/-- SUBSTITUTE of a stack. -/
theorem substitute_stack {s : State} {sq k : Nat} {dg : Bytes} {d : Desc} {j : Job} (hs : Starts s sq 7 d)
    (hj : Store.get? s.jobs d.job = some j) (hk : fieldLE d.bytes 0x10 1 = 2) (htl : k = fieldLE d.bytes 0x12 2) (hp : d.part = 0)
    (ht : k < s.part.stacks) (hc : s.stackCopy = none) :
    Gives (.substitute sq dg) s fun t => (freeStacks s = [] → Completed s t d stNoBench 0) ∧
      (∀ p l, freeStacks s = p :: l → t.stackCopy = some ⟨k, p, d.subm, s.now⟩ ∧ rd t REL_STATUS_copy_active = 1 ∧
        rd t REL_STACK_COPY_logical = k % 2 ^ 5 ∧ rd t REL_STACK_COPY_dest = p % 2 ^ 5 ∧ t.stackMap = s.stackMap) := by
  subst htl
  obtain ⟨hr, hd⟩ := hs
  cases hf : freeStacks s with
  | nil =>
    refine ⟨finishDesc s d stNoBench 0, by simp [exec, execSubstitute, hr, hj, hk, hp, hc, hf, Nat.not_le.2 ht], fun _ => ?_, fun p l he => ?_⟩
    · exact completed_finishDesc hd _ _
    · cases he
  | cons p l =>
    refine ⟨pumpAll (stackCopyBegun s (fieldLE d.bytes 0x12 2) p d.subm), ?_, fun he => (by cases he), fun p' l' he => ?_⟩
    · simp [exec, execSubstitute, hr, hj, hk, hp, hc, hf, Nat.not_le.2 ht, stackCopyBegun]
      rfl
    · obtain ⟨rfl, rfl⟩ := List.cons.inj he
      exact stackCopyBegun_shows s _ p d.subm

/-! ### Job boundaries (R358, R359) -/

theorem exec_autoSubstitute_begins {s : State} {t k i n : Nat} (hb : atBoundary s t = true) (hu : ∀ u ∈ s.unitSubs, u.begun = false)
    (hs : ∀ u ∈ s.siteSubs, u.begun = false)
    (hn : s.unitSubs.findIdx? (fun u => u.tile == t && u.kind == k && u.idx == i && (on s REL_CFG_auto_en || u.subm.isSome)) = some n) :
    exec (.autoSubstitute t k i) s = .next { s with unitSubs := s.unitSubs.modify n fun u => { u with begun := true } } := by
  have h1 : s.unitSubs.any (fun u => u.tile == t && u.begun) = false := List.any_eq_false.2 fun u hm => by simp [hu u hm]
  have h2 : s.siteSubs.any (fun u => u.tile == t && u.begun) = false := List.any_eq_false.2 fun u hm => by simp [hs u hm]
  simp only [exec, execAutoSubstitute, hb, h1, h2, hn]
  rfl

theorem exec_siteCopyStart_begins {s : State} {t n : Nat} (hb : atBoundary s t = true) (hu : ∀ u ∈ s.unitSubs, u.begun = false)
    (hs : ∀ u ∈ s.siteSubs, u.begun = false) (hn : s.siteSubs.findIdx? (fun u => u.tile == t) = some n) :
    exec (.siteCopyStart t) s = .next { s with siteSubs := s.siteSubs.modify n fun u => { u with begun := true } } := by
  have h1 : s.unitSubs.any (fun u => u.tile == t && u.begun) = false := List.any_eq_false.2 fun u hm => by simp [hu u hm]
  have h2 : s.siteSubs.any (fun u => u.tile == t && u.begun) = false := List.any_eq_false.2 fun u hm => by simp [hs u hm]
  simp only [exec, execSiteCopyStart, hb, h1, h2, hn]
  rfl

theorem exec_replacement_waits {s : State} {t : Nat} (hb : atBoundary s t = false) (k : Nat) :
    exec (.autoSubstitute t k 0) s = .next s ∧ exec (.siteCopyStart t) s = .next s :=
  ⟨congrArg Host.Outcome.next (if_pos (by simp [hb])), congrArg Host.Outcome.next (if_pos (by simp [hb]))⟩

/-! ### Units (R358) -/

/-- What a replacement that ends makes of a tile: its spare is bound, or its condemnation passes on (R358). -/
def unitReplaced (s : State) (t k i : Nat) : State :=
  if spareLeft s t k then raise (replaceUnit s t k i).1 REL_CAUSE_cause 2 else passOn s t k

theorem exec_unitReplaceDone {s : State} {t : Nat} {u : UnitSub} (hu : s.unitSubs = [u]) (ht : u.tile = t) (hb : u.begun = true)
    (hm : u.subm = none) : exec (.unitReplaceDone t) s = .next (unitReplaced { s with unitSubs := [] } t u.kind u.idx) := by
  have hf : s.unitSubs.find? (fun u => u.tile == t && u.begun) = some u := by simp [hu, ht, hb]
  have hl : (s.unitSubs.filter fun v => v != u && !(v.tile == t && v.kind == u.kind && v.idx == u.idx)) = [] := by simp [hu]
  simp only [exec, execUnitReplaceDone, hf, hm, hl, unitReplaced]
  cases spareLeft { s with unitSubs := [] } t u.kind <;> rfl

/-- At most registers and the counter of free values change. -/
def RegsFree (s t : State) : Prop := t = { s with regs := t.regs, freeCtr := t.freeCtr }

theorem RegsOnly.regsFree {s t : State} (h : RegsOnly s t) : RegsFree s t := Eq.trans h (by rw [h])

theorem regsOnly_syncShadow (s : State) (t : Nat) : RegsOnly s (syncShadow s t) := regsOnly_wrs s _

theorem regsFree_replaceUnit (s : State) (t k i : Nat) : RegsFree s (replaceUnit s t k i).1 := by
  unfold replaceUnit
  split
  · exact ((regsOnly_wrs s _).trans (regsOnly_syncShadow _ t)).regsFree
  split
  · exact Eq.trans rfl (by rw [regsOnly_wrs s _]; rfl)
  split
  · exact (regsOnly_wrs s _).regsFree
  · exact ((regsOnly_wr s _ _).trans (regsOnly_syncShadow _ t)).regsFree

theorem regsOnly_passOn (s : State) (t k : Nat) : RegsOnly s (passOn s t k) := by
  unfold passOn
  split
  · rfl
  · rfl

theorem regsFree_unitReplaced (s : State) (t k i : Nat) : RegsFree s (unitReplaced s t k i) := by
  unfold unitReplaced
  split
  · exact Eq.trans rfl (by rw [regsFree_replaceUnit s t k i]; rfl)
  · exact (regsOnly_passOn s t k).regsFree

/-- The matrix engine's registers of shadowing lie below those of the site. -/
theorem rd_syncShadow_rel (s : State) (t : Nat) (f : Fld) (h : f.off = REL_DPU t ∨ f.off = REL_DPU_POS t) : rd (syncShadow s t) f = rd s f := by
  refine rd_wrs_ne s _ f ?_
  simp only [List.forall_mem_cons, List.not_mem_nil, false_imp_iff, implies_true, and_true, Fld.key, ME_STATUS_shadow_width,
    ME_STATUS_shadow_next, ME_STATUS]
  simp only [REL_DPU, REL_DPU_POS] at h
  omega

/-- The lowest free bench DPU serves the position (R358). -/
theorem unitReplaced_dpu {s : State} {t p : Nat} {l : List Nat} (i : Nat) (hf : freeDpus s t = p :: l) :
    bitOf (rd (unitReplaced s t 3 i) (REL_DPU_used t)) p = true ∧ rd (unitReplaced s t 3 i) (REL_DPU_POS_pos t p) = i % 2 ^ 8 ∧
      flag (unitReplaced s t 3 i) REL_CAUSE_cause 2 = true := by
  have hp : p < 8 := List.mem_range.1 (List.mem_filter.1 (show p ∈ freeDpus s t by simp [hf])).1
  have hl : spareLeft s t 3 = true := by simp [spareLeft, hf]
  have he : unitReplaced s t 3 i =
      raise (syncShadow (wrs s [(REL_DPU_used t, rd s (REL_DPU_used t) ||| 2 ^ p), (REL_DPU_POS_pos t p, i)]) t) REL_CAUSE_cause 2 := by
    rw [unitReplaced, if_pos hl, replaceUnit, if_pos rfl, hf]
    rfl
  have hk : ∀ (u : State) (f : Fld), f.off = REL_DPU t ∨ f.off = REL_DPU_POS t → rd (raise (syncShadow u t) REL_CAUSE_cause 2) f = rd u f := by
    intro u f h
    refine (rd_raise_ne _ _ ?_).trans (rd_syncShadow_rel u t f h)
    simp only [Fld.key, REL_CAUSE_cause, REL_CAUSE, REL_DPU, REL_DPU_POS] at h ⊢
    omega
  have hw := writes_wrs s (l := [(REL_DPU_used t, rd s (REL_DPU_used t) ||| 2 ^ p), (REL_DPU_POS_pos t p, i)])
    (by simp [Fld.key, REL_DPU_used, REL_DPU_POS_pos, REL_DPU, REL_DPU_POS]; omega)
  rw [he]
  refine ⟨?_, (hk _ _ (.inr rfl)).trans (hw.value 1), flag_raise_self _ (by decide)⟩
  rw [hk _ _ (.inl rfl), hw.value 0, bitOf_eq_testBit, Nat.testBit_mod_two_pow, Nat.testBit_or, Nat.testBit_two_pow_self]
  simp [REL_DPU_used, hp]

/-- The bench aide serves the aide's place (R358). -/
theorem unitReplaced_aide {s : State} {t : Nat} (i : Nat) (hl : spareLeft s t 4 = true) :
    rd (unitReplaced s t 4 i) (REL_AIDE_serves t) = i % 2 ^ 4 ∧ rd (unitReplaced s t 4 i) (REL_AIDE_used t) = 1 ∧
      flag (unitReplaced s t 4 i) REL_CAUSE_cause 2 = true := by
  have he : unitReplaced s t 4 i = raise (takeFree (wrs s [(REL_AIDE_serves t, i), (REL_AIDE_used t, 1)]) 1) REL_CAUSE_cause 2 :=
    if_pos hl
  have hw := writes_wrs s (l := [(REL_AIDE_serves t, i), (REL_AIDE_used t, 1)]) (by simp [Fld.key, REL_AIDE_serves, REL_AIDE_used])
  have hk : ∀ (u : State) (f : Fld), f.off = REL_AIDE t → rd (raise (takeFree u 1) REL_CAUSE_cause 2) f = rd u f := by
    intro u f h
    refine (rd_raise_ne _ _ ?_).trans rfl
    simp only [Fld.key, REL_CAUSE_cause, REL_CAUSE, REL_AIDE] at h ⊢
    omega
  rw [he]
  exact ⟨(hk _ _ rfl).trans (hw.value 0), (hk _ _ rfl).trans (hw.value 1), flag_raise_self _ (by decide)⟩

/-- The lowest free bench row group takes the place of a row group (R358). -/
theorem unitReplaced_row {s : State} {t p : Nat} {l : List Nat} (i : Nat) (hf : freeRows s t = p :: l) :
    rd (unitReplaced s t 5 i) (REL_ROW_row_group t p) = i % 2 ^ 12 ∧ rd (unitReplaced s t 5 i) (REL_ROW_used t p) = 1 ∧
      flag (unitReplaced s t 5 i) REL_CAUSE_cause 2 = true := by
  have hl : spareLeft s t 5 = true := by simp [spareLeft, hf]
  have he : unitReplaced s t 5 i = raise (wrs s [(REL_ROW_row_group t p, i), (REL_ROW_used t p, 1)]) REL_CAUSE_cause 2 := by
    rw [unitReplaced, if_pos hl, replaceUnit, if_neg (by decide), if_neg (by decide), if_pos rfl, hf]
    rfl
  have hw := writes_wrs s (l := [(REL_ROW_row_group t p, i), (REL_ROW_used t p, 1)]) (by simp [Fld.key, REL_ROW_row_group, REL_ROW_used])
  have hk : ∀ (u : State) (f : Fld), f.off = REL_ROW t p → rd (raise u REL_CAUSE_cause 2) f = rd u f := by
    intro u f h
    refine rd_raise_ne _ _ ?_
    simp only [Fld.key, REL_CAUSE_cause, REL_CAUSE, REL_ROW] at h ⊢
    omega
  rw [he]
  exact ⟨(hk _ _ rfl).trans (hw.value 0), (hk _ _ rfl).trans (hw.value 1), flag_raise_self _ (by decide)⟩

/-- With no bench aide left the tile site is condemned (R358). -/
theorem unitReplaced_condemns {s : State} {t : Nat} (i : Nat) (hl : spareLeft s t 4 = false) :
    rd (unitReplaced s t 4 i) (REL_TILE_MAP_condemned t) = 1 ∧ flag (unitReplaced s t 4 i) REL_CAUSE_cause 1 = true ∧
      FieldsKept s (unitReplaced s t 4 i) [REL_TILE_MAP_condemned t, REL_CAUSE_cause] := by
  have he : unitReplaced s t 4 i = condemnSite s t := (if_neg (by simp [hl])).trans rfl
  have hc : (REL_CAUSE_cause).key ≠ (REL_TILE_MAP_condemned t).key := by
    simp only [Fld.key, REL_CAUSE_cause, REL_CAUSE, REL_TILE_MAP_condemned, REL_TILE_MAP]
    omega
  have hw := ((Writes.refl s).then_set (REL_TILE_MAP_condemned t) (v := 1) (by simp [REL_TILE_MAP_condemned]) (by simp)).then_raise
    REL_CAUSE_cause 1 (by simpa using hc)
  rw [he]
  exact ⟨hw.value 0, flag_raise_self _ (by decide), hw.kept (by simp)⟩

theorem unitReplaceDone_replaces {s : State} {t : Nat} {u : UnitSub} (hu : s.unitSubs = [u]) (ht : u.tile = t) (hb : u.begun = true)
    (hm : u.subm = none) : Gives (.unitReplaceDone t) s fun v => v.unitSubs = [] ∧ v.tiles = s.tiles ∧ v.mem = s.mem ∧
      (∀ p l, u.kind = 3 → freeDpus s t = p :: l → bitOf (rd v (REL_DPU_used t)) p = true ∧
        rd v (REL_DPU_POS_pos t p) = u.idx % 2 ^ 8 ∧ flag v REL_CAUSE_cause 2 = true) ∧
      (u.kind = 4 → spareLeft s t 4 = true → rd v (REL_AIDE_serves t) = u.idx % 2 ^ 4 ∧ rd v (REL_AIDE_used t) = 1 ∧
        flag v REL_CAUSE_cause 2 = true) ∧
      (∀ p l, u.kind = 5 → freeRows s t = p :: l → rd v (REL_ROW_row_group t p) = u.idx % 2 ^ 12 ∧ rd v (REL_ROW_used t p) = 1 ∧
        flag v REL_CAUSE_cause 2 = true) ∧
      (u.kind = 4 → spareLeft s t 4 = false → rd v (REL_TILE_MAP_condemned t) = 1 ∧ flag v REL_CAUSE_cause 1 = true ∧
        FieldsKept s v [REL_TILE_MAP_condemned t, REL_CAUSE_cause]) := by
  have hr := regsFree_unitReplaced { s with unitSubs := [] } t u.kind u.idx
  refine ⟨_, exec_unitReplaceDone hu ht hb hm, by rw [hr], by rw [hr], by rw [hr], fun p l hk hf => ?_, fun hk hl => ?_, fun p l hk hf => ?_,
    fun hk hl => ?_⟩
  · rw [hk]
    exact unitReplaced_dpu (s := { s with unitSubs := [] }) u.idx hf
  · rw [hk]
    exact unitReplaced_aide (s := { s with unitSubs := [] }) u.idx hl
  · rw [hk]
    exact unitReplaced_row (s := { s with unitSubs := [] }) u.idx hf
  · rw [hk]
    exact unitReplaced_condemns (s := { s with unitSubs := [] }) u.idx hl

/-! ### Sites (R359) -/

/-- A write of registers of tiles leaves the module's registers alone. -/
theorem rd_wrs_below {s : State} {l : List (Fld × Nat)} {f : Fld} (hf : f.key < 64 * 0x1000000) (hl : ∀ p ∈ l, 0x1000000 ≤ p.1.off) :
    rd (wrs s l) f = rd s f := by
  refine rd_wrs_ne s l f fun p hp => ?_
  have hk : p.1.key = 64 * p.1.off + p.1.lo := rfl
  have := hl p hp
  omega

/-- A link no roll call has measured (R54). -/
def unmeasured (s : State) (u l : Nat) : State :=
  wrs s [(TIM_XOFS_offset u l, 0), (TIM_XFILL_min_fill u l, 4), (TIM_XFILL_max_fill u l, 4)]

theorem rd_unmeasured_below (s : State) (u l : Nat) {f : Fld} (hf : f.key < 64 * 0x1000000) : rd (unmeasured s u l) f = rd s f :=
  rd_wrs_below hf (by simp [TIM_XOFS_offset, TIM_XOFS, TIM_XFILL_min_fill, TIM_XFILL_max_fill, TIM_XFILL]; omega)

theorem rd_newSiteTim_below (s : State) (t : Nat) {f : Fld} (hf : f.key < 64 * 0x1000000) : rd (newSiteTim s t) f = rd s f := by
  refine (rd_foldl (fun s l _ => ?_) _).trans (rd_wrs_below hf ?_)
  · split
    · exact (rd_unmeasured_below _ _ _ hf).trans (rd_unmeasured_below s t l hf)
    · exact rd_unmeasured_below s t l hf
  · simp [TIM_STRETCH_own, TIM_STRETCH_equalising, TIM_STRETCH_bubble_req, TIM_STRETCH_full_windows, TIM_STRETCH]
    omega

theorem rd_unmeasured_faults (s : State) (t u : Nat) {l : Nat} (hl : l < 4) :
    rd (unmeasured s u l) (REL_WEAR_faults t) = rd s (REL_WEAR_faults t) := by
  refine rd_wrs_ne s _ _ ?_
  simp only [List.forall_mem_cons, List.not_mem_nil, false_imp_iff, implies_true, and_true, Fld.key, TIM_XOFS_offset, TIM_XFILL_min_fill,
    TIM_XFILL_max_fill, REL_WEAR_faults, REL_WEAR, TIM_XOFS, TIM_XFILL]
  omega

theorem rd_newSiteTim_faults (s : State) (t : Nat) : rd (newSiteTim s t) (REL_WEAR_faults t) = rd s (REL_WEAR_faults t) := by
  refine (rd_foldl (fun s l hl => ?_) _).trans (rd_wrs_ne s _ _ ?_)
  · have hl : l < 4 := List.mem_range.1 hl
    split
    · exact (rd_unmeasured_faults _ t _ (Nat.mod_lt _ (by decide))).trans (rd_unmeasured_faults s t t hl)
    · exact rd_unmeasured_faults s t t hl
  · simp only [List.forall_mem_cons, List.not_mem_nil, false_imp_iff, implies_true, and_true, Fld.key, TIM_STRETCH_own, REL_WEAR_faults,
      TIM_STRETCH_equalising, TIM_STRETCH_bubble_req, TIM_STRETCH_full_windows, TIM_STRETCH, REL_WEAR]
    omega

theorem regsOnly_newSiteRegs (s : State) (t : Nat) : RegsOnly s (newSiteRegs s t) :=
  ((regsOnly_wrs s _).trans (.foldl (fun s _ => regsOnly_wr s _ _) _ _)).trans (regsOnly_syncShadow _ t)

theorem rd_newSiteRegs_below (s : State) (t : Nat) {f : Fld} (hf : f.key < 64 * 0x1000000) : rd (newSiteRegs s t) f = rd s f := by
  refine (rd_wrs_below hf ?_).trans ((rd_foldl (fun s i _ => rd_wrs_below (l := [(REL_DPU_POS_pos t i, 0)]) hf ?_) _).trans (rd_wrs_below hf ?_))
  · simp [ME_STATUS_shadow_width, ME_STATUS_shadow_next, ME_STATUS]
    omega
  · simp [REL_DPU_POS_pos, REL_DPU_POS]
    omega
  · simp [REL_WEAR_ageing, REL_WEAR_ce_rate, REL_WEAR_faults, REL_WEAR_alert, REL_DPU_used, REL_DPU_retired, REL_DPU_last_pos,
      REL_DPU_last_bench, REL_DPU_last_valid, REL_AIDE_serves, REL_AIDE_used, REL_AIDE_retired, REL_WEAR, REL_DPU, REL_AIDE]
    omega

theorem rd_newSiteRegs_faults (s : State) (t : Nat) : rd (newSiteRegs s t) (REL_WEAR_faults t) = 0 := by
  refine (rd_wrs_ne _ _ _ ?_).trans ((rd_foldl (fun s i hi => rd_wr_ne s 0 ?_) _).trans
    (rd_wrs_mem (p := (REL_WEAR_faults t, 0)) ?_ s (by simp)))
  · simp only [List.forall_mem_cons, List.not_mem_nil, false_imp_iff, implies_true, and_true, Fld.key, ME_STATUS_shadow_width,
      ME_STATUS_shadow_next, ME_STATUS, REL_WEAR_faults, REL_WEAR]
    omega
  · have hi : i < 8 := List.mem_range.1 hi
    simp only [Fld.key, REL_DPU_POS_pos, REL_DPU_POS, REL_WEAR_faults, REL_WEAR]
    omega
  · simp [Fld.key, REL_WEAR_ageing, REL_WEAR_ce_rate, REL_WEAR_faults, REL_WEAR_alert, REL_DPU_used, REL_DPU_retired, REL_DPU_last_pos,
      REL_DPU_last_bench, REL_DPU_last_valid, REL_AIDE_serves, REL_AIDE_used, REL_AIDE_retired, REL_WEAR, REL_DPU, REL_AIDE]
    omega

/-- The bench site in the place of a tile's: its map entry, and the registers of a site never repaired nor measured (R359). -/
def siteRenewed (s : State) (t : Nat) : State :=
  newSiteTim (newSiteRegs (wrs s [(REL_TILE_MAP_site t, 8), (REL_TILE_MAP_condemned t, 0)]) t) t

theorem regsOnly_siteRenewed (s : State) (t : Nat) : RegsOnly s (siteRenewed s t) :=
  ((regsOnly_wrs s _).trans (regsOnly_newSiteRegs _ t)).trans (regsOnly_newSiteTim _ t)

theorem rd_siteRenewed_site (s : State) {t : Nat} (ht : t < 96) : rd (siteRenewed s t) (REL_TILE_MAP_site t) = 8 := by
  have hk : (REL_TILE_MAP_site t).key < 64 * 0x1000000 := by simp only [Fld.key, REL_TILE_MAP_site, REL_TILE_MAP]; omega
  have hw := writes_wrs s (l := [(REL_TILE_MAP_site t, 8), (REL_TILE_MAP_condemned t, 0)])
    (by simp [Fld.key, REL_TILE_MAP_site, REL_TILE_MAP_condemned])
  exact ((rd_newSiteTim_below _ t hk).trans (rd_newSiteRegs_below _ t hk)).trans (hw.value 0)

theorem rd_siteRenewed_faults (s : State) (t : Nat) : rd (siteRenewed s t) (REL_WEAR_faults t) = 0 :=
  (rd_newSiteTim_faults _ t).trans (rd_newSiteRegs_faults _ t)

theorem tod_siteRenewed (s : State) (t : Nat) : tod (siteRenewed s t) = tod s := by
  refine ((rd_newSiteTim_below _ t (by decide)).trans (rd_newSiteRegs_below _ t (by decide))).trans (rd_wrs_ne s _ _ ?_)
  simp only [List.forall_mem_cons, List.not_mem_nil, false_imp_iff, implies_true, and_true, Fld.key, REL_TILE_MAP_site,
    REL_TILE_MAP_condemned, REL_TILE_MAP, TIM_TOD_tod, TIM_TOD]
  omega

/-- The map entry moved to the bench site, the old site condemned, roll call due (R46, R359). -/
def siteMoved (s : State) (t : Nat) : State :=
  { s with
    siteSubs := [], siteMap := Store.set s.siteMap t { siteOf s t with site := 8 }
    badSites := (16 * (siteOf s t).die + (siteOf s t).site) :: s.badSites, time := { s.time with rollDue := true } }

theorem exec_siteCopyDone {s : State} {t : Nat} {u : SiteSub} (hu : s.siteSubs = [u]) (ht : u.tile = t) (hb : u.begun = true)
    (hr : u.reload = false) : exec (.siteCopyDone t) s =
      .next (pumpAll (complete (raise (siteRenewed (siteMoved s t) t) REL_CAUSE_cause 2) u.subm stOk (16 * (siteOf s t).die + 8))) := by
  have hf : s.siteSubs.find? (fun u => u.tile == t && u.begun) = some u := by simp [hu, ht, hb]
  have he : s.siteSubs.erase u = [] := by simp [hu]
  simp only [exec, execSiteCopyDone, hf, he, hr]
  rfl

theorem siteCopyDone_moves {s : State} {t : Nat} {u : SiteSub} {d : Desc} (hlt : t < s.part.tiles) (hu : s.siteSubs = [u]) (ht : u.tile = t)
    (hb : u.begun = true) (hr : u.reload = false) (hd : descOf s u.subm = some d) : Gives (.siteCopyDone t) s fun v =>
      siteOf v t = { siteOf s t with site := 8 } ∧ v.time.rollDue = true ∧ v.siteSubs = [] ∧ v.mem = s.mem ∧ v.tiles = s.tiles ∧
      16 * (siteOf s t).die + (siteOf s t).site ∈ v.badSites ∧ rd v (REL_TILE_MAP_site t) = 8 ∧ rd v (REL_WEAR_faults t) = 0 ∧
      flag v REL_CAUSE_cause 2 = true ∧ descOf v u.subm = none ∧
      EntryOut v d.cq (entryBytes d (tod s) stOk (16 * (siteOf s t).die + 8) 0 0 true) := by
  refine ⟨_, exec_siteCopyDone hu ht hb hr, ?_⟩
  have h96 : t < 96 := hlt.trans_le s.part.tiles_le
  have hw := regsOnly_siteRenewed (siteMoved s t) t
  have hsite := rd_siteRenewed_site (siteMoved s t) h96
  have hfaults := rd_siteRenewed_faults (siteMoved s t) t
  have htod : tod (siteRenewed (siteMoved s t) t) = tod s := tod_siteRenewed _ t
  generalize siteRenewed (siteMoved s t) t = w at *
  have hsubm : d.subm = u.subm := by simpa using List.find?_some hd
  have hdw : descOf (raise w REL_CAUSE_cause 2) d.subm = some d := by
    rw [hsubm]
    exact (descOf_congr (show (raise w REL_CAUSE_cause 2).descs = s.descs by rw [hw]; rfl) u.subm).trans hd
  have hc := completed_pumpAll hdw stOk (16 * (siteOf s t).die + 8)
  have hraise : ∀ f : Fld, f.key ≠ REL_CAUSE_cause.key → rd (raise w REL_CAUSE_cause 2) f = rd w f := fun f hf => rd_raise_ne w 2 hf
  rw [hsubm] at hc
  obtain ⟨hgone, hout, hkept, hrest⟩ := hc
  rw [hsubm] at hgone
  rw [show tod (raise w REL_CAUSE_cause 2) = tod s from (hraise _ (by decide)).trans htod] at hout
  have hflag : flag (raise w REL_CAUSE_cause 2) REL_CAUSE_cause 2 = true := flag_raise_self w (by decide)
  generalize pumpAll (complete (raise w REL_CAUSE_cause 2) u.subm stOk (16 * (siteOf s t).die + 8)) = v at *
  refine ⟨?_, by rw [hrest, hw]; rfl, by rw [hrest, hw]; rfl, by rw [hrest, hw]; rfl, by rw [hrest, hw]; rfl, ?_, ?_, ?_, ?_, hgone, hout⟩
  · have hmap : v.siteMap = Store.set s.siteMap t { siteOf s t with site := 8 } := by rw [hrest, hw]; rfl
    rw [siteOf, hmap, Store.get?_set_self]
    rfl
  · have hbad : v.badSites = (16 * (siteOf s t).die + (siteOf s t).site) :: s.badSites := by rw [hrest, hw]; rfl
    exact hbad ▸ List.mem_cons_self
  · refine (hkept.rel _ ?_).trans ((hraise _ ?_).trans hsite)
    · simp only [Fld.key, REL_TILE_MAP_site, REL_TILE_MAP]
      omega
    · simp only [Fld.key, REL_TILE_MAP_site, REL_TILE_MAP, REL_CAUSE_cause, REL_CAUSE]
      omega
  · refine (hkept.rel _ ?_).trans ((hraise _ ?_).trans hfaults)
    · simp only [Fld.key, REL_WEAR_faults, REL_WEAR]
      omega
    · simp only [Fld.key, REL_WEAR_faults, REL_WEAR, REL_CAUSE_cause, REL_CAUSE]
      omega
  · exact (congrArg (bitOf · 2) (hkept.rel REL_CAUSE_cause)).trans hflag

/-! ### Stacks (R360) -/

theorem Part.stacks_le (p : Part) : p.stacks ≤ 20 := by cases p <;> decide

theorem Part.stacksFitted_le (p : Part) : p.stacksFitted ≤ 22 := by cases p <;> decide

/-- The bench stack in the place of a stack: the map, and the registers that tell of it (R360). -/
def stackMoved (s : State) (c : StackCopy) (poisoned : Nat) : State :=
  wrs { s with stackCopy := none, stackMap := Store.set s.stackMap c.logical c.dest }
    [(REL_STACK_MAP_phys c.logical, c.dest), (REL_STACK_WEAR_in_service (Store.getD s.stackMap c.logical c.logical), 0),
      (REL_STACK_WEAR_in_service c.dest, 1), (REL_STACK_COPY_copied_mib, 98304), (REL_STACK_COPY_poisoned, min poisoned 0xFFFF),
      (REL_STATUS_copy_active, 0)]

theorem exec_stackCopyDone {s : State} {c : StackCopy} (hc : s.stackCopy = some c) (n : Nat) :
    exec (.stackCopyDone n) s =
      .next (pumpAll (complete (evalFailed (raise (stackMoved s c n) REL_CAUSE_cause 5)) c.subm stOk c.dest)) := by
  simp only [exec, execStackCopyDone, hc]
  rfl

/-- The registers of a stack that has moved are different ones. -/
theorem stackMoved_keys {k old new : Nat} (hne : old ≠ new) : [(REL_STACK_MAP_phys k).key, (REL_STACK_WEAR_in_service old).key,
      (REL_STACK_WEAR_in_service new).key, REL_STACK_COPY_copied_mib.key, REL_STACK_COPY_poisoned.key, REL_STATUS_copy_active.key].Nodup := by
  simp only [List.nodup_cons, List.mem_cons, List.not_mem_nil, or_false, Fld.key, REL_STACK_MAP_phys, REL_STACK_WEAR_in_service,
    REL_STACK_COPY_copied_mib, REL_STACK_COPY_poisoned, REL_STATUS_copy_active, REL_STACK_MAP, REL_STACK_WEAR, REL_STACK_COPY, REL_STATUS]
  refine ⟨?_, ?_, ?_, ?_, ?_, not_false, List.nodup_nil⟩
  all_goals omega

theorem stackMoved_shows {s : State} {c : StackCopy} (n : Nat) {old : Nat}
    (ho : old = Store.getD s.stackMap c.logical c.logical) (hne : old ≠ c.dest) :
    rd (stackMoved s c n) (REL_STACK_MAP_phys c.logical) = c.dest % 2 ^ 5 ∧ rd (stackMoved s c n) (REL_STACK_WEAR_in_service old) = 0 ∧
      rd (stackMoved s c n) (REL_STACK_WEAR_in_service c.dest) = 1 ∧ rd (stackMoved s c n) REL_STATUS_copy_active = 0 ∧
      tod (stackMoved s c n) = tod s ∧
      stackMoved s c n = { s with stackCopy := none, stackMap := Store.set s.stackMap c.logical c.dest, regs := (stackMoved s c n).regs } := by
  have hw := writes_wrs { s with stackCopy := none, stackMap := Store.set s.stackMap c.logical c.dest }
    (l := [(REL_STACK_MAP_phys c.logical, c.dest), (REL_STACK_WEAR_in_service old, 0),
      (REL_STACK_WEAR_in_service c.dest, 1), (REL_STACK_COPY_copied_mib, 98304), (REL_STACK_COPY_poisoned, min n 0xFFFF),
      (REL_STATUS_copy_active, 0)]) (stackMoved_keys hne)
  rw [stackMoved, ← ho]
  refine ⟨hw.value 0, hw.value 1, hw.value 2, hw.value 5, hw.keeps ?_, hw.rest⟩
  simp [Fld.key, REL_STACK_MAP_phys, REL_STACK_WEAR_in_service, REL_STACK_COPY_copied_mib, REL_STACK_COPY_poisoned, REL_STATUS_copy_active,
      REL_STACK_MAP, REL_STACK_WEAR, REL_STACK_COPY, REL_STATUS, TIM_TOD_tod, TIM_TOD]
  omega

theorem evalFailed_stackCopy (s : State) : (evalFailed s).stackCopy = s.stackCopy := by rw [(evalFailed_frame s).1]

theorem evalFailed_stackMap (s : State) : (evalFailed s).stackMap = s.stackMap := by rw [(evalFailed_frame s).1]

/-- A cause of REL_CAUSE stays raised as REL_STATUS.failed is brought up to date. -/
theorem flag_evalFailed {s : State} {b : Nat} (hb : b < 9) (h : flag s REL_CAUSE_cause b = true) :
    flag (evalFailed s) REL_CAUSE_cause b = true := by
  have hw : ∀ n, flag (wr s REL_STATUS_failed n) REL_CAUSE_cause b = true := fun n =>
    (congrArg (bitOf · b) (rd_wr_ne s (f := REL_STATUS_failed) (g := REL_CAUSE_cause) n (by decide))).trans h
  unfold evalFailed
  extract_lets f was s1 s2 s3
  have h1 : flag s1 REL_CAUSE_cause b = true := hw _
  have h2 : flag s2 REL_CAUSE_cause b = true := flag_raise_mono hb h1
  have h3 : flag s3 REL_CAUSE_cause b = true := by
    unfold s3
    split
    · have hb : FieldsKept s2 (setBoot s2 7) [HST_BOOT_state] := fieldsKept_wr s2 HST_BOOT_state 7
      exact (congrArg (bitOf · b) (hb REL_CAUSE_cause (by decide))).trans h2
    · exact h2
  clear_value s3
  split
  · split
    · exact h3
    · exact h3
  · exact h1

theorem stackCopyDone_moves {s : State} {n old : Nat} {c : StackCopy} {d : Desc} (hc : s.stackCopy = some c) (hdesc : descOf s c.subm = some d)
    (hl : c.logical < s.part.stacks) (hd : c.dest < s.part.stacksFitted) (ho : old = Store.getD s.stackMap c.logical c.logical)
    (hne : old ≠ c.dest) (hof : old < s.part.stacksFitted) : Gives (.stackCopyDone n) s fun v =>
      v.stackCopy = none ∧ Store.getD v.stackMap c.logical c.logical = c.dest ∧ rd v (REL_STACK_MAP_phys c.logical) = c.dest % 2 ^ 5 ∧
      rd v (REL_STACK_WEAR_in_service old) = 0 ∧ rd v (REL_STACK_WEAR_in_service c.dest) = 1 ∧ rd v REL_STATUS_copy_active = 0 ∧
      flag v REL_CAUSE_cause 5 = true ∧ v.mem = s.mem ∧ EntryOut v d.cq (entryBytes d (tod s) stOk c.dest 0 0 true) := by
  refine ⟨_, exec_stackCopyDone hc n, ?_⟩
  have h20 := s.part.stacks_le
  have h22 := s.part.stacksFitted_le
  obtain ⟨hphys, hold, hnew, hact, htod, hrest⟩ := stackMoved_shows n ho hne
  generalize stackMoved s c n = w at *
  have hdw : w.descs = s.descs := by rw [hrest]
  have hmw : w.mem = s.mem := by rw [hrest]
  have hcw : w.stackCopy = none := by rw [hrest]
  have hsw : w.stackMap = Store.set s.stackMap c.logical c.dest := by rw [hrest]
  clear hrest
  have hk := (evalFailed_frame (raise w REL_CAUSE_cause 5)).2
  have hkeep : ∀ f : Fld, f.key ≠ REL_CAUSE_cause.key → f.key ≠ REL_STATUS_failed.key → f.key ≠ HST_BOOT_state.key →
      rd (evalFailed (raise w REL_CAUSE_cause 5)) f = rd w f := fun f h1 h2 h3 =>
    (hk f (by simp [h1, h2, h3])).trans (rd_raise_ne w 5 h1)
  have hflag : flag (evalFailed (raise w REL_CAUSE_cause 5)) REL_CAUSE_cause 5 = true :=
    flag_evalFailed (by decide) (flag_raise_self w (by decide))
  have hdescs : (evalFailed (raise w REL_CAUSE_cause 5)).descs = s.descs := by
    rw [evalFailed_descs, raise_descs, hdw]
  have hmem : (evalFailed (raise w REL_CAUSE_cause 5)).mem = s.mem := by
    rw [evalFailed_mem, raise_mem, hmw]
  have hcopy : (evalFailed (raise w REL_CAUSE_cause 5)).stackCopy = none := by
    rw [evalFailed_stackCopy, raise_stackCopy, hcw]
  have hmap : (evalFailed (raise w REL_CAUSE_cause 5)).stackMap = Store.set s.stackMap c.logical c.dest :=
    by
    rw [evalFailed_stackMap, raise_stackMap, hsw]
  generalize evalFailed (raise w REL_CAUSE_cause 5) = x at *
  have hsubm : d.subm = c.subm := by simpa using List.find?_some hdesc
  have hdx : descOf x d.subm = some d := (descOf_congr hdescs d.subm).trans (hsubm ▸ hdesc)
  have hcpl := completed_pumpAll hdx stOk c.dest
  rw [hsubm] at hcpl
  obtain ⟨-, hout, hkept, hr⟩ := hcpl
  rw [show tod x = tod s from (hkeep _ (by decide) (by decide) (by decide)).trans htod] at hout
  generalize pumpAll (complete x c.subm stOk c.dest) = v at *
  have hreg : ∀ f : Fld, f.off ≠ REL_CAUSE → f.off ≠ REL_STATUS → f.off ≠ HST_BOOT → f.lo < 64 →
      64 * 0x90000 ≤ f.key ∧ f.key < 64 * 0xA0000 → rd v f = rd w f := by
    intro f h1 h2 h3 hlo hf
    refine (hkept.rel f (.inl hf)).trans (hkeep f ?_ ?_ ?_)
    · simp only [Fld.key, REL_CAUSE_cause]
      omega
    · simp only [Fld.key, REL_STATUS_failed]
      omega
    · simp only [Fld.key, HST_BOOT_state]
      omega
  have hphysv : rd v (REL_STACK_MAP_phys c.logical) = rd w (REL_STACK_MAP_phys c.logical) := by
    refine hreg _ ?_ ?_ ?_ (by simp [REL_STACK_MAP_phys]) ?_
    all_goals
      simp only [Fld.key, REL_STACK_MAP_phys, REL_STACK_MAP, REL_CAUSE, REL_STATUS, HST_BOOT]
      omega
  have hwear : ∀ p, p < 22 → rd v (REL_STACK_WEAR_in_service p) = rd w (REL_STACK_WEAR_in_service p) := by
    intro p hp
    refine hreg _ ?_ ?_ ?_ (by simp [REL_STACK_WEAR_in_service]) ?_
    all_goals
      simp only [Fld.key, REL_STACK_WEAR_in_service, REL_STACK_WEAR, REL_CAUSE, REL_STATUS, HST_BOOT]
      omega
  refine ⟨by rw [hr]; exact hcopy, ?_, hphysv.trans hphys, (hwear _ (hof.trans_le h22)).trans hold,
    (hwear _ (hd.trans_le h22)).trans hnew, (hkept.rel _).trans ((hkeep _ (by decide) (by decide) (by decide)).trans hact),
    (congrArg (bitOf · 5) (hkept.rel REL_CAUSE_cause)).trans hflag, by rw [hr]; exact hmem, hout⟩
  · have hv : v.stackMap = Store.set s.stackMap c.logical c.dest := by rw [hr]; exact hmap
    rw [hv, Store.getD, Store.get?_set_self]
    rfl

/-- Settles O42: the checks of SUBSTITUTE one by one, what a replacement binds in registers of its own, and what a copy moves beside the
completion it ends with. -/
theorem sparesTakeTheirPlace : Obligations.SparesTakeTheirPlace := by
  unfold Obligations.SparesTakeTheirPlace
  exact ⟨fun s sq dg d => substitute_noJob, fun s sq tl k i dg d j => substitute_unit, fun s sq tl dg d j => substitute_site,
    fun s sq k dg d j => substitute_stack, fun s t k i n => exec_autoSubstitute_begins, fun s t n => exec_siteCopyStart_begins,
    fun s t k hb => exec_replacement_waits hb k, fun s t u _ => unitReplaceDone_replaces, fun s t u d => siteCopyDone_moves,
    fun s n old c d => stackCopyDone_moves⟩

end Sys2Proof.Machine
end

section
namespace Sys2Proof.Machine

-- One proof after another: many at once take more memory, in a text this long, than its compile has.
set_option Elab.async false

/-! ## What answering a request leaves alone (11_network_and_ingest.md, R270 to R272, R296) -/

/-- What has been given out stays given out. -/
def OutGrows (s t : State) : Prop := ∀ o ∈ s.out, o ∈ t.out

theorem OutGrows.refl (s : State) : OutGrows s s := fun _ h => h

theorem OutGrows.trans {a b c : State} (h : OutGrows a b) (g : OutGrows b c) : OutGrows a c := fun o ho => g o (h o ho)

theorem OutGrows.ite {s a b : State} {c : Prop} [Decidable c] (ha : OutGrows s a) (hb : OutGrows s b) : OutGrows s (if c then a else b) := by
  split
  · exact ha
  · exact hb

theorem OutGrows.foldl {α : Type} {g : State → α → State} (hg : ∀ s a, OutGrows s (g s a)) (l : List α) (s : State) :
    OutGrows s (l.foldl g s) := by
  induction l generalizing s with
  | nil => exact .refl s
  | cons a l ih => exact (hg s a).trans (ih (g s a))

theorem outGrows_drainCq (n : Nat) (s : State) (c : Nat) : OutGrows s (drainCq n s c) := by
  induction n generalizing s with
  | zero => exact .refl s
  | succ k ih =>
    simp only [drainCq]
    split
    · exact .refl s
    next b irq r _ =>
      refine .ite (.refl s) (.ite (.trans ?_ (ih _)) (.refl s))
      exact .ite (fun _ h => List.mem_cons_of_mem _ h) (fun _ h => List.mem_cons_of_mem _ h)

theorem outGrows_postEntry (s : State) (d : Desc) (status detail retakes epoch : Nat) (final : Bool) :
    OutGrows s (postEntry s d status detail retakes epoch final) := fun o ho => outGrows_drainCq _ _ _ o ho

theorem outGrows_completeFull (s : State) (m status detail retakes epoch : Nat) :
    OutGrows s (completeFull s m status detail retakes epoch) := by
  unfold completeFull
  split
  · exact .refl s
  next d _ =>
    have hu : OutGrows s (if d.type = 2 ∧ status ≠ stOk ∧ status ≠ stDescriptor then raise s SEC_CAUSE_cause 0 else s) :=
      .ite (.refl s) (.refl s)
    exact fun o ho => outGrows_postEntry _ d _ _ _ _ _ o (hu o ho)

theorem outGrows_pump (n : Nat) (s : State) : OutGrows s (pump n s) := by
  induction n generalizing s with
  | zero => exact .refl s
  | succ k ih =>
    simp only [pump]
    split
    next d _ =>
      refine .trans ?_ (ih _)
      have hc := outGrows_completeFull (startDesc s d.subm) d.subm ((d.refusal s).getD (0, 0)).1 ((d.refusal s).getD (0, 0)).2 0 0
      exact OutGrows.trans hc (.ite (.foldl (fun s _ => .ite (.refl s) (outGrows_completeFull s _ _ _ _ _)) _ _) (.refl _))
    · exact .refl s

/-- A run without the lines of its record. -/
def Run.unlined (x : Run) : Run := { x with lines := [] }

/-- The tiles, the number of the next run, the partitions that are bound and what doubles keeps are as before, and so are the runs but
for the lines of their records; what has been given out stays given out. -/
def AnswerFrame (s t : State) : Prop :=
  t.tiles = s.tiles ∧ t.runNext = s.runNext ∧ t.periods.map (·.1) = s.periods.map (·.1) ∧ t.dbl = s.dbl ∧ OutGrows s t ∧
    ∀ r, (Store.get? t.runs r).map Run.unlined = (Store.get? s.runs r).map Run.unlined

theorem AnswerFrame.tiles {s t : State} : AnswerFrame s t → t.tiles = s.tiles := fun ⟨h, _⟩ => h
theorem AnswerFrame.runNext {s t : State} : AnswerFrame s t → t.runNext = s.runNext := fun ⟨_, h, _⟩ => h
theorem AnswerFrame.bound {s t : State} : AnswerFrame s t → t.periods.map (·.1) = s.periods.map (·.1) := fun ⟨_, _, h, _⟩ => h
theorem AnswerFrame.dbl {s t : State} : AnswerFrame s t → t.dbl = s.dbl := fun ⟨_, _, _, h, _⟩ => h
theorem AnswerFrame.out {s t : State} : AnswerFrame s t → OutGrows s t := fun ⟨_, _, _, _, h, _⟩ => h
theorem AnswerFrame.runs {s t : State} : AnswerFrame s t →
    ∀ r, (Store.get? t.runs r).map Run.unlined = (Store.get? s.runs r).map Run.unlined := fun ⟨_, _, _, _, _, h⟩ => h

theorem AnswerFrame.refl (s : State) : AnswerFrame s s := ⟨rfl, rfl, rfl, rfl, .refl s, fun _ => rfl⟩

theorem AnswerFrame.trans {a b c : State} (h : AnswerFrame a b) (g : AnswerFrame b c) : AnswerFrame a c :=
  ⟨g.tiles.trans h.tiles, g.runNext.trans h.runNext, g.bound.trans h.bound, g.dbl.trans h.dbl, h.out.trans g.out,
    fun r => (g.runs r).trans (h.runs r)⟩

theorem AnswerFrame.ite {s a b : State} {c : Prop} [Decidable c] (ha : AnswerFrame s a) (hb : AnswerFrame s b) :
    AnswerFrame s (if c then a else b) := by
  split
  · exact ha
  · exact hb

theorem AnswerFrame.foldl {α : Type} {g : State → α → State} (hg : ∀ s a, AnswerFrame s (g s a)) (l : List α) (s : State) :
    AnswerFrame s (l.foldl g s) := by
  induction l generalizing s with
  | nil => exact .refl s
  | cons a l ih => exact (hg s a).trans (ih (g s a))

theorem QueueStep.answerFrame {s t : State} (h : QueueStep s t) (ho : OutGrows s t) : AnswerFrame s t := by
  have hr := h.rest
  exact ⟨by rw [hr], by rw [hr], by rw [hr], by rw [hr], ho, fun r => by rw [hr]⟩

theorem answerFrame_emitOut (s : State) (o : Out) : AnswerFrame s (emitOut s o) :=
  ⟨rfl, rfl, rfl, rfl, fun _ h => List.mem_cons_of_mem _ h, fun _ => rfl⟩

theorem answerFrame_completeFull (s : State) (m status detail retakes epoch : Nat) :
    AnswerFrame s (completeFull s m status detail retakes epoch) :=
  (queueStep_completeFull s m status detail retakes epoch).answerFrame (outGrows_completeFull s m status detail retakes epoch)

theorem answerFrame_pumpAll (s : State) : AnswerFrame s (pumpAll s) := (queueStep_pumpAll s).answerFrame (outGrows_pump _ s)

theorem answerFrame_wrs (s : State) (l : List (Fld × Nat)) : AnswerFrame s (wrs s l) := by
  rw [wrs_eq]
  exact ⟨rfl, rfl, rfl, rfl, .refl s, fun _ => rfl⟩

theorem get?_modRun (s : State) (r q : Nat) (f : Run → Run) :
    Store.get? (modRun s r f).runs q = if q = r then (Store.get? s.runs r).map f else Store.get? s.runs q := by
  unfold modRun
  split <;> rename_i h <;> split <;> rename_i hq
  · rw [hq, h]; exact Store.get?_set_self _ _ _
  · exact Store.get?_set_ne _ _ hq
  · rw [hq, h]; rfl
  · rfl

theorem answerFrame_modRun (s : State) (r : Nat) {f : Run → Run} (hf : ∀ x, (f x).unlined = x.unlined) : AnswerFrame s (modRun s r f) := by
  refine ⟨by simp, by simp, by simp, by simp, fun o ho => by simpa using ho, fun q => ?_⟩
  rw [get?_modRun]
  split
  next h => cases hx : Store.get? s.runs r <;> simp [h, hx, hf]
  · rfl

theorem answerFrame_addLine (s : State) (r : Nat) (l : Line) : AnswerFrame s (addLine s r l) :=
  answerFrame_modRun s r fun x => by split <;> rfl

theorem store_get?_none_iff {α : Type} (m : Store α) (k : Nat) : Store.get? m k = none ↔ k ∉ m.map (·.1) := by
  induction m with
  | nil => simp [Store.get?]
  | cons p r ih =>
    obtain ⟨a, x⟩ := p
    by_cases h : k = a
    · simp [Store.get?, h]
    · simp [Store.get?, h, ih]

theorem AnswerFrame.unbound {s t : State} (h : AnswerFrame s t) {q : Nat} (hq : Store.get? s.periods q = none) :
    Store.get? t.periods q = none := by
  rw [store_get?_none_iff] at hq ⊢
  rwa [h.bound]

theorem answerFrame_protectFrame (s : State) (port sub : Nat) (f : Bytes) : AnswerFrame s (protectFrame s port sub f).1 := by
  unfold protectFrame
  split
  · exact .refl s
  · extract_lets h s1
    exact .ite (.refl s) (.refl s)

theorem answerFrame_sendUdp {s t : State} {port sub ip udp : Nat} {m : Bytes} (h : sendUdp s port sub ip udp m = some t) :
    AnswerFrame s t := by
  unfold sendUdp at h
  split at h
  · cases h
  · obtain ⟨mac, -, rfl⟩ := Option.map_eq_some_iff.1 h
    exact (answerFrame_protectFrame s port sub _).trans (answerFrame_emitOut _ _)

theorem answerFrame_sendRep (s : State) (r : Request) (status field seat period : Nat) (ident payload : Bytes) :
    AnswerFrame s (sendRep s r status field seat period ident payload) := by
  unfold sendRep
  extract_lets epoch body
  split
  next u hu =>
    have h : AnswerFrame s u := answerFrame_sendUdp hu
    exact h
  · exact .refl s

theorem answerFrame_bindingDone (s : State) (b : Nat) : AnswerFrame s (bindingDone s b) := by
  unfold bindingDone
  split
  · exact .refl s
  next p _ =>
    refine .ite (.refl s) ?_
    exact AnswerFrame.trans (b := { s with closings := s.closings.filter fun x => x.subm != b }) (.refl s)
      ((answerFrame_completeFull _ _ _ _ _ _).trans (answerFrame_pumpAll _))

theorem answerFrame_modBinding (s : State) (b : Nat) (f : Period → Period) : AnswerFrame s (modBinding s b f) :=
  ⟨rfl, rfl, by simp [modBinding, Function.comp_def], rfl, .refl s, fun _ => rfl⟩

theorem answerFrame_periodDone (s : State) (b n : Nat) : AnswerFrame s (periodDone s b n) := by
  unfold periodDone
  split
  next c p _ _ =>
    extract_lets late s1 s2 s3 s4
    have h : AnswerFrame s s4 := answerFrame_emitOut s2 _
    exact .ite (.refl s) (.ite (.refl s) (h.trans (answerFrame_modBinding s4 b _)))
  · exact .refl s

theorem answerFrame_formLine (s : State) (b n : Nat) (isCarry : Bool) (plan index status : Nat) (r : Request) (payload : Bytes) :
    AnswerFrame s (formLine s b n isCarry plan index status r payload).1 := by
  unfold formLine
  split
  · split
    · exact answerFrame_addLine s _ _
    · exact .refl s
  · exact .refl s

theorem answerFrame_sentNote (s : State) (q : Nat) (run : RunName) (kind index status : Nat) (payload : Bytes) :
    AnswerFrame s (sentNote s q run kind index status payload) := .ite (answerFrame_emitOut s _) (.refl s)

theorem AnswerFrame.of_pair {α : Type} {p : State × α} {s t : State} {a : α} (h : p = (t, a)) (hp : AnswerFrame s p.1) :
    AnswerFrame s t := by
  subst h
  exact hp

theorem answerFrame_answerSeat (s : State) (ci k status : Nat) (payload : Bytes) : AnswerFrame s (answerSeat s ci k status payload) := by
  unfold answerSeat
  split
  · exact .refl s
  split
  · exact .refl s
  split
  · exact .refl s
  next c _ x _ _ =>
    extract_lets r
    split
    next s1 ident he =>
      extract_lets s2 s3 s4 s5
      have h1 : AnswerFrame s s1 := .of_pair he (answerFrame_formLine s _ _ _ _ _ _ _ _)
      have h2 : AnswerFrame s1 s2 := .ite (.refl s1) (answerFrame_sendRep s1 _ _ _ _ _ _ _)
      have h4 : AnswerFrame s2 s4 := .ite (.refl s2) (.refl s2)
      have h5 : AnswerFrame s4 s5 := answerFrame_sentNote s4 _ _ _ _ _ _
      exact ((((h1.trans h2).trans h4).trans h5).trans (answerFrame_periodDone s5 _ _)).trans (answerFrame_bindingDone _ _)

theorem answerFrame_answerCarry (s : State) (i status : Nat) (payload : Bytes) : AnswerFrame s (answerCarry s i status payload) := by
  unfold answerCarry
  split
  · exact .refl s
  split
  · exact .refl s
  split
  · exact .refl s
  extract_lets twin
  split
  next s1 ident he =>
    extract_lets s2 own s3 s4 s5 s6 s7
    have h1 : AnswerFrame s s1 := .of_pair he (by
      split
      · exact answerFrame_formLine s _ _ _ _ _ _ _ _
      · exact .refl s)
    have h2 : AnswerFrame s1 s2 := .foldl (fun s d => by
      split
      · exact answerFrame_formLine s _ _ _ _ _ _ _ _
      · exact .refl s) _ _
    have h3 : AnswerFrame s2 s3 := .ite (.refl s2) (answerFrame_sendRep s2 _ _ _ _ _ _ _)
    have h5 : AnswerFrame s3 s5 := by
      unfold s5
      split
      · exact .refl s3
      · exact .refl s3
    have h6 : AnswerFrame s5 s6 := .ite (.refl s5) (.refl s5)
    have h7 : AnswerFrame s6 s7 := by
      unfold s7
      split
      · exact answerFrame_sentNote s6 _ _ _ _ _ _
      · exact .refl s6
    exact ((((((h1.trans h2).trans h3).trans h5).trans h6).trans h7).trans (answerFrame_periodDone s7 _ _)).trans
      (answerFrame_bindingDone _ _)

theorem answerFrame_answerCand (s : State) (i status : Nat) (payload : Bytes) : AnswerFrame s (answerCand s i status payload) := by
  unfold answerCand
  split
  · exact .refl s
  next r _ =>
    extract_lets s1 s2 s3 s4
    have h1 : AnswerFrame s s1 := .ite (.refl s) (answerFrame_sendRep s r _ _ _ _ _ _)
    clear_value s1
    have h2 : AnswerFrame s1 s2 := .refl s1
    clear_value s2
    have h3 : AnswerFrame s2 s3 := .ite (.refl s2) (.refl s2)
    clear_value s3
    have h4 : AnswerFrame s3 s4 := .ite (.refl s3) (.refl s3)
    exact (((h1.trans h2).trans h3).trans h4).trans (answerFrame_bindingDone s4 _)

theorem answerFrame_answer (s : State) (r : ReqRef) (status : Nat) (payload : Bytes) : AnswerFrame s (answer s r status payload) := by
  cases r with
  | cand i => exact answerFrame_answerCand s i status payload
  | seat ci k => exact answerFrame_answerSeat s ci k status payload
  | carry i => exact answerFrame_answerCarry s i status payload

theorem answerFrame_closeAll (n : Nat) (s : State) (f : Request → Bool) : AnswerFrame s (closeAll n s f) := by
  induction n generalizing s with
  | zero => exact .refl s
  | succ k ih =>
    simp only [closeAll]
    split
    · exact .refl s
    · exact (answerFrame_answer s _ _ _).trans (ih _)

/-- The partition of a binding that ends is bound no more; the tiles and the next run's number are as before (R272). -/
theorem endBinding_unbinds (s : State) (q status detail retakes epoch : Nat) :
    Store.get? (endBinding s q status detail retakes epoch).periods q = none ∧
      (endBinding s q status detail retakes epoch).tiles = s.tiles ∧
      (endBinding s q status detail retakes epoch).runNext = s.runNext := by
  unfold endBinding
  split
  next h => exact ⟨h, rfl, rfl⟩
  next p h =>
    extract_lets p' s1 s2 later inLater isCand n
    have h2 : AnswerFrame s1 s2 := answerFrame_wrs s1 _
    have hb := (h2.trans (answerFrame_closeAll n s2 fun r => r.bind == p'.subm && (isCand r || inLater r))).trans
      (answerFrame_bindingDone _ p'.subm)
    have hq : Store.get? s1.periods q = none := Store.get?_erase_self s.periods q
    exact ⟨hb.unbound hq, hb.tiles, hb.runNext⟩

theorem answerFrame_discardCarry (s : State) (p : Nat) : AnswerFrame s (discardCarry s p) := by
  unfold discardCarry
  extract_lets n
  refine .ite (.refl s) ?_
  unfold modPlan
  split
  · exact .refl s
  · exact .refl s

theorem answerFrame_syncSpu (s : State) : AnswerFrame s (syncSpu s) := answerFrame_wrs s _

theorem answerFrame_discardJobCarry (s : State) (j : Nat) : AnswerFrame s (discardJobCarry s j) :=
  (AnswerFrame.foldl answerFrame_discardCarry _ { s with spuFills := s.spuFills.filter fun f => !(plansOf s j).contains f.plan }).trans
    (answerFrame_syncSpu _)

theorem answerFrame_unbindPlans (s : State) (j : Nat) : AnswerFrame s (unbindPlans s j) :=
  (answerFrame_discardJobCarry s j).trans (answerFrame_syncSpu { discardJobCarry s j with plans := _ })

/-- A binding that waits to be unbound ends (R272). -/
theorem endBind_unbinds (s : State) (q status detail retakes epoch : Nat) :
    Store.get? (endBind s q status detail retakes epoch).periods q = none ∧ (endBind s q status detail retakes epoch).tiles = s.tiles ∧
      (endBind s q status detail retakes epoch).runNext = s.runNext := by
  unfold endBind
  split
  next h => exact ⟨h, rfl, rfl⟩
  next p h =>
    extract_lets s1 s2
    have h1 : AnswerFrame s s1 := by
      unfold s1
      split
      next d _ =>
        exact .ite (.refl s) ((answerFrame_completeFull s d stOk 0 0 0).trans (answerFrame_pumpAll _))
      · exact .refl s
    obtain ⟨hq, ht, hn⟩ := endBinding_unbinds s1 q status detail retakes epoch
    have h3 : AnswerFrame s2 (if (liveRun s2 p.job).isNone then unbindPlans s2 p.job else s2) :=
      .ite (answerFrame_unbindPlans s2 p.job) (.refl s2)
    exact ⟨h3.unbound hq, h3.tiles.trans (ht.trans h1.tiles), h3.runNext.trans (hn.trans h1.runNext)⟩

/-! ## Start bells (10_jobs_graphs_and_timetable.md, R266, R272) -/

theorem exec_startBell_early {s : State} {q : Nat} {p : Period} (hp : Store.get? s.periods q = some p)
    (ht : tod s < p.bellAt p.nextStart) : exec (.startBell q) s = .next s := by
  simp [exec, execStartBell, hp, ht]

theorem startBell_unbinds {s : State} {q d : Nat} {p : Period} (hp : Store.get? s.periods q = some p)
    (ht : p.bellAt p.nextStart ≤ tod s) (hu : p.unbind = some d) :
    Gives (.startBell q) s fun t => Store.get? t.periods q = none ∧ t.runNext = s.runNext ∧ t.mem = s.mem ∧ t.tiles = s.tiles := by
  refine ⟨endBind s q stOk 0 0 (Store.getD s.epochs p.job 0), by simp [exec, execStartBell, hp, hu, Nat.not_lt.2 ht], ?_⟩
  obtain ⟨hq, htiles, hn⟩ := endBind_unbinds s q stOk 0 0 (Store.getD s.epochs p.job 0)
  exact ⟨hq, hn, endBind_mem _ _ _ _ _ _, htiles⟩

/-- Where every fill has begun, none is forced (R136). -/
theorem forceFills_begun {s : State} {j : Nat}
    (h : ∀ k ∈ plansOf s j, ∀ y, Store.get? s.plans k = some y → y.replay = true ∨ y.begun = true) : forceFills s j = s := by
  unfold forceFills
  generalize plansOf s j = l at h
  induction l with
  | nil => rfl
  | cons k l ih =>
    have hk : (match Store.get? s.plans k with
        | some x => if x.replay then s else beginFill s k true
        | none => s) = s := by
      split
      next y hy =>
        rcases h k List.mem_cons_self y hy with hr | hb
        · exact if_pos hr
        · simp [beginFill, hy, hb]
      · rfl
    exact (congrArg (fun u => l.foldl _ u) hk).trans (ih fun k hm => h k (List.mem_cons_of_mem _ hm))

/-- The period's number written and its run added: what a start bell does where it ends no binding (R266). -/
def periodBegun (s : State) (q : Nat) (p : Period) : State :=
  wr (setPeriod s q { p with nextStart := p.nextStart + 1, current := some p.nextStart, acting := [], acted := [] })
    (CTL_PERIOD_NUM_period q) p.nextStart

theorem rd_periodBegun_ne (s : State) {q : Nat} (p : Period) {f : Fld} (h : f.key ≠ (CTL_PERIOD_NUM_period q).key) :
    rd (periodBegun s q p) f = rd s f := rd_wr_ne (setPeriod s q _) _ h

theorem follows_congr {s t : State} (h : ∀ f ∈ [DBL_STATUS_state, DBL_CFG_part_mask, DBL_STATUS_id], rd t f = rd s f) (q : Nat) :
    follows t q = follows s q := by
  simp only [List.forall_mem_cons] at h
  obtain ⟨h1, h2, h3, -⟩ := h
  simp only [follows, dblPart, isB, paired, on, h1, h2, h3]

theorem exec_startBell_begins {s : State} {q : Nat} {p : Period} (hp : Store.get? s.periods q = some p)
    (ht : p.bellAt p.nextStart ≤ tod s) (hu : p.unbind = none)
    (hb : ∀ k ∈ plansOf s p.job, ∀ y, Store.get? s.plans k = some y → y.replay = true ∨ y.begun = true) :
    exec (.startBell q) s = .next (addRun (periodBegun s q p) (newRun p.job (.period p.nextStart) p.strict p.slipFatal p.wdog 0 p.exam
      (periodSeed p p.nextStart) (p.bellAt p.nextStart) p.subm
      (if copyMissing (periodBegun s q p) p p.nextStart then none else some (actWindow (periodBegun s q p))))) := by
  simp only [exec, execStartBell, hp, hu, if_neg (Nat.not_lt.2 ht), forceFills_begun hb, periodBegun]

theorem startBell_begins {s : State} {q : Nat} {p : Period} (hq : q < 8) (hp : Store.get? s.periods q = some p)
    (ht : p.bellAt p.nextStart ≤ tod s) (hu : p.unbind = none) (hf : follows s p.part = false)
    (hb : ∀ k ∈ plansOf s p.job, ∀ y, Store.get? s.plans k = some y → y.replay = true ∨ y.begun = true) :
    Gives (.startBell q) s fun t =>
      Store.get? t.periods q = some { p with nextStart := p.nextStart + 1, current := some p.nextStart, acting := [], acted := [] } ∧
      (∃ x, Store.get? t.runs s.runNext = some x ∧ x.job = p.job ∧ x.kind = .period p.nextStart ∧ x.phase = .pending ∧
        x.seed = p.seed ^^^ (p.nextStart % 2 ^ 32 * 2 ^ 96) ∧ x.kickWin = some (windowNow s + 2) ∧ x.strict = p.strict) ∧
      t.runNext = s.runNext + 1 ∧ rd t (CTL_PERIOD_NUM_period q) = p.nextStart % 2 ^ (CTL_PERIOD_NUM_period q).w ∧
      FieldsKept s t [CTL_PERIOD_NUM_period q] ∧
      t = { s with regs := t.regs, periods := t.periods, runs := t.runs, runNext := t.runNext } := by
  refine ⟨_, exec_startBell_begins hp ht hu hb, ?_⟩
  have hkey : ∀ f : Fld, 64 * 0x20000 ≤ f.key → f.key ≠ (CTL_PERIOD_NUM_period q).key := by
    intro f hf
    simp only [CTL_PERIOD_NUM_period, CTL_PERIOD_NUM, Fld.key] at hf ⊢
    omega
  have hfol : follows (periodBegun s q p) p.part = false := by
    refine (follows_congr ?_ p.part).trans hf
    simp only [List.forall_mem_cons, List.not_mem_nil, false_imp_iff, implies_true, and_true]
    exact ⟨rd_periodBegun_ne s p (hkey _ (by decide)), rd_periodBegun_ne s p (hkey _ (by decide)),
      rd_periodBegun_ne s p (hkey _ (by decide))⟩
  have hwin : actWindow (periodBegun s q p) = windowNow s + 2 := congrArg (· + 2) (rd_periodBegun_ne s p (hkey TIM_WINDOW_window (by decide)))
  have hcopy : copyMissing (periodBegun s q p) p p.nextStart = false := by rw [copyMissing, hfol, Bool.false_and, Bool.false_and]
  rw [hcopy, hwin, if_neg (by decide)]
  refine ⟨Store.get?_set_self _ _ _, ⟨_, Store.get?_set_self _ _ _, rfl, rfl, rfl, rfl, rfl, rfl⟩, rfl, rd_wr_self (setPeriod s q _) _ _,
    fieldsKept_wr (setPeriod s q _) _ _, rfl⟩

/-! ## Mark bells (02_time_and_clocking.md, R43, R44, R67) -/

theorem exec_markBell {s : State} {q m k : Nat} {p : Period} (hp : Store.get? s.periods q = some p) (hm : markAt s p m = some k)
    (hk : k ≤ tod s) (hn : ∀ a ∈ p.acting ++ p.acted, a.1 ≠ m) :
    exec (.markBell q m) s = .next (setPeriod s q { p with acting := p.acting ++ [(m, windowNow s + 2)] }) := by
  have h1 : p.acting.any (·.1 == m) = false := List.any_eq_false.2 fun a ha => by simpa using hn a (List.mem_append_left _ ha)
  have h2 : p.acted.any (·.1 == m) = false := List.any_eq_false.2 fun a ha => by simpa using hn a (List.mem_append_right _ ha)
  simp [exec, execMarkBell, hp, hm, h1, h2, Nat.not_lt.2 hk, actWindow]

/-- The tick a tile's waiters are released at moved on, and what is left of its waits. -/
def waitMoved (s : State) (t : Nat) (left : List Wait) (tick : Nat) : State :=
  let s := modTile s t fun x => { x with waits := left, stall := if left.any Wait.stalls then x.stall else none }
  let s := setTick s t (max (tickOf s t) tick)
  if left.any Wait.stalls then s else wr s (CH_WDOG_stalled t) 0

theorem endWait_eq (s : State) (t : Nat) (left : List Wait) (tick : Nat) : endWait s t left tick =
    if left.isEmpty then
      match (tileOf (waitMoved s t left tick) t).haltTick with
      | some k => wr (modTile (waitMoved s t left tick) t fun x => { x with haltTick := some (max k (tickOf (waitMoved s t left tick) t)) })
          (TIL_SEQ_STATUS_state t) 4
      | none => wr (waitMoved s t left tick) (TIL_SEQ_STATUS_state t) 1
    else waitMoved s t left tick := rfl

/-- Nothing but registers, tiles, memory and the fabric changes. -/
def TilesRun (s s' : State) : Prop := s' = { s with regs := s'.regs, tiles := s'.tiles, mem := s'.mem, fabric := s'.fabric }

theorem TilesRun.trans {a b c : State} (h : TilesRun a b) (g : TilesRun b c) : TilesRun a c := Eq.trans g (by rw [h])

theorem TickFrame.tilesRun {s s' : State} {t k : Nat} (h : TickFrame s s' t k) : TilesRun s s' := by
  have hr := congrArg (fun u : State => ({ u with regs := s'.regs, tiles := s'.tiles, mem := s'.mem, fabric := s'.fabric } : State)) h.rest
  exact hr

theorem tilesRun_wr (s : State) (f : Fld) (v : Nat) : TilesRun s (wr s f v) := rfl

theorem tilesRun_modTile (s : State) (t : Nat) (f : Tile → Tile) : TilesRun s (modTile s t f) := rfl

theorem waitMoved_eq (s : State) (t : Nat) (left : List Wait) (tick : Nat) : ∃ u,
    TickFrame (modTile s t fun x => { x with waits := left, stall := if left.any Wait.stalls then x.stall else none }) u t
      (max (tickOf s t) tick) ∧
    waitMoved s t left tick = if left.any Wait.stalls then u else wr u (CH_WDOG_stalled t) 0 :=
  ⟨_, setTick_frame _ t _, rfl⟩

theorem waitMoved_keeps (s : State) (t : Nat) (left : List Wait) (tick : Nat) :
    TilesRun s (waitMoved s t left tick) ∧ TilesKeptBut s (waitMoved s t left tick) t := by
  obtain ⟨u, hu, he⟩ := waitMoved_eq s t left tick
  have hr : TilesRun s u := (tilesRun_modTile s t _).trans hu.tilesRun
  have ho : TilesKeptBut s u t := (tilesKept_modTile s t _).trans hu.others
  rw [he]
  split
  · exact ⟨hr, ho⟩
  · exact ⟨hr.trans (tilesRun_wr u _ _), ho⟩

/-- A wait that ends for a tile changes that tile alone, beside memory, the fabric and registers. -/
theorem endWait_keeps (s : State) (t : Nat) (left : List Wait) (tick : Nat) :
    TilesRun s (endWait s t left tick) ∧ TilesKeptBut s (endWait s t left tick) t := by
  obtain ⟨hr, ho⟩ := waitMoved_keeps s t left tick
  rw [endWait_eq]
  generalize waitMoved s t left tick = u at *
  split
  · split
    · exact ⟨hr.trans ((tilesRun_modTile u t _).trans (tilesRun_wr _ _ _)), ho.trans fun v hv => (tileOf_wr _ _ _ v).trans (tileOf_modTile_ne u _ hv)⟩
    · exact ⟨hr.trans (tilesRun_wr _ _ _), ho⟩
  · exact ⟨hr, ho⟩

/-- A tile that waits for nothing more and has not halted goes on, at the tick it is released at (R67). -/
theorem endWait_goesOn {s : State} {t : Nat} (tick : Nat) (hh : (tileOf s t).haltTick = none) :
    seqState (endWait s t [] tick) t = 1 ∧ (tileOf (endWait s t [] tick) t).waits = [] ∧
      tickOf (endWait s t [] tick) t = min (max (tickOf s t) tick) (2 ^ 48 - 1) := by
  obtain ⟨u, hu, he⟩ := waitMoved_eq s t [] tick
  have he : waitMoved s t [] tick = wr u (CH_WDOG_stalled t) 0 := he
  have hown : (tileOf u t).haltTick = none ∧ (tileOf u t).waits = [] := by
    obtain ⟨m, w, r, mk, us, fr, hx⟩ := hu.own
    rw [hx, tileOf_modTile_self]
    exact ⟨hh, rfl⟩
  obtain ⟨hhalt, hwaits⟩ := hown
  have hx : endWait s t [] tick = wr (wr u (CH_WDOG_stalled t) 0) (TIL_SEQ_STATUS_state t) 1 := by
    rw [endWait_eq, he]
    exact (if_pos rfl).trans (by rw [tileOf_wr, hhalt])
  rw [hx]
  refine ⟨rd_wr_self _ _ _, hwaits, ?_⟩
  refine Eq.trans ((rd_wr_ne _ _ ?_).trans (rd_wr_ne _ _ ?_)) hu.tick
  · simp only [Fld.key, TIL_TICK_tick, TIL_TICK, TIL_SEQ_STATUS_state, TIL_SEQ_STATUS]
    omega
  · simp only [Fld.key, TIL_TICK_tick, TIL_TICK, CH_WDOG_stalled, CH_WDOG]
    omega

/-- What a mark bell leaves of a tile's waits. -/
def waitsLeft (m : Nat) (x : Tile) : List Wait := x.waits.filter fun w => match w with
  | .bell k _ => k != m
  | _ => true

/-- A mark bell releases a list of tiles at a tick of the grid. -/
def releaseBell (s : State) (m g : Nat) (l : List Nat) : State :=
  l.foldl (fun s t => endWait s t (waitsLeft m (tileOf s t)) (localTick (tileOf s t) g)) s

theorem releaseBell_keeps (l : List Nat) (s : State) (m g : Nat) :
    TilesRun s (releaseBell s m g l) ∧ ∀ u, u ∉ l → tileOf (releaseBell s m g l) u = tileOf s u := by
  induction l generalizing s with
  | nil => exact ⟨rfl, fun _ _ => rfl⟩
  | cons t l ih =>
    obtain ⟨hr, ho⟩ := endWait_keeps s t (waitsLeft m (tileOf s t)) (localTick (tileOf s t) g)
    obtain ⟨ir, io⟩ := ih (endWait s t (waitsLeft m (tileOf s t)) (localTick (tileOf s t) g))
    refine ⟨hr.trans ir, fun u hu => ?_⟩
    simp only [List.mem_cons, not_or] at hu
    obtain ⟨hut, hul⟩ := hu
    exact (io u hul).trans (ho u hut)

theorem exec_bellAct {s : State} {q m w : Nat} {p : Period} (hp : Store.get? s.periods q = some p)
    (hf : p.acting.find? (·.1 == m) = some (m, w)) (hb : boundaryCome s w = true) :
    exec (.bellAct q m) s = .next (if inBubble s q then
      kickDeferred (setPeriod s q { p with acting := p.acting.map fun a => if a.1 = m then (m, windowNow s + 1) else a })
      else releaseBell (setPeriod s q { p with
        acting := p.acting.filter (fun a => a.1 != m)
        acted := p.acted ++ [(m, 256 * (s.windows - Store.getD s.bubbles q 0))] }) m (256 * (s.windows - Store.getD s.bubbles q 0))
        (bellWaiters s p.job m)) := by
  simp only [exec, execBellAct, hp, hf, hb]
  rfl

theorem bellAct_releases {s : State} {q m w : Nat} {p : Period} (hp : Store.get? s.periods q = some p)
    (hf : p.acting.find? (·.1 == m) = some (m, w)) (hb : boundaryCome s w = true) (hn : inBubble s q = false) :
    Gives (.bellAct q m) s fun t =>
      Store.get? t.periods q = some { p with
        acting := p.acting.filter (fun a => a.1 != m)
        acted := p.acted ++ [(m, 256 * (s.windows - Store.getD s.bubbles q 0))] } ∧
      (∀ u, u ∉ bellWaiters s p.job m → tileOf t u = tileOf s u) ∧ t.runs = s.runs ∧ t.jobs = s.jobs ∧
      (∀ u k, bellWaiters s p.job m = [u] → (tileOf s u).waits = [.bell m k] → (tileOf s u).haltTick = none →
        seqState t u = 1 ∧ (tileOf t u).waits = [] ∧ tickOf t u = min (max (tickOf s u)
          (localTick (tileOf s u) (256 * (s.windows - Store.getD s.bubbles q 0)))) (2 ^ 48 - 1)) := by
  refine ⟨_, (exec_bellAct hp hf hb).trans (congrArg _ (if_neg (by simp [hn]))), ?_⟩
  generalize 256 * (s.windows - Store.getD s.bubbles q 0) = g
  obtain ⟨hr, ho⟩ := releaseBell_keeps (bellWaiters s p.job m) (setPeriod s q { p with
        acting := p.acting.filter (fun a => a.1 != m), acted := p.acted ++ [(m, g)] }) m g
  refine ⟨?_, ho, by rw [hr]; rfl, by rw [hr]; rfl, fun u k hu hw hh => ?_⟩
  · rw [hr]
    exact Store.get?_set_self _ _ _
  · have hl : waitsLeft m (tileOf s u) = [] := by simp [waitsLeft, hw]
    rw [hu]
    have he := endWait_goesOn (s := setPeriod s q { p with acting := p.acting.filter (fun a => a.1 != m), acted := p.acted ++ [(m, g)] })
      (t := u) (localTick (tileOf s u) g) hh
    rw [← hl] at he
    exact hl ▸ he

theorem bellAct_deferred {s : State} {q m w : Nat} {p : Period} (hp : Store.get? s.periods q = some p)
    (hf : p.acting.find? (·.1 == m) = some (m, w)) (hb : boundaryCome s w = true) (hn : inBubble s q = true) :
    Gives (.bellAct q m) s fun t => rd t TIM_CAUSE_cause = withBit s TIM_CAUSE_cause 12 ∧ FieldsKept s t [TIM_CAUSE_cause] ∧
      t = { s with regs := t.regs, periods := t.periods } :=
  ⟨_, (exec_bellAct hp hf hb).trans (congrArg _ (if_pos hn)), rd_raise_self _ _ _, fieldsKept_wr (setPeriod s q _) _ _, rfl⟩

theorem exec_startTodBell {s : State} {r : Nat} {x : Run} (hr : Store.get? s.runs r = some x) (hp : x.phase = .pending)
    (hk : x.kind = .graph) (hw : x.kickWin = none) (hb : x.bell ≤ tod s) :
    exec (.startTodBell r) s = .next (setRun s r { x with kickWin := some (windowNow s + 2) }) := by
  simp [exec, execStartTodBell, hr, hp, hk, hw, hb, actWindow]

/-! ## Deadline bells (11_network_and_ingest.md, R270, R296) -/

theorem QueueStep.cands {s t : State} (h : QueueStep s t) : t.cands = s.cands := by rw [h.rest]

theorem bindingDone_cands (s : State) (b : Nat) : (bindingDone s b).cands = s.cands := by
  unfold bindingDone
  split
  · rfl
  · split
    · rfl
    · exact ((queueStep_completeFull _ _ _ _ _ _).trans (queueStep_pumpAll _)).cands

theorem sendRep_sent {s : State} {r : Request} {mac : Nat} (hl : linkUp s r.port r.sub = true)
    (hn : neighbourOf s r.port r.sub r.ip = some mac) (hm : txMsa s r.port r.sub = none) (status field seat period : Nat)
    (ident payload : Bytes) :
    OutGrows (emitOut s (.frame r.port r.sub (withFcs (udpFrame s r.port r.sub mac r.ip r.udp
      (mkMsg mtRep 0 r.job (rd s (NET_ASSOC_CFG_epoch r.assoc)) r.seqn (repBody r.tag status field seat period ident payload))))))
      (sendRep s r status field seat period ident payload) ∧
    (sendRep s r status field seat period ident payload).cands = s.cands := by
  have hu : ∀ m, sendUdp s r.port r.sub r.ip r.udp m =
      some (emitOut s (.frame r.port r.sub (withFcs (udpFrame s r.port r.sub mac r.ip r.udp m)))) := fun m => by
    simp only [sendUdp, hl, hn, protectFrame, hm, Bool.not_true, Bool.false_eq_true, if_false, Option.map_some]
  unfold sendRep
  extract_lets epoch body
  rw [hu]
  exact ⟨.refl _, rfl⟩

/-- A REP that is out stays out, and the candidate it answers is gone. -/
def RepOut (v t : State) (i : Nat) : Prop := OutGrows v t ∧ t.cands = v.cands.eraseIdx i

/-- A candidate answered by a REP is a candidate no more, and the REP stays out (R270, R296). -/
theorem answerCand_sends {s : State} {i : Nat} {r : Request} (hc : s.cands[i]? = some r) (hm : muted s r.part = false) (status : Nat)
    (payload : Bytes) : RepOut (sendRep s r status 0 0xFFFF 0 (List.replicate 16 0) payload) (answerCand s i status payload) i := by
  unfold answerCand
  split
  next h => cases h.symm.trans hc
  next r' h =>
  obtain rfl : r' = r := Option.some.inj (h.symm.trans hc)
  extract_lets s1 s2 s3 s4
  have h1 : s1 = sendRep s r' status 0 0xFFFF 0 (List.replicate 16 0) payload := if_neg (by simp [hm])
  rw [← h1]
  clear_value s1
  have h4 : OutGrows s1 s4 ∧ s4.cands = s1.cands.eraseIdx i := by
    have h3 : s3.out = s1.out ∧ s3.cands = s1.cands.eraseIdx i := by
      unfold s3
      split
      · exact ⟨rfl, rfl⟩
      · exact ⟨rfl, rfl⟩
    obtain ⟨ho, hcands⟩ := h3
    clear_value s3
    unfold s4
    split
    · exact ⟨fun o h => ho ▸ h, hcands⟩
    · exact ⟨fun o h => ho ▸ h, hcands⟩
  obtain ⟨ho, hcands⟩ := h4
  exact ⟨ho.trans (answerFrame_bindingDone s4 r'.bind).out, (bindingDone_cands s4 r'.bind).trans hcands⟩

/-- A candidate whose bell has rung is answered LATE with its fallback, and is one no more (R270). -/
theorem deadlineBell_answers {s : State} {k i mac : Nat} {r : Request} (hd : (dueReqs s)[k]? = some (.cand i)) (hc : s.cands[i]? = some r)
    (hm : muted s r.part = false) (hl : linkUp s r.port r.sub = true) (hn : neighbourOf s r.port r.sub r.ip = some mac)
    (ht : txMsa s r.port r.sub = none) : Gives (.deadlineBell k) s fun t =>
      t.cands = s.cands.eraseIdx i ∧ t.mem = s.mem ∧ t.tiles = s.tiles ∧
      .frame r.port r.sub (withFcs (udpFrame s r.port r.sub mac r.ip r.udp (mkMsg mtRep 0 r.job (rd s (NET_ASSOC_CFG_epoch r.assoc))
        r.seqn (repBody r.tag 1 0 0xFFFF 0 (List.replicate 16 0) (fallbackOf s r.bind))))) ∈ t.out := by
  have hx : exec (.deadlineBell k) s = .next (answerCand s i rpLate (fallbackOf s r.bind)) := by
    simp [exec, execDeadlineBell, hd, answer, refBind, hc]
  obtain ⟨hsent, hcands⟩ := sendRep_sent hl hn ht rpLate 0 0xFFFF 0 (List.replicate 16 0) (fallbackOf s r.bind)
  obtain ⟨hout, hgone⟩ := answerCand_sends hc hm rpLate (fallbackOf s r.bind)
  have htiles := (answerFrame_answerCand s i rpLate (fallbackOf s r.bind)).tiles
  exact ⟨_, hx, hgone.trans (congrArg (List.eraseIdx · i) hcands), answerCand_mem _ _ _ _, htiles, hout _ (hsent _ List.mem_cons_self)⟩

/-- Settles O33: a bell not reached and a bell that ends a binding, the new run, the tiles a mark bell releases one by one, and the answer
of a candidate, which is sent before anything else. -/
theorem bellsActAtBoundaries : Obligations.BellsActAtBoundaries := by
  unfold Obligations.BellsActAtBoundaries
  exact ⟨fun s q p => exec_startBell_early, fun s q p => startBell_begins, fun s q d p => startBell_unbinds,
    fun s q m k p => exec_markBell, fun s q m w p => bellAct_releases, fun s q m w p => bellAct_deferred, fun s r x => exec_startTodBell,
    fun s k i mac r => deadlineBell_answers⟩

end Sys2Proof.Machine
end

section
namespace Sys2Proof.Machine

-- One proof after another: many at once take more memory, in a text this long, than its compile has.
set_option Elab.async false

/-! ## Kickoffs of tiles (10_jobs_graphs_and_timetable.md, R248, R264) -/

/-- A tile's registers, all of them from 0x1000000 + 0x10000 times its number, and the stall record of the module may change. -/
def BlockWritten (s s' : State) (t : Nat) : Prop :=
  RegsOnly s s' ∧ ∀ f : Fld, (f.key < 64 * (0x1000000 + 0x10000 * t) ∨ 64 * (0x1010000 + 0x10000 * t) ≤ f.key) →
    f.key ≠ CH_STALL_A_valid.key → f.key ≠ CH_STALL_B_valid.key → rd s' f = rd s f

theorem BlockWritten.refl (s : State) (t : Nat) : BlockWritten s s t := ⟨rfl, fun _ _ _ _ => rfl⟩

theorem BlockWritten.trans {a b c : State} {t : Nat} (h : BlockWritten a b t) (g : BlockWritten b c t) : BlockWritten a c t := by
  obtain ⟨hr, hk⟩ := h
  obtain ⟨gr, gk⟩ := g
  exact ⟨hr.trans gr, fun f h1 h2 h3 => (gk f h1 h2 h3).trans (hk f h1 h2 h3)⟩

/-- Whether a field lies in the block of a tile's registers, from the register `k` of the block on. -/
def InBlock (t k : Nat) (f : Fld) : Prop := 0x1000000 + 0x10000 * t + k ≤ f.off ∧ f.off < 0x1010000 + 0x10000 * t ∧ f.lo < 64

theorem RegFrame.blockWritten {s s' : State} {l : List Fld} {t k : Nat} (h : RegFrame s s' l) (hl : ∀ f ∈ l, InBlock t k f) :
    BlockWritten s s' t := by
  refine ⟨h.eq_regs, fun f hf _ _ => h.kept f fun g hg => ?_⟩
  obtain ⟨h1, h2, h3⟩ := hl g hg
  have hk : g.key = 64 * g.off + g.lo := rfl
  omega

/-- A register of the block below those written reads as before. -/
theorem RegFrame.lower {s s' : State} {l : List Fld} {t k : Nat} (h : RegFrame s s' l) (hl : ∀ f ∈ l, InBlock t k f) {f : Fld}
    (hf : f.key < 64 * (0x1000000 + 0x10000 * t + k)) : rd s' f = rd s f := by
  refine h.kept f fun g hg => ?_
  obtain ⟨h1, -, -⟩ := hl g hg
  have hk : g.key = 64 * g.off + g.lo := rfl
  omega

theorem blockWritten_releaseStall (s : State) (t : Nat) : BlockWritten s (releaseStall s t) t := by
  unfold releaseStall
  split
  · exact ⟨regsOnly_wrs s _, fun f _ h1 h2 => rd_wrs_ne s _ f (by simp [h1, h2])⟩
  · exact .refl s t

/-- Of a tile's registers those after its tick may change. -/
def TickKept (s s' : State) (t : Nat) : Prop := BlockWritten s s' t ∧ tickOf s' t = tickOf s t

theorem TickKept.refl (s : State) (t : Nat) : TickKept s s t := ⟨.refl s t, rfl⟩

theorem TickKept.trans {a b c : State} {t : Nat} (h : TickKept a b t) (g : TickKept b c t) : TickKept a c t :=
  ⟨h.1.trans g.1, g.2.trans h.2⟩

theorem TickKept.foldl {α : Type} {t : Nat} {g : State → α → State} {l : List α} (hg : ∀ s, ∀ a ∈ l, TickKept s (g s a) t)
    (s : State) : TickKept s (l.foldl g s) t := by
  induction l generalizing s with
  | nil => exact .refl s t
  | cons a l ih => exact (hg s a List.mem_cons_self).trans (ih (fun s b hb => hg s b (List.mem_cons_of_mem _ hb)) _)

theorem RegFrame.tickKept {s s' : State} {l : List Fld} {t : Nat} (h : RegFrame s s' l) (hl : ∀ f ∈ l, InBlock t 0x10 f) :
    TickKept s s' t :=
  ⟨h.blockWritten hl, h.lower hl (by simp only [Fld.key, TIL_TICK_tick, TIL_TICK]; omega)⟩

/-- A kickoff clears the tick of its tile, and registers of the tile's block alone. -/
theorem clearKick_writes (s : State) (t : Nat) : BlockWritten s (clearKick s t) t ∧ tickOf (clearKick s t) t = 0 := by
  unfold clearKick
  extract_lets s1 s2 s3 s4 s5
  have h1 : BlockWritten s s1 t := (blockWritten_releaseStall s t).trans ((regFrame_wrs _ _).blockWritten (k := 0)
    (by
      simp only [List.map_cons, List.map_nil, List.forall_mem_cons, List.not_mem_nil, false_imp_iff, implies_true, and_true, InBlock,
        TIL_ERR_code, TIL_ERR_slot, TIL_ERR_pc, TIL_ERR_valid, TIL_ERR_TICK_tick, TIL_SLIP_slips, TIL_SLIP_records, TIL_GUARD_held,
        TIL_SLIP_FIRST_pc, TIL_SLIP_FIRST_kind, TIL_SLIP_FIRST_slot, TIL_SLIP_FIRST_valid, TIL_SLIP_FIRST_AT_tick,
        TIL_SLIP_FIRST_AT_length, TIL_SLIP_LONG_pc, TIL_SLIP_LONG_kind, TIL_SLIP_LONG_slot, TIL_SLIP_LONG_valid,
        TIL_SLIP_LONG_AT_tick, TIL_SLIP_LONG_AT_length, TIL_ERR, TIL_ERR_TICK, TIL_SLIP, TIL_GUARD, TIL_SLIP_FIRST,
        TIL_SLIP_FIRST_AT, TIL_SLIP_LONG, TIL_SLIP_LONG_AT]
      omega))
  have h2 : BlockWritten s1 s2 t := (regFrame_wrs _ _).blockWritten (k := 0)
    (by
      simp only [List.map_cons, List.map_nil, List.forall_mem_cons, List.not_mem_nil, false_imp_iff, implies_true, and_true, InBlock,
        TIL_SEQ_STATUS_halt_code, TIL_SEQ_STATUS_loops_active, TIL_TICK_tick, TIL_CAUSE_cause, TIL_SEQ_STATUS, TIL_TICK, TIL_CAUSE]
      omega)
  have ht : tickOf s2 t = 0 := rd_wrs_mem (p := (TIL_TICK_tick t, 0)) (by
    simp only [List.map_cons, List.map_nil, List.nodup_cons, List.mem_cons, List.not_mem_nil, or_false, not_or, not_false_eq_true,
      List.nodup_nil, and_true, Fld.key, TIL_SEQ_STATUS_halt_code, TIL_SEQ_STATUS_loops_active, TIL_TICK_tick, TIL_CAUSE_cause,
      TIL_SEQ_STATUS, TIL_TICK, TIL_CAUSE]
    omega) s1 (by simp)
  have h3 : TickKept s2 s3 t := (regFrame_wrs _ _).tickKept
    (by
      simp only [List.map_cons, List.map_nil, List.forall_mem_cons, List.not_mem_nil, false_imp_iff, implies_true, and_true, InBlock,
        ME_STATUS_wbuf0_valid, ME_STATUS_wbuf1_valid, ME_STATUS_shadow_next, ME_MMA_COUNT_mma, ME_GATE_gated_groups,
        ME_GATE_gated_mma, ME_SHADOW_compares, ME_SHADOW_mismatches, ME_SHADOW_last_pos, ME_SHADOW_INFO_last_mma, ME_ERR_INFO_cause,
        ME_ERR_INFO_pc, ME_ERR_INFO_acc, ME_ERR_INFO_pos, ME_ERR_INFO_overflow, ME_ERR_INFO_nonfinite, ME_STATUS, ME_MMA_COUNT,
        ME_GATE, ME_SHADOW, ME_SHADOW_INFO, ME_ERR_INFO]
      omega)
  have h4 : TickKept s3 s4 t := (regFrame_wrs _ _).tickKept
    (by
      simp only [List.map_cons, List.map_nil, List.forall_mem_cons, List.not_mem_nil, false_imp_iff, implies_true, and_true, InBlock,
        VE_TRAY_peak_lines, VE_COUNT_chains, VE_COUNT_pops, VE_ERR_INFO_cause, VE_ERR_INFO_pc, VE_ERR_INFO_chain,
        AID_LOCKER_fetches, AID_LOCKER_writes, AID_ERR_INFO_cause, AID_ERR_INFO_pc, AID_ERR_INFO_aide, AID_ERR_INFO_op, VE_TRAY,
        VE_COUNT, VE_ERR_INFO, AID_LOCKER, AID_ERR_INFO]
      omega)
  have h5 : TickKept s4 s5 t := (regFrame_wrs _ _).tickKept
    (by
      simp only [List.map_cons, List.map_nil, List.forall_mem_cons, List.not_mem_nil, false_imp_iff, implies_true, and_true, InBlock,
        SPD_ECC_me_corrected, SPD_ECC_ve_corrected, SPD_ECC_aide_corrected, SPD_ECC_array_corrected, BDR_REFRESH_refr,
        BDR_REFRESH_controller, BDR_REFRESH_late, BDR_STATIC_held_ticks, BDR_STATIC_conflicts, BDR_STATIC_crc_resends,
        BDR_STATIC_corrected, TIL_LPASS_outstanding0, TIL_LPASS_outstanding1, TIL_LPASS_excess_ticks, TIL_LPASS_issued,
        TIL_LPASS_BYTES_bytes, TIL_XFER_ERR_cause, TIL_XFER_ERR_pc, TIL_XFER_ERR_tmpl, TIL_XFER_ERR_eng, TIL_XFER_ERR_piece,
        SPD_ECC, BDR_REFRESH, BDR_STATIC, TIL_LPASS, TIL_LPASS_BYTES, TIL_XFER_ERR]
      omega)
  have key : ∀ u, TickKept s5 u t → BlockWritten s u t ∧ tickOf u t = 0 := fun u h6 => by
    obtain ⟨hb, hk⟩ := h3.trans (h4.trans (h5.trans h6))
    exact ⟨h1.trans (h2.trans hb), hk.trans ht⟩
  clear_value s5
  exact key _ ((regFrame_wrs _ _).tickKept
    (by
      simp only [List.map_cons, List.map_nil, List.forall_mem_cons, List.not_mem_nil, false_imp_iff, implies_true, and_true, InBlock,
        CH_STALE_lines, CH_ORPHAN_tile, CH_ORPHAN_queue, CH_ORPHAN_endpoint, CH_ORPHAN_at_reader, CH_ORPHAN_pc, CH_ORPHAN_valid,
        CH_WDOG_stalled, CH_STALE, CH_ORPHAN, CH_WDOG]
      omega))

theorem kickQueues_writes (s : State) (t : Nat) (mine : List Nat) : TickKept s (kickQueues s t mine) t := by
  refine .trans (.foldl (fun s q hq => ?_) s) (.foldl (fun s e he => ?_) _)
  · have := List.mem_range.1 hq
    refine (regFrame_wrs _ _).tickKept ?_
    simp only [List.map_cons, List.map_nil, List.forall_mem_cons, List.not_mem_nil, false_imp_iff, implies_true, and_true, InBlock,
      CH_QSTAT_fill, CH_QSTAT_open, CH_QSTAT_incarnation, CH_QSTAT_unread, CH_QSTAT_orphans, CH_QSTAT]
    omega
  · have := List.mem_range.1 he
    refine (regFrame_wrs _ _).tickKept ?_
    simp only [List.map_cons, List.map_nil, List.forall_mem_cons, List.not_mem_nil, false_imp_iff, implies_true, and_true, InBlock,
      CH_EPSTAT_open, CH_EPSTAT_credits, CH_EPSTAT_orphan_sends, CH_EPSTAT_held_ticks, CH_EPSTAT]
    omega

/-- What a kickoff of a tile writes last. -/
def kickLast (t entry winTod : Nat) (x : Run) : List (Fld × Nat) :=
  [(TIL_MODE_strict t, b2n x.strict), (TIL_MODE_slip_fatal t, b2n x.slipFatal), (CH_WDOG_limit_log2 t, wdogOf x.wdog),
    (TIL_SEQ_STATUS_pc t, entry), (TIL_SEQ_STATUS_state t, 1), (TIM_KICK_TOD_kick_tod t, winTod)]

theorem kickLast_nodup (t entry winTod : Nat) (x : Run) : ((kickLast t entry winTod x).map (·.1.key)).Nodup := by
  simp only [kickLast, List.map_cons, List.map_nil, List.nodup_cons, List.mem_cons, List.not_mem_nil, or_false, not_or,
    not_false_eq_true, List.nodup_nil, and_true, Fld.key, TIL_MODE_strict, TIL_MODE_slip_fatal, CH_WDOG_limit_log2,
    TIL_SEQ_STATUS_pc, TIL_SEQ_STATUS_state, TIM_KICK_TOD_kick_tod, TIL_MODE, CH_WDOG, TIL_SEQ_STATUS, TIM_KICK_TOD]
  omega

theorem kickLast_inBlock (t entry winTod : Nat) (x : Run) : ∀ f ∈ (kickLast t entry winTod x).map (·.1), InBlock t 0 f := by
  simp only [kickLast, List.map_cons, List.map_nil, List.forall_mem_cons, List.not_mem_nil, false_imp_iff, implies_true, and_true,
    InBlock, TIL_MODE_strict, TIL_MODE_slip_fatal, CH_WDOG_limit_log2, TIL_SEQ_STATUS_pc, TIL_SEQ_STATUS_state,
    TIM_KICK_TOD_kick_tod, TIL_MODE, CH_WDOG, TIL_SEQ_STATUS, TIM_KICK_TOD]
  omega

theorem tickOf_kickLast (s : State) (t entry winTod : Nat) (x : Run) : tickOf (wrs s (kickLast t entry winTod x)) t = tickOf s t := by
  refine rd_wrs_ne s _ _ ?_
  simp only [kickLast, List.forall_mem_cons, List.not_mem_nil, false_imp_iff, implies_true, and_true, Fld.key, TIL_MODE_strict,
    TIL_MODE_slip_fatal, CH_WDOG_limit_log2, TIL_SEQ_STATUS_pc, TIL_SEQ_STATUS_state, TIM_KICK_TOD_kick_tod, TIL_MODE, CH_WDOG,
    TIL_SEQ_STATUS, TIM_KICK_TOD, TIL_TICK_tick, TIL_TICK]
  omega

theorem trayFields_inBlock (t : Nat) : ∀ f ∈ trayFields t, InBlock t 0x10 f := by
  simp only [trayFields, List.forall_mem_cons, List.not_mem_nil, false_imp_iff, implies_true, and_true, InBlock, VE_TRAY_entries,
    VE_TRAY_free_lines, VE_TRAY_head_long, VE_TRAY_head_visible, VE_TRAY_peak_lines, VE_TRAY]
  omega

/-- The kickoff of a tile: its hidden state is new, its sequencer stands at the entry at tick 0, and beside the free values, the
waiters and the deferred messages of that tile nothing but its registers changes. -/
structure TileKicked (s s' : State) (t run task entry : Nat) : Prop where
  rest : s' = { s with regs := s'.regs, tiles := s'.tiles, freeCtr := s'.freeCtr, waiters := s'.waiters, cleared := s'.cleared }
  own : tileOf s' t = kickedTile s t run task entry
  others : TilesKeptBut s s' t
  pc : pcOf s' t = entry % 2 ^ 14
  state : seqState s' t = 1
  tick : tickOf s' t = 0
  kept : ∀ f : Fld, (f.key < 64 * (0x1000000 + 0x10000 * t) ∨ 64 * (0x1010000 + 0x10000 * t) ≤ f.key) →
    f.key ≠ CH_STALL_A_valid.key → f.key ≠ CH_STALL_B_valid.key → rd s' f = rd s f

/-- The state in which a kickoff of a tile writes its registers. -/
def kickSet (s : State) (t run task entry : Nat) : State :=
  { takeFree (setTile s t (kickedTile s t run task entry)) 131072 with
    waiters := s.waiters.filter fun w => w.tile != t, cleared := Store.erase s.cleared t }

/-- The state in which a kickoff of a tile writes its registers, those of its block cleared. -/
def kickCleared (s : State) (t run task : Nat) (x : Run) (entry : Nat) : State :=
  kickQueues (clearKick (kickSet s t run task entry) t) t (tilesOfRun (kickSet s t run task entry) x)

theorem kickTile_eq (s : State) (t run task : Nat) (x : Run) (entry : Nat) : kickTile s t run task x entry =
    syncTray (wrs (kickCleared s t run task x entry) (kickLast t entry (kickCleared s t run task x entry).time.winTod x)) t := rfl

theorem kickCleared_writes (s : State) (t run task : Nat) (x : Run) (entry : Nat) :
    BlockWritten (kickSet s t run task entry) (kickCleared s t run task x entry) t ∧
      tickOf (kickCleared s t run task x entry) t = 0 := by
  obtain ⟨hb, hk⟩ := clearKick_writes (kickSet s t run task entry) t
  obtain ⟨qb, qk⟩ := kickQueues_writes (clearKick (kickSet s t run task entry) t) t (tilesOfRun (kickSet s t run task entry) x)
  exact ⟨hb.trans qb, qk.trans hk⟩

theorem kickTile_kicks (s : State) (t run task : Nat) (x : Run) (entry : Nat) :
    TileKicked s (kickTile s t run task x entry) t run task entry := by
  obtain ⟨h2, hq⟩ := kickCleared_writes s t run task x entry
  rw [kickTile_eq]
  generalize kickCleared s t run task x entry = s2 at h2 hq
  have h3 : BlockWritten s2 (wrs s2 (kickLast t entry s2.time.winTod x)) t :=
    (regFrame_wrs _ _).blockWritten (kickLast_inBlock t entry s2.time.winTod x)
  have hv := fun p hp => rd_wrs_mem (kickLast_nodup t entry s2.time.winTod x) s2 (p := p) hp
  have ht : tickOf (wrs s2 (kickLast t entry s2.time.winTod x)) t = 0 := (tickOf_kickLast s2 t entry _ x).trans hq
  generalize wrs s2 (kickLast t entry s2.time.winTod x) = s3 at *
  have h4 := syncTray_frame s3 t
  have h4b := h4.blockWritten (trayFields_inBlock t)
  have low : ∀ f : Fld, f.key < 64 * (0x1000000 + 0x10000 * t + 0x10) → rd (syncTray s3 t) f = rd s3 f :=
    fun f hf => h4.lower (trayFields_inBlock t) hf
  obtain ⟨hr, hreg⟩ := h2.trans (h3.trans h4b)
  have hti : (syncTray s3 t).tiles = (kickSet s t run task entry).tiles := by rw [hr]
  refine ⟨?_, ?_, ?_, ?_, ?_, ?_, fun f hf h1 h2 => hreg f hf h1 h2⟩
  · rw [hr]; rfl
  · rw [tileOf_congr t hti]; exact tileOf_setTile_self s t _
  · exact fun v hv => (tileOf_congr v hti).trans (tileOf_setTile_ne s _ hv)
  · exact (low _ (by simp only [Fld.key, TIL_SEQ_STATUS_pc, TIL_SEQ_STATUS]; omega)).trans
      (hv (TIL_SEQ_STATUS_pc t, entry) (by simp [kickLast]))
  · exact (low _ (by simp only [Fld.key, TIL_SEQ_STATUS_state, TIL_SEQ_STATUS]; omega)).trans
      (hv (TIL_SEQ_STATUS_state t, 1) (by simp [kickLast]))
  · exact (low _ (by simp only [Fld.key, TIL_TICK_tick, TIL_TICK]; omega)).trans ht

/-! ### A task's start (10_jobs_graphs_and_timetable.md, R264) -/

/-- What the obligation asks of a tile on which a task has started. -/
def TileStarted (s : State) (v r k entry : Nat) : Prop :=
  pcOf s v = entry % 2 ^ 14 ∧ seqState s v = 1 ∧ tickOf s v = 0 ∧ (tileOf s v).task = some (r, k) ∧ (tileOf s v).waits = [] ∧
    (tileOf s v).marks = [] ∧ (tileOf s v).loops = [] ∧ (tileOf s v).tray = [] ∧ (tileOf s v).aregs = [] ∧ (tileOf s v).apreds = []

theorem TileKicked.started {s s' : State} {t r k entry : Nat} (h : TileKicked s s' t r k entry) : TileStarted s' t r k entry := by
  refine ⟨h.pc, h.state, h.tick, ?_⟩
  rw [h.own]
  exact ⟨rfl, rfl, rfl, rfl, rfl, rfl, rfl⟩

/-- The sequencer registers of another tile read as before. -/
theorem TileKicked.seq {s s' : State} {t r k entry v : Nat} (h : TileKicked s s' t r k entry) (hv : v ≠ t) :
    pcOf s' v = pcOf s v ∧ seqState s' v = seqState s v ∧ tickOf s' v = tickOf s v := by
  refine ⟨h.kept _ ?_ ?_ ?_, h.kept _ ?_ ?_ ?_, h.kept _ ?_ ?_ ?_⟩ <;>
    simp only [Fld.key, TIL_SEQ_STATUS_pc, TIL_SEQ_STATUS_state, TIL_SEQ_STATUS, TIL_TICK_tick, TIL_TICK, CH_STALL_A_valid,
      CH_STALL_B_valid, CH_STALL_A, CH_STALL_B, ne_eq] <;> omega

theorem TileKicked.keepsStarted {s s' : State} {t r k entry v : Nat} (h : TileKicked s s' t r k entry)
    (hv : TileStarted s v r k entry) : TileStarted s' v r k entry := by
  rcases eq_or_ne v t with rfl | hne
  · exact h.started
  · obtain ⟨hp, hs, ht⟩ := h.seq hne
    simpa only [TileStarted, hp, hs, ht, h.others v hne] using hv

/-- Beside registers, tiles, free values, waiters and deferred messages nothing changes. -/
def TilesStart (s s' : State) : Prop :=
  s' = { s with regs := s'.regs, tiles := s'.tiles, freeCtr := s'.freeCtr, waiters := s'.waiters, cleared := s'.cleared }

theorem TilesStart.trans {a b c : State} (h : TilesStart a b) (g : TilesStart b c) : TilesStart a c := Eq.trans g (by rw [h])

/-- Kickoffs of the tiles of a list, one after another. -/
theorem kickTiles_start (f : Nat → Nat) (l : List Nat) (s : State) (r k : Nat) (x : Run) (entry : Nat) :
    TilesStart s (l.foldl (fun s u => kickTile s (f u) r k x entry) s) ∧
      (∀ v, (∃ u ∈ l, v = f u) ∨ TileStarted s v r k entry →
        TileStarted (l.foldl (fun s u => kickTile s (f u) r k x entry) s) v r k entry) ∧
      ∀ v, (∀ u ∈ l, v ≠ f u) → tileOf (l.foldl (fun s u => kickTile s (f u) r k x entry) s) v = tileOf s v := by
  induction l generalizing s with
  | nil => exact ⟨rfl, by simp, fun _ _ => rfl⟩
  | cons u l ih =>
    have hk := kickTile_kicks s (f u) r k x entry
    obtain ⟨hr, hs, ho⟩ := ih (kickTile s (f u) r k x entry)
    simp only [List.foldl_cons]
    generalize kickTile s (f u) r k x entry = s' at hk hr hs ho
    generalize l.foldl (fun s u => kickTile s (f u) r k x entry) s' = s'' at hr hs ho
    refine ⟨TilesStart.trans hk.rest hr, ?_, fun v hv => ?_⟩
    · rintro v (⟨w, hw, rfl⟩ | hv)
      · rcases List.mem_cons.1 hw with rfl | hw
        · exact hs _ (.inr hk.started)
        · exact hs _ (.inl ⟨w, hw, rfl⟩)
      · exact hs v (.inr (hk.keepsStarted hv))
    · exact (ho v fun w hw => hv w (List.mem_cons_of_mem _ hw)).trans (hk.others v (hv u List.mem_cons_self))

theorem get?_modRun_self {s : State} {r : Nat} {x : Run} (h : Store.get? s.runs r = some x) (f : Run → Run) :
    Store.get? (modRun s r f).runs r = some (f x) := by rw [get?_modRun, if_pos rfl, h]; rfl

/-- The tasks whose last condition has been met join those that wait, and nothing else changes. -/
theorem readyTasks_cases (s : State) (r : Nat) : readyTasks s r = s ∨
    ∃ l, readyTasks s r = modRun s r fun x => { x with ready := x.ready ++ l } := by
  unfold readyTasks
  split
  · exact .inl rfl
  · split
    · exact .inl rfl
    · exact .inr ⟨_, rfl⟩

theorem readyTasks_run (s : State) {r : Nat} {x : Run} (hx : Store.get? s.runs r = some x) :
    ∃ l, Store.get? (readyTasks s r).runs r = some { x with ready := l } := by
  rcases readyTasks_cases s r with h | ⟨l, h⟩ <;> rw [h]
  · exact ⟨x.ready, hx⟩
  · exact ⟨_, get?_modRun_self hx _⟩

theorem readyTasks_eq (s : State) (r : Nat) : readyTasks s r = { s with runs := (readyTasks s r).runs } := by
  rcases readyTasks_cases s r with h | ⟨l, h⟩ <;> rw [h]
  exact modRun_eq s r _

theorem startTask_eq {s : State} {r k : Nat} {x : Run} {j : Job} {a : TaskRec} (hx : Store.get? s.runs r = some x)
    (hj : Store.get? s.jobs x.job = some j) (ha : j.tasks[k]? = some a) : startTask s r k =
      a.span.foldl (fun s u => kickTile s (j.tiles.getD u 0xFFF) r k x a.entryPc)
        (modRun s r fun x => { x with started := k :: x.started, ready := x.ready.filter fun p => p.1 != k }) := by
  simp only [startTask, hx, hj, ha]

theorem exec_taskStart {s : State} {r k w : Nat} {x : Run} (hx : Store.get? s.runs r = some x) (hp : x.phase = .running)
    (hw : x.ready.find? (fun p => p.1 == k) = some (k, w)) (hb : boundaryCome s w = true) (hq : inBubble s (partOfRun s x) = false) :
    exec (.taskStart r k) s = .next (readyTasks (startTask s r k) r) := by
  simp [exec, execTaskStart, hx, hp, hw, hb, hq]

/-- Beside runs, registers, tiles, free values, waiters and deferred messages nothing changes. -/
def TasksStart (s s' : State) : Prop := s' = { s with
  runs := s'.runs, regs := s'.regs, tiles := s'.tiles, freeCtr := s'.freeCtr, waiters := s'.waiters, cleared := s'.cleared }

theorem TilesStart.tasksStart {s m s' : State} (h : TilesStart m s') (hm : m = { s with runs := m.runs }) : TasksStart s s' := by
  have hr : s'.runs = m.runs := by rw [h]
  unfold TasksStart
  rw [hr]
  exact Eq.trans h (by rw [hm])

/-- A task that starts is noted with its run, and its tiles kick off. -/
theorem startTask_starts {s : State} {r k : Nat} {x : Run} {j : Job} {a : TaskRec} (hx : Store.get? s.runs r = some x)
    (hj : Store.get? s.jobs x.job = some j) (ha : j.tasks[k]? = some a) :
    TasksStart s (startTask s r k) ∧ Store.get? (startTask s r k).runs r = some
        { x with started := k :: x.started, ready := x.ready.filter fun p => p.1 != k } ∧
      (∀ u ∈ a.span, TileStarted (startTask s r k) (j.tiles.getD u 0xFFF) r k a.entryPc) ∧
      ∀ v, (∀ u ∈ a.span, v ≠ j.tiles.getD u 0xFFF) → tileOf (startTask s r k) v = tileOf s v := by
  rw [startTask_eq hx hj ha]
  obtain ⟨hr, hs, ho⟩ := kickTiles_start (fun u => j.tiles.getD u 0xFFF) a.span
    (modRun s r fun x => { x with started := k :: x.started, ready := x.ready.filter fun p => p.1 != k }) r k x a.entryPc
  refine ⟨hr.tasksStart (modRun_eq s r _), (congrArg (Store.get? ·.runs r) hr).trans (get?_modRun_self hx _), fun u hu => hs _ (.inl ⟨u, hu, rfl⟩),
    fun v hv => (ho v hv).trans (tileOf_modRun ..)⟩

theorem taskStart_starts {s : State} {r k w : Nat} {x : Run} {j : Job} {a : TaskRec} (hx : Store.get? s.runs r = some x)
    (hj : Store.get? s.jobs x.job = some j) (ha : j.tasks[k]? = some a) (hp : x.phase = .running)
    (hw : x.ready.find? (fun p => p.1 == k) = some (k, w)) (hb : boundaryCome s w = true) (hq : inBubble s (partOfRun s x) = false) :
    Gives (.taskStart r k) s fun t =>
      (∃ y, Store.get? t.runs r = some y ∧ k ∈ y.started ∧ y.phase = .running ∧ y.epoch = x.epoch) ∧
      (∀ u ∈ a.span, TileStarted t (j.tiles.getD u 0xFFF) r k a.entryPc) ∧
      (∀ v, (∀ u ∈ a.span, v ≠ j.tiles.getD u 0xFFF) → tileOf t v = tileOf s v) ∧
      t.mem = s.mem ∧ t.fabric = s.fabric ∧ t.jobs = s.jobs := by
  refine ⟨_, exec_taskStart hx hp hw hb hq, ?_⟩
  obtain ⟨hm, hrun, hst, ho⟩ := startTask_starts hx hj ha
  obtain ⟨l, hl⟩ := readyTasks_run _ hrun
  have he := readyTasks_eq (startTask s r k) r
  refine ⟨⟨_, hl, by simp, hp, rfl⟩, ?_, ?_, ?_, ?_, ?_⟩
  · rw [he]; exact hst
  · rw [he]; exact ho
  · rw [he, hm]
  · rw [he, hm]
  · rw [he, hm]

/-! ### The kickoff of a run (R43, R217, R222, R265) -/

/-- What a kickoff sets of a run, and what names it. -/
def Run.core (x : Run) : RunPhase × Nat × Nat × Nat × RunKind × Nat := (x.phase, x.epoch, x.kickTod, x.job, x.kind, x.seed)

/-- Memory, jobs, the fabric, the epochs of the jobs, the time, the clock and the core of run `r` are as before. -/
structure KickKept (r : Nat) (s s' : State) : Prop where
  mem : s'.mem = s.mem
  jobs : s'.jobs = s.jobs
  fabric : s'.fabric = s.fabric
  epochs : s'.epochs = s.epochs
  epochAt : s'.epochAt = s.epochAt
  time : s'.time = s.time
  now : s'.now = s.now
  run : (Store.get? s'.runs r).map Run.core = (Store.get? s.runs r).map Run.core

theorem KickKept.refl (r : Nat) (s : State) : KickKept r s s := ⟨rfl, rfl, rfl, rfl, rfl, rfl, rfl, rfl⟩

theorem KickKept.trans {r : Nat} {a b c : State} (h : KickKept r a b) (g : KickKept r b c) : KickKept r a c :=
  ⟨g.mem.trans h.mem, g.jobs.trans h.jobs, g.fabric.trans h.fabric, g.epochs.trans h.epochs, g.epochAt.trans h.epochAt,
    g.time.trans h.time, g.now.trans h.now, g.run.trans h.run⟩

theorem KickKept.foldl {α : Type} {r : Nat} {g : State → α → State} (hg : ∀ s a, KickKept r s (g s a)) (l : List α) (s : State) :
    KickKept r s (l.foldl g s) := by
  induction l generalizing s with
  | nil => exact .refl r s
  | cons a l ih => exact (hg s a).trans (ih _)

theorem KickKept.ite {r : Nat} {s a b : State} {c : Prop} [Decidable c] (ha : KickKept r s a) (hb : KickKept r s b) :
    KickKept r s (if c then a else b) := by
  split
  · exact ha
  · exact hb

theorem kickKept_wrs (r : Nat) (s : State) (l : List (Fld × Nat)) : KickKept r s (wrs s l) := by
  rw [wrs_eq]
  exact ⟨rfl, rfl, rfl, rfl, rfl, rfl, rfl, rfl⟩

theorem kickKept_modRun (r : Nat) (s : State) {f : Run → Run} (hf : ∀ x, (f x).core = x.core) : KickKept r s (modRun s r f) := by
  refine ⟨by simp, by simp, by simp, by simp, by simp, by simp, by simp, ?_⟩
  rw [get?_modRun, if_pos rfl]
  cases Store.get? s.runs r <;> simp [hf]

theorem kickKept_addLine (r : Nat) (s : State) (l : Line) : KickKept r s (addLine s r l) :=
  kickKept_modRun r s fun x => by split <;> rfl

theorem kickKept_earlyLines (r : Nat) (s : State) (x : Run) (n : Nat) : KickKept r s (earlyLines s r x n) :=
  .foldl (fun s p => by
    split
    · exact .ite (.refl r s) (kickKept_addLine r s _)
    · exact .refl r s) _ s

theorem kickKept_dbl (r : Nat) (s : State) (d : DblSt) : KickKept r s { s with dbl := d } := ⟨rfl, rfl, rfl, rfl, rfl, rfl, rfl, rfl⟩

theorem kickKept_plans (r : Nat) (s : State) (m : Store PlanSt) : KickKept r s { s with plans := m } := ⟨rfl, rfl, rfl, rfl, rfl, rfl, rfl, rfl⟩

theorem kickKept_nameRun (r : Nat) (s : State) (x : Run) : KickKept r s (nameRun s r x) := by
  unfold nameRun
  split
  · exact kickKept_modRun r s fun _ => rfl
  · refine (kickKept_dbl r s _).trans (kickKept_modRun r _ fun _ => ?_)
    rfl

theorem kickKept_armCounters (r : Nat) (s : State) (j : Nat) (x : Job) (epoch : Nat) : KickKept r s (armCounters s j x epoch) :=
  .foldl (fun s _ => kickKept_wrs r s _) _ s

theorem kickKept_planStart (r : Nat) (s : State) (p n : Nat) : KickKept r s (planStart s p n) := by
  unfold planStart modPlan
  split
  · exact kickKept_plans r s _
  · exact .refl r s

theorem kickKept_clearPlanRegs (r : Nat) (s : State) (p : Nat) : KickKept r s (clearPlanRegs s p) := kickKept_wrs r s _

theorem kickKept_bindPlans (r : Nat) (s : State) (j : Nat) (x : Job) (replay : Bool) : KickKept r s (bindPlans s j x replay) :=
  .trans (.foldl (fun s _ => (kickKept_plans r s _).trans (kickKept_clearPlanRegs r _ _)) _ s) (kickKept_wrs r _ _)

theorem kickKept_readyTasks (r : Nat) (s : State) : KickKept r s (readyTasks s r) := by
  rcases readyTasks_cases s r with h | ⟨l, h⟩ <;> rw [h]
  · exact .refl r s
  · exact kickKept_modRun r s fun _ => rfl

theorem TasksStart.kickKept {r : Nat} {s s' : State} (h : TasksStart s s')
    (hr : (Store.get? s'.runs r).map Run.core = (Store.get? s.runs r).map Run.core) : KickKept r s s' :=
  ⟨by rw [h], by rw [h], by rw [h], by rw [h], by rw [h], by rw [h], by rw [h], hr⟩

theorem kickKept_startTask (r k : Nat) (s : State) : KickKept r s (startTask s r k) := by
  rcases hx : Store.get? s.runs r with _ | x
  · rw [startTask, hx]; exact .refl r s
  rcases hj : Store.get? s.jobs x.job with _ | j
  · rw [startTask, hx]; simp only [hj]; exact .refl r s
  rcases ha : j.tasks[k]? with _ | a
  · rw [startTask, hx]; simp only [hj, ha]; exact .refl r s
  obtain ⟨hm, hr, -⟩ := startTask_starts hx hj ha
  exact hm.kickKept (by rw [hr, hx]; rfl)

theorem kickKept_modTiles (r : Nat) (s : State) (l : List Nat) (f : Tile → Tile) : KickKept r s (l.foldl (fun s t => modTile s t f) s) :=
  .foldl (fun s t => (⟨rfl, rfl, rfl, rfl, rfl, rfl, rfl, rfl⟩ : KickKept r s (modTile s t f))) l s

/-- The state in which run `r` of job `x.job` kicks off under the next epoch. -/
def kickEpoch (s : State) (x : Run) (j : Job) : State :=
  { s with epochs := Store.set s.epochs x.job ((Store.getD s.epochs x.job 0 + 1) % 256), epochAt := Store.set s.epochAt x.job s.now
           undoRun := Store.erase s.undoRun j.part }

/-- Run `r` runs under an epoch since an instant, the rest of its core as in `x`. -/
def RunKicked (s : State) (r : Nat) (x : Run) (epoch tod : Nat) : Prop :=
  (Store.get? s.runs r).map Run.core = some (.running, epoch, tod, x.job, x.kind, x.seed)

theorem runKicked_modRun {s : State} {r : Nat} {x : Run} (hx : (Store.get? s.runs r).map Run.core = some x.core) {f : Run → Run}
    {epoch tod : Nat} (hf : ∀ y, (f y).core = (.running, epoch, tod, y.job, y.kind, y.seed)) :
    RunKicked (modRun s r f) r x epoch tod := by
  obtain ⟨y, hy, hc⟩ := Option.map_eq_some_iff.1 hx
  simp only [Run.core, Prod.mk.injEq] at hc
  obtain ⟨-, -, -, hj, hk, hs⟩ := hc
  rw [RunKicked, get?_modRun_self hy, Option.map_some, hf, hj, hk, hs]

theorem kickRun_kicks {s : State} {r : Nat} {x : Run} (j : Job) (hx : (Store.get? s.runs r).map Run.core = some x.core) :
    ∃ a, KickKept r a (kickRun s r x j) ∧ RunKicked a r x ((Store.getD s.epochs x.job 0 + 1) % 256) s.time.winTod ∧
      ∃ b, KickKept r (kickEpoch s x j) b ∧ a = { b with runs := a.runs } := by
  unfold kickRun
  extract_lets epoch s1 g s2 s3 s4 audited serial s5 replay s6 n s7 s8 zero
  have h2 : KickKept r s1 s2 := .ite ⟨rfl, rfl, rfl, rfl, rfl, rfl, rfl, rfl⟩ (.refl r s1)
  have h3 : KickKept r s2 s3 := .ite (kickKept_nameRun r s2 x) (.refl r s2)
  have h4 : KickKept r s3 s4 := kickKept_armCounters r s3 _ j epoch
  have h5 : KickKept r s4 s5 := .ite (kickKept_wrs r s4 [(AUD_RUN_SERIAL_serial j.part, serial + 1)]) (.refl r s4)
  have h1 : KickKept r (kickEpoch s x j) s5 := h2.trans (h3.trans (h4.trans h5))
  have h6 : RunKicked s6 r x epoch s.time.winTod :=
    runKicked_modRun (h1.run.trans hx) fun y => by rw [← show s5.time.winTod = s.time.winTod by rw [h1.time]; rfl]; rfl
  have h7 : KickKept r s6 s7 := by
    unfold s7
    split
    · exact .trans (.foldl (fun s _ => kickKept_planStart r s _ _) _ _) (.ite (kickKept_earlyLines r _ _ _) (.refl r _))
    · exact .foldl (fun s _ => kickKept_planStart r s _ _) _ _
  have h8 : KickKept r s7 s8 := kickKept_modTiles r s7 _ _
  exact ⟨s6, h7.trans (h8.trans (.trans (.foldl (fun s k => kickKept_startTask r k s) zero s8) (kickKept_readyTasks r _))), h6, s5, h1,
    modRun_eq s5 r _⟩

/-- What a kickoff of run `r`, whose core was `x`'s, sets and leaves alone. -/
structure KicksOff (s t : State) (r : Nat) (x : Run) : Prop where
  run : RunKicked t r x ((Store.getD s.epochs x.job 0 + 1) % 256) s.time.winTod
  epoch : Store.getD t.epochs x.job 0 = (Store.getD s.epochs x.job 0 + 1) % 256
  epochAt : Store.get? t.epochAt x.job = some s.now
  mem : t.mem = s.mem
  jobs : t.jobs = s.jobs
  fabric : t.fabric = s.fabric

theorem kicksOff_kickRun {s : State} {r : Nat} {x : Run} (j : Job) (hx : (Store.get? s.runs r).map Run.core = some x.core) :
    KicksOff s (kickRun s r x j) r x := by
  obtain ⟨a, hk, ha, b, hb, hab⟩ := kickRun_kicks j hx
  have hm : a.mem = b.mem := by rw [hab]
  have hj : a.jobs = b.jobs := by rw [hab]
  have hf : a.fabric = b.fabric := by rw [hab]
  have he : a.epochs = b.epochs := by rw [hab]
  have hn : a.epochAt = b.epochAt := by rw [hab]
  refine ⟨hk.run.trans ha, ?_, ?_, hk.mem.trans (hm.trans hb.mem), hk.jobs.trans (hj.trans hb.jobs),
    hk.fabric.trans (hf.trans hb.fabric)⟩
  · rw [hk.epochs, he, hb.epochs]; exact Store.getD_set_self _ _ _ _
  · rw [hk.epochAt, hn, hb.epochAt]; exact Store.get?_set_self _ _ _

/-- The binding of a job's plans for a RUN_GRAPH run, where none is bound. -/
def graphBound (s : State) (x : Run) (j : Job) : State := if (plansOf s x.job).isEmpty then bindPlans s x.job j true else s

theorem exec_kickoff {s : State} {r : Nat} {x : Run} {j : Job} (hx : Store.get? s.runs r = some x)
    (hj : Store.get? s.jobs x.job = some j) (hk : kickBlocked s r x = false) (hd : s.time.rollDue = false)
    (hb : boundaryCome s (x.kickWin.getD 0) = true) (hq : inBubble s j.part = false)
    (hr : ∀ t ∈ j.tiles, replacing s t (decide (0 < x.retakes)) = false)
    (he : ∀ e, Store.get? s.epochAt x.job = some e → e + 4000 ≤ s.now)
    (hg : x.kind = .graph → unfilled j = none ∧ planHolder s x.job j = none) :
    exec (.kickoff r) s = .next (kickRun (if x.kind = .graph then graphBound s x j else s) r x j) := by
  have hrep : j.tiles.any (fun t => replacing s t (decide (0 < x.retakes))) = false := by simpa using hr
  simp only [exec, execKickoff, hx, hj, hk, hd, hb, hq, hrep]
  rw [if_neg (by decide), if_neg (by decide), if_neg (by decide), if_neg (by decide), if_neg ?young]
  case young =>
    split
    · next e h => simpa using he e h
    · decide
  rcases hkind : x.kind with _ | n
  · obtain ⟨hu, hp⟩ := hg hkind
    simp only [graphKick, hu, hp, graphBound, if_true]
  · rfl

theorem kickKept_graphBound (r : Nat) (s : State) (x : Run) (j : Job) : KickKept r s (graphBound s x j) :=
  .ite (kickKept_bindPlans r s _ j true) (.refl r s)

theorem KicksOff.of_kept {s u t : State} {r : Nat} {x : Run} (h : KicksOff u t r x) (hk : KickKept r s u) :
    KicksOff s t r x := by
  obtain ⟨h1, h2, h3, h4, h5, h6⟩ := h
  rw [hk.epochs, hk.time] at h1
  rw [hk.epochs] at h2
  exact ⟨h1, h2, hk.now ▸ h3, h4.trans hk.mem, h5.trans hk.jobs, h6.trans hk.fabric⟩

theorem kickoff_kicks {s : State} {r : Nat} {x : Run} {j : Job} (hx : Store.get? s.runs r = some x)
    (hj : Store.get? s.jobs x.job = some j) (hk : kickBlocked s r x = false) (hd : s.time.rollDue = false)
    (hb : boundaryCome s (x.kickWin.getD 0) = true) (hq : inBubble s j.part = false)
    (hr : ∀ t ∈ j.tiles, replacing s t (decide (0 < x.retakes)) = false)
    (he : ∀ e, Store.get? s.epochAt x.job = some e → e + 4000 ≤ s.now)
    (hg : x.kind = .graph → unfilled j = none ∧ planHolder s x.job j = none) :
    Gives (.kickoff r) s fun t => KicksOff s t r x := by
  refine ⟨_, exec_kickoff hx hj hk hd hb hq hr he hg, ?_⟩
  have hkept : KickKept r s (if x.kind = .graph then graphBound s x j else s) := .ite (kickKept_graphBound r s x j) (.refl r s)
  exact (kicksOff_kickRun j (hkept.run.trans (by rw [hx]; rfl))).of_kept hkept

/-! ### What of O34 holds, and what fails (10_jobs_graphs_and_timetable.md, R73, R264, R265) -/

theorem exec_kickoff_rollDue {s : State} {r : Nat} {x : Run} {j : Job} (hx : Store.get? s.runs r = some x)
    (hj : Store.get? s.jobs x.job = some j) (hk : kickBlocked s r x = false) (hd : s.time.rollDue = true) :
    exec (.kickoff r) s = .next { s with time := { s.time with rollCall := 1, rollRun := some r } } := by
  simp [exec, execKickoff, hx, hj, hk, hd]

theorem exec_kickoff_blocked {s : State} {r : Nat} {x : Run} (hx : Store.get? s.runs r = some x) (hk : kickBlocked s r x = true) :
    exec (.kickoff r) s = .next s := by
  rcases hj : Store.get? s.jobs x.job with _ | j <;> simp [exec, execKickoff, hx, hj, hk]

/-- A scheduled write of a slot beyond the eight of a bundle: its place in the order of accesses lies past its own tick. -/
def strayWrite : Micro := ⟨5, true, 100, .write 0 [], 5⟩

/-- A halted tile that serves the task of a run that stops, with that write scheduled. -/
def strayState : State :=
  { fieldsAt0 [(TIL_SEQ_STATUS_state 0, 4)] with
    tiles := [(0, { Tile.init with task := some (0, 0), micros := [strayWrite] })]
    runs := [(0, { oneRun with phase := .stopping })], jobs := [(1, oneJob)] }

theorem strayState_mayComplete : mayComplete strayState 0 = true := by decide +kernel

/-- The accesses of tile 0 after a step that gives a next state. -/
def microsAfter (o : Host.Outcome State Fault Refusal) : List Micro :=
  match o with
  | .next u => (tileOf u 0).micros
  | _ => []

theorem micros_tileComplete_strayState : microsAfter (exec (.tileComplete 0) strayState) = [strayWrite] := by decide +kernel

/-- Of O34 every clause but the last holds: a run kicks off, is put behind a roll call that is due, or stays; a task starts. -/
theorem kickoffs_and_task_starts :
    (∀ (s : State) (r : Nat) (x : Run) (j : Job), Store.get? s.runs r = some x → Store.get? s.jobs x.job = some j → kickBlocked s r x = false →
      s.time.rollDue = false → boundaryCome s (x.kickWin.getD 0) = true → inBubble s j.part = false →
      (∀ t ∈ j.tiles, replacing s t (decide (0 < x.retakes)) = false) →
      (∀ e, Store.get? s.epochAt x.job = some e → e + 4000 ≤ s.now) →
      (x.kind = .graph → unfilled j = none ∧ planHolder s x.job j = none) → Gives (.kickoff r) s fun t => KicksOff s t r x) ∧
    (∀ (s : State) (r : Nat) (x : Run) (j : Job), Store.get? s.runs r = some x → Store.get? s.jobs x.job = some j → kickBlocked s r x = false →
      s.time.rollDue = true → exec (.kickoff r) s = .next { s with time := { s.time with rollCall := 1, rollRun := some r } }) ∧
    (∀ (s : State) (r : Nat) (x : Run), Store.get? s.runs r = some x → kickBlocked s r x = true → exec (.kickoff r) s = .next s) ∧
    (∀ (s : State) (r k w : Nat) (x : Run) (j : Job) (a : TaskRec), Store.get? s.runs r = some x → Store.get? s.jobs x.job = some j →
      j.tasks[k]? = some a → x.phase = .running → x.ready.find? (fun p => p.1 == k) = some (k, w) → boundaryCome s w = true →
      inBubble s (partOfRun s x) = false → Gives (.taskStart r k) s fun t =>
        (∃ y, Store.get? t.runs r = some y ∧ k ∈ y.started ∧ y.phase = .running ∧ y.epoch = x.epoch) ∧
        (∀ u ∈ a.span, TileStarted t (j.tiles.getD u 0xFFF) r k a.entryPc) ∧
        (∀ v, (∀ u ∈ a.span, v ≠ j.tiles.getD u 0xFFF) → tileOf t v = tileOf s v) ∧
        t.mem = s.mem ∧ t.fabric = s.fabric ∧ t.jobs = s.jobs) :=
  ⟨fun _ _ _ _ hx hj hk hd hb hq hr he hg => kickoff_kicks hx hj hk hd hb hq hr he hg,
    fun _ _ _ _ hx hj hk hd => exec_kickoff_rollDue hx hj hk hd, fun _ _ _ hx hk => exec_kickoff_blocked hx hk,
    fun _ _ _ _ _ _ _ hx hj ha hp hw hb hq => taskStart_starts hx hj ha hp hw hb hq⟩

/-- Refutes O34, by its last clause, which speaks of every state: a write scheduled for a slot that no bundle has is left behind
when its tile reports completion. The clauses before it hold (`kickoffs_and_task_starts`). -/
theorem not_runsKickOffAndTasksStart : ¬ Obligations.RunsKickOffAndTasksStart := by
  unfold Obligations.RunsKickOffAndTasksStart
  rintro ⟨-, -, -, -, complete⟩
  obtain ⟨u, hu, -, -, hm, -⟩ := complete strayState 0 0 0 { oneRun with phase := .stopping } oneJob rfl strayState_mayComplete rfl rfl
  have stays := micros_tileComplete_strayState
  rw [hu] at stays
  exact absurd (hm.symm.trans stays) (by decide)

end Sys2Proof.Machine
end

section
namespace Sys2Proof.Machine

-- One proof after another: many at once take more memory, in a text this long, than its compile has.
set_option Elab.async false

/-! ## The end and the abort of a run, as far as doubles sees them (10_jobs_graphs_and_timetable.md, R240, R241, R261, R272) -/

/-- What doubles keeps and `f` of run `r` are as before, and what has been given out stays given out. -/
def SideKept {α : Type} (f : Run → α) (r : Nat) (s t : State) : Prop :=
  t.dbl = s.dbl ∧ OutGrows s t ∧ (Store.get? t.runs r).map f = (Store.get? s.runs r).map f

section
variable {α : Type} {f : Run → α} {r : Nat}

theorem SideKept.refl (s : State) : SideKept f r s s := ⟨rfl, .refl s, rfl⟩

theorem SideKept.trans {a b c : State} (h : SideKept f r a b) (g : SideKept f r b c) : SideKept f r a c := by
  obtain ⟨hd, ho, hr⟩ := h
  obtain ⟨gd, go, gr⟩ := g
  exact ⟨gd.trans hd, ho.trans go, gr.trans hr⟩

theorem SideKept.ite {s a b : State} {c : Prop} [Decidable c] (ha : SideKept f r s a) (hb : SideKept f r s b) :
    SideKept f r s (if c then a else b) := by
  split
  · exact ha
  · exact hb

theorem SideKept.foldl {β : Type} {g : State → β → State} (hg : ∀ s a, SideKept f r s (g s a)) (l : List β) (s : State) :
    SideKept f r s (l.foldl g s) := by
  induction l generalizing s with
  | nil => exact .refl s
  | cons a l ih => exact (hg s a).trans (ih (g s a))

theorem AnswerFrame.sideKept {s t : State} (h : AnswerFrame s t) (hf : ∀ x, f x.unlined = f x) : SideKept f r s t := by
  have he : f = f ∘ Run.unlined := funext fun x => (hf x).symm
  refine ⟨h.dbl, h.out, ?_⟩
  rw [he, ← Option.map_map, ← Option.map_map, h.runs r]

theorem sideKept_modRun (s : State) (q : Nat) {g : Run → Run} (hg : ∀ x, f (g x) = f x) : SideKept f r s (modRun s q g) := by
  refine ⟨by simp, fun o ho => by simpa using ho, ?_⟩
  rw [get?_modRun]
  split
  next h => cases hx : Store.get? s.runs q <;> simp [h, hx, hg]
  · rfl

theorem sideKept_mapRuns (s : State) {g : Run → Run} (hg : ∀ x, f (g x) = f x) :
    SideKept f r s { s with runs := s.runs.map fun p => (p.1, g p.2) } := by
  refine ⟨rfl, .refl s, ?_⟩
  have hm := Store.get?_map s.runs (fun p => (p.1, g p.2)) (fun _ => rfl) r
  rw [hm]
  cases Store.get? s.runs r <;> simp [hg]

end

/-! ### The end of a run -/

theorem answerFrame_beforeLines (s : State) (r : Nat) (x : Run) (j : Job) (f : Form) (n : Nat) : AnswerFrame s (beforeLines s r x j f n) :=
  .trans (.foldl (fun s _ => .ite (answerFrame_addLine s r _) (.refl s)) _ s) (.foldl (fun s c => by
    split
    · exact answerFrame_addLine s r _
    · exact .refl s) _ _)

theorem answerFrame_replayLines (s : State) (r : Nat) (x : Run) (j : Job) (f : Form) : AnswerFrame s (replayLines s r x j f) :=
  .trans (.foldl (fun s _ => answerFrame_addLine s r _) _ s) (.foldl (fun s _ => answerFrame_addLine s r _) _ _)

theorem answerFrame_endLines (s : State) (r : Nat) : AnswerFrame s (endLines s r) := by
  unfold endLines
  split
  · exact .refl s
  · refine .ite (.refl s) ?_
    split
    · exact .refl s
    · split
      · exact answerFrame_beforeLines s r _ _ _ _
      · exact answerFrame_replayLines s r _ _ _
      · exact .refl s

/-- Where a run stands. -/
def Run.standing (x : Run) : RunPhase × Nat := (x.phase, x.outcome)

theorem sideKept_delayPending (r : Nat) (s : State) (j w : Nat) : SideKept Run.standing r s (delayPending s j w) :=
  sideKept_mapRuns (g := fun x => if x.job = j ∧ x.phase = .pending then { x with kickWin := x.kickWin.map fun v => max v w } else x) s
    fun x => by split <;> rfl

theorem sideKept_endBinding (r : Nat) (s : State) (q status detail retakes epoch : Nat) :
    SideKept Run.standing r s (endBinding s q status detail retakes epoch) := by
  unfold endBinding
  split
  · exact .refl s
  · extract_lets p' s1 s2 later inLater isCand n
    have h1 : SideKept Run.standing r s s1 := .refl s
    have h2 := (answerFrame_wrs s1 [(CTL_PERIOD_NUM_bound q, 0), (CTL_PERIOD_NUM_job_id q, 0)]).trans
      ((answerFrame_closeAll n s2 fun r => r.bind == p'.subm && (isCand r || inLater r)).trans (answerFrame_bindingDone _ p'.subm))
    exact h1.trans (h2.sideKept fun _ => rfl)

theorem sideKept_endBind (r : Nat) (s : State) (q status detail retakes epoch : Nat) :
    SideKept Run.standing r s (endBind s q status detail retakes epoch) := by
  unfold endBind
  split
  · exact .refl s
  next p _ =>
    extract_lets s1 s2
    have h1 : AnswerFrame s s1 := by
      unfold s1
      split
      · exact .ite (.refl s) ((answerFrame_completeFull s _ stOk 0 0 0).trans (answerFrame_pumpAll _))
      · exact .refl s
    have h3 : AnswerFrame s2 (if (liveRun s2 p.job).isNone then unbindPlans s2 p.job else s2) :=
      .ite (answerFrame_unbindPlans s2 p.job) (.refl s2)
    exact (h1.sideKept fun _ => rfl).trans ((sideKept_endBinding r s1 q status detail retakes epoch).trans (h3.sideKept fun _ => rfl))

/-- A run that has ended is none of the pending runs dropped. -/
theorem standing_dropPeriodRuns {s : State} {r o : Nat} (h : (Store.get? s.runs r).map Run.standing = some (.ended, o)) (j : Nat) :
    SideKept Run.standing r s (dropPeriodRuns s j) := by
  refine ⟨rfl, .refl s, ?_⟩
  obtain ⟨y, hy, hs⟩ := Option.map_eq_some_iff.1 h
  have hp : y.phase = .ended := congrArg Prod.fst hs
  have hm := Store.get?_map s.runs (fun p => (p.1, if p.2.job = j ∧ p.2.phase = .pending ∧ p.2.kind ≠ .graph then
      { p.2 with phase := .ended, outcome := 5, recorded := true } else p.2)) (fun _ => rfl) r
  rw [dropPeriodRuns, hm, hy, Option.map_some, if_neg (by simp [hp])]

/-- A run that ends has ended with its outcome; doubles is as before, and what has been given out stays given out. -/
theorem endRun_ends {s : State} {r : Nat} {x : Run} (hx : Store.get? s.runs r = some x) (outcome status detail : Nat) :
    (endRun s r outcome status detail).dbl = s.dbl ∧ OutGrows s (endRun s r outcome status detail) ∧
      (Store.get? (endRun s r outcome status detail).runs r).map Run.standing = some (.ended, outcome) := by
  unfold endRun
  split
  next h => cases h.symm.trans hx
  next x' _ =>
  extract_lets s1 s2 s3 s4 bound s5
  have h1 : AnswerFrame s s1 := answerFrame_endLines s r
  have hs : (Store.get? s2.runs r).map Run.standing = some (.ended, outcome) := by
    obtain ⟨y, hy, -⟩ := Option.map_eq_some_iff.1 ((h1.runs r).trans (by rw [hx]; rfl))
    rw [show s2 = modRun s1 r _ from rfl, get?_modRun_self hy]
    rfl
  have h2 : s2.dbl = s1.dbl ∧ OutGrows s1 s2 := ⟨modRun_dbl s1 r _, fun o ho => by rw [show s2.out = s1.out from modRun_out s1 r _]; exact ho⟩
  have h3 : SideKept Run.standing r s2 s3 := by
    unfold s3
    split
    · exact .ite (sideKept_modRun s2 r fun _ => rfl) (.refl s2)
    · exact .refl s2
  have h4 : SideKept Run.standing r s3 s4 := sideKept_delayPending r s3 _ _
  have hs4 : (Store.get? s4.runs r).map Run.standing = some (.ended, outcome) := (h3.trans h4).2.2.trans hs
  have h5 : SideKept Run.standing r s4 s5 := by
    clear_value bound
    unfold s5
    split
    · exact ((answerFrame_completeFull s4 _ _ _ _ _).trans (answerFrame_pumpAll _)).sideKept fun _ => rfl
    · split
      · exact .ite ((standing_dropPeriodRuns hs4 _).trans (sideKept_endBind r _ _ _ _ _ _)) (.refl s4)
      · exact .refl s4
  have h6 := h3.trans (h4.trans (h5.trans (SideKept.ite (c := (x'.kind != .graph && s5.periods.all fun p => p.2.subm != x'.subm) = true)
    ((answerFrame_unbindPlans s5 x'.job).sideKept fun _ => rfl) (.refl s5))))
  obtain ⟨hd, ho, hr⟩ := h6
  exact ⟨hd.trans (h2.1.trans h1.dbl), h1.out.trans (h2.2.trans ho), hr.trans hs⟩

/-! ### The abort of a run -/

/-- Nothing but registers, tiles, memory, the fabric, the waiters, deferred messages and free values changes. -/
def TileWork (s s' : State) : Prop := s' = { s with
  regs := s'.regs, tiles := s'.tiles, mem := s'.mem, fabric := s'.fabric, waiters := s'.waiters, cleared := s'.cleared
  freeCtr := s'.freeCtr }

theorem TileWork.refl (s : State) : TileWork s s := rfl

theorem TileWork.trans {a b c : State} (h : TileWork a b) (g : TileWork b c) : TileWork a c := Eq.trans g (by rw [h])

theorem TileWork.ite {s a b : State} {c : Prop} [Decidable c] (ha : TileWork s a) (hb : TileWork s b) : TileWork s (if c then a else b) := by
  split
  · exact ha
  · exact hb

theorem TileWork.foldl {β : Type} {g : State → β → State} (hg : ∀ s a, TileWork s (g s a)) (l : List β) (s : State) :
    TileWork s (l.foldl g s) := by
  induction l generalizing s with
  | nil => exact .refl s
  | cons a l ih => exact (hg s a).trans (ih (g s a))

theorem TileWork.sideKept {α : Type} {f : Run → α} {r : Nat} {s t : State} (h : TileWork s t) : SideKept f r s t :=
  ⟨by rw [h], fun o ho => by rw [h]; exact ho, by rw [h]⟩

theorem TilesRun.tileWork {s t : State} (h : TilesRun s t) : TileWork s t := Eq.trans h (by rw [h])

theorem AccessFrame.tilesRun {s s' : State} {t : Nat} (h : AccessFrame s s' t) : TilesRun s s' := by
  have hr := congrArg (fun u : State => ({ u with regs := s'.regs, tiles := s'.tiles, mem := s'.mem, fabric := s'.fabric } : State)) h.rest
  exact hr

theorem tileWork_wrs (s : State) (l : List (Fld × Nat)) : TileWork s (wrs s l) := by
  rw [wrs_eq]
  rfl

theorem tileWork_catchUp (s : State) (t : Nat) : TileWork s (catchUp s t) := .ite (setTick_frame s t _).tilesRun.tileWork (.refl s)

theorem tileWork_haltTile (s : State) (t st : Nat) : TileWork s (haltTile s t st) := by
  have h : TileWork s (flushMicros s t) := (flushMicros_frame s t).tilesRun.tileWork
  unfold haltTile
  generalize flushMicros s t = u at h
  exact h.trans rfl

theorem tileWork_noteErr (s : State) (t code slot pc : Nat) : TileWork s (noteErr s t code slot pc) := .ite (.refl s) (tileWork_wrs s _)

theorem tileWork_raise (s : State) (f : Fld) (b : Nat) : TileWork s (raise s f b) := rfl

theorem tileWork_stopTile (s : State) (t : Nat) : TileWork s (stopTile s t) :=
  .ite ((((tileWork_catchUp s t).trans (tileWork_noteErr _ t _ _ _)).trans (tileWork_haltTile _ t 5)).trans (tileWork_raise _ _ _)) (.refl s)

theorem tileWork_modTile (s : State) (t : Nat) (f : Tile → Tile) : TileWork s (modTile s t f) := rfl

theorem tileWork_noteDelivered (s : State) (t : Nat) : TileWork s (noteDelivered s t) := .ite (tileWork_modTile s t _) (.refl s)

theorem tileWork_settleMsg (s : State) (i : Item) : TileWork s (settleMsg s i) :=
  .ite ((tileWork_modTile s i.src _).trans (tileWork_noteDelivered _ _)) (.refl s)

theorem tileWork_recordStale (s : State) (t : Nat) : TileWork s (recordStale s t) := rfl

theorem tileWork_recordOrphan (s : State) (t other q ep : Nat) (atReader : Bool) (pc : Nat) :
    TileWork s (recordOrphan s t other q ep atReader pc) := by
  unfold recordOrphan
  extract_lets u
  have h : TileWork s u := .ite (.refl s) (tileWork_wrs s _)
  exact h.trans rfl

theorem tileWork_routeIncr (s : State) (ctr tile pc : Nat) : TileWork s (routeIncr s ctr tile pc) := rfl

theorem tileWork_deliverLine (s : State) (i : Item) (ep q inc pc : Nat) (data : Bytes) (present : Option Nat) :
    TileWork s (deliverLine s i ep q inc pc data present) := by
  unfold deliverLine
  extract_lets d s1 at' s2 s3
  have h1 : TileWork s s1 := tileWork_settleMsg s i
  have h3 : TileWork s1 s3 := rfl
  refine h1.trans (.ite (tileWork_recordStale s1 d) (.ite ?_ (.ite (h3.trans (tileWork_routeIncr s3 _ _ _)) h3)))
  exact TileWork.trans (b := bump s1 (CH_QSTAT_orphans d q) 1) rfl (tileWork_recordOrphan _ _ _ _ _ _ _)

theorem tileWork_deliverCredit (s : State) (i : Item) (ep pc : Nat) : TileWork s (deliverCredit s i ep pc) := by
  unfold deliverCredit
  extract_lets d s1
  have h1 : TileWork s s1 := rfl
  exact .ite (tileWork_recordStale s d) (.ite (.refl s) (.ite (h1.trans (tileWork_routeIncr s1 _ _ _)) h1))

theorem tileWork_deliverToken (s : State) (i : Item) (ep : Nat) (opens : Bool) (inc : Nat) :
    TileWork s (deliverToken s i ep opens inc) := by
  unfold deliverToken
  extract_lets d s1 s2
  have h1 : TileWork s s1 := tileWork_settleMsg s i
  exact h1.trans (.ite (tileWork_recordStale s1 d) (.ite ((tileWork_modTile s1 d _).trans (tileWork_wrs s2 _)) (tileWork_wrs s1 _)))

theorem tileWork_deliver (s : State) (i : Item) : TileWork s (deliver s i) := by
  unfold deliver
  split
  · exact tileWork_deliverLine s i _ _ _ _ _ _
  · exact tileWork_deliverCredit s i _ _
  · exact tileWork_deliverToken s i _ _ _
  · exact .refl s
  · exact .refl s

theorem tileWork_settleCrossing (s : State) (t : Nat) : TileWork s (settleCrossing s t) :=
  TileWork.trans (b := { s with fabric := s.fabric.filter fun i => !crossedBy s t (nowTick s t) i }) rfl (.foldl tileWork_deliver _ _)

theorem tileWork_writeMasked (s : State) (a : Nat) (b : List (Option Byte)) : TileWork s (writeMasked s a b) := by
  rw [writeMasked_eq]
  rfl

theorem tileWork_takeFree (s : State) (n : Nat) : TileWork s (takeFree s n) := rfl

theorem tileWork_cutPiece (s : State) (t : Nat) (f : Transfer) (k : Nat) : TileWork s (cutPiece s t f k) :=
  .ite (.refl s) ((tileWork_writeMasked s _ _).trans (tileWork_takeFree _ _))

theorem tileWork_cutXfers (s : State) (t : Nat) : TileWork s (cutXfers s t) :=
  .trans (.foldl (fun s f => .foldl (fun s k => tileWork_cutPiece s t f k) _ s) _ s) ((tileWork_modTile _ t _).trans (tileWork_wrs _ _))

theorem tileWork_dropQueue (s : State) (t q : Nat) : TileWork s (dropQueue s t q) := tileWork_wrs _ _

theorem tileWork_sendBack (s : State) (t q : Nat) (mk : Nat → Option Nat → Cargo) : TileWork s (sendBack s t q mk) := rfl

theorem tileWork_closeQueues (s : State) (t : Nat) : TileWork s (closeQueues s t) :=
  .foldl (fun s k => .ite (((tileWork_dropQueue s t k).trans (tileWork_modTile _ t _)).trans (tileWork_sendBack _ t k _)) (.refl s)) _ s

/-! ### Grading ends -/

theorem tileWork_writeOther (s : State) (a : Nat) (bs : Bytes) : TileWork s (writeOther s a bs) := by
  unfold writeOther
  rw [writeBytes_eq]
  rfl

theorem tileWork_freeArea (s : State) (x : Job) (d : Bytes) (region off n : Nat) : TileWork s (freeArea s x d region off n) := by
  refine .ite ?_ (.refl s)
  unfold freeSpan
  rw [writeBytes_eq]
  rfl

theorem tileWork_freeLayer (s : State) (x : Job) (d : Bytes) : TileWork s (freeLayer s x d) := by
  refine .ite (.refl s) ?_
  have h := (tileWork_freeArea s x d 0x10 0x18 (4 * gElems d)).trans
    ((tileWork_freeArea _ x d 0x12 0x20 (4 * gElems d)).trans (tileWork_freeArea _ x d 0x14 0x28 (4 * gElems d)))
  exact .ite h (h.trans (tileWork_freeArea _ x d _ _ _))

theorem tileWork_faultLayer (s : State) (x : Job) (y : GrdLayer) : TileWork s (faultLayer s x y) :=
  (((tileWork_writeOther s _ _).trans (tileWork_freeLayer _ x y.desc)).trans (.ite (.refl _) (tileWork_wrs _ _))).trans (tileWork_raise _ _ _)

section
variable {α : Type} {f : Run → α} {r : Nat}

theorem sideKept_wrs (s : State) (l : List (Fld × Nat)) : SideKept f r s (wrs s l) := (tileWork_wrs s l).sideKept

theorem sideKept_grdAbort (s : State) (j : Nat) : SideKept f r s (grdAbort s j) := by
  unfold grdAbort
  split
  · exact .refl s
  split
  · exact .refl s
  next x _ =>
    extract_lets bad s1 s2 notes s3 s4
    have h1 : TileWork s s1 := .foldl (fun s y => tileWork_faultLayer s x y) bad s
    have h2 : TileWork s1 s2 := .foldl (fun s k => .foldl (fun s i => tileWork_writeOther s _ _) _ s) _ s1
    clear_value s2
    have h4 : SideKept f r s2 s4 := .refl s2
    have h : SideKept f r s s4 := (h1.trans h2).sideKept.trans h4
    have h5 : SideKept f r s4 (grdDisarm s4) := sideKept_wrs s4 [(GRD_JOB_en, 0), (GRD_STATUS_open, 0)]
    exact h.trans (.ite (.refl s4) h5)

end

theorem sideKept_gatherTile (s : State) (t q r : Nat) : SideKept Run.retakes r s (gatherTile s t q) := sideKept_modRun s q fun _ => rfl

/-- What an abort does to one tile of a run. -/
theorem sideKept_abortTile (s : State) (t q r : Nat) : SideKept Run.retakes r s (
    let mine := ((tileOf s t).task).map (·.1) == some q
    let s := if mine then gatherTile (stopTile s t) t q else s
    let s := settleCrossing s t
    let s := if mine && seqState s t == 4 then haltTile s t 4 else s
    let s := cutXfers (closeQueues s t) t
    modTile s t fun y => { y with task := none, hints := [] }) := by
  extract_lets mine s1 s2 s3 s4
  have h1 : SideKept Run.retakes r s s1 := .ite ((tileWork_stopTile s t).sideKept.trans (sideKept_gatherTile _ t q r)) (.refl s)
  have h2 : TileWork s1 s2 := tileWork_settleCrossing s1 t
  have h3 : TileWork s2 s3 := .ite (tileWork_haltTile s2 t 4) (.refl s2)
  have h4 : TileWork s3 s4 := (tileWork_closeQueues s3 t).trans (tileWork_cutXfers _ t)
  exact h1.trans (h2.trans (h3.trans (h4.trans (tileWork_modTile s4 t _)))).sideKept

/-- A run that is aborted is aborting, its attempts as before; doubles is as before. -/
theorem abortRun_aborts {s : State} {r : Nat} {x : Run} (hx : Store.get? s.runs r = some x) :
    (abortRun s r).dbl = s.dbl ∧ ∃ y, Store.get? (abortRun s r).runs r = some y ∧ y.phase = .aborting ∧ y.retakes = x.retakes := by
  unfold abortRun
  split
  next h => cases h.symm.trans hx
  next x' h =>
  obtain rfl : x' = x := Option.some.inj (h.symm.trans hx)
  extract_lets ts s1
  obtain ⟨hd, -, hr⟩ : SideKept Run.retakes r s s1 := .foldl (fun s t => sideKept_abortTile s t r r) ts s
  rw [hx] at hr
  obtain ⟨y, hy, hyr⟩ := Option.map_eq_some_iff.1 hr
  clear_value s1
  have hm := get?_modRun_self hy fun x => { x with phase := .aborting, ready := [] }
  have hmd : (modRun s1 r fun x => { x with phase := .aborting, ready := [] }).dbl = s1.dbl := modRun_dbl s1 r _
  generalize (modRun s1 r fun x => { x with phase := .aborting, ready := [] }) = s2 at hm hmd
  obtain ⟨gd, -, gr⟩ : SideKept (fun x => (x.phase, x.retakes)) r s2 (grdAbort (discardJobCarry s2 x'.job) x'.job) :=
    ((answerFrame_discardJobCarry s2 x'.job).sideKept fun _ => rfl).trans (sideKept_grdAbort _ x'.job)
  rw [hm] at gr
  obtain ⟨z, hz, hzp⟩ := Option.map_eq_some_iff.1 gr
  obtain ⟨hp, hret⟩ := Prod.mk.inj hzp
  exact ⟨gd.trans (hmd.trans hd), z, hz, hp, hret.trans hyr⟩

end Sys2Proof.Machine
end

section
namespace Sys2Proof.Machine

-- One proof after another: many at once take more memory, in a text this long, than its compile has.
set_option Elab.async false

/-! ## Results of a doubles run (14_reliability_substitution_doubles.md, R369, R371) -/

section
variable {s : State} {run : RunName} {k i : Nat} {item : Bytes}

/-- What doubles keeps once the partner's item has come. -/
def withTheirs (s : State) (run : RunName) (k i : Nat) (item : Bytes) : DblSt :=
  { s.dbl with theirs := s.dbl.theirs ++ [⟨run, k, i, sliceB item 0 16, []⟩] }

theorem exec_result (hp : paired s = true) (hn : s.dbl.theirs.any (·.is run k i) = false) :
    exec (.result run k i item) s = .next (tryRelease { s with dbl := withTheirs s run k i item } run k i) := by
  simp [exec, execResult, hp, hn, withTheirs]

theorem find_withTheirs (hn : s.dbl.theirs.any (·.is run k i) = false) :
    (withTheirs s run k i item).theirs.find? (·.is run k i) = some ⟨run, k, i, sliceB item 0 16, []⟩ := by
  have h0 : s.dbl.theirs.find? (·.is run k i) = none := by simpa using hn
  rw [withTheirs, List.find?_append, h0]
  simp [DblItem.is]

theorem result_unscored (hp : paired s = true) (hm : s.dbl.mine.find? (·.is run k i) = none)
    (hn : s.dbl.theirs.any (·.is run k i) = false) :
    exec (.result run k i item) s = .next { s with dbl := withTheirs s run k i item } := by
  rw [exec_result hp hn, tryRelease]
  simp only [show (withTheirs s run k i item).mine = s.dbl.mine from rfl, hm]

/-- The partner's item of a result that this module has scored: it marks the run, waits for the SENT, is released or is withheld. -/
theorem result_scored {a : DblItem} (hp : paired s = true) (hn : s.dbl.theirs.any (·.is run k i) = false)
    (hm : s.dbl.mine.find? (·.is run k i) = some a) : Gives (.result run k i item) s fun t =>
      ∃ d, d = withTheirs s run k i item ∧
        (a.item ≠ sliceB item 0 16 → t = { s with dbl := t.dbl } ∧ run ∈ t.dbl.disagreed ∧ t.dbl.theirs = d.theirs) ∧
        (a.item = sliceB item 0 16 → isB s = true → t = { s with dbl := d }) ∧
        (∀ r, a.item = sliceB item 0 16 → isB s = false → run ∉ s.dbl.broken → refOf s run k i = some r → tod s < refDeadline s r →
          t = answer { s with dbl := d } r rpScored a.payload) ∧
        (a.item = sliceB item 0 16 → isB s = false → run ∈ s.dbl.broken → rd t DBL_STATS_withheld = upBy s DBL_STATS_withheld 1) := by
  refine ⟨_, exec_result hp hn, _, rfl, ?_⟩
  have hf := find_withTheirs (item := item) hn
  have hb : ∀ d, isB { s with dbl := d } = isB s := fun _ => rfl
  have hr : ∀ d, refOf { s with dbl := d } run k i = refOf s run k i := fun _ => rfl
  have hd : ∀ d r, refDeadline { s with dbl := d } r = refDeadline s r := fun _ r => by cases r <;> rfl
  have ht : ∀ d, tod { s with dbl := d } = tod s := fun _ => rfl
  unfold tryRelease
  simp only [show (withTheirs s run k i item).mine = s.dbl.mine from rfl, hm, hf, hb, hr, hd, ht,
    show (withTheirs s run k i item).broken = s.dbl.broken from rfl]
  refine ⟨fun h => ?_, fun h hB => ?_, fun r h hB hbr href hdl => ?_, fun h hB hbr => ?_⟩
  · rw [if_pos h]
    refine ⟨rfl, ?_, rfl⟩
    dsimp only
    split
    next hc => simpa using hc
    · exact List.mem_cons_self
  · rw [if_neg (not_not.2 h), if_pos hB]
  · rw [if_neg (not_not.2 h), if_neg (by simp [hB]), if_neg (by simpa using hbr)]
    simp only [href, if_pos hdl]
  · rw [if_neg (not_not.2 h), if_neg (by simp [hB]), if_pos (by simpa using hbr)]
    exact rd_bump_self _ _ _

end

/-! ## SENT (R369) -/

theorem dbl_sents_nil {s : State} (h : s.dbl.sents = []) : { s with dbl := { s.dbl with sents := [] } } = s := by
  rw [← h]

theorem exec_sent {s : State} (hp : paired s = true) (hb : isB s = true) (hs : s.dbl.sents = []) (run : RunName) (k i st : Nat)
    (pay : Bytes) : exec (.sent run k i st pay) s = .next (applySents { s with dbl := { s.dbl with sents := [(run, k, i, st, pay)] } }) := by
  simp [exec, execSent, hp, hb, hs]

theorem sent_waits {s : State} (hp : paired s = true) (hb : isB s = true) (hs : s.dbl.sents = []) {run : RunName} {k i : Nat} (st : Nat)
    (pay : Bytes) (hk : sentKnown s run k i = false) :
    exec (.sent run k i st pay) s = .next { s with dbl := { s.dbl with sents := [(run, k, i, st, pay)] } } := by
  have hk' : sentKnown { s with dbl := { s.dbl with sents := [(run, k, i, st, pay)] } } run k i = false := hk
  rw [exec_sent hp hb hs, applySents]
  simp [List.partition, List.partition.loop, hk']

theorem sent_answers {s : State} (hp : paired s = true) (hb : isB s = true) (hs : s.dbl.sents = []) {run : RunName} {k i : Nat} (st : Nat)
    (pay : Bytes) {r : ReqRef} (hk : sentKnown s run k i = true) (hr : refOf s run k i = some r) :
    exec (.sent run k i st pay) s = .next (answer s r st pay) := by
  have hk' : sentKnown { s with dbl := { s.dbl with sents := [(run, k, i, st, pay)] } } run k i = true := hk
  rw [exec_sent hp hb hs, applySents]
  simp [List.partition, List.partition.loop, hk', dbl_sents_nil hs, hr]

/-! ## Digests (R367, R370, R371) -/

theorem runDigest_waits {s : State} (hp : paired s = true) (hm : s.dbl.myDig = []) (ht : s.dbl.theirDig = []) (run : RunName) (n : Nat)
    (b : RunDigests) : exec (.runDigest run n b) s = .next { s with dbl := { s.dbl with theirDig := [(run, n, b)] } } := by
  simp [exec, execRunDigest, hp, hm, ht, compareDigests]

/-- Doubles with no digests that wait. -/
def noDigests (s : State) : State := { s with dbl := { s.dbl with myDig := [], theirDig := [] } }

theorem exec_runDigest {s : State} {run : RunName} {n : Nat} {a : RunDigests} (hp : paired s = true) (hm : s.dbl.myDig = [(run, n, a)])
    (ht : s.dbl.theirDig = []) (b : RunDigests) : exec (.runDigest run n b) s = .next (judge (noDigests s) run a b) := by
  simp [exec, execRunDigest, hp, hm, ht, compareDigests, noDigests]

theorem setupApart_of_eq {a b : RunDigests} (hp : a.program = b.program) (hs : a.seed = b.seed) (he : a.exam = b.exam) :
    setupApart a b = false := by simp [setupApart, hp, hs, he]

theorem setupApart_of_ne {a b : RunDigests} (h : a.program ≠ b.program ∨ a.seed ≠ b.seed ∨ a.exam ≠ b.exam) :
    setupApart a b = true := by
  obtain h | h | h := h <;> simp [setupApart, h]

theorem abortRun_dbl (s : State) (r : Nat) : (abortRun s r).dbl = s.dbl := by
  rcases hx : Store.get? s.runs r with _ | x
  · simp [abortRun, hx]
  · exact (abortRun_aborts hx).1

theorem endRun_dbl (s : State) (r outcome status detail : Nat) : (endRun s r outcome status detail).dbl = s.dbl := by
  rcases hx : Store.get? s.runs r with _ | x
  · simp [endRun, hx]
  · exact (endRun_ends hx outcome status detail).1

theorem beginRetake_dbl (s : State) (r : Nat) (x : Run) (code : Nat) : (beginRetake s r x code).dbl = s.dbl := by
  unfold beginRetake
  extract_lets stop mark
  split
  · exact modRun_dbl s r _
  · split
    · exact (abortRun_dbl _ r).trans (modRun_dbl s r _)
    · exact modRun_dbl s r _

theorem refuseRetake_dbl (s : State) (r : Nat) (x : Run) (n : RunName) (code : Nat) : (refuseRetake s r x n code).dbl = s.dbl := by
  unfold refuseRetake
  extract_lets s1 detail
  split
  · exact (abortRun_dbl _ r).trans (modRun_dbl s1 r _)
  · exact endRun_dbl s1 r _ _ _

/-- The digests that wait are as before. -/
def DigestsKept (s t : State) : Prop := t.dbl.myDig = s.dbl.myDig ∧ t.dbl.theirDig = s.dbl.theirDig

theorem digestsKept_withhold (s : State) (n : RunName) : DigestsKept s (withhold s n) := ⟨rfl, rfl⟩

theorem digestsKept_splitRun (s : State) (n : RunName) (first : Nat) : DigestsKept s (splitRun s n first) := by
  unfold splitRun
  extract_lets s1 s2
  have h2 : s2.dbl = s1.dbl := by
    unfold s2
    split
    · rfl
    · exact wrs_dbl s1 _
  have h1 : DigestsKept s s1 := ⟨rfl, rfl⟩
  exact ⟨(congrArg DblSt.myDig h2).trans h1.1, (congrArg DblSt.theirDig h2).trans h1.2⟩

theorem digestsKept_disagree (s : State) (n : RunName) (first : Nat) : DigestsKept s (disagree s n first) := by
  unfold disagree
  extract_lets s1
  have h1 : DigestsKept s s1 := ⟨rfl, rfl⟩
  clear_value s1
  split
  · exact h1
  next r x _ =>
    split
    · obtain ⟨hm, ht⟩ := digestsKept_splitRun s1 n first
      exact ⟨hm.trans h1.1, ht.trans h1.2⟩
    · split
      · have hd : (beginRetake (sendRetake s1 n (x.retakes + 1) disagreement) r x disagreement).dbl = s1.dbl := beginRetake_dbl _ r x _
        exact ⟨(congrArg DblSt.myDig hd).trans h1.1, (congrArg DblSt.theirDig hd).trans h1.2⟩
      · have hd := refuseRetake_dbl s1 r x n disagreement
        exact ⟨(congrArg DblSt.myDig hd).trans h1.1, (congrArg DblSt.theirDig hd).trans h1.2⟩

theorem digestsKept_judge (s : State) (n : RunName) (a b : RunDigests) : DigestsKept s (judge s n a b) := by
  unfold judge
  split
  · exact digestsKept_withhold s n
  · split
    · exact ⟨rfl, rfl⟩
    · exact digestsKept_disagree s n _

/-- Digests that agree count the run (R370). -/
theorem judge_agreed (s : State) {n : RunName} (hd : n ∉ s.dbl.disagreed) (hb : n ∉ s.dbl.broken) (a : RunDigests) :
    judge s n a a = bump s DBL_STATS_agreed 1 := by
  have hf : firstApart a a = none := by simp [firstApart]
  rw [judge, if_neg (by simp [setupApart]), if_pos (by simp [hf, hd, hb])]

theorem or_mod_or (x a b w : Nat) : ((x ||| a) % 2 ^ w ||| b) % 2 ^ w = (x ||| a ||| b) % 2 ^ w := by simp [Nat.or_mod_two_pow]

/-- A set-up that differs withholds the results of the run (R367). -/
theorem judge_mismatch (s : State) (n : RunName) {a b : RunDigests}
    (h : a.program ≠ b.program ∨ a.seed ≠ b.seed ∨ a.exam ≠ b.exam) :
    n ∈ (judge s n a b).dbl.broken ∧ (judge s n a b).runs = s.runs ∧ (judge s n a b).mem = s.mem ∧
      rd (judge s n a b) DBL_CAUSE_cause = (rd s DBL_CAUSE_cause ||| 2 ^ 6 ||| 2 ^ 4) % 2 ^ DBL_CAUSE_cause.w ∧
      FieldsKept s (judge s n a b) [DBL_CAUSE_cause, DBL_STATS_withheld] := by
  rw [judge, if_pos (setupApart_of_ne h)]
  have hw : rd (withhold s n) DBL_CAUSE_cause = rd s DBL_CAUSE_cause := rd_bump_ne _ _ (by decide)
  refine ⟨List.mem_cons_self, rfl, rfl, ?_, fun g hg => ?_⟩
  · rw [rd_raise_self, rd_raise_self, hw, or_mod_or]
  · rw [rd_raise_ne _ _ (hg _ (by simp)), rd_raise_ne _ _ (hg _ (by simp))]
    exact rd_bump_ne _ _ (hg _ (by simp))

/-- The record of a split, kept where one is held. -/
def splitNoted (s : State) (n : RunName) (first : Nat) : State :=
  if on s DBL_SPLIT_INFO_valid then s else
    wrs s [(DBL_SPLIT_INFO_run, n.num), (DBL_SPLIT_INFO_job_id, n.job), (DBL_SPLIT_INFO_first, first), (DBL_SPLIT_INFO_valid, 1)]

theorem splitRun_eq (s : State) (n : RunName) (first : Nat) :
    splitRun s n first = wr (splitNoted (splitEvent (withhold s n)) n first) DBL_STATUS_state 4 := rfl

theorem splitNoted_frame (s : State) (n : RunName) (first : Nat) : RegFrame s (splitNoted s n first)
    [DBL_SPLIT_INFO_run, DBL_SPLIT_INFO_job_id, DBL_SPLIT_INFO_first, DBL_SPLIT_INFO_valid] := by
  unfold splitNoted
  split
  · exact .refl s _
  · exact regFrame_wrs s _

theorem splitNoted_shows {s : State} (h : on s DBL_SPLIT_INFO_valid = false) (n : RunName) (first : Nat) :
    rd (splitNoted s n first) DBL_SPLIT_INFO_first = first % 2 ^ DBL_SPLIT_INFO_first.w ∧
      rd (splitNoted s n first) DBL_SPLIT_INFO_valid = 1 ∧
      rd (splitNoted s n first) DBL_SPLIT_INFO_job_id = n.job % 2 ^ DBL_SPLIT_INFO_job_id.w := by
  rw [splitNoted, if_neg (by simp [h])]
  have hv := fun p hp => rd_wrs_mem (p := p) (l := [(DBL_SPLIT_INFO_run, n.num), (DBL_SPLIT_INFO_job_id, n.job),
    (DBL_SPLIT_INFO_first, first), (DBL_SPLIT_INFO_valid, 1)]) (by simp only [List.map_cons, List.map_nil]; decide) s hp
  exact ⟨hv (DBL_SPLIT_INFO_first, first) (by simp), hv (DBL_SPLIT_INFO_valid, 1) (by simp), hv (DBL_SPLIT_INFO_job_id, n.job) (by simp)⟩

/-- What a second disagreement in one run does (R371). -/
theorem splitRun_splits (s : State) (n : RunName) (first : Nat) :
    rd (splitRun s n first) DBL_STATUS_state = 4 ∧ n ∈ (splitRun s n first).dbl.broken ∧ (splitRun s n first).runs = s.runs ∧
      (splitRun s n first).mem = s.mem ∧ rd (splitRun s n first) DBL_CAUSE_cause = withBit s DBL_CAUSE_cause 5 ∧
      rd (splitRun s n first) DBL_STATS_splits = upBy s DBL_STATS_splits 1 ∧
      (on s DBL_SPLIT_INFO_valid = false → rd (splitRun s n first) DBL_SPLIT_INFO_first = first % 2 ^ DBL_SPLIT_INFO_first.w ∧
        rd (splitRun s n first) DBL_SPLIT_INFO_valid = 1 ∧
        rd (splitRun s n first) DBL_SPLIT_INFO_job_id = n.job % 2 ^ DBL_SPLIT_INFO_job_id.w) := by
  rw [splitRun_eq]
  have hw := ((Writes.refl { s with dbl := { s.dbl with broken := n :: s.dbl.broken } }).then_bump DBL_STATS_withheld
    (s.dbl.mine.filter fun x => x.run == n && (refOf s n x.kind x.idx).isSome).length).then_bump DBL_STATS_splits 1
    |>.then_raise DBL_CAUSE_cause 5
  have he : splitEvent (withhold s n) = raise (bump (bump { s with dbl := { s.dbl with broken := n :: s.dbl.broken } } DBL_STATS_withheld
    (s.dbl.mine.filter fun x => x.run == n && (refOf s n x.kind x.idx).isSome).length) DBL_STATS_splits 1) DBL_CAUSE_cause 5 := rfl
  rw [← he] at hw
  generalize splitEvent (withhold s n) = u at hw
  have hf := splitNoted_frame u n first
  have hr := hw.rest
  have hn : splitNoted u n first = { u with regs := (splitNoted u n first).regs } := hf.eq_regs
  refine ⟨rd_wr_self _ _ _, ?_, ?_, ?_, ?_, ?_, fun hv => ?_⟩
  · rw [wr_dbl, hn, hr]
    exact List.mem_cons_self
  · rw [wr_runs, hn, hr]
  · rw [wr_mem, hn, hr]
  · exact (rd_wr_ne _ _ (by decide)).trans ((hf.kept _ (by decide)).trans (hw.value 2))
  · exact (rd_wr_ne _ _ (by decide)).trans ((hf.kept _ (by decide)).trans (hw.value 1))
  · have hu : on u DBL_SPLIT_INFO_valid = false := by
      have hk : rd u DBL_SPLIT_INFO_valid = rd s DBL_SPLIT_INFO_valid := hw.keeps
      rw [on, hk]
      exact hv
    obtain ⟨h1, h2, h3⟩ := splitNoted_shows hu n first
    exact ⟨(rd_wr_ne _ _ (by decide)).trans h1, (rd_wr_ne _ _ (by decide)).trans h2, (rd_wr_ne _ _ (by decide)).trans h3⟩

/-- Runs whose set-up agrees and that part in a field are judged to disagree (R370, R371). -/
theorem judge_disagrees (s : State) (n : RunName) {a b : RunDigests} {first : Nat} (hs : setupApart a b = false)
    (hf : firstApart a b = some first) : judge s n a b = disagree s n first := by
  rw [judge, if_neg (by simp [hs]), if_neg (by simp [hf]), hf]
  rfl

theorem runNamed_raise (s : State) (n : RunName) (f : Fld) (b : Nat) : runNamed (raise s f b) n = runNamed s n := rfl

/-- A second disagreement splits (R371). -/
theorem disagree_splits {s : State} {n : RunName} {r : Nat} {x : Run} (hr : runNamed s n = some (r, x)) (hx : 0 < x.disagreed)
    (first : Nat) : disagree s n first = splitRun (raise s DBL_CAUSE_cause 4) n first := by
  unfold disagree
  simp only [runNamed_raise, hr]
  rw [if_pos hx]

/-- A first disagreement of a run that has not kicked off counts an attempt, and the partner is told (R370). -/
theorem disagree_retakes {s : State} {n : RunName} {r : Nat} {x : Run} (hr : runNamed s n = some (r, x)) (hd : x.disagreed = 0)
    (hp : x.phase = .pending) (hm : mayRetake x (partnerDetail disagreement) = true) (first : Nat) :
    disagree s n first = modRun (sendRetake (raise s DBL_CAUSE_cause 4) n (x.retakes + 1) disagreement) r
      fun x => { x with retakes := x.retakes + 1 } := by
  have hc : canRetake (raise s DBL_CAUSE_cause 4) r x (partnerDetail disagreement) = true := by simp [canRetake, hm, hp]
  unfold disagree
  simp only [runNamed_raise, hr]
  rw [if_neg (by simp [hd]), if_pos hc, beginRetake]
  exact if_pos hp

/-- The digests of both modules for a run judged: counted, withheld, split, or retaken (R367, R370, R371). -/
theorem runDigest_judges {s : State} {run : RunName} {n : Nat} {a : RunDigests} (b : RunDigests) (hp : paired s = true)
    (hm : s.dbl.myDig = [(run, n, a)]) (ht : s.dbl.theirDig = []) : Gives (.runDigest run n b) s fun t =>
      t.dbl.myDig = [] ∧ t.dbl.theirDig = [] ∧
      (a = b → run ∉ s.dbl.disagreed → run ∉ s.dbl.broken → t.dbl = { s.dbl with myDig := [] } ∧
        Writes s { t with dbl := s.dbl } [(DBL_STATS_agreed, upBy s DBL_STATS_agreed 1)]) ∧
      (a.program ≠ b.program ∨ a.seed ≠ b.seed ∨ a.exam ≠ b.exam → run ∈ t.dbl.broken ∧ t.runs = s.runs ∧ t.mem = s.mem ∧
        rd t DBL_CAUSE_cause = (rd s DBL_CAUSE_cause ||| 2 ^ 6 ||| 2 ^ 4) % 2 ^ DBL_CAUSE_cause.w ∧
        FieldsKept s t [DBL_CAUSE_cause, DBL_STATS_withheld]) ∧
      (∀ r x, a.program = b.program → a.weights = b.weights → a.seed = b.seed → a.exam = b.exam → a.inputs ≠ b.inputs →
        runNamed s run = some (r, x) → 0 < x.disagreed → rd t DBL_STATUS_state = 4 ∧ run ∈ t.dbl.broken ∧ t.runs = s.runs ∧
        t.mem = s.mem ∧ rd t DBL_CAUSE_cause = (rd s DBL_CAUSE_cause ||| 2 ^ 4 ||| 2 ^ 5) % 2 ^ DBL_CAUSE_cause.w ∧
        rd t DBL_STATS_splits = upBy s DBL_STATS_splits 1 ∧
        (on s DBL_SPLIT_INFO_valid = false → rd t DBL_SPLIT_INFO_first = 3 ∧ rd t DBL_SPLIT_INFO_valid = 1 ∧
          rd t DBL_SPLIT_INFO_job_id = run.job % 2 ^ DBL_SPLIT_INFO_job_id.w)) ∧
      (∀ r x, a.program = b.program → a.weights ≠ b.weights → a.seed = b.seed → a.exam = b.exam → runNamed s run = some (r, x) →
        Store.get? s.runs r = some x → x.disagreed = 0 → x.phase = .pending → mayRetake x (partnerDetail disagreement) = true →
        Store.get? t.runs r = some { x with retakes := x.retakes + 1 } ∧ flag t DBL_CAUSE_cause 4 = true ∧ t.mem = s.mem ∧
        .pairMsg 7 (runBytes run ++ toBE 1 (x.retakes + 1) ++ toBE 1 255) ∈ t.out) := by
  refine ⟨_, exec_runDigest hp hm ht b, (digestsKept_judge (noDigests s) run a b).1, (digestsKept_judge (noDigests s) run a b).2,
    ?_, ?_, ?_, ?_⟩
  · rintro rfl hd hb
    rw [judge_agreed (noDigests s) hd hb]
    have hdbl : { s.dbl with myDig := [], theirDig := [] } = { s.dbl with myDig := [] } := by rw [← ht]
    exact ⟨hdbl, (Writes.refl s).then_bump DBL_STATS_agreed 1⟩
  · exact judge_mismatch (noDigests s) run
  · intro r x hpr hw hs he hi hr hx
    have hf : firstApart a b = some 3 := by simp [firstApart, hpr, hw, hs, he, hi]
    rw [judge_disagrees _ _ (setupApart_of_eq hpr hs he) hf, disagree_splits (s := noDigests s) hr hx]
    obtain ⟨h1, h2, h3, h4, h5, h6, h7⟩ := splitRun_splits (raise (noDigests s) DBL_CAUSE_cause 4) run 3
    refine ⟨h1, h2, h3, h4, ?_, ?_, fun hv => h7 ?_⟩
    · rw [h5, withBit, rd_raise_self, or_mod_or]
      rfl
    · rw [h6, upBy, rd_raise_ne _ _ (by decide)]
      rfl
    · rw [on, rd_raise_ne _ _ (by decide)]
      exact hv
  · intro r x hpr hw hs he hr hx hd hph hmr
    have hf : firstApart a b = some 1 := by simp [firstApart, hw]
    rw [judge_disagrees _ _ (setupApart_of_eq hpr hs he) hf, disagree_retakes (s := noDigests s) hr hd hph hmr]
    refine ⟨get?_modRun_self (by exact hx) _, ?_, modRun_mem _ r _, ?_⟩
    · rw [flag, rd_modRun]
      exact flag_raise_self (s := noDigests s) (f := DBL_CAUSE_cause) (b := 4) (by decide)
    · rw [modRun_out]
      exact List.mem_cons_self

/-! ## Joint retakes (R354, R370) -/

section
variable {s : State} {run : RunName} {n c r : Nat} {x : Run}

theorem exec_retake (hp : paired s = true) (hn : runNamed s run = some (r, x)) (ha : n ≤ 2) (h1 : c ≠ 0x0A) (h2 : c ≠ 0x0E)
    (hr : x.retakes < n) (hw : x.phase ≠ .retakeWait) (hab : x.phase ≠ .aborting) : exec (.retake run n c) s = .next
      (if canRetake s r x (partnerDetail c) then beginRetake s r x c else refuseRetake s r x run c) := by
  simp only [exec, execRetake, hn]
  rw [if_neg (by simp [hp]), if_neg (by omega), if_neg (by simp [hw, hab]; omega)]

theorem retake_counts (hp : paired s = true) (hn : runNamed s run = some (r, x)) (hx : Store.get? s.runs r = some x) (ha : n ≤ 2)
    (h1 : c ≠ 0x0A) (h2 : c ≠ 0x0E) (hr : x.retakes < n) (hph : x.phase = .pending) (hm : mayRetake x (partnerDetail c) = true) :
    exec (.retake run n c) s = .next (setRun s r { x with retakes := x.retakes + 1 }) := by
  rw [exec_retake hp hn ha h1 h2 hr (by simp [hph]) (by simp [hph]), if_pos (by simp [canRetake, hm, hph]), beginRetake]
  simp only [if_pos hph, modRun, hx]

theorem retake_waits (hp : paired s = true) (hn : runNamed s run = some (r, x)) (hx : Store.get? s.runs r = some x) (ha : n ≤ 2)
    (h1 : c ≠ 0x0A) (h2 : c ≠ 0x0E) (hr : x.retakes < n) (hph : x.phase = .ended) (hc : canRetake s r x (partnerDetail c) = true) :
    Gives (.retake run n c) s fun t => t = { s with runs := t.runs } ∧
      ∃ y, Store.get? t.runs r = some y ∧ y.phase = .retakeWait ∧ y.outcome = 2 ∧
        y.stop = some (.fault (partnerDetail c) (windowNow s)) := by
  refine ⟨_, exec_retake hp hn ha h1 h2 hr (by simp [hph]) (by simp [hph]), ?_⟩
  rw [if_pos hc, beginRetake]
  rw [if_neg (by simp [hph]), if_neg (by simp [Run.runs, hph])]
  exact ⟨modRun_eq s r _, _, get?_modRun_self hx _, rfl, rfl, rfl⟩

theorem retake_aborts (hp : paired s = true) (hn : runNamed s run = some (r, x)) (hx : Store.get? s.runs r = some x) (ha : n ≤ 2)
    (h1 : c ≠ 0x0A) (h2 : c ≠ 0x0E) (hr : x.retakes < n) (hph : x.phase = .running) (hm : mayRetake x (partnerDetail c) = true) :
    Gives (.retake run n c) s fun t => ∃ y, Store.get? t.runs r = some y ∧ y.phase = .aborting ∧ y.retakes = x.retakes := by
  refine ⟨_, exec_retake hp hn ha h1 h2 hr (by simp [hph]) (by simp [hph]), ?_⟩
  rw [if_pos (by simp [canRetake, hm, hph]), beginRetake]
  rw [if_neg (by simp [hph]), if_pos (by simp [Run.runs, hph])]
  exact (abortRun_aborts (get?_modRun_self hx _)).2

theorem retake_refused (hp : paired s = true) (hn : runNamed s run = some (r, x)) (hx : Store.get? s.runs r = some x) (ha : n ≤ 2)
    (h1 : c ≠ 0x0A) (h2 : c ≠ 0x0E) (hr : x.retakes < n) (hph : x.phase = .ended) (hc : canRetake s r x (partnerDetail c) = false) :
    Gives (.retake run n c) s fun t => (∃ y, Store.get? t.runs r = some y ∧ y.phase = .ended ∧ y.outcome = 3) ∧
      .pairMsg 7 (runBytes run ++ toBE 1 3 ++ toBE 1 c) ∈ t.out := by
  refine ⟨_, exec_retake hp hn ha h1 h2 hr (by simp [hph]) (by simp [hph]), ?_⟩
  rw [if_neg (by simp [hc]), refuseRetake]
  rw [if_neg (by simp [Run.runs, hph])]
  have hx' : Store.get? (sendRetake s run 3 c).runs r = some x := hx
  obtain ⟨-, ho, he⟩ := endRun_ends hx' 3 stFault (partnerDetail c)
  have hsent : Out.pairMsg 7 (runBytes run ++ toBE 1 3 ++ toBE 1 c) ∈ (sendRetake s run 3 c).out := List.mem_cons_self
  generalize endRun (sendRetake s run 3 c) r 3 stFault (partnerDetail c) = u at ho he
  obtain ⟨y, hy, hs⟩ := Option.map_eq_some_iff.1 he
  obtain ⟨hyp, hyo⟩ := Prod.mk.inj hs
  exact ⟨⟨y, hy, hyp, hyo⟩, ho _ hsent⟩

/-- Attempt 3 of the partner bars a running run, whose results are no longer held (R370). -/
theorem retake_bars (c : Nat) (hp : paired s = true) (hn : runNamed s run = some (r, x)) (hx : Store.get? s.runs r = some x)
    (hph : x.phase = .running) (hm : s.dbl.mine = []) : Gives (.retake run 3 c) s fun t =>
      Store.get? t.runs r = some { x with barred := true } ∧ run ∈ t.dbl.solo ∧ Writes s { t with dbl := s.dbl, runs := s.runs }
        [(DBL_STATS_splits, upBy s DBL_STATS_splits 1), (DBL_CAUSE_cause, withBit s DBL_CAUSE_cause 5)] := by
  have hex : exec (.retake run 3 c) s = .next (releaseSolo (setRun s r { x with barred := true }) run) := by
    simp only [exec, execRetake, hn, partnerBars, modRun, hx]
    rw [if_neg (by simp [hp]), if_pos (by omega), if_neg (by simp [hph])]
  have hrel : releaseSolo (setRun s r { x with barred := true }) run = splitEvent
      { setRun s r { x with barred := true } with dbl := { s.dbl with solo := run :: s.dbl.solo } } := by
    simp [releaseSolo, hm]
  rw [hrel] at hex
  exact ⟨_, hex, Store.get?_set_self _ _ _, List.mem_cons_self,
    ((Writes.refl s).then_bump DBL_STATS_splits 1).then_raise DBL_CAUSE_cause 5⟩

end

end Sys2Proof.Machine
end

section
namespace Sys2Proof.Machine

-- One proof after another: many at once take more memory, in a text this long, than its compile has.
set_option Elab.async false

/-! ## The seating of module B (14_reliability_substitution_doubles.md, R368; 11_network_and_ingest.md, R293, R294) -/

theorem TilesNoted.of_tiles {s t : State} (h : t.tiles = s.tiles) : TilesNoted s t := fun u => ⟨_, tileOf_congr u h, rfl⟩

theorem TilesNoted.trans {a b c : State} (h : TilesNoted a b) (g : TilesNoted b c) : TilesNoted a c := by
  intro u
  obtain ⟨l, hb, hl⟩ := h u
  obtain ⟨m, hc, hm⟩ := g u
  refine ⟨m, ?_, ?_⟩
  · rw [hc, hb]
  · rw [hm, hb]
    exact hl

theorem tilesNoted_noteOther (s : State) (a n : Nat) : TilesNoted s (noteOther s a n) := by
  intro u
  refine ⟨_, tileOf_noteOther s a n u, ?_⟩
  have h := Store.get?_map s.tiles (fun p => if p.2.xfers.isEmpty then p else
      (p.1, { p.2 with xfers := p.2.xfers.map fun f => { f with foreign := (a, n) :: f.foreign } }))
    (fun p => by split <;> rfl) u
  have he : tileOf (noteOther s a n) u = (Store.get? (noteOther s a n).tiles u).getD Tile.init := rfl
  rw [he, noteOther, h, tileOf]
  cases Store.get? s.tiles u with
  | none => rfl
  | some x =>
    simp only [Option.map_some, Option.getD_some]
    split
    · rfl
    · simp [Function.comp_def]

/-- The registers that a seating writes. -/
def seatingFields : List Fld := [NET_INGEST_STATUS_candidates, NET_INGEST_STATUS_seated_last, NET_INGEST_STATUS_deferred_last,
  NET_INGEST_MISC_deferred]

/-- What a seating leaves alone: doubles, runs, images, and registers but its own; tiles note what has been written. -/
def SeatStep (s t : State) : Prop :=
  t.dbl = s.dbl ∧ t.runs = s.runs ∧ t.jobs = s.jobs ∧ TilesNoted s t ∧ FieldsKept s t seatingFields

theorem SeatStep.refl (s : State) : SeatStep s s := ⟨rfl, rfl, rfl, .of_tiles rfl, fun _ _ => rfl⟩

theorem SeatStep.trans {a b c : State} (h : SeatStep a b) (g : SeatStep b c) : SeatStep a c := by
  obtain ⟨hd, hr, hj, ht, hf⟩ := h
  obtain ⟨gd, gr, gj, gt, gf⟩ := g
  exact ⟨gd.trans hd, gr.trans hr, gj.trans hj, ht.trans gt, hf.trans gf⟩

theorem SeatStep.ite {s a b : State} {c : Prop} [Decidable c] (ha : SeatStep s a) (hb : SeatStep s b) : SeatStep s (if c then a else b) := by
  split
  · exact ha
  · exact hb

theorem SeatStep.foldl {β : Type} {g : State → β → State} (hg : ∀ s a, SeatStep s (g s a)) (l : List β) (s : State) :
    SeatStep s (l.foldl g s) := by
  induction l generalizing s with
  | nil => exact .refl s
  | cons a l ih => exact (hg s a).trans (ih (g s a))

theorem seatStep_wr (s : State) {f : Fld} (hf : f ∈ seatingFields) (v : Nat) : SeatStep s (wr s f v) :=
  ⟨rfl, rfl, rfl, .of_tiles rfl, (fieldsKept_wr s f v).mono (by simpa using hf)⟩

theorem seatStep_syncCands (s : State) : SeatStep s (syncCands s) := seatStep_wr s (by simp [seatingFields]) _

theorem seatStep_cands (s : State) (l : List Request) : SeatStep s { s with cands := l } :=
  ⟨rfl, rfl, rfl, .of_tiles rfl, fun _ _ => rfl⟩

theorem seatStep_copies (s : State) (l : List Copy) : SeatStep s { s with copies := l } :=
  ⟨rfl, rfl, rfl, .of_tiles rfl, fun _ _ => rfl⟩

theorem seatStep_zeroSpan (s : State) (a n : Nat) : SeatStep s (zeroSpan s a n) := ⟨rfl, rfl, rfl, .of_tiles rfl, fun _ _ => rfl⟩

theorem seatStep_modBinding (s : State) (b : Nat) (f : Period → Period) : SeatStep s (modBinding s b f) :=
  ⟨rfl, rfl, rfl, .of_tiles rfl, fun _ _ => rfl⟩

theorem seatStep_emitOut (s : State) (o : Out) : SeatStep s (emitOut s o) := ⟨rfl, rfl, rfl, .of_tiles rfl, fun _ _ => rfl⟩

theorem seatStep_writeOther (s : State) (a : Nat) (b : Bytes) : SeatStep s (writeOther s a b) := by
  have h : ∀ t : State, SeatStep t (noteOther t a b.length) := fun t => ⟨rfl, rfl, rfl, tilesNoted_noteOther t _ _, fun _ _ => rfl⟩
  refine SeatStep.trans ?_ (h _)
  rw [writeBytes_eq]
  exact ⟨rfl, rfl, rfl, .of_tiles rfl, fun _ _ => rfl⟩

theorem writeOther_cands (s : State) (a : Nat) (b : Bytes) : (writeOther s a b).cands = s.cands := by
  unfold writeOther
  rw [writeBytes_eq]
  rfl

theorem modBinding_cands (s : State) (b : Nat) (f : Period → Period) : (modBinding s b f).cands = s.cands := rfl

theorem seatStep_writeCopy (s : State) (p : Period) (n close d : Nat) (placed : List Request) :
    SeatStep s (writeCopy s p n close d placed) := by
  unfold writeCopy
  split
  · exact .refl s
  next j _ =>
    split
    · exact .refl s
    next f _ =>
      extract_lets base s1 s2 seats s3 s4 old s5 s6
      have h2 : SeatStep s s2 := (seatStep_zeroSpan s _ _).trans (seatStep_writeOther s1 _ _)
      have h3 : SeatStep s2 s3 := .foldl (fun s x => seatStep_writeOther s _ _) _ s2
      have h4 : SeatStep s3 s4 := seatStep_writeOther s3 _ _
      have h6 : SeatStep s4 s6 := (seatStep_copies s4 _).trans (seatStep_modBinding s5 _ _)
      exact h2.trans (h3.trans (h4.trans (h6.trans ((seatStep_wr s6 (by simp [seatingFields]) _).trans
        (seatStep_wr _ (by simp [seatingFields]) _)))))

/-- The copy written joins those that are kept; the candidates stand, and the register of the seating tells how many were placed
(R294). -/
theorem writeCopy_builds {s : State} {p : Period} {j : Job} {f : Form} (hj : Store.get? s.jobs p.job = some j) (hf : j.form = some f)
    (n close d : Nat) (placed : List Request) :
    (⟨p.subm, p.part, n, close, placed.map Seat.fresh, false, false⟩ : Copy) ∈ (writeCopy s p n close d placed).copies ∧
      (writeCopy s p n close d placed).cands = s.cands ∧
      rd (writeCopy s p n close d placed) NET_INGEST_STATUS_seated_last = placed.length % 2 ^ NET_INGEST_STATUS_seated_last.w := by
  unfold writeCopy
  split
  next h => cases h.symm.trans hj
  next j' h =>
  obtain rfl : j' = j := Option.some.inj (h.symm.trans hj)
  split
  next h' => cases h'.symm.trans hf
  next f' h' =>
  extract_lets base s1 s2 seats s3 s4 old s5 s6
  have h2 : s2.cands = s.cands := writeOther_cands s1 _ _
  clear_value s2
  have h3 : s3.cands = s2.cands := foldl_keeps State.cands (fun s x => writeOther_cands s _ _) _ s2
  clear_value s3
  have h4 : s4.cands = s3.cands := writeOther_cands s3 _ _
  clear_value s4
  have hc : s6.copies = old ++ [⟨p.subm, p.part, n, close, seats, false, false⟩] := rfl
  have h6 : s6.cands = s4.cands := modBinding_cands s5 _ _
  clear_value s6
  refine ⟨?_, ?_, ?_⟩
  · rw [wrs_copies, hc]
    exact List.mem_append_right _ List.mem_cons_self
  · rw [wrs_cands]
    exact h6.trans (h4.trans (h3.trans h2))
  · refine rd_wrs_mem (p := (NET_INGEST_STATUS_seated_last, placed.length)) ?_ s6 (by simp)
    simp only [List.map_cons, List.map_nil]
    decide

/-- With no skipped copy of a binding, no request of it returns to the candidates. -/
theorem returnSkipped_none {s : State} {b : Nat} (h : ∀ c ∈ s.copies, c.bind = b → c.skipped = false) : returnSkipped s b = s := by
  have hback : (s.copies.filter fun c => c.bind == b && c.skipped) = [] := by
    refine List.filter_eq_nil_iff.2 fun c hc => ?_
    by_cases hb : c.bind = b <;> simp [hb, h c hc]
  have hmap : (s.copies.map fun c =>
      if c.bind = b ∧ c.skipped then { c with seats := c.seats.map fun x => if x.waits then { x with gone := true } else x } else c) =
      s.copies := by
    refine (List.map_congr_left fun c hc => if_neg ?_).trans (List.map_id _)
    rintro ⟨hb, hs⟩
    simp [h c hc hb] at hs
  unfold returnSkipped
  simp only [hback, hmap, List.flatMap_nil, List.foldl_nil]

theorem seatStep_returnSkipped (s : State) (b : Nat) : SeatStep s (returnSkipped s b) :=
  (seatStep_copies s _).trans (.foldl (fun s _ => (seatStep_cands s _).trans (seatStep_syncCands _)) _ _)

theorem seatStep_bumpDeferred (s : State) (d : Nat) : SeatStep s (bump s NET_INGEST_MISC_deferred d) := seatStep_wr s (by simp [seatingFields]) _

theorem seatStep_seatNow (s : State) (p : Period) (n : Nat) : SeatStep s (seatNow s p n) := by
  unfold seatNow
  extract_lets close s1 carried mine
  have h1 : SeatStep s s1 := seatStep_returnSkipped s p.subm
  clear_value s1
  split
  next placed kept d _ =>
    have h2 : SeatStep s1 (bump (writeCopy (syncCands { s1 with cands :=
        ((s1.cands.filter fun r => r.bind != p.subm).foldl insertReq kept) }) p n close d placed) NET_INGEST_MISC_deferred d) :=
      ((((seatStep_cands s1 _).trans (seatStep_syncCands _)).trans (seatStep_writeCopy _ p n close d placed)).trans (seatStep_bumpDeferred _ d))
    exact h1.trans (h2.trans (.ite (seatStep_emitOut _ _) (.refl _)))

/-- The boundary of a run that waits for its copy. -/
theorem get?_wakeRun (s : State) (b n r : Nat) : Store.get? (wakeRun s b n).runs r = (Store.get? s.runs r).map fun x =>
    if x.subm = b ∧ x.kind = .period n ∧ x.phase = .pending ∧ x.kickWin = none then { x with kickWin := some (actWindow s) } else x :=
  Store.get?_map s.runs (fun p => (p.1, if p.2.subm = b ∧ p.2.kind = .period n ∧ p.2.phase = .pending ∧ p.2.kickWin = none then
      { p.2 with kickWin := some (actWindow s) } else p.2)) (fun _ => rfl) r

theorem SeatStep.actWindow {s t : State} (h : SeatStep s t) : actWindow t = actWindow s := by
  obtain ⟨-, -, -, -, hf⟩ := h
  have hw : rd t TIM_WINDOW_window = rd s TIM_WINDOW_window := hf _ (by decide)
  simp [Machine.actWindow, windowNow, hw]

/-! ### The copy built -/

/-- Whether there is a REQ for every seat that SEATING names. -/
def sourced (s : State) (p : Period) (l : List SeatRef) : Bool := l.zipIdx.all fun x => (seatSource s p x.2 x.1).isSome

theorem sourced_iff (s : State) (p : Period) (l : List SeatRef) : sourced s p l = true ↔
    ∀ i x, l[i]? = some x → (namedCand s p.subm x).isSome = true ∨ (Store.get? s.dbl.fills i).isSome = true := by
  have hs : ∀ i x, (seatSource s p i x).isSome = ((namedCand s p.subm x).isSome || (Store.get? s.dbl.fills i).isSome) := fun i x => by
    unfold seatSource
    split
    next h => simp [h]
    next h h' => simp [h, h']
    next h h' => simp [h, h']
  simp only [sourced, List.all_eq_true, Prod.forall, hs, Bool.or_eq_true, List.mem_zipIdx_iff_getElem?]
  exact forall_comm

/-- The requests that the seats of a SEATING are built from. -/
def namedSeats (s : State) (f : Form) (p : Period) (q : Nat) (l : List SeatRef) : List Request := l.zipIdx.map fun x =>
  namedRequest f p q x.1 ((seatSource s p x.2 x.1).getD (0, [])).1 ((seatSource s p x.2 x.1).getD (0, [])).2

/-- The candidates that no seat of a SEATING names. -/
def unnamed (s : State) (p : Period) (l : List SeatRef) : List Request := s.cands.filter fun r => !(r.bind == p.subm && l.any fun x =>
  r.ip == x.ip.toNat && r.udp == x.udp.toNat && r.seqn == x.seq.toNat)

/-- The state in which module B writes the copy it builds. -/
def seatsTaken (s : State) (p : Period) (l : List SeatRef) : State :=
  syncCands { s with cands := unnamed s p l, dbl := { s.dbl with seatWait := none, fills := [] } }

theorem applySents_none {s : State} (h : s.dbl.sents = []) : applySents s = s := by
  have hd : { s with dbl := { s.dbl with sents := [] } } = s := dbl_sents_nil h
  simp [applySents, h, hd, List.partition, List.partition.loop]

section
variable {s : State} {q n : Nat} {l : List SeatRef} {p : Period} {j : Job} {f : Form}

theorem buildSeats_eq (hp : Store.get? s.periods q = some p) (hj : Store.get? s.jobs p.job = some j) (hf : j.form = some f)
    (hs : ∀ c ∈ s.copies, c.bind = p.subm → c.skipped = false) : ∃ close d, buildSeats s q n l =
      if sourced s p l then
        applySents (wakeRun (bump (writeCopy (seatsTaken s p l) p n close d (namedSeats s f p q l)) NET_INGEST_MISC_deferred d) p.subm n)
      else { s with dbl := { s.dbl with seatWait := some (q, n, l) } } := by
  unfold buildSeats
  simp only [hp, hj, hf, Option.bind_some, returnSkipped_none hs]
  exact ⟨_, _, rfl⟩

/-- Where a REQ is held for every seat, the copy is built and the run of the period wakes. -/
theorem buildSeats_builds (hp : Store.get? s.periods q = some p) (hj : Store.get? s.jobs p.job = some j) (hf : j.form = some f)
    (hs : ∀ c ∈ s.copies, c.bind = p.subm → c.skipped = false) (hn : s.dbl.sents = []) (ha : sourced s p l = true) :
    SeatsBuilt s (buildSeats s q n l) p n l := by
  obtain ⟨close, d, he⟩ := buildSeats_eq (n := n) (l := l) hp hj hf hs
  rw [he, if_pos ha]
  have hstep : SeatStep (seatsTaken s p l) (bump (writeCopy (seatsTaken s p l) p n close d (namedSeats s f p q l)) NET_INGEST_MISC_deferred d) :=
    (seatStep_writeCopy _ p n close d _).trans (seatStep_bumpDeferred _ d)
  obtain ⟨hcopy, hcands, hseated⟩ := writeCopy_builds (s := seatsTaken s p l) (j := j) hj hf n close d (namedSeats s f p q l)
  have hseated' := (rd_bump_ne (g := NET_INGEST_STATUS_seated_last) (writeCopy (seatsTaken s p l) p n close d (namedSeats s f p q l))
    (f := NET_INGEST_MISC_deferred) d (by decide)).trans hseated
  rw [← bump_copies _ NET_INGEST_MISC_deferred d] at hcopy
  rw [← bump_cands _ NET_INGEST_MISC_deferred d] at hcands
  generalize bump (writeCopy (seatsTaken s p l) p n close d (namedSeats s f p q l)) NET_INGEST_MISC_deferred d = w at *
  obtain ⟨hd, hr, hjobs, ht, -⟩ := id hstep
  have hact : actWindow w = actWindow s := (hstep.actWindow).trans (seatStep_syncCands
    { s with cands := unnamed s p l, dbl := { s.dbl with seatWait := none, fills := [] } }).actWindow
  have hlen : (namedSeats s f p q l).length = l.length := by simp [namedSeats]
  have hrun : ∀ r, Store.get? (wakeRun w p.subm n).runs r = (Store.get? s.runs r).map fun x =>
      if x.subm = p.subm ∧ x.kind = .period n ∧ x.phase = .pending ∧ x.kickWin = none then { x with kickWin := some (actWindow s) } else x :=
    fun r => by rw [get?_wakeRun, hr, hact]; rfl
  rw [applySents_none (s := wakeRun w p.subm n) ((congrArg DblSt.sents hd).trans hn)]
  refine ⟨⟨_, hcopy, rfl, rfl, rfl, by simpa using hlen, fun k x hx => ?_⟩, fun r hmem hb x hx => ?_, congrArg DblSt.seatWait hd,
    hlen ▸ hseated', fun r x hx h1 h2 h3 h4 => ?_, fun r x hx h => ?_, ht, hjobs⟩
  · have hz : l.zipIdx[k]? = some (x, k) := by simp [hx]
    have hk := congrArg (Option.map (Seat.fresh ∘ fun x => namedRequest f p q x.1 ((seatSource s p x.2 x.1).getD (0, [])).1
      ((seatSource s p x.2 x.1).getD (0, [])).2)) hz
    refine ⟨_, by simpa [namedSeats] using hk, ?_⟩
    exact ⟨rfl, rfl, rfl, rfl, rfl, rfl, rfl⟩
  · have hm : r ∈ unnamed s p l := by
      rw [← show w.cands = unnamed s p l from hcands]
      exact hmem
    rintro ⟨h1, h2, h3⟩
    obtain ⟨-, hm⟩ := List.mem_filter.1 hm
    have hany : (l.any fun x => r.ip == x.ip.toNat && r.udp == x.udp.toNat && r.seqn == x.seq.toNat) = true :=
      List.any_eq_true.2 ⟨x, hx, by simp [h1, h2, h3]⟩
    simp [hb, hany] at hm
  · rw [hrun, hx, Option.map_some, if_pos ⟨h1, h2, h3, h4⟩]
  · rw [hrun, hx, Option.map_some, if_neg]
    rintro ⟨h1, h2, -⟩
    exact h.elim (· h1) (· h2)

/-- Where a REQ is missing, the SEATING waits for its REQ_FILL. -/
theorem buildSeats_waits (hp : Store.get? s.periods q = some p) (hj : Store.get? s.jobs p.job = some j) (hf : j.form = some f)
    (hs : ∀ c ∈ s.copies, c.bind = p.subm → c.skipped = false) (ha : sourced s p l = false) :
    buildSeats s q n l = { s with dbl := { s.dbl with seatWait := some (q, n, l) } } := by
  obtain ⟨close, d, he⟩ := buildSeats_eq (n := n) (l := l) hp hj hf hs
  rw [he, if_neg (by simp [ha])]

/-- The state with the REQs that REQ_FILL has brought. -/
def withFills (s : State) (m : List (Nat × Bytes)) : State := { s with dbl := { s.dbl with fills := m } }

/-- What has been built does not depend on the fills that were held. -/
theorem SeatsBuilt.of_fills {t : State} {m : List (Nat × Bytes)} (h : SeatsBuilt (withFills s m) t p n l) :
    SeatsBuilt s t p n l :=
  ⟨h.copy, h.cands, h.wait, h.seated, h.woken, h.others, h.tiles, h.jobs⟩

theorem exec_seating (hp : Store.get? s.periods q = some p) (hfl : follows s q = true) (hl : ∀ m, p.lastSeat = some m → m < n) :
    exec (.seating q n l) s = .next (buildSeats (withFills s []) q n l) := by
  rcases h : p.lastSeat with _ | m
  · simp [exec, execSeating, hp, hfl, h, withFills]
  · simp [exec, execSeating, hp, hfl, h, hl m h, withFills]

/-- SEATING at module B: the copy is built, or its REQ_FILL is waited for (R368). -/
theorem seating_builds (hp : Store.get? s.periods q = some p) (hfl : follows s q = true) (hl : ∀ m, p.lastSeat = some m → m < n)
    (hj : Store.get? s.jobs p.job = some j) (hf : j.form = some f) (hs : ∀ c ∈ s.copies, c.bind = p.subm → c.skipped = false)
    (hn : s.dbl.sents = []) : Gives (.seating q n l) s fun t =>
      if ∀ x ∈ l, (namedCand s p.subm x).isSome = true then SeatsBuilt s t p n l
      else t.dbl.seatWait = some (q, n, l) ∧ t.dbl.fills = [] ∧ t.copies = s.copies ∧ t.cands = s.cands ∧ t.runs = s.runs ∧ t.mem = s.mem := by
  refine ⟨_, exec_seating hp hfl hl, ?_⟩
  have hsrc : sourced (withFills s []) p l = true ↔ ∀ x ∈ l, (namedCand s p.subm x).isSome = true := by
    rw [sourced_iff]
    constructor
    · intro h x hx
      obtain ⟨i, hi⟩ := List.mem_iff_getElem?.1 hx
      exact (h i x hi).resolve_right (by simp [withFills])
    · exact fun h i x hx => .inl (h x (List.mem_of_getElem? hx))
  split
  next h => exact .of_fills (buildSeats_builds (by exact hp) (by exact hj) hf (by exact hs) (by exact hn) (hsrc.2 h))
  next h =>
    rw [buildSeats_waits (s := (withFills s [])) hp hj hf hs (Bool.eq_false_iff.2 fun h' => h (hsrc.1 h'))]
    exact ⟨rfl, rfl, rfl, rfl, rfl, rfl⟩

/-- REQ_FILL at module B: the copy is built once no REQ is missing (R368). -/
theorem reqFill_builds (k : Nat) (body : Bytes) (hw : s.dbl.seatWait = some (q, n, l)) (hp : Store.get? s.periods q = some p)
    (hj : Store.get? s.jobs p.job = some j) (hf : j.form = some f) (hs : ∀ c ∈ s.copies, c.bind = p.subm → c.skipped = false)
    (hn : s.dbl.sents = []) : Gives (.reqFill k body) s fun t =>
      ((∀ i x, l[i]? = some x → (namedCand s p.subm x).isSome = true ∨ i = k ∨ (Store.get? s.dbl.fills i).isSome = true) →
        SeatsBuilt s t p n l) ∧
      ((∃ i x, l[i]? = some x ∧ namedCand s p.subm x = none ∧ i ≠ k ∧ Store.get? s.dbl.fills i = none) →
        t.dbl.seatWait = some (q, n, l) ∧ Store.get? t.dbl.fills k = some body ∧ t.copies = s.copies ∧ t.runs = s.runs ∧ t.mem = s.mem) := by
  have hex : exec (.reqFill k body) s =
      .next (buildSeats (withFills s (Store.set s.dbl.fills k body)) q n l) := by simp [exec, execReqFill, hw, withFills]
  have hfill : ∀ i, (Store.get? (Store.set s.dbl.fills k body) i).isSome = true ↔ i = k ∨ (Store.get? s.dbl.fills i).isSome = true :=
    fun i => by rw [Store.get?_set]; by_cases h : i = k <;> simp [h]
  have hsrc := sourced_iff (withFills s (Store.set s.dbl.fills k body)) p l
  simp only [show (withFills s (Store.set s.dbl.fills k body)).dbl.fills = Store.set s.dbl.fills k body from rfl, hfill] at hsrc
  refine ⟨_, hex, fun h => ?_, fun ⟨i, x, hx, hc, hk, hfl⟩ => ?_⟩
  · exact .of_fills (buildSeats_builds (by exact hp) (by exact hj) hf (by exact hs) (by exact hn) (hsrc.2 h))
  · have hno : sourced (withFills s (Store.set s.dbl.fills k body)) p l = false := by
      refine Bool.eq_false_iff.2 fun h => ?_
      have hcand : namedCand (withFills s (Store.set s.dbl.fills k body)) p.subm x = none := hc
      simpa [hcand, hk, hfl] using hsrc.1 h i x hx
    rw [buildSeats_waits (s := (withFills s (Store.set s.dbl.fills k body))) hp hj hf hs hno]
    exact ⟨rfl, Store.get?_set_self _ _ _, rfl, rfl, rfl⟩

end

/-! ### A SEATING that does not come -/

theorem store_mem_of_get? {α : Type} {m : Store α} {k : Nat} {x : α} (h : Store.get? m k = some x) : (k, x) ∈ m := by
  induction m with
  | nil => cases h
  | cons p r ih =>
    obtain ⟨a, y⟩ := p
    rw [Store.get?] at h
    split at h
    next he =>
      obtain rfl := Option.some.inj h
      exact he ▸ List.mem_cons_self
    · exact List.mem_cons_of_mem _ (ih h)

/-- The state in which module B seats a period for itself: its run cannot agree. -/
def seatsLost (s : State) (p : Period) (n : Nat) : State :=
  raise { s with dbl := { s.dbl with broken := ⟨p.job, n⟩ :: s.dbl.broken } } DBL_CAUSE_cause 7

section
variable {s : State} {q n r : Nat} {p : Period} {x : Run}

theorem exec_seatLost (hp : Store.get? s.periods q = some p) (hc : p.current = some n) (hw : s.dbl.seatWait = none)
    (hfl : follows s q = true) (hr : Store.get? s.runs r = some x) (hs : x.subm = p.subm) (hk : x.kind = .period n)
    (hph : x.phase = .pending) (hkw : x.kickWin = none) (hcp : ∀ c ∈ s.copies, c.bind = p.subm → c.period ≠ n) :
    exec (.seatLost q) s = .next (if p.bellAt n + 20000 ≤ tod s then wakeRun (seatNow (seatsLost s p n) p n) p.subm n else s) := by
  have hany : (s.runs.any fun r => r.2.subm == p.subm && r.2.kind == .period n && r.2.phase == .pending && r.2.kickWin.isNone) = true :=
    List.any_eq_true.2 ⟨_, store_mem_of_get? hr, by simp [hs, hk, hph, hkw]⟩
  have hcopies : (s.copies.any fun c => c.bind == p.subm && c.period == n) = false := by
    refine List.any_eq_false.2 fun c hc => ?_
    by_cases hb : c.bind = p.subm <;> simp [hb, hcp c hc]
  have hwait : s.dbl.seatWait.isSome = false := by rw [hw]; rfl
  simp only [exec, execSeatLost, hp, hc, hany, hwait, hcopies, hfl]
  by_cases ht : p.bellAt n + 20000 ≤ tod s
  · rw [if_neg (by simp [ht]), if_pos trivial, if_pos ht]
    rfl
  · rw [if_pos (by simp; omega), if_neg ht]

/-- No SEATING 20 µs after the start bell: module B seats the period for itself, and its run cannot agree (R368). -/
theorem seatLost_seats (hp : Store.get? s.periods q = some p) (hc : p.current = some n) (hw : s.dbl.seatWait = none)
    (hfl : follows s q = true) (hr : Store.get? s.runs r = some x) (hs : x.subm = p.subm) (hk : x.kind = .period n)
    (hph : x.phase = .pending) (hkw : x.kickWin = none) (hcp : ∀ c ∈ s.copies, c.bind = p.subm → c.period ≠ n) :
    Gives (.seatLost q) s fun t =>
      if p.bellAt n + 20000 ≤ tod s then t.dbl.broken = ⟨p.job, n⟩ :: s.dbl.broken ∧ flag t DBL_CAUSE_cause 7 = true ∧
        Store.get? t.runs r = some { x with kickWin := some (actWindow s) } ∧ TilesNoted s t ∧ t.jobs = s.jobs
      else t = s := by
  refine ⟨_, exec_seatLost hp hc hw hfl hr hs hk hph hkw hcp, ?_⟩
  split
  · have hstep := seatStep_seatNow (seatsLost s p n) p n
    generalize seatNow (seatsLost s p n) p n = w at hstep
    have hact : actWindow w = actWindow s := by
      refine hstep.actWindow.trans ?_
      simp only [actWindow, windowNow]
      rw [seatsLost, rd_raise_ne _ _ (by decide)]
      rfl
    obtain ⟨hd, hruns, hj, ht, hf⟩ := hstep
    refine ⟨congrArg DblSt.broken hd, ?_, ?_, ht, hj⟩
    · have hrd : rd w DBL_CAUSE_cause = rd (seatsLost s p n) DBL_CAUSE_cause := hf _ (by decide)
      have hset : flag (seatsLost s p n) DBL_CAUSE_cause 7 = true := flag_raise_self _ (by decide)
      rw [flag, ← hrd] at hset
      exact hset
    · rw [get?_wakeRun, hruns, show (seatsLost s p n).runs = s.runs from rfl, hr, Option.map_some, if_pos ⟨hs, hk, hph, hkw⟩, hact]
  · rfl

end

/-- Settles O50: the seatings of module B, the items of the partner, the digests judged, and the retakes, each by its own lemma. -/
theorem doublesRunsAgreeOrAreRetaken : Obligations.DoublesRunsAgreeOrAreRetaken := by
  unfold Obligations.DoublesRunsAgreeOrAreRetaken
  refine ⟨fun s q n l p j f hp hfl hl hj hf hs hn => seating_builds hp hfl hl hj hf hs hn,
    fun s q n k body l p j f hw hp hj hf hs hn => reqFill_builds k body hw hp hj hf hs hn,
    fun s q n r p x hp hc hw hfl hr hs hk hph hkw hcp => seatLost_seats hp hc hw hfl hr hs hk hph hkw hcp,
    fun s run k i item a hp hn hm => result_scored hp hn hm, fun s run k i item hp hm hn => result_unscored hp hm hn,
    fun s run k i st pay hp hb hs => ⟨sent_waits hp hb hs st pay, fun r hk hr => sent_answers hp hb hs st pay hk hr⟩,
    fun s run n b hp hm ht => runDigest_waits hp hm ht run n b, fun s run n a b hp hm ht => runDigest_judges b hp hm ht,
    fun s run n c r x hp hn hx ha h1 h2 hr => ⟨retake_counts hp hn hx ha h1 h2 hr, retake_waits hp hn hx ha h1 h2 hr,
      retake_aborts hp hn hx ha h1 h2 hr, retake_refused hp hn hx ha h1 h2 hr⟩,
    fun s run c r x hp hn hx hph hm => retake_bars c hp hn hx hph hm⟩

end Sys2Proof.Machine
end

section
namespace Sys2Proof.Machine

-- One proof after another: many at once take more memory, in a text this long, than its compile has.
set_option Elab.async false

/-! ## The issue of a tile's operation (03_snielo_instruction_set.md, R56 to R60) -/

/-- A register field that every tile has at the same place of its register block (R5). -/
def TileField (f : Nat → Fld) : Prop := ∀ t, (f t).key = (f 0).key + 0x400000 * t

/-- Two such fields with different keys on tile 0 have different keys on every tile. -/
theorem TileField.ne {f g : Nat → Fld} (hf : TileField f) (hg : TileField g) (t : Nat) (h : (f 0).key ≠ (g 0).key := by decide) :
    (f t).key ≠ (g t).key := by
  rw [hf t, hg t]
  omega

theorem tileField_TIL_SEQ_STATUS_pc : TileField TIL_SEQ_STATUS_pc := fun t => by
  simp only [Fld.key, TIL_SEQ_STATUS_pc, TIL_SEQ_STATUS]
  omega
theorem tileField_TIL_SEQ_STATUS_state : TileField TIL_SEQ_STATUS_state := fun t => by
  simp only [Fld.key, TIL_SEQ_STATUS_state, TIL_SEQ_STATUS]
  omega
theorem tileField_TIL_SEQ_STATUS_halt_code : TileField TIL_SEQ_STATUS_halt_code := fun t => by
  simp only [Fld.key, TIL_SEQ_STATUS_halt_code, TIL_SEQ_STATUS]
  omega
theorem tileField_TIL_SEQ_STATUS_loops_active : TileField TIL_SEQ_STATUS_loops_active := fun t => by
  simp only [Fld.key, TIL_SEQ_STATUS_loops_active, TIL_SEQ_STATUS]
  omega
theorem tileField_TIL_TICK_tick : TileField TIL_TICK_tick := fun t => by
  simp only [Fld.key, TIL_TICK_tick, TIL_TICK]
  omega
theorem tileField_TIL_MODE_strict : TileField TIL_MODE_strict := fun t => by
  simp only [Fld.key, TIL_MODE_strict, TIL_MODE]
  omega
theorem tileField_TIL_MODE_bound : TileField TIL_MODE_bound := fun t => by
  simp only [Fld.key, TIL_MODE_bound, TIL_MODE]
  omega
theorem tileField_TIL_MODE_job_id : TileField TIL_MODE_job_id := fun t => by
  simp only [Fld.key, TIL_MODE_job_id, TIL_MODE]
  omega
theorem tileField_TIL_ERR_code : TileField TIL_ERR_code := fun t => by
  simp only [Fld.key, TIL_ERR_code, TIL_ERR]
  omega
theorem tileField_TIL_ERR_slot : TileField TIL_ERR_slot := fun t => by
  simp only [Fld.key, TIL_ERR_slot, TIL_ERR]
  omega
theorem tileField_TIL_ERR_pc : TileField TIL_ERR_pc := fun t => by
  simp only [Fld.key, TIL_ERR_pc, TIL_ERR]
  omega
theorem tileField_TIL_ERR_valid : TileField TIL_ERR_valid := fun t => by
  simp only [Fld.key, TIL_ERR_valid, TIL_ERR]
  omega
theorem tileField_TIL_ERR_TICK_tick : TileField TIL_ERR_TICK_tick := fun t => by
  simp only [Fld.key, TIL_ERR_TICK_tick, TIL_ERR_TICK]
  omega
theorem tileField_TIL_CAUSE_cause : TileField TIL_CAUSE_cause := fun t => by
  simp only [Fld.key, TIL_CAUSE_cause, TIL_CAUSE]
  omega
theorem tileField_CH_WDOG_stalled : TileField CH_WDOG_stalled := fun t => by
  simp only [Fld.key, CH_WDOG_stalled, CH_WDOG]
  omega
theorem tileField_VE_TRAY_entries : TileField VE_TRAY_entries := fun t => by
  simp only [Fld.key, VE_TRAY_entries, VE_TRAY]
  omega
theorem tileField_VE_TRAY_free_lines : TileField VE_TRAY_free_lines := fun t => by
  simp only [Fld.key, VE_TRAY_free_lines, VE_TRAY]
  omega
theorem tileField_VE_TRAY_head_long : TileField VE_TRAY_head_long := fun t => by
  simp only [Fld.key, VE_TRAY_head_long, VE_TRAY]
  omega
theorem tileField_VE_TRAY_head_visible : TileField VE_TRAY_head_visible := fun t => by
  simp only [Fld.key, VE_TRAY_head_visible, VE_TRAY]
  omega
theorem tileField_VE_TRAY_peak_lines : TileField VE_TRAY_peak_lines := fun t => by
  simp only [Fld.key, VE_TRAY_peak_lines, VE_TRAY]
  omega
theorem tileField_BDR_STATIC_held_ticks : TileField BDR_STATIC_held_ticks := fun t => by
  simp only [Fld.key, BDR_STATIC_held_ticks, BDR_STATIC]
  omega
theorem tileField_BDR_STATIC_conflicts : TileField BDR_STATIC_conflicts := fun t => by
  simp only [Fld.key, BDR_STATIC_conflicts, BDR_STATIC]
  omega
theorem tileField_BDR_REFRESH_refr : TileField BDR_REFRESH_refr := fun t => by
  simp only [Fld.key, BDR_REFRESH_refr, BDR_REFRESH]
  omega

theorem Store.set_set {α : Type} (m : Store α) (a : Nat) (x y : α) : Store.set (Store.set m a x) a y = Store.set m a y := by
  induction m with
  | nil => simp [Store.set]
  | cons p r ih =>
    obtain ⟨k, v⟩ := p
    rcases Nat.lt_trichotomy a k with h | rfl | h
    · simp [Store.set, h]
    · simp [Store.set]
    · have h1 : ¬ a < k := by omega
      have h2 : a ≠ k := by omega
      simp [Store.set, h1, h2, ih]

/-- Two changes of one tile are one. -/
theorem modTile_modTile (s : State) (t : Nat) (f g : Tile → Tile) : modTile (modTile s t f) t g = modTile s t fun x => g (f x) := by
  rw [modTile, tileOf_modTile_self]
  simp only [modTile, setTile, Store.set_set]

/-- The state in which a SEQ operation or a slot operation has its effect: the tile runs. -/
def running (s : State) (t : Nat) : State := wr s (TIL_SEQ_STATUS_state t) 1

@[simp] theorem tileOf_running (s : State) (t u : Nat) : tileOf (running s t) u = tileOf s u := rfl

theorem rd_running {f : Fld} (s : State) (t : Nat) (h : f.key ≠ (TIL_SEQ_STATUS_state t).key) : rd (running s t) f = rd s f :=
  rd_wr_ne s 1 h

theorem seqState_running (s : State) (t : Nat) : seqState (running s t) t = 1 := rd_wr_self _ _ _

theorem issuing_running (s : State) (t : Nat) : issuing (running s t) t = true := by
  simp [issuing, seqState_running]

theorem tickOf_running (s : State) (t : Nat) : tickOf (running s t) t = tickOf s t :=
    rd_running s t (tileField_TIL_TICK_tick.ne tileField_TIL_SEQ_STATUS_state t)

theorem pcOf_running (s : State) (t : Nat) : pcOf (running s t) t = pcOf s t :=
    rd_running s t (tileField_TIL_SEQ_STATUS_pc.ne tileField_TIL_SEQ_STATUS_state t)

theorem jobOfTile_running (s : State) (t : Nat) : jobOfTile (running s t) t = jobOfTile s t :=
  rd_running s t (tileField_TIL_MODE_job_id.ne tileField_TIL_SEQ_STATUS_state t)

theorem jobRec_running (s : State) (t : Nat) : jobRec (running s t) t = jobRec s t := by
  have h : rd (running s t) (TIL_MODE_bound t) = rd s (TIL_MODE_bound t) :=
    rd_running s t (tileField_TIL_MODE_bound.ne tileField_TIL_SEQ_STATUS_state t)
  simp only [jobRec, on, h, jobOfTile_running]
  rfl

theorem tilePart_running (s : State) (t : Nat) : tilePart (running s t) t = tilePart s t := by
  simp only [tilePart, jobRec_running]
  rfl

/-- An operation with nothing to hold it, on a tile that can issue, has its effect (R56, R57). -/
theorem issueOp_ready {s : State} {t : Nat} (h : TileReady s t) (slot : Nat) {holds : List Nat} (hh : holds = []) (stall : Bool)
    (body : State → State) : issueOp s t slot false holds stall body = body (running s t) := by
  obtain ⟨hi, hb, hp, -⟩ := h
  simp only [issueOp, hi, hb, hp, hh, ite_self]
  rfl

/-- A SEQ operation of a tile that can issue has its effect, and ends the bundle unless it has stopped the tile (R56). -/
theorem issueSeq_ready {s : State} {t : Nat} (h : SeqReady s t) (body : State → State × Option Nat × Nat) :
    issueSeq s t false body = if issuing (body (running s t)).1 t then
      endBundle (body (running s t)).1 t (tileOf s t).lims (body (running s t)).2.1 (body (running s t)).2.2
      else (body (running s t)).1 := by
  obtain ⟨ht, hs, -⟩ := h
  unfold issueSeq
  rw [issueOp_ready ht 0 hs]

theorem TileReady.alone {s : State} {t : Nat} (h : TileReady s t) : Alone s t := h.2.2.2

theorem SeqReady.alone {s : State} {t : Nat} (h : SeqReady s t) : Alone s t := h.1.alone

/-- The end of a bundle takes the tile as it is, listed or not. -/
theorem endBundle_modTile_id (s : State) (t : Nat) (lims : Store Nat) (target : Option Nat) (cost : Nat) :
    endBundle (modTile s t id) t lims target cost = endBundle s t lims target cost := by
  have hp : pcOf (modTile s t id) t = pcOf s t := rfl
  have ht : tileOf (modTile s t id) t = tileOf s t := tileOf_modTile_self s t id
  simp only [endBundle, hp, ht, modTile_modTile, id_eq]

section
variable {s : State} {t : Nat} {body : State → State × Option Nat × Nat} {f : Tile → Tile} {target : Option Nat} {cost : Nat}

/-- A SEQ operation whose effect is a change of its tile that leaves no wait moves the tile on (R64, R80). -/
theorem issueSeq_moved (h : SeqReady s t) (hb : body (running s t) = (modTile (running s t) t f, target, cost))
    (hw : (f (tileOf s t)).waits = []) (hm : (f (tileOf s t)).micros = (tileOf s t).micros) :
    Moved s (issueSeq s t false body) t (f (tileOf s t)) target cost := by
  rw [issueSeq_ready h, hb]
  exact if_pos (issuing_running s t) ▸ endBundle_moved s t f target cost hw hm

/-- A SEQ operation without an effect of its own moves the tile on. -/
theorem issueSeq_passes (h : SeqReady s t) (hb : body (running s t) = (running s t, target, cost)) :
    Moved s (issueSeq s t false body) t (tileOf s t) target cost := by
  rw [issueSeq_ready h, hb, ← endBundle_modTile_id]
  exact if_pos (issuing_running s t) ▸ endBundle_moved s t id target cost h.2.2 rfl

end

end Sys2Proof.Machine
end

section
namespace Sys2Proof.Machine

-- One proof after another: many at once take more memory, in a text this long, than its compile has.
set_option Elab.async false

theorem TilesRun.rest {s u : State} (h : TilesRun s u) :
    { u with regs := s.regs, tiles := s.tiles, mem := s.mem, fabric := s.fabric } = s := by
  have hr := congrArg (fun v : State => ({ v with regs := s.regs, tiles := s.tiles, mem := s.mem, fabric := s.fabric } : State)) h
  exact hr

/-! ### The end of a bundle (R64, R69, R80) -/

/-- What the loops give after the bundle at the pc of a tile (R64). -/
def nextBundle (s : State) (t : Nat) (lims : Store Nat) : List LoopRec × Store Nat × Nat :=
  loopNext lims (pcOf s t) (tileOf s t).loops (tileOf s t).cnts

/-- A tile whose bundle is closed: the loops moved on, no hold under way. -/
def Tile.closed (x : Tile) (n : List LoopRec × Store Nat × Nat) (next : Nat) : Tile :=
  { x with
    loops := n.1, cnts := n.2.1, hold := none, pcOver := decide (2 ^ 14 ≤ next)
    stall := if x.waits.isEmpty then none else x.stall, firstIsCur := false, longIsCur := false }

/-- A bundle closed: the loops, the pc and the watchdog moved on, the tick and the state of the sequencer not yet. -/
def bundleClosed (s : State) (t : Nat) (lims : Store Nat) (target : Option Nat) : State :=
  let n := nextBundle s t lims
  let next := target.getD n.2.2
  let s := modTile s t fun y => y.closed n next
  wr (wr (wr s (TIL_SEQ_STATUS_pc t) next) (TIL_SEQ_STATUS_loops_active t) (n.1.foldl (fun b l => b ||| 2 ^ l.c) 0)) (CH_WDOG_stalled t) 0

theorem endBundle_eq (s : State) (t : Nat) (lims : Store Nat) (target : Option Nat) (cost : Nat) : endBundle s t lims target cost =
    if (tileOf s t).waits.isEmpty then
      setTick (wr (bundleClosed s t lims target) (TIL_SEQ_STATUS_state t) 1) t (tickOf (bundleClosed s t lims target) t + cost)
    else runDue (wr (bundleClosed s t lims target) (TIL_SEQ_STATUS_state t) 2) t (tickOf (bundleClosed s t lims target) t + 1) := rfl

section
variable (s : State) (t : Nat) (lims : Store Nat) (target : Option Nat)

theorem tileOf_bundleClosed : tileOf (bundleClosed s t lims target) t =
    (tileOf s t).closed (nextBundle s t lims) (target.getD (nextBundle s t lims).2.2) :=
  tileOf_modTile_self s t fun y => y.closed (nextBundle s t lims) (target.getD (nextBundle s t lims).2.2)

theorem tilesKept_bundleClosed : TilesKeptBut s (bundleClosed s t lims target) t := fun _ hv =>
  tileOf_modTile_ne s (fun y => y.closed (nextBundle s t lims) (target.getD (nextBundle s t lims).2.2)) hv

theorem tilesRun_bundleClosed : TilesRun s (bundleClosed s t lims target) := rfl

theorem fieldsKept_bundleClosed : FieldsKept s (bundleClosed s t lims target)
    [TIL_SEQ_STATUS_pc t, TIL_SEQ_STATUS_loops_active t, CH_WDOG_stalled t] := fun g hg => by
  obtain ⟨hpc, hl, hd⟩ : g.key ≠ (TIL_SEQ_STATUS_pc t).key ∧ g.key ≠ (TIL_SEQ_STATUS_loops_active t).key ∧
    g.key ≠ (CH_WDOG_stalled t).key := by simpa using hg
  exact (rd_wr_ne _ _ hd).trans ((rd_wr_ne _ _ hl).trans (rd_wr_ne _ _ hpc))

theorem pcOf_bundleClosed : pcOf (bundleClosed s t lims target) t = target.getD (nextBundle s t lims).2.2 % 2 ^ 14 :=
  (rd_wr_ne _ _ (tileField_TIL_SEQ_STATUS_pc.ne tileField_CH_WDOG_stalled t)).trans
    ((rd_wr_ne _ _ (tileField_TIL_SEQ_STATUS_pc.ne tileField_TIL_SEQ_STATUS_loops_active t)).trans (rd_wr_self _ _ _))

theorem tickOf_bundleClosed : tickOf (bundleClosed s t lims target) t = tickOf s t := by
  refine fieldsKept_bundleClosed s t lims target _ ?_
  simp only [List.forall_mem_cons, List.not_mem_nil, false_imp_iff, implies_true, and_true]
  exact ⟨tileField_TIL_TICK_tick.ne tileField_TIL_SEQ_STATUS_pc t, tileField_TIL_TICK_tick.ne tileField_TIL_SEQ_STATUS_loops_active t,
    tileField_TIL_TICK_tick.ne tileField_CH_WDOG_stalled t⟩

end

/-- The end of a bundle whose SEQ operation leaves a wait. -/
theorem endBundle_held (s : State) (t : Nat) (f : Tile → Tile) (cost : Nat) (hw : (f (tileOf s t)).waits ≠ [])
    (hm : (f (tileOf s t)).micros = (tileOf s t).micros) :
    HeldBy s (endBundle (modTile (running s t) t f) t (tileOf s t).lims none cost) t (f (tileOf s t)) := by
  generalize hv : modTile (running s t) t f = v
  have ht : tileOf v t = f (tileOf s t) := hv ▸ tileOf_modTile_self _ _ _
  have hp : pcOf v t = pcOf s t := hv ▸ pcOf_running s t
  have hk : tickOf v t = tickOf s t := hv ▸ tickOf_running s t
  have hr : TilesRun s v := hv ▸ rfl
  have hn : nextBundle v t (tileOf s t).lims = loopNext (tileOf s t).lims (pcOf s t) (f (tileOf s t)).loops (f (tileOf s t)).cnts := by
    rw [nextBundle, ht, hp]
  have hw' : (tileOf v t).waits.isEmpty = false := by simpa [ht] using hw
  rw [endBundle_eq, hw', if_neg (by simp)]
  have hc := fieldsKept_bundleClosed v t (tileOf s t).lims none
  have hcp := pcOf_bundleClosed v t (tileOf s t).lims none
  have hct := tileOf_bundleClosed v t (tileOf s t).lims none
  have hck := (tickOf_bundleClosed v t (tileOf s t).lims none).trans hk
  have hcr := hr.trans (tilesRun_bundleClosed v t (tileOf s t).lims none)
  have hco := tilesKept_bundleClosed v t (tileOf s t).lims none
  have hcm : (bundleClosed v t (tileOf s t).lims none).mem = s.mem ∧ (bundleClosed v t (tileOf s t).lims none).fabric = s.fabric :=
    hv ▸ ⟨rfl, rfl⟩
  generalize bundleClosed v t (tileOf s t).lims none = c at hc hcp hct hck hcr hco hcm
  have hA := runDue_frame (wr c (TIL_SEQ_STATUS_state t) 2) t (tickOf c t + 1)
  obtain ⟨m, w, r, ho⟩ := hA.own
  refine ⟨?_, ?_, ?_, ?_, fun g hg => ?_, fun x hx => ?_, fun hq => ?_, ((hcr.trans (tilesRun_wr c _ 2)).trans hA.tilesRun).rest⟩
  · rw [← hn]
    exact (hA.rd _).trans ((rd_wr_ne _ _ (tileField_TIL_SEQ_STATUS_pc.ne tileField_TIL_SEQ_STATUS_state t)).trans hcp)
  · exact (hA.rd _).trans ((rd_wr_ne _ _ (tileField_TIL_TICK_tick.ne tileField_TIL_SEQ_STATUS_state t)).trans hck)
  · exact (hA.rd _).trans (rd_wr_self _ _ _)
  · rw [ho, tileOf_wr, hct, ht]
    rfl
  · have hs : g.key ≠ (TIL_SEQ_STATUS_state t).key := hg _ (by simp [bundleFields])
    refine (hA.rd g).trans ((rd_wr_ne _ _ hs).trans ((hc g fun y hy => hg y ?_).trans (hv ▸ rd_running s t hs)))
    simp only [List.mem_cons, List.not_mem_nil, or_false] at hy
    rcases hy with rfl | rfl | rfl <;> simp [bundleFields]
  · exact (hA.others x hx).trans ((hco x hx).trans (hv ▸ tileOf_modTile_ne (running s t) _ hx))
  · have e : runDue (wr c (TIL_SEQ_STATUS_state t) 2) t (tickOf c t + 1) = wr c (TIL_SEQ_STATUS_state t) 2 :=
      runDue_none (by simpa only [tileOf_wr, hct, ht, Tile.closed, hm, hck] using hq)
    rw [e]
    exact hcm

section
variable {s : State} {t : Nat} {body : State → State × Option Nat × Nat} {f : Tile → Tile}

/-- A SEQ operation whose effect notes a wait of its tile holds the tile (R67, R68, R72). -/
theorem issueSeq_held {cost : Nat} (h : SeqReady s t) (hb : body (running s t) = (modTile (running s t) t f, none, cost))
    (hw : (f (tileOf s t)).waits ≠ []) (hm : (f (tileOf s t)).micros = (tileOf s t).micros) :
    HeldBy s (issueSeq s t false body) t (f (tileOf s t)) := by
  rw [issueSeq_ready h, hb]
  exact if_pos (issuing_running s t) ▸ endBundle_held s t f cost hw hm

end

/-! ## SEQ operations that move on (R56, R64, R66, R70, R73) -/

/-- HALT as its tile is left: the accesses of the next tick's reads run, the tick of the last delivery noted, the tile halted (R73). -/
theorem halt_ends {s : State} {t : Nat} (h : SeqReady s t) (code : BitVec 8) : Gives (.halt t code) s fun u =>
      seqState u t = 4 ∧ rd u (TIL_SEQ_STATUS_halt_code t) = code.toNat ∧
      (∃ m w r, tileOf u t = { tileOf s t with
        hold := none, haltTick := some (max (tickOf s t + 1) (deliveredTick (tileOf s t) 31 (tickOf s t + 1)))
        micros := m, wbuf := w, aregs := r }) ∧
      ((∀ m ∈ (tileOf s t).micros, tickOf s t + 1 < m.tick) → u.mem = s.mem ∧ u.fabric = s.fabric) ∧
      FieldsKept s u [TIL_SEQ_STATUS_halt_code t, TIL_SEQ_STATUS_state t, CH_WDOG_stalled t] ∧ TilesKeptBut s u t ∧
      pcOf u t = pcOf s t ∧ tickOf u t = tickOf s t ∧
      u = { s with regs := u.regs, tiles := u.tiles, mem := u.mem, fabric := u.fabric } := by
  have hD := runDue_frame (running s t) t (tickOf s t + 1)
  obtain ⟨m, w, r, ho⟩ := hD.own
  generalize hv : modTile (runDue (running s t) t (tickOf s t + 1)) t (fun y => { y with
    haltTick := some (max (tickOf s t + 1) (deliveredTick (tileOf s t) 31 (tickOf s t + 1))), hold := none }) = v
  generalize hu : wrs v [(TIL_SEQ_STATUS_halt_code t, code.toNat), (TIL_SEQ_STATUS_state t, 4), (CH_WDOG_stalled t, 0)] = u
  have hF : RegFrame v u [TIL_SEQ_STATUS_halt_code t, TIL_SEQ_STATUS_state t, CH_WDOG_stalled t] := hu ▸ regFrame_wrs _ _
  have hst : seqState u t = 4 := by
    rw [← hu]
    exact (rd_wr_ne _ _ (tileField_TIL_SEQ_STATUS_state.ne tileField_CH_WDOG_stalled t)).trans (rd_wr_self _ _ _)
  have hrun : TilesRun s v := by
    rw [← hv]
    exact ((tilesRun_wr s _ 1).trans hD.tilesRun).trans (tilesRun_modTile _ _ _)
  have hrd : ∀ g : Fld, g.key ≠ (TIL_SEQ_STATUS_state t).key → rd v g = rd s g := fun g hg => by
    rw [← hv]
    exact (hD.rd g).trans (rd_running s t hg)
  have hkept : FieldsKept s u [TIL_SEQ_STATUS_halt_code t, TIL_SEQ_STATUS_state t, CH_WDOG_stalled t] := fun g hg =>
    (hF.kept g hg).trans (hrd g (hg _ (by simp)))
  refine ⟨u, ?_, hst, ?_, ⟨m, w, r, ?_⟩, fun hq => ?_, hkept, ?_, hkept _ ?_, hkept _ ?_, ?_⟩
  · refine (issueBundle_alone (⟨.halt t code, opHalt t code⟩ : SlotOp) h.alone).trans (congrArg Host.Outcome.next ?_)
    rw [issueSeq_ready h]
    simp only [tileOf_running, tickOf_running, h.2.2, List.isEmpty_nil, if_true, hv, hu]
    rw [if_neg (by simp [issuing, hst])]
  · rw [← hu]
    refine (rd_wr_ne _ _ (tileField_TIL_SEQ_STATUS_halt_code.ne tileField_CH_WDOG_stalled t)).trans
      ((rd_wr_ne _ _ (tileField_TIL_SEQ_STATUS_halt_code.ne tileField_TIL_SEQ_STATUS_state t)).trans ((rd_wr_self _ _ _).trans ?_))
    exact Nat.mod_eq_of_lt code.isLt
  · rw [hF.tileOf, ← hv, tileOf_modTile_self, ho]
    rfl
  · have e : runDue (running s t) t (tickOf s t + 1) = running s t := runDue_none hq
    rw [← hu, wrs_mem, wrs_fabric, ← hv, e]
    exact ⟨rfl, rfl⟩
  · intro x hx
    rw [hF.tileOf, ← hv, tileOf_modTile_ne _ _ hx]
    exact hD.others x hx
  · simp only [List.forall_mem_cons, List.not_mem_nil, false_imp_iff, implies_true, and_true]
    exact ⟨tileField_TIL_SEQ_STATUS_pc.ne tileField_TIL_SEQ_STATUS_halt_code t,
      tileField_TIL_SEQ_STATUS_pc.ne tileField_TIL_SEQ_STATUS_state t,
      tileField_TIL_SEQ_STATUS_pc.ne tileField_CH_WDOG_stalled t⟩
  · simp only [List.forall_mem_cons, List.not_mem_nil, false_imp_iff, implies_true, and_true]
    exact ⟨tileField_TIL_TICK_tick.ne tileField_TIL_SEQ_STATUS_halt_code t, tileField_TIL_TICK_tick.ne tileField_TIL_SEQ_STATUS_state t,
      tileField_TIL_TICK_tick.ne tileField_CH_WDOG_stalled t⟩
  · refine hrun.trans ?_
    rw [← hu, wrs_eq]
    rfl

/-- NOP in a slot other than that of SEQ (R56). -/
theorem nop_runs {s : State} {t k : Nat} (hk : k ≠ 0) (h : TileReady s t) :
    Gives (.nop t k) s fun u => Writes s u [(TIL_SEQ_STATUS_state t, 1)] := by
  refine ⟨running s t, (issueBundle_alone (⟨.nop t k, opNop t k⟩ : SlotOp) h.alone).trans (congrArg Host.Outcome.next ?_), rfl, ?_,
    fieldsKept_wr s _ 1⟩
  · rw [if_neg hk]
    exact issueOp_ready h k rfl false id
  · exact fun p hp => List.eq_of_mem_singleton hp ▸ seqState_running s t

/-- NOP of the SEQ slot ends its bundle (R56). -/
theorem nop_passes {s : State} {t : Nat} (h : SeqReady s t) : Gives (.nop t 0) s fun u => Moved s u t (tileOf s t) none 1 :=
  ⟨issueSeq s t false fun s => (s, none, 1), issueBundle_alone ⟨.nop t 0, opNop t 0⟩ h.alone, issueSeq_passes h rfl⟩

/-- Settles O17: each of these operations is a change of its tile at the end of its bundle, and HALT ends the task instead. -/
theorem sequencerMovesOn : Obligations.SequencerMovesOn := by
  unfold Obligations.SequencerMovesOn
  refine ⟨fun s t h => nop_passes h, fun s t k hk h => nop_runs hk h,
    fun s t c n h => ⟨_, issueBundle_alone ⟨.setlim t c n, opSetlim t c n⟩ h.alone,
      issueSeq_moved (f := fun x => { x with lims := Store.put x.lims c.toNat 1 (n.toNat + 1) }) h rfl h.2.2 rfl⟩,
    fun s t c e h => ⟨_, issueBundle_alone ⟨.loop t c e, opLoop t c e⟩ h.alone,
      issueSeq_moved (f := fun x => { x with
        cnts := Store.erase x.cnts c.toNat
        loops := ⟨c.toNat, pcOf s t + 1, e.toNat⟩ :: x.loops.filter fun l => l.c != c.toNat }) h
        (by simp only [pcOf_running]) h.2.2 rfl⟩,
    fun s t k c d v h => ⟨_, issueBundle_alone ⟨.setcmp t k c d v, opSetcmp t k c d v⟩ h.alone,
      issueSeq_moved (f := fun x => { x with cmps := Store.set x.cmps k.toNat ⟨c.toNat, d.toNat, v.toNat⟩ }) h rfl h.2.2 rfl⟩,
    fun s t l d n h => ⟨_, issueBundle_alone ⟨.hint t l d n, opHint t l d n⟩ h.alone,
      issueSeq_moved (f := fun x => { x with hints := x.hints ++ [(s.windows + (d.toNat + 1), n.toNat + 1, l.toNat)] }) h rfl h.2.2 rfl⟩,
    fun s t code h => halt_ends h code⟩

end Sys2Proof.Machine
end

section
namespace Sys2Proof.Machine

-- One proof after another: many at once take more memory, in a text this long, than its compile has.
set_option Elab.async false

/-! ## Branches and waits (03_snielo_instruction_set.md, R63, R66 to R68, R72) -/

section
variable {s : State} {t : Nat}

/-- A SEQ operation that adds one wait holds the tile by it. -/
theorem issueSeq_waits {body : State → State × Option Nat × Nat} {w : Wait} {cost : Nat} (h : SeqReady s t)
    (hb : body (running s t) = (modTile (running s t) t fun x => { x with waits := w :: x.waits }, none, cost)) :
    HeldBy s (issueSeq s t false body) t { tileOf s t with waits := [w] } := by
  simpa only [h.2.2] using issueSeq_held h hb (by simp) rfl

theorem jump_moves (h : SeqReady s t) (g : BitVec 14) : Gives (.jump t g) s fun u => Moved s u t (tileOf s t) (some g.toNat) 3 :=
  ⟨_, issueBundle_alone ⟨.jump t g, opJump t g⟩ h.alone, issueSeq_passes (target := some g.toNat) (cost := 3) h rfl⟩

theorem brc_branches (h : SeqReady s t) (k : BitVec 2) (sense : Bool) (g : BitVec 14) : Gives (.brc t k sense g) s fun u =>
    if cmpHolds (tileOf s t) k.toNat = !sense then Moved s u t (tileOf s t) (some g.toNat) 3 else Moved s u t (tileOf s t) none 1 := by
  refine ⟨_, issueBundle_alone ⟨.brc t k sense g, opBrc t k sense g⟩ h.alone, ?_⟩
  split
  next hc => exact issueSeq_passes h (if_pos (by rw [tileOf_running, hc]; cases sense <;> rfl))
  next hc => exact issueSeq_passes h (if_neg (by rw [tileOf_running]; cases sense <;> simp_all))

theorem waittick_waits (h : SeqReady s t) (n : BitVec 26) : Gives (.waittick t n) s fun u =>
    if n.toNat ≤ tickOf s t + 1 then Moved s u t (tileOf s t) none 1
    else HeldBy s u t { tileOf s t with waits := [.tick n.toNat] } := by
  refine ⟨_, issueBundle_alone ⟨.waittick t n, opWaittick t n⟩ h.alone, ?_⟩
  split
  next hn => exact issueSeq_passes h (if_pos (by rwa [tickOf_running]))
  next hn => exact issueSeq_waits h (if_neg (by rwa [tickOf_running]))

theorem waitbell_waits {q : Nat} {p : Period} {j : Job} {m : BitVec 4} (h : SeqReady s t)
    (hp : periodOfJob s (jobOfTile s t) = some (q, p)) (hj : jobRec s t = some j) (hm : m.toNat < j.marks.length) :
    Gives (.waitbell t m) s fun u =>
      (p.acted.find? (·.1 == m.toNat) = none → HeldBy s u t { tileOf s t with waits := [.bell m.toNat (tickOf s t)] }) ∧
      (∀ g, p.acted.find? (·.1 == m.toNat) = some (m.toNat, g) → tickOf s t ≤ localTick (tileOf s t) g →
        Moved s u t (tileOf s t) none 1) := by
  have hp' : periodOfJob (running s t) (jobOfTile (running s t) t) = some (q, p) := by
    rw [jobOfTile_running]
    exact hp
  have hj' : jobRec (running s t) t = some j := (jobRec_running s t).trans hj
  refine ⟨_, issueBundle_alone ⟨.waitbell t m, opWaitbell t m⟩ h.alone, fun ha => ?_, fun g ha hg => ?_⟩
  · exact issueSeq_waits (cost := 1) h (by simp only [hp', hj', if_neg (Nat.not_le.2 hm), ha, tickOf_running])
  · have hlate : tickOf s t - localTick (tileOf s t) g = 0 := Nat.sub_eq_zero_of_le hg
    exact issueSeq_passes h (by
      simp only [hp', hj', if_neg (Nat.not_le.2 hm), ha, tickOf_running, tileOf_running, hlate, recordLate, if_pos])

theorem fence_waits (h : SeqReady s t) (slots : BitVec 5) (lp : Bool) : Gives (.fence t slots lp) s fun u =>
    if fenceSettled (tileOf s t) slots.toNat lp (tickOf s t) (tileOf s t).newMsg (tileOf s t).newAid = true ∧
        deliveredTick (tileOf s t) slots.toNat (tickOf s t) ≤ tickOf s t + 1 then Moved s u t (tileOf s t) none 1
    else HeldBy s u t { tileOf s t with
      waits := [.fence slots.toNat lp (tickOf s t) (tileOf s t).newMsg (tileOf s t).newAid] } := by
  refine ⟨_, issueBundle_alone ⟨.fence t slots lp, opFence t slots lp⟩ h.alone, ?_⟩
  split
  next hs => exact issueSeq_passes h (if_pos (by rw [tickOf_running, tileOf_running]; simpa using hs))
  next hs =>
    refine issueSeq_waits (cost := 1) h ((if_neg ?_).trans ?_)
    · rw [tickOf_running, tileOf_running]
      simpa using hs
    · rw [tickOf_running]
      rfl

end

/-! ### The end of a wait (R68, R72) -/

/-- A tick leaves every register of its tile but TIL_TICK and VE_TRAY. -/
theorem TickFrame.reads {s u : State} {t k : Nat} (h : TickFrame s u t k) {f : Nat → Fld} (hf : TileField f)
    (hn : ∀ g ∈ TIL_TICK_tick 0 :: trayFields 0, (f 0).key ≠ g.key := by decide) : rd u (f t) = rd s (f t) := by
  refine h.kept _ ?_
  simp only [trayFields, List.forall_mem_cons, List.not_mem_nil, false_imp_iff, implies_true, and_true] at hn ⊢
  rw [hf t, tileField_TIL_TICK_tick t, tileField_VE_TRAY_entries t, tileField_VE_TRAY_free_lines t, tileField_VE_TRAY_head_long t,
    tileField_VE_TRAY_head_visible t, tileField_VE_TRAY_peak_lines t]
  omega

theorem TickFrame.pc {s u : State} {t k : Nat} (h : TickFrame s u t k) : pcOf u t = pcOf s t := h.reads tileField_TIL_SEQ_STATUS_pc

/-- The pc stands while waits end. -/
theorem endWait_pc (s : State) (t : Nat) (left : List Wait) (tick : Nat) : pcOf (endWait s t left tick) t = pcOf s t := by
  obtain ⟨u, hu, he⟩ := waitMoved_eq s t left tick
  have hm : pcOf (waitMoved s t left tick) t = pcOf s t := by
    rw [he]
    split
    · exact hu.pc
    · exact (rd_wr_ne _ _ (tileField_TIL_SEQ_STATUS_pc.ne tileField_CH_WDOG_stalled t)).trans hu.pc
  have hw : ∀ (v : State) (k : Nat), pcOf (wr v (TIL_SEQ_STATUS_state t) k) t = pcOf v t := fun v k =>
    rd_wr_ne v k (tileField_TIL_SEQ_STATUS_pc.ne tileField_TIL_SEQ_STATUS_state t)
  rw [endWait_eq]
  split
  · split
    · exact (hw _ 4).trans hm
    · exact (hw _ 1).trans hm
  · exact hm

theorem waittickRelease_goesOn {s : State} {t k : Nat} (hs : seqState s t = 2) (hw : (tileOf s t).waits = [.tick k])
    (hh : (tileOf s t).haltTick = none) : Gives (.waittickRelease t) s fun u =>
      seqState u t = 1 ∧ tickOf u t = min (max (tickOf s t) k) (2 ^ 48 - 1) ∧ pcOf u t = pcOf s t ∧ (tileOf u t).waits = [] ∧
        TilesKeptBut s u t := by
  obtain ⟨hst, hwaits, htick⟩ := endWait_goesOn k hh
  refine ⟨endWait s t [] k, ?_, hst, htick, endWait_pc s t [] k, hwaits, (endWait_keeps s t [] k).2⟩
  simp [exec, execWaittickRelease, hw, hs]

theorem fenceRelease_goesOn {s : State} {t slots issued m a : Nat} {lp : Bool} (k : Nat) (hs : seqState s t = 2)
    (hw : (tileOf s t).waits = [.fence slots lp issued m a]) (hf : fenceSettled (tileOf s t) slots lp issued m a = true)
    (hh : (tileOf s t).haltTick = none) : Gives (.fenceRelease t k) s fun u =>
      seqState u t = 1 ∧ pcOf u t = pcOf s t ∧ (tileOf u t).waits = [] ∧ TilesKeptBut s u t ∧
        tickOf u t = min (max (tickOf s t) (max (tickOf s t + 1) (max k (deliveredTick (tileOf s t) slots issued)))) (2 ^ 48 - 1) := by
  generalize hk : max (tickOf s t + 1) (max k (deliveredTick (tileOf s t) slots issued)) = tick
  obtain ⟨hst, hwaits, htick⟩ := endWait_goesOn tick hh
  refine ⟨endWait s t [] tick, ?_, hst, endWait_pc s t [] tick, hwaits, (endWait_keeps s t [] tick).2, htick⟩
  simp [exec, execFenceRelease, hw, hs, hf, hk]

/-- Settles O18: a branch passes its target on, a wait that is not over holds the tile, and its end lets the tile go on. -/
theorem branchesAndWaits : Obligations.BranchesAndWaits := by
  unfold Obligations.BranchesAndWaits
  exact ⟨fun s t g h => jump_moves h g, fun s t k sense g h => brc_branches h k sense g, fun s t n h => waittick_waits h n,
    fun s t q p j m h hp hj hm => waitbell_waits h hp hj hm, fun s t slots lp h => fence_waits h slots lp,
    fun s t k hs hw hh => waittickRelease_goesOn hs hw hh, fun s t k slots issued m a lp hs hw hf hh => fenceRelease_goesOn k hs hw hf hh⟩

end Sys2Proof.Machine
end

section
namespace Sys2Proof.Machine

-- One proof after another: many at once take more memory, in a text this long, than its compile has.
set_option Elab.async false

/-! ## Program errors (09_sync_contract_and_guard.md, R239) -/

/-- What TIL_ERR records of a program error (R239). -/
def errRecord (s : State) (t code slot : Nat) : List (Fld × Nat) :=
  [(TIL_ERR_code t, code), (TIL_ERR_slot t, slot), (TIL_ERR_pc t, pcOf s t), (TIL_ERR_valid t, 1), (TIL_ERR_TICK_tick t, tickOf s t)]

/-- The register fields that a program error of a tile writes (R94, R224, R239). -/
def errFields (t : Nat) : List Fld :=
  [TIL_SEQ_STATUS_state t, TIL_ERR_code t, TIL_ERR_slot t, TIL_ERR_pc t, TIL_ERR_valid t, TIL_ERR_TICK_tick t, TIL_CAUSE_cause t,
    CH_WDOG_stalled t]

/-- A tile that recorded no error yet is stopped by one: TIL_ERR records it, its cause is raised, waits and holds end (R239). -/
structure Stopped (s u : State) (t code slot : Nat) : Prop where
  state : seqState u t = 5
  record : ∀ p ∈ errRecord s t code slot, rd u p.1 = p.2 % 2 ^ p.1.w
  cause : rd u (TIL_CAUSE_cause t) = withBit s (TIL_CAUSE_cause t) 0
  waits : (tileOf u t).waits = []
  hold : (tileOf u t).hold = none
  kept : FieldsKept s u (errFields t)
  others : TilesKeptBut s u t

theorem errRecord_keys_nodup (s : State) (t code slot : Nat) : ((errRecord s t code slot).map (·.1.key)).Nodup := by
  simp only [errRecord, List.map_cons, List.map_nil, tileField_TIL_ERR_code t, tileField_TIL_ERR_slot t, tileField_TIL_ERR_pc t,
    tileField_TIL_ERR_valid t, tileField_TIL_ERR_TICK_tick t]
  exact List.Nodup.of_map (· - 0x400000 * t) (by simp only [List.map_cons, List.map_nil, Nat.add_sub_cancel]; decide)

/-- The first error of a tile recorded (R239). -/
theorem recordErr_sets {s : State} {t : Nat} (hv : rd s (TIL_ERR_valid t) = 0) (code slot : Nat) :
    (∀ p ∈ errRecord s t code slot, rd (recordErr s t code slot (pcOf s t)) p.1 = p.2 % 2 ^ p.1.w) ∧
      rd (recordErr s t code slot (pcOf s t)) (TIL_CAUSE_cause t) = withBit s (TIL_CAUSE_cause t) 0 ∧
      FieldsKept s (recordErr s t code slot (pcOf s t)) (TIL_CAUSE_cause t :: (errRecord s t code slot).map (·.1)) ∧
      (recordErr s t code slot (pcOf s t)).tiles = s.tiles := by
  have he : recordErr s t code slot (pcOf s t) = raise (wrs s (errRecord s t code slot)) (TIL_CAUSE_cause t) 0 := by
    have hon : on s (TIL_ERR_valid t) = false := by simp [on, hv]
    simp only [recordErr, noteErr, hon]
    rfl
  have hne : ∀ p ∈ errRecord s t code slot, p.1.key ≠ (TIL_CAUSE_cause t).key := by
    simp only [errRecord, List.forall_mem_cons, List.not_mem_nil, false_imp_iff, implies_true, and_true]
    exact ⟨tileField_TIL_ERR_code.ne tileField_TIL_CAUSE_cause t, tileField_TIL_ERR_slot.ne tileField_TIL_CAUSE_cause t,
      tileField_TIL_ERR_pc.ne tileField_TIL_CAUSE_cause t, tileField_TIL_ERR_valid.ne tileField_TIL_CAUSE_cause t,
      tileField_TIL_ERR_TICK_tick.ne tileField_TIL_CAUSE_cause t⟩
  rw [he]
  refine ⟨fun p hp => ?_, ?_, fun g hg => ?_, wrs_tiles _ _⟩
  · rw [rd_raise_ne _ _ (hne p hp)]
    exact rd_wrs_mem (errRecord_keys_nodup s t code slot) s hp
  · rw [rd_raise_self, rd_wrs_ne _ _ _ fun p hp => (hne p hp).symm, withBit]
  · rw [rd_raise_ne _ _ (hg _ List.mem_cons_self)]
    exact rd_wrs_ne _ _ _ fun p hp => hg _ (List.mem_cons_of_mem _ (List.mem_map_of_mem hp))

/-- A tile that stops: its registers but two stand, its waits and its hold end (R69, R239). -/
theorem haltTile_stops (s : State) (t st : Nat) : seqState (haltTile s t st) t = st % 2 ^ 3 ∧
    FieldsKept s (haltTile s t st) [TIL_SEQ_STATUS_state t, CH_WDOG_stalled t] ∧ (tileOf (haltTile s t st) t).waits = [] ∧
      (tileOf (haltTile s t st) t).hold = none ∧ TilesKeptBut s (haltTile s t st) t := by
  have hA := flushMicros_frame s t
  unfold haltTile
  extract_lets s1 s2 s3
  have h2 : tileOf s2 t = _ := tileOf_modTile_self s1 t _
  have h2o : TilesKeptBut s1 s2 t := tilesKept_modTile s1 t _
  refine ⟨rd_wr_self _ _ _, fun g hg => ?_, ?_, ?_, fun v hv => ?_⟩
  · obtain ⟨hs, hd⟩ : g.key ≠ (TIL_SEQ_STATUS_state t).key ∧ g.key ≠ (CH_WDOG_stalled t).key := by simpa using hg
    exact (rd_wr_ne _ _ hs).trans ((rd_wr_ne _ _ hd).trans (hA.rd g))
  · exact congrArg Tile.waits h2
  · exact congrArg Tile.hold h2
  · exact (h2o v hv).trans (hA.others v hv)

/-- A program error at the bundle of a tile that runs and has recorded no error yet (R239). -/
theorem progErr_stops {s : State} {t : Nat} (hs : seqState s t = 1) (hv : rd s (TIL_ERR_valid t) = 0) (code slot : Nat) :
    Stopped s (progErr s t code slot) t code slot := by
  obtain ⟨hrec, hcause, hkept, htiles⟩ := recordErr_sets hv code slot
  obtain ⟨hst, hh, hw, hhold, ho⟩ := haltTile_stops (recordErr s t code slot (pcOf s t)) t 5
  obtain ⟨u, hu, hrd, htl⟩ : ∃ u, progErr s t code slot = u ∧
      (∀ f, rd u f = rd (haltTile (recordErr s t code slot (pcOf s t)) t 5) f) ∧
      ∀ v, tileOf u v = tileOf (haltTile (recordErr s t code slot (pcOf s t)) t 5) v := by
    have hc : catchUp s t = s := by simp [catchUp, hs]
    refine ⟨_, rfl, ?_⟩
    simp only [progErr, progErrAt, hc]
    split <;> simp
  have hne : ∀ {f : Nat → Fld}, TileField f → (f 0).key ≠ (TIL_SEQ_STATUS_state 0).key → (f 0).key ≠ (CH_WDOG_stalled 0).key →
      rd u (f t) = rd (recordErr s t code slot (pcOf s t)) (f t) := fun hf h1 h2 => (hrd _).trans (hh _ (by
    simp only [List.forall_mem_cons, List.not_mem_nil, false_imp_iff, implies_true, and_true]
    exact ⟨hf.ne tileField_TIL_SEQ_STATUS_state t h1, hf.ne tileField_CH_WDOG_stalled t h2⟩))
  rw [hu]
  refine ⟨(hrd _).trans hst, ?_, (hne tileField_TIL_CAUSE_cause (by decide) (by decide)).trans hcause,
    (congrArg Tile.waits (htl t)).trans hw, (congrArg Tile.hold (htl t)).trans hhold, fun g hg => ?_, fun v hv => ?_⟩
  · simp only [errRecord, List.forall_mem_cons, List.not_mem_nil, false_imp_iff, implies_true, and_true] at hrec ⊢
    rw [hne tileField_TIL_ERR_code (by decide) (by decide), hne tileField_TIL_ERR_slot (by decide) (by decide),
      hne tileField_TIL_ERR_pc (by decide) (by decide), hne tileField_TIL_ERR_valid (by decide) (by decide),
      hne tileField_TIL_ERR_TICK_tick (by decide) (by decide)]
    exact hrec
  · refine (hrd g).trans ((hh g fun y hy => hg y ?_).trans (hkept g fun y hy => hg y ?_))
    · simp only [List.mem_cons, List.not_mem_nil, or_false] at hy
      rcases hy with rfl | rfl <;> simp [errFields]
    · simp only [errRecord, List.map_cons, List.map_nil, List.mem_cons, List.not_mem_nil, or_false] at hy
      rcases hy with rfl | rfl | rfl | rfl | rfl | rfl <;> simp [errFields]
  · exact (htl v).trans ((ho v hv).trans (tileOf_congr v htiles))

/-! ## TRAP (R72, R239) -/

theorem trap_stops {s : State} {t : Nat} (h : SeqReady s t) (hv : rd s (TIL_ERR_valid t) = 0) (code : BitVec 8) :
    Gives (.trap t code) s fun u =>
      seqState u t = 5 ∧ rd u (TIL_SEQ_STATUS_halt_code t) = code.toNat ∧ rd u (TIL_ERR_code t) = 4 ∧ rd u (TIL_ERR_slot t) = 0 ∧
      rd u (TIL_ERR_pc t) = pcOf s t % 2 ^ 14 ∧ rd u (TIL_ERR_valid t) = 1 ∧ rd u (TIL_ERR_TICK_tick t) = tickOf s t % 2 ^ 48 ∧
      rd u (TIL_CAUSE_cause t) = withBit s (TIL_CAUSE_cause t) 0 ∧ (tileOf u t).waits = [] ∧ (tileOf u t).hold = none ∧
      pcOf u t = pcOf s t ∧ tickOf u t = tickOf s t ∧ TilesKeptBut s u t ∧
      FieldsKept s u [TIL_SEQ_STATUS_halt_code t, TIL_SEQ_STATUS_state t, TIL_ERR_code t, TIL_ERR_slot t, TIL_ERR_pc t, TIL_ERR_valid t,
        TIL_ERR_TICK_tick t, TIL_CAUSE_cause t, CH_WDOG_stalled t] := by
  generalize hr : wr (running s t) (TIL_SEQ_STATUS_halt_code t) code.toNat = r
  have hrd : ∀ {f : Nat → Fld}, TileField f → (f 0).key ≠ (TIL_SEQ_STATUS_state 0).key →
      (f 0).key ≠ (TIL_SEQ_STATUS_halt_code 0).key → rd r (f t) = rd s (f t) := fun hf h1 h2 => by
    rw [← hr]
    exact (rd_wr_ne _ _ (hf.ne tileField_TIL_SEQ_STATUS_halt_code t h2)).trans
      (rd_running s t (hf.ne tileField_TIL_SEQ_STATUS_state t h1))
  have hpc : pcOf r t = pcOf s t := hrd tileField_TIL_SEQ_STATUS_pc (by decide) (by decide)
  have htick : tickOf r t = tickOf s t := hrd tileField_TIL_TICK_tick (by decide) (by decide)
  have hst : seqState r t = 1 := by
    rw [← hr]
    exact (rd_wr_ne _ _ (tileField_TIL_SEQ_STATUS_state.ne tileField_TIL_SEQ_STATUS_halt_code t)).trans (seqState_running s t)
  have hP := progErr_stops hst ((hrd tileField_TIL_ERR_valid (by decide) (by decide)).trans hv) errTrap 0
  obtain ⟨hcode, hslot, hepc, hvalid, hetick⟩ : rd (progErr r t errTrap 0) (TIL_ERR_code t) = 4 ∧
      rd (progErr r t errTrap 0) (TIL_ERR_slot t) = 0 ∧ rd (progErr r t errTrap 0) (TIL_ERR_pc t) = pcOf s t % 2 ^ 14 ∧
      rd (progErr r t errTrap 0) (TIL_ERR_valid t) = 1 ∧ rd (progErr r t errTrap 0) (TIL_ERR_TICK_tick t) = tickOf s t % 2 ^ 48 := by
    have hrec := hP.record
    simp only [errRecord, List.forall_mem_cons, List.not_mem_nil, false_imp_iff, implies_true, and_true, hpc, htick] at hrec
    exact hrec
  have hkept : FieldsKept s (progErr r t errTrap 0) (TIL_SEQ_STATUS_halt_code t :: errFields t) := fun g hg => by
    refine (hP.kept g fun y hy => hg y (List.mem_cons_of_mem _ hy)).trans ?_
    rw [← hr]
    exact (rd_wr_ne _ _ (hg _ List.mem_cons_self)).trans (rd_running s t (hg _ (by simp [errFields])))
  have hstand : ∀ {f : Nat → Fld}, TileField f → (∀ g ∈ errFields 0, (f 0).key ≠ g.key) →
      rd (progErr r t errTrap 0) (f t) = rd r (f t) := fun hf h0 => by
    refine hP.kept _ ?_
    simp only [errFields, List.forall_mem_cons, List.not_mem_nil, false_imp_iff, implies_true, and_true] at h0 ⊢
    rw [hf t, tileField_TIL_SEQ_STATUS_state t, tileField_TIL_ERR_code t, tileField_TIL_ERR_slot t, tileField_TIL_ERR_pc t,
      tileField_TIL_ERR_valid t, tileField_TIL_ERR_TICK_tick t, tileField_TIL_CAUSE_cause t, tileField_CH_WDOG_stalled t]
    omega
  refine ⟨progErr r t errTrap 0, ?_, hP.state, ?_, hcode, hslot, hepc, hvalid, hetick, hP.cause.trans ?_, hP.waits, hP.hold, ?_, ?_,
    fun v hv => (hP.others v hv).trans (hr ▸ rfl), hkept⟩
  · refine (issueBundle_alone (⟨.trap t code, opTrap t code⟩ : SlotOp) h.alone).trans (congrArg Host.Outcome.next ?_)
    rw [issueSeq_ready h]
    simp only [hr]
    exact if_neg (by simp [issuing, hP.state])
  · refine (hstand tileField_TIL_SEQ_STATUS_halt_code (by decide)).trans ?_
    rw [← hr]
    exact (rd_wr_self _ _ _).trans (Nat.mod_eq_of_lt code.isLt)
  · rw [withBit, withBit, hrd tileField_TIL_CAUSE_cause (by decide) (by decide)]
  · exact (hstand tileField_TIL_SEQ_STATUS_pc (by decide)).trans hpc
  · exact (hstand tileField_TIL_TICK_tick (by decide)).trans htick

/-! ## DIGEST (R334, R336) -/

theorem auditOn_running (s : State) (t q : Nat) : auditOn (running s t) q = auditOn s q := by
  have h : rd (running s t) (AUD_CFG_en q) = rd s (AUD_CFG_en q) := rd_running s t (by
    simp only [Fld.key, AUD_CFG_en, TIL_SEQ_STATUS_state]
    omega)
  simp only [auditOn, on, h]

section
variable {s : State} {t : Nat}

theorem digest_passes (h : SeqReady s t) (ha : auditOn s (tilePart s t) = false) (l : BitVec 16) :
    Gives (.digest t l) s fun u => Moved s u t (tileOf s t) none 1 :=
  ⟨_, issueBundle_alone ⟨.digest t l, opDigest t l⟩ h.alone, issueSeq_passes h (if_pos (by simp [auditOn_running, tilePart_running, ha]))⟩

theorem digest_opens (h : SeqReady s t) (ha : auditOn s (tilePart s t) = true) {l : BitVec 16}
    (hf : (tileOf s t).layers.find? (·.layer == l.toNat) = none) (hn : (tileOf s t).layers.length < 256) :
    Gives (.digest t l) s fun u => Moved s u t { tileOf s t with
      segTags := [], layers := insertBy (·.layer) ⟨l.toNat, 1, sha384 (List.replicate 48 0 ++ sha384 (tileOf s t).segTags.flatten)⟩
        (tileOf s t).layers } none 1 :=
  ⟨_, issueBundle_alone ⟨.digest t l, opDigest t l⟩ h.alone, issueSeq_moved (f := fun x => { x with
      segTags := [], layers := insertBy (·.layer) ⟨l.toNat, 1, sha384 (List.replicate 48 0 ++ sha384 x.segTags.flatten)⟩ x.layers }) h
    (by simp only [auditOn_running, tilePart_running, ha, tileOf_running, hf, hn, if_true]; rfl) h.2.2 rfl⟩

theorem digest_folds (h : SeqReady s t) (ha : auditOn s (tilePart s t) = true) {l : BitVec 16} {d : LayerDig}
    (hf : (tileOf s t).layers.find? (·.layer == l.toNat) = some d) :
    Gives (.digest t l) s fun u => Moved s u t { tileOf s t with
      segTags := [], layers := (tileOf s t).layers.map fun e => if e.layer = d.layer then
        ⟨d.layer, d.closes + 1, sha384 (d.digest ++ sha384 (tileOf s t).segTags.flatten)⟩ else e } none 1 :=
  ⟨_, issueBundle_alone ⟨.digest t l, opDigest t l⟩ h.alone, issueSeq_moved (f := fun x => { x with
      segTags := [], layers := x.layers.map fun e => if e.layer = d.layer then
        ⟨d.layer, d.closes + 1, sha384 (d.digest ++ sha384 x.segTags.flatten)⟩ else e }) h
    (by simp only [auditOn_running, tilePart_running, ha, tileOf_running, hf]; rfl) h.2.2 rfl⟩

end

end Sys2Proof.Machine
end

section
namespace Sys2Proof.Machine

-- One proof after another: many at once take more memory, in a text this long, than its compile has.
set_option Elab.async false

/-! ## REFR (07_memory_tiers_and_transfers.md, R71, R174, R178) -/

/-- Static slots have moved: of every tile marks and scheduled accesses alone, of the registers BDR_STATIC alone (R174, R178). -/
structure SlotsMoved (s u : State) : Prop where
  kept : ∀ f : Fld, (∀ v, f.key ≠ (BDR_STATIC_held_ticks v).key ∧ f.key ≠ (BDR_STATIC_conflicts v).key) → rd u f = rd s f
  tiles : ∀ v, ∃ mk mi, tileOf u v = { tileOf s v with marks := mk, micros := mi }
  rest : u = { s with regs := u.regs, tiles := u.tiles }

theorem SlotsMoved.refl (s : State) : SlotsMoved s s := ⟨fun _ _ => rfl, fun _ => ⟨_, _, rfl⟩, rfl⟩

theorem SlotsMoved.trans {a b c : State} (h : SlotsMoved a b) (g : SlotsMoved b c) : SlotsMoved a c := by
  refine ⟨fun f hf => (g.kept f hf).trans (h.kept f hf), fun v => ?_, ?_⟩
  · obtain ⟨mk, mi, e⟩ := h.tiles v
    obtain ⟨mk', mi', e'⟩ := g.tiles v
    exact ⟨mk', mi', by rw [e', e]⟩
  · have hg := g.rest
    rw [h.rest] at hg
    exact hg

theorem slotsMoved_bump {s : State} {f : Fld} (n : Nat)
    (hf : ∃ v, f = BDR_STATIC_held_ticks v ∨ f = BDR_STATIC_conflicts v) : SlotsMoved s (bump s f n) := by
  obtain ⟨v, hv⟩ := hf
  refine ⟨fun g hg => rd_bump_ne s n ?_, fun _ => ⟨_, _, rfl⟩, rfl⟩
  rcases hv with rfl | rfl
  · exact (hg v).1
  · exact (hg v).2

theorem slotsMoved_delayLine (s : State) (t issued line d kind : Nat) :
    SlotsMoved s (modTile s t fun x => delayLine x issued line d kind) := by
  refine ⟨fun _ _ => rfl, fun v => ?_, rfl⟩
  by_cases hv : v = t
  · subst hv
    exact ⟨_, _, tileOf_modTile_self s v _⟩
  · exact ⟨_, _, tileOf_modTile_ne s _ hv⟩

theorem SlotsMoved.foldl {α : Type} {g : State → α → State} (hg : ∀ s a, SlotsMoved s (g s a)) (l : List α) (s : State) :
    SlotsMoved s (l.foldl g s) := by
  induction l generalizing s with
  | nil => exact .refl s
  | cons a l ih => exact (hg s a).trans (ih (g s a))

/-- The claims of a region placed again (R174). -/
def placedClaims (s : State) (region busyFrom busyTo : Nat) : List Placed :=
  placeClaims busyFrom busyTo (sortBy (fun c => 2 ^ 52 * c.tile + c.tick) (s.claims.filter (·.region == region)))

/-- A region whose claims have been placed again moves slots, and no claim of another region. -/
theorem settleRegion_moves (s : State) (region busyFrom busyTo : Nat) : SlotsMoved
    { s with claims := s.claims.filter (·.region != region) ++ (placedClaims s region busyFrom busyTo).map (·.claim) }
    (settleRegion s region busyFrom busyTo) := by
  unfold settleRegion placedClaims
  extract_lets mine rest placed s1
  refine SlotsMoved.foldl (fun s p => ?_) _ _
  split
  · exact .refl s
  · extract_lets s2 s3
    have h3 : SlotsMoved s s3 := (slotsMoved_delayLine s _ _ _ _ _).trans (slotsMoved_bump _ ⟨_, .inl rfl⟩)
    split
    · exact h3.trans (slotsMoved_bump _ ⟨_, .inr rfl⟩)
    · exact h3

/-- A field of a tile's block outside BDR_STATIC stands while static slots move. -/
theorem SlotsMoved.reads {s u : State} (h : SlotsMoved s u) {f : Nat → Fld} (hf : TileField f) (t : Nat)
    (hn : (f 0).key % 0x400000 ≠ (BDR_STATIC_held_ticks 0).key % 0x400000 ∧
      (f 0).key % 0x400000 ≠ (BDR_STATIC_conflicts 0).key % 0x400000 := by decide) : rd u (f t) = rd s (f t) := by
  refine h.kept _ fun v => ?_
  rw [hf t, tileField_BDR_STATIC_held_ticks v, tileField_BDR_STATIC_conflicts v]
  omega

/-- A tile goes on after the end of a bundle: what of it the refresh of a region can be seen by (R64, R69, R71). -/
structure GoesOn (s u : State) (t next cost : Nat) : Prop where
  pc : pcOf u t = next % 2 ^ 14
  tick : tickOf u t = min (tickOf s t + cost) (2 ^ 48 - 1)
  runs : seqState u t = 1
  kept : FieldsKept s u (bundleFields t)
  refresh : (tileOf u t).refreshed = (tileOf s t).refreshed ∧ (tileOf u t).refrBusy = (tileOf s t).refrBusy
  rest : TilesRun s u

theorem endBundle_goesOn {s : State} {t : Nat} (hw : (tileOf s t).waits = []) (lims : Store Nat) (target : Option Nat) (cost : Nat) :
    GoesOn s (endBundle s t lims target cost) t (target.getD (nextBundle s t lims).2.2) cost := by
  have he : endBundle s t lims target cost =
      setTick (wr (bundleClosed s t lims target) (TIL_SEQ_STATUS_state t) 1) t (tickOf (bundleClosed s t lims target) t + cost) :=
    (endBundle_eq s t lims target cost).trans (if_pos (by rw [hw]; rfl))
  rw [he]
  have hc := fieldsKept_bundleClosed s t lims target
  have hcp := pcOf_bundleClosed s t lims target
  have hct := tileOf_bundleClosed s t lims target
  have hck := tickOf_bundleClosed s t lims target
  have hcr := tilesRun_bundleClosed s t lims target
  generalize bundleClosed s t lims target = c at hc hcp hct hck hcr
  have hT := setTick_frame (wr c (TIL_SEQ_STATUS_state t) 1) t (tickOf c t + cost)
  obtain ⟨m, w, r, mk, us, fr, ho⟩ := hT.own
  refine ⟨?_, hck ▸ hT.tick, ?_, fun g hg => ?_, ?_, (hcr.trans (tilesRun_wr c _ 1)).trans hT.tilesRun⟩
  · exact hT.pc.trans ((rd_wr_ne _ _ (tileField_TIL_SEQ_STATUS_pc.ne tileField_TIL_SEQ_STATUS_state t)).trans hcp)
  · exact (hT.reads tileField_TIL_SEQ_STATUS_state).trans (rd_wr_self _ _ _)
  · refine (hT.kept g fun y hy => hg y ?_).trans ((rd_wr_ne _ _ (hg _ (by simp [bundleFields]))).trans (hc g fun y hy => hg y ?_))
    · simp only [trayFields, List.mem_cons, List.not_mem_nil, or_false] at hy
      rcases hy with rfl | rfl | rfl | rfl | rfl | rfl <;> simp [bundleFields]
    · simp only [List.mem_cons, List.not_mem_nil, or_false] at hy
      rcases hy with rfl | rfl | rfl <;> simp [bundleFields]
  · rw [ho, tileOf_wr, hct]
    exact ⟨rfl, rfl⟩

theorem refr_refreshes {s : State} {t : Nat} (h : SeqReady s t) (g : BitVec 12) : Gives (.refr t g) s fun u =>
      Store.get? (tileOf u t).refreshed g.toNat = some s.now ∧ (tileOf u t).refrBusy = tickOf s t + 9 ∧
      rd u (BDR_REFRESH_refr t) = upBy s (BDR_REFRESH_refr t) 1 ∧ tickOf u t = min (tickOf s t + 1) (2 ^ 48 - 1) ∧ seqState u t = 1 ∧
      pcOf u t = (loopNext (tileOf s t).lims (pcOf s t) (tileOf s t).loops (tileOf s t).cnts).2.2 % 2 ^ 14 ∧
      (∀ c ∈ s.claims, c.region ≠ t → c ∈ u.claims) ∧ u.jobs = s.jobs ∧ u.runs = s.runs := by
  generalize hm : modTile (running s t) t (fun x => { x with
    refreshed := Store.set x.refreshed g.toNat s.now, refrBusy := tickOf s t + 9 }) = m
  have hmt : tileOf m t = { tileOf s t with refreshed := Store.set (tileOf s t).refreshed g.toNat s.now, refrBusy := tickOf s t + 9 } :=
    hm ▸ tileOf_modTile_self _ _ _
  have hmr : ∀ {f : Nat → Fld}, TileField f → (f 0).key ≠ (TIL_SEQ_STATUS_state 0).key → rd m (f t) = rd s (f t) := fun hf h1 =>
    hm ▸ rd_running s t (hf.ne tileField_TIL_SEQ_STATUS_state t h1)
  have hrefr : refreshRow (running s t) t g.toNat (tickOf (running s t) t) =
      settleRegion m t (gridTick (tileOf m t) (tickOf s t) + 1) (gridTick (tileOf m t) (tickOf s t) + 9) := by
    simp only [refreshRow, tickOf_running]
    rw [← hm]
    rfl
  have hS := settleRegion_moves m t (gridTick (tileOf m t) (tickOf s t) + 1) (gridTick (tileOf m t) (tickOf s t) + 9)
  generalize hv : settleRegion m t (gridTick (tileOf m t) (tickOf s t) + 1) (gridTick (tileOf m t) (tickOf s t) + 9) = v at hrefr hS
  have hvr : ∀ {f : Nat → Fld}, TileField f → (f 0).key ≠ (TIL_SEQ_STATUS_state 0).key →
      ((f 0).key % 0x400000 ≠ (BDR_STATIC_held_ticks 0).key % 0x400000 ∧
        (f 0).key % 0x400000 ≠ (BDR_STATIC_conflicts 0).key % 0x400000) → rd v (f t) = rd s (f t) := fun hf h1 h2 =>
    (hS.reads hf t h2).trans (hmr hf h1)
  obtain ⟨mk, mi, hvt⟩ := hS.tiles t
  have hvt : tileOf v t = { tileOf m t with marks := mk, micros := mi } := hvt
  generalize hb : bump v (BDR_REFRESH_refr t) 1 = b
  have hbr : ∀ {f : Nat → Fld}, TileField f → (f 0).key ≠ (BDR_REFRESH_refr 0).key → rd b (f t) = rd v (f t) := fun hf h1 =>
    hb ▸ rd_bump_ne v 1 (hf.ne tileField_BDR_REFRESH_refr t h1)
  have hbt : tileOf b t = tileOf v t := hb ▸ rfl
  have hbp : pcOf b t = pcOf s t :=
    (hbr tileField_TIL_SEQ_STATUS_pc (by decide)).trans (hvr tileField_TIL_SEQ_STATUS_pc (by decide) (by decide))
  have hbk : tickOf b t = tickOf s t :=
    (hbr tileField_TIL_TICK_tick (by decide)).trans (hvr tileField_TIL_TICK_tick (by decide) (by decide))
  have hbs : seqState b t = 1 := by
    refine (hbr tileField_TIL_SEQ_STATUS_state (by decide)).trans ((hS.reads tileField_TIL_SEQ_STATUS_state t).trans ?_)
    exact hm ▸ seqState_running s t
  have hbw : (tileOf b t).waits = [] := by
    rw [hbt, hvt, hmt]
    exact h.2.2
  obtain ⟨hpc, htick, hst, hkept, ⟨hrow, hbusy⟩, hrun⟩ := endBundle_goesOn hbw (tileOf s t).lims none 1
  have hN : nextBundle b t (tileOf s t).lims = loopNext (tileOf s t).lims (pcOf s t) (tileOf s t).loops (tileOf s t).cnts := by
    rw [nextBundle, hbp, hbt, hvt, hmt]
  have hclaims : b.claims = m.claims.filter (·.region != t) ++ (placedClaims m t (gridTick (tileOf m t) (tickOf s t) + 1)
      (gridTick (tileOf m t) (tickOf s t) + 9)).map (·.claim) := by
    rw [← hb, bump_claims, hS.rest]
  refine ⟨endBundle b t (tileOf s t).lims none 1, ?_, ?_, ?_, ?_, hbk ▸ htick, hst, by rw [hpc, hN, Option.getD_none], fun c hc ht => ?_,
    ?_, ?_⟩
  · refine (issueBundle_alone (⟨.refr t g, opRefr t g⟩ : SlotOp) h.alone).trans (congrArg Host.Outcome.next ?_)
    rw [issueSeq_ready h]
    simp only [hrefr, hb]
    exact if_pos (by simp [issuing, hbs])
  · rw [hrow, hbt, hvt, hmt]
    exact Store.get?_set_self _ _ _
  · rw [hbusy, hbt, hvt, hmt]
  · refine (hkept _ ?_).trans ?_
    · simp only [bundleFields, List.forall_mem_cons, List.not_mem_nil, false_imp_iff, implies_true, and_true,
        tileField_BDR_REFRESH_refr t, tileField_TIL_SEQ_STATUS_pc t, tileField_TIL_SEQ_STATUS_state t,
        tileField_TIL_SEQ_STATUS_loops_active t, tileField_TIL_TICK_tick t, tileField_CH_WDOG_stalled t, tileField_VE_TRAY_entries t,
        tileField_VE_TRAY_free_lines t, tileField_VE_TRAY_head_long t, tileField_VE_TRAY_head_visible t, tileField_VE_TRAY_peak_lines t]
      simp only [Nat.add_right_cancel_iff, ne_eq]
      decide
    · rw [← hb, rd_bump_self, hvr tileField_BDR_REFRESH_refr (by decide) (by decide), upBy]
  · have hcl : (endBundle b t (tileOf s t).lims none 1).claims = b.claims := by rw [hrun]
    rw [hcl, hclaims]
    exact List.mem_append_left _ (List.mem_filter.2 ⟨hm ▸ hc, by simpa using ht⟩)
  · rw [hrun, ← hb, bump_jobs, hS.rest, ← hm]
    rfl
  · rw [hrun, ← hb, bump_runs, hS.rest, ← hm]
    rfl

/-- Settles O19: TRAP is a program error of its bundle, REFR a refresh settled with the region's claims, DIGEST a change of its
tile where audit is enabled. -/
theorem trapsRefreshesAndDigests : Obligations.TrapsRefreshesAndDigests := by
  unfold Obligations.TrapsRefreshesAndDigests
  exact ⟨fun s t code h hv => trap_stops h hv code, fun s t g h => refr_refreshes h g, fun s t l h ha => digest_passes h ha l,
    fun s t l h ha hf hn => digest_opens h ha hf hn, fun s t l d h ha hf => digest_folds h ha hf⟩

end Sys2Proof.Machine
end

section
namespace Sys2Proof.Machine

-- One proof after another: many at once take more memory, in a text this long, than its compile has.
set_option Elab.async false

/-! ## Registers of the aides (06_vector_engine_and_aides.md, R157) -/

/-- A register read after one is written; x0 keeps its zero. -/
theorem Tile.reg_setReg (x : Tile) {i j r q : Nat} (v : Nat) (hr : r < 32) (hq : q < 32) :
    (x.setReg i r v).reg j q = if j = i ∧ q = r ∧ r ≠ 0 then v else x.reg j q := by
  by_cases h0 : r = 0
  · simp [Tile.setReg, h0]
  by_cases hq0 : q = 0
  · rw [if_neg (by omega)]
    simp [Tile.reg, hq0]
  by_cases he : j = i ∧ q = r
  · obtain ⟨rfl, rfl⟩ := he
    simp [Tile.setReg, Tile.reg, h0, Store.getD, Store.getD_put]
  · have hk : 32 * j + q ≠ 32 * i + r := by omega
    rw [if_neg fun h => he ⟨h.1, h.2.1⟩]
    simp [Tile.setReg, Tile.reg, h0, hq0, Store.getD, Store.get?_put_ne _ _ _ hk]

/-- One register of several aides written. -/
def Tile.setRegs (x : Tile) (l : List Nat) (r : Nat) (g : Nat → Nat) : Tile := l.foldl (fun z i => z.setReg i r (g i)) x

theorem Tile.reg_setRegs (l : List Nat) {r : Nat} (g : Nat → Nat) (x : Tile) {j q : Nat} (hr : r < 32) (hq : q < 32) :
    (x.setRegs l r g).reg j q = if j ∈ l ∧ q = r ∧ r ≠ 0 then g j else x.reg j q := by
  induction l generalizing x with
  | nil => simp [Tile.setRegs]
  | cons i l ih =>
    have hi : x.setRegs (i :: l) r g = (x.setReg i r (g i)).setRegs l r g := rfl
    rw [hi, ih, Tile.reg_setReg x _ hr hq]
    by_cases hj : j = i
    · subst hj
      by_cases hqr : q = r ∧ r ≠ 0 <;> simp [hqr]
    · simp [hj]

theorem Tile.setReg_aregs (x : Tile) (i r v : Nat) : ∃ g, x.setReg i r v = { x with aregs := g } := by
  unfold Tile.setReg
  split
  · exact ⟨_, rfl⟩
  · exact ⟨_, rfl⟩

theorem Tile.setRegs_aregs (l : List Nat) (r : Nat) (g : Nat → Nat) (x : Tile) : ∃ w, x.setRegs l r g = { x with aregs := w } := by
  induction l generalizing x with
  | nil => exact ⟨_, rfl⟩
  | cons i l ih =>
    obtain ⟨w, hw⟩ := ih (x.setReg i r (g i))
    obtain ⟨w', hw'⟩ := x.setReg_aregs i r (g i)
    exact ⟨w, hw.trans (by rw [hw'])⟩

theorem aidesRun_lt {x : Tile} {a : AidOp} {i : Nat} (h : i ∈ aidesRun x a) : i < 16 :=
  List.mem_range.1 (List.mem_filter.1 h).1

/-! ## An operation that writes a register (R158, R159) -/

/-- A slot operation whose effect is a change of its tile leaves the rest (R56). -/
theorem issued_modTile (s : State) (t : Nat) (f : Tile → Tile) : Issued s (modTile (running s t) t f) t [] :=
  ⟨seqState_running s t, fun _ hg => rd_running s t (hg _ List.mem_cons_self), fun _ hv => tileOf_modTile_ne (running s t) f hv, rfl⟩

/-- A tile with rd written on the aides that run an operation, marked until it is present. -/
def Tile.aideWritten (x : Tile) (a : AidOp) (tick lat : Nat) (g : Nat → Nat) : Tile :=
  let z := x.setRegs (aidesRun x a) a.rd.toNat g
  (if a.rd = 0 then z else z.mark [⟨.reg a.rd.toNat, 3, tick, tick + lat, tick + lat, false, 1⟩]).use (slotUse 3 tick 1)

theorem aideWrote_of {s u : State} {a : AidOp} {lat : Nat} {f : Tile → Nat → Nat} (hu : Issued s u a.t [])
    (ht : tileOf u a.t = (tileOf s a.t).aideWritten a (tickOf s a.t) lat (f (tileOf s a.t))) : AideWrote s u a lat f := by
  have hreg : ∀ i q, (tileOf u a.t).reg i q = ((tileOf s a.t).setRegs (aidesRun (tileOf s a.t) a) a.rd.toNat (f (tileOf s a.t))).reg i q := by
    intro i q
    rw [ht]
    unfold Tile.aideWritten
    split <;> rfl
  have h0 : a.rd ≠ 0 ↔ a.rd.toNat ≠ 0 := by simp [← BitVec.toNat_inj]
  refine ⟨fun i hi hr => ?_, fun i q hi hq hn => ?_, ?_, ?_, hu⟩
  · rw [hreg, Tile.reg_setRegs _ _ _ a.rd.isLt a.rd.isLt, if_pos ⟨hi, rfl, h0.1 hr⟩]
  · rw [hreg, Tile.reg_setRegs _ _ _ a.rd.isLt hq, if_neg]
    rintro ⟨hm, rfl, hr⟩
    rcases hn with h | h | h
    · exact h hm
    · exact h rfl
    · exact hr h
  · obtain ⟨w, hw⟩ := Tile.setRegs_aregs (aidesRun (tileOf s a.t) a) a.rd.toNat (f (tileOf s a.t)) (tileOf s a.t)
    rw [ht]
    unfold Tile.aideWritten
    rw [hw]
    split <;> rfl
  · obtain ⟨w, hw⟩ := Tile.setRegs_aregs (aidesRun (tileOf s a.t) a) a.rd.toNat (f (tileOf s a.t)) (tileOf s a.t)
    rw [ht]
    unfold Tile.aideWritten
    rw [hw]
    split
    · exact ⟨_, _, _, rfl⟩
    · exact ⟨_, _, _, rfl⟩

/-- An operation of the aides that `aidAlu` gives its meaning writes its result (R159). -/
theorem aideWrites_of {c : AidOp → Instr} {use : AidUse} {extra : AidOp → List Res} {lat : Nat} {f : AidOp → Tile → Nat → Nat}
    (hc : ∀ a s, exec (c a) s = issueBundle a.t ⟨c a, fun s => .next (aidAlu a use lat (extra a) (f a) s)⟩ s) :
    AideWrites c use extra lat f := by
  intro s a hb hr
  obtain ⟨ht, hs, hk⟩ := hr
  refine ⟨modTile (running s a.t) a.t fun y => y.aideWritten a (tickOf s a.t) lat (f a y), ?_,
    aideWrote_of (issued_modTile s a.t _) (tileOf_modTile_self _ _ _)⟩
  refine (hc a s).trans ((issueBundle_alone _ ht.alone).trans (congrArg Host.Outcome.next ?_))
  unfold aidAlu
  simp only [hb]
  exact issueOp_ready ht 3 (by rw [hs, hk]; rfl) false _

theorem aideWrites_congr {c : AidOp → Instr} {use : AidUse} {extra : AidOp → List Res} {lat : Nat} {f g : AidOp → Tile → Nat → Nat}
    (hc : AideWrites c use extra lat f) (hf : ∀ a x i, f a x i = g a x i) : AideWrites c use extra lat g :=
  (funext fun a => funext fun x => funext fun i => hf a x i : f = g) ▸ hc

/-- Settles O20: each operation is `aidAlu` with its own function of the tile. -/
theorem aideArithmetic : Obligations.AideArithmetic := by
  unfold Obligations.AideArithmetic
  refine ⟨?_, ?_, ?_, ?_, ?_, ?_, ?_, ?_, ?_, ?_, ?_, ?_, ?_, ?_, ?_, ?_, ?_, ?_, ?_, ?_⟩ <;> exact aideWrites_of fun a s => rfl

theorem b2n_decide (p : Prop) [Decidable p] : b2n (decide p) = if p then 1 else 0 := by
  by_cases h : p <;> simp [b2n, h]

/-- Settles O21: each operation is `aidAlu` with its own function of the tile. -/
theorem aideShiftsComparesAndHash : Obligations.AideShiftsComparesAndHash := by
  unfold Obligations.AideShiftsComparesAndHash
  refine ⟨?_, ?_, ?_, ?_, ?_, ?_, ?_, ?_, ?_⟩
  case refine_6 => exact aideWrites_congr (aideWrites_of fun a s => rfl) fun a x i => b2n_decide _
  case refine_7 => exact aideWrites_congr (aideWrites_of fun a s => rfl) fun a x i => b2n_decide _
  all_goals exact aideWrites_of fun a s => rfl

end Sys2Proof.Machine
end

section
namespace Sys2Proof.Machine

-- One proof after another: many at once take more memory, in a text this long, than its compile has.
set_option Elab.async false

/-! ## The slots of a bundle word (03_snielo_instruction_set.md, R55, R63, R74, R76 to R79) -/

/-- A field that stands at its bits is read back. -/
theorem fieldOf_eq {w : Nat} (x : BitVec w) (v lo : Nat) (h : v / 2 ^ lo % 2 ^ w = x.toNat := by omega) : fieldOf w v lo = x := by
  rw [fieldOf, bitsOf, h, BitVec.ofNat_toNat, BitVec.setWidth_eq]

theorem bitOf_eq (b : Bool) (v i : Nat) (h : v / 2 ^ i % 2 = b2n b := by omega) : bitOf v i = b := by
  rw [bitOf, h]
  cases b <;> rfl

/-- The opcode stands at the lowest bits of its slot. -/
theorem opcode_eq (v w k : Nat) (h : v % 2 ^ w = k := by omega) : bitsOf v 0 w = k := by
  rw [bitsOf, Nat.pow_zero, Nat.div_one, h]

theorem b2n_le_one (b : Bool) : b2n b ≤ 1 := Nat.le_of_lt_succ (b2n_lt_two b)

theorem bundleOps_word (t : Nat) {a b c d e f : Nat} (ha : a < 2 ^ 32) (hb : b < 2 ^ 48) (hc : c < 2 ^ 48) (hd : d < 2 ^ 64)
    (he : e < 2 ^ 40) (hf : f < 2 ^ 24) :
    bundleOps t (a + 2 ^ 32 * b + 2 ^ 80 * c + 2 ^ 128 * d + 2 ^ 192 * e + 2 ^ 232 * f) =
      [seqOp t a, meOp t b, veOp t c, aidOp t d, xferOp t e, chnOp t f] := by
  generalize hw : a + 2 ^ 32 * b + 2 ^ 80 * c + 2 ^ 128 * d + 2 ^ 192 * e + 2 ^ 232 * f = w
  have h0 : bitsOf w 0 32 = a := by unfold bitsOf; omega
  have h1 : bitsOf w 32 48 = b := by unfold bitsOf; omega
  have h2 : bitsOf w 80 48 = c := by unfold bitsOf; omega
  have h3 : bitsOf w 128 64 = d := by unfold bitsOf; omega
  have h4 : bitsOf w 192 40 = e := by unfold bitsOf; omega
  have h5 : bitsOf w 232 24 = f := by unfold bitsOf; omega
  rw [bundleOps, h0, h1, h2, h3, h4, h5]

section
variable (t : Nat)

/-! ### SEQ (R63) -/

theorem seqOp_setlim (c : BitVec 3) (l : BitVec 20) {v : Nat} (hv : v = 0x01 + 2 ^ 6 * c.toNat + 2 ^ 9 * l.toNat) :
    (seqOp t v).cmd = .setlim t c l := by
  simp only [seqOp, opcode_eq v 6 0x01, fieldOf_eq c v 6, fieldOf_eq l v 9]

theorem seqOp_loop (c : BitVec 3) (e : BitVec 14) {v : Nat} (hv : v = 0x02 + 2 ^ 6 * c.toNat + 2 ^ 9 * e.toNat) :
    (seqOp t v).cmd = .loop t c e := by
  simp only [seqOp, opcode_eq v 6 0x02, fieldOf_eq c v 6, fieldOf_eq e v 9]

theorem seqOp_jump (e : BitVec 14) {v : Nat} (hv : v = 0x03 + 2 ^ 6 * e.toNat) : (seqOp t v).cmd = .jump t e := by
  simp only [seqOp, opcode_eq v 6 0x03, fieldOf_eq e v 6]

theorem seqOp_brc (k : BitVec 2) (b : Bool) (e : BitVec 14) {v : Nat} (hv : v = 0x04 + 2 ^ 6 * k.toNat + 2 ^ 8 * b2n b + 2 ^ 9 * e.toNat) :
    (seqOp t v).cmd = .brc t k b e := by
  have hb := b2n_le_one b
  simp only [seqOp, opcode_eq v 6 0x04, fieldOf_eq k v 6, bitOf_eq b v 8, fieldOf_eq e v 9]

theorem seqOp_setcmp (k : BitVec 2) (c : BitVec 3) (d : BitVec 2) (h : BitVec 16) {v : Nat}
    (hv : v = 0x05 + 2 ^ 6 * k.toNat + 2 ^ 8 * c.toNat + 2 ^ 11 * d.toNat + 2 ^ 13 * h.toNat) :
    (seqOp t v).cmd = .setcmp t k c d h := by
  simp only [seqOp, opcode_eq v 6 0x05, fieldOf_eq k v 6, fieldOf_eq c v 8, fieldOf_eq d v 11, fieldOf_eq h v 13]

theorem seqOp_waitbell (m : BitVec 4) {v : Nat} (hv : v = 0x06 + 2 ^ 6 * m.toNat) : (seqOp t v).cmd = .waitbell t m := by
  simp only [seqOp, opcode_eq v 6 0x06, fieldOf_eq m v 6]

theorem seqOp_waittick (w : BitVec 26) {v : Nat} (hv : v = 0x07 + 2 ^ 6 * w.toNat) : (seqOp t v).cmd = .waittick t w := by
  simp only [seqOp, opcode_eq v 6 0x07, fieldOf_eq w v 6]

theorem seqOp_hint (m : BitVec 4) (n : BitVec 6) (g : BitVec 10) {v : Nat}
    (hv : v = 0x08 + 2 ^ 6 * m.toNat + 2 ^ 10 * n.toNat + 2 ^ 16 * g.toNat) :
    (seqOp t v).cmd = .hint t m n g := by
  simp only [seqOp, opcode_eq v 6 0x08, fieldOf_eq m v 6, fieldOf_eq n v 10, fieldOf_eq g v 16]

theorem seqOp_refr (r : BitVec 12) {v : Nat} (hv : v = 0x09 + 2 ^ 6 * r.toNat) : (seqOp t v).cmd = .refr t r := by
  simp only [seqOp, opcode_eq v 6 0x09, fieldOf_eq r v 6]

theorem seqOp_fence (f : BitVec 5) (b : Bool) {v : Nat} (hv : v = 0x0A + 2 ^ 7 * f.toNat + 2 ^ 12 * b2n b) :
    (seqOp t v).cmd = .fence t f b := by
  have hb := b2n_le_one b
  simp only [seqOp, opcode_eq v 6 0x0A, fieldOf_eq f v 7, bitOf_eq b v 12]

theorem seqOp_digest (h : BitVec 16) {v : Nat} (hv : v = 0x0B + 2 ^ 6 * h.toNat) : (seqOp t v).cmd = .digest t h := by
  simp only [seqOp, opcode_eq v 6 0x0B, fieldOf_eq h v 6]

theorem seqOp_trap (x : BitVec 8) {v : Nat} (hv : v = 0x0C + 2 ^ 6 * x.toNat) : (seqOp t v).cmd = .trap t x := by
  simp only [seqOp, opcode_eq v 6 0x0C, fieldOf_eq x v 6]

theorem seqOp_halt (x : BitVec 8) {v : Nat} (hv : v = 0x0D + 2 ^ 6 * x.toNat) : (seqOp t v).cmd = .halt t x := by
  simp only [seqOp, opcode_eq v 6 0x0D, fieldOf_eq x v 6]

/-! ### VE, XFER and CHN (R76, R78, R79) -/

theorem veOp_vchain (x : BitVec 8) (k : BitVec 2) (a : BitVec 6) (m : BitVec 10) (b : BitVec 6) (n : BitVec 10) {v : Nat}
    (hv : v = 0x01 + 2 ^ 6 * x.toNat + 2 ^ 14 * k.toNat + 2 ^ 16 * a.toNat + 2 ^ 22 * m.toNat + 2 ^ 32 * b.toNat + 2 ^ 38 * n.toNat) :
    (veOp t v).cmd = .vchain t x k a m b n := by
  simp only [veOp, opcode_eq v 6 0x01, fieldOf_eq x v 6, fieldOf_eq k v 14, fieldOf_eq a v 16, fieldOf_eq m v 22, fieldOf_eq b v 32,
    fieldOf_eq n v 38]

theorem veOp_vldk (c : BitVec 4) (a : BitVec 6) (m : BitVec 10) {v : Nat}
    (hv : v = 0x03 + 2 ^ 6 * c.toNat + 2 ^ 10 * a.toNat + 2 ^ 16 * m.toNat) :
    (veOp t v).cmd = .vldk t c a m := by
  simp only [veOp, opcode_eq v 6 0x03, fieldOf_eq c v 6, fieldOf_eq a v 10, fieldOf_eq m v 16]

theorem xferOp_lpass (b : Bool) (n : BitVec 10) (h : BitVec 16) {v : Nat}
    (hv : v = 0x01 + 2 ^ 5 * b2n b + 2 ^ 6 * n.toNat + 2 ^ 16 * h.toNat) :
    (xferOp t v).cmd = .lpass t b n h := by
  have hb := b2n_le_one b
  simp only [xferOp, opcode_eq v 5 0x01, bitOf_eq b v 5, fieldOf_eq n v 6, fieldOf_eq h v 16]

theorem xferOp_spass (a : BitVec 6) (x : BitVec 8) (d : BitVec 6) (y : BitVec 8) (c : BitVec 3) {v : Nat}
    (hv : v = 0x02 + 2 ^ 5 * a.toNat + 2 ^ 11 * x.toNat + 2 ^ 19 * d.toNat + 2 ^ 25 * y.toNat + 2 ^ 33 * c.toNat) :
    (xferOp t v).cmd = .spass t a x d y c := by
  simp only [xferOp, opcode_eq v 5 0x02, fieldOf_eq a v 5, fieldOf_eq x v 11, fieldOf_eq d v 19, fieldOf_eq y v 25, fieldOf_eq c v 33]

theorem xferOp_fill (a : BitVec 6) (r : BitVec 12) (x : BitVec 8) (y : BitVec 8) {v : Nat}
    (hv : v = 0x03 + 2 ^ 5 * a.toNat + 2 ^ 11 * r.toNat + 2 ^ 23 * x.toNat + 2 ^ 31 * y.toNat) :
    (xferOp t v).cmd = .fill t a r x y := by
  simp only [xferOp, opcode_eq v 5 0x03, fieldOf_eq a v 5, fieldOf_eq r v 11, fieldOf_eq x v 23, fieldOf_eq y v 31]

theorem xferOp_copy (a : BitVec 6) (x : BitVec 8) (d : BitVec 6) (y : BitVec 8) (z : BitVec 7) {v : Nat}
    (hv : v = 0x04 + 2 ^ 5 * a.toNat + 2 ^ 11 * x.toNat + 2 ^ 19 * d.toNat + 2 ^ 25 * y.toNat + 2 ^ 33 * z.toNat) :
    (xferOp t v).cmd = .copy t a x d y z := by
  simp only [xferOp, opcode_eq v 5 0x04, fieldOf_eq a v 5, fieldOf_eq x v 11, fieldOf_eq d v 19, fieldOf_eq y v 25, fieldOf_eq z v 33]

theorem xferOp_dload (a : BitVec 6) (r : BitVec 12) (d : BitVec 6) (x : BitVec 8) (c : BitVec 3) {v : Nat}
    (hv : v = 0x05 + 2 ^ 5 * a.toNat + 2 ^ 11 * r.toNat + 2 ^ 23 * d.toNat + 2 ^ 29 * x.toNat + 2 ^ 37 * c.toNat) :
    (xferOp t v).cmd = .dload t a r d x c := by
  simp only [xferOp, opcode_eq v 5 0x05, fieldOf_eq a v 5, fieldOf_eq r v 11, fieldOf_eq d v 23, fieldOf_eq x v 29, fieldOf_eq c v 37]

theorem xferOp_dstore (a : BitVec 6) (r : BitVec 12) (d : BitVec 6) (x : BitVec 8) (c : BitVec 3) {v : Nat}
    (hv : v = 0x06 + 2 ^ 5 * a.toNat + 2 ^ 11 * r.toNat + 2 ^ 23 * d.toNat + 2 ^ 29 * x.toNat + 2 ^ 37 * c.toNat) :
    (xferOp t v).cmd = .dstore t a r d x c := by
  simp only [xferOp, opcode_eq v 5 0x06, fieldOf_eq a v 5, fieldOf_eq r v 11, fieldOf_eq d v 23, fieldOf_eq x v 29, fieldOf_eq c v 37]

theorem chnOp_sinc (h : BitVec 16) (c : BitVec 3) {v : Nat} (hv : v = 0x01 + 2 ^ 5 * h.toNat + 2 ^ 21 * c.toNat) :
    (chnOp t v).cmd = .sinc t h c := by
  simp only [chnOp, opcode_eq v 5 0x01, fieldOf_eq h v 5, fieldOf_eq c v 21]

theorem chnOp_swait (h : BitVec 16) (b : Bool) {v : Nat} (hv : v = 0x02 + 2 ^ 5 * h.toNat + 2 ^ 21 * b2n b) :
    (chnOp t v).cmd = .swait t h b := by
  have hb := b2n_le_one b
  simp only [chnOp, opcode_eq v 5 0x02, fieldOf_eq h v 5, bitOf_eq b v 21]

theorem chnOp_csend (q : BitVec 4) (a : BitVec 6) (o : BitVec 9) {v : Nat}
    (hv : v = 0x03 + 2 ^ 5 * q.toNat + 2 ^ 9 * a.toNat + 2 ^ 15 * o.toNat) :
    (chnOp t v).cmd = .csend t q a o := by
  simp only [chnOp, opcode_eq v 5 0x03, fieldOf_eq q v 5, fieldOf_eq a v 9, fieldOf_eq o v 15]

theorem chnOp_crecv (q : BitVec 4) (a : BitVec 6) (o : BitVec 9) {v : Nat}
    (hv : v = 0x04 + 2 ^ 5 * q.toNat + 2 ^ 9 * a.toNat + 2 ^ 15 * o.toNat) :
    (chnOp t v).cmd = .crecv t q a o := by
  simp only [chnOp, opcode_eq v 5 0x04, fieldOf_eq q v 5, fieldOf_eq a v 9, fieldOf_eq o v 15]

theorem chnOp_qopen (q : BitVec 4) {v : Nat} (hv : v = 0x05 + 2 ^ 5 * q.toNat) : (chnOp t v).cmd = .qopen t q := by
  simp only [chnOp, opcode_eq v 5 0x05, fieldOf_eq q v 5]

theorem chnOp_qclose (q : BitVec 4) {v : Nat} (hv : v = 0x06 + 2 ^ 5 * q.toNat) : (chnOp t v).cmd = .qclose t q := by
  simp only [chnOp, opcode_eq v 5 0x06, fieldOf_eq q v 5]

end

/-! ### ME and AID (R74, R77) -/

/-- The fields of an ME slot, whatever its opcode. -/
def meOperands (o : MeOp) : Nat :=
  2 ^ 5 * o.fmt.toNat + 2 ^ 9 * b2n o.wbuf + 2 ^ 10 * o.adesc.toNat + 2 ^ 16 * o.aoff.toNat + 2 ^ 26 * o.acc.toNat +
    2 ^ 34 * o.acnt.toNat + 2 ^ 38 * o.accmode.toNat + 2 ^ 40 * b2n o.sparse + 2 ^ 41 * b2n o.amask + 2 ^ 42 * b2n o.exam +
    2 ^ 43 * b2n o.aus + 2 ^ 44 * b2n o.wus + 2 ^ 45 * o.pshift.toNat

/-- The opcode and the operands of an ME slot are read back. -/
theorem meOperands_read (o : MeOp) {k v : Nat} (hk : k < 2 ^ 5) (hv : v = k + meOperands o) :
    bitsOf v 0 5 = k ∧ (⟨o.t, fieldOf 4 v 5, bitOf v 9, fieldOf 6 v 10, fieldOf 10 v 16, fieldOf 8 v 26, fieldOf 4 v 34,
      fieldOf 2 v 38, bitOf v 40, bitOf v 41, bitOf v 42, bitOf v 43, bitOf v 44, fieldOf 2 v 45⟩ : MeOp) = o := by
  obtain ⟨t, fmt, wbuf, adesc, aoff, acc, acnt, accmode, sparse, amask, exam, aus, wus, pshift⟩ := o
  have h1 := b2n_le_one wbuf
  have h2 := b2n_le_one sparse
  have h3 := b2n_le_one amask
  have h4 := b2n_le_one exam
  have h5 := b2n_le_one aus
  have h6 := b2n_le_one wus
  simp only [meOperands] at hv
  refine ⟨opcode_eq v 5 k, ?_⟩
  rw [fieldOf_eq fmt v 5, bitOf_eq wbuf v 9, fieldOf_eq adesc v 10, fieldOf_eq aoff v 16, fieldOf_eq acc v 26, fieldOf_eq acnt v 34,
    fieldOf_eq accmode v 38, bitOf_eq sparse v 40, bitOf_eq amask v 41, bitOf_eq exam v 42, bitOf_eq aus v 43, bitOf_eq wus v 44,
    fieldOf_eq pshift v 45]

theorem meOp_encodes (o : MeOp) : (meOp o.t (0x01 + meOperands o)).cmd = .mma o ∧ (meOp o.t (0x02 + meOperands o)).cmd = .wload o ∧
    (meOp o.t (0x03 + meOperands o)).cmd = .emit o ∧ (meOp o.t (0x04 + meOperands o)).cmd = .azero o ∧
    (meOp o.t (0x05 + meOperands o)).cmd = .anchor o := by
  have h (k : Nat) (hk : k < 2 ^ 5) := meOperands_read o hk rfl
  simp only [meOp, (h 1 (by decide)).1, (h 1 (by decide)).2, (h 2 (by decide)).1, (h 2 (by decide)).2, (h 3 (by decide)).1,
    (h 3 (by decide)).2, (h 4 (by decide)).1, (h 4 (by decide)).2, (h 5 (by decide)).1, (h 5 (by decide)).2, and_self]

/-- Of entries with different keys, looking up the key of one finds it. -/
theorem find?_key {β : Type} {l : List (Nat × β)} (hn : (l.map (·.1)).Nodup) {p : Nat × β} (hp : p ∈ l) :
    l.find? (fun q => q.1 == p.1) = some p := by
  induction l with
  | nil => cases hp
  | cons q l ih =>
    obtain ⟨hq, hn⟩ := List.nodup_cons.1 hn
    rcases List.mem_cons.1 hp with rfl | hp
    · simp
    · have hne : (q.1 == p.1) = false := beq_eq_false_iff_ne.2 fun e => hq (List.mem_map.2 ⟨p, hp, e.symm⟩)
      rw [List.find?_cons_of_neg (by simp [hne]), ih hn hp]

theorem aidOps_keys : (aidOps.map (·.1)).Nodup ∧ ∀ k ∈ aidOps.map (·.1), k < 2 ^ 7 := by decide

theorem aidOp_encodes (a : AidOp) {p : Nat × (AidOp → Instr) × (AidOp → State → Host.Outcome State Fault Refusal)} (hp : p ∈ aidOps) :
    (aidOp a.t (p.1 + 2 ^ 7 * a.rd.toNat + 2 ^ 12 * a.rs1.toNat + 2 ^ 17 * a.rs2.toNat + 2 ^ 22 * a.pred.toNat +
      2 ^ 25 * b2n a.pneg + 2 ^ 32 * a.imm.toNat)).cmd = p.2.1 a := by
  obtain ⟨t, rd, rs1, rs2, pred, pneg, imm⟩ := a
  obtain ⟨hn, hlt⟩ := aidOps_keys
  have hk := hlt p.1 (List.mem_map_of_mem hp)
  have hb := b2n_le_one pneg
  simp only
  generalize hv : p.1 + 2 ^ 7 * rd.toNat + 2 ^ 12 * rs1.toNat + 2 ^ 17 * rs2.toNat + 2 ^ 22 * pred.toNat + 2 ^ 25 * b2n pneg +
    2 ^ 32 * imm.toNat = v
  simp only [aidOp, opcode_eq v 7 p.1, find?_key hn hp, fieldOf_eq rd v 7, fieldOf_eq rs1 v 12, fieldOf_eq rs2 v 17,
    fieldOf_eq pred v 22, bitOf_eq pneg v 25, fieldOf_eq imm v 32]

/-! ### Opcodes that name no operation (R57) -/

section
variable (t : Nat) {v : Nat}

theorem seqOp_none (h : v % 64 = 0 ∨ 0x0D < v % 64) : (seqOp t v).cmd = .nop t 0 := by
  unfold seqOp
  rw [opcode_eq v 6 (v % 64) rfl]
  split
  iterate 13 · omega
  · rfl

theorem meOp_none (h : v % 32 = 0 ∨ 0x05 < v % 32) : (meOp t v).cmd = .nop t 1 := by
  unfold meOp
  rw [opcode_eq v 5 (v % 32) rfl]
  extract_lets o
  split
  iterate 5 · omega
  · rfl

theorem veOp_none (h : v % 64 = 0 ∨ 0x03 < v % 64) : (veOp t v).cmd = .nop t 2 := by
  unfold veOp
  rw [opcode_eq v 6 (v % 64) rfl]
  split
  iterate 3 · omega
  · rfl

theorem aidOp_none (h : ∀ p ∈ aidOps, p.1 ≠ v % 128) : (aidOp t v).cmd = .nop t 3 := by
  have hf : aidOps.find? (fun p => p.1 == bitsOf v 0 7) = none := by
    rw [opcode_eq v 7 (v % 128) rfl, List.find?_eq_none]
    exact fun p hp => by simpa using h p hp
  unfold aidOp
  rw [hf]
  rfl

theorem xferOp_none (h : v % 32 = 0 ∨ 0x06 < v % 32) : (xferOp t v).cmd = .nop t 4 := by
  unfold xferOp
  rw [opcode_eq v 5 (v % 32) rfl]
  split
  iterate 6 · omega
  · rfl

theorem chnOp_none (h : v % 32 = 0 ∨ 0x06 < v % 32) : (chnOp t v).cmd = .nop t 5 := by
  unfold chnOp
  rw [opcode_eq v 5 (v % 32) rfl]
  split
  iterate 6 · omega
  · rfl

end

/-! ## The issue of a bundle (R56 to R58, R60, R235, R236, R239) -/

theorem exec_aidOps : ∀ p ∈ aidOps, ∀ a s, exec (p.2.1 a) s = issueBundle a.t ⟨p.2.1 a, p.2.2 a⟩ s := by
  simp only [aidOps, List.cons_append, List.nil_append, List.forall_mem_cons, List.not_mem_nil, false_imp_iff, implies_true, and_true]
  and_intros <;> exact fun _ _ => rfl

/-- Each slot operation of a bundle is issued with the bundle it belongs to. -/
theorem exec_of_mem_bundleOps {t v : Nat} {p : SlotOp} (h : p ∈ bundleOps t v) (s : State) : exec p.cmd s = issueBundle t p s := by
  simp only [bundleOps, List.mem_cons, List.not_mem_nil, or_false] at h
  rcases h with rfl | rfl | rfl | rfl | rfl | rfl
  · unfold seqOp
    split <;> rfl
  · unfold meOp
    extract_lets o
    split <;> rfl
  · unfold veOp
    split <;> rfl
  · unfold aidOp
    split
    next q _ _ hq => exact exec_aidOps _ (List.mem_of_find?_eq_some hq) _ s
    next => rfl
  · unfold xferOp
    split <;> rfl
  · unfold chnOp
    split <;> rfl

section
variable {s : State} {t : Nat} (hi : issuing s t = true) (hb : bubbled s t = false) (hp : pcOut s t = false) (hc : isCleared s t = false)
include hi hb hp hc

theorem issueBundle_reserved {k : Nat} (hr : reservedSlot (bundleWord s t) = some k) (o : SlotOp) :
    issueBundle t o s = .next (progErr s t errReserved k) := by
  simp only [issueBundle, hi, hb, hp, hc, hr, Bool.not_true, Bool.or_self, Bool.false_eq_true, if_false]

/-- A bundle with an operation beside that of SEQ, met first by one of its own operations, is judged with all six. -/
theorem issueBundle_judged (hr : reservedSlot (bundleWord s t) = none) (hw : 2 ^ 32 ≤ bundleWord s t) {o : SlotOp}
    (ho : o ∈ bundleOps t (bundleWord s t)) : issueBundle t o s =
      match holdOf ((bundleOps t (bundleWord s t)).map (verdict s t)) with
      | some (kind, slot, stall) => .next (holdTick s t kind slot stall)
      | none =>
        match (bundleOps t (bundleWord s t)).find? (fun o => (verdict s t o).isError) with
        | some q => q.run s
        | none => o.run { s with cleared := Store.set s.cleared t (pcOf s t, tickOf s t) } := by
  have hn : (bundleOps t (bundleWord s t)).any (·.cmd == o.cmd) = true := List.any_eq_true.2 ⟨o, ho, beq_self_eq_true _⟩
  have hm : ((bundleOps t (bundleWord s t)).map fun p => (p, verdict s t p)).map (·.2) =
    (bundleOps t (bundleWord s t)).map (verdict s t) := by
    rw [List.map_map]
    rfl
  have hf : ((bundleOps t (bundleWord s t)).map fun p => (p, verdict s t p)).find? (·.2.isError) =
      ((bundleOps t (bundleWord s t)).find? fun o => (verdict s t o).isError).map fun p => (p, verdict s t p) := List.find?_map
  simp only [issueBundle, hi, hb, hp, hc, hr, hn, hm, hf, Nat.not_lt.2 hw, Bool.not_true, Bool.or_self, Bool.false_eq_true, if_false,
    decide_false]
  rcases holdOf ((bundleOps t (bundleWord s t)).map (verdict s t)) with _ | ⟨k, n, b⟩
  · rcases (bundleOps t (bundleWord s t)).find? (fun o => (verdict s t o).isError) with _ | q <;> rfl
  · rfl

end

/-- Settles O60: the slots are read at their bits, and an operation of a bundle is issued by what `issueBundle` finds of all six. -/
theorem bundlesIssueAsAWhole : Obligations.BundlesIssueAsAWhole := by
  unfold Obligations.BundlesIssueAsAWhole
  refine ⟨fun t a b c d e f ha hb hc hd he hf => bundleOps_word t ha hb hc hd he hf,
    fun t c l e k d b h m w n g r f x => ⟨seqOp_setlim t c l rfl, seqOp_loop t c e rfl, seqOp_jump t e rfl, seqOp_brc t k b e rfl,
      seqOp_setcmp t k c d h rfl, seqOp_waitbell t m rfl, seqOp_waittick t w rfl, seqOp_hint t m n g rfl, seqOp_refr t r rfl,
      seqOp_fence t f b rfl, seqOp_digest t h rfl, seqOp_trap t x rfl, seqOp_halt t x rfl⟩,
    fun o v hv => hv ▸ meOp_encodes o,
    fun t x k a b m n c => ⟨veOp_vchain t x k a m b n rfl, rfl, veOp_vldk t c a m rfl⟩,
    fun a p hp => aidOp_encodes a hp,
    fun t b n h a d x y c r z => ⟨xferOp_lpass t b n h rfl, xferOp_spass t a x d y c rfl, xferOp_fill t a r x y rfl,
      xferOp_copy t a x d y z rfl, xferOp_dload t a r d x c rfl, xferOp_dstore t a r d x c rfl⟩,
    fun t h c b q a o => ⟨chnOp_sinc t h c rfl, chnOp_swait t h b rfl, chnOp_csend t q a o rfl, chnOp_crecv t q a o rfl,
      chnOp_qopen t q rfl, chnOp_qclose t q rfl⟩,
    fun t v => ⟨seqOp_none t, meOp_none t, veOp_none t, aidOp_none t, xferOp_none t, chnOp_none t⟩,
    fun s t v p ht hp => (exec_of_mem_bundleOps hp s).trans (issueBundle_alone p ht.alone),
    fun s t v k p hi hb hp hc hr hm => (exec_of_mem_bundleOps hm s).trans (issueBundle_reserved hi hb hp hc hr p),
    fun s t p hi hb hp hc hr hw hm => ?_⟩
  have he := (exec_of_mem_bundleOps hm s).trans (issueBundle_judged hi hb hp hc hr hw hm)
  refine ⟨fun k n b hh => ?_, fun q hh hq => ?_, fun hh hn => ?_⟩
  · rw [he, hh]
  · rw [he, hh]
    simp only [hq]
  · rw [he, hh]
    simp only [hn]

end Sys2Proof.Machine
end

section
namespace Sys2Proof.Machine

-- One proof after another: many at once take more memory, in a text this long, than its compile has.
set_option Elab.async false

/-! ## Accesses of one slot scheduled and run (03_snielo_instruction_set.md, R59; 06_vector_engine_and_aides.md, R168) -/

theorem insertBy_last {α : Type} {key : α → Nat} {x : α} {l : List α} (h : ∀ y ∈ l, key y ≤ key x) : insertBy key x l = l ++ [x] := by
  induction l with
  | nil => rfl
  | cons y l ih =>
    obtain ⟨hy, hl⟩ := List.forall_mem_cons.1 h
    rw [insertBy, if_neg (Nat.not_lt.2 hy), ih hl, List.cons_append]

theorem Micro.without_beaten {m e : Micro} (h : m.slot = e.slot) : m.without (m.beaten e) = m := by
  rw [Micro.beaten, if_neg (by omega)]
  rfl

/-- An access meets no write of its own slot. -/
theorem Tile.sched_sameSlot (x : Tile) (m : Micro) (h : ∀ e ∈ x.micros, e.slot = m.slot) :
    x.sched m = { x with micros := insertBy Micro.order m x.micros } := by
  have h1 : ∀ l : List Micro, (∀ e ∈ l, e.slot = m.slot) → l.foldl (fun m e => m.without (m.beaten e)) m = m := by
    intro l
    induction l with
    | nil => exact fun _ => rfl
    | cons e l ih =>
      intro hl
      obtain ⟨he, hl⟩ := List.forall_mem_cons.1 hl
      rw [List.foldl_cons, Micro.without_beaten he.symm, ih hl]
  have h2 : (x.micros.map fun e => e.without (e.beaten m)) = x.micros :=
    (List.map_congr_left fun e he => Micro.without_beaten (h e he)).trans (List.map_id' _)
  rw [Tile.sched, h1 _ h, h2]

/-- Accesses of one slot given in their order stand in it. -/
theorem Tile.schedAll_sorted {k : Nat} (l pre : List Micro) (x : Tile) (hx : x.micros = pre) (hs : ∀ m ∈ pre ++ l, m.slot = k)
    (ho : (pre ++ l).Pairwise fun m e => m.order ≤ e.order) : x.schedAll l = { x with micros := pre ++ l } := by
  induction l generalizing pre x with
  | nil => rw [List.append_nil, ← hx]; rfl
  | cons m l ih =>
    have hm : x.sched m = { x with micros := pre ++ [m] } := by
      rw [x.sched_sameSlot m, insertBy_last, hx]
      · exact hx ▸ fun e he => (List.pairwise_append.1 ho).2.2 e he m List.mem_cons_self
      · exact hx ▸ fun e he => (hs e (List.mem_append_left _ he)).trans (hs m (by simp)).symm
    have ha : pre ++ m :: l = (pre ++ [m]) ++ l := by simp
    rw [ha] at hs ho ⊢
    exact (congrArg (Tile.schedAll · l) hm).trans (ih (pre ++ [m]) _ rfl hs ho)

theorem readBytes_congr {s u : State} (h : u.mem = s.mem) (a n : Nat) : readBytes u a n = readBytes s a n := by
  induction n generalizing a with
  | zero => rfl
  | succ n ih => rw [readBytes, readBytes, ih, readByte, readByte, h]

/-- A due access at the head of a tile's list runs, and the rest after it. -/
theorem runMicros_cons {s : State} {t bound k : Nat} {m : Micro} {r : List Micro} (hm : (tileOf s t).micros = m :: r)
    (hd : m.order ≤ 16 * bound) : runMicros (k + 1) s t bound =
      runMicros k (runAct (modTile s t fun x => { x with micros := r }) t m.tick m.slot m.act) t bound := by
  rw [runMicros, hm]
  exact if_pos hd

theorem runMicros_nil {s : State} {t bound k : Nat} (hm : (tileOf s t).micros = []) : runMicros k s t bound = s := by
  cases k with
  | zero => rfl
  | succ k => rw [runMicros, hm]

/-- The bytes of a string written under whole masks are the string's (R168). -/
theorem writeBits_plain (s : State) (a : Nat) (bs : Bytes) : writeBits s a (plain bs) = writeBytes s a bs := by
  induction bs generalizing s a with
  | nil => rfl
  | cons b bs ih =>
    have hb : (readByte s a &&& ~~~(0xFF : Byte)) ||| (b &&& (0xFF : Byte)) = b := by
      rw [show (0xFF : Byte) = BitVec.allOnes 8 from rfl, BitVec.not_allOnes, BitVec.and_zero, BitVec.zero_or, BitVec.and_allOnes]
    have hw : writeBits s a (plain (b :: bs)) =
        writeBits (writeByte s a ((readByte s a &&& ~~~(0xFF : Byte)) ||| (b &&& (0xFF : Byte)))) (a + 1) (plain bs) := rfl
    rw [hw, hb, ih, writeBytes]

theorem tileOf_writeBytes (s : State) (a t : Nat) (bs : Bytes) : tileOf (writeBytes s a bs) t = tileOf s t :=
  tileOf_congr t (by rw [writeBytes_eq])

/-! ### Aide reads (R159, R160) -/

/-- The reads of a load or gather: of aide `p.1` at `p.2`. -/
def loadReads (r n : Nat) (sext : Bool) (tick : Nat) (ps : List (Nat × Nat)) : List Micro :=
  ps.map fun p => ⟨tick + 1, false, 3, .aideRead p.1 r p.2 n sext, tick⟩

/-- Run, they leave `g` in the register of each aide, where `g` gives what memory holds at its address. -/
theorem runMicros_loads {r n tick t bound : Nat} {sext : Bool} {g : Nat → Nat} (hr : r < 32) (hb : tick + 1 ≤ bound) (ps : List (Nat × Nat))
    (k : Nat) (s : State) (hk : ps.length ≤ k) (hm : (tileOf s t).micros = loadReads r n sext tick ps)
    (hg : ∀ p ∈ ps, loadValue (readBytes s p.2 n) sext = g p.1) :
    (runMicros k s t bound).mem = s.mem ∧ ∀ j q, q < 32 → (tileOf (runMicros k s t bound) t).reg j q =
      if j ∈ ps.map (·.1) ∧ q = r ∧ r ≠ 0 then g j else (tileOf s t).reg j q := by
  induction ps generalizing k s with
  | nil => simp [runMicros_nil hm]
  | cons p ps ih =>
    obtain ⟨k, rfl⟩ := Nat.exists_eq_add_of_lt (Nat.lt_of_lt_of_le (Nat.zero_lt_succ _) hk)
    obtain ⟨hp, hps⟩ := List.forall_mem_cons.1 hg
    have hm : (tileOf s t).micros = ⟨tick + 1, false, 3, .aideRead p.1 r p.2 n sext, tick⟩ :: loadReads r n sext tick ps := hm
    rw [Nat.zero_add, runMicros_cons hm (show 16 * (tick + 1) ≤ 16 * bound by omega)]
    simp only [runAct, modTile_modTile, readBytes_congr (modTile_mem s t _), hp]
    generalize hu : modTile s t (fun x => ({ x with micros := loadReads r n sext tick ps } : Tile).setReg p.1 r (g p.1)) = u
    have hmem : u.mem = s.mem := hu ▸ rfl
    have hut : tileOf u t = ({ tileOf s t with micros := loadReads r n sext tick ps } : Tile).setReg p.1 r (g p.1) :=
      hu ▸ tileOf_modTile_self _ _ _
    have hum : (tileOf u t).micros = loadReads r n sext tick ps := by
      obtain ⟨w, hw⟩ := Tile.setReg_aregs { tileOf s t with micros := loadReads r n sext tick ps } p.1 r (g p.1)
      rw [hut, hw]
    obtain ⟨h1, h2⟩ := ih k u (by simpa using hk) hum fun q hq => (congrArg (loadValue · sext) (readBytes_congr hmem q.2 n)).trans (hps q hq)
    refine ⟨h1.trans hmem, fun j q hq => (h2 j q hq).trans ?_⟩
    rw [hut, Tile.reg_setReg _ _ hr hq]
    simp only [List.map_cons, List.mem_cons]
    by_cases hj : j = p.1
    · by_cases hqr : q = r ∧ r ≠ 0
      · simp [hj, hqr]
      · simp [hqr, Tile.reg]
    · simp only [hj, false_and, if_false]
      exact if_congr (by simp only [false_or]) rfl rfl

/-! ### Writes of bytes (R59, R168) -/

/-- Strings of bytes written by one slot on one tick, in order. -/
def byteWrites (slot tick issued : Nat) (ps : List (Nat × Bytes)) : List Micro :=
  ps.map fun p => ⟨tick, true, slot, .write p.1 (plain p.2), issued⟩

/-- What strings written in order leave at an address where `v` stood. -/
def lastByte (b : Nat) (ps : List (Nat × Bytes)) (v : Byte) : Byte :=
  ps.foldl (fun v p => if p.1 ≤ b ∧ b < p.1 + p.2.length then p.2.getD (b - p.1) 0 else v) v

theorem lastByte_outside {b : Nat} {ps : List (Nat × Bytes)} (h : ∀ p ∈ ps, b < p.1 ∨ p.1 + p.2.length ≤ b) (v : Byte) :
    lastByte b ps v = v := by
  induction ps generalizing v with
  | nil => rfl
  | cons p ps ih =>
    obtain ⟨hp, hps⟩ := List.forall_mem_cons.1 h
    rw [lastByte, List.foldl_cons, if_neg (by omega)]
    exact ih hps v

/-- The last string that holds the address gives its byte. -/
theorem lastByte_last {a k : Nat} {bs : Bytes} {l r : List (Nat × Bytes)} (hk : k < bs.length)
    (hr : ∀ q ∈ r, a + k < q.1 ∨ q.1 + q.2.length ≤ a + k) (v : Byte) : lastByte (a + k) (l ++ (a, bs) :: r) v = bs.getD k 0 := by
  rw [lastByte, List.foldl_append, List.foldl_cons, if_pos ⟨Nat.le_add_right a k, Nat.add_lt_add_left hk a⟩, Nat.add_sub_cancel_left]
  exact lastByte_outside hr _

theorem runMicros_writes {slot tick issued t bound : Nat} (hb : 16 * tick + (8 + slot) ≤ 16 * bound) (ps : List (Nat × Bytes))
    (k : Nat) (s : State) (hk : ps.length ≤ k) (hm : (tileOf s t).micros = byteWrites slot tick issued ps) (b : Nat) :
    readByte (runMicros k s t bound) b = lastByte b ps (readByte s b) := by
  induction ps generalizing k s with
  | nil => rw [runMicros_nil hm]; rfl
  | cons p ps ih =>
    obtain ⟨k, rfl⟩ := Nat.exists_eq_add_of_lt (Nat.lt_of_lt_of_le (Nat.zero_lt_succ _) hk)
    have hm : (tileOf s t).micros = ⟨tick, true, slot, .write p.1 (plain p.2), issued⟩ :: byteWrites slot tick issued ps := hm
    rw [Nat.zero_add, runMicros_cons hm hb]
    simp only [runAct, writeBits_plain]
    generalize hu : modTile s t (fun x => { x with micros := byteWrites slot tick issued ps }) = u
    have hut : tileOf u t = { tileOf s t with micros := byteWrites slot tick issued ps } := hu ▸ tileOf_modTile_self _ _ _
    rw [ih k _ (by simpa using hk) (by rw [tileOf_writeBytes, hut]), readByte_writeBytes]
    exact hu ▸ rfl

/-! ## Loads and stores of the aides (R160) -/

theorem mem_goodOnes {l : List (Nat × (Nat ⊕ Nat))} {p : Nat × Nat} : p ∈ goodOnes l ↔ (p.1, .inl p.2) ∈ l := by
  obtain ⟨i, a⟩ := p
  simp only [goodOnes, List.mem_filterMap, Prod.exists]
  constructor
  · rintro ⟨j, c | c, hm, he⟩
    · obtain ⟨rfl, rfl⟩ := Prod.mk.inj (Option.some.inj he)
      exact hm
    · cases he
  · exact fun h => ⟨i, _, h, rfl⟩

/-- The good accesses come in the order of the accesses. -/
theorem goodOnes_sublist (l : List (Nat × (Nat ⊕ Nat))) : ((goodOnes l).map (·.1)).Sublist (l.map (·.1)) := by
  induction l with
  | nil => exact .slnil
  | cons p l ih =>
    obtain ⟨i, c | c⟩ := p
    · exact ih.cons_cons i
    · exact ih.cons i

section
variable {x : Tile} {a : AidOp} {n : Nat} {acc : Nat → Nat → Nat → Nat → Nat ⊕ Nat} {p : Nat × Nat}

theorem goodAccess (h : p ∈ goodOnes (aidAccesses x a n acc)) :
    p.1 ∈ aidesRun x a ∧ acc a.t p.1 (add64 (x.v1 a p.1) (immS a.imm)) n = .inl p.2 := by
  obtain ⟨i, hi, he⟩ := List.mem_map.1 (mem_goodOnes.1 h)
  obtain ⟨rfl, he⟩ := Prod.mk.inj he
  exact ⟨hi, he⟩

/-- The accesses stand in the order of their aides. -/
theorem goodAccess_sorted (x : Tile) (a : AidOp) (n : Nat) (acc : Nat → Nat → Nat → Nat → Nat ⊕ Nat) :
    (goodOnes (aidAccesses x a n acc)).Pairwise fun p q => p.1 < q.1 := by
  have hm : (aidAccesses x a n acc).map (·.1) = aidesRun x a := by
    rw [aidAccesses, List.map_map]
    exact List.map_id' _
  have hs := goodOnes_sublist (aidAccesses x a n acc)
  rw [hm] at hs
  exact List.pairwise_map.1 (List.pairwise_lt_range.sublist (hs.trans List.filter_sublist))

end

theorem readFinds_none {s : State} (h : s.upsets = []) (a n : Nat) : readFinds s a n = s := by
  simp [readFinds, findUpsets, h]

theorem readsFind_none {s : State} (h : s.upsets = []) (n : Nat) (l : List (Nat × Nat)) :
    l.foldl (fun s p => readFinds s p.2 n) s = s := by
  induction l with
  | nil => rfl
  | cons p l ih => rw [List.foldl_cons, readFinds_none h, ih]

/-- A tile with accesses scheduled, a result marked and the slot taken: what a load leaves of it. -/
def Tile.loading (x : Tile) (a : AidOp) (tick lat : Nat) (l : List Micro) : Tile :=
  let z := x.schedAll l
  (if a.rd = 0 then z else z.mark [⟨.reg a.rd.toNat, 3, tick, tick + lat, tick + lat, false, 1⟩]).use (slotUse 3 tick 1)

theorem Tile.loading_eq {x : Tile} {a : AidOp} {tick lat : Nat} {l : List Micro} (h : x.schedAll l = { x with micros := l }) :
    (x.loading a tick lat l).micros = l ∧ (x.loading a tick lat l).aregs = x.aregs := by
  unfold Tile.loading
  rw [h]
  split <;> exact ⟨rfl, rfl⟩

/-- Accesses of one slot and one order are scheduled as they are given. -/
theorem Tile.schedAll_level {x : Tile} (h : x.micros = []) {k o : Nat} {l : List Micro} (hl : ∀ m ∈ l, m.slot = k ∧ m.order = o) :
    x.schedAll l = { x with micros := l } :=
  x.schedAll_sorted l [] h (fun m hm => (hl m hm).1)
    (List.pairwise_of_forall_mem_list fun m hm e he => by rw [(hl m hm).2, (hl e he).2])

theorem schedAll_loads {x : Tile} (h : x.micros = []) (r n : Nat) (sext : Bool) (tick : Nat) (ps : List (Nat × Nat)) :
    x.schedAll (loadReads r n sext tick ps) = { x with micros := loadReads r n sext tick ps } :=
  Tile.schedAll_level (k := 3) (o := 16 * (tick + 1)) h fun m hm => by
    obtain ⟨p, -, rfl⟩ := List.mem_map.1 hm
    exact ⟨rfl, rfl⟩

theorem schedAll_writes {x : Tile} (h : x.micros = []) (slot tick issued : Nat) (ps : List (Nat × Bytes)) :
    x.schedAll (byteWrites slot tick issued ps) = { x with micros := byteWrites slot tick issued ps } :=
  Tile.schedAll_level (k := slot) (o := 16 * tick + (8 + slot)) h fun m hm => by
    obtain ⟨p, -, rfl⟩ := List.mem_map.1 hm
    exact ⟨rfl, rfl⟩

/-- What the good access of an aide reads, extended. -/
def loadedValue (s : State) (a : AidOp) (n : Nat) (sext : Bool) (acc : Nat → Nat → Nat → Nat → Nat ⊕ Nat) (i : Nat) : Nat :=
  match acc a.t i (add64 ((tileOf s a.t).v1 a i) (immS a.imm)) n with
  | .inl b => loadValue (readBytes s b n) sext
  | .inr _ => 0

/-- An operation that `aidLoad` gives its meaning loads (R160). -/
theorem aideLoads_of {c : AidOp → Instr} {op n lat : Nat} {sext : Bool} {acc : Nat → Nat → Nat → Nat → Nat ⊕ Nat}
    (hc : ∀ a s, exec (c a) s = issueBundle a.t ⟨c a, fun s => .next (aidLoad a op n lat sext acc s)⟩ s) : AideLoads c n sext acc := by
  intro s a hu hb hm hf hr
  obtain ⟨ht, hs, hk⟩ := hr
  have hsch := schedAll_loads hm a.rd.toNat n sext (tickOf s a.t) (goodOnes (aidAccesses (tileOf s a.t) a n acc))
  generalize hl : goodOnes (aidAccesses (tileOf s a.t) a n acc) = l at hk hsch
  have hval : ∀ p ∈ l, loadValue (readBytes s p.2 n) sext = loadedValue s a n sext acc p.1 := fun p hp => by
    have he := (goodAccess (hl.symm ▸ hp : p ∈ goodOnes (aidAccesses (tileOf s a.t) a n acc))).2
    rw [loadedValue, he]
  generalize hu' : modTile (running s a.t) a.t (fun y => y.loading a (tickOf s a.t) lat (loadReads a.rd.toNat n sext (tickOf s a.t) l)) = u
  have hut : tileOf u a.t = (tileOf s a.t).loading a (tickOf s a.t) lat (loadReads a.rd.toNat n sext (tickOf s a.t) l) :=
    hu' ▸ tileOf_modTile_self _ _ _
  obtain ⟨hum, hua⟩ := Tile.loading_eq (a := a) (tick := tickOf s a.t) (lat := lat) hsch
  rw [← hut] at hum hua
  have hmem : u.mem = s.mem := hu' ▸ rfl
  obtain ⟨hM, hR⟩ := runMicros_loads (t := a.t) (bound := tickOf s a.t + 2) a.rd.isLt (by omega) l (2 * (tileOf u a.t).micros.length) u
    (by rw [hum, loadReads, List.length_map]; omega) hum fun p hp =>
      (congrArg (loadValue · sext) (readBytes_congr hmem p.2 n)).trans (hval p hp)
  have h0 : a.rd ≠ 0 → a.rd.toNat ≠ 0 := fun h e => h (BitVec.toNat_inj.1 e)
  refine ⟨u, ?_, hu' ▸ issued_modTile s a.t _, fun p hp hrd => ?_, fun i q hi hq hn => ?_,
    fun b => congrArg (Memory.read · b) (hM.trans hmem)⟩
  · refine (hc a s).trans ((issueBundle_alone _ ht.alone).trans (congrArg Host.Outcome.next ?_))
    unfold aidLoad
    simp only [hb, hf, hl]
    rw [issueOp_ready ht 3 (by rw [hs, hk]; rfl), readsFind_none (s := running s a.t) hu]
    exact hu'
  · rw [runDue, hR _ _ a.rd.isLt, if_pos ⟨List.mem_map_of_mem hp, rfl, h0 hrd⟩, hval p hp]
  · rw [runDue, hR _ _ hq, if_neg, Tile.reg, hua]
    · rfl
    · rintro ⟨hm, rfl, hr⟩
      obtain ⟨p, hp, rfl⟩ := List.mem_map.1 hm
      rcases hn with h | h | h
      · exact h (goodAccess (hl.symm ▸ hp : p ∈ goodOnes (aidAccesses (tileOf s a.t) a n acc))).1
      · exact h rfl
      · exact hr h

/-- The strings that a store writes: the low bytes of rs2 at the address of each aide. -/
def storeBytes (x : Tile) (a : AidOp) (n : Nat) (l : List (Nat × Nat)) : List (Nat × Bytes) := l.map fun p => (p.2, toLE n (x.v2 a p.1))

theorem toLE_length (n v : Nat) : (toLE n v).length = n := by
  induction n generalizing v with
  | zero => rfl
  | succ n ih => rw [toLE, List.length_cons, ih]

/-- An operation that `aidStore` gives its meaning stores (R160). -/
theorem aideStores_of {c : AidOp → Instr} {op n lat : Nat} {acc : Nat → Nat → Nat → Nat → Nat ⊕ Nat}
    (hc : ∀ a s, exec (c a) s = issueBundle a.t ⟨c a, fun s => .next (aidStore a op n lat acc s)⟩ s) : AideStores c n acc := by
  intro s a hb hm hf hr
  obtain ⟨ht, hs, hk⟩ := hr
  have hord := goodAccess_sorted (tileOf s a.t) a n acc
  generalize hl : goodOnes (aidAccesses (tileOf s a.t) a n acc) = l at hk hord
  have hsch := schedAll_writes hm 3 (tickOf s a.t + 1) (tickOf s a.t) (storeBytes (tileOf s a.t) a n l)
  have hw : (l.map fun p => (⟨tickOf s a.t + 1, true, 3, .write p.2 (plain (toLE n ((tileOf s a.t).v2 a p.1))), tickOf s a.t⟩ : Micro)) =
      byteWrites 3 (tickOf s a.t + 1) (tickOf s a.t) (storeBytes (tileOf s a.t) a n l) := by
    rw [byteWrites, storeBytes, List.map_map]
    rfl
  generalize hu' : modTile (running s a.t) a.t (fun y => (((y.schedAll (l.map fun p =>
    ⟨tickOf s a.t + 1, true, 3, .write p.2 (plain (toLE n (y.v2 a p.1))), tickOf s a.t⟩)).mark
      (((l.map fun p => Res.bytes p.2 n).eraseDups).map fun k => ⟨k, 3, tickOf s a.t, tickOf s a.t + lat, tickOf s a.t + lat, false, 1⟩)).use
        (slotUse 3 (tickOf s a.t) 1))) = u
  have hut : (tileOf u a.t).micros = byteWrites 3 (tickOf s a.t + 1) (tickOf s a.t) (storeBytes (tileOf s a.t) a n l) ∧
      (tileOf u a.t).aregs = (tileOf s a.t).aregs := by
    rw [← hu', tileOf_modTile_self, tileOf_running, hw, hsch]
    exact ⟨rfl, rfl⟩
  obtain ⟨hum, hua⟩ := hut
  have hmem : u.mem = s.mem := hu' ▸ rfl
  have hR := fun b => (runMicros_writes (t := a.t) (bound := tickOf s a.t + 2) (by omega) _ (2 * (tileOf u a.t).micros.length) u
    (by rw [hum, byteWrites, List.length_map]; omega) hum b)
  refine ⟨u, ?_, hu' ▸ issued_modTile s a.t _, hua, hmem, fun p hp k hk' hq => ?_, fun b hb => ?_⟩
  · refine (hc a s).trans ((issueBundle_alone _ ht.alone).trans (congrArg Host.Outcome.next ?_))
    unfold aidStore
    simp only [hb, hf, hl]
    rw [issueOp_ready ht 3 (by rw [hs, hk]; rfl)]
    exact hu'
  · obtain ⟨l1, l2, rfl⟩ := List.append_of_mem hp
    have hlt : ∀ q ∈ l2, p.1 < q.1 := (List.pairwise_cons.1 (List.pairwise_append.1 hord).2.1).1
    have he : storeBytes (tileOf s a.t) a n (l1 ++ p :: l2) = storeBytes (tileOf s a.t) a n l1 ++
        (p.2, toLE n ((tileOf s a.t).v2 a p.1)) :: storeBytes (tileOf s a.t) a n l2 := by
      rw [storeBytes, List.map_append, List.map_cons]
      rfl
    rw [runDue, hR, he, lastByte_last (by rw [toLE_length]; exact hk')]
    intro q hm
    obtain ⟨q, hq2, rfl⟩ := List.mem_map.1 hm
    simpa [toLE_length] using hq q (List.mem_append_right _ (List.mem_cons_of_mem _ hq2)) (hlt q hq2)
  · rw [runDue, hR, lastByte_outside, readByte, hmem]
    · rfl
    · intro q hm
      obtain ⟨q, hq2, rfl⟩ := List.mem_map.1 hm
      simpa [toLE_length] using hb q hq2

/-! ### Request records (R159) -/

theorem goodOnes_inl (l : List Nat) (f : Nat → Nat) : goodOnes (l.map fun i => (i, .inl (f i))) = l.map fun i => (i, f i) := by
  rw [goodOnes, List.filterMap_map]
  exact List.filterMap_eq_map_iff_forall_eq_some.2 fun _ _ => rfl

theorem firstBad_inl (l : List Nat) (f : Nat → Nat) : firstBad (l.map fun i => (i, .inl (f i))) = none := by
  rw [firstBad, List.findSome?_map]
  exact List.findSome?_eq_none_iff.2 fun _ _ => rfl

theorem formFields_running (s : State) (t : Nat) : formFields (running s t) t = formFields s t := by
  simp only [formFields, jobRec_running]

section
variable {s : State} {a : AidOp} {off n : Nat}

/-- A field of the request form that every aide reads in its scratchpad, aligned, stands in rd (R159). -/
theorem aidDecode_reads {op : Nat} {val : Nat → Nat} (hu : s.upsets = []) (hb : aidBad { rs2 := false, immBits := 8 } a = false)
    (hf : a.imm.toNat < formFields s a.t)
    (hg : ∀ i ∈ aidesRun (tileOf s a.t) a, (tileOf s a.t).v1 a i + off + n ≤ 0x40000 ∧ ((tileOf s a.t).v1 a i + off) % n = 0) (hn : 0 < n)
    (hr : OpReady s a.t 3 (aidRes { rs2 := false, immBits := 8 } a ++ (aidesRun (tileOf s a.t) a).map fun i =>
      Res.bytes (aideBase a.t i + ((tileOf s a.t).v1 a i + off)) n)) :
    AideWrote s (aidDecode a op off n val s) a 6 (fun x i => val (leNat (readBytes s (aideBase a.t i + (x.v1 a i + off)) n))) ∨
      aidesRun (tileOf s a.t) a = [] := by
  by_cases h0 : aidesRun (tileOf s a.t) a = []
  · exact .inr h0
  obtain ⟨ht, hs, hk⟩ := hr
  have hacc : ((aidesRun (tileOf s a.t) a).map fun i => (i, ownAccess a.t i ((tileOf s a.t).v1 a i + off) n)) =
      (aidesRun (tileOf s a.t) a).map fun i => (i, .inl (aideBase a.t i + ((tileOf s a.t).v1 a i + off))) :=
    List.map_congr_left fun i hi => by
      obtain ⟨h1, h2⟩ := hg i hi
      rw [ownAccess, if_neg (by omega), if_neg (by omega)]
  obtain ⟨i0, hi0⟩ : ∃ i, (aidesRun (tileOf s a.t) a).head? = some i := Option.isSome_iff_exists.1 (List.isSome_head?.2 h0)
  have hd : aidDecode a op off n val s = modTile (running s a.t) a.t fun y =>
      let z := ((aidesRun (tileOf s a.t) a).map fun i =>
        (i, val (leNat (readBytes s (aideBase a.t i + ((tileOf s a.t).v1 a i + off)) n)))).foldl (fun z p => z.setReg p.1 a.rd.toNat p.2) y
      (if a.rd = 0 then z else z.mark [⟨.reg a.rd.toNat, 3, tickOf s a.t, tickOf s a.t + 6, tickOf s a.t + 6, false, 1⟩]).use
        (slotUse 3 (tickOf s a.t) 1) := by
    unfold aidDecode
    simp only [hb, hacc, goodOnes_inl, firstBad_inl, hi0, List.map_map]
    rw [issueOp_ready ht 3 (by rw [hs]; exact hk), formFields_running, if_neg (by omega), readsFind_none (s := running s a.t) hu]
    simp only [readBytes_congr (u := running s a.t) (s := s) rfl]
    rfl
  left
  rw [hd]
  refine aideWrote_of (issued_modTile s a.t _) ?_
  rw [tileOf_modTile_self, tileOf_running, List.foldl_map]
  rfl

end

/-! ### An access at fault (R160, R164) -/

theorem tileField_AID_ERR_INFO_cause : TileField AID_ERR_INFO_cause := fun t => by
  simp only [Fld.key, AID_ERR_INFO_cause, AID_ERR_INFO]
  omega
theorem tileField_AID_ERR_INFO_pc : TileField AID_ERR_INFO_pc := fun t => by
  simp only [Fld.key, AID_ERR_INFO_pc, AID_ERR_INFO]
  omega
theorem tileField_AID_ERR_INFO_aide : TileField AID_ERR_INFO_aide := fun t => by
  simp only [Fld.key, AID_ERR_INFO_aide, AID_ERR_INFO]
  omega
theorem tileField_AID_ERR_INFO_op : TileField AID_ERR_INFO_op := fun t => by
  simp only [Fld.key, AID_ERR_INFO_op, AID_ERR_INFO]
  omega

/-- An aide's program error is one of slot 3 of its bundle, its detail noted first (R160, R239). -/
theorem aidErr_eq (s : State) (t cause code aide op : Nat) : ∃ u, aidErr s t cause code aide op = progErr u t code 3 ∧
    ∀ {f : Nat → Fld}, TileField f → (f 0).key ≠ (AID_ERR_INFO_cause 0).key → (f 0).key ≠ (AID_ERR_INFO_pc 0).key →
      (f 0).key ≠ (AID_ERR_INFO_aide 0).key → (f 0).key ≠ (AID_ERR_INFO_op 0).key → rd u (f t) = rd s (f t) := by
  refine ⟨_, rfl, fun hf h1 h2 h3 h4 => ?_⟩
  split
  · refine rd_wrs_ne _ _ _ ?_
    simp only [List.forall_mem_cons, List.not_mem_nil, false_imp_iff, implies_true, and_true]
    exact ⟨hf.ne tileField_AID_ERR_INFO_cause t h1, hf.ne tileField_AID_ERR_INFO_pc t h2, hf.ne tileField_AID_ERR_INFO_aide t h3,
      hf.ne tileField_AID_ERR_INFO_op t h4⟩
  · rfl

theorem aidErr_stops {s : State} {t : Nat} (hs : seqState s t = 1) (hv : rd s (TIL_ERR_valid t) = 0) (cause code aide op : Nat) :
    seqState (aidErr s t cause code aide op) t = 5 ∧ rd (aidErr s t cause code aide op) (TIL_ERR_code t) = code % 2 ^ (TIL_ERR_code t).w ∧
      rd (aidErr s t cause code aide op) (TIL_ERR_slot t) = 3 := by
  obtain ⟨u, he, hu⟩ := aidErr_eq s t cause code aide op
  have hst : seqState u t = 1 := (hu tileField_TIL_SEQ_STATUS_state (by decide) (by decide) (by decide) (by decide)).trans hs
  have hvu : rd u (TIL_ERR_valid t) = 0 := (hu tileField_TIL_ERR_valid (by decide) (by decide) (by decide) (by decide)).trans hv
  obtain ⟨h5, hrec, -⟩ := progErr_stops hst hvu code 3
  rw [he]
  exact ⟨h5, hrec (TIL_ERR_code t, code) (by simp [errRecord]), hrec (TIL_ERR_slot t, 3) (by simp [errRecord])⟩

theorem ld64_faults {s : State} {a : AidOp} {i c : Nat} (hb : aidBad { rs2 := false, immBits := 32 } a = false)
    (hf : firstBad (aidAccesses (tileOf s a.t) a 8 ownAccess) = some (i, c)) (hv : rd s (TIL_ERR_valid a.t) = 0)
    (hr : OpReady s a.t 3 (aidRes { rs2 := false, immBits := 32 } a ++
      (goodOnes (aidAccesses (tileOf s a.t) a 8 ownAccess)).map fun p => Res.bytes p.2 8)) :
    Gives (.ld64 a) s fun u => seqState u a.t = 5 ∧ rd u (TIL_ERR_code a.t) = 1 ∧ rd u (TIL_ERR_slot a.t) = 3 := by
  obtain ⟨ht, hs, hk⟩ := hr
  have hvr : rd (running s a.t) (TIL_ERR_valid a.t) = 0 :=
    (rd_running s a.t (tileField_TIL_ERR_valid.ne tileField_TIL_SEQ_STATUS_state a.t)).trans hv
  refine ⟨aidErr (running s a.t) a.t c errRange i 0x23, ?_, aidErr_stops (seqState_running s a.t) hvr c errRange i 0x23⟩
  refine (issueBundle_alone (⟨.ld64 a, opLd64 a⟩ : SlotOp) ht.alone).trans (congrArg Host.Outcome.next ?_)
  unfold aidLoad
  simp only [hb, hf]
  exact issueOp_ready ht 3 (by rw [hs]; exact hk) false _

theorem decf_reads {s : State} {a : AidOp} (hu : s.upsets = []) (hb : aidBad { rs2 := false, immBits := 8 } a = false)
    (hf : a.imm.toNat < formFields s a.t)
    (hg : ∀ i ∈ aidesRun (tileOf s a.t) a, (tileOf s a.t).v1 a i + (0x20 + 8 * a.imm.toNat) + 8 ≤ 0x40000 ∧
      ((tileOf s a.t).v1 a i + (0x20 + 8 * a.imm.toNat)) % 8 = 0)
    (hr : OpReady s a.t 3 (aidRes { rs2 := false, immBits := 8 } a ++ (aidesRun (tileOf s a.t) a).map fun i =>
      Res.bytes (aideBase a.t i + ((tileOf s a.t).v1 a i + (0x20 + 8 * a.imm.toNat))) 8)) :
    Gives (.decf a) s fun u => AideWrote s u a 6 (fun x i =>
      leNat (readBytes s (aideBase a.t i + (x.v1 a i + (0x20 + 8 * a.imm.toNat))) 8)) ∨ aidesRun (tileOf s a.t) a = [] :=
  ⟨_, issueBundle_alone (⟨.decf a, opDecf a⟩ : SlotOp) hr.1.alone, aidDecode_reads (val := id) hu hb hf hg (by decide) hr⟩

theorem b2n_bitOf (v i : Nat) : b2n (bitOf v i) = v / 2 ^ i % 2 := by
  rcases Nat.mod_two_eq_zero_or_one (v / 2 ^ i) with h | h <;> simp [bitOf, b2n, h]

theorem deca_reads {s : State} {a : AidOp} (hu : s.upsets = []) (hb : aidBad { rs2 := false, immBits := 8 } a = false)
    (hf : a.imm.toNat < formFields s a.t)
    (hg : ∀ i ∈ aidesRun (tileOf s a.t) a, (tileOf s a.t).v1 a i + 0x18 + 4 ≤ 0x40000 ∧ ((tileOf s a.t).v1 a i + 0x18) % 4 = 0)
    (hr : OpReady s a.t 3 (aidRes { rs2 := false, immBits := 8 } a ++ (aidesRun (tileOf s a.t) a).map fun i =>
      Res.bytes (aideBase a.t i + ((tileOf s a.t).v1 a i + 0x18)) 4)) :
    Gives (.deca a) s fun u => AideWrote s u a 6 (fun x i =>
      leNat (readBytes s (aideBase a.t i + (x.v1 a i + 0x18)) 4) / 2 ^ a.imm.toNat % 2) ∨ aidesRun (tileOf s a.t) a = [] := by
  have hd := aidDecode_reads (op := 0x41) (val := fun v => b2n (bitOf v a.imm.toNat)) hu hb hf hg (by decide) hr
  exact ⟨_, issueBundle_alone (⟨.deca a, opDeca a⟩ : SlotOp) hr.1.alone, by simpa only [b2n_bitOf] using hd⟩

/-- Settles O23: the accesses of a load or store are scheduled in the order of the aides, and run on the tick after issue. -/
theorem aideLoadsAndStores : Obligations.AideLoadsAndStores := by
  unfold Obligations.AideLoadsAndStores
  exact ⟨aideLoads_of fun a s => rfl, aideLoads_of fun a s => rfl, aideLoads_of fun a s => rfl, aideLoads_of fun a s => rfl,
    aideLoads_of fun a s => rfl, aideLoads_of fun a s => rfl, aideLoads_of fun a s => rfl, aideLoads_of fun a s => rfl,
    aideLoads_of fun a s => rfl, aideStores_of fun a s => rfl, aideStores_of fun a s => rfl, aideStores_of fun a s => rfl,
    aideStores_of fun a s => rfl, aideStores_of fun a s => rfl, aideStores_of fun a s => rfl,
    fun s a hu hb hf hg hr => decf_reads hu hb hf hg hr, fun s a hu hb hf hg hr => deca_reads hu hb hf hg hr,
    fun s a i c hb hf hv hr => ld64_faults hb hf hv hr⟩

end Sys2Proof.Machine
end

section
namespace Sys2Proof.Machine

-- One proof after another: many at once take more memory, in a text this long, than its compile has.
set_option Elab.async false

/-! ## Lines under way (07_memory_tiers_and_transfers.md, R168, R169) -/

/-- An access that fills line `i` of `n` lines from `da` on with what `D` gives by offset, by tick `bound`: it writes the line, or moves
it from a line of memory `s` outside the `n` lines. -/
def LineDue (s : State) (da n bound : Nat) (D : Nat → Byte) (m : Micro) (i : Nat) : Prop :=
  m.order ≤ 16 * bound ∧ i < n ∧
    ((∃ bs, m.act = .write (da + 512 * i) (plain bs) ∧ bs.length = 512 ∧ ∀ j < 512, bs.getD j 0 = D (512 * i + j)) ∨
      ∃ src k, m.act = .moveLine src 512 (da + 512 * i) k ∧ 16 * k + (8 + m.slot) ≤ 16 * bound ∧
        (src + 512 ≤ da ∨ da + 512 * n ≤ src) ∧ ∀ j < 512, readByte s (src + j) = D (512 * i + j))

/-- Every scheduled access of a tile fills one of `n` lines, every line is filled or about to be, and no other byte has changed. -/
structure LinesUnderWay (s u : State) (t da n bound : Nat) (D : Nat → Byte) : Prop where
  due : ∀ m ∈ (tileOf u t).micros, ∃ i, LineDue s da n bound D m i
  line : ∀ i < n, (∃ m ∈ (tileOf u t).micros, LineDue s da n bound D m i) ∨ ∀ j < 512, readByte u (da + 512 * i + j) = D (512 * i + j)
  kept : MemKeptBut s u da (512 * n)

/-- The accesses that a scheduled access still makes. -/
def Micro.work (m : Micro) : Nat :=
  match m.act with
  | .moveLine .. => 2
  | _ => 1

/-- The accesses that scheduled accesses still make. -/
def microWork (l : List Micro) : Nat := (l.map Micro.work).sum

theorem microWork_insertBy (m : Micro) (l : List Micro) : microWork (insertBy Micro.order m l) = m.work + microWork l := by
  induction l with
  | nil => rfl
  | cons e l ih =>
    rw [insertBy]
    split
    · rfl
    · simp only [microWork, List.map_cons, List.sum_cons] at ih ⊢
      omega

theorem microWork_le (l : List Micro) : microWork l ≤ 2 * l.length := by
  induction l with
  | nil => exact Nat.le_refl 0
  | cons m l ih =>
    have hm : m.work ≤ 2 := by
      unfold Micro.work
      split <;> decide
    simp only [microWork, List.map_cons, List.sum_cons, List.length_cons] at ih ⊢
    omega

theorem mem_insertBy {α : Type} {key : α → Nat} {x y : α} {l : List α} : y ∈ insertBy key x l ↔ y = x ∨ y ∈ l := by
  induction l with
  | nil => simp [insertBy]
  | cons z l ih =>
    rw [insertBy]
    split
    · simp
    · rw [List.mem_cons, ih, List.mem_cons]
      tauto

theorem readBytes_getD (s : State) (a n j : Nat) (h : j < n) : (readBytes s a n).getD j 0 = readByte s (a + j) := by
  induction n generalizing a j with
  | zero => omega
  | succ n ih =>
    cases j with
    | zero => rfl
    | succ j => rw [readBytes, List.getD_cons_succ, ih _ _ (by omega), Nat.add_right_comm, Nat.add_assoc]

section
variable {s u : State} {t da n bound : Nat} {D : Nat → Byte}

/-- A line fills no other line. -/
theorem LineDue.unique {m : Micro} {i j : Nat} (hi : LineDue s da n bound D m i) (hj : LineDue s da n bound D m j) : i = j := by
  obtain ⟨-, -, ⟨bs, h, -⟩ | ⟨src, k, h, -⟩⟩ := hi <;> obtain ⟨-, -, ⟨bs', h', -⟩ | ⟨src', k', h', -⟩⟩ := hj <;>
    rw [h] at h' <;> injection h' <;> omega

/-- The first of the lines' accesses runs: they stay under way, with less to do. -/
theorem LinesUnderWay.step (h : LinesUnderWay s u t da n bound D) {m : Micro} {r : List Micro} (hm : (tileOf u t).micros = m :: r) :
    LinesUnderWay s (runAct (modTile u t fun x => { x with micros := r }) t m.tick m.slot m.act) t da n bound D ∧
      microWork (tileOf (runAct (modTile u t fun x => { x with micros := r }) t m.tick m.slot m.act) t).micros + 1 =
        microWork (tileOf u t).micros := by
  obtain ⟨hdue, hline, hkept⟩ := h
  rw [hm] at hdue hline ⊢
  obtain ⟨⟨i, hi⟩, hr⟩ := List.forall_mem_cons.1 hdue
  obtain ⟨ho, hin, ⟨bs, ha, hlen, hbs⟩ | ⟨src, k, ha, hk, hsrc, hD⟩⟩ := id hi
  · have hw : m.work = 1 := by rw [Micro.work, ha]
    have hmem : ∀ b, readByte (runAct (modTile u t fun x => { x with micros := r }) t m.tick m.slot m.act) b =
        if da + 512 * i ≤ b ∧ b < da + 512 * i + 512 then D (b - da) else readByte u b := by
      intro b
      rw [ha]
      simp only [runAct]
      rw [writeBits_plain, readByte_writeBytes, hlen]
      split
      next hb =>
        rw [hbs _ (by omega)]
        congr 1
        omega
      next => rfl
    have htile : tileOf (runAct (modTile u t fun x => { x with micros := r }) t m.tick m.slot m.act) t = { tileOf u t with micros := r } := by
      rw [ha]
      simp only [runAct]
      rw [writeBits_plain, tileOf_writeBytes, tileOf_modTile_self]
    generalize runAct (modTile u t fun x => { x with micros := r }) t m.tick m.slot m.act = v at hmem htile
    rw [htile]
    refine ⟨⟨by rwa [htile], fun j hj => ?_, fun b hb => ?_⟩, by simp only [microWork, List.map_cons, List.sum_cons, hw]; omega⟩
    · by_cases hji : j = i
      · subst hji
        right
        intro l hl
        rw [hmem, if_pos (by omega)]
        congr 1
        omega
      · rcases hline j hj with ⟨e, he, hej⟩ | hd
        · left
          rcases List.mem_cons.1 he with rfl | he
          · exact absurd (hej.unique hi) hji
          · exact ⟨e, htile ▸ he, hej⟩
        · right
          intro l hl
          rw [hmem, if_neg (by omega), hd l hl]
    · rw [hmem, if_neg (by omega), hkept b hb]
  · have hw : m.work = 2 := by rw [Micro.work, ha]
    generalize hv : runAct (modTile u t fun x => { x with micros := r }) t m.tick m.slot m.act = v
    have hmem : v.mem = u.mem := by rw [← hv, ha]; rfl
    have hrd : ∀ b, readByte v b = readByte u b := fun b => congrArg (Memory.read · b) hmem
    generalize he : (⟨k, true, m.slot, .write (da + 512 * i) (plain (readBytes u src 512)), m.tick⟩ : Micro) = e
    have htile : (tileOf v t).micros = insertBy Micro.order e r := by
      rw [← hv, ha, ← he]
      simp only [runAct, tileOf_modTile_self]
      rw [readBytes_congr (modTile_mem u t _)]
    have hei : LineDue s da n bound D e i := by
      refine ⟨he ▸ hk, hin, .inl ⟨readBytes u src 512, he ▸ rfl, readBytes_length u src 512, fun j hj => ?_⟩⟩
      rw [readBytes_getD u src 512 j hj, hkept _ (by omega), hD j hj]
    have hew : e.work = 1 := he ▸ rfl
    refine ⟨⟨?_, fun j hj => ?_, fun b hb => (hrd b).trans (hkept b hb)⟩, ?_⟩
    · rw [htile]
      intro x hx
      rcases mem_insertBy.1 hx with rfl | hx
      · exact ⟨i, hei⟩
      · exact hr x hx
    · rw [htile]
      rcases hline j hj with ⟨x, hx, hxj⟩ | hd
      · left
        rcases List.mem_cons.1 hx with rfl | hx
        · exact ⟨e, mem_insertBy.2 (.inl rfl), hxj.unique hi ▸ hei⟩
        · exact ⟨x, mem_insertBy.2 (.inr hx), hxj⟩
      · exact .inr fun l hl => (hrd _).trans (hd l hl)
    · rw [htile, microWork_insertBy, hew]
      simp only [microWork, List.map_cons, List.sum_cons, hw]
      omega

/-- With no access left, the lines hold what they are to hold. -/
theorem LinesUnderWay.done (h : LinesUnderWay s u t da n bound D) (hm : (tileOf u t).micros = []) :
    (∀ i < 512 * n, readByte u (da + i) = D i) ∧ MemKeptBut s u da (512 * n) := by
  obtain ⟨-, hline, hkept⟩ := h
  refine ⟨fun i hi => ?_, hkept⟩
  rcases hline (i / 512) (by omega) with ⟨m, hmem, -⟩ | hd
  · rw [hm] at hmem
    cases hmem
  · have h := hd (i % 512) (by omega)
    rwa [Nat.add_assoc, Nat.div_add_mod] at h

/-- Lines under way come to stand where they belong, and no other byte changes. -/
theorem LinesUnderWay.run {k : Nat} (h : LinesUnderWay s u t da n bound D) (hk : microWork (tileOf u t).micros ≤ k) :
    (∀ i < 512 * n, readByte (runMicros k u t bound) (da + i) = D i) ∧ MemKeptBut s (runMicros k u t bound) da (512 * n) := by
  induction k generalizing u with
  | zero =>
    cases hm : (tileOf u t).micros with
    | nil => exact h.done hm
    | cons m r =>
      have := (h.step hm).2
      omega
  | succ k ih =>
    cases hm : (tileOf u t).micros with
    | nil =>
      rw [runMicros_nil hm]
      exact h.done hm
    | cons m r =>
      obtain ⟨h1, h2⟩ := h.step hm
      obtain ⟨i, hi⟩ := h.due m (hm ▸ List.mem_cons_self)
      rw [runMicros_cons hm hi.1]
      exact ih h1 (by omega)

/-- The lines' accesses as they are scheduled. -/
theorem linesUnderWay_scheduled {f : Nat → Micro} (hu : u.mem = s.mem) (hm : (tileOf u t).micros = (List.range n).map f)
    (hf : ∀ i < n, LineDue s da n bound D (f i) i) : LinesUnderWay s u t da n bound D := by
  refine ⟨fun m h => ?_, fun i hi => .inl ⟨f i, hm ▸ List.mem_map_of_mem (List.mem_range.2 hi), hf i hi⟩,
    fun b _ => congrArg (Memory.read · b) hu⟩
  obtain ⟨i, hi, rfl⟩ := List.mem_map.1 (hm ▸ h)
  exact ⟨i, hf i (List.mem_range.1 hi)⟩

/-- Once all have run, the lines hold what they are to hold. -/
theorem runDue_lines {f : Nat → Micro} (hu : u.mem = s.mem) (hm : (tileOf u t).micros = (List.range n).map f)
    (hf : ∀ i < n, LineDue s da n bound D (f i) i) :
    (∀ i < 512 * n, readByte (runDue u t bound) (da + i) = D i) ∧ MemKeptBut s (runDue u t bound) da (512 * n) :=
  (linesUnderWay_scheduled hu hm hf).run (microWork_le _)

end

theorem readBytes_ext {s u : State} {a b n : Nat} (h : ∀ i < n, readByte u (a + i) = readByte s (b + i)) :
    readBytes u a n = readBytes s b n := by
  induction n generalizing a b with
  | zero => rfl
  | succ n ih =>
    rw [readBytes, readBytes, show readByte u a = readByte s b from h 0 (Nat.succ_pos n), ih fun i hi => ?_]
    rw [Nat.add_assoc, Nat.add_assoc, Nat.add_comm 1 i]
    exact h (i + 1) (Nat.succ_lt_succ hi)

/-! ## FILL, COPY, DLOAD and DSTORE (R78, R168, R169, R172, R173) -/

/-- A tile with accesses scheduled, results marked and ports taken: what a static transfer leaves of it. -/
def Tile.moving (x : Tile) (l : List Micro) (mk : List Mark) (us : List PortUse) : Tile := ((x.schedAll l).mark mk).use us

/-- Accesses of one slot in order of line, none before the line before it. -/
def InOrder (f : Nat → Micro) : Prop := ∀ i, (f i).slot = 4 ∧ ∀ j, i < j → (f i).order ≤ (f j).order

theorem Tile.moving_eq {x : Tile} (h : x.micros = []) {f : Nat → Micro} (hf : InOrder f) (n : Nat) (mk : List Mark) (us : List PortUse) :
    x.moving ((List.range n).map f) mk us = { x with micros := (List.range n).map f, marks := mk ++ x.marks, uses := us ++ x.uses } := by
  have hs : x.schedAll ((List.range n).map f) = { x with micros := (List.range n).map f } := by
    refine x.schedAll_sorted (k := 4) _ [] h ?_ (List.pairwise_map.2 (List.pairwise_lt_range.imp fun {i j} hij => (hf i).2 j hij))
    rintro m hm
    obtain ⟨i, -, rfl⟩ := List.mem_map.1 hm
    exact (hf i).1
  rw [Tile.moving, hs]
  rfl

/-! ### What the running of a tile leaves of R20, R21 and R62 -/

section
variable (s : State) (t a : Nat)

theorem placeOf_running : placeOf (running s t) a = placeOf s a := by
  have hon : tileOn (running s t) = tileOn s := rfl
  have hpart : (running s t).part = s.part := rfl
  rw [placeOf, hpart, hon, placeOf]

theorem roomAt_running : roomAt (running s t) a = roomAt s a := by
  have husable : tilesUsable (running s t) = tilesUsable s := rfl
  have hpart : (running s t).part = s.part := rfl
  rw [roomAt_eq]
  beta_reduce
  rw [placeOf_running, hpart, husable]

theorem partOwns_running (q n : Nat) : partOwns (running s t) q a n = partOwns s q a n := by
  have hparts : (running s t).parts = s.parts := rfl
  rw [partOwns_eq]
  beta_reduce
  rw [placeOf_running, hparts]

theorem tileSpanOk_running (n : Nat) : tileSpanOk (running s t) t a n = tileSpanOk s t a n := by
  have hsealed : sealedOver (running s t) a n = sealedOver s a n := rfl
  rw [tileSpanOk, spanOk, tilePart_running, jobOfTile_running, roomAt_running, partOwns_running, hsealed, tileSpanOk, spanOk]

/-- `scratchAt` unfolded as a constant, as `roomAt_eq` says. -/
theorem scratchAt_eq : scratchAt = delta% scratchAt := rfl

theorem scratchSpan_running (n : Nat) : scratchSpan (running s t) a n = scratchSpan s a n := by
  rw [scratchSpan, scratchAt_eq]
  beta_reduce
  rw [roomAt_running, placeOf_running, scratchSpan, scratchAt_eq]

/-- `ownUnit` unfolded as a constant, as `roomAt_eq` says. -/
theorem ownUnit_eq : ownUnit = delta% ownUnit := rfl

theorem ownUnit_running (u n : Nat) : ownUnit (running s t) u a n = ownUnit s u a n := by
  rw [ownUnit_eq]
  beta_reduce
  rw [scratchSpan_running]

end

section
variable {s : State} {t da n bound : Nat} {D : Nat → Byte} {f : Nat → Micro}

/-- A transfer whose accesses fill its lines moves them and nothing else. -/
theorem moving_fills (hm : (tileOf s t).micros = []) (ho : InOrder f) (hf : ∀ i < n, LineDue s da n bound D (f i) i) (mk : List Mark)
    (us : List PortUse) {u : State} (hu : modTile (running s t) t (fun y => y.moving ((List.range n).map f) mk us) = u) :
    Issued s u t [] ∧ u.mem = s.mem ∧ (∀ i < 512 * n, readByte (runDue u t bound) (da + i) = D i) ∧
      MemKeptBut s (runDue u t bound) da (512 * n) := by
  have hmem : u.mem = s.mem := hu ▸ rfl
  have hut : (tileOf u t).micros = (List.range n).map f := by
    rw [← hu, tileOf_modTile_self, tileOf_running, Tile.moving_eq hm ho]
  exact ⟨hu ▸ issued_modTile s t _, hmem, runDue_lines hmem hut hf⟩

end

/-- The write of line `i` of a FILL. -/
def fillWrite (tick da : Nat) (b : Byte) (i : Nat) : Micro :=
  ⟨tick + 1 + i, true, 4, .write (da + 512 * i) (List.replicate 512 (b, 0xFF)), tick⟩

/-- The read of line `i` of a COPY, to be written a tick later. -/
def copyMove (tick sa da i : Nat) : Micro := ⟨tick + 1 + i, false, 4, .moveLine (sa + 512 * i) 512 (da + 512 * i) (tick + 2 + i), tick⟩

/-- The read of line `i` of a DLOAD from DRAM on its slot. -/
def loadMove (tick lat ma sa i : Nat) : Micro :=
  ⟨tick + i + (lat - 40) / 2, false, 4, .moveLine (ma + 512 * i) 512 (sa + 512 * i) (tick + lat + i - 1), tick⟩

/-- The read of line `i` of a DSTORE, to be written to DRAM on its slot. -/
def storeMove (tick lat ma sa i : Nat) : Micro :=
  ⟨tick + i, false, 4, .moveLine (sa + 512 * i) 512 (ma + 512 * i) (tick + i + (lat - 40) / 2), tick⟩

theorem Micro.order_write (tick slot : Nat) (a : Act) (issued : Nat) :
    (⟨tick, true, slot, a, issued⟩ : Micro).order = 16 * tick + (8 + slot) := rfl

theorem Micro.order_read (tick slot : Nat) (a : Act) (issued : Nat) : (⟨tick, false, slot, a, issued⟩ : Micro).order = 16 * tick := rfl

theorem fillWrite_inOrder (tick da : Nat) (b : Byte) : InOrder (fillWrite tick da b) := fun i => ⟨rfl, fun j hij => by
  rw [fillWrite, fillWrite, Micro.order_write, Micro.order_write]
  omega⟩

theorem copyMove_inOrder (tick sa da : Nat) : InOrder (copyMove tick sa da) := fun i => ⟨rfl, fun j hij => by
  rw [copyMove, copyMove, Micro.order_read, Micro.order_read]
  omega⟩

theorem loadMove_inOrder (tick lat ma sa : Nat) : InOrder (loadMove tick lat ma sa) := fun i => ⟨rfl, fun j hij => by
  rw [loadMove, loadMove, Micro.order_read, Micro.order_read]
  omega⟩

theorem storeMove_inOrder (tick lat ma sa : Nat) : InOrder (storeMove tick lat ma sa) := fun i => ⟨rfl, fun j hij => by
  rw [storeMove, storeMove, Micro.order_read, Micro.order_read]
  omega⟩

theorem fillWrite_due (s : State) (tick da n : Nat) (b : Byte) {i : Nat} (hi : i < n) :
    LineDue s da n (tick + n + 1) (fun _ => b) (fillWrite tick da b i) i := by
  refine ⟨?_, hi, .inl ⟨List.replicate 512 b, ?_, List.length_replicate, fun j hj => List.getD_replicate _ hj⟩⟩
  · rw [fillWrite, Micro.order_write]
    omega
  · rw [fillWrite, plain, List.map_replicate]

section
variable (s : State) {tick lat sa da ma n i : Nat}

/-- The move of a line between two spans that do not meet. -/
theorem lineDue_move {bound k : Nat} {m : Micro} (hd : sa + 512 * n ≤ da ∨ da + 512 * n ≤ sa) (hi : i < n)
    (ha : m.act = .moveLine (sa + 512 * i) 512 (da + 512 * i) k) (hs : m.slot = 4) (ho : m.order ≤ 16 * bound)
      (hk : 16 * k + 12 ≤ 16 * bound) :
    LineDue s da n bound (fun i => readByte s (sa + i)) m i :=
  ⟨ho, hi, .inr ⟨sa + 512 * i, k, ha, by omega, by omega, fun j _ => congrArg (readByte s) (Nat.add_assoc _ _ _)⟩⟩

theorem copyMove_due (hd : sa + 512 * n ≤ da ∨ da + 512 * n ≤ sa) (hi : i < n) :
    LineDue s da n (tick + n + 2) (fun i => readByte s (sa + i)) (copyMove tick sa da i) i :=
  lineDue_move s hd hi rfl rfl (by rw [copyMove, Micro.order_read]; omega) (by omega)

theorem loadMove_due (hl : 40 ≤ lat) (hd : ma + 512 * n ≤ sa ∨ sa + 512 * n ≤ ma) (hi : i < n) :
    LineDue s sa n (tick + lat + n) (fun i => readByte s (ma + i)) (loadMove tick lat ma sa i) i :=
  lineDue_move s hd hi rfl rfl (by rw [loadMove, Micro.order_read]; omega) (by omega)

theorem storeMove_due (hl : 40 ≤ lat) (hd : sa + 512 * n ≤ ma ∨ ma + 512 * n ≤ sa) (hi : i < n) :
    LineDue s ma n (tick + lat + n) (fun i => readByte s (sa + i)) (storeMove tick lat ma sa i) i :=
  lineDue_move s hd hi rfl rfl (by rw [storeMove, Micro.order_read]; omega) (by omega)

end

section
variable {s : State} {t n da sa w : Nat}

theorem fill_fills {dd : BitVec 6} {doff : BitVec 12} {k : BitVec 8} (b : Byte) (hn : n = k.toNat + 1)
    (hda : da = effAddr (tileOf s t) dd.toNat doff.toNat) (ha : da % 512 = 0) (hw : ownUnit s t da (512 * n) = some w)
    (hok : tileSpanOk s t da (512 * n) = true) (hm : (tileOf s t).micros = [])
    (hp : portBusy (tileOf s t) 1 (.xferWrite w) (rangeFrom (tickOf s t + 1) n) = false) (hr : OpReady s t 4 (spanOf da (512 * n))) :
    Gives (.fill t dd doff k b) s fun u => Issued s u t [] ∧ u.mem = s.mem ∧
      (∀ i, i < 512 * n → readByte (runDue u t (tickOf s t + n + 1)) (da + i) = b) ∧
      MemKeptBut s (runDue u t (tickOf s t + n + 1)) da (512 * n) := by
  obtain ⟨ht, hs, hk⟩ := hr
  have he : ∃ mk us, exec (.fill t dd doff k b) s =
      .next (modTile (running s t) t fun y => y.moving ((List.range n).map (fillWrite (tickOf s t) da b)) mk us) := by
    apply Exists.intro
    apply Exists.intro
    refine (issueBundle_alone (⟨.fill t dd doff k b, opFill t dd doff k b⟩ : SlotOp) ht.alone).trans (congrArg Host.Outcome.next ?_)
    simp only [count, ← hn, ← hda, hw]
    rw [issueOp_ready ht 4 (by rw [hs, hk, hp]; rfl), tileSpanOk_running, hok, ha]
    rfl
  obtain ⟨mk, us, he⟩ := he
  exact ⟨_, he, moving_fills hm (fillWrite_inOrder _ _ _) (fun i hi => fillWrite_due s _ _ n b hi) mk us rfl⟩

theorem copy_copies {sd dd : BitVec 6} {soff doff : BitVec 8} {k : BitVec 7} (hn : n = k.toNat + 1)
    (hsa : sa = effAddr (tileOf s t) sd.toNat soff.toNat) (hda : da = effAddr (tileOf s t) dd.toNat doff.toNat) (ha : sa % 512 = 0)
    (hb : da % 512 = 0) (hw : ownUnit s t da (512 * n) = some w) (hv : ownUnit s t sa (512 * n) = some w)
    (hoa : tileSpanOk s t sa (512 * n) = true) (hob : tileSpanOk s t da (512 * n) = true) (hd : sa + 512 * n ≤ da ∨ da + 512 * n ≤ sa)
    (hm : (tileOf s t).micros = []) (hu : s.upsets = [])
    (hq : readBusy (tileOf s t) (.xferRead w) (tickOf s t + 1) (rangeFrom (sa / 512) n) = false)
    (hp : portBusy (tileOf s t) 1 (.xferWrite w) (rangeFrom (tickOf s t + 2) n) = false)
    (hr : OpReady s t 4 (spanOf sa (512 * n) ++ spanOf da (512 * n))) :
    Gives (.copy t sd soff dd doff k) s fun u => Issued s u t [] ∧ u.mem = s.mem ∧
      readBytes (runDue u t (tickOf s t + n + 2)) da (512 * n) = readBytes s sa (512 * n) ∧
      MemKeptBut s (runDue u t (tickOf s t + n + 2)) da (512 * n) := by
  obtain ⟨ht, hs, hk⟩ := hr
  have he : ∃ mk us, exec (.copy t sd soff dd doff k) s =
      .next (modTile (running s t) t fun y => y.moving ((List.range n).map (copyMove (tickOf s t) sa da)) mk us) := by
    apply Exists.intro
    apply Exists.intro
    refine (issueBundle_alone (⟨.copy t sd soff dd doff k, opCopy t sd soff dd doff k⟩ : SlotOp) ht.alone).trans
      (congrArg Host.Outcome.next ?_)
    simp only [count, ← hn, ← hsa, ← hda, hw]
    rw [issueOp_ready ht 4 (by rw [hs, hk, hp, hq]; rfl), tileSpanOk_running, tileSpanOk_running, ownUnit_running, hoa, hob, hv, ha, hb,
      readFinds_none (s := running s t) hu, if_neg (by simp)]
    rfl
  obtain ⟨mk, us, he⟩ := he
  obtain ⟨hi, hmem, hD, hkept⟩ := moving_fills hm (copyMove_inOrder _ _ _) (fun i hi => copyMove_due s hd hi) mk us rfl
  exact ⟨_, he, hi, hmem, readBytes_ext hD, hkept⟩

end

/-! ### Static slots that no other access claims (R173, R174) -/

theorem sortBy_sorted {α : Type} {key : α → Nat} {l : List α} (h : l.Pairwise fun x y => key x ≤ key y) : sortBy key l = l := by
  have hp : ∀ (l pre : List α), (pre ++ l).Pairwise (fun x y => key x ≤ key y) →
    l.foldl (fun acc x => insertBy key x acc) pre = pre ++ l := by
    intro l
    induction l with
    | nil => exact fun pre _ => (List.append_nil pre).symm
    | cons x l ih =>
      intro pre h
      rw [List.foldl_cons, insertBy_last fun y hy => (List.pairwise_append.1 h).2.2 y hy x List.mem_cons_self,
        ih (pre ++ [x]) (by simpa using h)]
      simp
  exact hp l [] h

/-- A claim after every claim placed on its region keeps its slot. -/
theorem placeClaim_free {done : List Placed} {c : Claim} (h : ∀ d ∈ done, d.claim.tick < c.tick) :
    (placeClaim 0 0 done c).claim = c ∧ (placeClaim 0 0 done c).delay = 0 := by
  have hw : ∀ l : List Placed, (∀ d ∈ l, d.claim.tick < c.tick) → l.foldl (fun m d => max m (d.claim.tick + 1)) c.tick = c.tick := by
    intro l
    induction l with
    | nil => exact fun _ => rfl
    | cons d l ih =>
      intro hl
      obtain ⟨hd, hl⟩ := List.forall_mem_cons.1 hl
      rw [List.foldl_cons, Nat.max_eq_left hd, ih hl]
  have hmates := hw (done.filter fun d => d.claim.tile == c.tile && d.claim.issued == c.issued) fun d hd => h d (List.mem_filter.1 hd).1
  have hfree : (done.map (·.claim.tick)).contains c.tick = false := by
    rw [List.contains_eq_mem, decide_eq_false_iff_not, List.mem_map]
    rintro ⟨d, hd, he⟩
    exact absurd he (Nat.ne_of_lt (h d hd))
  have hslot : ∀ k, firstFree (done.map (·.claim.tick)) 0 0 (k + 1) c.tick = c.tick := fun k => by
    rw [firstFree, hfree]
    simp
  simp only [placeClaim, hmates, hslot, Nat.sub_self, Nat.add_zero, and_self]

/-- Claims of rising slots all keep them. -/
theorem placeClaims_free {l : List Claim} (h : l.Pairwise fun c d => c.tick < d.tick) :
    (placeClaims 0 0 l).map (·.claim) = l ∧ ∀ p ∈ placeClaims 0 0 l, p.delay = 0 := by
  have hp : ∀ (l : List Claim) (done : List Placed), (done.map (·.claim) ++ l).Pairwise (fun c d => c.tick < d.tick) →
      (∀ p ∈ done, p.delay = 0) →
      (l.foldl (fun done c => done ++ [placeClaim 0 0 done c]) done).map (·.claim) = done.map (·.claim) ++ l ∧
        ∀ p ∈ l.foldl (fun done c => done ++ [placeClaim 0 0 done c]) done, p.delay = 0 := by
    intro l
    induction l with
    | nil => exact fun done _ hd => ⟨(List.append_nil _).symm, hd⟩
    | cons c l ih =>
      intro done h hd
      obtain ⟨hc, h0⟩ := placeClaim_free (done := done) (c := c) fun d hm =>
        (List.pairwise_append.1 h).2.2 d.claim (List.mem_map_of_mem hm) c List.mem_cons_self
      have ha : (done ++ [placeClaim 0 0 done c]).map (·.claim) ++ l = done.map (·.claim) ++ c :: l := by simp [hc]
      rw [List.foldl_cons, ← ha]
      refine ih _ (ha ▸ h) fun p hp => ?_
      rcases List.mem_append.1 hp with hp | hp
      · exact hd p hp
      · exact List.mem_singleton.1 hp ▸ h0
  exact hp l [] h fun _ hp => (List.not_mem_nil hp).elim

/-- Where no access claims the region and no refresh has held it, the slots claimed stay as they are (R173, R174). -/
theorem claimSlots_free {s : State} {t r tick : Nat} {store : Bool} {slots lines : List Nat} (hc : ∀ c ∈ s.claims, c.region ≠ r)
    (hb : (tileOf s r).refrBusy = 0) (ho : slots.Pairwise (· < ·)) (hl : slots.length ≤ lines.length) :
    ∃ l, claimSlots s t r tick store slots lines = { s with claims := s.claims ++ l } := by
  unfold claimSlots
  by_cases hs : on s (TIL_MODE_strict t) = true
  · rw [if_pos hs]
    extract_lets x cs y b
    have hreg : ∀ c ∈ cs, c.region = r := by
      intro c hm
      obtain ⟨p, -, rfl⟩ := List.mem_map.1 hm
      rfl
    have hasc : cs.Pairwise fun c d => c.tile = d.tile ∧ c.tick < d.tick := by
      refine List.pairwise_map.2 ?_
      have hz : (List.zip slots lines).Pairwise fun p q => p.1 < q.1 :=
        List.pairwise_map.1 (by rwa [List.map_fst_zip hl])
      exact hz.imp fun hpq => ⟨rfl, Nat.add_lt_add_left hpq _⟩
    have hb0 : b = 0 := if_pos hb
    have hmine : (s.claims ++ cs).filter (·.region == r) = cs := by
      rw [List.filter_append, List.filter_eq_nil_iff.2 fun c hm => by simpa using hc c hm,
        List.filter_eq_self.2 fun c hm => by simpa using hreg c hm, List.nil_append]
    have hrest : (s.claims ++ cs).filter (·.region != r) = s.claims := by
      rw [List.filter_append, List.filter_eq_self.2 fun c hm => by simpa using hc c hm,
        List.filter_eq_nil_iff.2 fun c hm => by simpa using hreg c hm, List.append_nil]
    obtain ⟨hl, h0⟩ := placeClaims_free (hasc.imp And.right)
    refine ⟨cs, ?_⟩
    rw [settleRegion, hb0, hmine, hrest, sortBy_sorted (hasc.imp fun h => by omega), Nat.zero_sub, hl]
    exact (List.foldl_ext _ (fun s _ => s) _ fun v p hp => if_pos (h0 p hp)).trans (List.foldl_fixed _)
  · exact ⟨[], by rw [if_neg hs, List.append_nil]⟩

/-! ### DLOAD and DSTORE (R172 to R174, R178, R179) -/

theorem zip_range_map {α : Type} (g : Nat → α) (n : Nat) :
    List.zip (List.range n) ((List.range n).map g) = (List.range n).map fun i => (i, g i) := by
  rw [List.zip_map_right, List.zip_eq_zipWith, List.zipWith_self, List.map_map]
  rfl

theorem loadMoves_eq (tick lat ma sa n : Nat) : ((List.zip (List.range n) (slotTicks tick lat n)).map fun p =>
    (⟨p.2, false, 4, .moveLine (ma + 512 * p.1) 512 (sa + 512 * p.1) (tick + lat + p.1 - 1), tick⟩ : Micro)) =
      (List.range n).map (loadMove tick lat ma sa) := by
  rw [slotTicks, zip_range_map, List.map_map]
  rfl

theorem storeMoves_eq (tick lat ma sa n : Nat) : ((List.zip (List.range n) (slotTicks tick lat n)).map fun p =>
    (⟨tick + p.1, false, 4, .moveLine (sa + 512 * p.1) 512 (ma + 512 * p.1) p.2, tick⟩ : Micro)) =
      (List.range n).map (storeMove tick lat ma sa) := by
  rw [slotTicks, zip_range_map, List.map_map]
  rfl

theorem slotTicks_sorted (tick lat n : Nat) : (slotTicks tick lat n).Pairwise (· < ·) :=
  List.pairwise_map.2 (List.pairwise_lt_range.imp fun h => by omega)

theorem slotTicks_length (tick lat n m : Nat) : (slotTicks tick lat n).length ≤ (rangeFrom m n).length := by
  simp [slotTicks, rangeFrom]

theorem dramLatency_ge (p r : Nat) : 40 ≤ dramLatency p r := by
  unfold dramLatency
  split <;> omega

theorem placeOf_window {s : State} {a t off : Nat} (h : placeOf s a = .window t off) : windowBase ≤ a := by
  rw [placeOf] at h
  split at h
  · split at h <;> cases h
  · split at h
    · cases h
    · split at h
      next hw => exact hw.1
      next => cases h

theorem windowBase_le_of_scratchAt {s : State} {a : Nat} {p : Nat × Nat} (h : scratchAt s a = some p) : windowBase ≤ a := by
  rw [scratchAt_eq] at h
  beta_reduce at h
  generalize hp : placeOf s a = q at h
  cases q with
  | window u off => exact placeOf_window hp
  | bonded u => cases h
  | lpd => cases h
  | nothing => cases h

theorem windowBase_le_of_scratchSpan {s : State} {a n : Nat} {p : Nat × Nat} (h : scratchSpan s a n = some p) : windowBase ≤ a := by
  rw [scratchSpan] at h
  split at h
  · exact windowBase_le_of_scratchAt h
  · cases h

/-- A span of a tile's scratchpad lies above the near regions (R20). -/
theorem windowBase_le_of_ownUnit {s : State} {t a n w : Nat} (h : ownUnit s t a n = some w) : windowBase ≤ a := by
  rw [ownUnit_eq] at h
  beta_reduce at h
  cases hp : scratchSpan s a n with
  | some p => exact windowBase_le_of_scratchSpan hp
  | none =>
    rw [hp] at h
    cases h

/-- A span of a near region ends below every scratchpad (R20). -/
theorem staticRegion_le {s : State} {t a n r : Nat} (h : staticRegion s t a n = some r) : a + n ≤ windowBase := by
  unfold staticRegion at h
  extract_lets u at h
  split at h
  next hr =>
    obtain ⟨h1, h2, -⟩ := hr
    have h3 := s.part.tiles_le
    simp only [nearBase, nearBytes, windowBase] at h1 ⊢
    omega
  next => cases h

theorem claimSlots_upsets (s : State) (t r tick : Nat) (store : Bool) (slots lines : List Nat) :
    (claimSlots s t r tick store slots lines).upsets = s.upsets := by
  unfold claimSlots
  split
  · rw [(settleRegion_moves _ _ _ _).rest]
  · rfl

theorem crossBond_none {s : State} (h : s.upsets = []) (t tick : Nat) (lines : List (Nat × Nat)) : crossBond s t tick lines = s := by
  simp [crossBond, h]

theorem crossBond_claimSlots {s : State} {t r tick : Nat} {store : Bool} {slots lines : List Nat} {pairs : List (Nat × Nat)}
    (h : s.upsets = []) : crossBond (claimSlots s t r tick store slots lines) t tick pairs = claimSlots s t r tick store slots lines :=
  crossBond_none ((claimSlots_upsets s t r tick store slots lines).trans h) t tick pairs

theorem refreshHold_none {x : Tile} {near : Bool} (h : near = true → x.refrBusy = 0) (tick : Nat) : refreshHold x tick near = [] := by
  unfold refreshHold
  cases near with
  | false => rfl
  | true => rw [h rfl]; rfl

theorem countRefreshHold_none {s : State} {t : Nat} {near : Bool} (h : refreshHold (tileOf s t) (tickOf s t) near = []) :
    countRefreshHold s t near = s := by
  simp [countRefreshHold, h]

section
variable {s : State} {t r n da bound tick : Nat} {store : Bool} {D : Nat → Byte} {f : Nat → Micro} {slots lines : List Nat}

/-- A static access with its slots to itself moves its lines and nothing else. -/
theorem static_fills (hm : (tileOf s t).micros = []) (ho : InOrder f) (hf : ∀ i < n, LineDue s da n bound D (f i) i) (mk : List Mark)
    (us : List PortUse) (hc : ∀ c ∈ s.claims, c.region ≠ r) (hb : (tileOf s r).refrBusy = 0) (hs : slots.Pairwise (· < ·))
    (hl : slots.length ≤ lines.length) {u : State}
    (hu : claimSlots (modTile (running s t) t fun y => y.moving ((List.range n).map f) mk us) t r tick store slots lines = u) :
    (seqState u t = 1 ∧ TilesKeptBut s u t ∧ { u with regs := s.regs, tiles := s.tiles, claims := s.claims } = s ∧
      FieldsKept s u [TIL_SEQ_STATUS_state t] ∧ ∀ c ∈ s.claims, c ∈ u.claims) ∧
      (∀ i < 512 * n, readByte (runDue u t bound) (da + i) = D i) ∧ MemKeptBut s (runDue u t bound) da (512 * n) := by
  generalize hv : modTile (running s t) t (fun y => y.moving ((List.range n).map f) mk us) = v at hu
  have hvt : tileOf v t = { tileOf s t with
      micros := (List.range n).map f, marks := mk ++ (tileOf s t).marks, uses := us ++ (tileOf s t).uses } := by
    rw [← hv, tileOf_modTile_self, tileOf_running, Tile.moving_eq hm ho]
  have hI : Issued s v t [] := hv ▸ issued_modTile s t _
  have hvb : (tileOf v r).refrBusy = 0 := by
    by_cases hr : r = t
    · rw [hr, hvt, ← hb, hr]
    · rw [hI.others r hr, hb]
  obtain ⟨l, hl⟩ := claimSlots_free (s := v) (t := t) (tick := tick) (store := store) (hv ▸ hc) hvb hs hl
  rw [← hu, hl]
  have hvc : v.claims = s.claims := hv ▸ rfl
  refine ⟨⟨hI.runs, hI.others, hv ▸ rfl, hI.kept, fun c hm => List.mem_append_left _ (hvc ▸ hm)⟩, runDue_lines (hv ▸ rfl) ?_ hf⟩
  rw [show tileOf { v with claims := v.claims ++ l } t = tileOf v t from rfl, hvt]

end

section
variable {s : State} {t n ma sa w r lat : Nat} {md sd : BitVec 6} {moff : BitVec 12} {soff : BitVec 8} {k : BitVec 3}

theorem dload_loads (hn : n = k.toNat + 1) (hma : ma = effAddr (tileOf s t) md.toNat moff.toNat)
    (hsa : sa = effAddr (tileOf s t) sd.toNat soff.toNat) (ha : ma % 512 = 0) (hb : sa % 512 = 0)
    (hg : staticRegion s t ma (512 * n) = some r) (hw : ownUnit s t sa (512 * n) = some w) (hoa : tileSpanOk s t ma (512 * n) = true)
    (hob : tileSpanOk s t sa (512 * n) = true) (hlat : lat = dramLatency (t % 8) (r % 8)) (hm : (tileOf s t).micros = [])
    (hu : s.upsets = []) (hc : ∀ c ∈ s.claims, c.region ≠ r) (hf : (tileOf s r).refrBusy = 0)
    (hr : OpReady s t 4 (spanOf ma (512 * n) ++ spanOf sa (512 * n)))
    (hp : portBusy (tileOf s t) 1 (.xferWrite w) (rangeFrom (tickOf s t + lat) n) = false)
    (hh : storeHold s t ((slotTicks (tickOf s t) lat n).map (gridTick (tileOf s t))) (rangeFrom (ma / 512) n) = []) :
    Gives (.dload t md moff sd soff k) s fun u => seqState u t = 1 ∧ TilesKeptBut s u t ∧
      { u with regs := s.regs, tiles := s.tiles, claims := s.claims } = s ∧
      FieldsKept s u [TIL_SEQ_STATUS_state t] ∧ (∀ c ∈ s.claims, c ∈ u.claims) ∧
      readBytes (runDue u t (tickOf s t + lat + n)) sa (512 * n) = readBytes s ma (512 * n) ∧
      MemKeptBut s (runDue u t (tickOf s t + lat + n)) sa (512 * n) := by
  obtain ⟨ht, hs, hk⟩ := hr
  have hnear : refreshHold (tileOf s t) (tickOf s t) (some r == some t) = [] :=
    refreshHold_none (fun h => by rw [← hf, Option.some.inj (beq_iff_eq.1 h)]) _
  have he : ∃ mk us, exec (.dload t md moff sd soff k) s = .next (claimSlots (modTile (running s t) t fun y =>
      y.moving ((List.range n).map (loadMove (tickOf s t) lat ma sa)) mk us) t r (tickOf s t) false (slotTicks (tickOf s t) lat n)
        (rangeFrom (sa / 512) n)) := by
    apply Exists.intro
    apply Exists.intro
    refine (issueBundle_alone (⟨.dload t md moff sd soff k, opDload t md moff sd soff k⟩ : SlotOp) ht.alone).trans
      (congrArg Host.Outcome.next ?_)
    simp only [count, ← hn, ← hma, ← hsa, hg, hw, Option.getD_some, ← hlat]
    rw [countRefreshHold_none hnear, issueOp_ready ht 4 (by rw [hs, hk, hp, hnear, hh]; rfl), tileSpanOk_running, tileSpanOk_running,
      hoa, hob, ha, hb, if_neg (by simp), loadMoves_eq, crossBond_claimSlots]
    · rfl
    · exact hu
  obtain ⟨mk, us, he⟩ := he
  obtain ⟨⟨h1, h2, h3, h4, h5⟩, hD, hkept⟩ := static_fills hm (loadMove_inOrder (tickOf s t) lat ma sa)
    (fun i hi => loadMove_due s (hlat ▸ dramLatency_ge _ _) (.inl ((staticRegion_le hg).trans (windowBase_le_of_ownUnit hw))) hi)
    mk us hc hf
    (slotTicks_sorted (tickOf s t) lat n) (slotTicks_length _ _ _ _) rfl
  exact ⟨_, he, h1, h2, h3, h4, h5, readBytes_ext hD, hkept⟩

theorem dstore_stores (hn : n = k.toNat + 1) (hma : ma = effAddr (tileOf s t) md.toNat moff.toNat)
    (hsa : sa = effAddr (tileOf s t) sd.toNat soff.toNat) (ha : ma % 512 = 0) (hb : sa % 512 = 0)
    (hg : staticRegion s t ma (512 * n) = some r) (hw : ownUnit s t sa (512 * n) = some w) (hoa : tileSpanOk s t ma (512 * n) = true)
    (hob : tileSpanOk s t sa (512 * n) = true) (hlat : lat = dramLatency (t % 8) (r % 8)) (hm : (tileOf s t).micros = [])
    (hu : s.upsets = []) (hc : ∀ c ∈ s.claims, c.region ≠ r) (hf : (tileOf s r).refrBusy = 0)
    (hr : OpReady s t 4 (spanOf ma (512 * n) ++ spanOf sa (512 * n)))
    (hp : readBusy (tileOf s t) (.xferRead w) (tickOf s t) (rangeFrom (sa / 512) n) = false) :
    Gives (.dstore t md moff sd soff k) s fun u => seqState u t = 1 ∧ TilesKeptBut s u t ∧
      { u with regs := s.regs, tiles := s.tiles, claims := s.claims } = s ∧
      FieldsKept s u [TIL_SEQ_STATUS_state t] ∧ (∀ c ∈ s.claims, c ∈ u.claims) ∧
      readBytes (runDue u t (tickOf s t + lat + n)) ma (512 * n) = readBytes s sa (512 * n) ∧
      MemKeptBut s (runDue u t (tickOf s t + lat + n)) ma (512 * n) := by
  obtain ⟨ht, hs, hk⟩ := hr
  have hnear : refreshHold (tileOf s t) (tickOf s t) (some r == some t) = [] :=
    refreshHold_none (fun h => by rw [← hf, Option.some.inj (beq_iff_eq.1 h)]) _
  have he : ∃ mk us, exec (.dstore t md moff sd soff k) s = .next (claimSlots (modTile (running s t) t fun y =>
      y.moving ((List.range n).map (storeMove (tickOf s t) lat ma sa)) mk us) t r (tickOf s t) true (slotTicks (tickOf s t) lat n)
        (rangeFrom (ma / 512) n)) := by
    apply Exists.intro
    apply Exists.intro
    refine (issueBundle_alone (⟨.dstore t md moff sd soff k, opDstore t md moff sd soff k⟩ : SlotOp) ht.alone).trans
      (congrArg Host.Outcome.next ?_)
    simp only [count, ← hn, ← hma, ← hsa, hg, hw, Option.getD_some, ← hlat]
    rw [countRefreshHold_none hnear, issueOp_ready ht 4 (by rw [hs, hk, hp, hnear]; rfl), tileSpanOk_running, tileSpanOk_running,
      hoa, hob, ha, hb, if_neg (by simp), readFinds_none (s := running s t) hu, storeMoves_eq, crossBond_claimSlots]
    · rfl
    · exact hu
  obtain ⟨mk, us, he⟩ := he
  obtain ⟨⟨h1, h2, h3, h4, h5⟩, hD, hkept⟩ := static_fills hm (storeMove_inOrder (tickOf s t) lat ma sa)
    (fun i hi => storeMove_due s (hlat ▸ dramLatency_ge _ _) (.inr ((staticRegion_le hg).trans (windowBase_le_of_ownUnit hw))) hi)
    mk us hc hf
    (slotTicks_sorted (tickOf s t) lat n) (slotTicks_length _ _ _ _) rfl
  exact ⟨_, he, h1, h2, h3, h4, h5, readBytes_ext hD, hkept⟩

end

end Sys2Proof.Machine
end

section
namespace Sys2Proof.Machine

-- One proof after another: many at once take more memory, in a text this long, than its compile has.
set_option Elab.async false

/-! ## The short pass (07_memory_tiers_and_transfers.md, R197, R198) -/

theorem usesOf_use (x : Tile) (l : List PortUse) (p : Port) (k : Nat) :
    usesOf (x.use l) p k = (l.filter fun u => u.port == p && u.tick == k).length + usesOf x p k := by
  rw [usesOf, Tile.use, List.filter_append, List.length_append, usesOf]

/-- Uses of other ports take nothing of a port. -/
theorem usesOf_use_other (x : Tile) {l : List PortUse} {p : Port} (h : ∀ u ∈ l, u.port ≠ p) (k : Nat) :
    usesOf (x.use l) p k = usesOf x p k := by
  rw [usesOf_use, List.filter_eq_nil_iff.2 fun u hu => by simp [h u hu], List.length_nil, Nat.zero_add]

theorem slotUse_port (slot tick n : Nat) {p : Port} (h : .slot slot ≠ p) : ∀ u ∈ slotUse slot tick n, u.port ≠ p := by
  intro u hu
  obtain ⟨k, -, rfl⟩ := List.mem_map.1 hu
  exact h

theorem readUses_port (q : Port) (tick : Nat) (lines : List Nat) {p : Port} (h : q ≠ p) : ∀ u ∈ readUses q tick lines, u.port ≠ p := by
  intro u hu
  obtain ⟨l, -, rfl⟩ := List.mem_map.1 hu
  exact h

/-- A change of one tile that keeps what `g` reads of it keeps it of every tile. -/
theorem modTile_keeps {α : Type} (g : Tile → α) {s : State} {t : Nat} {f : Tile → Tile} (h : ∀ x, g (f x) = g x) (u : Nat) :
    g (tileOf (modTile s t f) u) = g (tileOf s u) := by
  by_cases hu : u = t
  · rw [hu, tileOf_modTile_self, h]
  · rw [tileOf_modTile_ne s f hu]

theorem passRoom_free {x : Tile} {p : Port} {k lo : Nat} (h : usesOf x p lo + k ≤ 2) (t n : Nat) : passRoom x p t k (n + 1) lo = lo := by
  rw [passRoom, if_pos]
  refine Nat.le_trans (Nat.add_le_add_right (List.Sublist.length_le (List.monotone_filter_right x.uses fun u hu => ?_)) k) h
  simp only [Bool.and_eq_true] at hu ⊢
  exact hu.1

theorem displace_none {s : State} {dt k d : Nat} (h : usesOf (tileOf s dt) (.shortWrite d) k ≤ 2) (t n : Nat) :
    displace s dt (.shortWrite d) t n k = s := by
  cases n with
  | zero => rfl
  | succ n => exact if_pos h

/-- One piece under way is read and written, wherever its source lies. -/
theorem runDue_piece {u : State} {t sa da n tick land : Nat} (hl : tick ≤ land)
    (hm : (tileOf u t).micros = [⟨tick, false, 4, .moveLine sa n da land, tick⟩]) :
    readBytes (runDue u t (land + 1)) da n = readBytes u sa n ∧ MemKeptBut u (runDue u t (land + 1)) da n := by
  generalize hv : runAct (modTile u t fun x => { x with micros := [] }) t tick 4 (.moveLine sa n da land) = v
  have hvm : v.mem = u.mem := hv ▸ rfl
  have hvt : (tileOf v t).micros = byteWrites 4 land tick [(da, readBytes u sa n)] := by
    rw [← hv]
    simp only [runAct, tileOf_modTile_self]
    rw [readBytes_congr (modTile_mem u t _)]
    rfl
  have hrun : runDue u t (land + 1) = runMicros 1 v t (land + 1) := by
    rw [runDue, hm]
    exact (runMicros_cons (k := 1) hm (by rw [Micro.order_read]; omega)).trans (by rw [← hv])
  have hb : ∀ b, readByte (runDue u t (land + 1)) b = lastByte b [(da, readBytes u sa n)] (readByte u b) := fun b => by
    rw [hrun, runMicros_writes (by omega) _ 1 v (Nat.le_refl _) hvt b, readByte, hvm]
    rfl
  refine ⟨readBytes_ext fun i hi => ?_, fun b h => ?_⟩
  · rw [hb, ← List.nil_append [(da, readBytes u sa n)], lastByte_last (by rwa [readBytes_length]) (by simp), readBytes_getD u sa n i hi]
  · rw [hb, lastByte_outside]
    intro p hp
    rw [List.mem_singleton.1 hp, readBytes_length]
    exact h

/-- A tick of tile `t` as a tick of tile `u`, by the grid. -/
def tickOn (s : State) (t u k : Nat) : Nat := if u = t then k else localTick (tileOf s u) (gridTick (tileOf s t) k)

section
variable {s : State} {t n sa da st su dt du land : Nat} {sd dd : BitVec 6} {soff doff : BitVec 8} {k : BitVec 3}

theorem spass_passes (hn : n = 32 * (k.toNat + 1)) (hsa : sa = effAddr (tileOf s t) sd.toNat soff.toNat)
    (hda : da = effAddr (tileOf s t) dd.toNat doff.toNat) (ha : sa % 32 = 0) (hb : da % 32 = 0) (hsu : scratchSpan s sa n = some (st, su))
    (hdu : scratchSpan s da n = some (dt, du)) (hgs : t / 8 = st / 8) (hgd : t / 8 = dt / 8) (hoa : tileSpanOk s t sa n = true)
    (hob : tileSpanOk s t da n = true) (hone : sa % 512 + n ≤ 512) (hm : (tileOf s t).micros = []) (hu : s.upsets = [])
    (hland : land = if dt = t then tickOf s t + 5 else tickOf s t + 23)
    (hroom : usesOf (tileOf s dt) (.shortWrite du) (tickOn s t dt land) + (linesOf da n).length ≤ 2)
    (hq : readBusy (tileOf s st) (.xferRead su) (tickOn s t st (tickOf s t)) (linesOf sa n) = false)
    (hfar : farFlight s t st (tickOf s t) (spanOf sa n) = [])
    (hr : OpReady s t 4 (spanOf sa n ++ (if dt = t then spanOf da n else []))) :
    Gives (.spass t sd soff dd doff k) s fun u => seqState u t = 1 ∧ { u with regs := s.regs, tiles := s.tiles } = s ∧
      FieldsKept s u [TIL_SEQ_STATUS_state t] ∧ (∀ v, v ≠ t → v ≠ st → v ≠ dt → tileOf u v = tileOf s v) ∧
      readBytes (runDue u t (land + 1)) da n = readBytes s sa n ∧ MemKeptBut s (runDue u t (land + 1)) da n := by
  obtain ⟨ht, hs, hk⟩ := hr
  generalize hrm : tickOn s t dt land = room at hroom
  have hown : (if (some dt == some t) = true then spanOf da n else []) = if dt = t then spanOf da n else [] := if_congr (by simp) rfl rfl
  have htick : ∀ u k, (if u = t then k else localTick (tileOf s u) (gridTick (tileOf s t) k)) = tickOn s t u k := fun _ _ => rfl
  have hmin : min n (512 - sa % 512) = n := by omega
  have hpass : passRoom (tileOf s dt) (.shortWrite du) t (linesOf da n).length 64 room = room := passRoom_free hroom t 63
  have he : ∃ mk, exec (.spass t sd soff dd doff k) s = .next (displace (modTile (modTile (modTile (running s t) t fun y =>
      y.moving [⟨tickOf s t, false, 4, .moveLine sa n da land, tickOf s t⟩] [] (slotUse 4 (tickOf s t) 1)) st fun y =>
        y.use (readUses (.xferRead su) (tickOn s t st (tickOf s t)) (linesOf sa n))) dt fun y =>
          (y.mark mk).use ((linesOf da n).map fun _ => ⟨.shortWrite du, room, t⟩)) dt (.shortWrite du) t 64 room) := by
    apply Exists.intro
    refine (issueBundle_alone (⟨.spass t sd soff dd doff k, opSpass t sd soff dd doff k⟩ : SlotOp) ht.alone).trans
      (congrArg Host.Outcome.next ?_)
    simp only [count, ← hn, ← hsa, ← hda, hsu, hdu, Option.map_some, Option.getD_some, hown, ← hland, htick, hrm, hmin]
    rw [issueOp_ready ht 4 (by rw [hs, hk, hfar, hq]; rfl), tileSpanOk_running, tileSpanOk_running, hoa, hob, ha, hb,
      readFinds_none (s := running s t) hu, tileOf_running, hpass, if_neg (by simp [sameGroup, hgs, ← hgd]), if_neg (Nat.lt_irrefl n),
      Nat.sub_self, Nat.add_zero]
    rfl
  obtain ⟨mk, he⟩ := he
  generalize h1 : modTile (running s t) t (fun y =>
    y.moving [⟨tickOf s t, false, 4, .moveLine sa n da land, tickOf s t⟩] [] (slotUse 4 (tickOf s t) 1)) = v1 at he
  have h1t : tileOf v1 t = { tileOf s t with
      micros := [⟨tickOf s t, false, 4, .moveLine sa n da land, tickOf s t⟩], uses := slotUse 4 (tickOf s t) 1 ++ (tileOf s t).uses } := by
    rw [← h1, tileOf_modTile_self, tileOf_running, Tile.moving, Tile.schedAll_sorted (k := 4) _ [] _ hm (by simp) (by simp)]
    rfl
  generalize h2 : modTile v1 st (fun y => y.use (readUses (.xferRead su) (tickOn s t st (tickOf s t)) (linesOf sa n))) = v2 at he
  generalize h3 : modTile v2 dt (fun y => (y.mark mk).use ((linesOf da n).map fun _ => ⟨.shortWrite du, room, t⟩)) = v3 at he
  have hI : Issued s v1 t [] := h1 ▸ issued_modTile s t _
  have hmem : v3.mem = s.mem := by
    rw [← h3, ← h2, ← h1]
    rfl
  have hmic : (tileOf v3 t).micros = [⟨tickOf s t, false, 4, .moveLine sa n da land, tickOf s t⟩] := by
    have hm3 : (tileOf v3 t).micros = (tileOf v2 t).micros := h3 ▸ modTile_keeps Tile.micros (fun _ => by rfl) t
    have hm2 : (tileOf v2 t).micros = (tileOf v1 t).micros := h2 ▸ modTile_keeps Tile.micros (fun _ => by rfl) t
    rw [hm3, hm2, h1t]
  have huse1 : usesOf (tileOf v1 dt) (.shortWrite du) room = usesOf (tileOf s dt) (.shortWrite du) room := by
    by_cases hd : dt = t
    · rw [hd, h1t]
      exact usesOf_use_other (tileOf s t) (slotUse_port 4 (tickOf s t) 1 (by simp)) room
    · rw [hI.others dt hd]
  have huse2 : usesOf (tileOf v2 dt) (.shortWrite du) room = usesOf (tileOf v1 dt) (.shortWrite du) room :=
    h2 ▸ modTile_keeps (fun x => usesOf x (.shortWrite du) room) (fun x => usesOf_use_other x (readUses_port _ _ _ (by simp)) room) dt
  have huse3 : usesOf (tileOf v3 dt) (.shortWrite du) room ≤ 2 := by
    have hmark : usesOf ((tileOf v2 dt).mark mk) (.shortWrite du) room = usesOf (tileOf v2 dt) (.shortWrite du) room := rfl
    have hnew := List.length_filter_le (fun u : PortUse => u.port == .shortWrite du && u.tick == room)
      ((linesOf da n).map fun _ => ⟨.shortWrite du, room, t⟩)
    rw [List.length_map] at hnew
    rw [← h3, tileOf_modTile_self, usesOf_use, hmark, huse2, huse1]
    omega
  rw [displace_none huse3] at he
  obtain ⟨hD, hkept⟩ := runDue_piece (by rw [hland]; split <;> omega) hmic
  refine ⟨v3, he, ?_, ?_, fun f hf => ?_, fun v hvt hvs hvd => ?_, hD.trans (readBytes_congr hmem sa n),
    fun b hb => (hkept b hb).trans (congrArg (Memory.read · b) hmem)⟩
  · exact h3 ▸ h2 ▸ hI.runs
  · rw [← h3, ← h2, ← h1]
    rfl
  · exact h3 ▸ h2 ▸ hI.kept f hf
  · rw [← h3, tileOf_modTile_ne _ _ hvd, ← h2, tileOf_modTile_ne _ _ hvs, hI.others v hvt]

end

/-! ## A guarded line (09, R233) -/

/-- A fold that skips a key's entries does not see that key set. -/
theorem foldl_set_skip {α β : Type} {g : β → Nat × α → β} {t : Nat} (h : ∀ b x, g b (t, x) = b) (m : Store α) (x : α) (b : β) :
    (Store.set m t x).foldl g b = m.foldl g b := by
  induction m generalizing b with
  | nil => exact h b x
  | cons p m ih =>
    obtain ⟨k, v⟩ := p
    rw [Store.set]
    split
    · rw [List.foldl_cons, h]
    · split
      next hk => rw [List.foldl_cons, List.foldl_cons, h, ← hk, h]
      next => rw [List.foldl_cons, List.foldl_cons, ih]

/-- The tick at which a halted tile stands does not depend on its marks. -/
theorem nowTick_marks {s : State} {t : Nat} (h : seqState s t = 4) (g : List Mark → List Mark) :
    nowTick (modTile s t fun x => { x with marks := g x.marks }) t = nowTick s t := by
  have hi : issuing s t = false := by simp [issuing, h]
  have hg : gridNow (modTile s t fun x => { x with marks := g x.marks }) t = gridNow s t :=
    foldl_set_skip (g := fun g p => if issuing s p.1 && partOfTile s p.1 == partOfTile s t then max g (gridTick p.2 (tickOf s p.1)) else g)
      (fun b x => by simp [hi]) s.tiles _ _
  have hs : seqState (modTile s t fun x => { x with marks := g x.marks }) t = seqState s t := rfl
  have ht : tickOf (modTile s t fun x => { x with marks := g x.marks }) t = tickOf s t := rfl
  rw [nowTick, hg, hs, ht, tileOf_modTile_self, nowTick]
  rfl

theorem guardedLine_present (s : State) (t a : Nat) :
    Gives (.guardedLinePresent t a) s fun u => TilesKeptBut s u t ∧ { u with tiles := s.tiles } = s ∧
      tileOf u t = { tileOf s t with
        marks := (tileOf s t).marks.map fun m => if m.waits ∧ m.res = .bytes (512 * (a / 512)) 512 then
          { m with waits := false, present := max m.due (nowTick s t) } else m
        haltTick := if seqState s t = 4 then (tileOf s t).haltTick.map fun k => max k (nowTick s t) else (tileOf s t).haltTick } := by
  generalize hg : (fun l : List Mark => l.map fun m => if m.waits ∧ m.res = .bytes (512 * (a / 512)) 512 then
    { m with waits := false, present := max m.due (nowTick s t) } else m) = g
  have he : exec (.guardedLinePresent t a) s = .next (noteDelivered (modTile s t fun x => { x with marks := g x.marks }) t) := hg ▸ rfl
  have hs : seqState (modTile s t fun x => { x with marks := g x.marks }) t = seqState s t := rfl
  by_cases h4 : seqState s t = 4
  · have hn : noteDelivered (modTile s t fun x => { x with marks := g x.marks }) t =
        modTile s t fun x => { x with marks := g x.marks, haltTick := x.haltTick.map fun k => max k (nowTick s t) } := by
      rw [noteDelivered, hs, h4, nowTick_marks h4, modTile_modTile]
      exact if_pos rfl
    refine ⟨_, he.trans (congrArg Host.Outcome.next hn), tilesKept_modTile s t _, rfl, ?_⟩
    rw [tileOf_modTile_self, if_pos h4, ← hg]
  · have hn : noteDelivered (modTile s t fun x => { x with marks := g x.marks }) t = modTile s t fun x => { x with marks := g x.marks } := by
      rw [noteDelivered, hs, if_neg (by simpa using h4)]
    refine ⟨_, he.trans (congrArg Host.Outcome.next hn), tilesKept_modTile s t _, rfl, ?_⟩
    rw [tileOf_modTile_self, if_neg h4, ← hg]

/-- Settles O28: the lines of a transfer are under way from its issue on, and stand where they belong once its accesses have run. -/
theorem staticTransfers : Obligations.StaticTransfers := by
  unfold Obligations.StaticTransfers
  exact ⟨fun s t n da w dd doff k b hn hda ha hw hok hm hp hr => fill_fills b hn hda ha hw hok hm hp hr,
    fun s t n sa da w sd dd soff doff k hn hsa hda ha hb hw hv hoa hob hd hm hu hq hp hr =>
      copy_copies hn hsa hda ha hb hw hv hoa hob hd hm hu hq hp hr,
    fun s t n ma sa w r lat md sd moff soff k hn hma hsa ha hb hg hw hoa hob hlat hm hu hc hf hr =>
      ⟨fun hp hh => dload_loads hn hma hsa ha hb hg hw hoa hob hlat hm hu hc hf hr hp hh,
        fun hq => dstore_stores hn hma hsa ha hb hg hw hoa hob hlat hm hu hc hf hr hq⟩,
    fun s t n sa da st su dt du land sd dd soff doff k hn hsa hda ha hb hsu hdu hgs hgd hoa hob hone hm hu hland hroom hq hfar hr =>
      spass_passes hn hsa hda ha hb hsu hdu hgs hgd hoa hob hone hm hu hland hroom hq hfar hr,
    fun s t a => guardedLine_present s t a⟩

end Sys2Proof.Machine
end
